-- ==== Sys2Proof/Word.lean ====
section
/-! DEFINITION. The word types of the G9 and their plainest arithmetic (spec 00 R4, 05 R88). -/

namespace Sys2Proof

/-- A byte of memory. -/
abbrev Byte := BitVec 8

/-- A 32-bit instruction word, register or memory word. -/
abbrev Word := BitVec 32

/-- A 64-bit value: a register pair, a generic address, a literal. -/
abbrev DWord := BitVec 64

/-- Bits `hi` down to `lo` of a number, both included: the manual's x<hi:lo> (R4). -/
def bits (x hi lo : Nat) : Nat := (x >>> lo) % 2 ^ (hi + 1 - lo)

/-- Bit `n` of a number: the manual's x<n> (R4). -/
def bit (x n : Nat) : Bool := x.testBit n

end Sys2Proof
end

