-- ==== Sys2Proof/Machine/Bits.lean ====
section
/-! DEFINITION. Two's complement, byte order and list helpers used by every meaning (spec 00 R4, 06 R106). -/

namespace Sys2Proof

/-- The low `w` bits of `x` read as a two's-complement integer. -/
def signed (w x : Nat) : Int :=
  let y := x % 2 ^ w
  if 2 ^ (w - 1) ≤ y then (y : Int) - 2 ^ w else y

/-- An integer mod 2^w, as its bits. -/
def wrap (w : Nat) (x : Int) : Nat := (x % 2 ^ w).toNat

/-- The integer an I (signed) or N element of width `w` holds (R106). -/
def intOf (sgn : Bool) (w x : Nat) : Int := if sgn then signed w x else ((x % 2 ^ w : Nat) : Int)

/-- The lowest and highest integers of an element format (R106). -/
def intLow (sgn : Bool) (w : Nat) : Int := if sgn then -(2 ^ (w - 1)) else 0
def intHigh (sgn : Bool) (w : Nat) : Int := if sgn then 2 ^ (w - 1) - 1 else 2 ^ w - 1

/-- The nearest integer within bounds. -/
def clampInt (x lo hi : Int) : Int := if x < lo then lo else if hi < x then hi else x

/-- Element `k` of a packed value with `w`-bit elements (R106). -/
def elem (w x k : Nat) : Nat := (x >>> (w * k)) % 2 ^ w

/-- A packed value from its elements, element 0 lowest. -/
def packElems (w : Nat) : List Nat → Nat
  | [] => 0
  | x :: xs => x % 2 ^ w + 2 ^ w * packElems w xs

/-- The value of bytes in little-endian order (R4). -/
def leNat : List Byte → Nat
  | [] => 0
  | b :: bs => b.toNat + 256 * leNat bs

/-- The `n` low bytes of `x`, little-endian (R4). -/
def leBytes : Nat → Nat → List Byte
  | 0, _ => []
  | n + 1, x => BitVec.ofNat 8 x :: leBytes n (x / 256)

/-- Bits <hi:lo> of `x` replaced by the low bits of `v`. -/
def setBits (x hi lo v : Nat) : Nat :=
  let w := hi + 1 - lo
  x - (bits x hi lo) * 2 ^ lo + (v % 2 ^ w) * 2 ^ lo

/-- The number of one bits among the low `n` of `x`. -/
def popcount (x : Nat) : Nat → Nat
  | 0 => 0
  | n + 1 => popcount x n + (if x.testBit n then 1 else 0)

/-- The low `n` bits of `x` in reverse order. -/
def reverseBits (x : Nat) : Nat → Nat
  | 0 => 0
  | n + 1 => (if x.testBit 0 then 2 ^ n else 0) + reverseBits (x >>> 1) n

/-- Indices below `n` whose bit of `x` is set, ascending. -/
def bitList (x n : Nat) : List Nat := (List.range n).filter fun i => x.testBit i

/-- The mask with the listed bits set. -/
def maskOf (l : List Nat) : Nat := l.foldl (fun m i => m ||| 2 ^ i) 0

/-- ⌈a / b⌉. -/
def ceilDiv (a b : Nat) : Nat := (a + b - 1) / b

/-- 64-bit and 32-bit addition of addresses wraps. -/
def add64 (a : Nat) (b : Int) : Nat := wrap 64 ((a : Int) + b)

/-- A list with its `n`-th entry changed. -/
def updateAt {α : Type} (f : α → α) : List α → Nat → List α
  | [], _ => []
  | x :: xs, 0 => f x :: xs
  | x :: xs, n + 1 => x :: updateAt f xs n

end Sys2Proof
end

