-- ==== Sys2Proof/Syntax.lean ====
section
/-! DEFINITION. The syntax of the G9: the decoded fields of an instruction, the arguments of the device's own
steps, and the one inductive of all rows of the opcode table. -/

namespace Sys2Proof

/-- The four instruction forms of LEN (R53). -/
inductive Form where
  | base | lit | ext | extLit
  deriving DecidableEq, Repr, Inhabited

/-- The format tags of R89, which are also the FT codes. -/
inductive Tag where
  | raw | i32 | n32 | i64 | n64 | f32 | f64 | f16x2 | bf16x2 | e4m3x4 | e5m2x4 | e2m1x8
  | i8x4 | n8x4 | i4x8 | e8m0x4 | i16x2 | n16x2 | addr | handle | pred32
  deriving DecidableEq, Repr, Inhabited

/-- The decoded fields of an instruction, by the manual's names (R54, R56, R60, R61). A base form has the
word 1 and word 2 fields zero; a form without literal has `literal` zero. `mod` bit i is MOD<57 + i>. -/
structure Enc where
  form : Form := .base
  q : BitVec 2 := 0
  wb : Bool := false
  wa : Bool := false
  b : BitVec 6 := 0
  a : BitVec 6 := 0
  d : BitVec 6 := 0
  mod : BitVec 7 := 0
  cp : BitVec 2 := 0
  ft : BitVec 5 := 0
  rm : BitVec 3 := 0
  wc : Bool := false
  c : BitVec 6 := 0
  gn : Bool := false
  gp : BitVec 7 := 0
  w2 : Word := 0
  literal : DWord := 0
  deriving DecidableEq, Repr, Inhabited

/-- A host write to the host command queue's configuration (R268). -/
inductive QueueWrite where
  | qbase (v : DWord)
  | word08 (v : Word)
  deriving DecidableEq, Repr

/-- The three rings of a partition (R348, R350, R351). -/
inductive Ring where
  | fault | hypervisor | dirty
  deriving DecidableEq, Repr

/-- The targets of an invalidation (R353). -/
inductive InvTarget where
  | core (b : Nat)
  | die (c : Nat)
  | copyEngine (b : Nat)
  | geyser (u : Nat)
  | commandProcessor
  | nearMemory
  deriving DecidableEq, Repr

/-- What another participant of a collective issued: its descriptor fields and its SEND bytes (R312). -/
structure PeerPart where
  rank : Nat
  op : Nat
  rop : Nat
  fmt : Nat
  count : Nat
  lowexp : Int
  root : Nat
  data : List Byte
  deriving DecidableEq, Repr

/-- How a boot ends (R450, R451): READY, or FAILED with its BOOTERR. -/
inductive BootResult where
  | ready
  | failed (err : BitVec 8)
  deriving DecidableEq, Repr

/-- One core's readings of an arbiter interval (R23, R373). -/
structure RailReading where
  core : Nat
  milliamps : Nat
  microjoules : Nat
  deriving DecidableEq, Repr

/-- The body of an inbound UALink request (R447). -/
inductive FabricBody where
  | read (len : Nat)
  | write (data : List Byte)
  | other
  deriving DecidableEq, Repr

/-- An inbound UALink request: tags, window offset and body (R447 to R449). -/
structure FabricRequest where
  src : BitVec 16
  dst : BitVec 16
  off : Nat
  body : FabricBody
  deriving DecidableEq, Repr

/-- Where a soft error strikes (R187, R382, R387). -/
inductive ErrorSite where
  | memSector (sector : Nat)
  | spadSector (core sector : Nat)
  | tasSector (core sector : Nat)
  | crewFile (core slot : Nat)
  | datapath (core slot : Nat) (lanes : Word)
  | handleTable (core : Nat)
  | caldera (core index : Nat)
  deriving DecidableEq, Repr

/-- One constructor for each row of the opcode table. -/
inductive Instr where
  /-- IADD (R132). Adds A and B per element, wrapping or saturating, and writes D tagged with the format. -/
  | iadd (o : Enc)
  /-- ISUB (R132). Subtracts B from A per element, wrapping or saturating. -/
  | isub (o : Enc)
  /-- IADC (R133). Adds A, B and a carry-in predicate, writing D and a carry-out predicate. -/
  | iadc (o : Enc)
  /-- ISBB (R133). Subtracts B and a borrow-in predicate from A, writing D and a borrow-out predicate. -/
  | isbb (o : Enc)
  /-- IMUL (R134). Writes the low w bits of A times B. -/
  | imul (o : Enc)
  /-- IMULH (R134). Writes the upper w bits of the exact 2w-bit product of A and B. -/
  | imulh (o : Enc)
  /-- IMAD (R134). Writes (A times B plus C) mod 2^w, C taken from D in base form. -/
  | imad (o : Enc)
  /-- IDIV (R134). Writes the quotient of A by B rounded toward zero, with defined results for zero and overflow. -/
  | idiv (o : Enc)
  /-- IREM (R134). Writes the remainder of A by B with the sign of A. -/
  | irem (o : Enc)
  /-- IMIN (R132). Writes the per-element minimum of A and B. -/
  | imin (o : Enc)
  /-- IMAX (R132). Writes the per-element maximum of A and B. -/
  | imax (o : Enc)
  /-- IABS (R132). Writes the per-element absolute value of A, wrapping or saturating. -/
  | iabs (o : Enc)
  /-- INEG (R132). Writes the per-element negation of A, wrapping or saturating. -/
  | ineg (o : Enc)
  /-- AND (R135). Writes the bitwise and of A and B. -/
  | andL (o : Enc)
  /-- OR (R135). Writes the bitwise or of A and B. -/
  | orL (o : Enc)
  /-- XOR (R135). Writes the bitwise exclusive or of A and B. -/
  | xorL (o : Enc)
  /-- ANDN (R135). Writes A and not B. -/
  | andn (o : Enc)
  /-- NOT (R135). Writes the bitwise complement of A. -/
  | notL (o : Enc)
  /-- SHL (R135). Shifts A left with zero fill by the count in B. -/
  | shl (o : Enc)
  /-- SHR (R135). Shifts A right with zero fill by the count in B. -/
  | shr (o : Enc)
  /-- SAR (R135). Shifts A right with copies of its top bit by the count in B. -/
  | sar (o : Enc)
  /-- ROTL (R135). Rotates A left by B mod w. -/
  | rotl (o : Enc)
  /-- BFX (R135). Extracts a bit field of A at position and length from B, zero- or sign-extended. -/
  | bfx (o : Enc)
  /-- BFI (R135). Inserts the low bits of A into C at the field given by B. -/
  | bfi (o : Enc)
  /-- POPC (R135). Writes the count of one bits of A, tagged N32. -/
  | popc (o : Enc)
  /-- CLZ (R135). Writes the count of leading zero bits of A, tagged N32. -/
  | clz (o : Enc)
  /-- BREV (R135). Reverses the w bits of A. -/
  | brev (o : Enc)
  /-- SEL (R136). Writes A if the selector C (or predicate PE) is non-zero, else B. -/
  | sel (o : Enc)
  /-- MOV (R136). Copies A to D under the tag rules for MOV and MOV.rt. -/
  | mov (o : Enc)
  /-- MOVL (R136). Writes a 64-bit literal to the pair D with the format tag. -/
  | movl (o : Enc)
  /-- LEA (R137). Writes A plus B shifted by K plus a displacement as an ADDR without checks. -/
  | lea (o : Enc)
  /-- ICMP (R138). Compares integers and writes, optionally combined, one or two predicates. -/
  | icmp (o : Enc)
  /-- PAND (R139). Writes the and of two optionally negated predicates. -/
  | pand (o : Enc)
  /-- POR (R139). Writes the or of two optionally negated predicates. -/
  | por (o : Enc)
  /-- PXOR (R139). Writes the exclusive or of two optionally negated predicates. -/
  | pxor (o : Enc)
  /-- PNOT (R139). Writes the complement of a predicate. -/
  | pnot (o : Enc)
  /-- PMOV (R139). Copies a predicate. -/
  | pmov (o : Enc)
  /-- PPACK (R140). Packs 32 consecutive predicates into a PRED32 register. -/
  | ppack (o : Enc)
  /-- PUNPK (R140). Sets 32 consecutive predicates from the bits of A. -/
  | punpk (o : Enc)
  /-- FADD (R142). Adds floating-point A and B and rounds once. -/
  | fadd (o : Enc)
  /-- FSUB (R142). Subtracts floating-point B from A and rounds once. -/
  | fsub (o : Enc)
  /-- FMUL (R142). Multiplies A and B in the selected accuracy class and rounds once. -/
  | fmul (o : Enc)
  /-- FFMA (R142). Forms the class product of A and B plus C exactly and rounds once. -/
  | ffma (o : Enc)
  /-- FMIN (R143). Writes minimumNumber, or NaN-propagating minimum, of A and B. -/
  | fmin (o : Enc)
  /-- FMAX (R143). Writes maximumNumber, or NaN-propagating maximum, of A and B. -/
  | fmax (o : Enc)
  /-- FABS (R144). Clears the sign bit of each element. -/
  | fabs (o : Enc)
  /-- FNEG (R144). Inverts the sign bit of each element. -/
  | fneg (o : Enc)
  /-- FCMP (R145). Compares floating-point values and writes predicates as ICMP does. -/
  | fcmp (o : Enc)
  /-- FCLASS (R144). Writes a one-hot class mask for each element. -/
  | fclass (o : Enc)
  /-- FDIV (R146). Divides A by B in exact or log class and rounds once. -/
  | fdiv (o : Enc)
  /-- FRCP (R146). Writes the reciprocal of A in exact or log class. -/
  | frcp (o : Enc)
  /-- FSQRT (R146). Writes the square root of A in exact or log class. -/
  | fsqrt (o : Enc)
  /-- FRSQ (R146). Writes the reciprocal square root of A in exact or log class. -/
  | frsq (o : Enc)
  /-- FEXP2 (R146). Writes 2 to the power A in exact or log class. -/
  | fexp2 (o : Enc)
  /-- FLOG2 (R146). Writes the base-2 logarithm of A in exact or log class. -/
  | flog2 (o : Enc)
  /-- FSCALB (R147). Writes each element times 2^B, rounded once. -/
  | fscalb (o : Enc)
  /-- CVT (R150). Converts A from its source format to the destination format with one rounding. -/
  | cvt (o : Enc)
  /-- CVTS (R150). Converts A times 2^B to the destination format with one rounding. -/
  | cvts (o : Enc)
  /-- PACK (R151). Rounds A and B into one element pair of D, keeping the other elements. -/
  | pack (o : Enc)
  /-- UNPK (R152). Widens one element of A exactly to F32, I32 or N32. -/
  | unpk (o : Enc)
  /-- QNT (R151). Scales A and B by an E8M0 code and rounds them into one element pair of D. -/
  | qnt (o : Enc)
  /-- DEQ (R152). Writes one element of A times an E8M0 scale as F32. -/
  | deq (o : Enc)
  /-- DOT2 (R153). Forms C plus a two-element dot product exactly and rounds once. -/
  | dot2 (o : Enc)
  /-- DOT4 (R153). Forms C plus a four-element dot product exactly and rounds once. -/
  | dot4 (o : Enc)
  /-- DOT8 (R153). Forms C plus an eight-element dot product exactly and rounds once. -/
  | dot8 (o : Enc)
  /-- RNG (R154). Writes kmix of key A, counter B and stream, tagged N32. -/
  | rng (o : Enc)
  /-- RNGU (R154). Writes a uniform F32 in [0, 1) from kmix. -/
  | rngu (o : Enc)
  /-- RMASK (R155). Writes a 32-bit keep mask from kmix compared with threshold C. -/
  | rmask (o : Enc)
  /-- VOTE (R163). Joins a cross-lane instance and writes a ballot or an all, any or uniform predicate. -/
  | vote (o : Enc)
  /-- SHFL (R164). Joins a cross-lane instance and reads A from a source lane chosen by the selector. -/
  | shfl (o : Enc)
  /-- REDL (R165). Reduces A over the member set in a tree fixed by lane position. -/
  | redl (o : Enc)
  /-- SCANL (R166). Writes the inclusive or exclusive prefix combination of A over the member set. -/
  | scanl (o : Enc)
  /-- ELECT (R167). Writes 1 in the lowest-indexed member and 0 in the other contributors. -/
  | elect (o : Enc)
  /-- MATCH (R167). Writes the mask of members whose A has the same bits, and an all-equal predicate. -/
  | matchL (o : Enc)
  /-- BRA (R329). Moves the PC of each guarded-true lane by a signed offset. -/
  | bra (o : Enc)
  /-- BRX (R330). Sets each guarded-true lane's PC to its register pair. -/
  | brx (o : Enc)
  /-- CALL (R329). Writes the return address to the link pair and branches by an offset. -/
  | call (o : Enc)
  /-- RET (R330). Sets the PC to the link pair and pops the return predictor. -/
  | ret (o : Enc)
  /-- JOIN (R331). Waits at a reconvergence instance until every named lane arrives or exits. -/
  | join (o : Enc)
  /-- EXIT (R332). Ends each guarded-true lane, or delivers a pending failure instead. -/
  | exit (o : Enc)
  /-- YIELD (R333). Is a switch point in deterministic mode and otherwise defers the lanes for four slots. -/
  | yield (o : Enc)
  /-- TRAP (R334). Traps USER_TRAP with the code in TINFO. -/
  | trap (o : Enc)
  /-- NOP (R334). Does nothing. -/
  | nop (o : Enc)
  /-- REGION_EXACT (R335). Sets the lane's region mode to exact. -/
  | regionExact (o : Enc)
  /-- REGION_CHECKED (R335). Sets the lane's region mode to checked. -/
  | regionChecked (o : Enc)
  /-- REGION_TOLERANT (R335). Sets the lane's region mode to tolerant, or traps TOLERANT_IN_DET in deterministic mode. -/
  | regionTolerant (o : Enc)
  /-- IDEM (R336). Opens a new idempotent region at the next instruction. -/
  | idem (o : Enc)
  /-- IDEM_END (R336). Closes the idempotent region by setting REGIONPC to 0. -/
  | idemEnd (o : Enc)
  /-- WAITH (R338). Waits for a handle's operation to end, acquires and writes its completion word or delivers its failure. -/
  | waith (o : Enc)
  /-- TESTH (R339). Writes whether a handle's operation has ended, or delivers its failure. -/
  | testh (o : Enc)
  /-- CANCH (R340). Starts the cancel of a running operation or frees an ended handle's slot. -/
  | canch (o : Enc)
  /-- HTAG (R341). Re-tags a value as HANDLE after checking it against the handle table. -/
  | htag (o : Enc)
  /-- LD (R211). Steers and checks an address and issues a load that fills D when data return. -/
  | ld (o : Enc)
  /-- ST (R212). Steers and checks an address and performs a store of B. -/
  | st (o : Enc)
  /-- ATOM (R216). Performs an indivisible read-modify-write at the point of performance and returns the old value. -/
  | atom (o : Enc)
  /-- RED (R216). Performs an indivisible reduction at memory with no return value. -/
  | red (o : Enc)
  /-- FENCE_ACQ (R218). Waits for earlier loads and acquires. -/
  | fenceAcq (o : Enc)
  /-- FENCE_REL (R218). Holds later stores, releases and engine issues behind the release conditions. -/
  | fenceRel (o : Enc)
  /-- FENCE_AR (R218). Acts as both fences and holds later loads until earlier stores are registered. -/
  | fenceAr (o : Enc)
  /-- STT (R220). Stores one value into a plain tile and its transposed copy. -/
  | stt (o : Enc)
  /-- PRES_TEST (R221). Writes whether a scratchpad line is present. -/
  | presTest (o : Enc)
  /-- PRES_WAIT (R221). Waits until a scratchpad line's pending count is zero. -/
  | presWait (o : Enc)
  /-- PRES_CLEAR (R221). Raises a scratchpad line's pending count by one. -/
  | presClear (o : Enc)
  /-- PRES_SET (R221). Lowers a scratchpad line's pending count by one after earlier stores to it. -/
  | presSet (o : Enc)
  /-- PREF (R222). Brings a global line into L2 and the private cache, never trapping after decode. -/
  | pref (o : Enc)
  /-- CINV (R223). Invalidates one line of the core's private cache. -/
  | cinv (o : Enc)
  /-- CINV_ALL (R223). Invalidates every line of the core's private cache. -/
  | cinvAll (o : Enc)
  /-- BCFG_SP (R224). Changes a team bank to scratchpad mode. -/
  | bcfgSp (o : Enc)
  /-- BCFG_CACHE (R224). Changes a team bank to cache mode. -/
  | bcfgCache (o : Enc)
  /-- BCFG_FIFO (R224). Changes a team bank to FIFO mode. -/
  | bcfgFifo (o : Enc)
  /-- QPUSH (R226). Releases and pushes an entry into a FIFO bank, waiting while it is full. -/
  | qpush (o : Enc)
  /-- QPOP (R226). Takes the oldest entry from a FIFO bank and acquires, waiting while it is empty. -/
  | qpop (o : Enc)
  /-- MMA (R257). Checks tiles and enters a dense matrix multiply-accumulate into the array queues of its span. -/
  | mma (o : Enc)
  /-- MMAS (R257). Checks tiles and enters a structured-sparse matrix multiply-accumulate into the array queues. -/
  | mmas (o : Enc)
  /-- QBLK (R259). Queues the quantisation of a tile into row- and column-blocked copies with one scale. -/
  | qblk (o : Enc)
  /-- RQNT (R260). Queues the re-quantisation of two quantised copies under a new scale. -/
  | rqnt (o : Enc)
  /-- BPLN (R261). Queues the conversion of a tile into bit-plane records. -/
  | bpln (o : Enc)
  /-- TLD (R262). Queues a load of TAS blocks from a memory tile, by value or raw. -/
  | tld (o : Enc)
  /-- TST (R263). Queues a raw store of TAS blocks to a memory tile. -/
  | tst (o : Enc)
  /-- TSCL (R264). Queues an exact shift of the block exponents of a TAS tile. -/
  | tscl (o : Enc)
  /-- TZERO (R264). Queues the reset of every touched block of a TAS tile. -/
  | tzero (o : Enc)
  /-- TDRN (R265). Queues the drain of a TAS tile to memory by store, add or update, rounding once. -/
  | tdrn (o : Enc)
  /-- TMOVE (R264). Queues a copy or add of one TAS tile into another. -/
  | tmove (o : Enc)
  /-- TCHK (R258). Waits for the latest MMA into a tile and writes its guard record. -/
  | tchk (o : Enc)
  /-- CPYK (R297). Reads and checks a copy request, releases, and starts a copy with a handle. -/
  | cpyk (o : Enc)
  /-- CPYREL (R299). Records a member's release of a looping copy's stage, possibly issuing the next iteration. -/
  | cpyrel (o : Enc)
  /-- CPYQ (R300). Writes the performed prefix or first fault address of a copy. -/
  | cpyq (o : Enc)
  /-- PKL (R304). Issues a product-key lookup to a Geyser unit. -/
  | pkl (o : Enc)
  /-- PKLB (R306). Issues a Geyser gradient scatter into the value table under stochastic rounding. -/
  | pklb (o : Enc)
  /-- NMC (R308). Reads a near-memory block, translates its range and issues the command to the home die. -/
  | nmc (o : Enc)
  /-- NMF (R311). Waits for the crew's earlier near-memory work, acquires and delivers a pending failure. -/
  | nmf (o : Enc)
  /-- COLL (R312). Reads a collective descriptor and joins collective m of its group. -/
  | coll (o : Enc)
  /-- SPAWN (R315). Applies the SPAWN event to a task of the graph and writes its status. -/
  | spawn (o : Enc)
  /-- BARI (R366). Rewrites a barrier object with a new EXPECT and zeroed fields. -/
  | bari (o : Enc)
  /-- BARA (R366). Releases and arrives on a barrier object, returning the phase. -/
  | bara (o : Enc)
  /-- BARX (R366). Adds expected bytes to a barrier object's PENDING. -/
  | barx (o : Enc)
  /-- BARW (R366). Waits until a barrier phase is complete and acquires. -/
  | barw (o : Enc)
  /-- BART (R366). Writes whether a barrier phase is complete, without acquiring. -/
  | bart (o : Enc)
  /-- DEPC (R368). Releases and applies one decrement to a task's dependence counter. -/
  | depc (o : Enc)
  /-- CLK (R369). Waits for earlier destinations and writes CYCLE. -/
  | clk (o : Enc)
  /-- SREAD (R98). Reads a special register into D. -/
  | sread (o : Enc)
  /-- SWRITE (R98). Writes a special register from A after RSVD and privilege checks. -/
  | swrite (o : Enc)
  /-- RETT (R381). Returns from a trap handler to TPC and the saved region mode. -/
  | rett (o : Enc)
  /-- RETT_KILL (R381). Ends a trap handler by killing the team. -/
  | rettKill (o : Enc)
  /-- TLBI_VA (R359). Invalidates first-stage and combined entries for one page of the partition. -/
  | tlbiVa (o : Enc)
  /-- TLBI_ALL (R359). Invalidates the partition's whole first stage. -/
  | tlbiAll (o : Enc)
  /-- TLBI_GPA (R359). Invalidates second-stage entries for one GPA page of a partition. -/
  | tlbiGpa (o : Enc)
  /-- TLBI_GALL (R359). Invalidates a partition's whole second stage. -/
  | tlbiGall (o : Enc)
  /-- DHALT (R399). Marks every live lane of a crew slot to halt. -/
  | dhalt (o : Enc)
  /-- DSTEP (R399). Issues one bundle from halted lanes and halts them again. -/
  | dstep (o : Enc)
  /-- DRUN (R399). Makes halted lanes runnable and clears their marks. -/
  | drun (o : Enc)
  /-- DBP (R397). Sets a PC breakpoint. -/
  | dbp (o : Enc)
  /-- DBP_CLR (R397). Clears a PC breakpoint. -/
  | dbpClr (o : Enc)
  /-- DWP (R397). Sets a scratchpad watchpoint on a team's bank. -/
  | dwp (o : Enc)
  /-- DWP_CLR (R397). Clears a scratchpad watchpoint. -/
  | dwpClr (o : Enc)
  /-- DREAD (R398). Reads state of a halted lane, the event queue or the physical core view. -/
  | dread (o : Enc)
  /-- DWRITE (R398). Writes state of a halted lane. -/
  | dwrite (o : Enc)
  /-- DMBX_SEND (R400). Appends a message to the device-to-host queue. -/
  | dmbxSend (o : Enc)
  /-- DMBX_RECV (R400). Takes the oldest host-to-device message, waiting while the queue is empty. -/
  | dmbxRecv (o : Enc)
  /-- BKPT (R395). Raises a breakpoint event, or traps BREAKPOINT without a debug crew. -/
  | bkpt (o : Enc)
  /-- ILLEGAL_OPCODE (R82). An instruction word whose OPC is unassigned is issued, and every active lane traps ILLEGAL_OPCODE. -/
  | illegalOpcode (opc : BitVec 8)
  /-- INSTRUCTION_FETCH_FAULT (R325). The fetch of a lane's next instruction faults or leaves the global window, so the lane parks or traps APERTURE before any opcode is known. -/
  | instructionFetchFault (va : DWord)
  /-- EVACUATE_COMPLETE (R388). After about 7 ms the copy of scratchpad, TAS and Caldera contexts to HBM4 ends, the slot is freed and the phase becomes EVACUATED. -/
  | evacuateComplete (p : Nat)
  /-- RESTORE_COMPLETE (R388). The load of an evacuated image onto the cores the MP chose ends, so RESUME can proceed. -/
  | restoreComplete (p : Nat) (cores : List Nat)
  /-- DEBUG_RECORD_APPEND (R396). A waiting event record is appended to the core's event queue when room exists. -/
  | debugRecordAppend (core : Nat)
  /-- QUEUE_CONFIG_WRITE (R268). A write of QBASE or LOG2N is judged against EN and taken or discarded with CFGERR. -/
  | queueConfigWrite (fn : Nat) (w : QueueWrite)
  /-- QUEUE_ENABLE (R268). Writing EN from 0 to 1 enables the host command queue and zeroes HEAD and TAIL. -/
  | queueEnable (fn : Nat) (v : Word)
  /-- QUEUE_DISABLE (R268). Writing EN to 0 stops the queue taking entries and ends a SYNC wait with STOPPED. -/
  | queueDisable (fn : Nat) (v : Word)
  /-- TAIL_DOORBELL (R269). A TAIL write is judged against the ring and makes entries pending or is discarded. -/
  | tailDoorbell (fn : Nat) (v : Word)
  /-- ENTRY_FETCH (R268). The device reads the entry that reaches HEAD in full and starts its command. -/
  | entryFetch (fn : Nat)
  /-- GRAPH_LOAD (R272). Checks an Idfel image, frees the slot, allocates tasks and patch blocks, copies headers and images. -/
  | graphLoad (fn : Nat)
  /-- GRAPH_RUN (R274). Writes patch values and resets every task of a loaded graph to start a run. -/
  | graphRun (fn : Nat)
  /-- HOST_COPY (R275). Copies bytes between global virtual addresses of the partition. -/
  | hostCopy (fn : Nat)
  /-- SYNC_SIGNAL (R276). Writes VALUE to ADDR as a release. -/
  | syncSignal (fn : Nat)
  /-- SYNC_WAIT (R276). Starts reading ADDR at L2 as an acquire until it reaches VALUE. -/
  | syncWait (fn : Nat)
  /-- SYNC_WAIT_SATISFIED (R276). A read finds the word at least VALUE and the WAIT completes OK. -/
  | syncWaitSatisfied (fn : Nat)
  /-- COMMAND_COMPLETION (R268). The device writes DETAIL, results and STATUS, then advances HEAD and raises the IRQ if asked. -/
  | commandCompletion (fn : Nat)
  /-- RUN_END (R279). With no task RUNNING, waiting tasks become SKIPPED and GRAPH_RUN completes. -/
  | runEnd (p : Nat)
  /-- CHUNK_APPEND (R280). The command processor appends a RUNNING launch's chunks to the work queue as room allows. -/
  | chunkAppend (p : Nat) (urgent : Bool)
  /-- DISPATCH_PULL (R281). A die's dispatcher takes the chunk at the queue head in a calendar slot and places gangs. -/
  | dispatchPull (die p : Nat) (urgent : Bool)
  /-- TEAM_RETIRE (R40). A team whose threads, handles and copies are all done retires and frees its room. -/
  | teamRetire (core team : Nat)
  /-- LAUNCH_COMPLETE (R42). After all teams retire the command processor writes the record, releases and decrements successors. -/
  | launchComplete (p launch : Nat)
  /-- PC_TABLE_SORT (R318). Every 4 cycles the crew's PC table is sorted again by PC and lane. -/
  | pcTableSort (core slot : Nat)
  /-- THROTTLE_SCORE_DECAY (R323). Every 256 cycles the throttle score falls by 1. -/
  | throttleScoreDecay (core : Nat)
  /-- LONG_LATENCY_FILL (R91). A long-latency producer writes value, tag and full together and wakes waiting lanes. -/
  | longLatencyFill (core id : Nat)
  /-- RENDEZVOUS_DEADLOCK (R160). Within 512 cycles of all live lanes waiting at rendezvous, each traps. -/
  | rendezvousDeadlock (core slot : Nat)
  /-- STORE_REGISTRATION (R182). A write-through arrives at its home slice and is registered, updating the ownership record. -/
  | storeRegistration (core id : Nat)
  /-- REVOKE (R182). A revoke reaches the owning core, which clears the line's owned bits. -/
  | revoke (core line : Nat)
  /-- BANK_MODE_CHANGE (R176). A bank's mode change completes after drains and write-throughs end. -/
  | bankModeChange (core bank : Nat)
  /-- MMA_START (R232). An MMA oldest in every queue with idle arrays claims them and slaves followers. -/
  | mmaStart (id : Nat)
  /-- MMA_RAIL_READY (R239). Every spanned rail reaches the attempt's voltage and fetch begins. -/
  | mmaRailReady (id : Nat)
  /-- MMA_OPERANDS_DELIVERED (R239). Operands are delivered, the anchor is fixed and compute begins. -/
  | mmaOperandsDelivered (id : Nat)
  /-- MMA_LAST_STEP (R239). The last compute step ends and the MMA goes to check, or to add in log class. -/
  | mmaLastStep (id : Nat)
  /-- MMA_CHECK_DONE (R238). The checksum guard judges each block pass, located or fail. -/
  | mmaCheckDone (id : Nat)
  /-- MMA_CORRECT_DONE (R238). Located elements are recomputed on the guarded unit and corrections counted. -/
  | mmaCorrectDone (id : Nat)
  /-- MMA_ADD_DONE (R239). Every member's TAS adds complete, the MMA retires and its handle completes. -/
  | mmaAddDone (id : Nat)
  /-- RAIL_TUNER_STEP (R243). At the end of a window of 2^16 retirements the tuner steps the rail. -/
  | railTunerStep (core : Nat)
  /-- LOG_RAIL_RETURN (R242). After 256 idle cycles a raised rail returns to the tuner voltage. -/
  | logRailReturn (core : Nat)
  /-- TILE_PATH_START (R251). A tile-path entry oldest in its queue starts on the tile path. -/
  | tilePathStart (core : Nat)
  /-- TILE_PATH_END (R253). A tile-path instruction ends and its handle completes with an outcome. -/
  | tilePathEnd (core : Nat)
  /-- COPY_WRITE (R201). Copied bytes are performed at a destination, lowering pending counts. -/
  | copyWrite (core id dest n : Nat)
  /-- COPY_COMPLETE (R298). After every destination completes, the dependence decrement is made and the handle completes. -/
  | copyComplete (core id : Nat)
  /-- PKL_COMPLETE (R304). A Geyser lookup finishes its queries and its handle completes. -/
  | pklComplete (core id n : Nat)
  /-- PKLB_COMPLETE (R306). A Geyser scatter finishes its granules and its handle completes. -/
  | pklbComplete (core id n : Nat)
  /-- NM_ADD (R309). The home die takes an NM_ADD command and reads its whole source. -/
  | nmAdd (core id : Nat)
  /-- NM_SGD (R309). The home die takes an NM_SGD command and reads its whole source. -/
  | nmSgd (core id : Nat)
  /-- NM_SCALE (R309). The home die takes an NM_SCALE command. -/
  | nmScale (core id : Nat)
  /-- NM_ZERO (R309). The home die takes an NM_ZERO command. -/
  | nmZero (core id : Nat)
  /-- NM_GRANULE (R309). One 256-byte granule is processed indivisibly or skipped as poisoned. -/
  | nmGranule (core id g : Nat)
  /-- NMC_COMPLETE (R309). The near-memory record is written and the handle completes. -/
  | nmcComplete (core id : Nat)
  /-- ALLREDUCE (R312). A collective allreduce forms once every member has issued it. -/
  | allreduce (core id : Nat) (peers : List PeerPart)
  /-- REDUCE_SCATTER (R312). A collective reduce-scatter forms once every member has issued it. -/
  | reduceScatter (core id : Nat) (peers : List PeerPart)
  /-- ALLGATHER (R312). A collective allgather forms once every member has issued it. -/
  | allgather (core id : Nat) (peers : List PeerPart)
  /-- BROADCAST (R312). A collective broadcast forms once every member has issued it. -/
  | broadcast (core id : Nat) (peers : List PeerPart)
  /-- COLL_CHUNK (R314). A 4 KiB chunk arrives and its checksum is checked, resent on mismatch. -/
  | collChunk (core id chunk : Nat) (good : Bool)
  /-- COLL_COMPLETE (R203). A collective completes for a participant, releasing and acquiring its named buffers. -/
  | collComplete (core id : Nat)
  /-- BARW_RECHECK (R367). Every 1,024 cycles a waiting BARW reads PHASE again. -/
  | barwRecheck (core slot lane : Nat)
  /-- WALK_START (R347). A TLB miss takes a walker of the partition's quota and starts a walk. -/
  | walkStart (core miss : Nat)
  /-- WALK_READ (R347). A table entry read returns and the walk moves a level, faults or fills. -/
  | walkRead (die id : Nat) (cached : Bool)
  /-- WALK_UPDATE (R344). A compare-and-swap that sets an A or D bit completes or restarts the walk. -/
  | walkUpdate (die id : Nat)
  /-- RESUME_RETRY (R349). A RESUME write resolves a fault so its lanes and engines retry. -/
  | resumeRetry (p : Nat) (ring : Ring) (rid : Word)
  /-- RESUME_FATAL (R349). A RESUME write with bit 63 resolves a fault as fatal. -/
  | resumeFatal (p : Nat) (ring : Ring) (rid : Word)
  /-- RING_HEAD_WRITE (R350). A HEAD write frees ring entries and restarts faults or walks waiting for room. -/
  | ringHeadWrite (p : Nat) (ring : Ring) (v : Word)
  /-- INVALIDATE_PAGE (R352). A KIND 0 write starts an invalidation of one page. -/
  | invalidatePage (p : Nat) (stage2 : Bool)
  /-- INVALIDATE_STAGE (R352). A KIND 1 write starts an invalidation of a whole stage. -/
  | invalidateStage (p : Nat) (stage2 : Bool)
  /-- INVALIDATION_SEND (R353). The MP sends a queued invalidation to every directory target. -/
  | invalidationSend (p : Nat)
  /-- INVALIDATION_ACK (R353). A target acknowledges; the last one completes the invalidation. -/
  | invalidationAck (p : Nat) (target : InvTarget)
  /-- INVALIDATION_TIMEOUT (R353). After 2 µs an unacknowledging core is quarantined and the request completes. -/
  | invalidationTimeout (p : Nat)
  /-- UNIFIED_MIGRATION (R355). The MP migrates a unified page and resolves its parked faults. -/
  | unifiedMigration (p : Nat) (gpa : Nat) (placed : Bool)
  /-- PT_WRITE (R442). Writes bytes of a partition-table entry, subject to R357. -/
  | ptWrite
  /-- PT_READ (R442). Returns partition-table entry bytes in the response area. -/
  | ptRead
  /-- SUSPEND (R388). Stops placement and commands and halts every crew of the partition. -/
  | suspend
  /-- SUSPEND_HALTED (R389). Once every core is halted the contexts are saved to Caldera. -/
  | suspendHalted (p : Nat)
  /-- CONTEXT_SAVED (R388). The contexts are written and the partition is SAVED. -/
  | contextSaved (p : Nat)
  /-- EVACUATE (R388). Copies scratchpad, TAS and Caldera contexts to HBM4 and frees the slot. -/
  | evacuate
  /-- RESTORE (R388). Loads an evacuated image onto cores the MP chooses. -/
  | restore
  /-- RESUME (R388). Restores saved contexts and makes the partition ACTIVE. -/
  | resume
  /-- RESET (R390). Performs a partition reset through the mailbox. -/
  | reset
  /-- PARTITION_RESET_COMPLETE (R390). The reset's last step makes the partition ACTIVE again. -/
  | partitionResetComplete (p : Nat)
  /-- CORE_RESET (R391). Kills the teams of a core, scrubs it and returns it to service. -/
  | coreReset
  /-- LIMIT (R442). Sets the package power limit for the next arbiter interval. -/
  | limit
  /-- CALENDAR (R442). Writes half of a calendar table for one unit class. -/
  | calendar
  /-- UNIFIED_MAP (R455). Asks the MP to map a unified range to host backing. -/
  | unifiedMap
  /-- UNIFIED_MIGRATE (R455). Asks the MP to migrate a unified range to host or HBM4. -/
  | unifiedMigrate
  /-- UNIFIED_QUERY (R455). Returns the second-stage leaf of a unified page. -/
  | unifiedQuery
  /-- VF_FLR (R390). A function-level reset of a VF starts its partition reset. -/
  | vfFlr (p : Nat)
  /-- PF_FLR (R446). A function-level reset of the PF resets every partition and erases keys. -/
  | pfFlr
  /-- PACKAGE_RESET (R392). Fundamental reset or power-up resets everything and the MP boots to READY or FAILED. -/
  | packageReset (boot : BootResult) (sram : BitVec 4)
  /-- LOW_POWER_WAKE (R20). The host wakes the package from a low-power state over PCIe. -/
  | lowPowerWake
  /-- POWER_ARBITER_INTERVAL (R23). Every 10 µs the arbiter reads rail currents and divides the power budget. -/
  | powerArbiterInterval (currents : List RailReading)
  /-- CALENDAR_TAKE_EFFECT (R286). A new calendar table takes effect at a round boundary on every unit of its class. -/
  | calendarTakeEffect (cls : Nat)
  /-- TELEMETRY_CLEAR (R371). A PF write of CLEAR zeroes every counter of the telemetry page. -/
  | telemetryClear (p : Nat)
  /-- DBGEN_WRITE (R394). Setting DBGEN reserves slot 63 and starts debug crews; clearing it resumes halted lanes. -/
  | dbgenWrite (p : Nat) (v : Word)
  /-- H2D_WRITE (R393). An 8-byte write pushes one host-to-device message. -/
  | h2dWrite (p : Nat) (v : DWord)
  /-- H2D_STAGE_WRITE (R456). A 4-byte write at 0x10 places the low half in the staging word. -/
  | h2dStageWrite (p : Nat) (v : Word)
  /-- H2D_HIGH_WRITE (R456). A 4-byte write at 0x14 pushes a message from the staging word and the value. -/
  | h2dHighWrite (p : Nat) (v : Word)
  /-- D2H_READ (R393). An 8-byte read pops the oldest device-to-host message. -/
  | d2hRead (p : Nat)
  /-- D2H_HIGH_READ (R456). A 4-byte read at 0x1C returns the high half and pops the message. -/
  | d2hHighRead (p : Nat)
  /-- KEY_SET (R445). An SPDM request loads a data and tweak key into a partition's key ID. -/
  | keySet (p k : Nat) (key : BitVec 512)
  /-- KEY_CLEAR (R445). An SPDM request writes back L2 lines of a key ID and erases the key. -/
  | keyClear (p k : Nat)
  /-- SPDM_MEASUREMENT (R443). The MP answers an SPDM measurement request with signed die blocks. -/
  | spdmMeasurement (fn block : Nat)
  /-- TDISP_STOP (R446). STOP returns a TDI to CONFIG_UNLOCKED, resetting the partition and erasing keys. -/
  | tdispStop (p : Nat)
  /-- UALINK_INBOUND (R449). An inbound UALink request is tag-checked and reaches the export window or gets an error completion. -/
  | ualinkInbound (req : FabricRequest)
  /-- UALINK_COMPLETION (R449). A completion arrives and the sending copy counts its bytes as performed. -/
  | ualinkCompletion (core id : Nat) (ok : Bool) (data : List Byte)
  /-- REGISTER_WRITE (R5). A write to a memory-mapped register with no row of its own sets its fields by access code. -/
  | registerWrite (fn off size : Nat) (v : DWord)
  /-- UNCORRECTABLE_ERROR (R187). A soft error leaves storage or logic state uncorrectable, so the affected sector or state is marked poisoned. -/
  | uncorrectableError (e : ErrorSite)
  /-- FIRMWARE_UPDATE (R444). A firmware update advances the anti-rollback counter and the die-identity signing tree. -/
  | firmwareUpdate
  /-- TDI_CONFIG_LOCKED (R446). A TDISP request moves a VF's TDI from CONFIG_UNLOCKED to CONFIG_LOCKED, after which partition changes are answered LOCKED. -/
  | tdiConfigLocked (p : Nat)
  /-- TDI_RUN (R446). A TDISP request moves a locked TDI to RUN, after which BAR requests outside its IDE stream complete with UR. -/
  | tdiRun (p : Nat)
  /-- POWER_GATING (R346). A core is power-gated, which flushes its L1 TLB, and then acknowledges shoot-downs at once. -/
  | powerGating (core : Nat)
  /-- LOW_POWER_ENTRY (R20). The package enters the low-power state from which the host later wakes it over PCIe. -/
  | lowPowerEntry
  deriving DecidableEq, Repr

end Sys2Proof
end

