-- ==== Sys2Proof/Machine/Encoding.lean ====
section
/-! DEFINITION. The encoding tables of the manual: the opcode map (04 R82, R83), the special register map
(05 R95), and for every opcode the fields it uses, so that a word has exactly the fate R67 gives it. -/

namespace Sys2Proof

/-- The FT code of a tag (R89). -/
def Tag.code : Tag → Nat
  | .raw => 0x00 | .i32 => 0x01 | .n32 => 0x02 | .i64 => 0x03 | .n64 => 0x04 | .f32 => 0x05
  | .f64 => 0x06 | .f16x2 => 0x07 | .bf16x2 => 0x08 | .e4m3x4 => 0x09 | .e5m2x4 => 0x0A | .e2m1x8 => 0x0B
  | .i8x4 => 0x0C | .n8x4 => 0x0D | .i4x8 => 0x0E | .e8m0x4 => 0x0F | .i16x2 => 0x10 | .n16x2 => 0x11
  | .addr => 0x13 | .handle => 0x14 | .pred32 => 0x15

/-- Every tag, in code order. -/
def Tag.all : List Tag :=
  [.raw, .i32, .n32, .i64, .n64, .f32, .f64, .f16x2, .bf16x2, .e4m3x4, .e5m2x4, .e2m1x8, .i8x4, .n8x4,
   .i4x8, .e8m0x4, .i16x2, .n16x2, .addr, .handle, .pred32]

/-- The tag of an FT code; the reserved codes 0x12 and 0x16 to 0x1F have none (R58, R89). -/
def Tag.ofCode (n : Nat) : Option Tag := Tag.all.find? (fun t => t.code == n)

/-- Tags whose value is a register pair (R89). -/
def Tag.wide : Tag → Bool
  | .i64 | .n64 | .f64 | .addr => true
  | _ => false

/-- Elements of a packed tag; one for the others (R106). -/
def Tag.count : Tag → Nat
  | .f16x2 | .bf16x2 | .i16x2 | .n16x2 => 2
  | .e4m3x4 | .e5m2x4 | .i8x4 | .n8x4 | .e8m0x4 => 4
  | .e2m1x8 | .i4x8 => 8
  | _ => 1

/-- Integer element formats. -/
def Tag.isInt : Tag → Bool
  | .i32 | .n32 | .i64 | .n64 | .i8x4 | .n8x4 | .i4x8 | .i16x2 | .n16x2 => true
  | _ => false

/-- Signed integer element formats: the I formats (R106). -/
def Tag.isSigned : Tag → Bool
  | .i32 | .i64 | .i8x4 | .i4x8 | .i16x2 => true
  | _ => false

/-- Floating-point element formats (R103). -/
def Tag.isFloat : Tag → Bool
  | .f32 | .f64 | .f16x2 | .bf16x2 | .e4m3x4 | .e5m2x4 | .e2m1x8 => true
  | _ => false

/-- Significand planes of an element format (R103, R115, R229). -/
def Tag.planes : Tag → Nat
  | .f64 => 53 | .f32 => 24 | .f16x2 => 11 | .bf16x2 => 8 | .e4m3x4 => 4 | .e5m2x4 => 3 | .e2m1x8 => 2
  | .i8x4 | .n8x4 => 8 | .i4x8 => 4 | .i16x2 | .n16x2 => 16 | _ => 0

/-- Word 1 and word 2 are present (R53). -/
def Enc.isExt (e : Enc) : Bool := e.form == .ext || e.form == .extLit

/-- A literal is present (R53). -/
def Enc.hasLit (e : Enc) : Bool := e.form == .lit || e.form == .extLit

/-- The LEN field (R53). -/
def Enc.len (e : Enc) : Nat :=
  match e.form with
  | .base => 0 | .lit => 1 | .ext => 2 | .extLit => 3

/-- The instruction's length in bytes (R53). -/
def Enc.bytes (e : Enc) : Nat :=
  match e.form with
  | .base => 4 | .lit => 12 | .ext => 12 | .extLit => 20

/-- The format: FT in an extended form, the opcode's default format in a base form (R58). -/
def Enc.fmt (e : Enc) (dflt : Tag) : Tag :=
  if e.isExt then (Tag.ofCode e.ft.toNat).getD .raw else dflt

/-- A MOD bit by its offset from bit 57. -/
def Enc.modBit (e : Enc) (i : Nat) : Bool := bit e.mod.toNat i

/-- A MOD sub-field by its offsets from bit 57. -/
def Enc.modBits (e : Enc) (hi lo : Nat) : Nat := bits e.mod.toNat hi lo

/-- A word-2 sub-field by its offsets from bit 64. -/
def Enc.w2Bits (e : Enc) (hi lo : Nat) : Nat := bits e.w2.toNat hi lo

/-- PD, PA, PB and PE of the PRED layout (R60). -/
def Enc.pd (e : Enc) : Nat := e.w2Bits 6 0
def Enc.pa (e : Enc) : Nat := e.w2Bits 13 7
def Enc.pb (e : Enc) : Nat := e.w2Bits 20 14
def Enc.pe (e : Enc) : Nat := e.w2Bits 27 21

/-- OFF18, word 0 <27:10>, the operand of base BRA, CALL, TRAP and BKPT (R327). -/
def Enc.off18 (e : Enc) : BitVec 18 := e.b ++ e.a ++ e.d

namespace Encoding

/-- An offending field: its sub-code and the bit reported (R68). -/
structure Err where
  sub : Nat
  bit : Nat
  deriving DecidableEq, Repr, Inhabited

/-- The LEN sets of R83. -/
inductive LenSet where
  | all | noLit | litOnly | ext | extNoLit
  deriving DecidableEq, Repr

/-- The Q uses of R83. -/
inductive QUse where
  | guard | exOnly | exTcLg | exLg | zero
  deriving DecidableEq, Repr

/-- How an opcode uses a register field: not at all, as one register, as a pair, or with a meaning of its
own that the entry checks. -/
inductive Use where
  | no | one | pair | own
  deriving DecidableEq, Repr

/-- Which operand a literal replaces, and whether it takes all 64 bits (R61). -/
inductive LitUse where
  | none | a (wide : Bool) | b (wide : Bool) | own
  deriving DecidableEq, Repr

/-- Which RM values an opcode accepts (R57). -/
inductive RmUse where
  | zero | noSR | all
  deriving DecidableEq, Repr

/-- What an opcode's entry says of its fields, for the instruction at hand. -/
structure Spec where
  q : QUse := .guard
  d : Use := .no
  a : Use := .no
  b : Use := .no
  c : Use := .no
  lit : LitUse := .none
  fts : List Tag := [.raw]
  rm : RmUse := .zero
  cps : List Nat := [0]
  more : List Err := []

/-- The LEN set of an opcode; none for an unassigned one (R82, R83). -/
def lenSet (opc : Nat) : Option LenSet :=
  if opc ≤ 0x1C then some .all
  else if opc = 0x1D then some .litOnly
  else if opc ≤ 0x1F then some .all
  else if opc ≤ 0x25 then some .noLit
  else if opc = 0x26 then some .all
  else if opc < 0x30 then none
  else if opc ≤ 0x40 then some .all
  else if opc < 0x50 then none
  else if opc ≤ 0x5B then some .all
  else if opc < 0x60 then none
  else if opc ≤ 0x65 then some .all
  else if opc < 0x70 then none
  else if opc = 0x70 ∨ opc = 0x72 ∨ opc = 0x74 ∨ opc = 0x78 then some .all
  else if opc ≤ 0x7E then some .noLit
  else if opc < 0x80 then none
  else if opc = 0x80 ∨ opc = 0x81 ∨ opc = 0x83 ∨ opc = 0x89 then some .all
  else if opc = 0x82 then some .ext
  else if opc ≤ 0x8B then some .noLit
  else if opc < 0xA0 then none
  else if opc ≤ 0xAB then some .extNoLit
  else if opc < 0xB0 then none
  else if opc ≤ 0xB8 then some .extNoLit
  else if opc < 0xC0 then none
  else if opc = 0xC0 ∨ opc = 0xC2 ∨ opc = 0xC5 then some .all
  else if opc ≤ 0xC6 then some .noLit
  else if opc < 0xE0 then none
  else if opc = 0xE1 then some .all
  else if opc ≤ 0xE3 then some .noLit
  else if opc ≤ 0xEB then some .extNoLit
  else if opc = 0xEC then some .noLit
  else none

/-- A LEN value lies in the set (R83). -/
def LenSet.allows : LenSet → Nat → Bool
  | .all, _ => true
  | .noLit, n => n == 0 || n == 2
  | .litOnly, n => n == 1 || n == 3
  | .ext, n => n == 2 || n == 3
  | .extNoLit, n => n == 2

/-- S-only opcodes (R83). -/
def sOnly (opc : Nat) : Bool := 0xE2 ≤ opc && opc ≤ 0xEB

/-! The format sets of R128, R209, R219 and R249. -/
def setW : List Tag := [.i32, .n32, .i64, .n64]
def setWP : List Tag := setW ++ [.i16x2, .n16x2, .i8x4, .n8x4]
def setL : List Tag := [.n32, .i32, .n64, .i64, .pred32]
def setFS : List Tag := [.f32, .f64, .f16x2, .bf16x2]
def setFX : List Tag := [.f32, .f64]
def setX : List Tag := [.i32, .n32, .i64, .n64, .f32, .f64]
def setNP : List Tag := [.f16x2, .bf16x2, .e4m3x4, .e5m2x4, .e2m1x8, .i16x2, .n16x2, .i8x4, .n8x4, .i4x8]
def setAny : List Tag := Tag.all
def setNoHandle : List Tag := Tag.all.filter (· != .handle)
def setE : List Tag := [.bf16x2, .f64, .f32, .f16x2, .e4m3x4, .e5m2x4, .e2m1x8, .i8x4, .n8x4, .i4x8]
def setQ : List Tag := [.e4m3x4, .e5m2x4, .e2m1x8, .i8x4]

/-! Special registers (R95). -/

/-- Who may write a special register. -/
inductive SrAccess where
  | ro | rwU | rwS
  deriving DecidableEq, Repr

/-- Width, access and tag of a special register. -/
structure SrInfo where
  wide : Bool
  access : SrAccess
  tag : Tag
  deriving DecidableEq, Repr

/-- The special register map; none for an unassigned SRN (R95). -/
def srInfo (srn : Nat) : Option SrInfo :=
  if srn ≤ 0x004 then some ⟨false, .ro, .n32⟩
  else if srn < 0x008 then none
  else if srn ≤ 0x00D then some ⟨false, .ro, .n32⟩
  else if srn = 0x00E then some ⟨true, .ro, .addr⟩
  else if srn < 0x010 then none
  else if srn ≤ 0x012 then some ⟨false, .ro, .n32⟩
  else if srn = 0x018 then some ⟨true, .ro, .n64⟩
  else if srn = 0x020 then some ⟨false, .ro, .n32⟩
  else if srn = 0x021 then some ⟨false, .rwU, .n32⟩
  else if srn = 0x022 then some ⟨true, .ro, .addr⟩
  else if srn = 0x030 then some ⟨false, .rwS, .n32⟩
  else if srn = 0x031 ∨ srn = 0x032 then some ⟨true, .rwS, .addr⟩
  else if srn = 0x033 then some ⟨false, .rwS, .n32⟩
  else if srn = 0x034 then some ⟨true, .rwS, .addr⟩
  else if srn = 0x040 then some ⟨false, .rwS, .n32⟩
  else if srn = 0x041 then some ⟨false, .ro, .n32⟩
  else if srn = 0x042 then some ⟨false, .rwS, .n32⟩
  else if 0x050 ≤ srn ∧ srn ≤ 0x05F then some ⟨false, .ro, .n32⟩
  else if 0x100 ≤ srn ∧ srn ≤ 0x13F then some ⟨false, .rwU, .raw⟩
  else none

/-- A special register of 64 bits. -/
def srWide (srn : Nat) : Bool := ((srInfo srn).map SrInfo.wide).getD false

/-- The SRN of SREAD: the B field over the A field; of SWRITE: the B field over the D field (R98). -/
def srnRead (e : Enc) : Nat := e.b.toNat * 64 + e.a.toNat
def srnWrite (e : Enc) : Nat := e.b.toNat * 64 + e.d.toNat

/-! Checks. A must-be-zero bit of MOD or word 2 is reported by its own number; every other field by the
field's lowest bit (R68; log entry 20). -/

def err (c : Bool) (sub bit : Nat) : List Err := if c then [⟨sub, bit⟩] else []

/-- The lowest set bit of `x` below `n`, counted from `at`. -/
def lowestSet (x : Nat) : Nat → Nat → Nat
  | 0, k => k
  | n + 1, k => if x.testBit k then k else lowestSet x n (k + 1)

/-- Bits of `x` outside `mask` must be zero. -/
def outside (x mask width sub base : Nat) : List Err :=
  let bad := x &&& ((2 ^ width - 1) ^^^ mask)
  err (bad != 0) sub (base + lowestSet bad width 0)

def modMask (e : Enc) (mask : Nat) : List Err := outside e.mod.toNat mask 7 0x0E 57
def w2Mask (e : Enc) (mask : Nat) : List Err := outside e.w2.toNat mask 32 0x0F 64

/-- The PRED layout: the fields an entry does not use are zero (R60). -/
def predLayout (e : Enc) (pd pa pb pe : Bool) : List Err :=
  err (!pd && e.pd != 0) 0x0F 64 ++ err (!pa && e.pa != 0) 0x0F 71 ++ err (!pb && e.pb != 0) 0x0F 78 ++
  err (!pe && e.pe != 0) 0x0F 85 ++ w2Mask e 0x0FFFFFFF

def litBase (e : Enc) : Nat := if e.form == .lit then 32 else 96

def useReg (u : Use) (field : BitVec 6) (w : Bool) (sub bit wsub wbit : Nat) : List Err :=
  match u with
  | .no => err (field != 0) sub bit ++ err w wsub wbit
  | .pair => err (field.getLsbD 0) sub bit
  | .one => []
  | .own => []

/-- The register fields, with the field that a literal replaces taken as unused (R61, R62). -/
def regErrs (e : Enc) (s : Spec) : List Err :=
  let a := match e.hasLit, s.lit with | true, .a _ => Use.no | _, _ => s.a
  let b := match e.hasLit, s.lit with | true, .b _ => Use.no | _, _ => s.b
  useReg s.d e.d false 0x02 10 0x02 10 ++ useReg a e.a e.wa 0x03 16 0x05 28 ++
  useReg b e.b e.wb 0x04 22 0x06 29 ++ (if e.isExt then useReg s.c e.c e.wc 0x09 40 0x0A 46 else [])

/-- The upper half of a literal that replaces a 32-bit operand is zero (R61); it is reported by its own lowest bit, 64 or 128
(log entry 20). -/
def litErrs (e : Enc) (s : Spec) : List Err :=
  match e.hasLit, s.lit with
  | true, .a false | true, .b false => err (e.literal >>> 32 != 0) 0x10 (litBase e + 32)
  | _, _ => []

def qErrs (e : Enc) (u : QUse) : List Err :=
  let q := e.q.toNat
  err (match u with
    | .guard => e.isExt && q != 0
    | .exOnly => q != 0
    | .exTcLg => q == 3
    | .exLg => q == 1 || q == 3
    | .zero => q != 0) 0x07 30

/-- Fields of word 1 that every extended form has (R56 to R59, R65). -/
def word1Errs (e : Enc) (s : Spec) : List Err :=
  if e.isExt then
    err (e.gp == 0 && e.gn) 0x08 32 ++
    err (match s.rm with | .zero => e.rm != 0 | .noSR => e.rm == 5 | .all => false) 0x0B 47 ++
    err (match Tag.ofCode e.ft.toNat with | none => true | some t => !s.fts.contains t) 0x0C 50 ++
    err (!s.cps.contains e.cp.toNat) 0x0D 55
  else []

def W (t : Tag) : Use := if t.wide then .pair else .one

/-- Unused MOD and word-2 bits are zero. -/
def noMod (e : Enc) : List Err := modMask e 0
def noW2 (e : Enc) : List Err := w2Mask e 0
def plain (e : Enc) : List Err := noMod e ++ noW2 e

/-- The two predicate destinations and the combination of ICMP and FCMP (R131, R138). -/
def cmpErrs (e : Enc) (conds : Nat) : List Err :=
  if e.isExt then
    err (e.d != 0) 0x02 10 ++ err (e.modBits 2 0 ≥ conds) 0x0E 57 ++ modMask e 0x1F ++
    predLayout e true true (e.modBits 4 3 != 0) false
  else []

/-- The offset of BRA and CALL (R327). -/
def branchErrs (e : Enc) (call : Bool) : List Err :=
  match e.form with
  | .base => err e.wa 0x05 28 ++ err e.wb 0x06 29
  | .lit =>
    err (e.d != 0) 0x02 10 ++ err (e.a != 0) 0x03 16 ++ err (e.b != 0) 0x04 22 ++ err e.wa 0x05 28 ++
    err e.wb 0x06 29 ++ err (e.literal.toNat % 4 != 0) 0x10 32
  | .ext =>
    (if call then useReg .pair e.d false 0x02 10 0x02 10 else err (e.d != 0) 0x02 10) ++
    err (e.a != 0) 0x03 16 ++ err (e.b != 0) 0x04 22 ++ err e.wa 0x05 28 ++ err e.wb 0x06 29 ++
    noMod e ++ err (e.w2.toNat % 4 != 0) 0x0F 64
  | .extLit =>
    (if call then useReg .pair e.d false 0x02 10 0x02 10 else err (e.d != 0) 0x02 10) ++
    err (e.a != 0) 0x03 16 ++ err (e.b != 0) 0x04 22 ++ err e.wa 0x05 28 ++ err e.wb 0x06 29 ++
    plain e ++ err (e.literal.toNat % 4 != 0) 0x10 96

/-- A code in OFF18 or in word 2 (TRAP, BKPT; R327, R397). -/
def codeErrs (e : Enc) (w2mask : Nat) : List Err :=
  if e.isExt then
    err (e.d != 0) 0x02 10 ++ err (e.a != 0) 0x03 16 ++ err (e.b != 0) 0x04 22 ++ err e.wa 0x05 28 ++
    err e.wb 0x06 29 ++ noMod e ++ w2Mask e w2mask
  else err e.wa 0x05 28 ++ err e.wb 0x06 29

/-- FT agrees with the access width SZ, a reserved SZ being an error of MOD alone (R209, R210). -/
def szErrs (e : Enc) (reserved : Bool) : List Err :=
  let t := e.fmt .raw
  let sz := e.modBits 2 0
  err reserved 0x0E 57 ++
  err (e.isExt && !reserved && !(match sz with
    | 0 => !t.wide
    | 1 => t.wide || t == .raw
    | _ => t == .i32 || t == .n32 || t == .raw)) 0x0C 50

/-- The formats an atomic operation accepts; a reserved operation is an error of MOD alone (R214, R215). -/
def atomFts (op : Nat) : List Tag :=
  if op ≤ 5 then setW else if op = 8 then setFX else setX

def intSpec (opc : Nat) (e : Enc) : Spec :=
  let fI := e.fmt .i32
  let fN := e.fmt .n32
  match opc with
  | 0x00 | 0x01 => { d := W fI, a := W fI, b := W fI, lit := .b fI.wide, fts := setWP, more := modMask e 1 ++ noW2 e }
  | 0x02 | 0x03 => { d := W fI, a := W fI, b := W fI, lit := .b fI.wide, fts := setW,
                     more := noMod e ++ predLayout e true true false false }
  | 0x04 | 0x05 => { q := .exOnly, d := W fI, a := W fI, b := W fI, lit := .b fI.wide, fts := setW, more := plain e }
  | 0x06 => { q := .exOnly, d := W fI, a := W fI, b := W fI, c := W fI, lit := .b fI.wide, fts := setW, more := plain e }
  | 0x07 | 0x08 => { d := W fI, a := W fI, b := W fI, lit := .b fI.wide, fts := setW, more := plain e }
  | 0x09 | 0x0A => { d := W fI, a := W fI, b := W fI, lit := .b fI.wide, fts := setWP, more := plain e }
  | 0x0B | 0x0C => { d := W fI, a := W fI, lit := .a fI.wide, fts := [.i32, .i64, .i16x2, .i8x4],
                     more := modMask e 1 ++ noW2 e }
  | 0x0D | 0x0E | 0x0F | 0x10 => { d := W fN, a := W fN, b := W fN, lit := .b fN.wide, fts := setL, more := plain e }
  | 0x11 => { d := W fN, a := W fN, lit := .a fN.wide, fts := setL, more := plain e }
  | 0x12 | 0x13 | 0x14 | 0x15 | 0x16 => { d := W fN, a := W fN, b := .one, lit := .b false, fts := setW, more := plain e }
  | 0x17 => { d := W fN, a := W fN, b := .one, c := W fN, lit := .b false, fts := setW, more := plain e }
  | 0x18 | 0x19 => { d := .one, a := W fN, lit := .a fN.wide, fts := setW, more := plain e }
  | 0x1A => { d := W fN, a := W fN, lit := .a fN.wide, fts := setW, more := plain e }
  | 0x1B =>
    let f := e.fmt .raw
    { d := W f, a := W f, b := W f, c := if e.modBit 0 then .no else .one, lit := .b f.wide, fts := setAny,
      more := modMask e 1 ++ (if e.modBit 0 then predLayout e false false false true else noW2 e) }
  | 0x1C =>
    let f := e.fmt .raw
    { d := W f, a := W f, lit := .a f.wide, fts := setAny,
      more := err (e.modBit 0 && (f == .raw || f == .handle)) 0x0E 57 ++ modMask e 1 ++ noW2 e ++
        err (e.hasLit && (f == .handle || f.wide)) 0x10 (litBase e) }
  | 0x1D => { d := .pair, lit := .own, fts := [.i64, .n64, .f64, .addr], more := plain e }
  | 0x1E => { d := .pair, a := .pair, b := .one, lit := .b false, fts := [.addr], more := modMask e 0x0F }
  | _ => { d := .own, a := W fI, b := W fI, lit := .b fI.wide, fts := setW, more := cmpErrs e 6 }

/-- The empty-source bits of A and of B where a base form's field names a predicate: unused, so zero (R67, R139; log entry 20). -/
def noWA (e : Enc) : List Err := if e.isExt then [] else err e.wa 0x05 28
def noWB (e : Enc) : List Err := if e.isExt then [] else err e.wb 0x06 29

def predSpec (opc : Nat) (e : Enc) : Spec :=
  let r : Use := if e.isExt then .no else .own
  match opc with
  | 0x20 | 0x21 | 0x22 => { d := r, a := r, b := r, fts := [.pred32],
                            more := noWA e ++ noWB e ++ modMask e 3 ++ predLayout e true true true false }
  | 0x23 | 0x24 => { d := r, a := r, fts := [.pred32], more := noWA e ++ noMod e ++ predLayout e true true false false }
  | 0x25 => { d := .one, a := r, fts := [.pred32],
              more := noWA e ++ noMod e ++ predLayout e false true false false ++ err (e.pa > 96) 0x0F 71 }
  | _ => { d := r, a := .one, lit := .a false, fts := [.pred32],
           more := noMod e ++ predLayout e true false false false ++ err (e.pd > 96) 0x0F 64 }

def fpSpec (opc : Nat) (e : Enc) : Spec :=
  let f := e.fmt .f32
  let sr : Use := if e.rm == 5 then .one else .no
  match opc with
  | 0x30 | 0x31 => { d := W f, a := W f, b := W f, c := sr, lit := .b f.wide, fts := setFS, rm := .all, more := plain e }
  | 0x32 => { q := .exTcLg, d := W f, a := W f, b := W f, c := sr, lit := .b f.wide, fts := setFS, rm := .all, more := plain e }
  | 0x33 => { q := .exTcLg, d := W f, a := W f, b := W f, c := W f, lit := .b f.wide, fts := setFS, rm := .noSR, more := plain e }
  | 0x34 | 0x35 => { d := W f, a := W f, b := W f, lit := .b f.wide, fts := setFS, more := modMask e 1 ++ noW2 e }
  | 0x36 | 0x37 => { d := W f, a := W f, lit := .a f.wide, fts := setFS, more := plain e }
  | 0x38 => { d := .own, a := W f, b := W f, lit := .b f.wide, fts := setFS, more := cmpErrs e 8 }
  | 0x39 => { d := .one, a := W f, lit := .a f.wide, fts := setFS, more := plain e }
  | 0x3A => { q := .exLg, d := W f, a := W f, b := W f, lit := .b f.wide, fts := setFX, rm := .noSR, more := plain e }
  | 0x40 => { d := W f, a := W f, b := .one, lit := .b false, fts := setFS, rm := .noSR, more := plain e }
  | _ => { q := .exLg, d := W f, a := W f, lit := .a f.wide, fts := setFX, rm := .noSR, more := plain e }

/-- The SF field of CVT and CVTS (R149). -/
def sfTag (e : Enc) : Option Tag := if e.isExt then Tag.ofCode (e.w2Bits 4 0) else some .raw

def sfErrs (e : Enc) : List Err :=
  err (match sfTag e with | none => true | some t => !(t == .raw || setX.contains t)) 0x0F 64 ++ w2Mask e 0x1F

def convSpec (opc : Nat) (e : Enc) : Spec :=
  let sf := (sfTag e).getD .raw
  let srcA : Use := if sf == .raw then .own else W sf
  let sr : Use := if e.rm == 5 then .one else .no
  match opc with
  | 0x50 => { d := W (e.fmt .f32), a := srcA, lit := if sf == .raw then .a true else .a sf.wide, fts := setX, rm := .noSR,
              more := modMask e 1 ++ sfErrs e }
  | 0x51 => { d := W (e.fmt .f32), a := srcA, b := .one, lit := .b false, fts := setX, rm := .noSR,
              more := modMask e 1 ++ sfErrs e }
  | 0x52 =>
    let f := e.fmt .bf16x2
    { d := .one, a := .one, b := .one, c := sr, lit := .b false, fts := setNP, rm := .all,
      more := err (2 * e.modBits 1 0 ≥ f.count) 0x0E 57 ++ err (e.modBit 2 && f.isInt) 0x0E 59 ++ modMask e 7 ++ noW2 e }
  | 0x53 =>
    let f := e.fmt .bf16x2
    { d := .one, a := .one, lit := .a false, fts := setNP ++ [.e8m0x4],
      more := err (e.modBits 2 0 ≥ f.count) 0x0E 57 ++ modMask e 7 ++ noW2 e }
  | 0x54 =>
    let f := e.fmt .e4m3x4
    { d := .one, a := .one, b := .one, c := .one, lit := .b false, fts := setQ, rm := .noSR,
      more := err (2 * e.modBits 1 0 ≥ f.count) 0x0E 57 ++ err (e.modBit 2 && f.isInt) 0x0E 59 ++ modMask e 7 ++ noW2 e }
  | 0x55 =>
    let f := e.fmt .bf16x2
    { d := .one, a := .one, b := .one, lit := .b false, fts := setNP, rm := .noSR,
      more := err (e.modBits 2 0 ≥ f.count) 0x0E 57 ++ modMask e 7 ++ noW2 e }
  | 0x56 | 0x57 | 0x58 =>
    let (dflt, fts) : Tag × List Tag :=
      if opc = 0x56 then (.f16x2, [.f16x2, .bf16x2, .i16x2, .n16x2])
      else if opc = 0x57 then (.e4m3x4, [.e4m3x4, .e5m2x4, .i8x4, .n8x4])
      else (.e2m1x8, [.e2m1x8, .i4x8])
    let f := e.fmt dflt
    { q := .exTcLg, d := .one, a := .one, b := .one, c := .one, lit := .b false, fts := fts,
      rm := if f.isFloat then .noSR else .zero,
      more := err (e.isExt && (if e.q == 1 then e.modBits 3 0 ≥ f.planes else e.modBits 3 0 != 0)) 0x0E 57 ++
        modMask e 0x1F ++ noW2 e }
  | 0x5B => { d := .one, a := .pair, b := .pair, c := .one, lit := .b true, fts := [.pred32],
              more := noMod e ++ w2Mask e 0xFFFF }
  | _ => { d := .one, a := .pair, b := .pair, lit := .b true, fts := [if opc = 0x59 then .n32 else .f32],
           more := noMod e ++ w2Mask e 0xFFFF }

def laneSpec (opc : Nat) (e : Enc) : Spec :=
  match opc with
  | 0x60 =>
    let ballot := e.modBits 1 0 == 0
    { d := if e.isExt && !ballot then .no else .one, a := if e.isExt then .no else .own, b := .one, lit := .b false,
      fts := [.pred32],
      more := err (!e.isExt && e.wa) 0x05 28 ++ modMask e 3 ++ predLayout e (!ballot) true false false }
  | 0x61 =>
    let f := e.fmt .raw
    { d := W f, a := W f, b := .one, c := if e.modBit 2 then .no else .one, lit := .b false, fts := setAny,
      more := modMask e 7 ++ predLayout e true false false false }
  | 0x62 | 0x63 =>
    let f := e.fmt .i32
    let op := e.modBits 2 0
    { d := W f, a := W f, b := .one, lit := .b false, fts := setX, rm := if f.isFloat then .noSR else .zero,
      more := err (op ≥ 6 || (op ≥ 3 && f.isFloat)) 0x0E 57 ++ modMask e (if opc = 0x62 then 7 else 15) ++ noW2 e }
  | 0x64 => { d := if e.isExt then .no else .own, b := .one, lit := .b false, fts := [.pred32],
              more := noMod e ++ predLayout e true false false false }
  | _ =>
    let f := e.fmt .n32
    { d := .one, a := W f, b := .one, lit := .b false, fts := setNoHandle,
      more := noMod e ++ predLayout e true false false false }

def ctrlSpec (opc : Nat) (e : Enc) : Spec :=
  match opc with
  | 0x70 => { d := .own, a := .own, b := .own, lit := .own, more := branchErrs e false }
  | 0x71 | 0x73 => { a := .pair, more := plain e }
  | 0x72 => { d := .own, a := .own, b := .own, lit := .own, more := branchErrs e true }
  | 0x74 => { b := .one, lit := .b false, more := plain e }
  | 0x77 => { d := .own, a := .own, b := .own, more := codeErrs e 0xFFFFFFFF }
  | 0x78 => { lit := .own, more := plain e }
  | 0x79 => { d := .own, more := err (e.d.toNat > 2) 0x02 10 ++ plain e }
  | 0x7A => { d := .own, more := err (e.d.toNat > 1) 0x02 10 ++ plain e }
  | 0x7B => { d := .one, a := .one, more := modMask e 1 ++ noW2 e }
  | 0x7C => { d := if e.isExt then .no else .own, a := .one, more := noMod e ++ predLayout e true false false false }
  | 0x7D => { a := .one, more := plain e }
  | 0x7E => { d := .one, a := .one, more := plain e }
  | _ => { more := plain e }

def memSpec (opc : Nat) (e : Enc) : Spec :=
  match opc with
  | 0x80 =>
    let ord := e.modBits 4 3
    { d := if e.modBits 2 0 == 1 then .pair else .one, a := .pair, lit := .a true, fts := setNoHandle,
      cps := if ord = 1 then [0] else [0, 1, 2],
      more := err (ord ≥ 2) 0x0E 60 ++ modMask e 0x1F ++ szErrs e (e.modBits 2 0 ≥ 6) }
  | 0x81 =>
    let ord := e.modBits 4 3
    let sz := e.modBits 2 0
    { a := .pair, b := if sz == 1 then .pair else .one, lit := .b (sz == 1), fts := setNoHandle,
      cps := if ord = 1 then [0] else [0, 1, 2],
      more := err (ord ≥ 2) 0x0E 60 ++ modMask e 0x1F ++ szErrs e (sz ≥ 6 || sz == 3 || sz == 5) }
  | 0x82 =>
    let op := e.modBits 3 0
    let f := e.fmt .i32
    { q := .zero, d := W f, a := .pair, b := W f, c := if op = 7 then W f else .no, lit := .b f.wide, fts := atomFts op,
      rm := if op = 8 then .noSR else .zero, more := err (op ≥ 9) 0x0E 57 ++ modMask e 0x3F }
  | 0x83 =>
    let op := e.modBits 3 0
    let f := e.fmt .i32
    { a := .pair, b := W f, lit := .b f.wide, fts := atomFts op, rm := if op = 8 then .noSR else .zero,
      more := err (op = 6 || op = 7 || op ≥ 9) 0x0E 57 ++ modMask e 0x0F }
  | 0x84 => { d := .own, more := err (e.d.toNat % 4 == 0 || decide (e.d.toNat ≥ 4)) 0x02 10 ++ plain e }
  | 0x85 => { d := if e.isExt then .no else .one, a := .one, b := .one, c := .one, cps := [0, 2],
              fts := [.f32, .i32, .n32, .f16x2, .bf16x2, .i16x2, .n16x2, .e4m3x4, .e5m2x4, .i8x4, .n8x4],
              more := noMod e ++ w2Mask e 0xFF }
  | 0x86 => { d := if e.isExt then .no else .own, a := .pair,
              more := modMask e 3 ++ predLayout e (e.modBits 1 0 == 0) false false false }
  | 0x87 => { a := .pair, cps := [0, 1, 2], more := noMod e }
  | 0x88 => { a := if e.modBit 0 then .no else .pair, more := modMask e 1 ++ (if e.modBit 0 then noW2 e else []) }
  | 0x89 => { d := .own, a := .one, lit := .a false, more := err (e.d.toNat > 2) 0x02 10 ++ plain e }
  | 0x8A =>
    let f := e.fmt .raw
    let w64 := e.modBit 1
    { a := .one, b := if w64 then .pair else .one, fts := setNoHandle,
      more := err (e.isExt && f != .raw && f.wide != w64) 0x0E 58 ++ modMask e 3 ++ predLayout e (e.modBit 0) false false false }
  | _ =>
    let f := e.fmt .raw
    let w64 := e.modBit 1
    { d := if w64 then .pair else .one, a := .one, fts := setNoHandle,
      more := err (e.isExt && f != .raw && f.wide != w64) 0x0E 58 ++ modMask e 3 ++ predLayout e (e.modBit 0) false false false }

/-- The plane count of MMA and MMAS (R249). -/
def mmaErrs (e : Enc) (f : Tag) : List Err :=
  err (if e.q == 1 then e.modBits 5 0 ≥ f.planes else e.modBits 5 0 != 0) 0x0E 57 ++ modMask e 0x3F ++
  w2Mask e 0x07FFFFFF

def matrixSpec (opc : Nat) (e : Enc) : Spec :=
  let f := e.fmt .raw
  match opc with
  | 0xA0 => { q := .exTcLg, d := .one, a := .one, fts := setE, more := mmaErrs e f ++ err (e.w2Bits 16 14 != 0) 0x0F 78 }
  | 0xA1 => { q := .exTcLg, d := .one, a := .one, fts := setE, more := mmaErrs e f ++ err (e.w2Bits 16 14 ≥ 5) 0x0F 78 }
  | 0xA2 => { q := .zero, d := .one, a := .one, fts := setQ, rm := .noSR,
              more := err (e.modBits 1 0 == 3) 0x0E 58 ++ modMask e 3 ++ w2Mask e 0xFFF }
  | 0xA3 => { q := .zero, d := .one, a := .one, fts := setQ, rm := .noSR, more := noMod e ++ w2Mask e 0xFF }
  | 0xA4 => { q := .zero, d := .one, fts := setE, more := noMod e ++ w2Mask e 0xFF }
  | 0xA5 => { q := .zero, d := .one, fts := [.f32, .f64, .f16x2, .bf16x2, .i32, .raw],
              more := err (e.modBit 0 != (f == .raw)) 0x0C 50 ++ modMask e 1 ++ w2Mask e 0xFF }
  | 0xA6 => { q := .zero, d := .one, more := noMod e ++ w2Mask e 0xFF }
  | 0xA7 => { q := .zero, d := .one, a := .one, fts := [.i32], more := noMod e ++ w2Mask e 0xF }
  | 0xA8 => { q := .zero, d := .one, more := noMod e ++ w2Mask e 0xF }
  | 0xA9 =>
    let mode := e.modBits 1 0
    let upd : Use := if mode = 2 then .one else .no
    { q := .zero, d := .one, a := upd, b := upd,
      c := if mode = 2 then .one else if e.rm == 5 then .pair else .no,
      fts := [.f32, .f64, .f16x2, .bf16x2, .e4m3x4, .e5m2x4, .i32], rm := .all,
      more := err (e.rm == 5 && mode == 2) 0x0B 47 ++ err (mode == 2 && f == .i32) 0x0C 50 ++ err (mode == 3) 0x0E 57 ++
        modMask e 0xF ++ w2Mask e 0x0FFFF0FF }
  | 0xAA => { q := .zero, d := .one, more := modMask e 1 ++ w2Mask e 0xFF }
  | _ => { q := .zero, d := .one, fts := [.n32], more := noMod e ++ w2Mask e 0xF }

def engineSpec (opc : Nat) (e : Enc) : Spec :=
  match opc with
  | 0xB0 | 0xB7 => { q := .zero, d := .one, a := .pair, more := plain e }
  | 0xB1 => { q := .zero, a := .pair, b := .one, more := plain e }
  | 0xB2 => { q := .zero, d := .pair, a := .pair, b := .one, more := modMask e 1 ++ noW2 e }
  | 0xB3 | 0xB5 => { q := .zero, d := .one, a := .pair, b := .pair, more := plain e }
  | 0xB4 => { q := .zero, d := .one, a := .pair, b := .pair, c := .one, more := plain e }
  | 0xB6 => { q := .zero, more := plain e }
  | _ => { q := .zero, d := .one, a := .one, b := .one, more := plain e }

def barSpec (opc : Nat) (e : Enc) : Spec :=
  match opc with
  | 0xC0 | 0xC2 => { a := .pair, b := .one, lit := .b false, fts := [.n32], more := plain e }
  | 0xC1 => { d := .one, a := .pair, b := if e.modBit 0 then .one else .no, fts := [.n32], more := modMask e 1 ++ noW2 e }
  | 0xC3 => { a := .pair, b := .one, fts := [.n32], more := plain e }
  | 0xC4 => { d := if e.isExt then .no else .own, a := .pair, b := .one, fts := [.n32],
              more := noMod e ++ predLayout e true false false false }
  | 0xC5 => { d := .one, a := .one, lit := .a false, fts := [.n32], more := plain e }
  | _ => { d := .pair, fts := [.n64], more := plain e }

/-- SPACE and INDEX of DREAD and DWRITE (R398). -/
def dspaceErrs (e : Enc) (write : Bool) : List Err :=
  let sp := e.w2Bits 3 0
  let ix := e.w2Bits 15 4
  err (sp > 6 || (write && sp ≥ 5)) 0x0F 64 ++
  err (match sp with
    | 0 | 1 => ix > 63
    | 2 => ix > 3
    | 3 => ix > (if write then 1 else 2)
    | 4 => (match srInfo ix with | none => true | some i => write && i.access == .ro)
    | 5 => ix > 0
    | 6 => ix > 1
    | _ => false) 0x0F 68 ++ w2Mask e 0xFFFF

/-- DREAD and DWRITE of a 64-bit item use a pair (R398). -/
def dspaceWide (e : Enc) : Bool := e.w2Bits 3 0 == 5 || (e.w2Bits 3 0 == 4 && srWide (e.w2Bits 15 4))

/-- The system instructions' own checks. TLBI's WA and WB are checked as other instructions' are: zero where A or B is unused, their values
being read where it is used (log entry 95). -/
def sysSpec (opc : Nat) (e : Enc) : Spec :=
  match opc with
  | 0xE0 => { d := if srWide (srnRead e) then .pair else .one, a := .own, b := .own,
              more := err (srInfo (srnRead e)).isNone 0x03 16 ++ err e.wa 0x05 28 ++ err e.wb 0x06 29 ++ plain e }
  | 0xE1 =>
    let w := srWide (srnWrite e)
    { d := .own, a := if w then .pair else .one, b := .own, lit := .a w,
      more := err (match srInfo (srnWrite e) with | none => true | some i => i.access == .ro) 0x02 10 ++
        err e.wb 0x06 29 ++ modMask e 1 ++ noW2 e }
  | 0xE2 => { d := .own, more := err (e.d.toNat > 1) 0x02 10 ++ plain e }
  | 0xE3 =>
    let k := e.d.toNat
    { d := .own, a := if k = 0 ∨ k = 2 then .pair else .no, b := if k = 2 ∨ k = 3 then .one else .no,
      more := err (k > 3) 0x02 10 ++ plain e }
  | 0xE4 => { q := .zero, d := .one, a := .one, more := plain e }
  | 0xE5 => { q := .zero, d := .one, a := .one, b := .one, more := plain e }
  | 0xE6 => { q := .zero, a := .one, b := .one, more := plain e }
  | 0xE7 => { q := .zero, b := if bit e.w2.toNat 3 then .pair else .no, more := noMod e ++ w2Mask e 0xF }
  | 0xE8 =>
    let r : Use := if e.w2Bits 3 2 = 0 then .no else .one
    { q := .zero, a := r, b := r,
      more := noMod e ++ err (e.w2Bits 7 4 > (if e.w2Bits 3 2 = 0 then 0 else 10)) 0x0F 68 ++ w2Mask e 0xFF }
  | 0xE9 => { q := .zero, d := if dspaceWide e then .pair else .one, a := .one, more := noMod e ++ dspaceErrs e false }
  | 0xEA => { q := .zero, a := .one, b := if dspaceWide e then .pair else .one, more := noMod e ++ dspaceErrs e true }
  | 0xEB => { q := .zero, d := if e.modBit 0 then .pair else .no, a := if e.modBit 0 then .no else .pair,
              more := modMask e 1 ++ noW2 e }
  | _ => { d := .own, a := .own, b := .own, more := codeErrs e 0x3FFFF }

/-- The entry of an opcode. -/
def spec (opc : Nat) (e : Enc) : Spec :=
  if opc < 0x20 then intSpec opc e
  else if opc < 0x30 then predSpec opc e
  else if opc < 0x50 then fpSpec opc e
  else if opc < 0x60 then convSpec opc e
  else if opc < 0x70 then laneSpec opc e
  else if opc < 0x80 then ctrlSpec opc e
  else if opc < 0xA0 then memSpec opc e
  else if opc < 0xB0 then matrixSpec opc e
  else if opc < 0xC0 then engineSpec opc e
  else if opc < 0xE0 then barSpec opc e
  else sysSpec opc e

/-- A base form carries nothing in words 1 and 2, and a form without literal no literal: they are absent. -/
def absentErrs (e : Enc) : List Err :=
  err (!e.isExt && (e.mod != 0 || e.cp != 0 || e.ft != 0 || e.rm != 0 || e.wc || e.c != 0 || e.gn || e.gp != 0 || e.w2 != 0)) 0x01 0 ++
  err (!e.hasLit && e.literal != 0) 0x01 0

/-- Every offending field of an instruction whose words are all fetched (R67 step 2). -/
def fieldErrs (opc : Nat) (e : Enc) : List Err :=
  let s := spec opc e
  absentErrs e ++ regErrs e s ++ qErrs e s.q ++ word1Errs e s ++ s.more ++ litErrs e s

/-- The error reported: the lowest bit (R68). -/
def lowest : List Err → Option Err
  | [] => none
  | x :: xs =>
    match lowest xs with
    | none => some x
    | some y => if y.bit < x.bit then some y else some x

/-- The opcode and the fields of an instruction row; none for the rows that are the device's own steps. -/
def opcOf : Instr → Option (Nat × Enc)
  | .iadd o => some (0x00, o)
  | .isub o => some (0x01, o)
  | .iadc o => some (0x02, o)
  | .isbb o => some (0x03, o)
  | .imul o => some (0x04, o)
  | .imulh o => some (0x05, o)
  | .imad o => some (0x06, o)
  | .idiv o => some (0x07, o)
  | .irem o => some (0x08, o)
  | .imin o => some (0x09, o)
  | .imax o => some (0x0A, o)
  | .iabs o => some (0x0B, o)
  | .ineg o => some (0x0C, o)
  | .andL o => some (0x0D, o)
  | .orL o => some (0x0E, o)
  | .xorL o => some (0x0F, o)
  | .andn o => some (0x10, o)
  | .notL o => some (0x11, o)
  | .shl o => some (0x12, o)
  | .shr o => some (0x13, o)
  | .sar o => some (0x14, o)
  | .rotl o => some (0x15, o)
  | .bfx o => some (0x16, o)
  | .bfi o => some (0x17, o)
  | .popc o => some (0x18, o)
  | .clz o => some (0x19, o)
  | .brev o => some (0x1A, o)
  | .sel o => some (0x1B, o)
  | .mov o => some (0x1C, o)
  | .movl o => some (0x1D, o)
  | .lea o => some (0x1E, o)
  | .icmp o => some (0x1F, o)
  | .pand o => some (0x20, o)
  | .por o => some (0x21, o)
  | .pxor o => some (0x22, o)
  | .pnot o => some (0x23, o)
  | .pmov o => some (0x24, o)
  | .ppack o => some (0x25, o)
  | .punpk o => some (0x26, o)
  | .fadd o => some (0x30, o)
  | .fsub o => some (0x31, o)
  | .fmul o => some (0x32, o)
  | .ffma o => some (0x33, o)
  | .fmin o => some (0x34, o)
  | .fmax o => some (0x35, o)
  | .fabs o => some (0x36, o)
  | .fneg o => some (0x37, o)
  | .fcmp o => some (0x38, o)
  | .fclass o => some (0x39, o)
  | .fdiv o => some (0x3A, o)
  | .frcp o => some (0x3B, o)
  | .fsqrt o => some (0x3C, o)
  | .frsq o => some (0x3D, o)
  | .fexp2 o => some (0x3E, o)
  | .flog2 o => some (0x3F, o)
  | .fscalb o => some (0x40, o)
  | .cvt o => some (0x50, o)
  | .cvts o => some (0x51, o)
  | .pack o => some (0x52, o)
  | .unpk o => some (0x53, o)
  | .qnt o => some (0x54, o)
  | .deq o => some (0x55, o)
  | .dot2 o => some (0x56, o)
  | .dot4 o => some (0x57, o)
  | .dot8 o => some (0x58, o)
  | .rng o => some (0x59, o)
  | .rngu o => some (0x5A, o)
  | .rmask o => some (0x5B, o)
  | .vote o => some (0x60, o)
  | .shfl o => some (0x61, o)
  | .redl o => some (0x62, o)
  | .scanl o => some (0x63, o)
  | .elect o => some (0x64, o)
  | .matchL o => some (0x65, o)
  | .bra o => some (0x70, o)
  | .brx o => some (0x71, o)
  | .call o => some (0x72, o)
  | .ret o => some (0x73, o)
  | .join o => some (0x74, o)
  | .exit o => some (0x75, o)
  | .yield o => some (0x76, o)
  | .trap o => some (0x77, o)
  | .nop o => some (0x78, o)
  | .regionExact o => some (0x79, o)
  | .regionChecked o => some (0x79, o)
  | .regionTolerant o => some (0x79, o)
  | .idem o => some (0x7A, o)
  | .idemEnd o => some (0x7A, o)
  | .waith o => some (0x7B, o)
  | .testh o => some (0x7C, o)
  | .canch o => some (0x7D, o)
  | .htag o => some (0x7E, o)
  | .ld o => some (0x80, o)
  | .st o => some (0x81, o)
  | .atom o => some (0x82, o)
  | .red o => some (0x83, o)
  | .fenceAcq o => some (0x84, o)
  | .fenceRel o => some (0x84, o)
  | .fenceAr o => some (0x84, o)
  | .stt o => some (0x85, o)
  | .presTest o => some (0x86, o)
  | .presWait o => some (0x86, o)
  | .presClear o => some (0x86, o)
  | .presSet o => some (0x86, o)
  | .pref o => some (0x87, o)
  | .cinv o => some (0x88, o)
  | .cinvAll o => some (0x88, o)
  | .bcfgSp o => some (0x89, o)
  | .bcfgCache o => some (0x89, o)
  | .bcfgFifo o => some (0x89, o)
  | .qpush o => some (0x8A, o)
  | .qpop o => some (0x8B, o)
  | .mma o => some (0xA0, o)
  | .mmas o => some (0xA1, o)
  | .qblk o => some (0xA2, o)
  | .rqnt o => some (0xA3, o)
  | .bpln o => some (0xA4, o)
  | .tld o => some (0xA5, o)
  | .tst o => some (0xA6, o)
  | .tscl o => some (0xA7, o)
  | .tzero o => some (0xA8, o)
  | .tdrn o => some (0xA9, o)
  | .tmove o => some (0xAA, o)
  | .tchk o => some (0xAB, o)
  | .cpyk o => some (0xB0, o)
  | .cpyrel o => some (0xB1, o)
  | .cpyq o => some (0xB2, o)
  | .pkl o => some (0xB3, o)
  | .pklb o => some (0xB4, o)
  | .nmc o => some (0xB5, o)
  | .nmf o => some (0xB6, o)
  | .coll o => some (0xB7, o)
  | .spawn o => some (0xB8, o)
  | .bari o => some (0xC0, o)
  | .bara o => some (0xC1, o)
  | .barx o => some (0xC2, o)
  | .barw o => some (0xC3, o)
  | .bart o => some (0xC4, o)
  | .depc o => some (0xC5, o)
  | .clk o => some (0xC6, o)
  | .sread o => some (0xE0, o)
  | .swrite o => some (0xE1, o)
  | .rett o => some (0xE2, o)
  | .rettKill o => some (0xE2, o)
  | .tlbiVa o => some (0xE3, o)
  | .tlbiAll o => some (0xE3, o)
  | .tlbiGpa o => some (0xE3, o)
  | .tlbiGall o => some (0xE3, o)
  | .dhalt o => some (0xE4, o)
  | .dstep o => some (0xE5, o)
  | .drun o => some (0xE6, o)
  | .dbp o => some (0xE7, o)
  | .dbpClr o => some (0xE7, o)
  | .dwp o => some (0xE8, o)
  | .dwpClr o => some (0xE8, o)
  | .dread o => some (0xE9, o)
  | .dwrite o => some (0xEA, o)
  | .dmbxSend o => some (0xEB, o)
  | .dmbxRecv o => some (0xEB, o)
  | .bkpt o => some (0xEC, o)
  | _ => none

/-- Opcodes 0x0_ of the map (R82). -/
def ofOpc0 (opc : Nat) (e : Enc) : Option Instr :=
  match opc with
  | 0x00 => some (.iadd e)
  | 0x01 => some (.isub e)
  | 0x02 => some (.iadc e)
  | 0x03 => some (.isbb e)
  | 0x04 => some (.imul e)
  | 0x05 => some (.imulh e)
  | 0x06 => some (.imad e)
  | 0x07 => some (.idiv e)
  | 0x08 => some (.irem e)
  | 0x09 => some (.imin e)
  | 0x0A => some (.imax e)
  | 0x0B => some (.iabs e)
  | 0x0C => some (.ineg e)
  | 0x0D => some (.andL e)
  | 0x0E => some (.orL e)
  | 0x0F => some (.xorL e)
  | _ => none

/-- Opcodes 0x1_ of the map (R82). -/
def ofOpc1 (opc : Nat) (e : Enc) : Option Instr :=
  match opc with
  | 0x10 => some (.andn e)
  | 0x11 => some (.notL e)
  | 0x12 => some (.shl e)
  | 0x13 => some (.shr e)
  | 0x14 => some (.sar e)
  | 0x15 => some (.rotl e)
  | 0x16 => some (.bfx e)
  | 0x17 => some (.bfi e)
  | 0x18 => some (.popc e)
  | 0x19 => some (.clz e)
  | 0x1A => some (.brev e)
  | 0x1B => some (.sel e)
  | 0x1C => some (.mov e)
  | 0x1D => some (.movl e)
  | 0x1E => some (.lea e)
  | 0x1F => some (.icmp e)
  | _ => none

/-- Opcodes 0x2_ of the map (R82). -/
def ofOpc2 (opc : Nat) (e : Enc) : Option Instr :=
  match opc with
  | 0x20 => some (.pand e)
  | 0x21 => some (.por e)
  | 0x22 => some (.pxor e)
  | 0x23 => some (.pnot e)
  | 0x24 => some (.pmov e)
  | 0x25 => some (.ppack e)
  | 0x26 => some (.punpk e)
  | _ => none

/-- Opcodes 0x3_ of the map (R82). -/
def ofOpc3 (opc : Nat) (e : Enc) : Option Instr :=
  match opc with
  | 0x30 => some (.fadd e)
  | 0x31 => some (.fsub e)
  | 0x32 => some (.fmul e)
  | 0x33 => some (.ffma e)
  | 0x34 => some (.fmin e)
  | 0x35 => some (.fmax e)
  | 0x36 => some (.fabs e)
  | 0x37 => some (.fneg e)
  | 0x38 => some (.fcmp e)
  | 0x39 => some (.fclass e)
  | 0x3A => some (.fdiv e)
  | 0x3B => some (.frcp e)
  | 0x3C => some (.fsqrt e)
  | 0x3D => some (.frsq e)
  | 0x3E => some (.fexp2 e)
  | 0x3F => some (.flog2 e)
  | _ => none

/-- Opcodes 0x4_ of the map (R82). -/
def ofOpc4 (opc : Nat) (e : Enc) : Option Instr :=
  match opc with
  | 0x40 => some (.fscalb e)
  | _ => none

/-- Opcodes 0x5_ of the map (R82). -/
def ofOpc5 (opc : Nat) (e : Enc) : Option Instr :=
  match opc with
  | 0x50 => some (.cvt e)
  | 0x51 => some (.cvts e)
  | 0x52 => some (.pack e)
  | 0x53 => some (.unpk e)
  | 0x54 => some (.qnt e)
  | 0x55 => some (.deq e)
  | 0x56 => some (.dot2 e)
  | 0x57 => some (.dot4 e)
  | 0x58 => some (.dot8 e)
  | 0x59 => some (.rng e)
  | 0x5A => some (.rngu e)
  | 0x5B => some (.rmask e)
  | _ => none

/-- Opcodes 0x6_ of the map (R82). -/
def ofOpc6 (opc : Nat) (e : Enc) : Option Instr :=
  match opc with
  | 0x60 => some (.vote e)
  | 0x61 => some (.shfl e)
  | 0x62 => some (.redl e)
  | 0x63 => some (.scanl e)
  | 0x64 => some (.elect e)
  | 0x65 => some (.matchL e)
  | _ => none

/-- Opcodes 0x7_ of the map (R82). -/
def ofOpc7 (opc : Nat) (e : Enc) : Option Instr :=
  match opc with
  | 0x70 => some (.bra e)
  | 0x71 => some (.brx e)
  | 0x72 => some (.call e)
  | 0x73 => some (.ret e)
  | 0x74 => some (.join e)
  | 0x75 => some (.exit e)
  | 0x76 => some (.yield e)
  | 0x77 => some (.trap e)
  | 0x78 => some (.nop e)
  | 0x79 => if e.d = 0 then some (.regionExact e) else if e.d = 1 then some (.regionChecked e) else if e.d = 2 then some (.regionTolerant e) else none
  | 0x7A => if e.d = 0 then some (.idem e) else if e.d = 1 then some (.idemEnd e) else none
  | 0x7B => some (.waith e)
  | 0x7C => some (.testh e)
  | 0x7D => some (.canch e)
  | 0x7E => some (.htag e)
  | _ => none

/-- Opcodes 0x8_ of the map (R82). -/
def ofOpc8 (opc : Nat) (e : Enc) : Option Instr :=
  match opc with
  | 0x80 => some (.ld e)
  | 0x81 => some (.st e)
  | 0x82 => some (.atom e)
  | 0x83 => some (.red e)
  | 0x84 => if e.d = 1 then some (.fenceAcq e) else if e.d = 2 then some (.fenceRel e) else if e.d = 3 then some (.fenceAr e) else none
  | 0x85 => some (.stt e)
  | 0x86 => if e.modBits 1 0 = 0 then some (.presTest e) else if e.modBits 1 0 = 1 then some (.presWait e) else if e.modBits 1 0 = 2 then some (.presClear e) else if e.modBits 1 0 = 3 then some (.presSet e) else none
  | 0x87 => some (.pref e)
  | 0x88 => if e.modBit 0 = false then some (.cinv e) else if e.modBit 0 = true then some (.cinvAll e) else none
  | 0x89 => if e.d = 0 then some (.bcfgSp e) else if e.d = 1 then some (.bcfgCache e) else if e.d = 2 then some (.bcfgFifo e) else none
  | 0x8A => some (.qpush e)
  | 0x8B => some (.qpop e)
  | _ => none

/-- Opcodes 0xA_ of the map (R82). -/
def ofOpcA (opc : Nat) (e : Enc) : Option Instr :=
  match opc with
  | 0xA0 => some (.mma e)
  | 0xA1 => some (.mmas e)
  | 0xA2 => some (.qblk e)
  | 0xA3 => some (.rqnt e)
  | 0xA4 => some (.bpln e)
  | 0xA5 => some (.tld e)
  | 0xA6 => some (.tst e)
  | 0xA7 => some (.tscl e)
  | 0xA8 => some (.tzero e)
  | 0xA9 => some (.tdrn e)
  | 0xAA => some (.tmove e)
  | 0xAB => some (.tchk e)
  | _ => none

/-- Opcodes 0xB_ of the map (R82). -/
def ofOpcB (opc : Nat) (e : Enc) : Option Instr :=
  match opc with
  | 0xB0 => some (.cpyk e)
  | 0xB1 => some (.cpyrel e)
  | 0xB2 => some (.cpyq e)
  | 0xB3 => some (.pkl e)
  | 0xB4 => some (.pklb e)
  | 0xB5 => some (.nmc e)
  | 0xB6 => some (.nmf e)
  | 0xB7 => some (.coll e)
  | 0xB8 => some (.spawn e)
  | _ => none

/-- Opcodes 0xC_ of the map (R82). -/
def ofOpcC (opc : Nat) (e : Enc) : Option Instr :=
  match opc with
  | 0xC0 => some (.bari e)
  | 0xC1 => some (.bara e)
  | 0xC2 => some (.barx e)
  | 0xC3 => some (.barw e)
  | 0xC4 => some (.bart e)
  | 0xC5 => some (.depc e)
  | 0xC6 => some (.clk e)
  | _ => none

/-- Opcodes 0xE_ of the map (R82). -/
def ofOpcE (opc : Nat) (e : Enc) : Option Instr :=
  match opc with
  | 0xE0 => some (.sread e)
  | 0xE1 => some (.swrite e)
  | 0xE2 => if e.d = 0 then some (.rett e) else if e.d = 1 then some (.rettKill e) else none
  | 0xE3 => if e.d = 0 then some (.tlbiVa e) else if e.d = 1 then some (.tlbiAll e) else if e.d = 2 then some (.tlbiGpa e) else if e.d = 3 then some (.tlbiGall e) else none
  | 0xE4 => some (.dhalt e)
  | 0xE5 => some (.dstep e)
  | 0xE6 => some (.drun e)
  | 0xE7 => if bit e.w2.toNat 3 = true then some (.dbp e) else if bit e.w2.toNat 3 = false then some (.dbpClr e) else none
  | 0xE8 => if e.w2Bits 3 2 ≠ 0 then some (.dwp e) else if e.w2Bits 3 2 = 0 then some (.dwpClr e) else none
  | 0xE9 => some (.dread e)
  | 0xEA => some (.dwrite e)
  | 0xEB => if e.modBit 0 = false then some (.dmbxSend e) else if e.modBit 0 = true then some (.dmbxRecv e) else none
  | 0xEC => some (.bkpt e)
  | _ => none

/-- The instruction row of an opcode with the given fields (R82); kinds are told apart by the field their entry names. -/
def ofOpc (opc : Nat) (e : Enc) : Option Instr :=
  match opc / 16 with
  | 0x0 => ofOpc0 opc e
  | 0x1 => ofOpc1 opc e
  | 0x2 => ofOpc2 opc e
  | 0x3 => ofOpc3 opc e
  | 0x4 => ofOpc4 opc e
  | 0x5 => ofOpc5 opc e
  | 0x6 => ofOpc6 opc e
  | 0x7 => ofOpc7 opc e
  | 0x8 => ofOpc8 opc e
  | 0xA => ofOpcA opc e
  | 0xB => ofOpcB opc e
  | 0xC => ofOpcC opc e
  | 0xE => ofOpcE opc e
  | _ => none

end Encoding

end Sys2Proof
end

