-- ==== Sys2Proof/WellFormed.lean ====
section
/-! DEFINITION. Well-formed terms: an instruction whose fields pass every rule of 03 R53 to R65 and of its entry, and
a device step whose places exist in the package. -/

namespace Sys2Proof

namespace WellFormed

def isCore (b : Nat) : Bool := decide (b < 160)
def isSlot (k : Nat) : Bool := decide (k < 64)
def isLane (l : Nat) : Bool := decide (l < 32)
def isDie (c : Nat) : Bool := decide (c < 4)
/-- Partitions 0 to 8, which are also the PCIe functions PF and VF1 to VF8 (17 R356, 28 R441). -/
def isPart (p : Nat) : Bool := decide (p < 9)

def targetOk : InvTarget → Bool
  | .core b | .copyEngine b => isCore b
  | .die c => isDie c
  | .geyser u => decide (u < 4)
  | .commandProcessor | .nearMemory => true

def siteOk : ErrorSite → Bool
  | .memSector _ => true
  | .spadSector b _ | .tasSector b _ | .handleTable b | .caldera b _ => isCore b
  | .crewFile b k | .datapath b k _ => isCore b && isSlot k

/-- The places a device step names exist. -/
def eventOk : Instr → Bool
  | .queueConfigWrite fn _ => isPart fn
  | .queueEnable fn _ => isPart fn
  | .queueDisable fn _ => isPart fn
  | .tailDoorbell fn _ => isPart fn
  | .entryFetch fn => isPart fn
  | .graphLoad fn => isPart fn
  | .graphRun fn => isPart fn
  | .hostCopy fn => isPart fn
  | .syncSignal fn => isPart fn
  | .syncWait fn => isPart fn
  | .syncWaitSatisfied fn => isPart fn
  | .commandCompletion fn => isPart fn
  | .runEnd p => isPart p
  | .chunkAppend p _ => isPart p
  | .dispatchPull die p _ => isDie die && isPart p
  | .teamRetire core _ => isCore core
  | .launchComplete p _ => isPart p
  | .pcTableSort core slot => isCore core && isSlot slot
  | .throttleScoreDecay core => isCore core
  | .longLatencyFill core _ => isCore core
  | .rendezvousDeadlock core slot => isCore core && isSlot slot
  | .storeRegistration core _ => isCore core
  | .revoke core _ => isCore core
  | .bankModeChange core bank => isCore core && decide (bank < 48)
  | .railTunerStep core => isCore core
  | .logRailReturn core => isCore core
  | .tilePathStart core => isCore core
  | .tilePathEnd core => isCore core
  | .copyWrite core _ _ _ => isCore core
  | .copyComplete core _ => isCore core
  | .pklComplete core _ _ => isCore core
  | .pklbComplete core _ _ => isCore core
  | .nmAdd core _ => isCore core
  | .nmSgd core _ => isCore core
  | .nmScale core _ => isCore core
  | .nmZero core _ => isCore core
  | .nmGranule core _ _ => isCore core
  | .nmcComplete core _ => isCore core
  | .allreduce core _ _ => isCore core
  | .reduceScatter core _ _ => isCore core
  | .allgather core _ _ => isCore core
  | .broadcast core _ _ => isCore core
  | .collChunk core _ _ _ => isCore core
  | .collComplete core _ => isCore core
  | .barwRecheck core slot lane => isCore core && isSlot slot && isLane lane
  | .walkStart core _ => isCore core
  | .walkRead die _ _ => isDie die
  | .walkUpdate die _ => isDie die
  | .resumeRetry p _ _ => isPart p
  | .resumeFatal p _ _ => isPart p
  | .ringHeadWrite p _ _ => isPart p
  | .invalidatePage p _ => isPart p
  | .invalidateStage p _ => isPart p
  | .invalidationSend p => isPart p
  | .invalidationAck p target => isPart p && targetOk target
  | .invalidationTimeout p => isPart p
  | .unifiedMigration p _ _ => isPart p
  | .suspendHalted p => isPart p
  | .contextSaved p => isPart p
  | .partitionResetComplete p => isPart p
  | .vfFlr p => isPart p
  | .powerArbiterInterval currents => currents.all fun r => isCore r.core
  | .calendarTakeEffect cls => decide (cls < 7)
  | .telemetryClear p => isPart p
  | .dbgenWrite p _ => isPart p
  | .h2dWrite p _ => isPart p
  | .h2dStageWrite p _ => isPart p
  | .h2dHighWrite p _ => isPart p
  | .d2hRead p => isPart p
  | .d2hHighRead p => isPart p
  | .debugRecordAppend core => isCore core
  | .keySet p k _ => isPart p && decide (k < 128)
  | .keyClear p k => isPart p && decide (k < 128)
  | .spdmMeasurement fn block => isPart fn && decide (block < 256)
  | .tdispStop p => isPart p
  | .ualinkCompletion core _ _ _ => isCore core
  | .registerWrite fn off size _ => isPart fn && decide (off < if fn = 0 then 262144 else 65536) && (size == 4 || size == 8)
  | .illegalOpcode opc => (Encoding.lenSet opc.toNat).isNone
  | .uncorrectableError e => siteOk e
  | .tdiConfigLocked p => isPart p
  | .tdiRun p => isPart p
  | .powerGating core => isCore core
  | .evacuateComplete p => isPart p
  | .restoreComplete p cores => isPart p && cores.all isCore
  | .packageReset (.failed e) _ => decide (1 ≤ e.toNat) && decide (e.toNat ≤ 5)
  | .packageReset .ready _ => true
  | .mmaStart _ | .mmaRailReady _ | .mmaOperandsDelivered _ | .mmaLastStep _ | .mmaCheckDone _ | .mmaCorrectDone _
  | .mmaAddDone _ | .ptWrite | .ptRead | .suspend | .evacuate | .restore | .resume | .reset | .coreReset | .limit
  | .calendar | .unifiedMap | .unifiedMigrate | .unifiedQuery | .pfFlr | .lowPowerWake
  | .ualinkInbound _ | .instructionFetchFault _ | .firmwareUpdate | .lowPowerEntry => true
  | .iadd _ | .isub _ | .iadc _ | .isbb _ | .imul _ | .imulh _ | .imad _ | .idiv _ | .irem _ | .imin _ | .imax _
  | .iabs _ | .ineg _ | .andL _ | .orL _ | .xorL _ | .andn _ | .notL _ | .shl _ | .shr _ | .sar _ | .rotl _ | .bfx _
  | .bfi _ | .popc _ | .clz _ | .brev _ | .sel _ | .mov _ | .movl _ | .lea _ | .icmp _ | .pand _ | .por _ | .pxor _
  | .pnot _ | .pmov _ | .ppack _ | .punpk _ | .fadd _ | .fsub _ | .fmul _ | .ffma _ | .fmin _ | .fmax _ | .fabs _
  | .fneg _ | .fcmp _ | .fclass _ | .fdiv _ | .frcp _ | .fsqrt _ | .frsq _ | .fexp2 _ | .flog2 _ | .fscalb _ | .cvt _
  | .cvts _ | .pack _ | .unpk _ | .qnt _ | .deq _ | .dot2 _ | .dot4 _ | .dot8 _ | .rng _ | .rngu _ | .rmask _
  | .vote _ | .shfl _ | .redl _ | .scanl _ | .elect _ | .matchL _ | .bra _ | .brx _ | .call _ | .ret _ | .join _
  | .exit _ | .yield _ | .trap _ | .nop _ | .regionExact _ | .regionChecked _ | .regionTolerant _ | .idem _
  | .idemEnd _ | .waith _ | .testh _ | .canch _ | .htag _ | .ld _ | .st _ | .atom _ | .red _ | .fenceAcq _
  | .fenceRel _ | .fenceAr _ | .stt _ | .presTest _ | .presWait _ | .presClear _ | .presSet _ | .pref _ | .cinv _
  | .cinvAll _ | .bcfgSp _ | .bcfgCache _ | .bcfgFifo _ | .qpush _ | .qpop _ | .mma _ | .mmas _ | .qblk _ | .rqnt _
  | .bpln _ | .tld _ | .tst _ | .tscl _ | .tzero _ | .tdrn _ | .tmove _ | .tchk _ | .cpyk _ | .cpyrel _ | .cpyq _
  | .pkl _ | .pklb _ | .nmc _ | .nmf _ | .coll _ | .spawn _ | .bari _ | .bara _ | .barx _ | .barw _ | .bart _
  | .depc _ | .clk _ | .sread _ | .swrite _ | .rett _ | .rettKill _ | .tlbiVa _ | .tlbiAll _ | .tlbiGpa _
  | .tlbiGall _ | .dhalt _ | .dstep _ | .drun _ | .dbp _ | .dbpClr _ | .dwp _ | .dwpClr _ | .dread _ | .dwrite _
  | .dmbxSend _ | .dmbxRecv _ | .bkpt _ => true

/-- The fields of an instruction of opcode `opc` pass every check (R67). -/
def fieldsOk (opc : Nat) (e : Enc) : Bool :=
  (match Encoding.lenSet opc with
    | none => false
    | some ls => ls.allows e.len) && (Encoding.fieldErrs opc e).isEmpty

end WellFormed

/-- A well-formed term of the opcode table. -/
def Instr.wf (i : Instr) : Bool :=
  match Encoding.opcOf i with
  | some (opc, e) => WellFormed.fieldsOk opc e && Encoding.ofOpc opc e == some i
  | none => WellFormed.eventOk i

end Sys2Proof
end

