-- ==== Sys2Proof/Decode.lean ====
section
/-! DEFINITION. The decoder and the encoder (spec 03 R53 to R68): bytes in address order to an instruction or the
named reason why they are none, and the words of a well-formed instruction. -/

namespace Sys2Proof

/-- What bytes decode to: an instruction with its length, an unassigned opcode (R67 step 1), an offending field
(R67 step 2, R68), or fewer bytes than the instruction has. -/
inductive Decoded where
  | ok (i : Instr) (len : Nat)
  | illegalOpcode (opc : BitVec 8)
  | illegalEncoding (sub bit : Nat)
  | truncated
  deriving DecidableEq, Repr

/-- The form of a LEN value (R53). -/
def Form.ofLen (w0 : Word) : Form :=
  if w0.getLsbD 1 then (if w0.getLsbD 0 then .extLit else .ext) else if w0.getLsbD 0 then .lit else .base

/-- The opcode field (R54). -/
def opcodeOf (w0 : Word) : BitVec 8 := w0.extractLsb' 2 8

/-- The bytes that word 0 has the core fetch (R53): word 0 alone for an unassigned opcode, whose LEN is not used, and for a LEN
that its opcode does not allow (R67, 04 R84, R85). -/
def headBytes (w0 : Word) : Nat :=
  let n := ({ form := Form.ofLen w0 } : Enc)
  if (Encoding.lenSet (opcodeOf w0).toNat).any fun ls => ls.allows n.len then n.bytes else 4

/-- The fields of word 0 (R54). -/
def unpack0 (w0 : Word) (e : Enc) : Enc :=
  { e with q := w0.extractLsb' 30 2, wb := w0.getLsbD 29, wa := w0.getLsbD 28, b := w0.extractLsb' 22 6,
           a := w0.extractLsb' 16 6, d := w0.extractLsb' 10 6 }

/-- The fields of word 1 (R56). -/
def unpack1 (w1 : Word) (e : Enc) : Enc :=
  { e with mod := w1.extractLsb' 25 7, cp := w1.extractLsb' 23 2, ft := w1.extractLsb' 18 5, rm := w1.extractLsb' 15 3,
           wc := w1.getLsbD 14, c := w1.extractLsb' 8 6, gn := w1.getLsbD 7, gp := w1.extractLsb' 0 7 }

/-- The fields of an instruction from its words in address order (R53). -/
def unpack : List Word → Option Enc
  | [] => none
  | w0 :: ws =>
    match Form.ofLen w0, ws with
    | .base, _ => some (unpack0 w0 { form := .base })
    | .lit, l :: h :: _ => some (unpack0 w0 { form := .lit, literal := h ++ l })
    | .ext, w1 :: w2 :: _ => some (unpack0 w0 (unpack1 w1 { form := .ext, w2 := w2 }))
    | .extLit, w1 :: w2 :: l :: h :: _ => some (unpack0 w0 (unpack1 w1 { form := .extLit, w2 := w2, literal := h ++ l }))
    | _, _ => none

/-- The decode of words (R67). -/
def decodeWords (ws : List Word) : Decoded :=
  match ws with
  | [] => .truncated
  | w0 :: _ =>
    let opc := opcodeOf w0
    match Encoding.lenSet opc.toNat with
    | none => .illegalOpcode opc
    | some ls =>
      if !ls.allows ({ form := Form.ofLen w0 } : Enc).len then .illegalEncoding 0x01 0
      else match unpack ws with
        | none => .truncated
        | some e =>
          match Encoding.lowest (Encoding.fieldErrs opc.toNat e) with
          | some x => .illegalEncoding x.sub x.bit
          | none => match Encoding.ofOpc opc.toNat e with
            | some i => .ok i e.bytes
            | none => .illegalEncoding 0x01 0

/-- Bytes in address order as little-endian words (R53). -/
def wordsOf : List Byte → List Word
  | a :: b :: c :: d :: r => (d ++ c ++ b ++ a) :: wordsOf r
  | _ => []

/-- The decode of bytes in address order. -/
def decodeBytes (bs : List Byte) : Decoded := decodeWords (wordsOf bs)

/-- The LEN bits of a form (R53). -/
def Form.lenBits : Form → BitVec 2
  | .base => 0 | .lit => 1 | .ext => 2 | .extLit => 3

/-- Word 0 (R54) and word 1 (R56). -/
def packWord0 (opc : BitVec 8) (e : Enc) : Word :=
  e.q ++ BitVec.ofBool e.wb ++ BitVec.ofBool e.wa ++ e.b ++ e.a ++ e.d ++ opc ++ e.form.lenBits
def packWord1 (e : Enc) : Word :=
  e.mod ++ e.cp ++ e.ft ++ e.rm ++ BitVec.ofBool e.wc ++ e.c ++ BitVec.ofBool e.gn ++ e.gp

/-- The words of an opcode with its fields. -/
def packWords (opc : BitVec 8) (e : Enc) : List Word :=
  let w0 := packWord0 opc e
  let lit : List Word := [e.literal.extractLsb' 0 32, e.literal.extractLsb' 32 32]
  match e.form with
  | .base => [w0]
  | .lit => w0 :: lit
  | .ext => [w0, packWord1 e, e.w2]
  | .extLit => w0 :: packWord1 e :: e.w2 :: lit

/-- The words of an instruction; a device step has none. -/
def encode (i : Instr) : List Word :=
  match Encoding.opcOf i with
  | some (opc, e) => packWords (BitVec.ofNat 8 opc) e
  | none => []

/-- A word's bytes, little-endian. -/
def wordBytes (w : Word) : List Byte := [w.extractLsb' 0 8, w.extractLsb' 8 8, w.extractLsb' 16 8, w.extractLsb' 24 8]

/-- The bytes of an instruction as they stand in memory. -/
def encodeBytes (i : Instr) : List Byte := (encode i).flatMap wordBytes

/-- The bytes of a numbered table word: its low `nbits` bits, then zeros up to 20 bytes (R53). -/
def tableBytes (nbits w : Nat) : List Byte := leBytes 20 (w % 2 ^ nbits)

/-- The instruction that the decoder reads from a table word. -/
def decodeTableWord (nbits w : Nat) : Option Instr :=
  match decodeBytes (tableBytes nbits w) with
  | .ok i _ => some i
  | _ => none

end Sys2Proof
end

