-- ==== Sys2Proof/Machine/Number.lean ====
section
/-! DEFINITION. Number formats and arithmetic (spec 06): decoding, round_fp, NaN and overflow results, the
accuracy classes, kmix, and the correctly rounded functions. -/

namespace Sys2Proof

/-- A floating-point element format: fraction width `p - 1` below `ebits` exponent bits (R103). -/
structure FloatFmt where
  p : Nat
  ebits : Nat
  bias : Nat
  hasInf : Bool
  hasNaN : Bool
  deriving DecidableEq, Repr

namespace FloatFmt

def f64 : FloatFmt := ⟨53, 11, 1023, true, true⟩
def f32 : FloatFmt := ⟨24, 8, 127, true, true⟩
def f16 : FloatFmt := ⟨11, 5, 15, true, true⟩
def bf16 : FloatFmt := ⟨8, 8, 127, true, true⟩
def e4m3 : FloatFmt := ⟨4, 4, 7, false, true⟩
def e5m2 : FloatFmt := ⟨3, 5, 15, true, true⟩
def e2m1 : FloatFmt := ⟨2, 2, 1, false, false⟩

def width (f : FloatFmt) : Nat := f.p + f.ebits
def emin (f : FloatFmt) : Int := 1 - (f.bias : Int)
/-- The largest finite value as its code without sign: below the infinities, or the format's top code that
is a number (R103, R104). -/
def maxCode (f : FloatFmt) : Nat :=
  if f.hasInf then (2 ^ f.ebits - 1) * 2 ^ (f.p - 1) - 1
  else if f.hasNaN then 2 ^ (f.width - 1) - 2
  else 2 ^ (f.width - 1) - 1
def infCode (f : FloatFmt) : Nat := (2 ^ f.ebits - 1) * 2 ^ (f.p - 1)
def signBit (f : FloatFmt) (neg : Bool) : Nat := if neg then 2 ^ (f.width - 1) else 0

end FloatFmt

/-- An element format: floating point, integer, or the scale format E8M0 (R103 to R106). -/
inductive ElemFmt where
  | float (f : FloatFmt)
  | int (sgn : Bool) (w : Nat)
  | e8m0
  | other (w : Nat)
  deriving DecidableEq, Repr

/-- The element format of a tag. -/
def Tag.elemFmt : Tag → ElemFmt
  | .f64 => .float .f64 | .f32 => .float .f32 | .f16x2 => .float .f16 | .bf16x2 => .float .bf16
  | .e4m3x4 => .float .e4m3 | .e5m2x4 => .float .e5m2 | .e2m1x8 => .float .e2m1
  | .i32 => .int true 32 | .n32 => .int false 32 | .i64 => .int true 64 | .n64 => .int false 64
  | .i8x4 => .int true 8 | .n8x4 => .int false 8 | .i4x8 => .int true 4
  | .i16x2 => .int true 16 | .n16x2 => .int false 16 | .e8m0x4 => .e8m0
  | .addr => .other 64 | .raw | .handle | .pred32 => .other 32

/-- Bits of one element. -/
def Tag.elemBits (t : Tag) : Nat :=
  match t.elemFmt with
  | .float f => f.width
  | .int _ w => w
  | .e8m0 => 8
  | .other w => w

/-- An exact value: a NaN (sign, signalling, the 51 payload bits below the quiet bit), an infinity, a
signed zero, or ±m × 2^e with m > 0. -/
inductive Val where
  | nan (neg sig : Bool) (pay : Nat)
  | inf (neg : Bool)
  | zero (neg : Bool)
  | fin (neg : Bool) (m : Nat) (e : Int)
  deriving DecidableEq, Repr, Inhabited

namespace Val

def defaultNaN : Val := .nan false false 0
def isNaN : Val → Bool
  | .nan .. => true
  | _ => false
def isSig : Val → Bool
  | .nan _ s _ => s
  | _ => false
def isInf : Val → Bool
  | .inf _ => true
  | _ => false
def isZero : Val → Bool
  | .zero _ => true
  | _ => false
def neg : Val → Bool
  | .nan n _ _ | .inf n | .zero n | .fin n _ _ => n
def negate : Val → Val
  | .nan n s p => .nan n s p
  | .inf n => .inf !n
  | .zero n => .zero !n
  | .fin n m e => .fin (!n) m e

/-- ±m × 2^e, a zero of the sign when m is 0. -/
def mk (n : Bool) (m : Nat) (e : Int) : Val := if m = 0 then .zero n else .fin n m e

/-- An integer times 2^e; zero is +0. -/
def ofInt (x : Int) (e : Int := 0) : Val := mk (x < 0) x.natAbs e

end Val

/-- The value of a floating-point code (R104). -/
def FloatFmt.decode (f : FloatFmt) (x : Nat) : Val :=
  let neg := x.testBit (f.width - 1)
  let frac := bits x (f.p - 2) 0
  let ex := bits x (f.width - 2) (f.p - 1)
  let top := 2 ^ f.ebits - 1
  if f.hasInf && ex == top then
    if frac = 0 then .inf neg
    else .nan neg (!frac.testBit (f.p - 2)) ((frac % 2 ^ (f.p - 2)) * 2 ^ (51 - (f.p - 2)))
  else if f.hasNaN && !f.hasInf && ex == top && frac == 7 then .nan neg false (3 * 2 ^ 49)
  else if ex = 0 then Val.mk neg frac (f.emin - (f.p - 1 : Nat))
  else .fin neg (2 ^ (f.p - 1) + frac) ((ex : Int) - f.bias - (f.p - 1 : Nat))

/-- The value of one element's bits. -/
def ElemFmt.decode (f : ElemFmt) (x : Nat) : Val :=
  match f with
  | .float g => g.decode x
  | .int s w => Val.ofInt (intOf s w x)
  | .e8m0 => if x % 256 = 255 then Val.defaultNaN else .fin false 1 ((x % 256 : Nat) - 127)
  | .other w => Val.ofInt (intOf false w x)

/-- Rounding modes, DYN already replaced (R57, R108). -/
inductive Rm where
  | rne | rtz | rdn | rup | rna | sr | rto
  deriving DecidableEq, Repr, Inhabited

/-- The mode of an RM code other than DYN (R57). -/
def Rm.ofCode : Nat → Rm
  | 1 => .rtz | 2 => .rdn | 3 => .rup | 4 => .rna | 5 => .sr | 6 => .rto | _ => .rne

/-- The exceptions of R113, as TINFO<4:0> of R148 numbers them. -/
structure Exc where
  invalid : Bool := false
  divZero : Bool := false
  overflow : Bool := false
  underflow : Bool := false
  inexact : Bool := false
  deriving DecidableEq, Repr, Inhabited

def Exc.or (a b : Exc) : Exc :=
  ⟨a.invalid || b.invalid, a.divZero || b.divZero, a.overflow || b.overflow, a.underflow || b.underflow, a.inexact || b.inexact⟩
def Exc.toNat (a : Exc) : Nat :=
  a.invalid.toNat * 16 + a.divZero.toNat * 8 + a.overflow.toNat * 4 + a.underflow.toNat * 2 + a.inexact.toNat

/-- m × 2^e rounded to the grid of spacing 2^q: the multiple of 2^q chosen, and whether a fraction was
dropped (the body of R108). -/
def roundGrid (rm : Rm) (rand16 : Nat) (neg : Bool) (m : Nat) (e q : Int) : Nat × Bool :=
  if q ≤ e then (m <<< (e - q).toNat, false)
  else
    let s := (q - e).toNat
    let lo := m >>> s
    let rem := m % 2 ^ s
    if rem = 0 then (lo, false)
    else
      let half := 2 ^ (s - 1)
      let up := match rm with
        | .rne => half < rem || (rem == half && lo % 2 == 1)
        | .rna => half ≤ rem
        | .rtz => false
        | .rdn => neg
        | .rup => !neg
        | .rto => lo % 2 == 0
        | .sr => 65536 ≤ (rem <<< 16) >>> s + rand16 % 65536
      (if up then lo + 1 else lo, true)

/-- A value below 2^low in magnitude, far under every grid used, stands for any other such value. -/
def liftTiny (m : Nat) (e low : Int) : Nat × Int :=
  if (Nat.log2 m : Int) + e < low then (1, low - 1) else (m, e)

/-- The NaN of R111 in a format. -/
def FloatFmt.nanCode (f : FloatFmt) (neg : Bool) (pay : Nat) : Nat :=
  if !f.hasNaN then 0
  else if !f.hasInf then f.signBit neg + (2 ^ (f.width - 1) - 1)
  else f.signBit neg + f.infCode + 2 ^ (f.p - 2) + pay >>> (51 - (f.p - 2))

/-- The overflow result of R109. -/
def FloatFmt.overflowCode (f : FloatFmt) (rm : Rm) (neg sat : Bool) : Nat :=
  let toMax := sat || !f.hasNaN || (match rm with
    | .rne | .rna => false
    | .rtz | .rto | .sr => true
    | .rdn => !neg
    | .rup => neg)
  f.signBit neg + (if toMax then f.maxCode else if f.hasInf then f.infCode else 2 ^ (f.width - 1) - 1)

/-- A magnitude `y × 2^q` on the format's grid, y below 2^p or a carry to it, as a code without sign. -/
def FloatFmt.codeOf (f : FloatFmt) (y : Nat) (q : Int) : Nat :=
  -- the grid index of the format: exponent field and hidden bit add up
  let ex := q + (f.p - 1 : Nat) - f.emin
  if y < 2 ^ (f.p - 1) then y else (ex + 1).toNat * 2 ^ (f.p - 1) + (y - 2 ^ (f.p - 1))

/-- round_fp on a finite non-zero ±m × 2^e (R108, R109, R113). -/
def FloatFmt.roundFin (f : FloatFmt) (rm : Rm) (rand16 : Nat) (sat neg : Bool) (m0 : Nat) (e0 : Int) : Nat × Exc :=
  let (m, e) := liftTiny m0 e0 (f.emin - f.p - 40)
  let top : Int := (Nat.log2 m : Int) + e
  if top > f.bias + 1 then (f.overflowCode rm neg sat, { overflow := true, inexact := true })
  else
    let q := max top f.emin - (f.p - 1 : Nat)
    let (y, drop) := roundGrid rm rand16 neg m e q
    -- a carry out of p bits raises the exponent; the code arithmetic below carries by itself
    let code := f.codeOf y q
    if f.maxCode < code then (f.overflowCode rm neg sat, { overflow := true, inexact := true })
    else
      -- tiny: below the smallest normal after rounding with unbounded exponent (R113)
      let (yu, _) := roundGrid rm rand16 neg m e (top - (f.p - 1 : Nat))
      let tiny := decide (top < f.emin) && !(top + 1 == f.emin && yu == 2 ^ f.p)
      (f.signBit neg + code, { underflow := tiny && drop, inexact := drop })

/-- round_fp into a floating-point format, with what the conversion itself signals (R108 to R112). -/
def FloatFmt.round (f : FloatFmt) (rm : Rm) (rand16 : Nat) (sat : Bool) : Val → Nat × Exc
  | .nan n _ p => (f.nanCode n p, { invalid := !f.hasNaN })
  | .inf n =>
    if f.hasInf then (f.signBit n + f.infCode, {})
    else if f.hasNaN && !sat then (f.nanCode n 0, { invalid := true })
    else (f.signBit n + f.maxCode, { invalid := true })
  | .zero n => (f.signBit n, {})
  | .fin n m e => f.roundFin rm rand16 sat n m e

/-- A conversion to an integer format (R108, R111, R112). -/
def roundInt (sgn : Bool) (w : Nat) (rm : Rm) (rand16 : Nat) : Val → Nat × Exc
  | .nan .. => (0, { invalid := true })
  | .inf n => (wrap w (if n then intLow sgn w else intHigh sgn w), { invalid := true })
  | .zero _ => (0, {})
  | .fin n m0 e0 =>
    let (m, e) := liftTiny m0 e0 (-40)
    if (Nat.log2 m : Int) + e > 70 then (wrap w (if n then intLow sgn w else intHigh sgn w), { invalid := true })
    else
      let (y, drop) := roundGrid rm rand16 n m e 0
      let v : Int := if n then -(y : Int) else y
      if v < intLow sgn w || intHigh sgn w < v then
        (wrap w (clampInt v (intLow sgn w) (intHigh sgn w)), { invalid := true })
      else (wrap w v, { inexact := drop })

/-- round_fp into any element format (R108 to R112). E8M0 is no destination of an instruction; its NaN is 0xFF. -/
def ElemFmt.round (f : ElemFmt) (rm : Rm) (rand16 : Nat) (sat : Bool) (v : Val) : Nat × Exc :=
  match f with
  | .float g => g.round rm rand16 sat v
  | .int s w => roundInt s w rm rand16 v
  | .e8m0 => (if v.isNaN then 255 else 0, {})
  | .other w => roundInt false w rm rand16 v

/-! Exact arithmetic. -/

/-- Signed mantissa of a finite value at exponent `e`, which is at most the value's own. -/
def Val.mantAt (e : Int) : Val → Int
  | .fin n m e' => let x : Int := ((m <<< (e' - e).toNat : Nat) : Int); if n then -x else x
  | _ => 0

/-- The exact sum of two values that are not NaN, and whether it is ∞ − ∞ (R110, R113). -/
def Val.add (rm : Rm) (a b : Val) : Val × Bool :=
  match a, b with
  | .inf x, .inf y => if x = y then (.inf x, false) else (Val.defaultNaN, true)
  | .inf x, _ => (.inf x, false)
  | _, .inf y => (.inf y, false)
  | .zero x, .zero y => (.zero (if x = y then x else rm == .rdn), false)
  | .zero _, y => (y, false)
  | x, .zero _ => (x, false)
  | .fin n m e, .fin n' m' e' =>
    let q := min e e'
    let s := (Val.fin n m e).mantAt q + (Val.fin n' m' e').mantAt q
    (if s = 0 then .zero (rm == .rdn) else Val.ofInt s q, false)
  | x, _ => (x, false)

/-- a < b for values that are not NaN; the zeros are equal. -/
def Val.lt (a b : Val) : Bool :=
  match a, b with
  | .inf x, .inf y => x && !y
  | .inf x, _ => x
  | _, .inf y => !y
  | .zero _, .zero _ => false
  | .zero _, y => !y.neg
  | x, .zero _ => x.neg
  | .fin n m e, .fin n' m' e' =>
    let q := min e e'
    (Val.fin n m e).mantAt q < (Val.fin n' m' e').mantAt q
  | _, _ => false

/-- The accuracy classes of R114 to R116; truncation keeps `h` of the `p` planes of b. -/
inductive AccClass where
  | exact
  | trunc (p h : Nat)
  | log
  deriving DecidableEq, Repr

/-- The magnitude of the Mitchell product of two positive integers (R116). -/
def mitchell (a b : Nat) : Nat :=
  let ka := Nat.log2 a
  let kb := Nat.log2 b
  let s := (a - 2 ^ ka) * 2 ^ kb + (b - 2 ^ kb) * 2 ^ ka
  if s < 2 ^ (ka + kb) then 2 ^ (ka + kb) + s else 2 * s

/-- The product of two significands in a class; b is the truncated one (R114 to R116). -/
def AccClass.mul (c : AccClass) (a b : Nat) : Nat :=
  match c with
  | .exact => a * b
  | .trunc p h => a * (b - b % 2 ^ (p - h))
  | .log => mitchell a b

/-- The class product of two values that are not NaN, and whether it is 0 × ∞. -/
def Val.mul (c : AccClass) (a b : Val) : Val × Bool :=
  let n := Bool.xor a.neg b.neg
  match a, b with
  | .inf _, .zero _ | .zero _, .inf _ => (Val.defaultNaN, true)
  | .inf _, _ | _, .inf _ => (.inf n, false)
  | .zero _, _ | _, .zero _ => (.zero n, false)
  | .fin _ m e, .fin _ m' e' => (Val.mk n (c.mul m m') (e + e'), false)
  | x, _ => (x, false)

/-- The first NaN of a list of operands (R111). -/
def firstNaN : List Val → Option Val
  | [] => none
  | v :: vs => if v.isNaN then some v else firstNaN vs

/-- A value with its invalid mark: NaN operands first (R111), else the computed one. -/
def withNaN (ops : List Val) (r : Val × Bool) : Val × Bool :=
  match firstNaN ops with
  | some v => (v, ops.any Val.isSig || r.2)
  | none => r

/-! Functions rounded once. A result that is not exact carries one more bit, set, below at least p + 2
exact bits, so that one round_fp gives the correctly rounded value. -/

/-- ⌊√n⌋ among candidates below 2^k. -/
def isqrtFrom (n acc : Nat) : Nat → Nat
  | 0 => acc
  | k + 1 => let t := acc + 2 ^ k; isqrtFrom n (if t * t ≤ n then t else acc) k

/-- ⌊√n⌋. -/
def isqrt (n : Nat) : Nat := isqrtFrom n 0 (Nat.log2 n / 2 + 1)

/-- m, or m with a remainder below it, at exponent e. -/
def sticky (neg : Bool) (m : Nat) (more : Bool) (e : Int) : Val :=
  Val.mk neg (2 * m + more.toNat) (e - 1)

/-- a / b for positive integers. -/
def divSticky (p : Nat) (neg : Bool) (a : Nat) (ea : Int) (b : Nat) (eb : Int) : Val :=
  let k := p + 4 + Nat.log2 b - Nat.log2 a
  let n := a <<< k
  sticky neg (n / b) (n % b != 0) (ea - eb - k)

/-- √(m × 2^e). -/
def sqrtSticky (p : Nat) (m : Nat) (e : Int) : Val :=
  let k0 := 2 * p + 8
  let k := if (e - k0) % 2 = 0 then k0 else k0 + 1
  let n := m <<< k
  let r := isqrt n
  sticky false r (r * r != n) ((e - k) / 2)

/-- 1 / √(m × 2^e). -/
def rsqrtSticky (p : Nat) (m : Nat) (e : Int) : Val :=
  let k0 := Nat.log2 m + 2 * p + 8
  let k := if (-e - k0) % 2 = 0 then k0 else k0 + 1
  let r := isqrt (2 ^ k / m)
  sticky false r (r * r * m != 2 ^ k) ((-e - k) / 2)

/-- Bounds of 2^(j/2^k) in units of 2^-n, by square roots of 2: `j` holds the fraction's top bits first. -/
def exp2Bounds (n j : Nat) : Nat → Nat → Nat × Nat → Nat × Nat → Nat × Nat
  | 0, _, _, acc => acc
  | i + 1, k, root, acc =>
    let r := (isqrt (root.1 <<< n), isqrt (root.2 <<< n) + 1)
    let acc := if j.testBit (k - 1) then ((acc.1 * r.1) >>> n, (acc.2 * r.2) >>> n + 1) else acc
    if k ≤ 1 then acc else exp2Bounds n j i (k - 1) r acc

/-- √ applied `k` times. -/
def iterSqrt : Nat → Nat → Nat
  | 0, n => n
  | k + 1, n => iterSqrt k (isqrt n)

/-- ⌊2^(s + j/2^k)⌋ for 0 < j < 2^k: the common floor of bounds at growing precision, else the exact root. -/
def exp2Floor (s j k : Nat) : Nat :=
  let tryAt (n : Nat) : Option Nat :=
    let one := 2 ^ n
    let (lo, hi0) := exp2Bounds n j n k (2 * one, 2 * one) (one, one)
    let hi := if k > n then (hi0 * (one + 1)) >>> n + 1 else hi0
    let a := lo >>> (n - s)
    if a = hi >>> (n - s) then some a else none
  match tryAt (s + 96) with
  | some a => a
  | none => match tryAt (s + 1024) with
    | some a => a
    | none => iterSqrt k (2 ^ (s * 2 ^ k + j))

/-- 2^x, rounded to odd below p + 4 bits (R114). -/
def exp2Sticky (p : Nat) (neg : Bool) (m : Nat) (e : Int) : Val :=
  if (Nat.log2 m : Int) + e > 20 then .fin false 1 (if neg then -(2 ^ 20) else 2 ^ 20)
  else if 0 ≤ e then
    let n : Int := ((m <<< e.toNat : Nat) : Int)
    .fin false 1 (if neg then -n else n)
  else
    let k := (-e).toNat
    let n : Int := if neg then -(m : Int) else m
    let fl := n >>> k
    let j := (n - fl * 2 ^ k).toNat
    if j = 0 then .fin false 1 fl
    else sticky false (exp2Floor (p + 4) j k) true (fl - (p + 4 : Nat))

/-- Bits of log2 y for y in [1, 2) held between bounds in units of 2^-n; none where the bounds disagree. -/
def log2Bits (n : Nat) : Nat → Nat → Nat → Nat → Option Nat
  | 0, acc, _, _ => some acc
  | i + 1, acc, lo, hi =>
    let lo2 := (lo * lo) >>> n
    let hi2 := (hi * hi) >>> n + 1
    if 2 ^ (n + 1) ≤ lo2 then log2Bits n i (2 * acc + 1) (lo2 / 2) (hi2 / 2 + 1)
    else if hi2 < 2 ^ (n + 1) then log2Bits n i (2 * acc) lo2 hi2
    else none

/-- ⌊2^s log2 (m / 2^k)⌋ for 2^k < m < 2^(k + 1). -/
def log2Floor (s m k : Nat) : Nat :=
  let tryAt (n : Nat) : Option Nat :=
    let y := (m <<< n) >>> k
    log2Bits n s 0 y (if (m <<< n) % 2 ^ k = 0 then y else y + 1)
  match tryAt (2 * s + 64) with
  | some a => a
  | none => match tryAt (2 * s + 2048) with
    | some a => a
    | none => Nat.log2 (m ^ 2 ^ s) - k * 2 ^ s

/-- log2 (m × 2^e), rounded to odd below p + 4 bits; log2 1 is +0 (R114, R146). -/
def log2Sticky (p : Nat) (m : Nat) (e : Int) : Val :=
  let k := Nat.log2 m
  let s := 2 * p + 8
  if m = 2 ^ k then Val.ofInt (k + e)
  else
    let v : Int := ((k : Int) + e) * 2 ^ s + log2Floor s m k
    if 0 ≤ v then sticky false v.toNat true (-(s : Int)) else sticky true (-v - 1).toNat true (-(s : Int))

/-! The log-class functions of R117: x = 2^ex (1 + fx). -/

/-- ex and the numerator of fx over 2^k, k = log2 m. -/
def logParts (m : Nat) (e : Int) : Int × Nat × Nat := let k := Nat.log2 m; ((k : Int) + e, m - 2 ^ k, k)

def divLog (neg : Bool) (a : Nat) (ea : Int) (b : Nat) (eb : Int) : Val :=
  let (xa, fa, ka) := logParts a ea
  let (xb, fb, kb) := logParts b eb
  let n := fa * 2 ^ kb
  let d := fb * 2 ^ ka
  if d ≤ n then .fin neg (2 ^ (ka + kb) + (n - d)) (xa - xb - (ka + kb : Nat))
  else .fin neg (2 * 2 ^ (ka + kb) - (d - n)) (xa - xb - 1 - (ka + kb : Nat))

/-- 2^⌊L⌋ (1 + L − ⌊L⌋) for L = n / 2^k. -/
def antilog (n : Int) (k : Nat) : Val :=
  let fl := n >>> k
  .fin false (2 ^ k + (n - fl * 2 ^ k).toNat) (fl - k)

def sqrtLog (m : Nat) (e : Int) : Val :=
  let (x, f, k) := logParts m e
  antilog (x * 2 ^ k + f) (k + 1)

def rsqrtLog (m : Nat) (e : Int) : Val :=
  let (x, f, k) := logParts m e
  antilog (-(x * 2 ^ k + f)) (k + 1)

def exp2Log (neg : Bool) (m : Nat) (e : Int) : Val :=
  if (Nat.log2 m : Int) + e > 20 then .fin false 1 (if neg then -(2 ^ 20) else 2 ^ 20)
  else
    let n : Int := if neg then -(m : Int) else m
    if 0 ≤ e then antilog (n * 2 ^ e.toNat) 0 else antilog n (-e).toNat

def log2Log (m : Nat) (e : Int) : Val :=
  let (x, f, k) := logParts m e
  Val.ofInt (x * 2 ^ k + f) (-(k : Int))

/-- kmix (R118). -/
def kmixRound (key i x : Nat) : Nat :=
  let lo := x % 2 ^ 32
  let hi := x / 2 ^ 32
  let f := ((lo ^^^ key % 2 ^ 32 ^^^ (i * 0x7A3B5C1D) % 2 ^ 32) * 0xB5E194C7) % 2 ^ 32
  let f := f ^^^ (f >>> 13)
  let f := ((f * 0x2D6FA389) % 2 ^ 32) ^^^ (key >>> 32)
  lo * 2 ^ 32 + (hi ^^^ f)

def kmix (key ctr stream : Nat) : Nat :=
  let x := ctr ^^^ (stream <<< 48)
  let x := kmixRound key 3 (kmixRound key 2 (kmixRound key 1 (kmixRound key 0 x)))
  (x % 2 ^ 32) ^^^ (x / 2 ^ 32)

end Sys2Proof
end

