-- ==== Sys2Proof/Config.lean ====
section
/-! DEFINITION. What the manual leaves open: constants with no body, so that no proof can see their value.
Each is named in the assumption log. -/

namespace Sys2Proof.Config

/-- Core cycles that pass in the model's n-th step, less one (timing; log entry 10). -/
opaque elapsed : Nat → Nat

/-- A fresh unconstrained number for the n-th choice the device makes within a bound (R275; log entry 11). -/
opaque freeNat : Nat → Nat

/-- The byte read at PA<39:0> `addr` under the key `reader` of a data unit last written under the key `writer`
(R186: unpredictable, a function of the two keys and the ciphertext; log entry 12). -/
opaque mismatchByte (writer reader : BitVec 512) (addr : Nat) (stored : Byte) : Byte

/-- A byte read at PA<39:0> `addr` under key ID `key` while it has no key loaded, where the reader takes poisoned data as they come (R186;
log entry 91). -/
opaque unloadedByte (key addr : Nat) : Byte

/-- The key drawn for key ID 0 at the n-th boot (R450 step 3; log entry 13). -/
opaque bootKey : Nat → BitVec 512

/-- The i-th of the 4 cores harvested on compute die c, as a number modulo the physical cores still left (R12; the harvest is not
given; log entry 14). -/
opaque harvest (c i : Nat) : Nat

/-- The enabled physical cores of compute die c, ascending: 44 less the 4 harvested (R12, R454). -/
def enabledCores (c : Nat) : List Nat :=
  (List.range 4).foldl (fun l i => l.eraseIdx (harvest c i % l.length)) (List.range 44)

/-- The physical core, 0 to 43, behind core index b: the one of its rank among its die's enabled cores (R454). -/
def physCore (b : Nat) : Nat := ((enabledCores (b / 40))[b % 40]?).getD 0

/-- The signed record of measurement block b at anti-rollback counter c, of a die fused off or not (R443; log entry 15). -/
opaque measurement (block counter : Nat) (off : Bool) : BitVec 64

/-- Bytes per core that EVACUATE of a partition needs (R388: the MP reports it; log entry 16). -/
opaque evacuateBytes : Nat → Nat

/-- The device physical page the MP finds for the n-th unified page it migrates (R355; log entry 17). -/
opaque migrationTarget : Nat → Nat

/-- The cells that err in the n-th computation of an array below 0.75 V: member, row, column, by how much (R238; log
entry 30). -/
opaque cellErrors (n : Nat) : List (Nat × Nat × Nat × Int)

/-- What the registers that name a lane's place in a launch (CREW, WID, WIDF, PATCH, SPLIT) read in a debug crew's lane of
core `core`, by number; it belongs to no launch (R394, R95; log entry 18). -/
opaque noLaunch (core srn : Nat) : DWord

/-- Byte i of the image that partition p's evacuation n writes to memory (R388 gives no format; log entry 34). -/
opaque imageByte (p n i : Nat) : Byte

/-- The crew slot whose context byte i of a core's image holds; 64 or more where it holds the core's own state (R387, R388; log entry 34). -/
opaque imageSlot : Nat → Nat

/-- What the i-th register of a crew slot holds that the n-th step restored from bytes no evacuation wrote (log entry 34). -/
opaque strangeWord (n slot i : Nat) : BitVec 32

/-- Slots of calendar class `cls` in which requests of partition p were served in the n-th step, of its own (0 to 6) or borrowed (`cls` + 7);
modulo what the calendar allows (R371; log entry 35). -/
opaque slotCount (p cls n : Nat) : Nat

/-- What the guarded rails, memory dies, HBM4 and links need in the n-th arbiter interval, in mW (R23; log entry 36). -/
opaque guardedNeed : Nat → Nat

/-- The set, modulo 2,048, of an L2 line within its slice (R182 gives the die and the slice; log entry 78). -/
opaque l2Set : Nat → Nat

/-- The way of a full L2 set that the n-th fill replaces, modulo the ways (R182 gives no rule; log entry 78). -/
opaque l2Victim : Nat → Nat

end Sys2Proof.Config
end

