-- ==== Sys2Proof/Machine/State.lean ====
section
/-! DEFINITION. The state of the G9: every register, table, queue, memory and mode the manual gives it, as plain
data; the faults and refusals; and the machine right after package reset has brought it to READY. -/

namespace Sys2Proof.Machine

/-- A general register: value, TAG and FE (05 R88). -/
structure Reg where
  val : Word := 0
  tag : Tag := .raw
  full : Bool := true
  deriving DecidableEq, Repr, Inhabited

/-- Why a lane is PARKED: an absent scratchpad line, with the destination it marked empty (09 R178), or an
unresolved fault (16 R325, 17 R348). -/
inductive Park where
  | line (core bank line : Nat) (dst : Option Nat) (wide : Bool)
  | fault (rid : Nat)
  deriving DecidableEq, Repr

/-- STATE of the PC table (16 R317), with what the lane waits on. -/
inductive LaneState where
  | runnable
  | waitReg (needs : List Nat)
  | waitJoin
  | waitXl
  | waitBar (core bank va phase next : Nat)
  | waitHandle
  | waitUnit
  | parked (why : Park)
  | halted
  | exited
  deriving DecidableEq, Repr, Inhabited

/-- A miss that waits for a walk (17 R347). -/
structure Miss where
  part : Nat
  va : Nat
  write : Bool
  fetch : Bool
  smode : Bool
  deriving DecidableEq, Repr

/-- A thread: a physical lane of a placed crew (05 R88 to R97, 16 R316, 19 R375). `mark` holds the operations there were when the
thread issued the NMF it waits in (15 R311), `wrote` its place in its order of the last array entry it issued that has begun writing
(13 R254), `watching` that it waits for an access to a watched byte to complete (20 R395), `debug` that it is the debug crew's. -/
structure Thread where
  regs : Vector Reg 64 := Vector.replicate 64 {}
  preds : BitVec 128 := 1
  pc : DWord := 0
  st : LaneState := .exited
  age : Nat := 0
  rnd : Word := 0
  region : BitVec 2 := 1
  priv : Bool := false
  regionPc : DWord := 0
  tcause : Word := 0
  tpc : DWord := 0
  taddr : DWord := 0
  tinfo : Word := 0
  tvec : DWord := 0
  rolls : Nat := 0
  wrote : Nat := 0
  yielded : Nat := 0
  haltMark : Bool := false
  stepMark : Bool := false
  skipBp : Bool := false
  predWait : List Nat := []
  miss : Option Miss := none
  seq : Nat := 0
  fence : Nat := 0
  regionSeq : Nat := 0
  relNext : Option (Nat × DWord) := none
  mark : Option Nat := none
  watching : Bool := false
  debug : Bool := false
  deriving DecidableEq, Repr, Inhabited

/-- A lane's arrival in a cross-lane or JOIN instance (08 R157, 16 R331). -/
structure Arrival where
  lane : Nat
  contrib : Bool
  mask : Word
  a : DWord := 0
  atag : Tag := .raw
  b : Word := 0
  pa : Bool := false
  deriving DecidableEq, Repr

/-- An open instance at an address: a JOIN, or a cross-lane instruction by its opcode and fields. `owed` holds
the contributors of a SHFL whose source was parked, `passed` every lane that went on from it (08 R159). -/
structure Instance where
  pc : DWord
  opc : Nat
  enc : Enc
  shadow : Bool
  arrivals : List Arrival
  passed : List Nat := []
  owed : List Nat := []
  deriving DecidableEq, Repr

/-- The guard record of a tile register's latest MMA (13 R258): its array entry while it runs, then the record. -/
structure TchkRec where
  op : Option Nat := none
  word : Word := 0
  deriving DecidableEq, Repr, Inhabited

/-- A crew in its slot (02 R26, 05 R93). The debug crew has no team (20 R394). `order` is the order of its PC table, sorted last in
the cycle `sortedAt` (16 R318). -/
structure Crew where
  team : Option Nat := none
  idx : Nat := 0
  threads : Vector Thread 32 := Vector.replicate 32 {}
  order : List Nat := List.range 32
  sortedAt : Nat := 0
  tiles : Vector (BitVec 128) 16 := Vector.replicate 16 0
  tchk : Vector TchkRec 16 := Vector.replicate 16 {}
  xl : List Instance := []
  behind : Nat := 0
  lastSlot : Nat := 0
  bad : Bool := false
  deriving DecidableEq, Repr

/-- A TAS block claim of deterministic mode (13 R255): block number within the team and the claiming crew. -/
structure Claim where
  block : Nat
  team : Nat
  crew : Nat
  deriving DecidableEq, Repr

/-- A placed team (02 R27, R40, R43): its launch, linear index, crew slots, held banks, and
the first TAS unit of each tile, in logical order. -/
structure Team where
  id : Nat
  part : Nat
  launch : Nat
  l : Nat
  killed : Bool := false
  slots : List Nat
  banks : List Nat
  units : List Nat
  running : Nat := 0
  claims : List Claim := []
  deriving DecidableEq, Repr

/-- The place of an access: a global byte by PA<46:0> (09 R184), or a scratchpad byte. -/
inductive Loc where
  | glob (pa : Nat)
  | spad (core bank off : Nat)
  deriving DecidableEq, Repr

/-- One lane's part of an atomic group (11 R216). -/
structure AtomLane where
  lane : Nat
  seq : Nat
  fence : Nat
  dst : Option Nat
  op : Nat
  tag : Tag
  rm : Nat
  b : DWord
  c : DWord
  deriving DecidableEq, Repr

/-- Bank modes (09 R174). -/
inductive BankMode where
  | spad | cache | fifo
  deriving DecidableEq, Repr, Inhabited

/-- What an issued access or long-latency producer still has to do. -/
inductive PendKind where
  | load (loc : Loc) (size : Nat) (sext : Bool) (tag : Tag) (l2 stream acq : Bool)
  | store (loc : Loc) (data : List Byte) (cached marked rel : Bool)
  | atoms (loc : Loc) (size : Nat) (lanes : List AtomLane) (acq rel : Bool)
  | value (v : DWord) (tag : Tag)
  | tchk (op : Nat)
  | waith (handle : Word) (strict : Bool) (next : DWord)
  | halting (slot mask : Nat)
  | stepping (slot mask : Nat)
  | bank (bank : Nat) (mode : BankMode) (next : DWord)
  deriving DecidableEq, Repr

/-- An issued but unperformed access (10 R194) or unfilled destination (05 R91) of a lane, with its number in
the lane's program order, the fence it stands behind (10 R198), its address (of a bank change, the instruction's), the shadow
lane's place or value (11 R208), or the visible lane's own value where the place is the shadow's alone (`own`), whether it was issued
with a memory permit (16 R323), whether it streams, and the step it was issued in: one for a bundle (11 R207). -/
structure Pend where
  id : Nat
  slot : Nat
  lane : Nat
  seq : Nat
  fence : Nat
  dst : Option Nat
  wide : Bool
  va : DWord := 0
  twin : Option Loc := none
  twinVal : Option DWord := none
  own : Option DWord := none
  permit : Bool := true
  stream : Bool := false
  step : Nat := 0
  kind : PendKind
  deriving DecidableEq, Repr

/-- A private-cache line: its way is the bank, `key` and `line` are PA<46:40> and PA<39:7>, and `first` says that it was inserted
by the crew furthest behind (09 R180). -/
structure CacheLine where
  bank : Nat
  key : Nat
  line : Nat
  valid : Word
  owned : Word
  data : Vector Word 32
  first : Bool
  deriving DecidableEq, Repr

/-- A scratchpad, cache or FIFO bank: its mode, its bytes (unlisted bytes are zero), the pending counts of its
lines that are not zero (09 R178), its FIFO entries, oldest first, each with its poison, and the mode it is changing to (09 R176). -/
structure Bank where
  mode : BankMode := .spad
  mem : List Host.Cell := []
  counts : List (Nat × Nat) := []
  fifo : List (DWord × Bool) := []
  change : Option BankMode := none
  poison : List (Nat × Nat) := []
  deriving DecidableEq, Repr, Inhabited

/-- Slot states of the handle table (15 R292). -/
inductive HandleState where
  | free | pending | ended
  deriving DecidableEq, Repr, Inhabited

/-- A handle-table slot (15 R291 to R294): `stamp` orders frees and ends; `fail` is the trap that waits for
delivery to the issuing lane. -/
structure Handle where
  st : HandleState := .free
  gen : Nat := 0
  cls : Nat := 0
  team : Nat := 0
  slot : Nat := 0
  lane : Nat := 0
  seq : Nat := 0
  order : Nat := 0
  word : Word := 0
  stamp : Nat := 0
  fail : Option (Nat × DWord) := none
  deriving DecidableEq, Repr, Inhabited

/-- A TAS block (06 R121), kept where it differs from its reset value; `idx` counts 128-byte blocks. -/
structure TasBlock where
  idx : Nat
  dbl : Bool
  m : List Int
  x : Int
  spec : List Nat
  grow : Nat
  deriving DecidableEq, Repr

/-- A TLB entry (17 R346): a combined entry of a partition, its page size as a power of two, the guest page it came through, what it
allows, and the sizes of the pages that its first- and second-stage leaves map. -/
structure TlbEntry where
  part : Nat
  va : Nat
  logSize : Nat
  pa : Nat
  gpa : Nat
  userOk : Bool
  writeOk : Bool
  fetchOk : Bool
  page : Nat := 12
  guestPage : Nat := 12
  deriving DecidableEq, Repr

/-- A copy request (15 R296). -/
structure CopyReq where
  src : Nat
  dst : Nat
  ext : List Nat
  sstr : List Int
  dstr : List Int
  esz : Nat
  xform : Nat
  fmt : Nat
  stages : Nat
  mcast : Nat
  bar : Option Nat
  iters : Nat
  dep : Option Nat
  deriving DecidableEq, Repr

/-- A packet a copy or collective has sent to a peer (28 R449): for a destination, a read of `n` source bytes after those got, or a
write of `n` bytes of the item, its piece number `pos`. -/
structure PeerWait where
  dest : Nat
  write : Bool
  got : List Byte
  pos : Nat
  n : Nat
  deriving DecidableEq, Repr

/-- An aligned piece of 8 source bytes as a copy has read it for an iteration at a destination, with the mask of its poisoned
bytes: every access that is single-copy atomic lies within one (10 R193, R201). -/
structure CopyPiece where
  dest : Nat
  iter : Nat
  va : Nat
  bytes : List Byte
  bad : Nat
  deriving DecidableEq, Repr

/-- A copy in its engine (15 R296 to R302): destinations as (team, core) with their gang members, the issued iterations, the elements
performed at each destination, the members' releases (iteration, team), where it stopped, its packet in flight, the pieces of
its source read for the iterations under way; and of an item begun at a global destination, where its writes go on and how many bytes
are performed. -/
structure CopyOp where
  id : Nat
  part : Nat
  team : Nat
  reqAddr : Nat
  req : CopyReq
  handle : Option Nat
  channel : Option Nat
  dests : List (Nat × Nat)
  issued : List Nat
  done : List Nat
  released : List (Nat × Nat)
  waitRid : Option Nat
  stop : Option (Nat × Nat)
  peer : Option PeerWait
  ahead : List CopyPiece
  smode : Bool
  members : List Nat := []
  going : Option PeerWait := none
  written : Nat := 0
  deriving DecidableEq, Repr

/-- The kinds of the Geyser, near-memory and collective engines. -/
inductive EngKind where
  | pkl | pklb | nmc | coll
  deriving DecidableEq, Repr

/-- A Geyser, near-memory or collective operation (15 R303 to R314): its descriptor bytes, the translated pages
of its range and the TLB entries they came from, its progress, and for a collective the parts its peers issued, its packet to a peer's memory, the bytes of SEND got and the pieces of RECV
written. -/
structure EngOp where
  id : Nat
  kind : EngKind
  part : Nat
  team : Nat
  slot : Nat
  handle : Nat
  descAddr : Nat
  desc : List Byte
  seed : Nat
  seqNo : Nat
  pages : List (Nat × Nat)
  via : List TlbEntry
  started : Bool
  source : List Nat
  skip : List Nat
  done : List Nat
  stop : Option (Nat × Nat)
  waitRid : Option Nat
  parts : List PeerPart
  chunks : List (Nat × Nat)
  resent : Nat
  number : Nat
  smode : Bool
  peer : Option PeerWait := none
  got : List Byte := []
  pos : Nat := 0
  deriving DecidableEq, Repr

/-- The operation of an array-queue entry (13 R249): its opcode, descriptors, register operands and rounding mode, and
the pages of its global operands as translated at issue. -/
structure ArrayJob where
  opc : Nat
  enc : Enc
  tiles : List (BitVec 128)
  a : DWord
  b : DWord
  c : DWord
  rm : Nat
  pages : List (Nat × Nat)
  deriving DecidableEq, Repr

/-- The states of R239, and of a tile-path entry. -/
inductive ArrayState where
  | queued | rail | fetch | compute | check | correct | add | running
  deriving DecidableEq, Repr

/-- A cell's sum and special state: 0 finite, 1 +Inf, 2 −Inf, 3 NaN (06 R124, R126). -/
structure CellSum where
  p : Int
  spec : Nat
  deriving DecidableEq, Repr, Inhabited

/-- A cell of a member's block whose P is off by `d`, and whether FINJ made it so (12 R238, R245). -/
structure CellErr where
  member : Nat
  row : Nat
  col : Nat
  d : Int
  inj : Bool
  deriving DecidableEq, Repr

/-- The events of an MMA that injection caused (12 R245): the members whose located element it brought about in this attempt, the
re-issues, and the failure. -/
structure Injected where
  members : List Nat := []
  reissues : Nat := 0
  failed : Bool := false
  deriving DecidableEq, Repr, Inhabited

/-- An entry of the array queues of its span (12 R232, R239): members as (core, team), leader first; for an MMA its
anchor, the fault-free sums of each member's cells row by row, the guard's row and column sums (R237), the tile
scales, the cells in error, the elements located (member, 128 row + column), what injection caused, and the cores whose armed FINJ
it met. -/
structure ArrayOp where
  id : Nat
  slot : Nat
  lane : Nat
  handle : Nat
  span : List (Nat × Nat)
  tileReg : Nat
  job : ArrayJob
  st : ArrayState
  attempt : Nat
  emax : Int
  good : List (List CellSum)
  guardRows : List (List Int)
  guardCols : List (List Int)
  scales : List Nat
  errs : List CellErr
  located : List (Nat × Nat)
  corr : Nat
  injected : Injected
  armed : List Nat
  deriving DecidableEq, Repr

/-- The rail tuner of a core (12 R243), voltages in tenths of a millivolt; `extra` is by how much the rail has stood above the tuner's
voltage in the present arbiter interval, at most (01 R24). -/
structure Rail where
  v : Nat := 7500
  extra : Nat := 0
  raised : Option Nat := none
  c : Nat := 0
  r : Nat := 0
  failed : Bool := false
  retired : Nat := 0
  deriving DecidableEq, Repr, Inhabited

/-- TAS tiles kept on a core for team `l` of a task (02 R41). -/
structure Kept where
  part : Nat
  task : Nat
  l : Nat
  tas64 : Bool
  units : List Nat
  deriving DecidableEq, Repr

/-- Where a vector instruction puts its result. -/
inductive VecDst where
  | reg (r : Nat)
  | pred (p : Nat)
  deriving DecidableEq, Repr, Inhabited

/-- The vector bundle that a core retired last (02 R49, 12 R238): its slot, its destination, the lanes that it gave a result and
that ran tolerant below 0.75 V, whether a lane of it ran checked there, and whether it is a sample not yet found to differ. -/
structure VectorRun where
  slot : Nat
  dst : VecDst
  tolerant : List Nat
  checked : Bool
  sampled : Bool
  deriving DecidableEq, Repr

/-- Watchpoint events to be raised once the accesses of their bundle are performed (20 R395): its slot, the lanes with the watchpoint
and the address, and the accesses. -/
structure WatchHit where
  slot : Nat
  lanes : List (Nat × Nat × DWord)
  ids : List Nat
  deriving DecidableEq, Repr

/-- A core (02 R34, 09 R174, 12 R228, 20 R395). `tolerant` counts the bundles issued in tolerant mode, of which every 64th is
sampled, and `vector` is the vector bundle retired last (02 R49); `masked` and `charged` are its sixteenths of masked slots and what
its share is charged for a raised rail (01 R24). `caldera` holds, for each Caldera slot in use, the partition whose context it
keeps; the context itself stays in the fields it was in, which nothing else uses meanwhile (19 R387; log entry 33). -/
structure Core where
  crews : Vector (Option Crew) 64 := Vector.replicate 64 none
  teams : List Team := []
  banks : Vector Bank 48 := Vector.replicate 48 {}
  cache : List CacheLine := []
  victims : List Nat := []
  score : Nat := 0
  pend : List Pend := []
  tas : List TasBlock := []
  tasPoison : List Nat := []
  kept : List Kept := []
  handles : Vector Handle 1024 := Vector.replicate 1024 {}
  badHandles : Bool := false
  rail : Rail := {}
  crTarget : Word := 64
  crCount : Word := 0
  finj : Word := 0
  tolerant : Nat := 0
  vector : Option VectorRun := none
  copies : List CopyOp := []
  oldCopies : List CopyOp := []
  engs : List EngOp := []
  tlb : List TlbEntry := []
  misses : List Miss := []
  bps : Vector (Option DWord) 8 := Vector.replicate 8 none
  wps : Vector (Option (Nat × Nat × Nat × Nat × Nat)) 4 := Vector.replicate 4 none
  events : List DWord := []
  eventsWaiting : List DWord := []
  hits : List WatchHit := []
  debug : Bool := false
  caldera : List Nat := []
  badCaldera : List Nat := []
  quarantined : Bool := false
  gated : Bool := false
  masked : Nat := 0
  charged : Nat := 0
  deriving DecidableEq, Repr

/-- Where a walk stands: reading, setting A and D bits (address, value read, value to write) with the guest pages
to log and their leaves, or parked on a full dirty-log ring (17 R347, R351). -/
inductive WalkState where
  | read
  | update (writes : List (Nat × Nat × Nat)) (logs : List (Nat × Nat))
  | parked (writes : List (Nat × Nat × Nat)) (logs : List (Nat × Nat))
  deriving DecidableEq, Repr

/-- A walk in a walker (17 R347): the cores that wait for it, the access, and the table entries read so far. -/
structure Walk where
  id : Nat
  die : Nat
  cores : List Nat
  miss : Miss
  st : WalkState
  trail : List (Nat × Nat)
  restarts : Nat
  deriving DecidableEq, Repr

/-- A fault not yet resolved (17 R348, R349): what its record says, whether an access of the command processor has met it, whether
it has been written, and its ring (none: the MP's own, for unified pages). -/
structure FaultRec where
  rid : Nat
  part : Nat
  ring : Option Ring
  va : Nat
  gpa : Nat
  code : Nat
  write : Bool
  fetch : Bool
  smode : Bool
  source : Nat
  cp : Bool
  written : Bool
  deriving DecidableEq, Repr

/-- The registers of a ring (17 R350). -/
structure RingRegs where
  base : Nat := 0
  logN : Nat := 0
  head : Nat := 0
  tail : Nat := 0
  ovf : Bool := false
  deriving DecidableEq, Repr, Inhabited

/-- The invalidation registers of a stage (17 R352). -/
structure InvRegs where
  addr : Nat := 0
  dropped : Bool := false
  timeout : Bool := false
  busy : Bool := false
  seq : Nat := 0
  deriving DecidableEq, Repr, Inhabited

/-- An invalidation request at the MP (17 R353): whole stage or the page, its asker (a TLBI lane, a register,
or the MP itself), once sent the targets that have not acknowledged, and where the lane goes on. -/
structure InvReq where
  id : Nat
  stage2 : Bool
  page : Option Nat
  asker : Option (Nat × Nat × Nat)
  register : Bool
  sent : Bool
  left : List InvTarget
  quar : Nat
  next : DWord
  deriving DecidableEq, Repr

/-- The registers of the host command queue (14 R267). -/
structure QueueRegs where
  qbase : Nat := 0
  en : Bool := false
  logN : Nat := 0
  tail : Nat := 0
  head : Nat := 0
  fetchErr : Bool := false
  tailErr : Bool := false
  cfgErr : Bool := false
  deriving DecidableEq, Repr, Inhabited

/-- The command in progress (14 R268, R271): its entry and the entry's address, whether EN has been set again since (`stale`), so that
HEAD no longer names the entry, its result (status, detail) once it has ended, and the result fields it writes, as offset and bytes. -/
structure Command where
  entry : List Byte
  addr : Nat := 0
  stale : Bool := false
  result : Option (Nat × Nat) := none
  fields : List (Nat × List Byte) := []
  waiting : Bool := false
  deriving DecidableEq, Repr

/-- A launch header (03 R76). -/
structure Header where
  entry : Nat := 0
  widths : List Nat := []
  exts : List Nat := []
  teamCrews : Nat := 1
  flags : Nat := 0
  bkSp : Nat := 0
  bkCache : Nat := 0
  bkFifo : Nat := 0
  tasN : Nat := 0
  chunk : Nat := 0
  canon : Nat := 0
  stack : Nat := 0
  splits : List Nat := []
  deriving DecidableEq, Repr, Inhabited

/-- States of a task entry (14 R278). -/
inductive TaskState where
  | idle | waiting | running | done | skipped
  deriving DecidableEq, Repr

/-- A task entry (14 R277): its index, node, counter, initial count, header, patch block and successors. -/
structure Task where
  idx : Nat
  gslot : Nat
  node : Nat
  st : TaskState
  count : Nat
  init : Nat
  hdr : Header
  patch : Nat
  patchLen : Nat
  succ : List Nat
  deriving DecidableEq, Repr

/-- A patch point (03 R80): node, offset in its block, size, buffer index + 1. -/
structure PatchPoint where
  node : Nat
  off : Nat
  size : Nat
  buf : Nat
  deriving DecidableEq, Repr

/-- A graph slot (14 R272). -/
structure GraphSlot where
  slot : Nat
  first : Nat
  count : Nat
  code : Nat
  points : List PatchPoint
  deriving DecidableEq, Repr

/-- A graph run (14 R274, R278): each node's BITMAP pointer as read before it, the nodes whose latest record is not
COMPLETE, and the status that a failed record access gives the run. -/
structure Run where
  gslot : Nat
  recBase : Nat
  bitmaps : List Nat
  discards : Nat
  bad : List Nat
  fail : Option Nat
  deriving DecidableEq, Repr

/-- A launch in progress (02 R33, R42): the code it executes is the memory as it was at its start, `code` with the keys of its data
units and those of single bytes that differ from their unit's (03 R69); `next` is the
first team whose chunk is not yet appended, `claimed` the cores reserved for the teams of a co-resident launch (R37). -/
structure Launch where
  id : Nat
  part : Nat
  task : Nat
  hdr : Header
  total : Nat
  entryVa : Nat
  patch : Nat
  stackBase : Nat
  stackSize : Nat
  coreCnt : Nat
  code : List Host.Cell
  codeKeys : List (Nat × Nat)
  codeOld : List (Nat × Nat)
  started : Bool
  unplaceable : Bool
  retired : Nat
  killed : List Nat
  claimed : List (Nat × Nat)
  next : Nat
  deriving DecidableEq, Repr

/-- A byte of memory that launches still running have stored to: each of them with the key and the byte as they were before its store, the
latest first (03 R69). -/
structure CodeCell where
  addr : Nat
  writers : List (Nat × Nat × Byte)
  deriving DecidableEq, Repr

/-- A chunk of a work queue: teams l to last of a launch (02 R33). -/
structure Chunk where
  launch : Nat
  l : Nat
  last : Nat
  deriving DecidableEq, Repr

/-- The phases of a suspension (19 R388). -/
inductive Phase where
  | active | halting | saving | saved | evacuating | evacuated | restoring
  deriving DecidableEq, Repr, Inhabited

/-- An evacuated core (19 R388): its index before, and what it held (log entry 34). -/
structure Image where
  core : Nat
  ctx : Core
  deriving DecidableEq, Repr

/-- A partition (17 R356): its table entry, and the pages and queues that serve it. `cpFatal` holds the pages whose faults
were resolved as fatal for the command at hand (R349), `backing` the host address behind each unified page and `moving` the pages on
their way to host memory with the invalidation each waits for (R355), `slots` the telemetry SLOTS0 to SLOTS6 and BORROWED
(18 R371), `imageNo` the number of the evacuation whose image `image` stands for (19 R388). -/
structure Partition where
  st : Nat := 0
  flags : Nat := 0
  cores : BitVec 160 := 0
  urgent : BitVec 160 := 0
  hroot : Nat := 0
  groot : Nat := 0
  tvec : Nat := 0
  stackBase : Nat := 0
  stackSize : Nat := 0
  copyAp : Nat := 0
  templ : Nat := 0
  keys : List Nat := List.replicate 16 0
  tags : List Nat := List.replicate 16 0
  groups : List Nat := List.replicate 16 0
  cmdBase : Nat := 0
  cmdSize : Nat := 0
  queue : QueueRegs := {}
  cmd : Option Command := none
  cpFatal : List Nat := []
  graphs : List GraphSlot := []
  tasks : List Task := []
  run : Option Run := none
  launches : List Launch := []
  workq : List Chunk := []
  urgentq : List Chunk := []
  faultRing : RingRegs := {}
  hyperRing : RingRegs := {}
  dirtyRing : RingRegs := {}
  inv1 : InvRegs := {}
  inv2 : InvRegs := {}
  invs : List InvReq := []
  tele : Vector Nat 12 := Vector.replicate 12 0
  slots : Vector Nat 8 := Vector.replicate 8 0
  energy : Nat := 0
  maskedSlots : Nat := 0
  maskInt : Nat := 0
  floor : Nat := 0
  dentry : Nat := 0
  dbgen : Bool := false
  dbgCode : List Host.Cell := []
  dbgKeys : List (Nat × Nat) := []
  h2dLost : Bool := false
  staging : Word := 0
  h2d : List DWord := []
  d2h : List DWord := []
  badAcc : Bool := false
  rsvdWrite : Bool := false
  lastOff : Nat := 0
  tdisp : Nat := 0
  msixTable : List (DWord × Word) := List.replicate 20 (0, 0)
  msixMask : Nat := 0xFFFFF
  msixPend : Nat := 0
  backing : List (Nat × Nat) := []
  moving : List (Nat × Nat) := []
  peers : List Nat := List.replicate 15 0
  expBase : Nat := 0
  expSize : Nat := 0
  phase : Phase := .active
  image : List Image := []
  imageAt : Nat := 0
  imageNo : Nat := 0
  collSeq : List Nat := List.replicate 16 0
  deriving DecidableEq, Repr, Inhabited

/-- A compute die: its L2 TLB, of combined entries and of second-stage ones (partition, address of the leaf, leaf), and whether its
SRAM die is enabled (17 R346, 01 R13). -/
structure Die where
  l2tlb : List TlbEntry := []
  stage2 : List (Nat × Nat × Nat) := []
  sram : Bool := true
  deriving DecidableEq, Repr, Inhabited

/-- What HBM4 holds of a data unit that L2 has newer: its key's entry of the log, its bytes, and its poisoned sectors (09 R190). -/
structure HbmUnit where
  key : Nat
  data : List Byte
  poison : List (Nat × Nat)
  deriving DecidableEq, Repr

/-- A line held by L2 (09 R182, R183): PA<39:7>, the key ID it was brought in under, what HBM4 holds while a write is not yet written
back, and its ownership record: the owner core if any, the word mask, and whether it was demoted. -/
structure L2Line where
  line : Nat
  key : Nat
  back : Option HbmUnit := none
  core : Option Nat := none
  mask : Word := 0
  demoted : Bool := false
  deriving DecidableEq, Repr

/-- Where the PF mailbox stands (28 R442): the areas, and while BUSY the command as it was at the doorbell. -/
structure Mailbox where
  req : List Byte := List.replicate 256 0
  resp : List Byte := List.replicate 256 0
  cmd : List Byte := []
  busy : Bool := false
  dropped : Bool := false
  code : Nat := 0
  deriving DecidableEq, Repr, Inhabited

/-- The bundle an instruction acts on: core, crew slot, active lanes (physical, ascending), address; and of a bundle of the vector
datapath the lanes whose guard is true, with whether each is in S mode, and the destination (02 R49). -/
structure Cur where
  core : Nat
  slot : Nat
  lanes : List Nat
  pc : DWord
  vec : List (Nat × Bool) := []
  dst : VecDst := .pred 0
  deriving DecidableEq, Repr, Inhabited

/-- A move of the machine: a crew's issue slot, with one bundle or, as `dual`, with the second one that 16 R319 allows; one of the
device's own steps; a host agent writing its own memory, coming to answer reads of 32 bytes of it with an error (`true`), with poison or well (28
R449; log entry 87), or reading a function's BAR (28 R439); the PF writing BASE (hi:lo) or LOG2N
of a tenant's fault ring, or a VF a field of its partition's entry (17 R350, R356; log entry 38); a peer's cancel of a collective
(15 R295); an error of a lane of the vector bundle just retired on a core whose rail stands low (02 R49, 12 R238); the MP ending a step of
the boot (29 R450); or a BAR request, a write or with no data a read, outside the selective IDE stream of its function (28 R446). All of them
as log entry 9 says. -/
inductive Act where
  | issue (core slot : Nat)
  | dual (core slot : Nat)
  | event (i : Instr)
  | host (addr : Nat) (data : List Byte)
  | hostBad (sector : Nat) (answer : Option Bool)
  | read (fn off size : Nat)
  | ring (part off : Nat) (v : Word)
  | vf (fn off : Nat) (data : List Byte)
  | peerCancel (core id : Nat)
  | vectorError (core lane : Nat) (mask : DWord)
  | boot
  | stray (fn off size : Nat) (data : Option DWord)
  deriving DecidableEq, Repr

/-- A host-side observation: what a BAR read or a VF's read of its entry returned, an interrupt sent, an answer given, a packet sent to a peer (with no
data, a read) with its source and destination tags and the accelerator that serves the latter (28 R447, R449), a request refused with UR
(28 R446). -/
inductive HostObs where
  | read (fn off : Nat) (v : DWord)
  | field (fn off : Nat) (v : DWord)
  | msix (fn vec : Nat)
  | spdm (fn block : Nat) (sig : Option DWord)
  | key (fn k : Nat) (done : Bool)
  | fabric (dst : BitVec 16) (ok : Bool) (data : List Byte)
  | send (part src dst acc off len : Nat) (data : Option (List Byte))
  | unsupported (fn off : Nat)
  deriving DecidableEq, Repr

/-- The state of the machine. `mem` is global memory as seen through L2: the bytes of the lines in `l2`, and of HBM4 elsewhere
(09 R190; log entry 78). `codeCells` is what stores of running launches keep from later ones (03 R69). `keys` maps each loaded key ID to its entry of `keyLog`, every key ever loaded since boot, and
`unitKeys` each data unit of memory to the entry it was last written under (09 R186); `flr` holds the partitions that a function
reset of the PF has still to reset (28 R446); `hostBad` the 32-byte sectors of host memory whose reads the host answers with an
error completion (`true`) or poison (28 R449); `booting` how the boot under way will end (29 R450). -/
structure State where
  cycle : Nat
  fresh : Nat
  agenda : List Act
  cur : Option Cur
  hostOut : List HostObs
  mem : List Host.Cell
  hostMem : List Host.Cell
  hostBad : List (Nat × Bool)
  unitKeys : List (Nat × Nat)
  codeCells : List CodeCell
  l2 : List L2Line
  revokes : List (Nat × Nat)
  poison : List (Nat × Nat)
  cores : Vector Core 160
  dies : Vector Die 4
  parts : Vector Partition 9
  arrays : List ArrayOp
  walks : List Walk
  walkCache : List (Nat × Nat × Nat × Nat × Nat)
  faults : List FaultRec
  calendar : Vector (List Nat) 7
  calendarNext : Vector (Option (List Nat)) 7
  keys : List (Nat × Nat)
  keyLog : List (Nat × BitVec 512)
  limit : Nat
  limitNext : Nat
  mailbox : Mailbox
  antiRollback : Nat
  signatures : Nat
  exhausted : Bool
  boots : Nat
  boot : Nat
  booting : BootResult
  bootErr : Nat
  asleep : Bool
  flr : List Nat
  nextId : Nat
  deriving DecidableEq, Repr

/-- Reasons to stop. The manual gives every condition an outcome, so no meaning raises one; safe. -/
inductive Fault where
  /-- Raised by nothing; the manual leaves the machine no state without a next one. Safe. -/
  | stuck
  deriving DecidableEq, Repr

/-- Refusals. -/
inductive Refusal where
  /-- An instruction without a meaning yet, by its mnemonic: the refused arms of Dispatch. Safe. -/
  | notModelled (mnemonic : String)
  deriving DecidableEq, Repr

/-- The machine as package reset leaves it (19 R392), BOOT at FIRMWARE, every calendar slot without an owner (29 R450; log entry 2): `sram`
are the enabled SRAM dies, bit n that of core group n (log entry 6), and `booting` how the boot will end. -/
def State.started (boots : Nat) (sram : BitVec 4) (booting : BootResult) : State where
  cycle := 0
  fresh := 0
  agenda := []
  cur := none
  hostOut := []
  mem := []
  hostMem := []
  hostBad := []
  unitKeys := []
  codeCells := []
  l2 := []
  revokes := []
  poison := []
  cores := Vector.replicate 160 {}
  dies := Vector.ofFn fun d => { sram := sram.getLsbD d.val }
  parts := Vector.replicate 9 {}
  arrays := []
  walks := []
  walkCache := []
  faults := []
  calendar := Vector.replicate 7 (List.replicate 256 15)
  calendarNext := Vector.replicate 7 none
  keys := []
  keyLog := []
  limit := 3000
  limitNext := 3000
  mailbox := {}
  antiRollback := 0
  signatures := 0
  exhausted := false
  boots := boots
  boot := 0
  booting := booting
  bootErr := 0
  asleep := false
  flr := []
  nextId := 1

/-- The machine right after reset (19 R392; log entry 2), every SRAM die enabled (log entry 6). -/
def State.reset : State := State.started 0 15 .ready

/-- The boot's defaults (29 R450 step 3): every core and every slot in partition 0, a fresh key under key ID 0, the limit 3,000 W. -/
def State.defaults (s : State) : State :=
  { s with parts := s.parts.set 0 { s.parts[0] with st := 1, cores := BitVec.allOnes 160 },
           calendar := Vector.replicate 7 (List.replicate 256 0), keys := [(0, s.keyLog.length)],
           keyLog := s.keyLog ++ [(0, Config.bootKey s.boots)], limit := 3000, limitNext := 3000 }

/-- The defaults are in place and BOOT becomes READY (29 R450). -/
def State.booted (s : State) : State := { s.defaults with boot := 3 }

/-- A step of the boot ends (29 R450, R451): FIRMWARE, DISCOVERY, DEFAULTS, then READY; or it fails, the firmware's signature in the first
step, what BOOTERR's other codes name in the second. -/
def State.bootStep (s : State) : State :=
  match s.boot, s.booting with
  | 0, .failed 1 => { s with boot := 15, bootErr := 1 }
  | 0, _ => { s with boot := 1 }
  | 1, .failed e => { s with boot := 15, bootErr := e.toNat }
  | 1, .ready => { s with boot := 2 }
  | 2, _ => s.booted
  | _, _ => s

end Sys2Proof.Machine
end

