-- ==== Sys2Proof/Machine/Planes.lean ====
section
/-! DEFINITION. Bit-plane records (12 R229) and the geometry of copies (15 R296 to R298). -/

namespace Sys2Proof.Machine

/-- Exponent planes, significand planes, `we` and L of an element format (R229). -/
structure PlaneFmt where
  ep : Nat
  sp : Nat
  we : Nat
  l : Nat
  deriving DecidableEq, Repr

def planeFmt : Tag → Option PlaneFmt
  | .f64 => some ⟨11, 53, 12, 64⟩
  | .f32 => some ⟨8, 24, 9, 32⟩
  | .f16x2 => some ⟨5, 11, 6, 16⟩
  | .bf16x2 => some ⟨8, 8, 9, 16⟩
  | .e4m3x4 => some ⟨4, 4, 5, 8⟩
  | .e5m2x4 => some ⟨5, 3, 6, 8⟩
  | .e2m1x8 => some ⟨2, 2, 3, 4⟩
  | .i8x4 | .n8x4 => some ⟨0, 8, 4, 16⟩
  | .i4x8 => some ⟨0, 4, 3, 8⟩
  | _ => none

/-- ⌈bits / 128⌉ × 16 bytes. -/
def padBytes (bits : Nat) : Nat := ceilDiv bits 128 * 16

/-- The record size S for Ct columns. -/
def recordSize (f : PlaneFmt) (ct : Nat) : Nat := padBytes ct * (1 + f.ep + f.sp) + padBytes (ct * f.l)

/-- Sign, exponent field, significand with hidden bit, and log word of an element's bits. -/
def planesOf (t : Tag) (f : PlaneFmt) (x : Nat) : Nat × Nat × Nat × Nat :=
  match t.elemFmt with
  | .float g =>
    let sg := (x.testBit (g.width - 1)).toNat
    let ex := bits x (g.width - 2) (g.p - 1)
    let fr := x % 2 ^ (g.p - 1)
    let m := if ex = 0 then fr else 2 ^ (g.p - 1) + fr
    let word := match g.decode x with
      | .fin _ m e =>
        let k := Nat.log2 m
        (m - 2 ^ k) * 2 ^ (f.sp - 1 - k) + wrap f.we ((k : Int) + e) * 2 ^ (f.sp - 1)
      | _ => 0
    (sg, ex, m, word)
  | .int s w =>
    let v := intOf s w x
    let m := v.natAbs
    let k := Nat.log2 m
    ((decide (v < 0)).toNat, 0, m, if m = 0 then 0 else (m - 2 ^ k) * 2 ^ (f.sp - 1 - k) + k * 2 ^ (f.sp - 1))
  | _ => (0, 0, 0, 0)

/-- A plane: one bit of each column, padded. -/
def plane (ps : List Bool) : List Byte :=
  leBytes (padBytes ps.length) (ps.foldr (fun b acc => b.toNat + 2 * acc) 0)

/-- The record of one row of elements. -/
def planeRecord (t : Tag) (f : PlaneFmt) (row : List Nat) : List Byte :=
  let xs := row.map (planesOf t f)
  plane (xs.map fun x => x.1 == 1) ++
  (List.range f.ep).flatMap (fun i => plane (xs.map fun x => x.2.1.testBit (f.ep - 1 - i))) ++
  (List.range f.sp).flatMap (fun i => plane (xs.map fun x => x.2.2.1.testBit (f.sp - 1 - i))) ++
  leBytes (padBytes (row.length * f.l)) (packElems f.l (xs.map fun x => x.2.2.2))

/-- Column `j` of a record read back: sign, exponent field, significand, log word. -/
def recordElem (f : PlaneFmt) (ct : Nat) (rec : List Byte) (j : Nat) : Nat × Nat × Nat × Nat :=
  let w := padBytes ct
  let bitAt (k : Nat) : Nat := (((rec[k * w + j / 8]?).getD 0).toNat >>> (j % 8)) % 2
  let field (at_ n : Nat) : Nat := (List.range n).foldl (fun acc i => 2 * acc + bitAt (at_ + i)) 0
  let base := w * (1 + f.ep + f.sp)
  let log := (leNat ((rec.drop (base + j * f.l / 8)).take (ceilDiv f.l 8 + 1)) >>> (j * f.l % 8)) % 2 ^ f.l
  (bitAt 0, field 1 f.ep, field (1 + f.ep) f.sp, log)

/-! Copies. An item is one element, or one record under bit-plane; progress counts items. -/

def CopyReq.ext_ (r : CopyReq) (i : Nat) : Nat := (r.ext[i]?).getD 1
def CopyReq.ss (r : CopyReq) (i : Nat) : Int := (r.sstr[i]?).getD 0
def CopyReq.ds (r : CopyReq) (i : Nat) : Int := (r.dstr[i]?).getD 0
def CopyReq.passes (r : CopyReq) : Nat := max r.iters 1
def CopyReq.looping (r : CopyReq) : Bool := decide (2 ≤ r.iters)
def CopyReq.planeFmt (r : CopyReq) : Option PlaneFmt := if r.xform = 2 then (Tag.ofCode r.fmt).bind Machine.planeFmt else none

/-- Items of one iteration. -/
def CopyReq.items (r : CopyReq) : Nat := if r.xform = 2 then r.ext_ 1 else r.ext_ 0 * r.ext_ 1 * r.ext_ 2 * r.ext_ 3

/-- Coordinates of an element item, i0 fastest. -/
def CopyReq.coords (r : CopyReq) (k : Nat) : Nat × Nat × Nat × Nat :=
  (k % r.ext_ 0, k / r.ext_ 0 % r.ext_ 1, k / (r.ext_ 0 * r.ext_ 1) % r.ext_ 2, k / (r.ext_ 0 * r.ext_ 1 * r.ext_ 2))

/-- Bits of an element under bit-plane: 4 for E2M1 and I4. -/
def CopyReq.elemBits (r : CopyReq) : Nat :=
  if r.xform = 2 then ((Tag.ofCode r.fmt).map Tag.elemBits).getD 8 else 8 * r.esz

/-- Source addresses of item k of iteration n, in bits past the address for elements of 4 bits. -/
def CopyReq.source (r : CopyReq) (n k : Nat) : List (Nat × Nat) :=
  let base := add64 r.src (if r.looping then (n : Int) * r.ss 3 else 0)
  if r.xform = 2 then
    (List.range (r.ext_ 0)).map fun i => (add64 base ((i * r.elemBits / 8 : Nat) + (k : Int) * r.ss 1), i * r.elemBits % 8)
  else
    let (i0, i1, i2, i3) := r.coords k
    [(add64 base ((i0 * r.esz : Nat) + (i1 : Int) * r.ss 1 + (i2 : Int) * r.ss 2 + (i3 : Int) * r.ss 3), 0)]

/-- Destination pieces (address, bytes) of item k of iteration n (R297). -/
def CopyReq.target (r : CopyReq) (n k : Nat) : List (Nat × Nat) :=
  let stage := n % r.stages
  let base := add64 r.dst (if r.looping then (stage : Int) * r.ds 3 else 0)
  match r.xform with
  | 2 => [(add64 base ((k : Int) * r.ds 1), ((r.planeFmt).map fun f => recordSize f (r.ext_ 0)).getD 0)]
  | 3 =>
    let (i0, i1, _, _) := r.coords k
    [(add64 r.dst ((i0 * r.esz : Nat) + (i1 : Int) * r.ds 1), r.esz),
     (add64 r.dst (r.ds 3 + (i1 * r.esz : Nat) + (i0 : Int) * r.ds 2), r.esz)]
  | x =>
    let (i0, i1, i2, i3) := r.coords k
    let (p, q) := if x = 1 then (i1, i0) else (i0, i1)
    [(add64 base ((p * r.esz : Nat) + (q : Int) * r.ds 1 + (i2 : Int) * r.ds 2 + (i3 : Int) * r.ds 3), r.esz)]

/-- Bytes of an item. -/
def CopyReq.itemBytes (r : CopyReq) : Nat := ((r.target 0 0).map (·.2)).foldl (· + ·) 0

/-- The 128-byte lines (address / 128) an iteration covers, with the last item that writes each. -/
def CopyReq.lines (r : CopyReq) (n : Nat) : List (Nat × Nat) :=
  (List.range r.items).foldl (fun acc k =>
    (r.target n k).foldl (fun acc (p : Nat × Nat) =>
      (List.range ((p.1 + p.2 - 1) / 128 + 1 - p.1 / 128)).foldl (fun acc i =>
        let ln := p.1 / 128 + i
        (ln, k) :: acc.filter fun e => e.1 != ln) acc) acc) []

end Sys2Proof.Machine
end

