-- ==== Sys2Proof/Machine/Access.lean ====
section
/-! DEFINITION. Reading and updating the parts of the state: cores, crews, threads, partitions, registers,
predicates; and who a lane is (team, launch, gang, partition). -/

namespace Sys2Proof.Machine

/-- Core b in the order of 17 R454. -/
def State.core (s : State) (b : Nat) : Core := if h : b < 160 then s.cores[b] else {}
def State.setCore (s : State) (b : Nat) (c : Core) : State :=
  if h : b < 160 then { s with cores := s.cores.set b c } else s
def State.modCore (s : State) (b : Nat) (f : Core → Core) : State := s.setCore b (f (s.core b))

def State.part (s : State) (p : Nat) : Partition := if h : p < 9 then s.parts[p] else {}
def State.setPart (s : State) (p : Nat) (x : Partition) : State :=
  if h : p < 9 then { s with parts := s.parts.set p x } else s
def State.modPart (s : State) (p : Nat) (f : Partition → Partition) : State := s.setPart p (f (s.part p))

def State.die (s : State) (c : Nat) : Die := if h : c < 4 then s.dies[c] else {}
def State.modDie (s : State) (c : Nat) (f : Die → Die) : State :=
  if h : c < 4 then { s with dies := s.dies.set c (f s.dies[c]) } else s

def Core.crew (c : Core) (sl : Nat) : Option Crew := if h : sl < 64 then c.crews[sl] else none
def Core.setCrew (c : Core) (sl : Nat) (x : Option Crew) : Core :=
  if h : sl < 64 then { c with crews := c.crews.set sl x } else c
def State.crew (s : State) (b sl : Nat) : Option Crew := (s.core b).crew sl
def State.setCrew (s : State) (b sl : Nat) (x : Option Crew) : State := s.modCore b fun c => c.setCrew sl x
def State.modCrew (s : State) (b sl : Nat) (f : Crew → Crew) : State :=
  match s.crew b sl with
  | none => s
  | some c => s.setCrew b sl (some (f c))

def Crew.thread (c : Crew) (l : Nat) : Thread := if h : l < 32 then c.threads[l] else {}
def Crew.setThread (c : Crew) (l : Nat) (t : Thread) : Crew :=
  if h : l < 32 then { c with threads := c.threads.set l t } else c
def Crew.modThread (c : Crew) (l : Nat) (f : Thread → Thread) : Crew := c.setThread l (f (c.thread l))
def State.thread (s : State) (b sl l : Nat) : Thread :=
  match s.crew b sl with
  | none => {}
  | some c => c.thread l
def State.setThread (s : State) (b sl l : Nat) (t : Thread) : State := s.modCrew b sl fun c => c.setThread l t
def State.modThread (s : State) (b sl l : Nat) (f : Thread → Thread) : State := s.modCrew b sl fun c => c.modThread l f

def Core.bank (c : Core) (k : Nat) : Bank := if h : k < 48 then c.banks[k] else {}
def Core.setBank (c : Core) (k : Nat) (x : Bank) : Core := if h : k < 48 then { c with banks := c.banks.set k x } else c
def State.bank (s : State) (b k : Nat) : Bank := (s.core b).bank k
def State.modBank (s : State) (b k : Nat) (f : Bank → Bank) : State := s.modCore b fun c => c.setBank k (f (c.bank k))

def Core.handle (c : Core) (k : Nat) : Handle := if h : k < 1024 then c.handles[k] else {}
def State.handle (s : State) (b k : Nat) : Handle := (s.core b).handle k
def State.modHandle (s : State) (b k : Nat) (f : Handle → Handle) : State :=
  s.modCore b fun c => if h : k < 1024 then { c with handles := c.handles.set k (f c.handles[k]) } else c

def Crew.tile (c : Crew) (k : Nat) : BitVec 128 := if h : k < 16 then c.tiles[k] else 0
def Crew.setTile (c : Crew) (k : Nat) (v : BitVec 128) : Crew :=
  if h : k < 16 then { c with tiles := c.tiles.set k v } else c
def Crew.record (c : Crew) (k : Nat) : TchkRec := if h : k < 16 then c.tchk[k] else {}
def Crew.setRec (c : Crew) (k : Nat) (v : TchkRec) : Crew := if h : k < 16 then { c with tchk := c.tchk.set k v } else c

/-! General registers (05 R88) and predicates (05 R92). -/

def Thread.reg (t : Thread) (r : Nat) : Reg := if h : r < 64 then t.regs[r] else {}
def Thread.setReg (t : Thread) (r : Nat) (x : Reg) : Thread := if h : r < 64 then { t with regs := t.regs.set r x } else t

/-- The value, tag and fullness of a register or pair: a pair of unequal tags reads RAW (R88). -/
def Thread.value (t : Thread) (r : Nat) (wide : Bool) : DWord :=
  if wide then (t.reg (r + 1)).val ++ (t.reg r).val else (t.reg r).val.setWidth 64
def Thread.tag (t : Thread) (r : Nat) (wide : Bool) : Tag :=
  if wide then (if (t.reg r).tag = (t.reg (r + 1)).tag then (t.reg r).tag else .raw) else (t.reg r).tag

/-- Writing a destination: value, tag and FE = 1 together (R88, R91). -/
def Thread.write (t : Thread) (r : Nat) (wide : Bool) (v : DWord) (g : Tag) : Thread :=
  let t := t.setReg r { val := v.setWidth 32, tag := g, full := true }
  if wide then t.setReg (r + 1) { val := (v >>> 32).setWidth 32, tag := g, full := true } else t

/-- Marking a destination empty (R91). -/
def Thread.markEmpty (t : Thread) (r : Nat) (wide : Bool) : Thread :=
  let t := t.setReg r { t.reg r with full := false }
  if wide then t.setReg (r + 1) { t.reg (r + 1) with full := false } else t
def Thread.markFull (t : Thread) (r : Nat) (wide : Bool) : Thread :=
  let t := t.setReg r { t.reg r with full := true }
  if wide then t.setReg (r + 1) { t.reg (r + 1) with full := true } else t

/-- p0 reads 1 and discards writes (R63, R92). -/
def Thread.pred (t : Thread) (p : Nat) : Bool := p == 0 || t.preds.getLsbD p
def Thread.setPred (t : Thread) (p : Nat) (v : Bool) : Thread :=
  if p = 0 ∨ 128 ≤ p then t
  else { t with preds := if v then t.preds ||| (1#128 <<< p) else t.preds &&& ~~~(1#128 <<< p) }

/-- A fresh number, never used before (the model's own names for operations). -/
def State.newId (s : State) : Nat × State := (s.nextId, { s with nextId := s.nextId + 1 })

/-! Identity. -/

/-- The partition that owns a core (17 R356). -/
def State.partOf (s : State) (b : Nat) : Nat := ((List.range 9).find? fun p => (s.part p).cores.getLsbD b).getD 0

/-- SPCAP of a core (01 R13). -/
def State.spcap (s : State) (b : Nat) : Nat := if (s.die (b / 40)).sram then 65536 else 32768

def State.launch (s : State) (p id : Nat) : Option Launch := (s.part p).launches.find? fun x => x.id == id
def State.modLaunch (s : State) (p id : Nat) (f : Launch → Launch) : State :=
  s.modPart p fun x => { x with launches := x.launches.map fun y => if y.id = id then f y else y }

def Core.team (c : Core) (id : Nat) : Option Team := c.teams.find? fun t => t.id == id
def State.modTeam (s : State) (b id : Nat) (f : Team → Team) : State :=
  s.modCore b fun c => { c with teams := c.teams.map fun t => if t.id = id then f t else t }

/-- The team of a crew; none for the debug crew. -/
def State.teamOf (s : State) (b sl : Nat) : Option Team :=
  match s.crew b sl with
  | none => none
  | some c => match c.team with
    | none => none
    | some id => (s.core b).team id

/-- The launch header a crew runs under; the debug crew's has no flag set (20 R394). -/
def State.hdrOf (s : State) (b sl : Nat) : Header :=
  match s.teamOf b sl with
  | none => {}
  | some t => match s.launch t.part t.launch with
    | none => {}
    | some l => l.hdr

/-- Launch modes (03 R77). -/
def Header.det (h : Header) : Bool := bit h.flags 0
def Header.pair (h : Header) : Bool := bit h.flags 1
def Header.thr (h : Header) : Bool := bit h.flags 2
def Header.cor (h : Header) : Bool := bit h.flags 3
def Header.urg (h : Header) : Bool := bit h.flags 4
def Header.keepTas (h : Header) : Bool := bit h.flags 5
def Header.tas64 (h : Header) : Bool := bit h.flags 6
def Header.ext (h : Header) (i : Nat) : Nat := (h.exts[i]?).getD 1
def Header.width (h : Header) (i : Nat) : Nat := (h.widths[i]?).getD 0
/-- T = E1 × … × E5 (02 R32). -/
def Header.teams (h : Header) : Nat := h.ext 1 * h.ext 2 * h.ext 3 * h.ext 4 * h.ext 5

/-- Visible lane of a physical lane, and NLANE (02 R26, R48). -/
def visible (pair : Bool) (lane : Nat) : Nat := if pair then lane / 2 else lane
def nlane (pair : Bool) : Nat := if pair then 16 else 32

/-- F1 to F5 of a linear index (02 R32). -/
def Header.fields (h : Header) (l : Nat) : List Nat :=
  [l % h.ext 1, l / h.ext 1 % h.ext 2, l / (h.ext 1 * h.ext 2) % h.ext 3,
   l / (h.ext 1 * h.ext 2 * h.ext 3) % h.ext 4, l / (h.ext 1 * h.ext 2 * h.ext 3 * h.ext 4) % h.ext 5]

/-- The work identifier of thread F0 in team L (02 R30). -/
def Header.wid (h : Header) (f0 l : Nat) : Nat :=
  let fs := f0 :: h.fields l
  ((List.range 6).foldl (fun (acc : Nat × Nat) i => (acc.1 + (fs[i]?).getD 0 <<< acc.2, acc.2 + h.width i)) (0, 0)).1

/-- A placed, live team of a launch by its linear index, with its core (02 R28). -/
def State.findTeam (s : State) (launch l : Nat) : Option (Nat × Team) :=
  (List.range 160).findSome? fun b => ((s.core b).teams.find? fun t => t.launch == launch && t.l == l && !t.killed).map (b, ·)

/-- F1 of a team, and gang member m of its gang if it is placed and not killed (02 R28, R43). -/
def State.member (s : State) (t : Team) (m : Nat) : Option (Nat × Team) :=
  match s.launch t.part t.launch with
  | none => none
  | some ln =>
    let e1 := ln.hdr.ext 1
    if m < e1 then s.findTeam t.launch (t.l - t.l % e1 + m) else none
def State.f1 (s : State) (t : Team) : Nat :=
  match s.launch t.part t.launch with
  | none => 0
  | some ln => t.l % ln.hdr.ext 1
def State.e1 (s : State) (t : Team) : Nat :=
  match s.launch t.part t.launch with
  | none => 1
  | some ln => ln.hdr.ext 1

/-- A saturating telemetry counter of a partition, by its offset / 8 (18 R371). -/
def State.count (s : State) (p k : Nat) (n : Nat := 1) : State :=
  s.modPart p fun x =>
    if h : k < 12 then { x with tele := x.tele.set k (min (x.tele[k] + n) (2 ^ 64 - 1)) } else x

/-- Lanes of a crew that have not exited. -/
def Crew.live (c : Crew) : List Nat := (List.range 32).filter fun l => (c.thread l).st != .exited

/-- MSI-X: a masked vector sets its pending bit, any other is sent (28 R441). -/
def State.msix (s : State) (fn v : Nat) : State :=
  let x := s.part fn
  if x.msixMask.testBit v then s.setPart fn { x with msixPend := x.msixPend ||| 2 ^ v }
  else { s with hostOut := s.hostOut ++ [.msix fn v] }

/-- A host write that takes effect only once BOOT is READY (29 R451). -/
def State.ifReady (s : State) (t : State) : State := if s.boot = 3 then t else s

/-- A write over PCIe carried a non-zero RSVD field, or broke R439 (28 R440). -/
def State.badWrite (s : State) (fn off : Nat) (rsvd bad : Bool) : State :=
  if rsvd || bad then
    s.modPart fn fun p => { p with rsvdWrite := p.rsvdWrite || rsvd, badAcc := p.badAcc || bad, lastOff := off }
  else s

end Sys2Proof.Machine
end

