-- ==== Sys2Proof/Machine/Memory.lean ====
section
/-! DEFINITION. The memories: cells in canonical form, global memory at its home with keys, poison and ownership
(09 R182 to R187, 23 R411), the private cache (09 R180, R181), scratchpad banks and presence (09 R174 to R178). -/

namespace Sys2Proof.Machine

/-! Cells: addresses rising, no entry equal to the zero that an unlisted address reads as (log entry 3). -/

def memGet : List Host.Cell → Nat → Byte
  | [], _ => 0
  | (a, b) :: r, x => if x = a then b else memGet r x

def memSet : List Host.Cell → Nat → Byte → List Host.Cell
  | [], x, v => if v = 0 then [] else [(x, v)]
  | (a, b) :: r, x, v =>
    if x < a then (if v = 0 then (a, b) :: r else (x, v) :: (a, b) :: r)
    else if x = a then (if v = 0 then r else (x, v) :: r)
    else (a, b) :: memSet r x v

/-- The canonical form. -/
def Memory.wf : List Host.Cell → Bool
  | [] => true
  | [(_, b)] => b != 0
  | (a, b) :: (a', b') :: r => b != 0 && decide (a < a') && Memory.wf ((a', b') :: r)

def memRead (m : List Host.Cell) (x : Nat) : Nat → List Byte
  | 0 => []
  | n + 1 => memGet m x :: memRead m (x + 1) n

def memWrite (m : List Host.Cell) (x : Nat) : List Byte → List Host.Cell
  | [] => m
  | b :: bs => memWrite (memSet m x b) (x + 1) bs

/-! Association lists. -/

def lookupNat (l : List (Nat × Nat)) (k d : Nat) : Nat := ((l.find? fun e => e.1 == k).map (·.2)).getD d
def putNat (l : List (Nat × Nat)) (k v d : Nat) : List (Nat × Nat) :=
  let r := l.filter fun e => e.1 != k
  if v = d then r else (k, v) :: r

/-! Poison: a sector of 32 bytes with the mask of the bytes replaced since (23 R411). -/

def poisonedAt (l : List (Nat × Nat)) (a : Nat) : Bool :=
  l.any fun e => e.1 == a / 32 && !e.2.testBit (a % 32)
def poisonWrite (l : List (Nat × Nat)) (a : Nat) : List (Nat × Nat) :=
  (l.map fun e => if e.1 = a / 32 then (e.1, e.2 ||| 2 ^ (a % 32)) else e).filter fun e => e.2 != 2 ^ 32 - 1
def addPoison (l : List (Nat × Nat)) (sector : Nat) : List (Nat × Nat) := (sector, 0) :: l.filter fun e => e.1 != sector

/-! Global memory at its home (R184, R186). -/

def paKey (pa : Nat) : Nat := pa / 2 ^ 40 % 128
def paAddr (pa : Nat) : Nat := pa % 2 ^ 40
def paWin (pa : Nat) : Bool := bit pa 47
def State.keyLoaded (s : State) (k : Nat) : Bool := s.keys.any fun e => e.1 == k

/-- The entry of the key log behind a key ID. -/
def State.keyOf (s : State) (k : Nat) : Nat := lookupNat s.keys k 0
def State.keyBits (s : State) (i : Nat) : BitVec 512 := ((s.keyLog[i]?).map (·.2)).getD 0

/-- A stored byte as read under a key ID, `j` being the key it was written under: another key's data unit decrypts to a free value
(R186), and where no key is loaded there are no data but a free value. -/
def State.readAs (s : State) (k j a : Nat) (v : Byte) : Byte :=
  let i := s.keyOf k
  if !s.keyLoaded k then Config.unloadedByte k a
  else if j = i then v else Config.mismatchByte (s.keyBits j) (s.keyBits i) a v

/-- A byte as read under a key ID (R186). -/
def State.homeByte (s : State) (k a : Nat) : Byte := s.readAs k (lookupNat s.unitKeys (a / 128) 0) a (memGet s.mem a)

/-- A read under a key ID with no key loaded, which the MP counts (R186). -/
def State.keyless (s : State) (part pa : Nat) : State := if s.keyLoaded (paKey pa) then s else s.count part 8

/-- `n` bytes read at the home, and whether they are poisoned; an unloaded key ID poisons and is counted (R186). -/
def State.homeRead (s : State) (part pa n : Nat) : State × List Byte × Bool :=
  let k := paKey pa
  let a := paAddr pa
  if !s.keyLoaded k then (s.count part 8, List.replicate n 0, true)
  else (s, (List.range n).map fun i => s.homeByte k (a + i), (List.range n).any fun i => poisonedAt s.poison (a + i))

/-- Bytes put into memory under a key ID; a data unit of another key is first taken over (R183, R186). -/
def State.homePut (s : State) (part pa : Nat) (data : List Byte) : State :=
  let k := paKey pa
  let a := paAddr pa
  if !s.keyLoaded k then s.count part 8
  else
    let units := ((List.range data.length).map fun i => (a + i) / 128).eraseDups
    let s := units.foldl (fun (s : State) u =>
      if lookupNat s.unitKeys u 0 = s.keyOf k then s
      else
        let bytes := (List.range 128).map fun i => s.homeByte k (u * 128 + i)
        { s with mem := memWrite s.mem (u * 128) bytes, unitKeys := putNat s.unitKeys u (s.keyOf k) 0 }) s
    { s with mem := memWrite s.mem a data,
             poison := (List.range data.length).foldl (fun l i => poisonWrite l (a + i)) s.poison }

/-- Clears the owned bits of a line in a core's private cache. -/
def State.clearOwned (s : State) (core line : Nat) : State :=
  s.modCore core fun c => { c with cache := c.cache.map fun l => if l.line = line then { l with owned := 0 } else l }

/-! Code (03 R69): what launches still running have stored takes effect for launches that start after them. -/

/-- The bytes at PA<39:0> that a write of `n` bytes at a PA changes: its own, and all of a data unit that another key holds (R186). -/
def State.writtenAt (s : State) (pa n : Nat) : List Nat :=
  let a := paAddr pa
  if !s.keyLoaded (paKey pa) then []
  else (List.range n).map (a + ·) ++
    (((List.range n).map fun i => (a + i) / 128).eraseDups.filter fun u => lookupNat s.unitKeys u 0 != s.keyOf (paKey pa)).flatMap fun u =>
      ((List.range 128).map (u * 128 + ·)).filter fun x => decide (x < a) || decide (a + n ≤ x)

/-- A launch's store put over the earlier ones: where it had one below, what that one kept is the one above it's to keep. -/
def overOlder (id : Nat) : List (Nat × Nat × Byte) → List (Nat × Nat × Byte)
  | e :: f :: r => if f.1 = id then (e.1, f.2) :: r else e :: overOlder id (f :: r)
  | l => l
def CodeCell.store (c : CodeCell) (id key : Nat) (v : Byte) : CodeCell :=
  if (c.writers.head?.map (·.1)) = some id then c else { c with writers := overOlder id ((id, key, v) :: c.writers) }

/-- A launch is about to write `n` bytes at a PA. -/
def State.holdFor (s : State) (id pa n : Nat) : State :=
  { s with codeCells := (s.writtenAt pa n).foldl (fun l a =>
    let c : CodeCell := (l.find? fun c => c.addr == a).getD { addr := a, writers := [] }
    c.store id (lookupNat s.unitKeys (a / 128) 0) (memGet s.mem a) :: l.filter fun c => c.addr != a) s.codeCells }

/-- A team on a core is about to write `n` bytes at a PA. -/
def State.holdCode (s : State) (b : Nat) (team : Option Nat) (pa n : Nat) : State :=
  match team.bind fun t => (s.core b).team t with
  | none => s
  | some t => s.holdFor t.launch pa n

/-- A write of no launch takes effect at once, over what launches have stored there. -/
def State.freeCode (s : State) (pa n : Nat) : State :=
  { s with codeCells := s.codeCells.filter fun c => !(s.writtenAt pa n).contains c.addr }

/-- A launch is complete: its stores take effect, and what came before them is past. -/
def State.endCode (s : State) (id : Nat) : State :=
  { s with codeCells := (s.codeCells.map fun c => { c with writers := c.writers.takeWhile fun e => e.1 != id }).filter fun c => !c.writers.isEmpty }

/-- The byte of a cell, with its key, as code for a launch that starts now. -/
def CodeCell.base (c : CodeCell) : Option (Nat × Byte) := c.writers.getLast?.map (·.2)

/-- Memory as code for a launch that starts now, and the keys of bytes that differ from their unit's. -/
def State.codeView (s : State) : List Host.Cell :=
  s.codeCells.foldl (fun (m : List Host.Cell) c => match c.base with
    | some (_, v) => memSet m c.addr v
    | none => m) s.mem
def State.codeOld (s : State) : List (Nat × Nat) :=
  s.codeCells.filterMap fun c => c.base.bind fun e => if e.1 = lookupNat s.unitKeys (c.addr / 128) 0 then none else some (c.addr, e.1)

/-! L2 (R182, R183): its lines with their ownership records. -/

/-- The home of a line: die PA<39:38>, slice, and set. -/
def l2Home (ln : Nat) : Nat × Nat × Nat :=
  (ln / 2 ^ 31 % 4, ln % 16 ^^^ ln / 16 % 16 ^^^ ln / 256 % 16 ^^^ ln / 4096 % 16, Config.l2Set ln % 2048)

def State.l2Line (s : State) (ln : Nat) : Option L2Line := s.l2.find? fun o => o.line == ln
def State.modL2 (s : State) (ln : Nat) (f : L2Line → L2Line) : State :=
  { s with l2 := s.l2.map fun o => if o.line = ln then f o else o }

/-- No core keeps an owned bit of the line: those of its owner and of cores with a revoke under way are cleared (R182, R183). -/
def State.disown (s : State) (ln : Nat) : State :=
  let owners := s.l2.filterMap (fun o => if o.line = ln then o.core else none) ++ (s.revokes.filter fun r => r.2 == ln).map (·.1)
  { owners.foldl (fun (s : State) d => s.clearOwned d ln) s with revokes := s.revokes.filter fun r => r.2 != ln }

/-- What HBM4 holds of a unit that L2 does not have newer. -/
def State.hbmUnit (s : State) (u : Nat) : HbmUnit :=
  { key := lookupNat s.unitKeys u 0, data := memRead s.mem (u * 128) 128, poison := s.poison.filter fun e => e.1 / 4 == u }

/-- A write-back under the line's key ID; with no key loaded it is discarded, and HBM4 keeps what it holds (R186, R190). -/
def State.writeBack (s : State) (o : L2Line) : State :=
  match o.back with
  | none => s
  | some u =>
    if s.keyLoaded o.key then { s with unitKeys := putNat s.unitKeys o.line (s.keyOf o.key) 0 }
    else { s with mem := memWrite s.mem (o.line * 128) u.data, unitKeys := putNat s.unitKeys o.line u.key 0,
                  poison := u.poison ++ s.poison.filter fun e => e.1 / 4 != o.line }

/-- A line leaves L2, written back if it holds writes, and its record with it (R182; log entry 78). -/
def State.leaveL2 (s : State) (ln : Nat) : State :=
  let s := (s.l2.filter fun o => o.line == ln).foldl State.writeBack s
  { s.disown ln with l2 := s.l2.filter fun o => o.line != ln }

/-- A line brought into L2 under a key ID, unless it is there: one held under another key ID is a miss and leaves first, and in
a full set of 24 ways a line gives way (R182, R183). -/
def State.l2Fill (s : State) (key ln : Nat) : State :=
  if s.l2.any fun o => o.line == ln && o.key == key then s
  else
    let s := s.leaveL2 ln
    let same := s.l2.filter fun o => l2Home o.line == l2Home ln
    let s := if decide (s.l2.length < 24) || decide (same.length < 24) then s
      else match same[Config.l2Victim s.fresh % same.length]? with
        | some o => s.leaveL2 o.line
        | none => s
    { s with l2 := { line := ln, key } :: s.l2 }

/-- The lines that `n` bytes at PA<39:0> `a` touch. -/
def linesOf (a n : Nat) : List Nat := (List.range ((a + n - 1) / 128 + 1 - a / 128)).map (· + a / 128)

/-- Near-memory commands, host copies and peer writes drop the lines and their records (R183). -/
def State.dropLines (s : State) (a n : Nat) : State := (linesOf a n).foldl State.leaveL2 s

/-- `n` bytes read at their home slices: the lines are brought into L2 (R194). -/
def State.l2Read (s : State) (part pa n : Nat) : State × List Byte × Bool :=
  (if s.keyLoaded (paKey pa) then (linesOf (paAddr pa) n).foldl (fun (s : State) ln => s.l2Fill (paKey pa) ln) s else s).homeRead part pa n

/-- A line of L2 is about to take a write: what HBM4 holds stays behind. -/
def State.soil (s : State) (ln : Nat) : State := s.modL2 ln fun o => { o with back := o.back.orElse fun _ => some (s.hbmUnit ln) }

/-- Bytes written into L2, in lines that hold them until they are written back. -/
def State.l2Put (s : State) (part pa : Nat) (data : List Byte) : State :=
  let s := if s.keyLoaded (paKey pa) then
      (linesOf (paAddr pa) data.length).foldl (fun (s : State) ln =>
        (s.l2Fill (paKey pa) ln).soil ln) s
    else s
  s.homePut part pa data

/-- A write of no core's: of a walker, or of the MP. An owner is demoted and revoked, as by any foreign write (R182, R194). -/
def State.mpPut (s : State) (part pa : Nat) (data : List Byte) : State :=
  ((linesOf (paAddr pa) data.length).foldl (fun (s : State) ln =>
    (s.disown ln).modL2 ln fun o => { o with core := none, mask := 0, demoted := o.demoted || o.core.isSome }) (s.freeCode pa data.length)).l2Put part pa data

/-- Bytes written at a PA; the lines they cover are dropped (09 R183). -/
def State.writePa (s : State) (part pa : Nat) (data : List Byte) : State × Bool :=
  if paWin pa then (if bit pa 46 then (s, false) else ({ s with hostMem := memWrite s.hostMem (pa % 2 ^ 46) data }, true))
  else ((s.dropLines (paAddr pa) data.length).l2Put part pa data, true)

/-- The words of a line that `n` bytes at `a` touch. -/
def wordMask (a n : Nat) : Word := BitVec.ofNat 32 (maskOf ((List.range n).map fun i => (a + i) % 128 / 4))

/-- Whether core c may register a write of a line now: a foreign owner is demoted and revoked first, and the
write waits until no revoke of the line is in flight (R182). -/
def State.claimLine (s : State) (c line : Nat) : State × Bool :=
  if s.revokes.any (fun r => r.2 == line) then (s, false)
  else match (s.l2Line line).bind L2Line.core with
    | some d =>
      if d = c then (s, true)
      else ({ s.modL2 line (fun x => { x with core := none, mask := 0, demoted := true }) with revokes := s.revokes ++ [(d, line)] }, false)
    | none => (s, true)

/-- The ownership record after core c's write of the masked words, the line being brought into L2 (R182). -/
def State.own (s : State) (c key line : Nat) (mask : Word) : State :=
  ((s.l2Fill key line).soil line).modL2 line fun x => if x.demoted then x else { x with core := some c, mask := x.mask ||| mask }

/-- The line is owned by the core. -/
def State.owns (s : State) (c line : Nat) : Bool := (s.l2Line line).bind L2Line.core == some c

/-- Core c's write arriving at its home: registered, unless it must wait for a revoke (R182). One under an unloaded key ID is
discarded (R186). -/
def State.register (s : State) (part c pa : Nat) (data : List Byte) : State × Bool :=
  let a := paAddr pa
  if !s.keyLoaded (paKey pa) then (s.homePut part pa data, true)
  else
    let lines := ((List.range data.length).map fun i => (a + i) / 128).eraseDups
    let (s, ok) := lines.foldl (fun (acc : State × Bool) ln => let (s, ok) := acc.1.claimLine c ln; (s, acc.2 && ok)) (s, true)
    if !ok then (s, false)
    else
      let s := lines.foldl (fun (s : State) ln =>
        let idx := (List.range data.length).filter fun i => (a + i) / 128 == ln
        s.own c (paKey pa) ln (BitVec.ofNat 32 (maskOf (idx.map fun i => (a + i) % 128 / 4)))) s
      (s.homePut part pa data, true)

/-! The private cache (R180, R181). -/

def Core.cacheOn (c : Core) : Bool := (List.range 48).any fun k => (c.bank k).mode == .cache
def Core.cacheLine (c : Core) (key line : Nat) : Option CacheLine := c.cache.find? fun l => l.key == key && l.line == line

/-- The set of a line: PA<15:7>, or PA<14:7> where SPCAP is 32 KiB (R180). -/
def cacheSet (spcap line : Nat) : Nat := line % (if spcap = 65536 then 512 else 256)

/-- How an insertion is placed (R180): first, for the crew furthest behind under the urgency-aware scheduler; behind those so
placed; or as the first to evict, for a streaming access. -/
inductive Place where
  | first | next | last
  deriving DecidableEq, Repr

/-- A way of a set takes a new line: what was poisoned there is gone (R187). -/
def Core.freshWay (c : Core) (bank set : Nat) : Core :=
  c.setBank bank { c.bank bank with poison := (c.bank bank).poison.filter fun e => e.1 / 4 != set }

/-- A line made most recent, inserted if absent: a free way of its set first, else the least recently used line
is evicted and its tag kept (R180, 16 R323; log entry 54). -/
def Core.insertLine (c : Core) (spcap key line : Nat) (at_ : Place) : Core :=
  match c.cacheLine key line with
  | some l =>
    let rest := c.cache.filter fun x => !(x.key == key && x.line == line)
    if at_ = .last then c else { c with cache := l :: rest }
  | none =>
    let ways := (List.range 48).filter fun k => (c.bank k).mode == .cache
    let inSet := c.cache.filter fun l => cacheSet spcap l.line == cacheSet spcap line
    let new (bank : Nat) : CacheLine := { bank, key, line, valid := 0, owned := 0, data := Vector.replicate 32 0, first := at_ == .first }
    let put (c : Core) (l : CacheLine) : Core := { c.freshWay l.bank (cacheSet spcap line) with cache := match at_ with
      | .first => l :: c.cache
      | .next => c.cache.takeWhile (·.first) ++ l :: c.cache.dropWhile (·.first)
      | .last => c.cache ++ [l] }
    match ways.find? (fun k => !(inSet.any fun l => l.bank == k)) with
    | some k => put c (new k)
    | none => match inSet.getLast? with
      | none => c
      | some old =>
        put { c with cache := c.cache.filter (fun l => !(l.key == old.key && l.line == old.line)),
                     victims := (old.line :: c.victims).take 64 } (new old.bank)

def Core.modLine (c : Core) (key line : Nat) (f : CacheLine → CacheLine) : Core :=
  { c with cache := c.cache.map fun l => if l.key == key && l.line == line then f l else l }

def CacheLine.byte (l : CacheLine) (o : Nat) : Byte :=
  if h : o / 4 < 32 then BitVec.ofNat 8 (l.data[o / 4].toNat >>> (8 * (o % 4))) else 0
def CacheLine.setByte (l : CacheLine) (o : Nat) (b : Byte) : CacheLine :=
  if h : o / 4 < 32 then
    { l with data := l.data.set (o / 4) (BitVec.ofNat 32 (setBits l.data[o / 4].toNat (8 * (o % 4) + 7) (8 * (o % 4)) b.toNat)) }
  else l

/-- The bytes of a hit: every touched word is valid (R181). -/
def Core.cacheHit (c : Core) (pa n : Nat) : Option (List Byte) :=
  match c.cacheLine (paKey pa) (paAddr pa / 128) with
  | none => none
  | some l =>
    let m := wordMask (paAddr pa) n
    if l.valid &&& m = m then some ((List.range n).map fun i => l.byte (paAddr pa % 128 + i)) else none

/-- A byte of the hit lies in a sector of its bank that has met an uncorrectable error (R187). -/
def Core.hitPoisoned (c : Core) (spcap pa n : Nat) : Bool :=
  match c.cacheLine (paKey pa) (paAddr pa / 128) with
  | none => false
  | some l => (List.range n).any fun i =>
      poisonedAt (c.bank l.bank).poison (cacheSet spcap l.line * 128 + (paAddr pa + i) % 128)

/-- Words of a line that a store of the core, not yet registered, touches. -/
def Core.unregistered (c : Core) (key line : Nat) : Word :=
  c.pend.foldl (fun m p => match p.kind with
    | .store (.glob pa) d _ _ _ => if paKey pa = key ∧ paAddr pa / 128 = line then m ||| wordMask (paAddr pa) d.length else m
    | _ => m) 0

/-- A merging fill: the invalid words of the line that read without poison become valid (R181), but for words whose latest store
of the core is still on its way to L2 (10 R197). -/
def State.fillLine (s : State) (part b pa : Nat) (at_ : Place) : State :=
  let key := paKey pa
  let line := paAddr pa / 128
  if !s.keyLoaded key then s
  else
    let (s, bytes, _) := s.l2Read part (key * 2 ^ 40 + line * 128) 128
    let bad (w : Nat) : Bool := (List.range 4).any fun i => poisonedAt s.poison (line * 128 + 4 * w + i)
    let cap := s.spcap b
    s.modCore b fun c =>
      let held := c.unregistered key line
      (c.insertLine cap key line at_).modLine key line fun l =>
        (List.range 32).foldl (fun (l : CacheLine) w =>
          if l.valid.getLsbD w || held.getLsbD w || bad w then l
          else
            let v := leNat ((bytes.drop (4 * w)).take 4)
            { l with valid := l.valid ||| (1#32 <<< w), data := l.data.setIfInBounds w (BitVec.ofNat 32 v) }) l

/-- The words that `n` bytes at a PA touch are valid in the core's cache. -/
def Core.holds (c : Core) (pa n : Nat) : Bool :=
  match c.cacheLine (paKey pa) (paAddr pa / 128) with
  | some l => l.valid &&& wordMask (paAddr pa) n == wordMask (paAddr pa) n
  | none => false

/-- A plain store in the issuer's cache: whole words allocate and become valid; narrower ones act on valid words
only (R181). Answers whether the store is now visible there. -/
def State.cacheStore (s : State) (b pa : Nat) (data : List Byte) (at_ : Place) : State × Bool :=
  let key := paKey pa
  let line := paAddr pa / 128
  let o := paAddr pa % 128
  let c := s.core b
  if !c.cacheOn || !s.keyLoaded key || (data.length < 4 && !c.holds pa data.length) then (s, false)
  else
    let cap := s.spcap b
    (s.setCore b ((c.insertLine cap key line at_).modLine key line fun l =>
      let l := { l with valid := l.valid ||| wordMask (paAddr pa) data.length }
      (List.range data.length).foldl (fun (l : CacheLine) i => l.setByte (o + i) ((data[i]?).getD 0)) l), true)

/-- Words of a line no longer valid in a core's cache. -/
def State.cacheDrop (s : State) (b pa n : Nat) : State :=
  let m := wordMask (paAddr pa) n
  s.modCore b fun c => c.modLine (paKey pa) (paAddr pa / 128) fun l => { l with valid := l.valid &&& ~~~m, owned := l.owned &&& ~~~m }

/-- The words of a line that `n` bytes at `a` cover whole. -/
def wholeMask (a n : Nat) : Word :=
  BitVec.ofNat 32 (maskOf ((List.range 32).filter fun w => decide (a % 128 ≤ 4 * w) && decide (4 * w + 4 ≤ a % 128 + n)))

/-- The owned bits that follow a registration, where the record names the core (R182). A word written only in part becomes owned no more
than it was: its other bytes may be stale, and a word that the core owns is the latest registered (10 R194; log entry 89). -/
def State.cacheOwn (s : State) (b pa n : Nat) : State :=
  let m := wholeMask (paAddr pa) n
  if !s.owns b (paAddr pa / 128) then s
  else s.modCore b fun c => c.modLine (paKey pa) (paAddr pa / 128) fun l => { l with owned := l.owned ||| (m &&& l.valid) }

/-- The acquire's self-invalidation: every valid word whose owned bit is clear (10 R198). -/
def State.acquire (s : State) (b : Nat) : State :=
  s.modCore b fun c => { c with cache := c.cache.map fun l => { l with valid := l.valid &&& l.owned } }

/-! Scratchpad. -/

def State.spadRead (s : State) (b k off n : Nat) : List Byte × Bool :=
  let x := s.bank b k
  (memRead x.mem off n, (List.range n).any fun i => poisonedAt x.poison (off + i))

/-- A store clears the poison of the sectors it covers whole (R187). -/
def sectorsWritten (l : List (Nat × Nat)) (off n : Nat) : List (Nat × Nat) :=
  l.filter fun e => !(decide (off ≤ e.1 * 32) && decide (e.1 * 32 + 32 ≤ off + n))
def State.spadWrite (s : State) (b k off : Nat) (data : List Byte) : State :=
  s.modBank b k fun x => { x with mem := memWrite x.mem off data, poison := sectorsWritten x.poison off data.length }

/-- Bytes of a copy's arrival: together they are one store of its destination, which clears a sector's poison once it has
covered the sector (R187; log entry 79). -/
def State.spadArrive (s : State) (b k off : Nat) (data : List Byte) : State :=
  s.modBank b k fun x => { x with mem := memWrite x.mem off data,
                                  poison := (List.range data.length).foldl (fun l i => poisonWrite l (off + i)) x.poison }

/-- The pending count of a line (R178). -/
def State.lineCount (s : State) (b k line : Nat) : Nat := lookupNat (s.bank b k).counts line 0

/-- Lanes parked on the lines that satisfy `p` become runnable and re-execute; the destination they had marked empty is theirs
again (R178, 16 R325; log entry 21). -/
def State.wakeParked (s : State) (p : Nat → Nat → Nat → Bool) : State :=
  let wakeT (t : Thread) : Thread := match t.st with
    | .parked (.line b' k' l' dst wide) =>
      if p b' k' l' then
        let t := match dst with
          | some d => t.markFull d wide
          | none => t
        { t with st := .runnable, age := 0 }
      else t
    | _ => t
  { s with cores := s.cores.map fun c => { c with crews := c.crews.map fun o => o.map fun cr => { cr with threads := cr.threads.map wakeT } } }

def State.wakeLine (s : State) (b k line : Nat) : State := s.wakeParked fun b' k' l' => b' == b && k' == k && l' == line

def State.raiseLine (s : State) (b k line : Nat) : State :=
  s.modBank b k fun x => { x with counts := putNat x.counts line (min 7 (lookupNat x.counts line 0 + 1)) 0 }
def State.lowerLine (s : State) (b k line : Nat) : State :=
  let n := s.lineCount b k line
  let s := s.modBank b k fun x => { x with counts := putNat x.counts line (n - 1) 0 }
  if n = 1 then s.wakeLine b k line else s

/-! Either memory, by place. -/

def State.readAt (s : State) (part : Nat) (l : Loc) (n : Nat) : State × List Byte × Bool :=
  match l with
  | .glob pa => s.homeRead part pa n
  | .spad b k off => let (d, p) := s.spadRead b k off n; (s, d, p)

/-- The bytes two places share. -/
def Loc.overlaps (x : Loc) (n : Nat) (y : Loc) (m : Nat) : Bool :=
  match x, y with
  | .glob p, .glob q => decide (paAddr p < paAddr q + m) && decide (paAddr q < paAddr p + n)
  | .spad b k o, .spad b' k' o' => b == b' && k == k' && decide (o < o' + m) && decide (o' < o + n)
  | _, _ => false

/-- The same at whole words. -/
def Loc.sameWords (x : Loc) (n : Nat) (y : Loc) (m : Nat) : Bool :=
  match x, y with
  | .glob p, .glob q => (Loc.glob (p - p % 4)).overlaps (n + p % 4 + 3) (Loc.glob (q - q % 4)) (m + q % 4 + 3) &&
      decide ((paAddr p) / 4 ≤ (paAddr q + m - 1) / 4) && decide ((paAddr q) / 4 ≤ (paAddr p + n - 1) / 4)
  | _, _ => x.overlaps n y m

end Sys2Proof.Machine
end

