-- ==== Sys2Proof/Machine/Translate.lean ====
section
/-! DEFINITION. Address translation (spec 17): table entries, the nested walk as a function of the entries it
reads, TLB entries, fault records and rings; and the steering of a generic address (09 R170, R171, R184). -/

namespace Sys2Proof.Machine

/-! Table entries (R343). -/

def pteV (e : Nat) : Bool := bit e 0
def pteT (e : Nat) : Bool := bit e 1
def pteW (e : Nat) : Bool := bit e 2
def pteX (e : Nat) : Bool := bit e 3
def pteS (e : Nat) : Bool := bit e 4
def pteUni (e : Nat) : Bool := bit e 8
def pteA (e : Nat) : Bool := bit e 9
def pteD (e : Nat) : Bool := bit e 10
def pteCont (e : Nat) : Bool := bit e 11
def pteOa (e : Nat) : Nat := bits e 56 12 * 4096

/-- Malformed entries (R343); in the second stage bit S is reserved. -/
def pteMalformed (stage2 : Bool) (level e : Nat) : Bool :=
  let leaf := !pteT e
  bits e 63 57 != 0 || bits e 7 5 != 0 || (stage2 && pteS e) || (leaf && level ≤ 2) || (!leaf && level == 5) ||
  (!leaf && (pteCont e || pteD e || pteA e || pteUni e || (!stage2 && pteS e) || pteX e || pteW e))

/-- The index of an address at a level, and the size of a leaf there as a power of two. -/
def ptIndex (level va : Nat) : Nat := bits va (56 - 9 * (level - 1)) (48 - 9 * (level - 1))
def leafLog (level : Nat) (e : Nat) : Nat := if level = 5 then (if pteCont e then 16 else 12) else 12 + 9 * (5 - level)

/-- The output of a leaf for an address: OA of the page, or of the CONT group counted from the entry read (R345). -/
def leafOut (level e a : Nat) : Nat :=
  if level = 5 then pteOa e + a % 4096
  else pteOa e / 2 ^ leafLog level e * 2 ^ leafLog level e + a % 2 ^ leafLog level e

/-- A second-stage leaf that a walk goes through: its address, level and value, and the guest address it translated. -/
structure Leaf2 where
  addr : Nat
  level : Nat
  entry : Nat
  gpa : Nat
  deriving DecidableEq, Repr

/-- What a walk comes to: an entry still to read, a fault with its code, GPA and whether the MP owns it, or a leaf and the
second-stage leaves on the way to it, the last first. -/
inductive WalkOut where
  | need (addr : Nat) (stage2 : Bool)
  | fault (code gpa : Nat) (uni : Bool)
  | leaf (addr level entry : Nat) (via : List Leaf2)
  deriving DecidableEq, Repr

/-- A second-stage entry is a leaf of the MP's (R348). -/
def uniLeaf (e : Nat) : Bool := pteUni e && !pteT e

/-- Levels `level` to 5 of the second stage: the walk of a GPA through `table` (R343, R453). -/
def walk2 (rd : Nat → Option Nat) (gpa : Nat) : Nat → Nat → Nat → WalkOut
  | 0, _, _ => .fault 0x24 gpa false
  | fuel + 1, level, table =>
    let addr := table + 8 * ptIndex level gpa
    match rd addr with
    | none => .need addr true
    | some e =>
      if !pteV e then .fault 0x20 gpa (uniLeaf e)
      else if pteMalformed true level e then .fault 0x24 gpa (uniLeaf e)
      else if pteT e then walk2 rd gpa fuel (level + 1) (pteOa e)
      else .leaf addr level e []

/-- A second-stage leaf's key ID is held by the partition (R357). -/
def Partition.holdsKey (p : Partition) (k : Nat) : Bool := p.keys.any fun e => bit e 7 && e % 128 == k
/-- The same of the PA it gives; a window's PA holds a bus address or a peer instead (28 R449). -/
def Partition.holdsPa (p : Partition) (pa : Nat) : Bool := paWin pa || p.holdsKey (paKey pa)

/-- The GPA of a table or page taken to a PA, and the second-stage leaf it comes through: partition 0 has no second stage (R344). -/
def gpaToPa (rd : Nat → Option Nat) (p : Partition) (zero : Bool) (gpa : Nat) : WalkOut ⊕ (Nat × Option Leaf2) :=
  if zero then .inr (gpa % 2 ^ 48, none)
  else match walk2 rd gpa 5 1 p.hroot with
    | .leaf addr level e _ =>
      let pa := leafOut level e gpa % 2 ^ 48
      if !p.holdsPa pa then .inl (.fault 0x25 gpa (pteUni e)) else .inr (pa, some { addr, level, entry := e, gpa })
    | x => .inl x

/-- The first-stage walk, each table reached through the second stage (R344, R453). -/
def walk1 (rd : Nat → Option Nat) (p : Partition) (zero : Bool) (va : Nat) : Nat → Nat → Nat → List Leaf2 → WalkOut
  | 0, _, _, _ => .fault 0x14 0 false
  | fuel + 1, level, gtable, via =>
    match gpaToPa rd p zero (gtable + 8 * ptIndex level va) with
    | .inl x => x
    | .inr (addr, l) =>
      match rd addr with
      | none => .need addr false
      | some e =>
        if !pteV e then .fault 0x10 0 false
        else if pteMalformed false level e then .fault 0x14 0 false
        else if pteT e then walk1 rd p zero va fuel (level + 1) (pteOa e) (l.toList ++ via)
        else .leaf addr level e (l.toList ++ via)

/-- A translation found: the PA, the entry to cache, the A and D updates (address, value read, value to write), and the guest
pages to log with the addresses of their leaves. -/
structure Xlate where
  pa : Nat
  entry : TlbEntry
  writes : List (Nat × Nat × Nat)
  logs : List (Nat × Nat)
  deriving DecidableEq, Repr

/-- A leaf's new value once A, and D on a write, are set (R344). -/
def pteTouch (e : Nat) (write : Bool) : Nat := e ||| 2 ^ 9 ||| (if write then 2 ^ 10 else 0)

/-- The touches of a walk's leaves (address, value read, new value), those of one entry made one; unchanged entries left out. -/
def touches (l : List (Nat × Nat × Nat)) : List (Nat × Nat × Nat) :=
  (l.foldl (fun (acc : List (Nat × Nat × Nat)) t =>
    if acc.any fun u => u.1 == t.1 then acc.map fun u => if u.1 = t.1 then (u.1, u.2.1, u.2.2 ||| t.2.2) else u else acc ++ [t]) []).filter
    fun t => t.2.2 != t.2.1

/-- The page that a second-stage leaf's dirty-log entry names: its first, of a 2 MiB or 1 GiB leaf (R351). -/
def Leaf2.page (l : Leaf2) : Nat :=
  let n := leafLog l.level (l.entry - l.entry % 4096)
  l.gpa / 2 ^ n * 2 ^ n

/-- A whole walk for an access, over the entries `rd` gives (R344, R345, R347, R453; log entry 81). -/
def walkAll (rd : Nat → Option Nat) (p : Partition) (m : Miss) : WalkOut ⊕ Xlate :=
  let zero := m.part == 0
  match walk1 rd p zero m.va 5 1 p.groot [] with
  | .leaf a1 l1 e1 via =>
    if pteS e1 && !m.smode then .inl (.fault 0x13 0 false)
    else if m.write && !pteW e1 then .inl (.fault 0x11 0 false)
    else if m.fetch && !pteX e1 then .inl (.fault 0x12 0 false)
    else
      let gpa := leafOut l1 e1 m.va
      let n1 := pteTouch e1 m.write
      let out (pa log : Nat) (w2 x2 d2 : Bool) : TlbEntry :=
        -- a group of 16 pages is held as one entry where it is aligned throughout (R345)
        let both := min (leafLog l1 e1) log
        let size := if gpa % 2 ^ both = m.va % 2 ^ both ∧ pa % 2 ^ both = m.va % 2 ^ both then both else 12
        { part := m.part, va := m.va / 2 ^ size * 2 ^ size, logSize := size, pa := pa / 2 ^ size * 2 ^ size, gpa := gpa / 2 ^ size * 2 ^ size,
          userOk := !pteS e1, writeOk := pteW e1 && w2 && pteD n1 && d2, fetchOk := pteX e1 && x2,
          page := leafLog l1 e1, guestPage := log }
      if zero then .inr { pa := gpa % 2 ^ 48, entry := out (gpa % 2 ^ 48) 64 true true true, writes := touches [(a1, e1, n1)], logs := [] }
      else match walk2 rd gpa 5 1 p.hroot with
        | .leaf a2 l2 e2 _ =>
          let pa := leafOut l2 e2 gpa % 2 ^ 48
          if m.write && !pteW e2 then .inl (.fault 0x21 gpa (pteUni e2))
          else if m.fetch && !pteX e2 then .inl (.fault 0x22 gpa (pteUni e2))
          else if !p.holdsPa pa then .inl (.fault 0x25 gpa (pteUni e2))
          else
            let last : Leaf2 := { addr := a2, level := l2, entry := e2, gpa }
            -- the table page that holds the first-stage leaf is written where the leaf is updated
            let dirty := (if n1 = e1 then [] else via.take 1) ++ (if m.write then [last] else [])
            let ws := touches ((a1, e1, n1) :: (via ++ [last]).map fun l => (l.addr, l.entry, pteTouch l.entry (dirty.contains l)))
            .inr { pa, entry := out pa (leafLog l2 e2) (pteW e2) (pteX e2) (pteD (pteTouch e2 m.write)), writes := ws,
                   logs := ((dirty.filter fun l => !pteD l.entry).map fun l => (l.page, l.addr)).eraseDups }
        | x => .inl x
  | x => .inl x

/-- A table entry as the home holds it (R344). A walk takes the bytes of a poisoned sector as they are, and a free value under a key ID with
no key loaded: R187 and 19 R382 give no outcome of poison that a walker reads (DESIGN CHOICE, log entry 91). -/
def State.pte (s : State) (addr : Nat) : Nat := leNat ((List.range 8).map fun i => s.homeByte (paKey addr) (paAddr addr + i))
/-- A table entry written: by a walker's compare-and-swap, or by the MP. -/
def State.setPte (s : State) (addr v : Nat) : State := s.mpPut 0 addr (leBytes 8 v)

/-! Rings (R348, R350, R351). -/

def Partition.ring (p : Partition) : Ring → RingRegs
  | .fault => p.faultRing
  | .hypervisor => p.hyperRing
  | .dirty => p.dirtyRing
def Partition.setRing (p : Partition) (k : Ring) (r : RingRegs) : Partition :=
  match k with
  | .fault => { p with faultRing := r }
  | .hypervisor => { p with hyperRing := r }
  | .dirty => { p with dirtyRing := r }
/-- FULL; a disabled ring is not. -/
def RingRegs.full (r : RingRegs) : Bool := r.logN != 0 && (r.tail + 1) % 2 ^ r.logN == r.head

/-- The function and vector a ring interrupts (28 R441). -/
def ringVector (p : Nat) : Ring → Nat × Nat
  | .fault => (p, 1)
  | .hypervisor => (0, 4 + 2 * (p - 1))
  | .dirty => (0, 5 + 2 * (p - 1))

/-- A ring's registers changed; FULL going from 0 to 1 raises its interrupt (R350). -/
def State.modRing (s : State) (p : Nat) (k : Ring) (f : RingRegs → RingRegs) (append : Bool := false) : State :=
  let r := (s.part p).ring k
  let r' := f r
  let s := s.modPart p fun x => x.setRing k r'
  if (append && k != .dirty && r.head == r.tail) || (r'.full && !r.full) then s.msix (ringVector p k).1 (ringVector p k).2 else s

/-- Bytes written by the MP at a PA, or in host memory behind the host window. -/
def State.devPut (s : State) (p pa : Nat) (data : List Byte) : State := if paWin pa then (s.writePa p pa data).1 else s.mpPut p pa data

/-- An entry appended to a ring; none when it is full, which sets OVF (R349, R350). A fault ring's first entry interrupts too (28 R441). -/
def State.ringAppend (s : State) (p : Nat) (k : Ring) (size : Nat) (data : List Byte) : State × Bool :=
  let r := (s.part p).ring k
  if r.full then (s.modRing p k fun r => { r with ovf := true }, false)
  else ((s.devPut p (r.base + size * r.tail) data).modRing p k (fun r => { r with tail := (r.tail + 1) % 2 ^ r.logN }) true, true)

/-- The record of a fault (R348). -/
def FaultRec.bytes (f : FaultRec) : List Byte :=
  leBytes 4 1 ++ leBytes 4 (f.code + f.write.toNat * 256 + f.fetch.toNat * 512 + f.smode.toNat * 1024) ++ leBytes 4 f.rid ++
  leBytes 4 (f.source * 2 ^ 30) ++ leBytes 8 f.va ++ leBytes 8 f.gpa

/-- The ring a fault is written to: first stage, second stage, or the MP's own handling of unified pages (R348). -/
def faultRing (code : Nat) (uni : Bool) : Option Ring :=
  if uni then none else if code < 0x20 then some .fault else some .hypervisor

/-- A fault met by an access: merged into an unresolved record of the same page, stage and code, else recorded.
A disabled ring makes it fatal at once (R348, R349). Answers its RID, none when fatal. -/
def State.fault (s : State) (m : Miss) (source code gpa : Nat) (uni : Bool) : State × Option Nat :=
  let ring := faultRing code uni
  match s.faults.find? (fun f => f.part == m.part && f.va / 4096 == m.va / 4096 && f.code == code && f.ring == ring) with
  | some f => ({ s with faults := s.faults.map fun g => if g.rid = f.rid then { g with cp := g.cp || source == 3 } else g }, some f.rid)
  | none =>
    let dead := match ring with
      | some k => ((s.part m.part).ring k).logN == 0
      | none => false
    if dead then (s, none)
    else
      let (rid, s) := s.newId
      let rid := rid % 2 ^ 32
      let f : FaultRec := { rid, part := m.part, ring, va := m.va, gpa := if code ≥ 0x20 then gpa else 0, code, write := m.write,
                            fetch := m.fetch, smode := m.smode, source, cp := source == 3, written := false }
      match ring with
      | none => ({ s with faults := s.faults ++ [{ f with written := true }] }, some rid)
      | some k =>
        let (s, ok) := s.ringAppend m.part k 32 f.bytes
        ({ s with faults := s.faults ++ [{ f with written := ok }] }, some rid)

/-- A dirty-log append, where the log is enabled (R351); false where it is full. -/
def State.logPage (s : State) (p g : Nat) : State × Bool :=
  if (s.part p).dirtyRing.logN = 0 then (s, true) else s.ringAppend p .dirty 8 (leBytes 8 (g + 1))

/-- A dirty-log append and the update of its leaf, which come together: a page is logged once (R351). -/
def State.logLeaf (s : State) (p : Nat) (writes : List (Nat × Nat × Nat)) (g : Nat × Nat) : State × Bool :=
  match s.logPage p g.1 with
  | (s, true) => ((writes.filter fun u => u.1 == g.2).foldl (fun (s : State) u => s.setPte u.1 u.2.2) s, true)
  | r => r

/-- A whole translation in one step, as the engines and the command processor make theirs (R302, R344; log entry 82): the PA,
a fault, or a wait for room in the dirty log. -/
inductive Reach where
  | pa (a : Nat)
  | wait (rid : Nat)
  | fatal (code : Nat)
  | log
  deriving DecidableEq, Repr

/-- A walk whose first read under a key ID with no key loaded is counted (09 R186). -/
def State.walkCounted (s : State) (part : Nat) {α : Type} (walk : (Nat → Option Nat) → WalkOut ⊕ α) : State :=
  match walk fun a => if s.keyLoaded (paKey a) then some (s.pte a) else none with
  | .inl (.need a _) => s.keyless part a
  | _ => s

def State.reach (s : State) (m : Miss) (source : Nat) : State × Reach :=
  let s := s.walkCounted m.part fun rd => walkAll rd (s.part m.part) m
  match walkAll (fun a => some (s.pte a)) (s.part m.part) m with
  | .inr x =>
    let s' := x.logs.foldl (fun (acc : State × Bool) g => if acc.2 then acc.1.logLeaf m.part x.writes g else acc) (s, true)
    let rest := x.writes.filter fun u => !(x.logs.any fun g => g.2 == u.1)
    if s'.2 then (rest.foldl (fun (s : State) w => s.setPte w.1 w.2.2) s'.1, .pa x.pa) else (s'.1, .log)
  | .inl (.fault code gpa uni) =>
    match s.fault m source code gpa uni with
    | (s, some rid) => (s, .wait rid)
    | (s, none) => (s, .fatal code)
  | .inl _ => (s, .fatal 0x14)

/-! Steering (09 R170, R171). -/

/-- A trap: cause, TINFO, TADDR, and whether TPC is the next instruction (19 R378, R379). -/
structure Trap where
  cause : Nat
  info : Nat := 0
  addr : DWord := 0
  next : Bool := false
  deriving DecidableEq, Repr

/-- Cause codes (19 R379). -/
def cIllegalOpcode := 0x01
def cIllegalEncoding := 0x02
def cPriv := 0x03
def cFormat := 0x04
def cRegEmpty := 0x05
def cMaskSelf := 0x06
def cAlign := 0x07
def cAperture := 0x08
def cAccess := 0x09
def cPageFault := 0x0A
def cDet := 0x0B
def cTolerant := 0x0C
def cDeadlock := 0x0D
def cArith := 0x0E
def cHandleInvalid := 0x10
def cHandleCancelled := 0x11
def cMatrix := 0x12
def cMemUnc := 0x13
def cShadow := 0x14
def cTasConflict := 0x15
def cBarOverflow := 0x16
def cQueueFull := 0x17
def cNmError := 0x18
def cCollError := 0x19
def cShootdown := 0x1A
def cBreakpoint := 0x20
def cUserTrap := 0x23

/-- Where an access goes. -/
inductive Steer where
  | mem (l : Loc)
  | tas (off : Nat)
  | trap (t : Trap)
  | miss (m : Miss)
  deriving DecidableEq, Repr

/-- An access of a lane, for steering: its size (the alignment), whether it writes, and whether it is a load. -/
structure AccessOp where
  align : Nat
  write : Bool
  isLoad : Bool := false
  fetch : Bool := false
  deriving DecidableEq, Repr

def access (reason : Nat) (va : Nat) : Trap := { cause := cAccess, info := reason, addr := BitVec.ofNat 64 va }
def aperture (va : Nat) : Trap := { cause := cAperture, addr := BitVec.ofNat 64 va }
def align (n va : Nat) : Trap := { cause := cAlign, info := n % 65536, addr := BitVec.ofNat 64 va }

/-- A lane's identity for steering: core, slot, S mode, and its thread within the team. -/
structure Lane where
  core : Nat
  slot : Nat
  lane : Nat
  deriving DecidableEq, Repr

def State.laneThread (s : State) (x : Lane) : Thread := s.thread x.core x.slot x.lane

/-- F0 and the global thread index (02 R31, R32). -/
def State.f0 (s : State) (x : Lane) : Nat :=
  let h := s.hdrOf x.core x.slot
  let idx := match s.crew x.core x.slot with
    | some c => c.idx
    | none => 0
  idx * nlane h.pair + visible h.pair x.lane
def State.globalIndex (s : State) (x : Lane) : Nat :=
  match s.teamOf x.core x.slot with
  | none => 0
  | some t => t.l * (s.hdrOf x.core x.slot).ext 0 + s.f0 x

/-- A TLB entry serves an access: it covers the page and allows it (R346). -/
def TlbEntry.serves (e : TlbEntry) (m : Miss) : Bool :=
  e.part == m.part && m.va / 2 ^ e.logSize == e.va / 2 ^ e.logSize && (m.smode || e.userOk) &&
  (!m.write || e.writeOk) && (!m.fetch || e.fetchOk)

/-- The checks of R184 on a device physical address reached by a thread. -/
def paCheck (va pa : Nat) : Steer :=
  if paWin pa then .trap (access 0x05 va)
  else if pa % 2 ^ 38 ≥ 0x3000000000 then .trap (access 0x06 va)
  else .mem (.glob pa)

/-- Translation by the core's L1 TLB; a miss has to be walked (R346, R347). -/
def State.translate (s : State) (x : Lane) (va0 va : Nat) (op : AccessOp) : Steer :=
  let m : Miss := { part := s.partOf x.core, va, write := op.write, fetch := op.fetch, smode := (s.laneThread x).priv }
  match (s.core x.core).tlb.find? (fun e => e.serves m) with
  | some e => paCheck va0 ((e.pa + va % 2 ^ e.logSize) % 2 ^ 48)
  | none => .miss m

/-- The team whose scratchpad a member field names: F for the lane's own (R171). -/
def State.memberTeam (s : State) (x : Lane) (m : Nat) : Option (Nat × Team) :=
  match s.teamOf x.core x.slot with
  | none => none
  | some t => if m = 0xF ∨ m = s.f1 t then some (x.core, t) else s.member t m

/-- A logical bank of a member's team in a wanted mode, or the ACCESS reason (R171, 11 R225). -/
def State.teamBank (s : State) (x : Lane) (m k : Nat) (mode : BankMode) : Nat ⊕ (Nat × Nat) :=
  match s.memberTeam x m with
  | none => .inl (if (s.teamOf x.core x.slot).isNone && m = 0xF then 0x01 else 0x03)
  | some (b, t) =>
    match t.banks[k]? with
    | none => .inl 0x01
    | some phys => if (s.bank b phys).mode = mode then .inr (b, phys) else .inl 0x02

/-- A global address lies in the page of a partition's copy aperture (15 R301). -/
def Partition.inAperture (x : Partition) (va : Nat) : Bool := x.copyAp != 0 && va / 2 ^ 57 == 0 && va / 4096 == x.copyAp / 4096

/-- steer (R171). No stack address leads into the copy aperture (15 R301). -/
def State.steer (s : State) (x : Lane) (va : Nat) (op : AccessOp) : Steer :=
  let top := va / 2 ^ 48
  if top = 0xFFFE then
    if bits va 47 28 ≠ 0 ∨ bits va 23 22 ≠ 0 ∨ bits va 21 16 ≥ 48 ∨ va % 65536 ≥ s.spcap x.core then .trap (aperture va)
    else if va % op.align ≠ 0 then .trap (align op.align va)
    else match s.teamBank x (bits va 27 24) (bits va 21 16) .spad with
      | .inl r => .trap (access r va)
      | .inr (b, k) => .mem (.spad b k (va % 65536))
  else if top = 0xFFFD then
    let h := s.hdrOf x.core x.slot
    if bits va 47 20 ≠ 0 ∨ va % 2 ^ 20 ≥ h.stack then .trap (aperture va)
    else if va % op.align ≠ 0 then .trap (align op.align va)
    else
      let base := match s.teamOf x.core x.slot with
        | none => 0
        | some t => ((s.launch t.part t.launch).map Launch.stackBase).getD 0
      let at_ := base + s.globalIndex x * h.stack + va % 2 ^ 20
      if (s.part (s.partOf x.core)).inAperture at_ then .trap (access 0x0C va) else s.translate x va at_ op
  else if top = 0xFFFC then
    if bits va 47 22 ≠ 0 ∨ va % 2 ^ 22 ≥ 0x300000 then .trap (aperture va)
    else if va % op.align ≠ 0 then .trap (align op.align va)
    else if !(s.laneThread x).priv || !op.isLoad then .trap (access 0x04 va)
    else .tas (va % 2 ^ 22)
  else if va / 2 ^ 57 = 0 then
    if va % op.align ≠ 0 then .trap (align op.align va) else s.translate x va va op
  else .trap (aperture va)

end Sys2Proof.Machine
end

