-- ==== Sys2Proof/Machine/Ops.lean ====
section
/-! DEFINITION. The operations every meaning shares: handles (15 R291 to R295), killing a team (02 R43), taking a
trap and returning from one (19 R375, R381), rollback (19 R383), and releases (10 R200). -/

namespace Sys2Proof.Machine

/-! Handles. -/

def outcomeRetired := 1
def outcomeUncorrectable := 2
def outcomeAbandoned := 3
def outcomeMalformed := 4
def outcomePoisoned := 5
def outcomeFault := 6
def outcomeError := 7

def handleClass (v : Nat) : Nat := bits v 31 26
def handleSlot (v : Nat) : Nat := bits v 25 16
def handleGen (v : Nat) : Nat := bits v 15 0
def handleWord (cls slot gen : Nat) : Nat := cls * 2 ^ 26 + slot * 2 ^ 16 + gen

/-- The slots whose entry satisfies `p`, ascending. -/
def Core.slotsWhere (c : Core) (p : Handle → Bool) : List Nat := (c.handles.toList.zipIdx.filter fun h => p h.1).map (·.2)

/-- The first slot of a list with the lowest key. -/
def earliest (key : Handle → Nat) : List (Handle × Nat) → Option (Handle × Nat)
  | [] => none
  | h :: r => match earliest key r with
    | none => some h
    | some g => if key g.1 < key h.1 then some g else some h

/-- The slot the next issue takes: the FREE slot free longest, else the earliest-ended slot without a failure
waiting for delivery; a WAITH that waits on a slot returns before the slot is taken (R292). -/
def Core.freeHandle (c : Core) : Option Nat :=
  let waited := c.pend.filterMap fun p => match p.kind with
    | .waith h _ _ => some (handleSlot h.toNat)
    | _ => none
  let best (p : Handle → Bool) : Option Nat :=
    (earliest Handle.stamp (c.handles.toList.zipIdx.filter fun h => p h.1 && !waited.contains h.2)).map (·.2)
  match best (fun h => h.st == .free) with
  | some k => some k
  | none => best fun h => h.st == .ended && h.fail.isNone

/-- A slot allocated to an operation of a lane (R292): the slot, its handle word, the state. -/
def State.newHandle (s : State) (x : Lane) (cls : Nat) : Option (Nat × Nat × State) :=
  match (s.core x.core).freeHandle with
  | none => none
  | some k =>
    let (order, s) := s.newId
    let gen := ((s.handle x.core k).gen + 1) % 2 ^ 16
    let team := ((s.teamOf x.core x.slot).map Team.id).getD 0
    let s := s.modThread x.core x.slot x.lane fun t => { t with seq := t.seq + 1 }
    let seq := (s.laneThread x).seq
    let s := s.modCore x.core fun c => { c with oldCopies := c.oldCopies.filter fun o => o.handle != some k }
    some (k, handleWord cls k gen,
      s.modHandle x.core k fun _ => { st := .pending, gen, cls, team, slot := x.slot, lane := x.lane, seq, order, word := 0 })

/-- The handle a value names for a thread of a team (R292). -/
def Core.named (c : Core) (team v : Nat) : Option Nat :=
  let k := handleSlot v
  let h := c.handle k
  if 1 ≤ handleClass v ∧ handleClass v ≤ 6 ∧ h.team = team ∧ h.gen = handleGen v ∧ team ≠ 0 then some k else none

/-- The operation of a slot ends with its outcome (R292, R293); `fail` is the trap to deliver (R294). -/
def State.endHandle (s : State) (b k outcome detail : Nat) (fail : Option (Nat × DWord)) : State :=
  let (stamp, s) := s.newId
  s.modHandle b k fun h =>
    if h.st = .pending then
      { h with st := .ended, word := BitVec.ofNat 32 (outcome * 2 ^ 29 + min detail (2 ^ 24 - 1)), stamp, fail }
    else h

def State.freeSlot (s : State) (b k : Nat) : State :=
  let (stamp, s) := s.newId
  s.modHandle b k fun h => { h with st := .free, stamp, fail := none }

/-- The trap a failed outcome of an engine class delivers (R253, R294). -/
def failOf (cls outcome addr : Nat) : Option (Nat × DWord) :=
  let a := BitVec.ofNat 64 addr
  if outcome ≤ 1 ∨ outcome = 3 then none
  else if cls = 1 then
    some (if outcome = 2 then (cMatrix, 0) else if outcome = 4 then (cAccess, a) else (cMemUnc, a))
  else if cls = 4 ∨ cls = 5 then some (cNmError, a)
  else if outcome = 6 then some (cPageFault, a)
  else if cls = 6 then some (cCollError, 0)
  else some (cMemUnc, a)

/-- The failure of a slot as a trap (R294): TINFO is the handle, or the reason of malformed metadata. -/
def Handle.failTrap (h : Handle) (k : Nat) : Option Trap :=
  h.fail.map fun f => { cause := f.1, info := if f.1 = cAccess then 0x0B else handleWord h.cls k h.gen, addr := f.2 }

/-- The earliest-issued undelivered failure of a lane among classes (R240, R294, R380). -/
def State.failureOf (s : State) (x : Lane) (classes : List Nat) : Option Nat :=
  (earliest Handle.order ((s.core x.core).handles.toList.zipIdx.filter fun h => h.1.st == .ended && h.1.fail.isSome &&
    h.1.slot == x.slot && h.1.lane == x.lane && classes.contains h.1.cls)).map (·.2)

/-- The failure of a slot delivered: the trap, once (R294). -/
def State.deliver (s : State) (b k : Nat) : State × Trap :=
  (s.modHandle b k fun h => { h with fail := none }, ((s.handle b k).failTrap k).getD { cause := cMemUnc })

/-! Ending engine work. -/

def State.dropOp (s : State) (b id : Nat) : State :=
  s.modCore b fun c => { c with copies := c.copies.filter fun o => o.id != id, engs := c.engs.filter fun o => o.id != id }

/-- The bank behind a scratchpad address in a destination team, as physical core and bank (15 R298). -/
def State.destBank (s : State) (dest : Nat × Nat) (va : Nat) : Option (Nat × Nat) :=
  match (s.core dest.2).team dest.1 with
  | none => none
  | some t => (t.banks[bits va 21 16]?).map fun k => (dest.2, k)

/-- A copy's pending counts still raised are released: lines whose last item has not arrived (09 R178). -/
def State.releaseCounts (s : State) (o : CopyOp) : State :=
  if o.req.dst / 2 ^ 48 ≠ 0xFFFE then s
  else
    o.issued.foldl (fun (s : State) n =>
      ((List.range o.dests.length).zip o.dests).foldl (fun (s : State) d =>
        let done := (o.done[d.1]?).getD 0
        (o.req.lines n).foldl (fun (s : State) ln =>
          if n * o.req.items + ln.2 < done then s
          else match s.destBank d.2 (ln.1 * 128) with
            | none => s
            | some (b, k) => s.lowerLine b k (ln.1 * 128 % 65536 / 128)) s) s) s

/-- A copy ends (15 R298, R300, R302). -/
def State.endCopy (s : State) (b : Nat) (o : CopyOp) (outcome addr : Nat) : State :=
  let s := if outcome = outcomeRetired then s else s.releaseCounts o
  let s := s.dropOp b o.id
  let s := s.modCore b fun c =>
    if o.handle.isNone then c
    else { c with oldCopies := { o with stop := if outcome ≤ 3 then none else some (outcome, addr), ahead := [] } :: c.oldCopies }
  match o.handle with
  | none => s
  | some k => s.endHandle b k outcome 0 (failOf 2 outcome addr)

/-- A copy cancelled. An item whose writes have begun is finished first, so that what is written is what is counted (09 R179; log
entry 83). -/
def State.cancelCopy (s : State) (b : Nat) (o : CopyOp) : State :=
  if o.going.isSome || o.peer.any PeerWait.write then
    s.modCore b fun c => { c with copies := c.copies.map fun q => if q.id = o.id then { q with stop := some (outcomeAbandoned, 0) } else q }
  else s.endCopy b o outcomeAbandoned 0

def EngKind.cls : EngKind → Nat
  | .pkl => 3 | .pklb => 4 | .nmc => 5 | .coll => 6

/-- The record of a near-memory command, in bytes 32 to 79 of its block (15 R308). -/
def State.nmRecord (s : State) (b : Nat) (o : EngOp) (outcome : Nat) : State :=
  let n := o.done.length
  let low := o.chunks.foldl (fun m c => if m = 0 ∨ c.2 < m then c.2 else m) 0
  match s.destBank (o.team, b) o.descAddr with
  | some (c, k) => s.spadWrite c k (o.descAddr % 65536 + 32)
      (leBytes 4 (outcome * 2 ^ 29 + n) ++ leBytes 4 n ++ leBytes 8 low ++ leBytes 32 (maskOf o.done))
  | none => s

/-- A Geyser, near-memory or collective operation ends; a near-memory one writes its record first. -/
def State.endEng (s : State) (b : Nat) (o : EngOp) (outcome detail addr : Nat) : State :=
  let s := if o.kind = .nmc then s.nmRecord b o outcome else s
  (s.dropOp b o.id).endHandle b o.handle outcome detail (failOf o.kind.cls outcome addr)

/-- The record of an ended MMA (13 R258). Of the elements corrected in one attempt the last is the highest member's (log entry 97). -/
def ArrayOp.record (o : ArrayOp) (outcome : Nat) : Nat :=
  let corr := if outcome = outcomeRetired then o.corr else 0
  let last := (o.located.getLast?).getD (0, 0)
  let inj := (corr != 0 && !o.injected.members.isEmpty) || o.injected.reissues != 0 || o.injected.failed
  outcome * 2 ^ 29 + inj.toNat * 2 ^ 28 + corr * 2 ^ 24 + (o.attempt - 1) * 2 ^ 22 + (if corr = 0 then 0 else last.1 * 2 ^ 14 + last.2)

/-- Telemetry of an ended MMA (12 R246, 18 R371). -/
def State.countMma (s : State) (o : ArrayOp) (b outcome : Nat) : State :=
  let corr := if outcome = outcomeRetired then o.corr else 0
  let unc := if outcome = outcomeUncorrectable then 1 else 0
  let p := s.partOf b
  (((s.count p 0 corr).count p 1 (o.attempt - 1)).count p 2 unc).count p 3 ((if corr = 0 then 0 else o.injected.members.length) + o.injected.reissues + o.injected.failed.toNat)

/-- An array entry leaves the queues of its span with an outcome (12 R239); an MMA's record goes to its tile register and
to the TCHKs that wait for it (13 R258), and the FINJ it met armed is disarmed (R244). -/
def State.endArray (s : State) (o : ArrayOp) (outcome : Nat) (addr : Nat) : State :=
  match o.span with
  | [] => s
  | (b, _) :: _ =>
    let s := { s with arrays := s.arrays.filter fun a => a.id != o.id }
    let s := if o.job.opc ≠ 0xA0 ∧ o.job.opc ≠ 0xA1 then s
      else
        let word := BitVec.ofNat 32 (o.record outcome)
        let s := s.modCrew b o.slot fun c =>
          if (c.record o.tileReg).op = some o.id then c.setRec o.tileReg { op := none, word } else c
        let s := s.modCore b fun c => { c with pend := c.pend.map fun p =>
          if p.kind = (PendKind.tchk o.id) then { p with kind := .value (word.setWidth 64) .n32 } else p }
        let s := o.armed.foldl (fun (s : State) k => s.modCore k fun c => { c with finj := c.finj &&& 0x7FFFFFFF }) s
        s.countMma o b outcome
    s.endHandle b o.handle outcome 0 (failOf 1 outcome addr)

/-- CANCH's cancel of a running operation (R295, 12 R239). -/
def State.cancel (s : State) (b k : Nat) : State :=
  let h := s.handle b k
  if h.st ≠ .pending then s
  else match h.cls with
    | 1 => match s.arrays.find? (fun a => a.handle == k && (a.span.head?.map (·.1)) == some b) with
      | some a => if a.st = .add then s else s.endArray a outcomeAbandoned 0
      | none => s
    | 2 => match (s.core b).copies.find? (fun o => o.handle == some k) with
      | some o => s.cancelCopy b o
      | none => s
    | 6 => match (s.core b).engs.find? (fun o => o.kind == .coll && o.handle == k) with
      | some o =>
        (List.range 160).foldl (fun (s : State) b' =>
          (s.core b').engs.foldl (fun (s : State) o' =>
            if o'.kind == .coll && o'.part == o.part && o'.number == o.number && o'.desc[3]? == o.desc[3]? then
              s.endEng b' o' outcomeAbandoned o'.resent 0
            else s) s) s
      | none => s
    | _ => match (s.core b).engs.find? (fun o => o.handle == k && o.kind.cls == h.cls) with
      | some o => s.endEng b o outcomeAbandoned o.done.length 0
      | none => s

/-! Waiting lanes look again. -/

/-- A lane in WAIT_UNIT looks again at what it waits on (16 R317; log entry 22), but for one that waits for its own access to a watched
byte (20 R395). -/
def Thread.wakeUnit (t : Thread) : Thread := if t.st = .waitUnit ∧ !t.watching then { t with st := .runnable, age := 0 } else t
def Core.wakeUnits (c : Core) : Core :=
  { c with crews := c.crews.map fun o => o.map fun cr => { cr with threads := cr.threads.map Thread.wakeUnit } }
def State.wakeUnits (s : State) (b : Nat) : State := s.modCore b Core.wakeUnits

/-- The waiting lanes of every core look again: an event may have freed what they wait on. -/
def State.wakeAll (s : State) : State := { s with cores := s.cores.map Core.wakeUnits }

/-! Issued accesses. -/

/-- The lanes of an entry with their place in program order and their fence. -/
def Pend.orders (p : Pend) : List (Nat × Nat × Nat) :=
  match p.kind with
  | .atoms _ _ ls _ _ => ls.map fun a => (a.lane, a.seq, a.fence)
  | _ => [(p.lane, p.seq, p.fence)]
def Pend.hasLane (p : Pend) (slot lane : Nat) : Bool := p.slot == slot && p.orders.any fun o => o.1 == lane

/-- The bytes an entry touches. -/
def Pend.place (p : Pend) : Option (Loc × Nat) :=
  match p.kind with
  | .load l n .. => some (l, n)
  | .store l d .. => some (l, d.length)
  | .atoms l n .. => some (l, n)
  | _ => none
def Pend.isMem (p : Pend) : Bool := p.place.isSome
/-- All places it touches, a shadow lane's among them. -/
def Pend.places (p : Pend) : List (Loc × Nat) :=
  match p.place with
  | some (l, n) => (l, n) :: (p.twin.map fun l' => (l', n)).toList
  | none => []

/-! Killing a team (R43, R377, R91, R295). -/

/-- What is left of an entry when a lane's producers are dropped: its stores and the lane's part of an atomic group go on, the
latter without a destination (R91, R196, 10 R200). -/
def Pend.without (p : Pend) (x : Lane) : Option Pend :=
  if p.slot ≠ x.slot then some p
  else match p.kind with
    | .store .. => some p
    | .atoms l n ls a r => some { p with kind := .atoms l n (ls.map fun z => if z.lane = x.lane then { z with dst := none } else z) a r }
    | _ => if p.lane = x.lane then none else some p

/-- The mode a pending change of bank `k` asks for. -/
def Pend.bankMode (p : Pend) (k : Nat) : Option BankMode :=
  match p.kind with
  | .bank k' m _ => if k' = k then some m else none
  | _ => none

/-- The bank changes under way once some may have been given up: each bank's is the first that a lane still waits for (09 R176). -/
def Core.rechanged (c : Core) : Core :=
  { c with banks := Vector.ofFn fun k : Fin 48 =>
      if c.banks[k].change.isNone then c.banks[k] else { c.banks[k] with change := c.pend.findSome? fun p => p.bankMode k } }

/-- A lane's producers dropped: each destination is written 0, RAW and full; its stores and atomics go on (R91, R196). -/
def State.dropProducers (s : State) (x : Lane) : State :=
  let s := s.modCore x.core fun c => { c with pend := c.pend.filterMap fun (p : Pend) => Pend.without p x }.rechanged
  s.modThread x.core x.slot x.lane fun t =>
    { t with regs := t.regs.map fun r => if r.full then r else { val := 0, tag := .raw, full := true }, predWait := [] }

/-- Invalidations a lane (or, with none, a slot) asked for no longer report to it. -/
def State.dropAsk (s : State) (b sl : Nat) (lane : Option Nat) : State :=
  { s with parts := s.parts.map fun p => { p with invs := p.invs.map fun q =>
    match q.asker with
    | some (b', sl', l) => if b' = b ∧ sl' = sl ∧ (lane = none ∨ lane = some l) then { q with asker := none } else q
    | none => q } }

def State.killTeam (s : State) (b id : Nat) : State :=
  match (s.core b).team id with
  | none => s
  | some t =>
    let s := s.modTeam b id fun t => { t with killed := true }
    let s := t.slots.foldl (fun (s : State) sl =>
      let s := ((List.range 32).foldl (fun (s : State) l => s.dropProducers ⟨b, sl, l⟩) s).dropAsk b sl none
      s.modCrew b sl fun c => { c with xl := [], threads := c.threads.map fun th => { th with st := .exited, age := 0, regionPc := 0 } }) s
    -- every running operation of its threads is cancelled, and every span it is a member of
    let s := ((s.core b).slotsWhere fun h => h.team == id && h.st == .pending).foldl (fun (s : State) k => s.cancel b k) s
    let s := s.arrays.foldl (fun (s : State) a =>
      if a.span.any (fun m => m.1 == b && m.2 == id) && a.st != .add then s.endArray a outcomeAbandoned 0 else s) s
    (s.modLaunch t.part t.launch fun ln => { ln with killed := if ln.killed.contains t.l then ln.killed else ln.killed ++ [t.l] }).wakeAll

/-! Traps (R375 to R378). -/

/-- The thread in a handler (R375). -/
def Thread.enterTrap (t : Thread) (r : Trap) (tpc : DWord) : Thread :=
  { t with tcause := BitVec.ofNat 32 (t.region.toNat * 2 ^ 10 + r.cause), tpc, tinfo := BitVec.ofNat 32 r.info, taddr := r.addr,
           priv := true, region := 0, pc := t.tvec + BitVec.ofNat 64 (64 * r.cause), st := .runnable, age := 0, mark := none, watching := false }

/-- A trap of the thread finds a handler (R375, R377); one of the debug crew restarts it instead (20 R394). -/
def Thread.handles (t : Thread) : Bool := !t.priv && t.tvec != 0 && !t.debug

/-- The debug crew as it starts, and starts again after a trap (20 R394). -/
def State.debugCrew (s : State) (b : Nat) : Crew :=
  let p := s.part (s.partOf b)
  { team := none, idx := 0,
    threads := Vector.replicate 32 { pc := BitVec.ofNat 64 p.dentry, st := .runnable, priv := true, region := 0, tvec := BitVec.ofNat 64 p.tvec, debug := true } }

/-- Taking a trap (R375); an unhandled one leaves the thread as it is (`State.unhandled` follows). The shadow lane of
a pair becomes a copy of the visible one (R385). -/
def State.takeTrap (s : State) (x : Lane) (r : Trap) (next : DWord) : State :=
  let t := s.laneThread x
  if !t.handles then s
  else
    let t' := t.enterTrap r (if r.next then next else t.pc)
    let s := s.setThread x.core x.slot x.lane t'
    if (s.hdrOf x.core x.slot).pair then s.setThread x.core x.slot (x.lane + 1) t' else s

/-- A lane of the slot trapped without a handler: its team is killed (R377); the debug crew starts again (20 R394). -/
def State.unhandled (s : State) (b sl : Nat) : State :=
  match s.teamOf b sl with
  | some tm => s.killTeam b tm.id
  | none => (((List.range 32).foldl (fun (s : State) l => s.dropProducers ⟨b, sl, l⟩) s).dropAsk b sl none).setCrew b sl (some (s.debugCrew b))

/-- A lane withdraws from the instances it has arrived in, and comes to them anew (R383). -/
def Crew.withdraw (c : Crew) (lane : Nat) : Crew :=
  { c with xl := (c.xl.map fun i => { i with arrivals := i.arrivals.filter fun a => a.lane != lane, passed := i.passed.filter (· != lane),
                                             owed := i.owed.filter (· != lane) }).filter fun i => !i.arrivals.isEmpty }

/-- A lane that waits at the instance at an address withdraws from it, its shadow with it; one that has gone on from it keeps its
arrival, and what it is owed. -/
def Crew.leaveInstance (c : Crew) (pc : DWord) (lane : Nat) (pair : Bool) : Crew :=
  if c.xl.any fun i => i.pc == pc && !i.shadow && i.passed.contains lane then c
  else { c with xl := (c.xl.map fun i => if i.pc = pc then { i with arrivals := i.arrivals.filter fun a => !(a.lane == lane || pair && a.lane == lane + 1) }
                                         else i).filter fun i => !i.arrivals.isEmpty }

/-- What a wait has set up is given up when the lane is taken out of it by a trap; the destination of a WAITH stays empty until the
operation ends (log entry 24), and one that an absent line kept empty is the lane's again (log entry 21). -/
def State.leaveWait (s : State) (x : Lane) : State :=
  match (s.laneThread x).st with
  | .waitXl | .waitJoin =>
    s.modCrew x.core x.slot fun c => c.leaveInstance (s.laneThread x).pc x.lane (s.hdrOf x.core x.slot).pair
  | .waitHandle => s
  | .parked (.line _ _ _ (some d) wide) =>
    let full (l : Nat) (s : State) : State := s.modThread x.core x.slot l fun t => t.markFull d wide
    if (s.hdrOf x.core x.slot).pair then full (x.lane + 1) (full x.lane s) else full x.lane s
  | _ => s.dropAsk x.core x.slot (some x.lane)

/-- A trap taken outside a bundle. -/
def State.trapNow (s : State) (x : Lane) (r : Trap) (next : DWord) : State :=
  if (s.laneThread x).handles then (s.leaveWait x).takeTrap x r next else s.unhandled x.core x.slot

/-- REGIONPC receives a value, the region beginning after the thread's `n`-th operation: rollbacks are counted anew (R383). -/
def Thread.setRegionAt (t : Thread) (n : Nat) (pc : DWord) : Thread := { t with regionPc := pc, rolls := 0, regionSeq := n, relNext := none }
def Thread.setRegion (t : Thread) (pc : DWord) : Thread := t.setRegionAt t.seq pc

/-- A release closes the region; the next instruction is the new entry (10 R200, 02 R50). -/
def State.released (s : State) (x : Lane) (next : DWord) : State :=
  s.modThread x.core x.slot x.lane fun t => t.setRegion next

/-- May the lane roll back (R383)? Not where something it issued in the region has begun writing (13 R254). -/
def Thread.mayRoll (t : Thread) : Bool := t.regionPc != 0 && decide (t.wrote ≤ t.regionSeq) && t.rolls < 2

/-- Rollback (R383). -/
def State.rollback (s : State) (x : Lane) : State :=
  let t := s.laneThread x
  let s := (s.dropProducers x).dropAsk x.core x.slot (some x.lane)
  let s := ((s.core x.core).slotsWhere fun h => h.slot == x.slot && h.lane == x.lane && h.st == .pending &&
    decide (t.regionSeq < h.seq)).foldl (fun (s : State) k => s.cancel x.core k) s
  let s := s.modCrew x.core x.slot fun c => (c.withdraw x.lane).withdraw (x.lane + (if (s.hdrOf x.core x.slot).pair then 1 else 0))
  let s := s.modThread x.core x.slot x.lane fun t => { t with relNext := none, pc := t.regionPc, st := .runnable, age := 0, mark := none, watching := false, rolls := t.rolls + 1 }
  (if (s.hdrOf x.core x.slot).pair then s.setThread x.core x.slot (x.lane + 1) (s.laneThread x) else s).wakeAll

/-- Return from a trap (R381), once its checks have passed. -/
def Thread.return_ (t : Thread) : Thread :=
  { (t.setRegion 0) with region := BitVec.ofNat 2 (bits t.tcause.toNat 11 10), priv := false, pc := t.tpc }

/-! Waking. -/

/-- What a lane in WAIT_REG needs is there: a register (below 64) is full, a predicate (64 plus its number) is written. -/
def Thread.meets (t : Thread) (n : Nat) : Bool := if n < 64 then (t.reg n).full else !t.predWait.contains (n - 64)

/-- A lane in WAIT_REG runs again once everything it needs is there (05 R64, 08 R159). -/
def Thread.wakeRegs (t : Thread) : Thread :=
  match t.st with
  | .waitReg ns => if ns.all t.meets then { t with st := .runnable, age := 0 } else t
  | _ => t

/-! The vector datapath (02 R49, 12 R238). -/

/-- A core's matrix rail stands below 0.75 V. -/
def Core.low (c : Core) : Bool := decide (c.rail.raised.getD c.rail.v < 7500)

/-- Visible lanes of a slot have been given a result by the vector datapath (18 R371): where some ran tolerant the bundle counts
towards the samples, and on a low rail an error may still strike it, its shadows as well. -/
def State.vectorDone (s : State) (b sl : Nat) (lanes : List Nat) (dst : VecDst) : State :=
  let lanes := if (s.hdrOf b sl).pair then lanes.flatMap fun l => [l, l + 1] else lanes
  let mode (l : Nat) : BitVec 2 := (s.thread b sl l).region
  let tolerant := lanes.filter fun l => mode l == 2
  let low := (s.core b).low
  let checked := low && lanes.any fun l => mode l == 1
  if tolerant.isEmpty && !checked then s
  else
    let n := (s.core b).tolerant + 1
    let sampled := !tolerant.isEmpty && n % 64 == 0
    let s := if sampled then s.count (s.partOf b) 5 else s
    s.modCore b fun c =>
      { c with tolerant := if tolerant.isEmpty then c.tolerant else n % 64,
               vector := if low then some { slot := sl, dst, tolerant, checked, sampled } else none }

/-! Debug events (20 R395, R396). -/

/-- The low word of an event record (R396). -/
def eventInfo (kind sl idx code : Nat) : Nat := kind * 2 ^ 28 + sl * 2 ^ 22 + idx * 2 ^ 18 + code

/-- A debug crew whose lanes have all exited starts again (27 R433). -/
def State.restartDebug (s : State) (b : Nat) : State :=
  match s.crew b 63 with
  | some c => if c.team.isNone && c.live.isEmpty then s.setCrew b 63 (some (s.debugCrew b)) else s
  | none => s

/-- A record appended to a core's queue, or waiting for room in it; lanes that wait for one look again (R396). -/
def State.appendEvent (s : State) (b : Nat) (r : DWord) : State :=
  let c := s.core b
  if c.events.length < 8 && c.eventsWaiting.isEmpty then
    ((s.modCore b fun c => { c with events := c.events ++ [r] }).wakeUnits b).restartDebug b
  else s.modCore b fun c => { c with eventsWaiting := c.eventsWaiting ++ [r] }

/-- Lanes of a slot to which one event comes, one after another: those that have exited meanwhile, and the debug crew once it has started
again, it no longer reaches. `lost` says which lanes it leaves without a way on. -/
def State.eachLane (s : State) (b sl : Nat) (lanes : List Nat) (lost : Thread → Bool) (f : State → Lane → State) : State :=
  (lanes.foldl (fun (a : State × Bool) l =>
    let t := a.1.thread b sl l
    if a.2 || t.st == .exited then a else (f a.1 ⟨b, sl, l⟩, lost t)) (s, false)).1

/-- Lanes that trap one after another. -/
def State.trapEach (s : State) (b sl : Nat) (lanes : List Nat) (r : Nat → Trap) : State :=
  s.eachLane b sl lanes (fun t => !t.handles) fun s x => s.trapNow x (r x.lane) (s.laneThread x).pc

/-- An event of lanes (lane, TADDR) of a team crew: halted with one record, or without a debug crew a trap each (R396). -/
def State.raiseEvent (s : State) (b sl kind idx code : Nat) (lanes : List (Nat × DWord)) : State :=
  let lanes := lanes.filter fun x => (s.thread b sl x.1).st != .exited
  if lanes.isEmpty then s
  else
    let info := eventInfo kind sl idx code
    if (s.core b).debug then
      let pair := (s.hdrOf b sl).pair
      let s := s.modCrew b sl fun c => (List.range 32).foldl (fun (c : Crew) l =>
        if lanes.any (fun x => x.1 == l || pair && x.1 + 1 == l) then
          c.modThread l fun t => { t with st := .halted, age := 0, stepMark := false, watching := false }
        else c) c
      s.appendEvent b (BitVec.ofNat 64 (maskOf (lanes.flatMap fun x => if pair then [x.1, x.1 + 1] else [x.1]) * 2 ^ 32 + info))
    else if kind = 5 then s
    else s.trapEach b sl (lanes.map (·.1)) fun l =>
      { cause := 0x20 + (if kind = 3 then 1 else if kind = 4 then 2 else 0), info, addr := ((lanes.find? fun x => x.1 == l).map (·.2)).getD 0 }

/-- Marked lanes that have finished an instruction halt: a stepped lane with a kind 4 event, one that DHALT marked with
a kind 5 event, a lane in S mode without one (R395, R399). Without a debug crew none halts: a stepped lane in U mode traps, and a
mark raises nothing (R396). -/
def State.afterLanes (s : State) (b sl : Nat) (lanes : List Nat) : State :=
  let debug := (s.core b).debug
  let marked := lanes.filter fun l => ((s.thread b sl l).stepMark || debug && (s.thread b sl l).haltMark) && (s.thread b sl l).st == .runnable
  if marked.isEmpty then s
  else
    let inU := marked.filter fun l => !(s.thread b sl l).priv
    let stepped := inU.filter fun l => (s.thread b sl l).stepMark
    let halted := inU.filter fun l => !(s.thread b sl l).stepMark
    let s := marked.foldl (fun (s : State) l => s.modThread b sl l fun t =>
      if debug then { t with st := .halted, age := 0, stepMark := false } else { t with stepMark := false }) s
    (s.raiseEvent b sl 4 0 0 (stepped.map fun l => (l, 0))).raiseEvent b sl 5 0 0 (halted.map fun l => (l, 0))

/-- Events of lanes whose instruction is done; under a debug crew the step event of the stepped ones comes after (R395). -/
def State.raiseDone (s : State) (b sl : Nat) (lanes : List Nat) (events : State → State) : State :=
  let stepped := lanes.filter fun l => (s.thread b sl l).stepMark && !(s.thread b sl l).priv
  let s := events s
  if (s.core b).debug then s.raiseEvent b sl 4 0 0 (stepped.map fun l => (l, 0)) else s

/-- Watchpoint events of lanes (lane, watchpoint, address), a record for each watchpoint (R395). -/
def State.raiseWatch (s : State) (b sl : Nat) (hits : List (Nat × Nat × DWord)) : State :=
  s.raiseDone b sl (hits.map (·.1)) fun s => (List.range 4).foldl (fun (s : State) n =>
    s.raiseEvent b sl 3 n 0 ((hits.filter fun h => h.2.1 == n).map fun h => (h.1, h.2.2))) s

/-- Accesses to watched bytes that are done raise their events, but for lanes that something else has taken meanwhile (R395). -/
def State.watchDone (s : State) (b : Nat) : State :=
  let open_ (h : WatchHit) : Bool := h.ids.any fun n => (s.core b).pend.any fun p => p.id == n
  ((s.core b).hits.filter fun h => !open_ h).foldl (fun (s : State) h =>
      s.raiseWatch b h.slot (h.lanes.filter fun l => (s.thread b h.slot l.1).watching))
    (if (s.core b).hits.all open_ then s else s.modCore b fun c => { c with hits := c.hits.filter open_ })

/-- A lane leaves a wait at an address, its shadow with it. -/
def State.proceed (s : State) (x : Lane) (pc : DWord) : State :=
  let on (t : Thread) : Thread := { t with pc, st := .runnable, age := 0, mark := none }
  let s := s.modThread x.core x.slot x.lane on
  if (s.hdrOf x.core x.slot).pair then s.modThread x.core x.slot (x.lane + 1) on else s

/-- The instruction it waited in being done: a marked lane halts. -/
def State.resume (s : State) (x : Lane) (pc : DWord) : State := (s.proceed x pc).afterLanes x.core x.slot [x.lane]

/-- A trap outside a bundle, at whose handler a marked lane halts (20 R399). -/
def State.trapOut (s : State) (x : Lane) (r : Trap) (next : DWord) : State := (s.trapNow x r next).afterLanes x.core x.slot [x.lane]

/-- A lane that was halted is halted where an event has taken it, its shadow with it (20 R396). -/
def State.still (s : State) (x : Lane) (was : LaneState) : State :=
  if was = .halted ∧ (s.laneThread x).st = .runnable then
    let halt (t : Thread) : Thread := { t with st := .halted }
    let s := s.modThread x.core x.slot x.lane halt
    if (s.hdrOf x.core x.slot).pair then s.modThread x.core x.slot (x.lane + 1) halt else s
  else s

/-- A consumed uncorrectable error of one lane (R382 to R384): `dst` is the destination register or none. -/
def State.consume (s : State) (x : Lane) (dst : Option Nat) (wide : Bool) (addr : Nat) : State :=
  let t := s.laneThread x
  let s := s.count (s.partOf x.core) 7
  (if t.mayRoll then s.rollback x
   else
    let s := match dst with
      | some d => s.modThread x.core x.slot x.lane fun t => t.write d wide 0 .raw
      | none => s
    s.trapOut x { cause := cMemUnc, info := (dst.getD 0xFF) + (if t.regionPc = 0 then 0 else 2 ^ 31), addr := BitVec.ofNat 64 addr } t.pc).still x t.st

/-- Lanes of a slot that consume an error one after another. -/
def State.consumeEach (s : State) (b sl : Nat) (lanes : List Nat) : State :=
  s.eachLane b sl lanes (fun t => !t.mayRoll && !t.handles) fun s x => s.consume x none false 0

end Sys2Proof.Machine
end

