-- ==== Sys2Proof/Machine/Operands.lean ====
section
/-! DEFINITION. Operand forms and what the core checks before a lane executes: guards (03 R65), sources, literals and
destinations (03 R61 to R64), tags (05 R90) and predicates (03 R63). -/

namespace Sys2Proof.Machine

/-- The tags an operand accepts (R90): RAW or a tag, RAW or one of a list, any but HANDLE, any at all, one of a list
alone. -/
inductive Want where
  | only (t : Tag)
  | oneOf (l : List Tag)
  | noHandle
  | all
  | among (l : List Tag)
  deriving DecidableEq, Repr

def Want.ok (w : Want) (t : Tag) : Bool :=
  match w with
  | .only x => t == .raw || t == x
  | .oneOf l => t == .raw || l.contains t
  | .noHandle => t != .handle
  | .all => true
  | .among l => l.contains t

/-- A source operand: a register or pair with its operand code (19 R379: 1 A, 2 B, 3 C, 4 D read), its empty-source
mode and the tags it accepts; or a literal with the code of the operand it
replaces, tagged RAW (R61). -/
inductive Opnd where
  | reg (code r : Nat) (wide trapEmpty : Bool) (want : Want)
  | lit (code : Nat) (v : DWord) (want : Want)
  deriving DecidableEq, Repr

end Sys2Proof.Machine

namespace Sys2Proof

open Machine

/-- The literal as an operand of a width (R61). -/
def Enc.litVal (e : Enc) (wide : Bool) : DWord := if wide then e.literal else e.literal &&& 0xFFFFFFFF

def Enc.regA (e : Enc) (wide : Bool) (w : Want) : Opnd := .reg 1 e.a.toNat wide e.wa w
def Enc.regB (e : Enc) (wide : Bool) (w : Want) : Opnd := .reg 2 e.b.toNat wide e.wb w
/-- C of an extended form; in a base form C is the D field (R73). -/
def Enc.regC (e : Enc) (wide : Bool) (w : Want) : Opnd :=
  if e.isExt then .reg 3 e.c.toNat wide e.wc w else .reg 3 e.d.toNat wide false w
def Enc.regD (e : Enc) (wide : Bool) (w : Want) : Opnd := .reg 4 e.d.toNat wide false w
/-- A or B where a literal may replace it. -/
def Enc.litA (e : Enc) (wide : Bool) (w : Want) : Opnd := if e.hasLit then .lit 1 (e.litVal wide) w else e.regA wide w
def Enc.litB (e : Enc) (wide : Bool) (w : Want) : Opnd := if e.hasLit then .lit 2 (e.litVal wide) w else e.regB wide w

/-- The guard of a lane (R65); `short` is false for an opcode whose Q is a class. -/
def Enc.guard (e : Enc) (short : Bool) (t : Thread) : Bool :=
  if e.isExt then t.pred e.gp.toNat != e.gn else !short || t.pred e.q.toNat

/-- The predicates a guard reads. -/
def Enc.guardPreds (e : Enc) (short : Bool) : List Nat := if e.isExt then [e.gp.toNat] else if short then [e.q.toNat] else []

/-- The predicates of its guard that a lane waits for, as needs of WAIT_REG (08 R159). -/
def Enc.guardWait (e : Enc) (short : Bool) (t : Thread) : List Nat := ((e.guardPreds short).filter t.predWait.contains).map (64 + ·)

/-- The lane's guard is there, not still to be written by a SHFL (08 R159), and true. -/
def Enc.guardHolds (o : Enc) (short : Bool) (t : Thread) : Bool := (o.guardWait short t).isEmpty && o.guard short t

/-- The predicate operands of an instruction: of word 2 in an extended form, of word 0 in a base form (R63). -/
def Enc.predD (e : Enc) : Nat := if e.isExt then e.pd else e.d.toNat
def Enc.predA (e : Enc) : Nat := if e.isExt then e.pa else e.a.toNat
def Enc.predB (e : Enc) : Nat := if e.isExt then e.pb else e.b.toNat

end Sys2Proof

namespace Sys2Proof.Machine

/-- The registers of an operand. -/
def Opnd.regs : Opnd → List Nat
  | .reg _ r wide _ _ => if wide then [r, r + 1] else [r]
  | .lit .. => []

def Opnd.value (o : Opnd) (t : Thread) : DWord :=
  match o with
  | .reg _ r wide _ _ => t.value r wide
  | .lit _ v _ => v

def Opnd.tag (o : Opnd) (t : Thread) : Tag :=
  match o with
  | .reg _ r wide _ _ => t.tag r wide
  | .lit .. => .raw

def Opnd.empties (o : Opnd) (t : Thread) : List Nat := o.regs.filter fun r => !(t.reg r).full

/-- REG_EMPTY of an operand whose mode bit is 1 (R64, 19 R379). -/
def Opnd.emptyTrap (o : Opnd) (t : Thread) : Option Trap :=
  match o with
  | .reg code _ _ true _ => (o.empties t).head?.map fun r => { cause := cRegEmpty, info := r + code * 64 }
  | _ => none

/-- FORMAT_MISMATCH of an operand (R90, 19 R379). -/
def Opnd.tagTrap (o : Opnd) (t : Thread) : Option Trap :=
  match o with
  | .reg code _ _ _ want => if want.ok (o.tag t) then none else some { cause := cFormat, info := (o.tag t).code + code * 32 }
  | .lit code _ want => if want.ok .raw then none else some { cause := cFormat, info := code * 32 }


/-- What stands between a lane and its instruction: nothing, registers or predicates to wait for, or a trap. -/
inductive Fate where
  | ready
  | wait (needs : List Nat)
  | trap (r : Trap)
  deriving DecidableEq, Repr

/-- The registers of a destination. -/
def dstRegs : Option (Nat × Bool) → List Nat
  | none => []
  | some (r, wide) => if wide then [r, r + 1] else [r]

/-- The checks in their order: empty sources that trap, then waits, then tags (R64, R67 step 4, R90). Predicates
that a SHFL has still to write are waited for (08 R159). -/
def operandFate (t : Thread) (srcs : List Opnd) (dst : Option (Nat × Bool)) (preds : List Nat) : Fate :=
  match srcs.findSome? fun o => o.emptyTrap t with
  | some r => .trap r
  | none =>
    let needs := srcs.flatMap (fun o => o.empties t) ++ (dstRegs dst).filter fun r => !(t.reg r).full
    let ps := preds.filter t.predWait.contains
    if !needs.isEmpty || !ps.isEmpty then .wait (needs ++ ps.map (64 + ·))
    else match srcs.findSome? fun o => o.tagTrap t with
      | some r => .trap r
      | none => .ready

/-- A predicate as a carry (R133). -/
def Thread.predNat (t : Thread) (p : Nat) : Nat := (t.pred p).toNat

end Sys2Proof.Machine
end

