-- ==== Sys2Proof/Machine/Flags.lean ====
section
/-! DEFINITION. What arithmetic reports: comparisons and their combination (07 R138, R145), carry and borrow (07 R133),
minimum and maximum (07 R143), classes (07 R144), and exceptions as TINFO gives them (07 R148). -/

namespace Sys2Proof

/-- The condition of an ordered pair by code: eq, ne, lt, le, gt, ge (R131). -/
def condOf (code : Nat) (lt eq : Bool) : Bool :=
  match code with
  | 0 => eq
  | 1 => !eq
  | 2 => lt
  | 3 => lt || eq
  | 4 => !(lt || eq)
  | _ => !lt

def icmpCond (code : Nat) (a b : Int) : Bool := condOf code (decide (a < b)) (decide (a = b))

/-- Equality of values; the zeros are equal, a NaN equals nothing. -/
def Val.sameAs (a b : Val) : Bool := !a.isNaN && !b.isNaN && !a.lt b && !b.lt a

/-- A floating-point condition and whether it signals invalid (R145). -/
def fcmpCond (code : Nat) (a b : Val) : Bool × Bool :=
  let un := a.isNaN || b.isNaN
  let sig := a.isSig || b.isSig
  match code with
  | 6 => (un, sig)
  | 7 => (!un, sig)
  | 0 => (!un && Val.sameAs a b, sig)
  | 1 => (un || !Val.sameAs a b, sig)
  | c => (!un && condOf c (a.lt b) (Val.sameAs a b), un)

/-- The combination field (R131, R138). -/
def combine (comb : Nat) (c pb : Bool) : Bool :=
  match comb with
  | 0 => c
  | 1 => c && pb
  | 2 => c || pb
  | _ => c != pb

/-- Sum with carry in, and the carry out of `w` bits; difference with borrow in, and the borrow (R133). -/
def addCarry (w a b ci : Nat) : Nat × Bool := ((a + b + ci) % 2 ^ w, decide (2 ^ w ≤ a + b + ci))
def subBorrow (w a b ci : Nat) : Nat × Bool := (wrap w ((a : Int) - b - ci), decide (a < b + ci))

/-- −0 below +0 (R143). -/
def Val.ltMin (a b : Val) : Bool := a.lt b || (a.isZero && b.isZero && a.neg && !b.neg)

/-- FMIN and FMAX of one element's values (R143): the value and invalid. -/
def fminmax (isMax prop : Bool) (a b : Val) : Val × Bool :=
  let inv := a.isSig || b.isSig
  let pick := if isMax then (if a.ltMin b then b else a) else (if b.ltMin a then b else a)
  match a.isNaN, b.isNaN with
  | false, false => (pick, inv)
  | true, true => (a, inv)
  | true, false => (if prop then a else b, inv)
  | false, true => (if prop then b else a, inv)

/-- The one-hot class of a floating-point code (R144). -/
def FloatFmt.classBit (f : FloatFmt) (x : Nat) : Nat :=
  match f.decode x with
  | .nan _ sig _ => if sig then 0 else 1
  | .inf n => if n then 2 else 9
  | .zero n => if n then 5 else 6
  | .fin n m _ => if m < 2 ^ (f.p - 1) then (if n then 4 else 7) else (if n then 3 else 8)

/-- The exceptions of a lane: each element's, in ascending order. -/
def excUnion (l : List Exc) : Exc := l.foldl Exc.or {}

/-- TINFO of ARITH when an enabled exception was signalled (R148). -/
def arithInfo (rnd : Word) (l : List Exc) : Option Nat :=
  let en := bits rnd.toNat 12 8
  let mask := maskOf ((List.range l.length).filter fun k => ((l[k]?).getD {}).toNat &&& en != 0)
  if (excUnion l).toNat &&& en = 0 then none else some ((excUnion l).toNat + mask * 256)

/-- The rounding mode of an RM field: DYN takes RNDMODE (05 R96, 03 R57). -/
def rmOf (field : Nat) (rnd : Word) : Rm := if field = 7 then Rm.ofCode (rnd.toNat % 8) else Rm.ofCode field

/-- One combine of REDL and SCANL (08 R165): operation code, format, rounding. -/
def laneCombine (op : Nat) (f : Tag) (rm : Rm) (a b : Nat) : Nat × Exc :=
  match f.elemFmt with
  | .float g =>
    let x := g.decode a
    let y := g.decode b
    match op with
    | 0 =>
      let (v, inv) := withNaN [x, y] (Val.add rm x y)
      let (r, e) := g.round rm 0 false v
      (r, { e with invalid := e.invalid || inv })
    | _ =>
      let (v, inv) := fminmax (op == 2) false x y
      let (r, _) := g.round rm 0 false v
      (r, { invalid := inv })
  | .int s w =>
    match op with
    | 0 => ((a + b) % 2 ^ w, {})
    | 1 => (if intOf s w b < intOf s w a then b else a, {})
    | 2 => (if intOf s w a < intOf s w b then b else a, {})
    | 3 => (a &&& b, {})
    | 4 => (a ||| b, {})
    | _ => (a ^^^ b, {})
  | _ => (a, {})

/-- The identity of a scan's operation (08 R166). -/
def laneIdentity (op : Nat) (f : Tag) : Nat :=
  match f.elemFmt with
  | .float g => if op = 1 then g.infCode else if op = 2 then g.signBit true + g.infCode else 0
  | .int s w =>
    match op with
    | 1 => wrap w (intHigh s w)
    | 2 => wrap w (intLow s w)
    | 3 => 2 ^ w - 1
    | _ => 0
  | _ => 0

end Sys2Proof
end

