-- ==== Sys2Proof/Machine/Rendezvous.lean ====
section
/-! DEFINITION. Cross-lane and JOIN instances: who is awaited, what each contributor receives, completion, the
parked lanes of SHFL, and the deadlock detector (08 R157 to R168, 16 R331). -/

namespace Sys2Proof.Machine

/-- Visible index of an arrival. -/
def Arrival.vis (pair : Bool) (a : Arrival) : Nat := visible pair a.lane

/-- The physical lane behind a visible index. -/
def physical (pair : Bool) (v : Nat) : Nat := if pair then 2 * v else v

/-- Lanes named by a contributor that have neither arrived nor exited (R157, R158). -/
def Instance.awaited (i : Instance) (c : Crew) (pair : Bool) : List Nat :=
  let named := (i.arrivals.filter fun a => a.contrib).foldl (fun m a => m ||| a.mask.toNat) 0
  (bitList named (nlane pair)).filter fun v =>
    !(i.arrivals.any fun a => a.vis pair == v) && (c.thread (physical pair v)).st != .exited

/-- S(l): contributors that lane l's own mask names (R158). -/
def Instance.members (i : Instance) (pair : Bool) (a : Arrival) : List Arrival :=
  i.arrivals.filter fun m => m.contrib && a.mask.getLsbD (m.vis pair)

def Instance.fmt (i : Instance) : Tag :=
  i.enc.fmt (match i.opc with | 0x60 | 0x64 => .pred32 | 0x61 => .raw | 0x65 => .n32 | _ => .i32)

/-- The destination is a pair: of SHFL, REDL and SCANL in a 64-bit format. -/
def Instance.wide (i : Instance) : Bool := i.fmt.wide && (i.opc == 0x61 || i.opc == 0x62 || i.opc == 0x63)

/-- The tree of R165 over 32 positions: pairs at distance 1, 2, 4, 8, 16. -/
def treeLevel (f : Nat → Nat → Nat × Exc) : List (Option Nat) → List (Option Nat) × Exc
  | some a :: some b :: r => let (x, e) := f a b; let (l, e') := treeLevel f r; (some x :: l, e.or e')
  | none :: b :: r => let (l, e) := treeLevel f r; (b :: l, e)
  | a :: none :: r => let (l, e) := treeLevel f r; (a :: l, e)
  | l => (l, {})

def treeReduce (f : Nat → Nat → Nat × Exc) : Nat → List (Option Nat) → Option Nat × Exc
  | 0, l => ((l.head?).getD none, {})
  | n + 1, l =>
    let (l', e) := treeLevel f l
    let (r, e') := treeReduce f n l'
    (r, e.or e')

/-- SHFL's source lane, none when out of range (R164). -/
def shflSource (mode : Nat) (l b n : Nat) : Option Nat :=
  let s : Int := match mode with
    | 0 => b
    | 1 => (l : Int) - b
    | 2 => (l : Int) + b
    | _ => ((l ^^^ b : Nat) : Int)
  if 0 ≤ s ∧ s < n then some s.toNat else none

/-- What a contributor receives: a register write, a predicate write, or a trap. -/
structure Result where
  reg : Option (DWord × Tag) := none
  pred : Option (Nat × Bool) := none
  trap : Option Trap := none

/-- The result of contributor `a` (R163 to R168). -/
def Instance.result (i : Instance) (pair : Bool) (rnd : Word) (a : Arrival) : Result :=
  let e := i.enc
  let f := i.fmt
  let ms := i.members pair a
  let w := f.elemBits
  match i.opc with
  | 0x60 =>
    let mode := e.modBits 1 0
    let ones := ms.filter fun m => m.pa
    if mode = 0 then { reg := some (BitVec.ofNat 64 (maskOf (ones.map (Arrival.vis pair))), .pred32) }
    else
      let v := match mode with
        | 1 => ms.all fun m => m.pa
        | 2 => !ones.isEmpty
        | _ => ones.isEmpty || ms.all fun m => m.pa
      { pred := some (e.pd, v) }
  | 0x61 =>
    match (shflSource (e.modBits 1 0) (a.vis pair) a.b.toNat (nlane pair)).bind fun s => ms.find? fun m => m.vis pair == s with
    | some m => { reg := some (m.a, if f = .raw then m.atag else f), pred := some (e.pd, true) }
    | none => { reg := some (0, .raw), pred := some (e.pd, false) }
  | 0x62 =>
    let rm := rmOf (if e.isExt then e.rm.toNat else 7) rnd
    let v := (List.range 32).map fun j => (ms.find? fun m => m.vis pair == j).map fun m => m.a.toNat % 2 ^ w
    let (r, x) := treeReduce (laneCombine (e.modBits 2 0) f rm) 5 v
    match arithInfo rnd [x] with
    | some n => { trap := some { cause := cArith, info := n % 32 } }
    | none => { reg := some (BitVec.ofNat 64 (r.getD 0), f) }
  | 0x63 =>
    let rm := rmOf (if e.isExt then e.rm.toNat else 7) rnd
    let excl := e.modBit 3
    let vs := (List.range 32).filterMap fun j =>
      if j < a.vis pair ∨ (j = a.vis pair ∧ !excl) then (ms.find? fun m => m.vis pair == j).map fun m => m.a.toNat % 2 ^ w else none
    match vs with
    | [] => { reg := some (BitVec.ofNat 64 (laneIdentity (e.modBits 2 0) f), f) }
    | v :: r =>
      let (x, exc) := r.foldl (fun (acc : Nat × Exc) y => let (z, q) := laneCombine (e.modBits 2 0) f rm acc.1 y; (z, acc.2.or q)) (v, {})
      match arithInfo rnd [exc] with
      | some n => { trap := some { cause := cArith, info := n % 32 } }
      | none => { reg := some (BitVec.ofNat 64 x, f) }
  | 0x64 =>
    let first := ms.foldl (fun m x => min m (x.vis pair)) 32
    { pred := some (if e.isExt then e.pd else e.d.toNat, first == a.vis pair) }
  | 0x65 =>
    let same := ms.filter fun m => m.a == a.a
    { reg := some (BitVec.ofNat 64 (maskOf (same.map (Arrival.vis pair))), .pred32), pred := some (e.pd, same.length == ms.length) }
  | _ => {}

/-- A result written into a thread. -/
def Thread.receive (t : Thread) (d : Nat) (wide : Bool) (r : Result) : Thread :=
  let t := match r.reg with
    | some (v, g) => t.write d wide v g
    | none => t
  match r.pred with
  | some (p, v) => { t.setPred p v with predWait := t.predWait.filter (· != p) }
  | none => t

/-- The lane of an arrival takes part in what its instance comes to: it lives, and where it is to advance it still waits there. -/
def State.takesPart (s : State) (b sl : Nat) (i : Instance) (a : Arrival) (advance : Bool) : Bool :=
  let t := s.thread b sl a.lane
  t.st != .exited && (!advance || t.pc == i.pc && (t.st == .waitXl || t.st == .waitJoin))

/-- The trap of a contributor's own combines (R168). -/
def Instance.arith (i : Instance) (pair : Bool) (rnd : Word) (a : Arrival) : Option Trap :=
  if i.opc = 0x74 then none else (i.result pair rnd a).trap

/-- A contributor receives its result and moves past the instruction, or traps at it; a shadow has its result alone. -/
def State.finishLane (s : State) (b sl : Nat) (i : Instance) (a : Arrival) (pair advance : Bool) : State :=
  let x : Lane := ⟨b, sl, a.lane⟩
  let next := i.pc + BitVec.ofNat 64 i.enc.bytes
  match i.arith pair (s.laneThread x).rnd a with
  | some r => if i.shadow then s else s.trapNow x r next
  | none =>
    let s := if i.opc = 0x74 then s
      else s.modThread b sl a.lane fun t => (t.receive i.enc.d.toNat i.wide (i.result pair t.rnd a)).wakeRegs
    if advance then s.proceed x next else s

/-- A contributor and, in paired-lane mode, its shadow, in the shadows' instance `j` (R161); a trap makes the shadow a copy (19 R385). -/
def State.finishBoth (s : State) (b sl : Nat) (i : Instance) (j : Option Instance) (pair advance : Bool) (a : Arrival) : State :=
  if !s.takesPart b sl i a advance then s
  else
    let trapped := (i.arith pair (s.thread b sl a.lane).rnd a).isSome
    let s := s.finishLane b sl i a pair advance
    match j.bind fun j => (j.arrivals.find? fun z => z.lane == a.lane + 1).map (j, ·) with
    | none => s
    | some (j, z) =>
      if trapped then s
      else (s.finishLane b sl j z pair false).modCrew b sl fun c =>
        c.modThread (a.lane + 1) fun t => { t with pc := (c.thread a.lane).pc, st := (c.thread a.lane).st }

/-- What follows for lanes of an instance once it has passed them on: the floating-point sums came from the vector datapath (R169), and
marked lanes halt, in one event (20 R396). -/
def State.passedOn (s : State) (b sl : Nat) (i : Instance) (lanes : List Nat) : State :=
  let done := lanes.filter fun l => (s.thread b sl l).pc == i.pc + BitVec.ofNat 64 i.enc.bytes && (s.thread b sl l).st == .runnable
  let float := match i.fmt.elemFmt with
    | .float _ => i.opc == 0x62 || i.opc == 0x63
    | _ => false
  (if float then s.vectorDone b sl done (.reg i.enc.d.toNat) else s).afterLanes b sl lanes

/-- Drops an instance, and lets lanes that came to it a second time issue again (R157). -/
def State.closeInstance (s : State) (b sl : Nat) (i : Instance) (done : List Nat) : State :=
  s.modCrew b sl fun c =>
    { c with xl := c.xl.filter fun j => !(j.pc == i.pc),
             threads := Vector.ofFn fun l =>
               let t := c.threads[l]
               if t.pc = i.pc ∧ (t.st = .waitXl ∨ t.st = .waitJoin) ∧ !done.contains l.val then { t with st := .runnable, age := 0 } else t }

/-- The source of a SHFL contributor is among the lanes still awaited. -/
def Instance.sourceAwaited (i : Instance) (pair : Bool) (await_ : List Nat) (a : Arrival) : Bool :=
  match shflSource (i.enc.modBits 1 0) (a.vis pair) a.b.toNat (nlane pair) with
  | some v => await_.contains v && a.mask.getLsbD v
  | none => false

/-- The parked and the halted, whom a SHFL does not wait for (R159, 16 R317). -/
def LaneState.away : LaneState → Bool
  | .parked _ | .halted => true
  | _ => false

/-- One instance looked at: destinations whose source is no longer awaited fill; then it completes, or as a SHFL passes
contributors on while only parked lanes are awaited (R157 to R159). -/
def State.settleInstance (s : State) (b sl : Nat) (i : Instance) : State :=
  match s.crew b sl with
  | none => s
  | some c =>
    if i.shadow then s
    else
      let pair := (s.hdrOf b sl).pair
      let shadow := c.xl.find? fun j => j.pc == i.pc && j.shadow
      let await_ := i.awaited c pair
      let waiting := i.arrivals.filter fun a => a.contrib && !i.passed.contains a.lane
      let later (a : Arrival) : Bool := i.sourceAwaited pair await_ a
      let s := (i.arrivals.filter fun a => i.owed.contains a.lane && !later a).foldl (fun (s : State) a => s.finishBoth b sl i shadow pair false a) s
      let owed := (i.arrivals.filter fun a => i.owed.contains a.lane && later a).map (·.lane)
      if await_.isEmpty then
        (waiting.foldl (fun (s : State) a => s.finishBoth b sl i shadow pair true a) (s.closeInstance b sl i (waiting.map (·.lane)))).passedOn b sl i
          (waiting.map (·.lane))
      else if i.opc = 0x61 && await_.all fun v => (c.thread (physical pair v)).st.away then
        let s := s.modCrew b sl fun c => { c with xl := c.xl.map fun j =>
          if j.pc = i.pc then { j with passed := j.arrivals.map (·.lane), owed := if j.shadow then [] else owed ++ (waiting.filter later).map (·.lane) } else j }
        let s := (waiting.filter fun a => !later a).foldl (fun (s : State) a => s.finishBoth b sl i shadow pair true a) s
        let s := (waiting.filter later).foldl (fun (s : State) a =>
          let x : Lane := ⟨b, sl, a.lane⟩
          if (s.laneThread x).st ≠ .waitXl then s
          else
            let wait (t : Thread) : Thread :=
              { t.markEmpty i.enc.d.toNat i.wide with predWait := if i.enc.pd = 0 then t.predWait else i.enc.pd :: t.predWait }
            (if pair then (s.modThread b sl a.lane wait).modThread b sl (a.lane + 1) wait else s.modThread b sl a.lane wait).proceed x
              (i.pc + BitVec.ofNat 64 i.enc.bytes)) s
        s.passedOn b sl i (waiting.map (·.lane))
      else
        s.modCrew b sl fun c => { c with xl := c.xl.map fun j => if j.pc = i.pc && !j.shadow then { j with owed } else j }

/-- Every open instance of a crew looked at. -/
def State.settle (s : State) (b sl : Nat) : State :=
  match s.crew b sl with
  | none => s
  | some c => c.xl.foldl (fun (s : State) i =>
      match (s.crew b sl).bind fun c => c.xl.find? fun j => j.pc == i.pc && j.shadow == i.shadow with
      | none => s
      | some j => s.settleInstance b sl j) s

/-- Every live lane waits in a cross-lane instance or at a JOIN (R160). -/
def Crew.deadlocked (c : Crew) (pair : Bool) : Bool :=
  let ls := c.live.filter fun l => !pair || l % 2 == 0
  !ls.isEmpty && ls.all fun l => (c.thread l).st == .waitXl || (c.thread l).st == .waitJoin

/-- Destinations that the instances of a crew still owe are written as of a dropped producer (05 R91). -/
def Crew.forgoOwed (c : Crew) (pair : Bool) : Crew :=
  c.xl.foldl (fun (c : Crew) i => i.owed.foldl (fun (c : Crew) l =>
    (if pair then [l, l + 1] else [l]).foldl (fun (c : Crew) k =>
      c.modThread k fun t => (t.receive i.enc.d.toNat i.wide { reg := some (0, .raw), pred := some (i.enc.pd, false) }).wakeRegs) c) c) c

/-- RENDEZVOUS_DEADLOCK: every waiting lane traps with its instance's missing lanes (R160, R331). -/
def State.deadlock (s : State) (b sl : Nat) : State :=
  match s.crew b sl with
  | none => s
  | some c =>
    let pair := (s.hdrOf b sl).pair
    if !c.deadlocked pair then s
    else
      let ls := c.live.filter fun l => !pair || l % 2 == 0
      let infos := ls.map fun l =>
        (l, match c.xl.find? (fun i => i.pc == (c.thread l).pc && !i.shadow) with
          | none => 0
          | some i => maskOf (i.awaited c pair))
      let s := s.modCrew b sl fun c => { c.forgoOwed pair with xl := [] }
      (s.trapEach b sl ls fun l => { cause := cDeadlock, info := ((infos.find? fun z => z.1 == l).map (·.2)).getD 0 }).afterLanes b sl ls

end Sys2Proof.Machine
end

