-- ==== Sys2Proof/Machine/Lanes.lean ====
section
/-! DEFINITION. How a bundle executes an instruction lane by lane (03 R67, 07 R127, 16 R318): instructions on the lane's
own registers, and instructions that act on the rest of the machine. -/

namespace Sys2Proof.Machine

/-- The lane goes on at an address. -/
def Thread.goto (t : Thread) (pc : DWord) : Thread := { t with pc, st := .runnable, age := 0, mark := none }

/-! Instructions on a lane's own registers. -/

/-- What such an instruction does in a lane: nothing (false guard), its writes, a wait, or a trap. -/
inductive RegOut where
  | pass
  | done (t : Thread)
  | wait (needs : List Nat)
  | trap (r : Trap)
  deriving DecidableEq, Repr

/-- An instruction on registers: its guard, sources (`more` where a tag chooses the operand), destination, predicates
and computation. -/
structure RegForm where
  short : Bool := true
  srcs : List Opnd := []
  more : Thread → List Opnd := fun _ => []
  dst : Option (Nat × Bool) := none
  preds : List Nat := []
  body : Nat → Thread → Thread ⊕ Trap

/-- One lane (R127). -/
def RegForm.lane (f : RegForm) (e : Enc) (l : Nat) (t : Thread) : RegOut :=
  if (e.guardPreds f.short).any fun p => t.predWait.contains p then .wait (e.guardWait f.short t)
  else if !e.guard f.short t then .pass
  else match operandFate t (f.more t ++ f.srcs) f.dst f.preds with
    | .wait ns => .wait ns
    | .trap r => .trap r
    | .ready => match f.body l t with
      | .inl u => .done u
      | .inr r => .trap r

/-- The thread after; an unhandled trap leaves it. -/
def Thread.afterReg (t : Thread) (next : DWord) : RegOut → Thread
  | .pass => t.goto next
  | .done u => u.goto next
  | .wait ns => { t with st := .waitReg ns, age := 0 }
  | .trap r => if t.handles then t.enterTrap r (if r.next then next else t.pc) else t

/-- The shadow `u` of a visible lane that went from `v` to `v'`: it runs the instruction on its own registers, and the
visible lane decides where it stands (02 R48, R130, 19 R385). Where the visible lane completes and the shadow's own operands
would trap, wait or guard it off, its registers stay and it moves on (log entry 84). -/
def Thread.shadowReg (u v v' : Thread) (o own : RegOut) : Thread :=
  match o with
  | .trap _ => if v.handles then v' else u
  | .done _ => match own with
    | .done u' => { u' with pc := v'.pc, st := v'.st, age := v'.age, mark := v'.mark }
    | _ => { u with pc := v'.pc, st := v'.st, age := v'.age, mark := v'.mark }
  | _ => { u with pc := v'.pc, st := v'.st, age := v'.age, mark := v'.mark }

/-- A bundle's lanes of a crew, each for itself. -/
def Crew.regBundle (c : Crew) (pair : Bool) (lanes : List Nat) (next : DWord) (out : Nat → Thread → RegOut) : Crew :=
  { c with threads := Vector.ofFn fun l =>
      let t := c.threads[l]
      if lanes.contains l.val then t.afterReg next (out l t)
      else if pair && l.val % 2 == 1 && lanes.contains (l.val - 1) then
        let v := c.thread (l.val - 1)
        t.shadowReg v (v.afterReg next (out (l.val - 1) v)) (out (l.val - 1) v) (out l t)
      else t }

/-- An instruction on registers in the bundle at hand. -/
def State.regInstr (s : State) (e : Enc) (f : RegForm) : State :=
  match s.cur with
  | none => s
  | some cur => match s.crew cur.core cur.slot with
    | none => s
    | some c =>
      let next := cur.pc + BitVec.ofNat 64 e.bytes
      let lost := cur.lanes.any fun l => match f.lane e l (c.thread l) with
        | .trap _ => !(c.thread l).handles
        | _ => false
      let s := s.setCrew cur.core cur.slot (some (c.regBundle (s.hdrOf cur.core cur.slot).pair cur.lanes next (f.lane e)))
      (if lost then s.unhandled cur.core cur.slot else s).afterLanes cur.core cur.slot cur.lanes

/-! Instructions that act beyond the lane. -/

/-- How a lane leaves the instruction: to the next one, to a target, by a trap, staying in a state, exited, by killing
its team, to the next one having touched a watched byte, waiting for a walk, or already placed by the instruction. -/
inductive LaneOut where
  | next
  | jump (pc : DWord)
  | trap (r : Trap)
  | hold (st : LaneState)
  | exit
  | kill
  | watch (n : Nat) (addr : DWord)
  | miss (m : Miss)
  | gone
  deriving DecidableEq, Repr

/-- The lane after; answers whether its team is lost. -/
def State.leave (s : State) (x : Lane) (next : DWord) (o : LaneOut) : State × Bool :=
  let go (f : Thread → Thread) : State :=
    let s := s.modThread x.core x.slot x.lane f
    if (s.hdrOf x.core x.slot).pair then
      let t := s.laneThread x
      s.modThread x.core x.slot (x.lane + 1) fun u => { u with pc := t.pc, st := t.st, age := t.age, regionPc := t.regionPc, miss := t.miss, mark := t.mark }
    else s
  match o with
  | .next | .watch _ _ => (go fun t => t.goto next, false)
  | .jump pc => (go fun t => t.goto pc, false)
  | .trap r => (s.takeTrap x r next, !(s.laneThread x).handles)
  | .hold st => (go fun t => { t with st, age := 0, miss := none }, false)
  | .miss m =>
    let s := go fun t => { t with st := .waitUnit, age := 0, miss := some m }
    (s.modCore x.core fun c => if c.misses.contains m then c else { c with misses := c.misses ++ [m] }, false)
  | .exit => (go fun t => { t with st := .exited, age := 0, regionPc := 0 }, false)
  | .kill => (s, true)
  | .gone => (s, false)

/-- A failure delivered to its lane (15 R294): POISONED data and a failed MMA are consumed, and roll back where the region
allows (19 R382, 12 R240). -/
def State.deliverTo (s : State) (x : Lane) (k : Nat) : State × LaneOut :=
  let h := s.handle x.core k
  let outcome := bits h.word.toNat 31 29
  let (s, r) := s.deliver x.core k
  let s := s.wakeUnits x.core
  let s := if outcome = outcomePoisoned then s.count (s.partOf x.core) 7 else s
  if (outcome == outcomePoisoned || (h.cls == 1 && outcome == outcomeUncorrectable)) && (s.laneThread x).mayRoll then
    (s.rollback x, .gone)
  else (s, .trap r)

/-- An instruction beyond the lane: S-only or not, guard, sources, destination, predicates; `pass` is what a lane with a false guard
does. -/
structure LaneForm where
  sOnly : Option Nat := none
  short : Bool := true
  srcs : List Opnd := []
  dst : Option (Nat × Bool) := none
  preds : List Nat := []
  pass : State → Lane → State × LaneOut := fun s _ => (s, .next)
  body : State → Lane → State × LaneOut

/-- One lane (R67): privilege, guard, operands, then the instruction itself. -/
def LaneForm.lane (f : LaneForm) (e : Enc) (s : State) (x : Lane) : State × LaneOut :=
  let t := s.laneThread x
  if f.sOnly.isSome && !t.priv then (s, .trap { cause := cPriv, info := f.sOnly.getD 0, addr := t.pc })
  else if (e.guardPreds f.short).any fun p => t.predWait.contains p then (s, .hold (.waitReg (e.guardWait f.short t)))
  else if !e.guard f.short t then f.pass s x
  else match operandFate t f.srcs f.dst f.preds with
    | .wait ns => (s, .hold (.waitReg ns))
    | .trap r => (s, .trap r)
    | .ready => f.body s x

/-- A bundle while its lanes execute: whether its team is lost, the watched bytes touched (lane, watchpoint, address), and the first
number that its accesses can have. -/
structure Bundle where
  s : State
  lost : Bool
  hits : List (Nat × Nat × DWord)
  start : Nat := 0

def LaneForm.step (f : LaneForm) (e : Enc) (cur : Cur) (a : Bundle) (l : Nat) : Bundle :=
  let x : Lane := ⟨cur.core, cur.slot, l⟩
  let (s, o) := f.lane e a.s x
  let (s, lost) := s.leave x (cur.pc + BitVec.ofNat 64 e.bytes) o
  { a with s, lost := a.lost || lost, hits := match o with
      | .watch n addr => a.hits ++ [(l, n, addr)]
      | _ => a.hits }

/-- A change of the lane's thread and of its shadow's. -/
def State.both (s : State) (x : Lane) (f : Thread → Thread) : State :=
  let s := s.modThread x.core x.slot x.lane f
  if (s.hdrOf x.core x.slot).pair then s.modThread x.core x.slot (x.lane + 1) f else s

/-- The lanes of a bundle that touched watched bytes: their events come at once, or once the accesses are performed (20 R395), for which
they wait. -/
def State.watchHits (s : State) (b sl start : Nat) (hits : List (Nat × Nat × DWord)) : State :=
  if hits.isEmpty then s
  else
    let ids := ((s.core b).pend.filter fun p => decide (start ≤ p.id) && p.isMem && hits.any fun h => p.hasLane sl h.1).map Pend.id
    if ids.isEmpty then s.raiseWatch b sl hits
    else
      let s := hits.foldl (fun (s : State) h => s.both ⟨b, sl, h.1⟩ fun t =>
        if t.st = .runnable then { t with st := .waitUnit, watching := true } else t) s
      s.modCore b fun c => { c with hits := c.hits ++ [{ slot := sl, lanes := hits, ids }] }

/-- After the lanes: a lost team, watchpoint events, marked lanes, and the instances that exits and waits complete. -/
def Bundle.close (a : Bundle) (cur : Cur) : State :=
  let s := if a.lost then a.s.unhandled cur.core cur.slot else a.s
  let s := s.watchHits cur.core cur.slot a.start a.hits
  (s.afterLanes cur.core cur.slot cur.lanes).settle cur.core cur.slot

/-- An instruction beyond the lane in the bundle at hand, its lanes in ascending order (16 R318, 00 R7). -/
def State.laneInstr (s : State) (e : Enc) (f : LaneForm) : State :=
  match s.cur with
  | none => s
  | some cur => (cur.lanes.foldl (f.step e cur) { s, lost := false, hits := [], start := s.nextId }).close cur

/-- A destination written in a lane, and in its shadow in paired-lane mode (02 R48). -/
def State.put (s : State) (x : Lane) (d : Nat) (wide : Bool) (v : DWord) (g : Tag) : State :=
  let s := s.modThread x.core x.slot x.lane fun t => t.write d wide v g
  if (s.hdrOf x.core x.slot).pair then s.modThread x.core x.slot (x.lane + 1) fun t => t.write d wide v g else s
def State.putPred (s : State) (x : Lane) (p : Nat) (v : Bool) : State :=
  let s := s.modThread x.core x.slot x.lane fun t => t.setPred p v
  if (s.hdrOf x.core x.slot).pair then s.modThread x.core x.slot (x.lane + 1) fun t => t.setPred p v else s
/-- A destination marked empty at issue (05 R91). -/
def State.empty (s : State) (x : Lane) (d : Nat) (wide : Bool) : State :=
  let s := s.modThread x.core x.slot x.lane fun t => t.markEmpty d wide
  if (s.hdrOf x.core x.slot).pair then s.modThread x.core x.slot (x.lane + 1) fun t => t.markEmpty d wide else s

/-- A destination marked empty, where there is one. -/
def State.emptyDst (s : State) (x : Lane) : Option (Nat × Bool) → State
  | some d => s.empty x d.1 d.2
  | none => s

/-- The lowest lane of the bundle at hand whose guard holds; one whose guard is still to be written waits and takes no part (log
entry 88). -/
def State.lowestTrue (s : State) (short : Bool) (o : Enc) : Option Nat :=
  match s.cur with
  | none => none
  | some c => c.lanes.find? fun l => o.guardHolds short (s.thread c.core c.slot l)

/-! Switch points of deterministic mode (16 R324). -/

def Crew.canRun (c : Crew) (pair : Bool) : Bool := (List.range 32).any fun l => (c.thread l).st == .runnable && !(pair && l % 2 == 1)

/-- The crew of a team by its logical index has a runnable thread. -/
def State.crewCanRun (s : State) (b : Nat) (t : Team) (idx : Nat) : Bool :=
  match t.slots[idx]? with
  | none => false
  | some sl => match s.crew b sl with
    | none => false
    | some c => c.canRun (s.hdrOf b sl).pair

/-- The running crew of the slot's team gives its turn to the next one that can run (R324). -/
def State.detSwitch (s : State) (b sl : Nat) : State :=
  match s.teamOf b sl with
  | none => s
  | some t =>
    if !(s.hdrOf b sl).det then s
    else
      let n := t.slots.length
      match ((List.range n).map fun i => (t.running + 1 + i) % n).find? fun i => s.crewCanRun b t i with
      | none => s
      | some i => s.modTeam b t.id fun t => { t with running := i }

/-- A switch where some lane of the bundle now waits in one of the states. -/
def State.switchIf (s : State) (waits : LaneState → Bool) : State :=
  match s.cur with
  | none => s
  | some cur =>
    if cur.lanes.any fun l => waits (s.thread cur.core cur.slot l).st then s.detSwitch cur.core cur.slot else s

end Sys2Proof.Machine
end

