-- ==== Sys2Proof/Machine/Issue.lean ====
section
/-! DEFINITION. Fetch, bundles and the choice of the crew (16 R318 to R324, 03 R53, R69), and the traps of decode. -/

namespace Sys2Proof.Machine

/-! Fetch. -/

/-- A byte of the code a crew executes: memory as it was when its launch, or its debug crew, started (R69). -/
def State.codeByte (s : State) (x : Lane) (pa : Nat) : Byte :=
  let p := s.part (s.partOf x.core)
  let (code, keys, old) := match s.teamOf x.core x.slot with
    | some t => ((s.launch t.part t.launch).map fun l => (l.code, l.codeKeys, l.codeOld)).getD ([], [], [])
    | none => (p.dbgCode, p.dbgKeys, [])
  let a := paAddr pa
  s.readAs (paKey pa) (lookupNat old a (lookupNat keys (a / 128) 0)) a (memGet code a)

/-- One instruction word of a lane, or how the lane leaves (R325, R328); the copy aperture holds no code (15 R301). -/
def State.fetchWord (s : State) (x : Lane) (va : Nat) : Word ⊕ LaneOut :=
  if va / 2 ^ 57 ≠ 0 then .inr (.trap (aperture va))
  else if (s.part (s.partOf x.core)).inAperture va then .inr (.trap (access 0x0C va))
  else match s.translate x va va { align := 4, write := false, fetch := true } with
    | .mem (.glob pa) => .inl (BitVec.ofNat 32 (leNat ((List.range 4).map fun i => s.codeByte x (pa + i))))
    | .trap r => .inr (.trap r)
    | .miss m => .inr (.miss m)
    | _ => .inr .gone

/-- `n` words from an address, or the first that fails. -/
def State.fetchWords (s : State) (x : Lane) (va : Nat) : Nat → List Word ⊕ (Nat × LaneOut)
  | 0 => .inl []
  | n + 1 => match s.fetchWord x va with
    | .inr o => .inr (va, o)
    | .inl w => match s.fetchWords x ((va + 4) % 2 ^ 64) n with
      | .inr o => .inr o
      | .inl ws => .inl (w :: ws)

/-- The words of the instruction at a lane's PC. -/
def State.fetch (s : State) (x : Lane) : List Word ⊕ (Nat × LaneOut) :=
  let va := (s.laneThread x).pc.toNat
  match s.fetchWord x va with
  | .inr o => .inr (va, o)
  | .inl w => match s.fetchWords x ((va + 4) % 2 ^ 64) (headBytes w / 4 - 1) with
    | .inr o => .inr o
    | .inl ws => .inl (w :: ws)

/-! Bundles (R318). -/

/-- A lane put among lanes ordered by PC, ties by lane. -/
def insertLane (c : Crew) (l : Nat) : List Nat → List Nat
  | [] => [l]
  | k :: r => if (c.thread l).pc < (c.thread k).pc || ((c.thread l).pc == (c.thread k).pc && decide (l < k)) then l :: k :: r
    else k :: insertLane c l r

/-- The lanes in the order of the PC table (R318). -/
def Crew.sorted (c : Crew) : List Nat := (List.range 32).foldr (insertLane c) []

/-- select_bundle: the lanes that issue together; those that stood back by YIELD only where no other can (R333),
and where DSTEP released lanes, those alone (20 R399). -/
def Crew.bundle (c : Crew) (pair : Bool) : List Nat :=
  let ready := (List.range 32).filter fun l => (c.thread l).st == .runnable && !(pair && l % 2 == 1)
  let stepped := ready.filter fun l => (c.thread l).stepMark
  let ready := if stepped.isEmpty then ready else stepped
  let fresh := ready.filter fun l => (c.thread l).yielded == 0
  let r := if fresh.isEmpty || !stepped.isEmpty then ready else fresh
  let old := r.filter fun l => (c.thread l).age == 64
  let head := match old with
    | [] => c.order.find? fun l => r.contains l
    | l :: ls => some (ls.foldl (fun h l => if (c.thread l).pc < (c.thread h).pc then l else h) l)
  match head with
  | none => []
  | some h => r.filter fun l => (c.thread l).pc == (c.thread h).pc

/-- The crew with its PC table as the port finds it: sorted again where the last sort lies 4 cycles back (R318). -/
def Crew.resorted (c : Crew) (cycle : Nat) : Crew :=
  { c with order := if c.order = c.sorted ∨ cycle < c.sortedAt + 4 then c.order else c.sorted,
           sortedAt := if cycle < c.sortedAt + 4 then c.sortedAt else cycle }

/-- The crew after an issue slot: the RUNNABLE lanes that did not issue age, YIELD's slots count down (R321, R333); a shadow lane
is as old as its visible one. -/
def Crew.aged (c : Crew) (pair : Bool) (lanes : List Nat) (cycle : Nat) : Crew :=
  let of_ (l : Nat) : Nat := if pair then l - l % 2 else l
  { c with lastSlot := cycle,
           threads := c.threads.map fun t => { t with yielded := t.yielded - 1 } } |> fun c =>
  (List.range 32).foldl (fun (c : Crew) l =>
    if lanes.contains (of_ l) then c.modThread l fun t => { t with age := 0 }
    else if (c.thread (of_ l)).st = .runnable then c.modThread l fun t => { t with age := min 64 (t.age + 1) }
    else c) c

/-! Eligibility (R322 to R324). -/

/-- THR crews of a core in rank: team placement order, then logical crew index (R323). -/
def State.thrRank (s : State) (b : Nat) : List Nat :=
  ((s.core b).teams.filter fun t => ((s.launch t.part t.launch).map fun l => l.hdr.thr).getD false).flatMap Team.slots

/-- The crew holds a memory permit, or needs none (R323). -/
def State.permitted (s : State) (b sl : Nat) : Bool :=
  !(s.hdrOf b sl).thr || ((s.thrRank b).take (max 1 (8 - (s.core b).score / 8))).contains sl

/-- The crew may use an issue slot now. -/
def State.eligible (s : State) (b sl : Nat) : Bool :=
  match s.crew b sl with
  | none => false
  | some c =>
    let h := s.hdrOf b sl
    let lanes := (c.resorted s.cycle).bundle h.pair
    if lanes.isEmpty || (s.part (s.partOf b)).phase != .active || (s.core b).quarantined then false
    else if h.thr then
      let opc := match lanes with
        | [] => 0
        | l :: _ => match s.fetchWord ⟨b, sl, l⟩ (c.thread l).pc.toNat with
          | .inl w => (opcodeOf w).toNat
          | .inr _ => 0
      s.permitted b sl || !(decide (0x80 ≤ opc) && decide (opc ≤ 0x8B)) || decide (2048 ≤ s.cycle - c.lastSlot)
    else if h.det then
      match s.teamOf b sl with
      | some t => t.slots[t.running]? == some sl
      | none => true
    else true

/-- select_crew of a port (R322): crews that waited 2,048 cycles first, else the furthest behind. -/
def State.selectCrew (s : State) (b port : Nat) : Option Nat :=
  let es := ((List.range 16).map fun i => 4 * i + port).filter fun sl => s.eligible b sl
  let since (sl : Nat) : Nat := s.cycle - ((s.crew b sl).map Crew.lastSlot).getD 0
  let behind (sl : Nat) : Nat := ((s.crew b sl).map Crew.behind).getD 0
  let pick (first : Nat → Nat → Bool) (es : List Nat) : Option Nat := match es with
    | [] => none
    | sl :: r => some (r.foldl (fun m sl => if first sl m then sl else m) sl)
  let longest (a m : Nat) : Bool := decide (since m < since a)
  match es with
  | [sl] => some sl
  | _ => match es.filter fun sl => 2048 ≤ since sl with
    | [] => pick (fun a m => behind a < behind m || (behind a == behind m && longest a m)) es
    | old => pick longest old

/-- The next crew in the package: ports in turn, from a place that moves on with every step. -/
def State.nextCrew (s : State) : Option (Nat × Nat) :=
  (List.range 640).findSome? fun i =>
    let k := (i + s.fresh) % 640
    (s.selectCrew (k / 4) (k % 4)).map (k / 4, ·)

/-! Issue. -/

/-- What a crew's issue slot comes to: nothing to execute, an instruction, or an encoding that traps. -/
inductive Issued where
  | nothing (s : State)
  | run (s : State) (i : Instr)
  | bad (s : State) (sub bit : Nat)

/-- Every active lane traps, whatever its guard (R65). -/
def State.trapBundle (s : State) (r : DWord → Trap) : State :=
  match s.cur with
  | none => s
  | some cur =>
    let a := cur.lanes.foldl (fun (a : Bundle) l =>
      let (s, lost) := a.s.leave ⟨cur.core, cur.slot, l⟩ cur.pc (.trap (r cur.pc))
      { a with s, lost := a.lost || lost }) { s, lost := false, hits := [] }
    a.close cur

/-- The lanes of a bundle whose fetch fails at the address where the first such lane's does. -/
def State.fetchFails (s : State) (b sl : Nat) (lanes : List Nat) : Option (Nat × List Nat) :=
  let bad := lanes.filterMap fun l => match s.fetch ⟨b, sl, l⟩ with
    | .inr (va, _) => some (l, va)
    | .inl _ => none
  match bad with
  | [] => none
  | (_, va) :: _ => some (va, (bad.filter fun x => x.2 == va).map (·.1))

/-- The breakpoint of a bundle's address: its number and the U-mode lanes that match it (20 R395). -/
def State.breakpoint (s : State) (b sl : Nat) (lanes : List Nat) (pc : DWord) : Option (Nat × List Nat) :=
  if (s.teamOf b sl).isNone then none
  else
    let ls := lanes.filter fun l => !(s.thread b sl l).priv && !(s.thread b sl l).skipBp
    if ls.isEmpty then none
    else ((List.range 8).find? fun n => ((s.core b).bps.toList[n]?).join == some pc).map (·, ls)

/-! Errors in a core's own state, consumed when it is read (19 R382). -/

/-- Every live lane of a crew consumes an error, a pair through its visible lane (R382, R384). -/
def State.crewError (s : State) (b sl : Nat) : State :=
  match s.crew b sl with
  | none => s
  | some c => s.consumeEach b sl (c.live.filter fun l => !((s.hdrOf b sl).pair && l % 2 == 1))

/-- Opcodes that read the handle table: EXIT, WAITH, TESTH, CANCH, HTAG, the matrix instructions and those of the engines. -/
def readsHandles (opc : Nat) : Bool :=
  opc == 0x75 || decide (0x7B ≤ opc) && decide (opc ≤ 0x7E) || decide (0xA0 ≤ opc) && decide (opc ≤ 0xAB) ||
  decide (0xB0 ≤ opc) && decide (opc ≤ 0xB7)

/-! The vector datapath (07 R129). -/

/-- The opcodes of 07 R129's vector datapath. -/
def vectorOpcode (opc : Nat) : Bool :=
  decide (0x04 ≤ opc) && decide (opc ≤ 0x08) || decide (0x30 ≤ opc) && decide (opc ≤ 0x40) && !(opc == 0x36 || opc == 0x37 || opc == 0x39) ||
  decide (0x50 ≤ opc) && decide (opc ≤ 0x5B)

/-- Where a vector instruction puts its result: FCMP in a predicate. -/
def vectorDst (opc : Nat) (e : Enc) : VecDst := if opc = 0x38 then .pred e.predD else .reg e.d.toNat

/-- The words of an instruction read: one of them under a key ID with no key loaded is counted (09 R186). -/
def State.fetched (s : State) (x : Lane) (va n : Nat) : State :=
  match (List.range n).findSome? fun i => match s.translate x ((va + 4 * i) % 2 ^ 64) ((va + 4 * i) % 2 ^ 64) { align := 4, write := false, fetch := true } with
    | .mem (.glob pa) => if s.keyLoaded (paKey pa) then none else some pa
    | _ => none with
  | some pa => s.keyless (s.partOf x.core) pa
  | none => s

/-- The bundle at hand, its words read: of the vector datapath, the lanes it runs in are those whose guard is true (02 R49). -/
def State.facing (s : State) (b sl : Nat) (lanes : List Nat) (pc : DWord) (ws : List Word) : State :=
  let opc := (opcodeOf (ws.headD 0)).toNat
  match (if vectorOpcode opc then unpack ws else none) with
  | none => { s with cur := some { core := b, slot := sl, lanes, pc } }
  | some e =>
    let acts := lanes.filter fun l => e.guardHolds ((Encoding.spec opc e).q == .guard) (s.thread b sl l)
    { s with cur := some { core := b, slot := sl, lanes, pc, vec := acts.map fun l => (l, (s.thread b sl l).priv), dst := vectorDst opc e } }

/-- A bundle of a crew at its lanes' PC: its breakpoint, its fetch, its decode; where it reads a handle table that errs, the error is
consumed instead (19 R380, R382). -/
def State.issueLanes (s : State) (b sl : Nat) (lanes : List Nat) : Issued :=
  match lanes with
  | [] => .nothing s
  | l :: _ =>
    let pc := (s.thread b sl l).pc
    match s.breakpoint b sl lanes pc with
    | some (n, ls) => .nothing (s.raiseEvent b sl 2 n 0 (ls.map fun l => (l, pc)))
    | none =>
      match s.fetchFails b sl lanes with
      | some (va, ls) => .run { s with cur := some { core := b, slot := sl, lanes := ls, pc } } (.instructionFetchFault (BitVec.ofNat 64 va))
      | none =>
        match s.fetch ⟨b, sl, l⟩ with
        | .inr _ => .nothing s
        | .inl ws =>
          let s := (s.fetched ⟨b, sl, l⟩ pc.toNat ws.length).facing b sl lanes pc ws
          match decodeWords ws with
          | .ok i _ =>
            if (s.core b).badHandles && readsHandles (opcodeOf (ws.headD 0)).toNat then
              .nothing ((List.range 64).foldl (fun (s : State) sl => s.crewError b sl) { s.modCore b fun c => { c with badHandles := false } with cur := none })
            else .run s i
          | .illegalOpcode opc => .run s (.illegalOpcode opc)
          | .illegalEncoding sub bit => .bad s sub bit
          | .truncated => .nothing s

/-- The lanes of a bundle that issue in its slot: not those that halt at a breakpoint, nor those that go on waiting beside lanes whose
fetch fails (R321). -/
def State.issuing (s : State) (b sl : Nat) (lanes : List Nat) : List Nat :=
  match lanes with
  | [] => []
  | l :: _ => match s.breakpoint b sl lanes (s.thread b sl l).pc with
    | some _ => []
    | none => match s.fetchFails b sl lanes with
      | some (_, ls) => ls
      | none => lanes

/-! The second bundle of a slot (R319). -/

/-- Datapath classes. -/
inductive Datapath where
  | integer | vector | loadStore | control
  deriving DecidableEq, Repr

/-- The class of an opcode; none for those that never issue in a pair of bundles. -/
def Datapath.of (pair : Bool) (opc : Nat) : Option Datapath :=
  if vectorOpcode opc then some .vector
  else if opc ≤ 0x39 then some .integer
  else if 0x70 ≤ opc ∧ opc ≤ 0x7E then some .control
  else if 0x80 ≤ opc ∧ opc ≤ 0x8B then (if pair ∧ (opc = 0x81 ∨ opc = 0x82 ∨ opc = 0x83 ∨ opc = 0x85) then none else some .loadStore)
  else none

/-- The class of the instruction at a lane's PC. -/
def State.datapath (s : State) (x : Lane) : Option Datapath :=
  match s.fetch x with
  | .inl (w :: _) => Datapath.of (s.hdrOf x.core x.slot).pair (opcodeOf w).toNat
  | _ => none

/-- The second bundle of a crew's slot: from the RUNNABLE threads left out of the first, of another class (R319). -/
def State.secondBundle (s : State) (b sl : Nat) : List Nat :=
  match s.crew b sl with
  | none => []
  | some c =>
    let pair := (s.hdrOf b sl).pair
    let c := c.resorted s.cycle
    let first := c.bundle pair
    let c' := { c with threads := Vector.ofFn fun l => if first.contains l.val then { c.threads[l] with st := .waitUnit } else c.threads[l] }
    let second := c'.bundle pair
    let only (p : Thread → Bool) : Bool := !(first.any fun l => p (c.thread l)) || second.all fun l => p (c.thread l)
    match first, second with
    | l :: _, k :: _ =>
      -- lanes that stand back by YIELD, or that DSTEP did not release, stand back here too (R333, 20 R399)
      if !only (fun t => t.yielded == 0) || !only Thread.stepMark then [] else
      match s.datapath ⟨b, sl, l⟩, s.datapath ⟨b, sl, k⟩ with
      | some p, some q => if p = q then [] else second
      | _, _ => []
    | _, _ => []

/-- An issue slot given to a crew that its port chose (R320, R322), with `second` its second bundle's lanes: the first bundle. An error
in the crew's own state is consumed in the slot, and nothing issues (19 R382). -/
def State.issue (s : State) (b sl : Nat) (second : List Nat := []) : Issued :=
  match s.crew b sl with
  | none => .nothing s
  | some c =>
    if s.selectCrew b (sl % 4) ≠ some sl then .nothing s
    else
      let pair := (s.hdrOf b sl).pair
      let c := c.resorted s.cycle
      let s := if (s.core b).vector.isNone then s else s.modCore b fun c => { c with vector := none }
      if c.bad then .nothing ((s.setCrew b sl (some { c.aged pair [] s.cycle with bad := false })).crewError b sl)
      else
        let lanes := c.bundle pair
        (s.setCrew b sl (some (c.aged pair (s.issuing b sl lanes ++ s.issuing b sl second) s.cycle))).issueLanes b sl lanes

/-- The second bundle of the slot, as the first has left its lanes. -/
def State.issueSecond (s : State) (b sl : Nat) (lanes : List Nat) (pc : DWord) : Issued :=
  s.issueLanes b sl (lanes.filter fun l => (s.thread b sl l).st == .runnable && (s.thread b sl l).pc == pc)

/-- The bundle at hand has retired unless each of its lanes still waits to do its instruction (R322; log entry 80). Lanes that have done
it match a breakpoint again (20 R395), and those that the vector datapath gave a result, having neither waited nor trapped, are known
to it (02 R49). -/
def State.countRetired (s : State) : State :=
  match s.cur with
  | none => s
  | some cur =>
    let thread (l : Nat) : Thread := s.thread cur.core cur.slot l
    let done (l : Nat) : Bool := match (thread l).st with
      | .waitReg _ | .waitUnit | .parked _ => (thread l).pc != cur.pc
      | .halted => (thread l).pc != cur.pc
      | _ => true
    let lanes := cur.lanes.filter done
    let struck := cur.vec.filter fun v => (thread v.1).pc != cur.pc && (thread v.1).st != .exited && (thread v.1).priv == v.2
    let s := if struck.isEmpty then s else s.vectorDone cur.core cur.slot (struck.map (·.1)) cur.dst
    let s := lanes.foldl (fun (s : State) l =>
      if (s.thread cur.core cur.slot l).skipBp then s.both ⟨cur.core, cur.slot, l⟩ fun t => { t with skipBp := false } else s) s
    if lanes.isEmpty then s else s.modCrew cur.core cur.slot fun c => { c with behind := c.behind + 1 }

/-- An error of a lane of the vector bundle that a core retired last, its rail being low (02 R49, 12 R238): it reaches the result of a
tolerant lane, and a sampled bundle is found to differ; a checked lane is replayed, its result unharmed (log entry 86). -/
def State.vectorError (s : State) (b lane : Nat) (mask : DWord) : State :=
  match (s.core b).vector with
  | none => s
  | some v =>
    if mask = 0 then s
    else if v.tolerant.contains lane then
      let s := s.modThread b v.slot lane fun t => match v.dst with
        | .reg r => t.write r (t.reg r).tag.wide (t.value r (t.reg r).tag.wide ^^^ mask) (t.reg r).tag
        | .pred p => t.setPred p (t.pred p != mask.getLsbD 0)
      if v.sampled then (s.count (s.partOf b) 6).modCore b fun c => { c with vector := some { v with sampled := false } } else s
    else if v.checked then s.count (s.partOf b) 4
    else s

/-! Each move's end: instances that it lets complete, and the turns of deterministic mode (08 R159, R324). -/

/-- A DET team whose running crew has no RUNNABLE thread left switches, if another crew has one (R324). -/
def State.turn (s : State) (b : Nat) (t : Team) : State :=
  if !((s.launch t.part t.launch).map fun l => l.hdr.det).getD false || s.crewCanRun b t t.running then s
  else match t.slots with
    | [] => s
    | sl :: _ => s.detSwitch b sl

/-- Every crew of a core looked at after a move. -/
def State.regroupCore (s : State) (b : Nat) : State :=
  let c := s.core b
  let s := (c.teams.flatMap Team.slots).foldl (fun (s : State) sl => s.settle b sl) s
  let s := if c.debug then s.settle b 63 else s
  let s := if c.hits.isEmpty then s else s.watchDone b
  (s.core b).teams.foldl (fun (s : State) t => s.turn b t) s

def State.regroup (s : State) : State :=
  ((s.cores.toList.zipIdx.filter fun c => !c.1.teams.isEmpty || c.1.debug).map (·.2)).foldl State.regroupCore s

/-! The traps of decode as instructions of the table. -/

/-- The answer of every meaning. -/
abbrev Answer := Host.Outcome State Fault Refusal

/-- ILLEGAL_OPCODE (04 R82, R84): TINFO is OPC, TADDR the address of word 0. -/
def execIllegalOpcode (opc : BitVec 8) (s : State) : Answer :=
  .next (s.trapBundle fun pc => { cause := cIllegalOpcode, info := opc.toNat, addr := pc })

/-- A fetch that fails at an address: APERTURE outside the global window, the trap of the access, or the wait for its
walk (R325, R328, 03 R53). -/
def execInstructionFetchFault (va : DWord) (s : State) : Answer :=
  .next (match s.cur with
    | none => s
    | some cur =>
      let a := cur.lanes.foldl (fun (a : Bundle) l =>
        let x : Lane := ⟨cur.core, cur.slot, l⟩
        match a.s.fetchWord x va.toNat with
        | .inl _ => a
        | .inr o =>
          let (s, lost) := a.s.leave x cur.pc o
          { a with s, lost := a.lost || lost }) { s, lost := false, hits := [] }
      a.close cur)

/-- ILLEGAL_ENCODING (R68). -/
def State.illegalEncoding (s : State) (sub bit : Nat) : State :=
  s.trapBundle fun pc => { cause := cIllegalEncoding, info := sub + bit * 256, addr := pc }

end Sys2Proof.Machine
end

