-- ==== Sys2Proof/Machine/Tas.lean ====
section
/-! DEFINITION. The Tile Accumulator Store: blocks and their layout (06 R121), the add (06 R122), and the window
(09 R189). -/

namespace Sys2Proof.Machine

/-- A block at its reset value (R121). -/
def tasReset (idx : Nat) (dbl : Bool) : TasBlock :=
  { idx, dbl, m := List.replicate 16 0, x := -32768, spec := List.replicate 16 0, grow := 0 }

/-- The width of a mantissa. -/
def TasBlock.w (b : TasBlock) : Nat := if b.dbl then 112 else 48

/-- The 128-byte units a block covers. -/
def TasBlock.covers (b : TasBlock) (u : Nat) : Bool := u == b.idx || b.dbl && u == b.idx + 1

/-- The block at a 128-byte unit, taken as single or double; an unlisted block holds its reset value. -/
def Core.tasBlock (c : Core) (idx : Nat) (dbl : Bool) : TasBlock :=
  (c.tas.find? fun b => b.idx == idx && b.dbl == dbl).getD (tasReset idx dbl)

/-- A block written over what stood there. A double block stays listed at its reset value too, since an unlisted unit
reads as single. Its sectors, 4 to a unit, are sound again (09 R187). -/
def Core.setTas (c : Core) (b : TasBlock) : Core :=
  let rest := c.tas.filter fun x => !((List.range (if b.dbl then 2 else 1)).any fun i => x.covers (b.idx + i))
  { c with tas := if b.dbl || b != tasReset b.idx b.dbl then b :: rest else rest,
           tasPoison := c.tasPoison.filter fun k => !b.covers (k / 4) }

/-- The bits of a block (R121). -/
def TasBlock.bits (b : TasBlock) : Nat :=
  let n := 16 * b.w
  packElems b.w (b.m.map (wrap b.w)) + 2 ^ n * (wrap 16 b.x + 2 ^ 16 * (packElems 2 b.spec + 2 ^ 32 * b.grow))

/-- A byte of the window (R189). -/
def Core.tasByte (c : Core) (o : Nat) : Byte :=
  let u := o / 128
  let b := (c.tas.find? fun b => b.covers u).getD (tasReset u false)
  BitVec.ofNat 8 (b.bits >>> (8 * (o - 128 * b.idx)))

/-- Bytes of the window and whether they are poisoned. -/
def State.tasWindow (s : State) (b off n : Nat) : List Byte × Bool :=
  let c := s.core b
  ((List.range n).map fun i => c.tasByte (off + i), (List.range n).any fun i => c.tasPoison.contains ((off + i) / 32))

/-! bfp_add (R122). -/

/-- floor(v / 2^q) of a finite value; others count as 0. -/
def floorAt (v : Val) (q : Int) : Int :=
  match v with
  | .fin n m e =>
    let x : Int := if n then -(m : Int) else m
    if q ≤ e then x * 2 ^ (e - q).toNat else x >>> (q - e).toNat
  | _ => 0

/-- Accumulator i of a block grown by s, with its incoming value. -/
def grown (b : TasBlock) (vs : List Val) (s : Nat) (i : Nat) : Int :=
  ((b.m[i]?).getD 0) >>> s + floorAt ((vs[i]?).getD (.zero false)) (b.x + s)

def inRange (w : Nat) (x : Int) : Bool := decide (-(2 ^ (w - 1)) ≤ x) && decide (x ≤ 2 ^ (w - 1) - 1)

def fits (b : TasBlock) (vs : List Val) (s : Nat) : Bool :=
  (List.range 16).all fun i => (b.spec[i]?).getD 0 != 0 || inRange b.w (grown b vs s i)

/-- The smallest growth from a lower bound on. -/
def searchGrowth (b : TasBlock) (vs : List Val) : Nat → Nat → Nat
  | 0, s => s
  | n + 1, s => if fits b vs s then s else searchGrowth b vs n (s + 1)

/-- Growths below this leave a value too large for its accumulator. -/
def growthFloor (b : TasBlock) (vs : List Val) : Nat :=
  (List.range 16).foldl (fun acc i =>
    match (b.spec[i]?).getD 0, (vs[i]?).getD (.zero false) with
    | 0, .fin _ m e => max acc ((Nat.log2 m : Int) + e - b.x - b.w - 1).toNat
    | _, _ => acc) 0

/-- Merging an incoming special state: 0 finite, 1 +Inf, 2 −Inf, 3 NaN (R126). -/
def mergeSpec (a b : Nat) : Nat := if a = 0 then b else if b = 0 ∨ a = b then a else 3

def specOf : Val → Nat
  | .nan .. => 3
  | .inf n => if n then 2 else 1
  | _ => 0

/-- An addition to a block (R122). An accumulator whose SPEC is not 00 keeps mantissa bits that nothing reads but an image of the
block: its sum taken to the width (log entry 84). -/
def bfpAdd (b : TasBlock) (vs : List Val) : TasBlock :=
  let g0 := searchGrowth b vs 16 (growthFloor b vs)
  let g := min g0 (32767 - b.x).toNat
  let ms := (List.range 16).map (grown b vs g)
  { b with
    m := ms.map fun x => signed b.w (wrap b.w x),
    x := b.x + g,
    grow := if g = 0 then b.grow else min (b.grow + 1) 255,
    spec := (List.range 16).map fun i =>
      let old := (b.spec[i]?).getD 0
      let m := (ms[i]?).getD 0
      let now := if old = 0 && !inRange b.w m then (if m < 0 then 2 else 1) else old
      mergeSpec now (specOf ((vs[i]?).getD (.zero false))) }

end Sys2Proof.Machine
end

