-- ==== Sys2Proof/Machine/Order.lean ====
section
/-! DEFINITION. The issued accesses of a core: when each may be performed and what that does (10 R194 to R200, 11 R207,
R211 to R216, 09 R181, R182), and the bank changes (09 R176). -/

namespace Sys2Proof.Machine

def Pend.isStore (p : Pend) : Bool :=
  match p.kind with
  | .store .. => true
  | _ => false
def Pend.isLoad (p : Pend) : Bool :=
  match p.kind with
  | .load .. => true
  | _ => false
def Pend.isGlobal (p : Pend) : Bool := p.places.any fun l => match l.1 with
  | .glob _ => true
  | .spad .. => false
def Pend.isCached (p : Pend) : Bool :=
  match p.kind with
  | .store _ _ c _ _ => c
  | _ => false
/-- An entry whose value a lane still awaits from memory. -/
def Pend.returns (p : Pend) : Bool :=
  match p.kind with
  | .load .. => true
  | .atoms _ _ ls _ _ => ls.any fun a => a.dst.isSome
  | _ => false
def Pend.acquires (p : Pend) : Bool :=
  match p.kind with
  | .load _ _ _ _ _ _ a => a
  | .atoms _ _ _ a _ => a
  | _ => false
def Pend.releases (p : Pend) : Bool :=
  match p.kind with
  | .store _ _ _ _ r => r
  | .atoms _ _ _ _ r => r
  | _ => false

def Pend.overlaps (p q : Pend) : Bool :=
  p.places.any fun l => q.places.any fun m => l.1.overlaps l.2 m.1 m.2
def Pend.sameWords (p q : Pend) : Bool :=
  p.places.any fun l => q.places.any fun m => l.1.sameWords l.2 m.1 m.2

/-- The entries of one thread. -/
def Core.pendOf (c : Core) (slot lane : Nat) : List Pend := c.pend.filter fun p => p.hasLane slot lane
/-- An access of the thread numbered up to `n` is still outstanding. -/
def Core.outstanding (c : Core) (slot lane n : Nat) : Bool :=
  (c.pendOf slot lane).any fun p => p.isMem && p.orders.any fun o => o.1 == lane && decide (o.2.1 ≤ n)
def Core.loadsOutstanding (c : Core) (slot lane n : Nat) : Bool :=
  (c.pendOf slot lane).any fun p => p.returns && p.orders.any fun o => o.1 == lane && decide (o.2.1 ≤ n)
/-- A later access waits at issue for an acquire of its thread (R198). -/
def Core.acquiring (c : Core) (slot lane : Nat) : Bool := (c.pendOf slot lane).any Pend.acquires

/-- The line of a scratchpad place is absent (09 R178). -/
def State.absent (s : State) (l : Loc) : Bool :=
  match l with
  | .spad b k off => s.lineCount b k (off / 128) != 0
  | .glob _ => false

/-- A plain load's hit in the private cache. -/
def Core.hit (c : Core) (l : Loc) (n : Nat) : Bool :=
  match l with
  | .glob pa => (c.cacheHit pa n).isSome
  | .spad .. => false

/-- A global place outside the private cache. -/
def Core.missed (c : Core) (l : Loc × Nat) : Bool :=
  match l.1 with
  | .glob _ => !c.hit l.1 l.2
  | .spad .. => false

/-- An access to a common location that the lanes' order in their bundle puts first (11 R207). -/
def Pend.bundleBefore (q p : Pend) : Bool := q.isLoad && q.slot == p.slot && q.step == p.step && p.overlaps q

/-- Whether an issued access may be performed now. -/
def State.mayPerform (s : State) (b : Nat) (p : Pend) : Bool :=
  let c := s.core b
  let before := c.pend.takeWhile fun q => q.id != p.id
  let mine (q : Pend) : Bool := q.isMem && p.orders.any fun o => q.hasLane p.slot o.1
  let plainHit : Bool := match p.kind with
    | .load _ _ _ _ l2 _ _ => !l2 && p.places.all fun l => c.hit l.1 l.2
    | _ => false
  -- program order to a common location (R197); a store already in the cache is visible to its core
  before.all (fun q => !(mine q && p.overlaps q) || (plainHit && q.isCached)) &&
  -- earlier fences and, for a release, every earlier access (R198)
  before.all (fun q => !(q.isMem && p.orders.any fun o =>
    q.slot == p.slot && q.orders.any fun e => e.1 == o.1 && (decide (e.2.1 ≤ o.2.2) || (p.releases && decide (e.2.1 < o.2.1))))) &&
  match p.kind with
  | .load _ _ _ _ l2 _ _ =>
    p.places.all (fun l => !s.absent l.1) && before.all (fun q => !q.bundleBefore p) &&
    -- a store that allocated nothing is waited for; one in the cache is read there, or waited for (09 R181); a miss takes all its words
    -- from the home, where every store that the cache already shows must have arrived (10 R193; log entry 89)
    (if l2 then before.all fun q => !(q.isStore && q.isGlobal && p.sameWords q)
     else before.all (fun q => !(q.isStore && q.isGlobal && p.overlaps q) || (q.isCached && p.places.all fun l => !c.missed l)) &&
       c.pend.all fun q => !(q.isCached && p.overlaps q) || p.places.all fun l => !c.missed l)
  | .atoms l _ _ _ _ =>
    !s.absent l && before.all fun q => !(q.isStore && p.sameWords q)
  | .store l _ _ marked _ =>
    match l with
    -- requests of one core to a common place of a bank arrive in the order of their issue (R194, 11 R207)
    | .spad .. => before.all fun q => !(q.isMem && !q.isLoad && p.overlaps q)
    | .glob _ => before.all fun q => !(q.isStore && (if marked then p.sameWords q else p.overlaps q))
  | _ => true

/-- Lanes that may now go on: those that wait on a register of the lane, and those that look again. -/
def State.freed (s : State) (b slot lane : Nat) : State :=
  let s := s.modThread b slot lane Thread.wakeRegs
  (if (s.hdrOf b slot).pair then
    s.modThread b slot (lane + 1) fun u => { u with st := (s.thread b slot lane).st, age := (s.thread b slot lane).age } else s).wakeUnits b

/-- The pending region entry of a FENCE.rel takes effect once its earlier loads have returned (R198, R200). -/
def State.openRegion (s : State) (x : Lane) : State :=
  match (s.laneThread x).relNext with
  | none => s
  | some (n, pc) =>
    if (s.core x.core).loadsOutstanding x.slot x.lane n then s
    else s.modThread x.core x.slot x.lane fun t => t.setRegionAt n pc

/-- A release whose earlier loads have returned, or will. -/
def State.releaseAfter (s : State) (x : Lane) (next : DWord) : State :=
  let t := s.laneThread x
  (s.modThread x.core x.slot x.lane fun t => { t with relNext := some (t.seq, next) }).openRegion x |> fun s =>
  if (s.hdrOf x.core x.slot).pair then s.modThread x.core x.slot (x.lane + 1) fun u => { u with regionPc := t.regionPc } else s

def State.dropPend (s : State) (b id : Nat) : State := s.modCore b fun c => { c with pend := c.pend.filter fun p => p.id != id }

/-- A long-latency value arrives at a lane's register (05 R91). -/
def State.fill (s : State) (x : Lane) (d : Nat) (wide : Bool) (v : DWord) (g : Tag) : State :=
  ((s.put x d wide v g).freed x.core x.slot x.lane).openRegion x

/-- An entry of the core, its destination marked empty (05 R91). -/
def State.pendAdd (s : State) (x : Lane) (p : Pend) : State :=
  let s := match p.dst with
    | some d => s.empty x d p.wide
    | none => s
  s.modCore x.core fun c => { c with pend := c.pend ++ [p] }

/-- A long-latency producer that is no memory access. -/
def State.producer (s : State) (x : Lane) (dst : Option Nat) (wide : Bool) (kind : PendKind) (va : DWord := 0)
    (twinVal : Option DWord := none) : State :=
  let (id, s) := s.newId
  s.pendAdd x { id, slot := x.slot, lane := x.lane, seq := (s.laneThread x).seq, fence := 0, dst, wide, va, twinVal, step := s.fresh, kind }

/-- A memory access of a lane, next in its program order. -/
def State.accessed (s : State) (x : Lane) (fence : Nat) (dst : Option Nat) (wide : Bool) (va : DWord) (twin : Option Loc)
    (kind : PendKind) (stream : Bool := false) (own twinVal : Option DWord := none) : State :=
  let permit := s.permitted x.core x.slot
  let (id, s) := s.newId
  let s := s.modThread x.core x.slot x.lane fun t => { t with seq := t.seq + 1 }
  s.pendAdd x { id, slot := x.slot, lane := x.lane, seq := (s.laneThread x).seq, fence, dst, wide, va, twin, twinVal, own, permit, stream, step := s.fresh, kind }

/-- Sign extension of a narrow load (11 R210). -/
def loadValue (data : List Byte) (sext : Bool) : DWord :=
  let n := leNat data
  if sext then BitVec.ofNat 64 (wrap 32 (signed (8 * data.length) n)) else BitVec.ofNat 64 n

/-- The crew is the furthest behind of its core's, under the urgency-aware scheduler (16 R322). -/
def State.furthest (s : State) (b sl : Nat) : Bool :=
  let behind (k : Nat) : Option Nat := (s.crew b k).map Crew.behind
  !(s.hdrOf b sl).thr && !(s.hdrOf b sl).det && (List.range 64).all fun k => match behind k with
    | some n => decide ((behind sl).getD 0 ≤ n)
    | none => true

/-- Where a crew's insertion into the private cache is placed (09 R180). -/
def State.placeOf (s : State) (b sl : Nat) (stream : Bool) : Place :=
  if stream then .last else if s.furthest b sl then .first else .next

/-- The bytes a load returns at its point of performance (R194), and whether they are poisoned. A miss fills every word that the load
touches, those that were valid among them: a 64-bit load takes both of its words at one time (10 R193; log entry 89). -/
def State.loadBytes (s : State) (b : Nat) (l : Loc) (n : Nat) (l2 : Bool) (at_ : Place) : State × List Byte × Bool :=
  let part := s.partOf b
  match l with
  | .spad b' k off => let (d, p) := s.spadRead b' k off n; (s, d, p)
  | .glob pa =>
    if l2 || !(s.core b).cacheOn then s.l2Read part pa n
    else match (s.core b).cacheHit pa n with
      | some d => (s.modCore b fun c => c.insertLine (s.spcap b) (paKey pa) (paAddr pa / 128) at_, d, (s.core b).hitPoisoned (s.spcap b) pa n)
      | none =>
        let s := (s.cacheDrop b pa n).fillLine part b pa at_
        match (s.core b).cacheHit pa n with
        | some d => (s, d, (s.core b).hitPoisoned (s.spcap b) pa n)
        | none => s.l2Read part pa n

/-- The throttle score rises when a THR crew's load misses and hits a victim tag, unless it was issued without a permit (16 R323). -/
def State.scoreMiss (s : State) (b slot : Nat) (l : Loc) (n : Nat) (permit : Bool) : State :=
  match l with
  | .spad .. => s
  | .glob pa =>
    if permit && (s.hdrOf b slot).thr && !(s.core b).hit l n && (s.core b).victims.contains (paAddr pa / 128) then
      s.modCore b fun c => { c with score := min 63 (c.score + 1) }
    else s

/-- The entry has a shadow lane's load in it, beside the lane's own. -/
def Pend.paired (p : Pend) : Bool := p.twin.isSome || p.twinVal.isSome || p.own.isSome

/-- A load is performed: its value, or consumed poison (05 R91, 19 R382). -/
def State.performLoad (s : State) (b : Nat) (p : Pend) : State :=
  match p.kind with
  | .load l n sext tag l2 stream acq =>
    let x : Lane := ⟨b, p.slot, p.lane⟩
    let s := (if l2 then s else s.scoreMiss b p.slot l n p.permit).dropPend b p.id
    let at_ := s.placeOf b p.slot stream
    let (s, data, bad) := s.loadBytes b l n l2 at_
    let (s, data2, bad2) := match p.twin with
      | none => (s, data, bad)
      | some l' => s.loadBytes b l' n l2 at_
    let s := if acq then s.acquire b else s
    let d := p.dst.getD 0
    if bad && p.own.isNone then (s.consume x p.dst p.wide p.va.toNat).wakeUnits b
    else if bad2 && p.twinVal.isNone then
      -- an error that only the shadow consumes (11 R208, 19 R385)
      let s := s.count (s.partOf b) 7
      (if (s.laneThread x).mayRoll then s.rollback x
       else (s.both x fun t => t.markFull d p.wide).trapNow x { cause := cShadow, info := 4 + cMemUnc * 256, addr := p.va } (s.laneThread x).pc).wakeUnits b
    else
      let s := s.fill x d p.wide (p.own.getD (loadValue data sext)) tag
      if p.paired then s.modThread b p.slot (p.lane + 1) fun t => t.write d p.wide (p.twinVal.getD (loadValue data2 sext)) tag else s
  | _ => s

/-- The new value of an atomic (11 R215); none where CAS does not write. -/
def atomNew (op : Nat) (g : Tag) (rm : Rm) (old b c : Nat) : Option Nat :=
  let w := g.elemBits
  let sgn := g.isSigned
  match op with
  | 0 => some ((old + b) % 2 ^ w)
  | 1 => some (if intOf sgn w b < intOf sgn w old then b else old)
  | 2 => some (if intOf sgn w old < intOf sgn w b then b else old)
  | 3 => some (old &&& b)
  | 4 => some (old ||| b)
  | 5 => some (old ^^^ b)
  | 6 => some b
  | 7 => if old = c then some b else none
  | _ => match g.elemFmt with
    | .float f => some (f.round rm 0 false (withNaN [f.decode old, f.decode b] (Val.add rm (f.decode old) (f.decode b))).1).1
    | _ => some old

/-- The lanes of a group in ascending order: each old value, and the last value if any wrote (R207). -/
def atomRun (w : Nat) : Nat → Bool → List AtomLane → List (AtomLane × Nat) × Nat × Bool
  | old, wrote, [] => ([], old, wrote)
  | old, wrote, a :: r =>
    let (new, wr) := match atomNew a.op a.tag (Rm.ofCode a.rm) old (a.b.toNat % 2 ^ w) (a.c.toNat % 2 ^ w) with
      | some v => (v, true)
      | none => (old, false)
    let (l, fin, wrote') := atomRun w new (wrote || wr) r
    ((a, old) :: l, fin, wrote')

/-- A group of atomics is performed (R207, R216). -/
def State.performAtoms (s : State) (b : Nat) (p : Pend) : State :=
  match p.kind with
  | .atoms l n ls acq _ =>
    let part := s.partOf b
    let (s0, data, bad) := s.readAt part l n
    if bad then
      ls.foldl (fun (s : State) a =>
        if (s.thread b p.slot a.lane).st = .exited then s
        else s.consume ⟨b, p.slot, a.lane⟩ a.dst (n == 8) p.va.toNat) (s0.dropPend b p.id) |>.wakeUnits b
    else
      let (outs, last, wrote) := atomRun (8 * n) (leNat data) false ls
      let (s1, ok) := if !wrote then (s0, true) else match l with
        | .glob pa => (s0.holdCode b ((s0.crew b p.slot).bind Crew.team) pa n).register part b pa (leBytes n last)
        | .spad b' k off => (s0.spadWrite b' k off (leBytes n last), true)
      if !ok then s1
      else
        let s := (match l with
          | .glob pa => s1.cacheDrop b pa n
          | .spad .. => s1).dropPend b p.id
        let s := if acq then s.acquire b else s
        outs.foldl (fun (s : State) o => match o.1.dst with
          | some d => s.fill ⟨b, p.slot, o.1.lane⟩ d (n == 8) (BitVec.ofNat 64 o.2) o.1.tag
          | none => s.freed b p.slot o.1.lane) s
  | _ => s

/-- The words of a store that has allocated nothing, once it is registered: they are written where they are valid, or allocated for
a whole word that a fence held back; what later stores of the core have put there stays (09 R181, R194). -/
def State.cacheLate (s : State) (b pa : Nat) (data : List Byte) (held : Bool) (at_ : Place) : State :=
  if !held && !(s.core b).holds pa data.length then s
  else
    let later := (s.core b).pend.filter Pend.isCached
    later.foldl (fun (s : State) q => match q.kind with
      | .store (.glob pa') d _ _ _ =>
        if (Loc.glob pa).overlaps data.length (.glob pa') d.length && (s.core b).holds pa' d.length then (s.cacheStore b pa' d at_).1 else s
      | _ => s) (s.cacheStore b pa data at_).1

/-- A store is performed at its bank, or registered at its home slice (R182, R194). -/
def State.performStore (s : State) (b : Nat) (p : Pend) : State :=
  match p.kind with
  | .store l data cached marked _ =>
    match l with
    | .spad b' k off => ((s.spadWrite b' k off data).dropPend b p.id).wakeAll
    | .glob pa =>
      let (s, ok) := (s.holdCode b ((s.crew b p.slot).bind Crew.team) pa data.length).register (s.partOf b) b pa data
      if !ok then s
      else
        let s := s.dropPend b p.id
        let s := if marked || !s.keyLoaded (paKey pa) then s.cacheDrop b pa data.length
          else (if cached then s else s.cacheLate b pa data (p.fence != 0) (s.placeOf b p.slot p.stream)).cacheOwn b pa data.length
        s.wakeUnits b
  | _ => s

/-! Bank mode changes (09 R176). -/

/-- An access is in flight to a bank. -/
def State.bankBusy (s : State) (b k : Nat) : Bool :=
  (List.range 160).any fun c => (s.core c).pend.any fun p => match p.place with
    | some (.spad b' k' _, _) => b' == b && k' == k
    | _ => false

/-- A copy's destination covers the bank and has not fully arrived: an iteration issued, or the first that is not. -/
def State.copyInto (s : State) (b k : Nat) : Bool :=
  (List.range 160).any fun c => (s.core c).copies.any fun o =>
    o.req.dst / 2 ^ 48 == 0xFFFE && o.dests.any fun d =>
      (o.issued ++ (List.range (min o.req.stages o.req.passes))).any fun n =>
        (o.req.lines n).any fun ln => s.destBank d (ln.1 * 128) == some (b, k)

/-- Store words of a way not yet registered. -/
def State.wayDirty (s : State) (b k : Nat) : Bool :=
  (s.core b).pend.any fun p => p.isCached && match p.place with
    | some (.glob pa, _) => (s.core b).cache.any fun l => l.bank == k && l.key == paKey pa && l.line == paAddr pa / 128
    | _ => false

/-- The steps before the change are done. -/
def State.bankReady (s : State) (b k : Nat) : Bool :=
  match (s.bank b k).mode with
  | .cache => !s.wayDirty b k
  | .spad => !s.bankBusy b k && !s.copyInto b k
  | .fifo => true

/-- Watchpoints of a bank that leaves scratchpad mode match nothing until they are set again (20 R397). -/
def Core.unwatch (c : Core) (k : Nat) : Core :=
  { c with wps := c.wps.map fun w => match w with
    | some (team, _, bank, _, _) => if ((c.team team).bind fun t => t.banks[bank]?) = some k then none else w
    | none => none }

/-- The bank in its new mode (steps 2 to 6). Its lines being present, or gone, lanes parked on them look again (R178). -/
def State.changeBank (s : State) (b k : Nat) (m : BankMode) : State :=
  let s := s.wakeParked fun b' k' _ => b' == b && k' == k
  let s := if (s.bank b k).mode = .cache then s.modCore b fun c => { c with cache := c.cache.filter fun l => l.bank != k } else s
  (if (s.bank b k).mode = .spad then s.modCore b fun c => c.unwatch k else s).modBank b k fun _ => { mode := m }

end Sys2Proof.Machine
end

