-- ==== Sys2Proof/Machine/Once.lean ====
section
/-! DEFINITION. Instructions that act once per bundle, through their issuing lane (13 R247, 15 R288), and the delivery of
failures to it (12 R240, 15 R294). -/

namespace Sys2Proof.Machine

/-- The issuing lane of the bundle at hand (R247). -/
def State.issuer (s : State) (o : Enc) : Option Nat := s.lowestTrue false o

/-- An instruction of the issuing lane alone: a failure of its delivery group comes first (R294, 19 R380), then its
operands, then the instruction. -/
def onceForm (lane : Option Nat) (group : List Nat) (srcs : List Opnd) (dst : Option (Nat × Bool))
    (act : State → Lane → State × LaneOut) : LaneForm :=
  { short := false,
    body := fun s x =>
      if lane != some x.lane then (s, .next)
      else match s.failureOf x group with
        | some k => s.deliverTo x k
        | none => match operandFate (s.laneThread x) srcs dst [] with
          | .wait ns => (s, .hold (.waitReg ns))
          | .trap r => (s, .trap r)
          | .ready => act s x }

/-- The bundle runs it. -/
def State.onceInstr (s : State) (o : Enc) (group : List Nat) (srcs : List Opnd) (dst : Option (Nat × Bool))
    (act : State → Lane → State × LaneOut) : State :=
  s.laneInstr o (onceForm (s.issuer o) group srcs dst act)

/-- Every access of the lane is done: what a release waits for (10 R198). -/
def State.quiet (s : State) (x : Lane) : Bool := !(s.core x.core).outstanding x.slot x.lane (s.laneThread x).seq

/-- The handle of an issued operation in D, and the release its issue is (15 R290 step 8, R292). -/
def State.issued (s : State) (x : Lane) (o : Enc) (handle : Nat) : State :=
  (s.put x o.d.toNat false (BitVec.ofNat 64 handle) .handle).releaseAfter x ((s.laneThread x).pc + BitVec.ofNat 64 o.bytes)

/-- Waiting for room, a handle slot and the release conditions (R288, R290). -/
def State.hasSlot (s : State) (x : Lane) : Bool := (s.core x.core).freeHandle.isSome

/-! Descriptors (15 R290 steps 2 and 3). -/

/-- A byte string in scratchpad as an unsigned field: `n` bytes at offset `i`. -/
def field (d : List Byte) (i n : Nat) : Nat := leNat ((d.drop i).take n)

/-- The descriptor at an address, or how the lane leaves. The read follows the lane's own earlier stores (10 R197:
program order to a common location), which the release at issue waits for anyway (R198). -/
def State.descriptor (s : State) (x : Lane) (va size al : Nat) (dst : Option Nat) : (List Byte × Nat × Nat × Nat) ⊕ (State × LaneOut) :=
  if va / 2 ^ 48 ≠ 0xFFFE then .inr (s, .trap (aperture va))
  else match s.steer x va { align := al, write := false } with
    | .mem (.spad b k off) =>
      match s.memberTeam x (bits va 27 24), s.teamOf x.core x.slot with
      | some (_, t), some own =>
        if t.id ≠ own.id then .inr (s, .trap (aperture va))
        else if s.absent (.spad b k off) then .inr (s, .hold (.parked (.line b k (off / 128) none false)))
        else if !s.quiet x then .inr (s, .hold .waitUnit)
        else
          let (d, bad) := s.spadRead b k off size
          if bad then .inr (s.consume x dst false va, .gone) else .inl (d, b, k, off)
      | _, _ => .inr (s, .trap (aperture va))
    | .trap r => .inr (s, .trap r)
    | _ => .inr (s, .next)

end Sys2Proof.Machine
end

