-- ==== Sys2Proof/Machine/Reach.lean ====
section
/-! DEFINITION. Accesses of the engines and the command processor (14 R270, 15 R302, 28 R449): each page is translated
as it is reached; a fault is waited for, or ends the work. -/

namespace Sys2Proof.Machine

/-- What such an access comes to: an answer, a wait for the resolution of a fault (RID 0: for room in the dirty log), a
fatal fault or poison, with the address. -/
inductive Got (α : Type) where
  | ok (a : α)
  | wait (rid : Nat)
  | fault (va : Nat)
  | poison (va : Nat)

def Got.bind {α β : Type} (g : Got α) (f : α → Got β) : Got β :=
  match g with
  | .ok a => f a
  | .wait r => .wait r
  | .fault v => .fault v
  | .poison v => .poison v

/-- Who accesses: partition, S mode, the SOURCE of its fault records, whether a window (WIN = 1) may be reached, and the core and
team that issued an engine's work. -/
structure Agent where
  part : Nat
  smode : Bool
  source : Nat
  win : Bool
  issuer : Option (Nat × Nat) := none

/-- The command processor reaches pages as a thread in U mode does, and the host's memory too, where alone the host can
write a ring (28 R439; log entry 28). -/
def cpAgent (p : Nat) : Agent := { part := p, smode := false, source := 3, win := true }

/-- The PA of an address; none of the copy aperture's is reached (15 R301). A page that the command at hand has met fatally stays
fatal for it. -/
def State.reachPa (s : State) (g : Agent) (va : Nat) (write : Bool) : State × Got Nat :=
  if va / 2 ^ 57 ≠ 0 ∨ (s.part g.part).inAperture va ∨ (g.source = 3 ∧ (s.part g.part).cpFatal.contains (va / 4096)) then (s, .fault va)
  else match s.reach { part := g.part, va, write, fetch := false, smode := g.smode } g.source with
    | (s, .pa a) => (s, if (if paWin a then g.win else a % 2 ^ 38 < 0x3000000000) then .ok a else .fault va)
    | (s, .wait rid) => (s, .wait rid)
    | (s, .log) => (s, .wait 0)
    | (s, .fatal _) => (s, .fault va)

/-- A range cut at page boundaries: address and length. -/
def pagesOf (va : Nat) : Nat → Nat → List (Nat × Nat)
  | 0, _ => []
  | fuel + 1, n =>
    if n = 0 then []
    else
      let k := min n (4096 - va % 4096)
      (va, k) :: pagesOf (va + k) fuel (n - k)
def pageSplit (va n : Nat) : List (Nat × Nat) := pagesOf va (n / 4096 + 2) n

/-- The first byte of a range of host memory that the host does not answer well, and whether with an error (28 R449). -/
def State.hostBadAt (s : State) (a n : Nat) : Option (Nat × Bool) :=
  (List.range n).findSome? fun i => (s.hostBad.find? fun e => e.1 == (a + i) / 32).map fun e => (i, e.2)

/-- Bytes at a PA and whether they are poisoned: device memory, or host memory behind the host window, which may answer with an
error. A peer's memory is not reached so. -/
def State.readPa (s : State) (part pa n : Nat) : State × Option (List Byte × Bool) :=
  if paWin pa then
    let bad := s.hostBadAt (pa % 2 ^ 46) n
    (s, if bit pa 46 || bad.any (·.2) then none else some (memRead s.hostMem (pa % 2 ^ 46) n, bad.isSome))
  else let (s, d, bad) := s.l2Read part pa n; (s, some (d, bad))

/-- A byte at a PA is poisoned, or erroneous, as it is read. -/
def State.badByte (s : State) (pa : Nat) : Bool :=
  if paWin pa then (s.hostBadAt (pa % 2 ^ 46) 1).isSome else !s.keyLoaded (paKey pa) || poisonedAt s.poison (paAddr pa)

/-- The first such byte of a range. -/
def State.poisonAt (s : State) (pa va n : Nat) : Nat := va + (((List.range n).find? fun i => s.badByte (pa + i)).getD 0)

/-- A read of a range. -/
def State.readVa (s : State) (g : Agent) (va n : Nat) : State × Got (List Byte) :=
  (pageSplit va n).foldl (fun (acc : State × Got (List Byte)) p =>
    match acc.2 with
    | .ok d => match acc.1.reachPa g p.1 false with
      | (s, .ok pa) => match s.readPa g.part pa p.2 with
        | (s, none) => (s, .fault (s.poisonAt pa p.1 p.2))
        | (s, some (_, true)) => (s, .poison (s.poisonAt pa p.1 p.2))
        | (s, some (e, false)) => (s, .ok (d ++ e))
      | (s, .wait r) => (s, .wait r)
      | (s, .fault v) => (s, .fault v)
      | (s, .poison v) => (s, .poison v)
    | _ => acc) (s, .ok [])

/-- Reads of ranges, one after another. -/
def State.readAll (s : State) (g : Agent) (l : List (Nat × Nat)) : State × Got (List (List Byte)) :=
  l.foldl (fun (acc : State × Got (List (List Byte))) r =>
    match acc.2 with
    | .ok ds => let (s, d) := acc.1.readVa g r.1 r.2; (s, d.bind fun d => .ok (ds ++ [d]))
    | _ => acc) (s, .ok [])

/-- A write of a range: the bytes before the page that stops it are written. -/
def State.writeVa (s : State) (g : Agent) (va : Nat) (data : List Byte) : State × Got Nat :=
  (pageSplit va data.length).foldl (fun (acc : State × Got Nat) p =>
    match acc.2 with
    | .ok n => match acc.1.reachPa g p.1 true with
      | (s, .ok pa) => match (g.issuer.elim (s.freeCode pa p.2) fun t => s.holdCode t.1 (some t.2) pa p.2).writePa g.part pa ((data.drop n).take p.2) with
        | (s, true) => (s, .ok (n + p.2))
        | (s, false) => (s, .fault p.1)
      | (s, .wait r) => (s, .wait r)
      | (s, .fault v) => (s, .fault v)
      | (s, .poison v) => (s, .poison v)
    | _ => acc) (s, .ok 0)

/-- The pages of ranges are all reachable for writing, so that a group of writes can be made whole. -/
def State.canWrite (s : State) (g : Agent) (l : List (Nat × Nat)) : State × Got Unit :=
  (l.flatMap fun r => pageSplit r.1 r.2).foldl (fun (acc : State × Got Unit) p =>
    match acc.2 with
    | .ok _ => match acc.1.reachPa g p.1 true with
      | (s, .ok pa) => (s, if paWin pa && bit pa 46 then .fault p.1 else .ok ())
      | (s, .wait r) => (s, .wait r)
      | (s, .fault v) => (s, .fault v)
      | (s, .poison v) => (s, .poison v)
    | _ => acc) (s, .ok ())

/-! Peers' memory (28 R448, R449). -/

/-- What a piece of a copy's or a collective's work comes to: done, to be tried again, a fault to wait for, a packet to a peer, or the end. -/
inductive ItemOut where
  | done
  | again
  | wait (rid : Nat)
  | sent (w : PeerWait)
  | stop (outcome va : Nat)

/-- A packet to a peer, checked against the tags (R448): none where it is dropped and counted. -/
def State.sendPeer (s : State) (part pa n : Nat) (data : Option (List Byte)) : Option State :=
  let p := s.part part
  let tag (j : Nat) : Nat := (p.tags[j]?).getD 0
  let j := bits pa 45 42
  if j = 0 ∨ tag j = 0 ∨ tag 0 = 0 then none
  else some { s with hostOut := s.hostOut ++ [.send part (tag 0) (tag j) ((p.peers[j - 1]?).getD 0) (pa % 2 ^ 42) n data] }

/-- The peer window's PA behind an address, where it leads there. -/
def State.peerPa (s : State) (g : Agent) (va : Nat) : Option Nat :=
  if va / 2 ^ 48 = 0xFFFE then none
  else match (s.reachPa g va false).2 with
    | .ok pa => if paWin pa && bit pa 46 then some pa else none
    | _ => none

/-- Steps in order until one is not done. -/
def whileDone {α : Type} (f : State → α → State × ItemOut) (l : List α) (s : State) : State × ItemOut :=
  l.foldl (fun (acc : State × ItemOut) x => match acc.2 with
    | .done => f acc.1 x
    | _ => acc) (s, .done)

end Sys2Proof.Machine
end

