-- ==== Sys2Proof/Machine/Integer.lean ====
section
/-! DEFINITION. Integer, logic, move, address and predicate instructions (07 R131 to R140). -/

namespace Sys2Proof.Machine


/-- D := g(A, B) in a format, a literal replacing B. -/
def binForm (o : Enc) (dflt : Tag) (short : Bool) (g : Tag → Nat → Nat → Nat) : RegForm :=
  let f := o.fmt dflt
  let a := o.regA f.wide (.only f)
  let b := o.litB f.wide (.only f)
  { short, srcs := [a, b], dst := some (o.d.toNat, f.wide),
    body := fun _ t => .inl (t.write o.d.toNat f.wide (BitVec.ofNat 64 (g f (a.value t).toNat (b.value t).toNat)) f) }

/-- D := g(A, B, C) in a format, a literal replacing B. -/
def triForm (o : Enc) (dflt : Tag) (short : Bool) (g : Tag → Nat → Nat → Nat → Nat) : RegForm :=
  let f := o.fmt dflt
  let a := o.regA f.wide (.only f)
  let b := o.litB f.wide (.only f)
  let c := o.regC f.wide (.only f)
  { short, srcs := [a, b, c], dst := some (o.d.toNat, f.wide),
    body := fun _ t => .inl (t.write o.d.toNat f.wide (BitVec.ofNat 64 (g f (a.value t).toNat (b.value t).toNat (c.value t).toNat)) f) }

/-- D := g(A) in a format, a literal replacing A. -/
def unForm (o : Enc) (dflt : Tag) (g : Tag → Nat → Nat) : RegForm :=
  let f := o.fmt dflt
  let a := o.litA f.wide (.only f)
  { srcs := [a], dst := some (o.d.toNat, f.wide),
    body := fun _ t => .inl (t.write o.d.toNat f.wide (BitVec.ofNat 64 (g f (a.value t).toNat)) f) }

/-- An integer computed per element, then saturated or wrapped (R132). -/
def intElems (f : Tag) (sat : Bool) (g : Int → Int → Int) (a b : Nat) : Nat :=
  let w := f.elemBits
  let s := f.isSigned
  packElems w ((List.range f.count).map fun k =>
    let x := g (intOf s w (elem w a k)) (intOf s w (elem w b k))
    wrap w (if sat then clampInt x (intLow s w) (intHigh s w) else x))

def execIadd (o : Enc) (s : State) : Answer :=
  .next (s.regInstr o (binForm o .i32 true fun f a b => intElems f (o.modBit 0) (· + ·) a b))
def execIsub (o : Enc) (s : State) : Answer :=
  .next (s.regInstr o (binForm o .i32 true fun f a b => intElems f (o.modBit 0) (· - ·) a b))
def execImin (o : Enc) (s : State) : Answer :=
  .next (s.regInstr o (binForm o .i32 true fun f a b => intElems f false min a b))
def execImax (o : Enc) (s : State) : Answer :=
  .next (s.regInstr o (binForm o .i32 true fun f a b => intElems f false max a b))
def execIabs (o : Enc) (s : State) : Answer :=
  .next (s.regInstr o (unForm o .i32 fun f a => intElems f (o.modBit 0) (fun x _ => x.natAbs) a 0))
def execIneg (o : Enc) (s : State) : Answer :=
  .next (s.regInstr o (unForm o .i32 fun f a => intElems f (o.modBit 0) (fun x _ => -x) a 0))

/-- The carry predicates of IADC and ISBB: p127 in base form (R133). -/
def Enc.carryOut (o : Enc) : Nat := if o.isExt then o.pd else 127
def Enc.carryIn (o : Enc) : Nat := if o.isExt then o.pa else 127

/-- A w-bit operation with a carry or borrow in and out (R133). -/
def carryForm (o : Enc) (g : Nat → Nat → Nat → Nat → Nat × Bool) : RegForm :=
  let f := o.fmt .i32
  let a := o.regA f.wide (.only f)
  let b := o.litB f.wide (.only f)
  { srcs := [a, b], dst := some (o.d.toNat, f.wide), preds := [Enc.carryOut o, Enc.carryIn o],
    body := fun _ t =>
      let (v, c) := g f.elemBits (a.value t).toNat (b.value t).toNat (t.predNat (Enc.carryIn o))
      .inl ((t.write o.d.toNat f.wide (BitVec.ofNat 64 v) f).setPred (Enc.carryOut o) c) }

def execIadc (o : Enc) (s : State) : Answer := .next (s.regInstr o (carryForm o addCarry))
def execIsbb (o : Enc) (s : State) : Answer := .next (s.regInstr o (carryForm o subBorrow))

/-- The operands of a format as integers (R134). -/
def asInt (f : Tag) (x : Nat) : Int := intOf f.isSigned f.elemBits x

def execImul (o : Enc) (s : State) : Answer :=
  .next (s.regInstr o (binForm o .i32 false fun f a b => a * b % 2 ^ f.elemBits))
def execImulh (o : Enc) (s : State) : Answer :=
  .next (s.regInstr o (binForm o .i32 false fun f a b => wrap f.elemBits ((asInt f a * asInt f b) >>> f.elemBits)))
def execImad (o : Enc) (s : State) : Answer :=
  .next (s.regInstr o (triForm o .i32 false fun f a b c => (a * b + c) % 2 ^ f.elemBits))

/-- Quotient toward zero and remainder with the sign of A; a zero divisor gives all ones and A (R134). -/
def divide (f : Tag) (a b : Nat) : Nat :=
  if asInt f b = 0 then 2 ^ f.elemBits - 1 else wrap f.elemBits ((asInt f a).tdiv (asInt f b))
def remainder (f : Tag) (a b : Nat) : Nat :=
  if asInt f b = 0 then a % 2 ^ f.elemBits else wrap f.elemBits ((asInt f a).tmod (asInt f b))

def execIdiv (o : Enc) (s : State) : Answer := .next (s.regInstr o (binForm o .i32 true divide))
def execIrem (o : Enc) (s : State) : Answer := .next (s.regInstr o (binForm o .i32 true remainder))

/-! Logic, shifts and bit fields (R135). -/

def execAndL (o : Enc) (s : State) : Answer := .next (s.regInstr o (binForm o .n32 true fun _ a b => a &&& b))
def execOrL (o : Enc) (s : State) : Answer := .next (s.regInstr o (binForm o .n32 true fun _ a b => a ||| b))
def execXorL (o : Enc) (s : State) : Answer := .next (s.regInstr o (binForm o .n32 true fun _ a b => a ^^^ b))
def execAndn (o : Enc) (s : State) : Answer :=
  .next (s.regInstr o (binForm o .n32 true fun f a b => a &&& (b ^^^ (2 ^ f.elemBits - 1))))
def execNotL (o : Enc) (s : State) : Answer := .next (s.regInstr o (unForm o .n32 fun f a => a ^^^ (2 ^ f.elemBits - 1)))

/-- The tags of a 32-bit count (R131). -/
def countTags : Want := .oneOf [.n32, .i32]

/-- D := g(A, n) with a 32-bit B. -/
def shiftForm (o : Enc) (g : Tag → Nat → Nat → Nat) : RegForm :=
  let f := o.fmt .n32
  let a := o.regA f.wide (.only f)
  let b := o.litB false countTags
  { srcs := [a, b], dst := some (o.d.toNat, f.wide),
    body := fun _ t => .inl (t.write o.d.toNat f.wide (BitVec.ofNat 64 (g f (a.value t).toNat (b.value t).toNat)) f) }

def shiftLeft (f : Tag) (a n : Nat) : Nat := if f.elemBits ≤ n then 0 else a * 2 ^ n % 2 ^ f.elemBits
def shiftRight (f : Tag) (a n : Nat) : Nat := if f.elemBits ≤ n then 0 else a / 2 ^ n
def shiftArith (f : Tag) (a n : Nat) : Nat := wrap f.elemBits (signed f.elemBits a >>> min n f.elemBits)
def rotateLeft (f : Tag) (a n : Nat) : Nat :=
  let w := f.elemBits
  (a * 2 ^ (n % w) % 2 ^ w) ||| a / 2 ^ (w - n % w)

def execShl (o : Enc) (s : State) : Answer := .next (s.regInstr o (shiftForm o shiftLeft))
def execShr (o : Enc) (s : State) : Answer := .next (s.regInstr o (shiftForm o shiftRight))
def execSar (o : Enc) (s : State) : Answer := .next (s.regInstr o (shiftForm o shiftArith))
def execRotl (o : Enc) (s : State) : Answer := .next (s.regInstr o (shiftForm o rotateLeft))

/-- Position and length of a field operand. -/
def fieldPos (b : Nat) : Nat := b % 256
def fieldLen (w b : Nat) : Nat := min (b / 256 % 256) w

def extractField (f : Tag) (a b : Nat) : Nat :=
  let len := fieldLen f.elemBits b
  let x := a / 2 ^ fieldPos b % 2 ^ len
  if f.isSigned && len != 0 then wrap f.elemBits (signed len x) else x
def insertField (f : Tag) (a b c : Nat) : Nat :=
  let w := f.elemBits
  let m := ((2 ^ fieldLen w b - 1) * 2 ^ fieldPos b) % 2 ^ w
  (c &&& (m ^^^ (2 ^ w - 1))) ||| (a * 2 ^ fieldPos b &&& m)

def execBfx (o : Enc) (s : State) : Answer := .next (s.regInstr o (shiftForm o extractField))

def bfiForm (o : Enc) : RegForm :=
  let f := o.fmt .n32
  let a := o.regA f.wide (.only f)
  let b := o.litB false countTags
  let c := o.regC f.wide (.only f)
  { srcs := [a, b, c], dst := some (o.d.toNat, f.wide),
    body := fun _ t => .inl (t.write o.d.toNat f.wide
      (BitVec.ofNat 64 (insertField f (a.value t).toNat (b.value t).toNat (c.value t).toNat)) f) }

def execBfi (o : Enc) (s : State) : Answer := .next (s.regInstr o (bfiForm o))

/-- A count of A's bits into a single register, tagged N32. -/
def bitCountForm (o : Enc) (g : Nat → Nat → Nat) : RegForm :=
  let f := o.fmt .n32
  let a := o.litA f.wide (.only f)
  { srcs := [a], dst := some (o.d.toNat, false),
    body := fun _ t => .inl (t.write o.d.toNat false (BitVec.ofNat 64 (g f.elemBits (a.value t).toNat)) .n32) }

def leadingZeros (w x : Nat) : Nat := if x = 0 then w else w - 1 - Nat.log2 x

def execPopc (o : Enc) (s : State) : Answer := .next (s.regInstr o (bitCountForm o fun w x => popcount x w))
def execClz (o : Enc) (s : State) : Answer := .next (s.regInstr o (bitCountForm o leadingZeros))
def execBrev (o : Enc) (s : State) : Answer := .next (s.regInstr o (unForm o .n32 fun f a => reverseBits a f.elemBits))

/-! Moves (R136). -/

/-- The tags MOV and SEL take from a source of format `f`. -/
def moveWant (f : Tag) (retag : Bool) : Want :=
  if f = .raw then .all else if f = .handle then .among [.handle] else if retag then .noHandle else .only f

def selForm (o : Enc) : RegForm :=
  let f := o.fmt .raw
  let psel := o.modBit 0
  let a := o.regA f.wide (moveWant f false)
  let b := o.litB f.wide (moveWant f false)
  let c := o.regC false .noHandle
  { srcs := if psel then [a, b] else [a, b, c], dst := some (o.d.toNat, f.wide), preds := if psel then [o.pe] else [],
    body := fun _ t =>
      let first := if psel then t.pred o.pe else c.value t != 0
      let x := if first then a else b
      .inl (t.write o.d.toNat f.wide (x.value t) (if f = .raw then x.tag t else f)) }

def execSel (o : Enc) (s : State) : Answer := .next (s.regInstr o (selForm o))

def movForm (o : Enc) : RegForm :=
  let f := o.fmt .raw
  let a := o.litA f.wide (moveWant f (o.modBit 0))
  { srcs := [a], dst := some (o.d.toNat, f.wide),
    body := fun _ t => .inl (t.write o.d.toNat f.wide (a.value t) (if f = .raw then a.tag t else f)) }

def execMov (o : Enc) (s : State) : Answer := .next (s.regInstr o (movForm o))

def movlForm (o : Enc) : RegForm :=
  { dst := some (o.d.toNat, true), body := fun _ t => .inl (t.write o.d.toNat true o.literal (o.fmt .n64)) }

def execMovl (o : Enc) (s : State) : Answer := .next (s.regInstr o (movlForm o))

/-- LEA (R137): base form has K 0, a signed B and no displacement. -/
def leaForm (o : Enc) : RegForm :=
  let a := o.regA true (.only .addr)
  let b := o.litB false countTags
  { srcs := [a, b], dst := some (o.d.toNat, true),
    body := fun _ t =>
      let x := (b.value t).setWidth 32
      let idx : DWord := if o.modBit 3 then x.setWidth 64 else x.signExtend 64
      .inl (t.write o.d.toNat true (a.value t + (idx <<< o.modBits 2 0) + o.w2.signExtend 64) .addr) }

def execLea (o : Enc) (s : State) : Answer := .next (s.regInstr o (leaForm o))

/-! Comparisons and predicates (R138 to R140). -/

/-- The predicates a comparison names. -/
def Enc.cmpPreds (o : Enc) : List Nat :=
  if o.isExt then (if o.modBits 4 3 = 0 then [o.pd, o.pa] else [o.pd, o.pa, o.pb]) else [o.d.toNat]

/-- The predicate writes of a comparison with the conditions of elements 0 and 1 (R138). -/
def Thread.compared (t : Thread) (o : Enc) (c0 c1 : Bool) : Thread :=
  if o.isExt then
    let comb := o.modBits 4 3
    let pb := t.pred o.pb
    (t.setPred o.pd (combine comb c0 pb)).setPred o.pa (combine comb c1 pb)
  else t.setPred o.d.toNat c0

/-- The condition code of a comparison: LT in base form (R131). -/
def Enc.cond (o : Enc) : Nat := if o.isExt then o.modBits 2 0 else 2

def icmpForm (o : Enc) : RegForm :=
  let f := o.fmt .i32
  let a := o.regA f.wide (.only f)
  let b := o.litB f.wide (.only f)
  { srcs := [a, b], preds := Enc.cmpPreds o,
    body := fun _ t =>
      let c := icmpCond (Enc.cond o) (asInt f (a.value t).toNat) (asInt f (b.value t).toNat)
      .inl (t.compared o c !c) }

def execIcmp (o : Enc) (s : State) : Answer := .next (s.regInstr o (icmpForm o))

/-- PD := g(PA, PB). -/
def predForm (o : Enc) (two : Bool) (g : Bool → Bool → Bool) : RegForm :=
  { preds := o.predD :: o.predA :: (if two then [o.predB] else []),
    body := fun _ t => .inl (t.setPred o.predD (g (t.pred o.predA != o.modBit 0) (t.pred o.predB != o.modBit 1))) }

def execPand (o : Enc) (s : State) : Answer := .next (s.regInstr o (predForm o true fun a b => a && b))
def execPor (o : Enc) (s : State) : Answer := .next (s.regInstr o (predForm o true fun a b => a || b))
def execPxor (o : Enc) (s : State) : Answer := .next (s.regInstr o (predForm o true fun a b => a != b))
def execPnot (o : Enc) (s : State) : Answer := .next (s.regInstr o (predForm o false fun a _ => !a))
def execPmov (o : Enc) (s : State) : Answer := .next (s.regInstr o (predForm o false fun a _ => a))

/-- PPACK (R140). -/
def ppackForm (o : Enc) : RegForm :=
  { dst := some (o.d.toNat, false), preds := (List.range 32).map (· + o.predA),
    body := fun _ t => .inl (t.write o.d.toNat false
      (BitVec.ofNat 64 (maskOf ((List.range 32).filter fun j => t.pred (o.predA + j)))) .pred32) }

def execPpack (o : Enc) (s : State) : Answer := .next (s.regInstr o (ppackForm o))

/-- PUNPK (R140). -/
def punpkForm (o : Enc) : RegForm :=
  let a := o.litA false (.oneOf [.pred32, .n32])
  { srcs := [a], preds := (List.range 32).map (· + o.predD),
    body := fun _ t => .inl ((List.range 32).foldl (fun (u : Thread) j => u.setPred (o.predD + j) ((a.value t).getLsbD j)) t) }

def execPunpk (o : Enc) (s : State) : Answer := .next (s.regInstr o (punpkForm o))

end Sys2Proof.Machine
end

