-- ==== Sys2Proof/Machine/CrossLane.lean ====
section
/-! DEFINITION. Cross-lane instructions (spec 08): each lane arrives in the instance at the instruction's address, and
`settle` at the bundle's end completes what can complete. -/

namespace Sys2Proof.Machine

/-- The tags of a member or rejoin mask (R156). -/
def maskTags : Want := .oneOf [.n32, .i32, .pred32]

/-- What a lane brings to an instance, read from its own registers. -/
structure Brings where
  mask : Word
  a : DWord := 0
  atag : Tag := .raw
  b : Word := 0
  pa : Bool := false
  deriving DecidableEq, Repr

/-- An arrival joins the open instance at the address or opens one (R157). -/
def Crew.arrive (c : Crew) (pc : DWord) (opc : Nat) (e : Enc) (shadow : Bool) (a : Arrival) : Crew :=
  if c.xl.any fun i => i.pc == pc && i.shadow == shadow then
    { c with xl := c.xl.map fun i => if i.pc == pc && i.shadow == shadow then { i with arrivals := i.arrivals ++ [a] } else i }
  else { c with xl := c.xl ++ [{ pc, opc, enc := e, shadow, arrivals := [a] }] }

/-- The lane has arrived before in the open instance at the address. -/
def Crew.hasArrived (c : Crew) (pc : DWord) (lane : Nat) : Bool :=
  c.xl.any fun i => i.pc == pc && !i.shadow && i.arrivals.any fun a => a.lane == lane

/-- The shadow lane joins the shadow's own instance with its own values (R161). -/
def State.arrive (s : State) (x : Lane) (opc : Nat) (e : Enc) (contrib : Bool) (brings : Thread → Brings) : State :=
  let one (c : Crew) (l : Nat) (shadow : Bool) : Crew :=
    let t := c.thread l
    let w := brings t
    c.arrive (c.thread x.lane).pc opc e shadow
      { lane := l, contrib, mask := w.mask, a := w.a, atag := w.atag, b := w.b, pa := w.pa }
  let pair := (s.hdrOf x.core x.slot).pair
  s.modCrew x.core x.slot fun c => let c := one c x.lane false; if pair then one c (x.lane + 1) true else c

/-- The lane has arrived in the open instance at its address. -/
def State.visited (s : State) (x : Lane) : Bool :=
  match s.crew x.core x.slot with
  | some c => c.hasArrived (s.laneThread x).pc x.lane
  | none => false

/-- A cross-lane instruction or JOIN: the checks of R156, arrival, and the wait. A lane with a false guard arrives too. -/
def rendezvousForm (opc : Nat) (o : Enc) (srcs : List Opnd) (dst : Option (Nat × Bool)) (preds : List Nat)
    (brings : Thread → Brings) : LaneForm :=
  { srcs, dst, preds,
    -- with a false guard a lane arrives as a non-contributor and passes on; one that comes to an open instance again waits for
    -- its end, but at a JOIN on nothing (R157, 16 R331)
    pass := fun s x =>
      if !s.visited x then (s.arrive x opc o false fun _ => { mask := 0 }, .next)
      else (s, if opc = 0x74 then .next else .hold .waitXl)
    body := fun s x =>
      let t := s.laneThread x
      let w := brings t
      let wait := if opc = 0x74 then LaneState.waitJoin else .waitXl
      let again := s.visited x
      if !w.mask.getLsbD (visible (s.hdrOf x.core x.slot).pair x.lane) then (s, .trap { cause := cMaskSelf, info := w.mask.toNat })
      else if again then (s, .hold wait)
      else (s.arrive x opc o true brings, .hold wait) }

/-- A mask operand's bits, and a predicate destination that names one. -/
def maskOfOpnd (m : Opnd) (t : Thread) : Word := (m.value t).setWidth 32
def predDst (p : Nat) : List Nat := if p = 0 then [] else [p]

def voteForm (o : Enc) : LaneForm :=
  let m := o.litB false maskTags
  let ballot := o.modBits 1 0 = 0
  rendezvousForm 0x60 o [m] (if ballot then some (o.d.toNat, false) else none)
    (o.predA :: (if ballot then [] else predDst o.pd)) fun t => { mask := maskOfOpnd m t, pa := t.pred o.predA }

def execVote (o : Enc) (s : State) : Answer := .next (s.laneInstr o (voteForm o))

/-- SHFL (R164): a base form names all lanes. -/
def shflForm (o : Enc) : LaneForm :=
  let f := o.fmt .raw
  let a := o.regA f.wide (moveWant f false)
  let b := o.litB false countTags
  let m := o.regC false maskTags
  let every := !o.isExt || o.modBit 2
  rendezvousForm 0x61 o (if every then [a, b] else [a, b, m]) (some (o.d.toNat, f.wide)) (predDst o.pd) fun t =>
    { mask := if every then 0xFFFFFFFF else maskOfOpnd m t, a := a.value t, atag := a.tag t, b := maskOfOpnd b t }

def execShfl (o : Enc) (s : State) : Answer := .next (s.laneInstr o (shflForm o))

/-- REDL, SCANL and MATCH: A in the format, B the mask. -/
def reduceForm (opc : Nat) (o : Enc) (dflt : Tag) (dst : Nat × Bool) (preds : List Nat) : LaneForm :=
  let f := o.fmt dflt
  let a := o.regA f.wide (.only f)
  let m := o.litB false maskTags
  rendezvousForm opc o [a, m] (some dst) preds fun t => { mask := maskOfOpnd m t, a := a.value t, atag := a.tag t }

def execRedl (o : Enc) (s : State) : Answer :=
  .next (s.laneInstr o (reduceForm 0x62 o .i32 (o.d.toNat, (o.fmt .i32).wide) []))
def execScanl (o : Enc) (s : State) : Answer :=
  .next (s.laneInstr o (reduceForm 0x63 o .i32 (o.d.toNat, (o.fmt .i32).wide) []))

def electForm (o : Enc) : LaneForm :=
  let m := o.litB false maskTags
  rendezvousForm 0x64 o [m] none (predDst o.predD) fun t => { mask := maskOfOpnd m t }

def execElect (o : Enc) (s : State) : Answer := .next (s.laneInstr o (electForm o))
def execMatchL (o : Enc) (s : State) : Answer :=
  .next (s.laneInstr o (reduceForm 0x65 o .n32 (o.d.toNat, false) (predDst o.pd)))

end Sys2Proof.Machine
end

