-- ==== Sys2Proof/Machine/Control.lean ====
section
/-! DEFINITION. Control and handle instructions (16 R327 to R341). -/

namespace Sys2Proof.Machine

/-- The byte offset of BRA and CALL (R327). -/
def branchOffset (o : Enc) : DWord :=
  match o.form with
  | .base => o.off18.signExtend 64 <<< 2
  | .ext => o.w2.signExtend 64
  | .lit | .extLit => o.literal

def braForm (o : Enc) : LaneForm :=
  { body := fun s x => (s, .jump ((s.laneThread x).pc + branchOffset o)) }

def execBra (o : Enc) (s : State) : Answer := .next (s.laneInstr o (braForm o))

/-- The link pair: d31, or D in an extended form (R327). -/
def linkReg (o : Enc) : Nat := if o.isExt then o.d.toNat else 62

def callForm (o : Enc) : LaneForm :=
  { dst := some (linkReg o, true),
    body := fun s x =>
      let pc := (s.laneThread x).pc
      (s.put x (linkReg o) true (pc + BitVec.ofNat 64 o.bytes) .addr, .jump (pc + branchOffset o)) }

def execCall (o : Enc) (s : State) : Answer := .next (s.laneInstr o (callForm o))

/-- BRX and RET (R330). -/
def indirectForm (o : Enc) : LaneForm :=
  let a := o.regA true (.only .addr)
  { srcs := [a],
    body := fun s x =>
      let v := a.value (s.laneThread x)
      if v.toNat % 4 ≠ 0 then (s, .trap (align 4 v.toNat)) else (s, .jump v) }

def execBrx (o : Enc) (s : State) : Answer := .next (s.laneInstr o (indirectForm o))
def execRet (o : Enc) (s : State) : Answer := .next (s.laneInstr o (indirectForm o))

/-- JOIN (R331): a cross-lane instance that moves no value. -/
def joinForm (o : Enc) : LaneForm :=
  let m := o.litB false maskTags
  rendezvousForm 0x74 o [m] none [] fun t => { mask := maskOfOpnd m t }

def execJoin (o : Enc) (s : State) : Answer :=
  .next ((s.laneInstr o (joinForm o)).switchIf fun st => st == .waitJoin)

/-- Every handle class (15 R291). -/
def allClasses : List Nat := [1, 2, 3, 4, 5, 6]

/-- EXIT (R332): a failure not yet delivered is taken instead. -/
def exitForm : LaneForm :=
  { body := fun s x =>
      match s.failureOf x allClasses with
      | some k => s.deliverTo x k
      | none => (s.dropProducers x, .exit) }

def execExit (o : Enc) (s : State) : Answer := .next (s.laneInstr o exitForm)

/-- YIELD (R333): the lanes stand back for the crew's next 4 issue slots; in deterministic mode a switch point. -/
def yieldForm : LaneForm :=
  { body := fun s x => (if (s.hdrOf x.core x.slot).det then s else s.both x fun t => { t with yielded := 4 }, .next) }

/-- Some lane of the bundle at hand executes an instruction without operands: its guard is there and true. -/
def State.executed (s : State) (o : Enc) (f : LaneForm) : Bool :=
  match s.cur with
  | none => false
  | some cur => cur.lanes.any fun l => o.guardHolds f.short (s.thread cur.core cur.slot l)

def execYield (o : Enc) (s : State) : Answer :=
  let t := s.laneInstr o yieldForm
  .next (match s.cur with
    | none => t
    | some cur => if s.executed o yieldForm then t.detSwitch cur.core cur.slot else t)

/-- The code of TRAP and BKPT (R327, 20 R397). -/
def trapCode (o : Enc) : Nat := if o.isExt then o.w2.toNat else o.off18.toNat

def trapForm (o : Enc) : LaneForm := { body := fun s _ => (s, .trap { cause := cUserTrap, info := trapCode o, next := true }) }

def execTrap (o : Enc) (s : State) : Answer := .next (s.laneInstr o (trapForm o))

def execNop (o : Enc) (s : State) : Answer := .next (s.regInstr o { body := fun _ t => .inl t })

/-- REGION (R335): the MODE.REGION code of D. -/
def regionForm (m : BitVec 2) : RegForm := { body := fun _ t => .inl { t with region := m } }

def execRegionExact (o : Enc) (s : State) : Answer := .next (s.regInstr o (regionForm 0))
def execRegionChecked (o : Enc) (s : State) : Answer := .next (s.regInstr o (regionForm 1))

/-- REGION.tolerant traps in deterministic mode (R335, 02 R51). -/
def tolerantForm (det : Bool) : RegForm :=
  { body := fun _ t => if det then .inr { cause := cTolerant } else .inl { t with region := 2 } }

/-- The launch of the bundle at hand is deterministic. -/
def State.curDet (s : State) : Bool :=
  match s.cur with
  | none => false
  | some cur => (s.hdrOf cur.core cur.slot).det

def execRegionTolerant (o : Enc) (s : State) : Answer := .next (s.regInstr o (tolerantForm s.curDet))

/-- IDEM (R336): REGIONPC becomes the next instruction, or 0. -/
def idemForm (o : Enc) (opens : Bool) : RegForm :=
  { body := fun _ t => .inl (t.setRegion (if opens then t.pc + BitVec.ofNat 64 o.bytes else 0)) }

def execIdem (o : Enc) (s : State) : Answer := .next (s.regInstr o (idemForm o true))
def execIdemEnd (o : Enc) (s : State) : Answer := .next (s.regInstr o (idemForm o false))

/-! Handles (R337 to R341). -/

/-- A HANDLE operand, and the slot it names for a lane. -/
def handleOpnd (o : Enc) : Opnd := o.regA false (.among [.handle])
def State.slotOf (s : State) (x : Lane) (v : DWord) : Option Nat :=
  (s.core x.core).named (((s.teamOf x.core x.slot).map Team.id).getD 0) (v.toNat % 2 ^ 32)
def badHandle (v : DWord) : LaneOut := .trap { cause := cHandleInvalid, info := v.toNat % 2 ^ 32 }

/-- The lane issued the operation and its failure is not yet delivered (R294). -/
def State.owes (s : State) (x : Lane) (k : Nat) : Bool :=
  let h := s.handle x.core k
  h.slot == x.slot && h.lane == x.lane && h.fail.isSome

/-- A WAITH whose operation has ended (R338). -/
def State.waithReturns (s : State) (x : Lane) (k d : Nat) (strict : Bool) : State × LaneOut :=
  let h := s.handle x.core k
  if s.owes x k then (s.put x d false 0 .raw).deliverTo x k
  else
    let s := (s.acquire x.core).put x d false (h.word.setWidth 64) .n32
    let s := if h.st = .ended ∧ h.fail.isNone then s.freeSlot x.core k else s
    (s, if strict && bits h.word.toNat 31 29 == outcomeAbandoned then
      .trap { cause := cHandleCancelled, info := handleWord h.cls k h.gen, next := true } else .next)

def waithForm (o : Enc) : LaneForm :=
  { srcs := [handleOpnd o], dst := some (o.d.toNat, false),
    body := fun s x =>
      let v := (handleOpnd o).value (s.laneThread x)
      match s.slotOf x v with
      | none => (s, badHandle v)
      | some k =>
        if (s.handle x.core k).st = .pending then
          let next := (s.laneThread x).pc + BitVec.ofNat 64 o.bytes
          (s.producer x (some o.d.toNat) false (.waith (v.setWidth 32) (o.modBit 0) next), .hold .waitHandle)
        else s.waithReturns x k o.d.toNat (o.modBit 0) }

def execWaith (o : Enc) (s : State) : Answer :=
  .next ((s.laneInstr o (waithForm o)).switchIf fun st => st == .waitHandle)

def testhForm (o : Enc) : LaneForm :=
  { srcs := [handleOpnd o], preds := [o.predD],
    body := fun s x =>
      let v := (handleOpnd o).value (s.laneThread x)
      match s.slotOf x v with
      | none => (s, badHandle v)
      | some k =>
        if s.owes x k then s.deliverTo x k
        else (s.putPred x o.predD ((s.handle x.core k).st != .pending), .next) }

def execTesth (o : Enc) (s : State) : Answer := .next (s.laneInstr o (testhForm o))

def canchForm (o : Enc) : LaneForm :=
  { srcs := [handleOpnd o],
    body := fun s x =>
      let v := (handleOpnd o).value (s.laneThread x)
      match s.slotOf x v with
      | none => (s, badHandle v)
      | some k =>
        let h := s.handle x.core k
        match h.st with
        | .pending => ((s.cancel x.core k).wakeAll, .next)
        | .ended => (if h.fail.isNone then (s.freeSlot x.core k).wakeAll else s, .next)
        | .free => (s, .next) }

def execCanch (o : Enc) (s : State) : Answer := .next (s.laneInstr o (canchForm o))

def htagForm (o : Enc) : LaneForm :=
  let a := o.regA false (.only .n32)
  { srcs := [a], dst := some (o.d.toNat, false),
    body := fun s x =>
      let v := a.value (s.laneThread x)
      match s.slotOf x v with
      | none => (s, badHandle v)
      | some _ => (s.put x o.d.toNat false v .handle, .next) }

def execHtag (o : Enc) (s : State) : Answer := .next (s.laneInstr o (htagForm o))

end Sys2Proof.Machine
end

