-- ==== Sys2Proof/Machine/System.lean ====
section
/-! DEFINITION. Special registers (05 R95 to R99), CLK (18 R369) and the return from a trap (19 R381). -/

namespace Sys2Proof.Machine

open Encoding

/-- Cores a launch without DET may use (R95): the partition's, without its urgent pool. -/
def Partition.coreCount (p : Partition) : Nat := popcount (p.cores &&& ~~~p.urgent).toNat 160

/-- MODE (R97). -/
def modeWord (t : Thread) (h : Header) : Nat :=
  h.thr.toNat * 2 ^ 7 + h.pair.toNat * 2 ^ 6 + h.det.toNat * 2 ^ 5 + t.priv.toNat * 2 ^ 4 + t.region.toNat

/-- The registers that name a lane's place in its launch. -/
def State.placeReg (s : State) (x : Lane) (srn : Nat) : Option Nat :=
  match s.teamOf x.core x.slot with
  | none => none
  | some t => match s.launch t.part t.launch with
    | none => none
    | some ln =>
      let f0 := s.f0 x
      if srn = 0x001 then (s.crew x.core x.slot).map Crew.idx
      else if srn = 0x003 then some (ln.hdr.wid f0 t.l % 2 ^ 32)
      else if srn = 0x004 then some (ln.hdr.wid f0 t.l / 2 ^ 32)
      else if srn ≤ 0x00D then some (((f0 :: ln.hdr.fields t.l)[srn - 8]?).getD 0)
      else if srn = 0x00E then some ln.patch
      else some ((ln.hdr.splits[srn - 0x50]?).getD 0)

/-- sreg_value (R95, R98), read by a thread in S mode or not; the placement registers in the debug crew are log entry 18's. -/
def State.srRead (s : State) (x : Lane) (reader : Bool) (srn : Nat) : DWord :=
  let t := s.laneThread x
  let h := s.hdrOf x.core x.slot
  let c := s.core x.core
  let p := s.partOf x.core
  let n (v : Nat) : DWord := BitVec.ofNat 64 v
  if srn = 0x000 then n (visible h.pair x.lane)
  else if srn = 0x002 then n (nlane h.pair)
  else if srn ≤ 0x00E ∨ (0x50 ≤ srn ∧ srn ≤ 0x5F) then
    match s.placeReg x srn with
    | some v => n v
    | none => Config.noLaunch x.core srn
  else if srn = 0x010 then
    n (match s.teamOf x.core x.slot with
      | some t => ((s.launch t.part t.launch).map Launch.coreCnt).getD 0
      | none => (s.part p).coreCount)
  else if srn = 0x011 then n (s.spcap x.core)
  else if srn = 0x012 then n p
  else if srn = 0x018 then n s.cycle
  else if srn = 0x020 then n (modeWord t h)
  else if srn = 0x021 then t.rnd.setWidth 64
  else if srn = 0x022 then t.regionPc
  else if srn = 0x030 then t.tcause.setWidth 64
  else if srn = 0x031 then t.tpc
  else if srn = 0x032 then t.taddr
  else if srn = 0x033 then t.tinfo.setWidth 64
  else if srn = 0x034 then t.tvec
  else if srn = 0x040 then c.crTarget.setWidth 64
  else if srn = 0x041 then c.crCount.setWidth 64
  else if srn = 0x042 then (if reader then c.finj.setWidth 64 else 0)
  else
    let k := srn - 0x100
    match s.crew x.core x.slot with
    | some cr => n (bits (cr.tile (k / 4)).toNat (32 * (k % 4) + 31) (32 * (k % 4)))
    | none => 0

/-- RSVD fields of a special register, as a mask (R93, R96, R376, R95, R244). -/
def srRsvd (srn : Nat) : Nat :=
  if srn = 0x021 then 0xFFFFE0F8
  else if srn = 0x030 then 0xFFFFF3C0
  else if srn = 0x034 then 0xFE00000000000FFF
  else if srn = 0x040 then 0xFFF00000
  else if srn = 0x042 then 0x000FC000
  else if 0x100 ≤ srn ∧ srn % 4 = 3 then 0xC0000000
  else 0

/-- Fields with reserved values: their lowest bit, where the value is reserved. -/
def srReserved (srn v : Nat) : Option Nat :=
  if srn = 0x021 then (if v % 8 = 5 ∨ v % 8 = 7 then some 0 else none)
  else if srn = 0x030 then (if bits v 11 10 = 3 then some 10 else none)
  else if srn = 0x042 then (if 96 ≤ bits v 26 20 then some 20 else if bits v 30 29 = 3 then some 29 else none)
  else if 0x100 ≤ srn ∧ srn % 4 = 1 then (if bits v 26 25 = 3 then some 25 else none)
  else if 0x100 ≤ srn ∧ srn % 4 = 2 then
    (if (Tag.ofCode (bits v 19 15)).isNone then some 15 else if 5 ≤ bits v 22 20 then some 20 else none)
  else none

/-- check_rsvd (R98): the lowest offending bit. -/
def srBad (srn v : Nat) : Option Nat :=
  let r := (List.range 64).find? fun i => (v &&& srRsvd srn).testBit i
  match r, srReserved srn v with
  | some a, some b => some (min a b)
  | some a, none => some a
  | none, b => b

/-- sreg_write (R98, R99): a register of the thread, its crew or its core; `upd` changes the thread. -/
def State.srWrite (s : State) (x : Lane) (upd : (Thread → Thread) → State) (srn : Nat) (v : DWord) : State :=
  let w : Word := v.setWidth 32
  if srn = 0x021 then upd fun t => { t with rnd := w }
  else if srn = 0x030 then upd fun t => { t with tcause := w }
  else if srn = 0x031 then upd fun t => { t with tpc := v }
  else if srn = 0x032 then upd fun t => { t with taddr := v }
  else if srn = 0x033 then upd fun t => { t with tinfo := w }
  else if srn = 0x034 then upd fun t => { t with tvec := v }
  else if srn = 0x040 then s.modCore x.core fun c => { c with crTarget := w }
  else if srn = 0x042 then s.modCore x.core fun c => { c with finj := w }
  else if 0x100 ≤ srn then
    let k := srn - 0x100
    s.modCrew x.core x.slot fun c =>
      c.setTile (k / 4) (BitVec.ofNat 128 (setBits (c.tile (k / 4)).toNat (32 * (k % 4) + 31) (32 * (k % 4)) w.toNat))
  else s

def srTag (srn : Nat) : Tag := ((srInfo srn).map SrInfo.tag).getD .raw

def sreadForm (o : Enc) : LaneForm :=
  let srn := srnRead o
  { dst := some (o.d.toNat, srWide srn),
    body := fun s x => (s.put x o.d.toNat (srWide srn) (s.srRead x (s.laneThread x).priv srn) (srTag srn), .next) }

def execSread (o : Enc) (s : State) : Answer := .next (s.laneInstr o (sreadForm o))

/-- SWRITE: PRIV is S-only for the registers so marked (R86). -/
def swriteForm (o : Enc) (one : Option Nat) : LaneForm :=
  let srn := srnWrite o
  let a := o.litA (srWide srn) (.only (srTag srn))
  { sOnly := if (srInfo srn).any (fun i => i.access == .rwS) then some 0xE1 else none,
    body := fun s x =>
      if o.modBit 0 && one != some x.lane then (s, .next)
      else
        let t := s.laneThread x
        match operandFate t [a] none [] with
        | .wait ns => (s, .hold (.waitReg ns))
        | .trap r => (s, .trap r)
        | .ready => match srBad srn (a.value t).toNat with
          | some b => (s, .trap { cause := cIllegalEncoding, info := 0x11 + b * 256, addr := t.pc })
          | none => (s.srWrite x (s.both x) srn (a.value t), .next) }

def execSwrite (o : Enc) (s : State) : Answer := .next (s.laneInstr o (swriteForm o (s.lowestTrue true o)))

/-- CLK (18 R369): every earlier destination of the lane first. -/
def clkForm (o : Enc) : LaneForm :=
  { body := fun s x =>
      let t := s.laneThread x
      let empty := (List.range 64).filter fun r => !(t.reg r).full
      if empty.isEmpty && t.predWait.isEmpty then (s.put x o.d.toNat true (BitVec.ofNat 64 s.cycle) .n64, .next)
      else (s, .hold (.waitReg (empty ++ t.predWait.map (64 + ·)))) }

def execClk (o : Enc) (s : State) : Answer := .next (s.laneInstr o (clkForm o))

/-- RETT (R381). -/
def rettForm : LaneForm :=
  { sOnly := some 0xE2,
    body := fun s x =>
      let t := s.laneThread x
      if (s.hdrOf x.core x.slot).det && bits t.tcause.toNat 11 10 == 2 then (s, .trap { cause := cTolerant })
      else if t.tpc.toNat % 4 ≠ 0 then (s, .trap { cause := cAlign, info := 4, addr := t.tpc })
      else (s.both x Thread.return_, .jump t.tpc) }

def execRett (o : Enc) (s : State) : Answer := .next (s.laneInstr o rettForm)

/-- RETT.kill (R377, R381). -/
def rettKillForm : LaneForm := { sOnly := some 0xE2, body := fun s _ => (s, .kill) }

def execRettKill (o : Enc) (s : State) : Answer := .next (s.laneInstr o rettKillForm)

end Sys2Proof.Machine
end

