-- ==== Sys2Proof/Machine/Graph.lean ====
section
/-! DEFINITION. Tasks and launches (02 R33 to R43, 14 R277 to R281): decrements, SPAWN and DEPC, the work queues, placement,
retirement and completion. -/

namespace Sys2Proof.Machine

/-! The task table (R277, R278). -/

def Partition.task (p : Partition) (idx : Nat) : Option Task := p.tasks.find? fun t => t.idx == idx
def State.modTask (s : State) (p idx : Nat) (f : Task → Task) : State :=
  s.modPart p fun x => { x with tasks := x.tasks.map fun t => if t.idx = idx then f t else t }
def Partition.graph (p : Partition) (slot : Nat) : Option GraphSlot := p.graphs.find? fun g => g.slot == slot

/-- Cores of a pool: the urgent one, or the rest of the partition (R34, R38). -/
def Partition.pool (p : Partition) (urgent : Bool) : List Nat :=
  (List.range 160).filter fun b => p.cores.getLsbD b && p.urgent.getLsbD b == urgent

/-- Kept tiles filtered, those of evacuated cores among them. -/
def State.filterKept (s : State) (f : Kept → Bool) : State :=
  { s with cores := s.cores.map (fun c => { c with kept := c.kept.filter f }),
           parts := s.parts.map fun x => { x with image := x.image.map fun i => { i with ctx := { i.ctx with kept := i.ctx.kept.filter f } } } }

/-- A task becomes RUNNING: its launch is made, and bindings that do not match it are freed (R33, R41, R45, 03 R69). -/
def State.startLaunch (s : State) (p idx : Nat) : State :=
  match (s.part p).task idx with
  | none => s
  | some t =>
    let (id, s) := s.newId
    let x := s.part p
    let h := t.hdr
    let code := ((x.graph t.gslot).map GraphSlot.code).getD 0
    let ln : Launch :=
      { id, part := p, task := idx, hdr := h, total := h.teams, entryVa := code + h.entry, patch := t.patch, stackBase := 0,
        stackSize := 0, coreCnt := if h.det then h.canon else if h.urg then (x.pool true).length else (x.pool false).length,
        code := s.codeView, codeKeys := s.unitKeys, codeOld := s.codeOld, started := false, unplaceable := false, retired := 0, killed := [], claimed := [], next := 0 }
    let s := s.filterKept fun k => !(k.part == p && k.task == idx && (decide (h.teams ≤ k.l) || k.tas64 != h.tas64 || k.units.length != h.tasN))
    (s.modTask p idx fun t => { t with st := .running, count := 0 }).modPart p fun x => { x with launches := x.launches ++ [ln] }

/-- A decrement of a task (R278): 0 still WAITING, 1 RUNNING, 2 discarded (R368). -/
def State.decrement (s : State) (p idx : Nat) : State × Nat :=
  let discard : State := s.modPart p fun x => { x with run := x.run.map fun r => { r with discards := r.discards + 1 } }
  match (s.part p).task idx with
  | none => (discard, 2)
  | some t =>
    if t.st ≠ .waiting then (discard, 2)
    else if 1 < t.count then (s.modTask p idx fun t => { t with count := t.count - 1 }, 0)
    else (s.startLaunch p idx, 1)

/-- The graph a team's task belongs to. -/
def State.graphOf (s : State) (t : Team) : Option GraphSlot :=
  match s.launch t.part t.launch with
  | none => none
  | some ln => ((s.part t.part).task ln.task).bind fun k => (s.part t.part).graph k.gslot

/-- The task at a node of the issuing lane's graph. -/
def State.nodeTask (s : State) (x : Lane) (node : Nat) : Option (Nat × Nat) :=
  match s.teamOf x.core x.slot with
  | none => none
  | some t => (s.graphOf t).bind fun g => if node < g.count then some (t.part, g.first + node) else none

/-- SPAWN's event (R278, 15 R315): its status. -/
def State.spawn (s : State) (x : Lane) (node c : Nat) : State × Nat :=
  match s.nodeTask x node with
  | none => (s, 3)
  | some (p, idx) =>
    if 65535 < c then (s, 4)
    else match (s.part p).task idx with
      | none => (s, 3)
      | some t =>
        if t.st = .waiting ∨ t.st = .running then (s, 2)
        else if c = 0 then (s.startLaunch p idx, 1)
        else (s.modTask p idx fun t => { t with st := .waiting, count := c }, 0)

/-- DEPC (18 R368): a release. -/
def depcForm (o : Enc) : LaneForm :=
  let a := o.litA false (.oneOf [.n32, .i32])
  { srcs := [a], dst := some (o.d.toNat, false),
    body := fun s x =>
      let t := s.laneThread x
      if !s.quiet x then (s, .hold .waitUnit)
      else
        let (s, st) := match s.nodeTask x (a.value t).toNat with
          | none => (s, 3)
          | some (p, idx) => s.decrement p idx
        let s := s.producer x (some o.d.toNat) false (.value (BitVec.ofNat 64 st) .n32)
        (s.releaseAfter x (t.pc + BitVec.ofNat 64 o.bytes), .next) }

def execDepc (o : Enc) (s : State) : Answer := .next (s.laneInstr o (depcForm o))

/-! Work queues (R33, R36, R280) and stack windows (09 R173). -/

/-- Stack windows in use in a partition, as start and size. -/
def Partition.windows (p : Partition) : List (Nat × Nat) :=
  p.launches.filterMap fun l => if l.started && l.stackSize != 0 then some (l.stackBase, l.stackSize) else none

def overlapsAny (l : List (Nat × Nat)) (a n : Nat) : Bool := l.any fun w => decide (a < w.1 + w.2) && decide (w.1 < a + n)

/-- The lowest address at a multiple of `al` in a region that begins a free run of `n` bytes. -/
def lowestFree (base size al n : Nat) (used : List (Nat × Nat)) : Option Nat :=
  let up (a : Nat) : Nat := ceilDiv a al * al
  let cands := up base :: used.map fun w => up (w.1 + w.2)
  let ok := cands.filter fun a => decide (base ≤ a) && decide (a + n ≤ base + size) && !overlapsAny used a n
  ok.foldl (fun (m : Option Nat) a => match m with
    | none => some a
    | some b => some (min a b)) none

/-! Room (R34). -/

/-- Crew slots, banks and TAS units (or pairs) of a core. -/
structure Room where
  slots : Nat
  banks : Nat
  units : List Nat
  deriving DecidableEq, Repr

def Header.banks (h : Header) : Nat := h.bkSp + h.bkCache + h.bkFifo

/-- Crew slots a team may take: not slot 63 while the debug crew owns it (20 R394). -/
def State.freeSlots (s : State) (b : Nat) : List Nat :=
  let n := if (s.part (s.partOf b)).dbgen then 63 else 64
  (List.range n).filter fun sl => (s.crew b sl).isNone
def Core.freeBanks (c : Core) : List Nat := (List.range 48).filter fun k => !(c.teams.any fun t => t.banks.contains k)
/-- TAS units in use by teams and kept tiles. -/
def State.usedUnits (s : State) (b : Nat) : List Nat :=
  ((s.core b).teams.flatMap fun t =>
    let d := match s.launch t.part t.launch with
      | some l => l.hdr.tas64
      | none => false
    t.units.flatMap fun u => if d then [u, u + 1] else [u]) ++
  (s.core b).kept.flatMap fun k => k.units.flatMap fun u => if k.tas64 then [u, u + 1] else [u]

/-- The first units of `n` tiles: the lowest free ones, or pairs (09 R188). -/
def pickUnits (used : List Nat) (tas64 : Bool) (n : Nat) : Option (List Nat) :=
  let free := if tas64 then ((List.range 12).map (2 * ·)).filter fun u => !used.contains u && !used.contains (u + 1)
    else (List.range 24).filter fun u => !used.contains u
  if n ≤ free.length then some (free.take n) else none

/-- Crews of THR launches on a core never pass eight (R45, 16 R323; log entry 40). -/
def Header.thrCap (h : Header) (others crews : Nat) : Bool := !h.thr || decide (others + crews ≤ 8)
/-- Crews of THR launches that a core holds. -/
def State.thrCrews (s : State) (b : Nat) : Nat := (s.thrRank b).length

/-- Teams of co-resident launches reserved on a core and not yet placed there, other than a launch's own. -/
def State.reserved (s : State) (b except : Nat) : List Header :=
  (s.part (s.partOf b)).launches.flatMap fun l => if l.id = except then [] else (l.claimed.filter fun c => c.2 == b).map fun _ => l.hdr

/-- The tiles kept on a core for a team (R41). -/
def State.bound (s : State) (b p task l : Nat) : Option Kept := (s.core b).kept.find? fun k => k.part == p && k.task == task && k.l == l

/-- Banks for a mode: free ones already in it, then others (09 R175). -/
def State.takeBanks (s : State) (b : Nat) (m : BankMode) (n : Nat) (avoid : List Nat) : List Nat :=
  let free := (s.core b).freeBanks.filter fun k => !avoid.contains k
  ((free.filter fun k => (s.bank b k).mode == m) ++ (free.filter fun k => (s.bank b k).mode != m)).take n

/-- The banks that a team of a launch takes on a core, in the order of their logical indices, each with its mode. -/
def State.banksFor (s : State) (b : Nat) (h : Header) : List (Nat × BankMode) :=
  let sp := s.takeBanks b .spad h.bkSp []
  let ca := s.takeBanks b .cache h.bkCache sp
  let fi := s.takeBanks b .fifo h.bkFifo (sp ++ ca)
  sp.map (·, .spad) ++ ca.map (·, .cache) ++ fi.map (·, .fifo)

/-- The core has room for a team now (R34), beside what is reserved there, and the banks that change mode for it are ready to (09 R176). -/
def State.hasRoom (s : State) (ln : Launch) (l b : Nat) : Bool :=
  let others := s.reserved b ln.id
  let sum (f : Header → Nat) : Nat := (others.map f).foldl (· + ·) 0
  let h := ln.hdr
  let tiles := match s.bound b ln.part ln.task l with
    | some _ => some []
    | none => pickUnits (s.usedUnits b) h.tas64 h.tasN
  let unitsFree := 24 - (s.usedUnits b).length
  let need := if (s.bound b ln.part ln.task l).isSome then 0 else h.tasN * (if h.tas64 then 2 else 1)
  !(s.core b).quarantined && decide (h.teamCrews + sum Header.teamCrews ≤ (s.freeSlots b).length) &&
  h.thrCap (s.thrCrews b + sum fun g => if g.thr then g.teamCrews else 0) h.teamCrews &&
  decide (h.banks + sum Header.banks ≤ (s.core b).freeBanks.length) && tiles.isSome &&
  (s.banksFor b h).all (fun k => (s.bank b k.1).mode == k.2 || s.bankReady b k.1) &&
  decide (need + sum (fun g => g.tasN * (if g.tas64 then 2 else 1)) ≤ unitsFree)

/-- A single team fits a core with nothing else on it. -/
def State.fitsCore (s : State) (h : Header) (n : Nat) (b : Nat) : Bool :=
  let cap := if (s.part (s.partOf b)).dbgen then 63 else 64
  decide (n * h.teamCrews ≤ cap) && h.thrCap 0 (n * h.teamCrews) && decide (n * h.banks ≤ 48) && decide (n * h.tasN ≤ (if h.tas64 then 12 else 24))

/-- The core that holds a binding for a team. -/
def State.boundCore (s : State) (ln : Launch) (l : Nat) : Option Nat :=
  (List.range 160).find? fun b => (s.bound b ln.part ln.task l).isSome

/-- The cores of a gang on a die, from a test of room: bound members on their cores, the others on the first cores in
ascending order; none where some member finds none. A member bound to a core outside the launch's pool finds none (log entry 93). -/
def State.gangCores (s : State) (ln : Launch) (g die : Nat) (room : Nat → Nat → Bool) : Option (List (Nat × Nat)) :=
  let pool := ((s.part ln.part).pool ln.hdr.urg).filter fun b => b / 40 == die
  let e1 := ln.hdr.ext 1
  let members := (List.range e1).map fun m => g * e1 + m
  let fixed := members.filterMap fun l => (s.boundCore ln l).map fun b => (l, b)
  if fixed.any fun f => !pool.contains f.2 || !room f.1 f.2 then none
  else
    let taken := fixed.map (·.2)
    let r := members.foldl (fun (acc : Option (List (Nat × Nat))) l =>
      match acc with
      | none => none
      | some got =>
        if fixed.any fun f => f.1 == l then some got
        else match pool.find? fun b => !taken.contains b && !(got.any fun c => c.2 == b) && room l b with
          | some b => some (got ++ [(l, b)])
          | none => none) (some fixed)
    r

/-- A static assignment of every gang of a co-resident launch by whole capacity, dies in the order of R454 (R37). -/
def State.assignAll (s : State) (ln : Launch) : Option (List (Nat × Nat)) :=
  (List.range (ln.total / ln.hdr.ext 1)).foldl (fun (acc : Option (List (Nat × Nat))) g =>
    match acc with
    | none => none
    | some got =>
      let room (_ b : Nat) : Bool := s.fitsCore ln.hdr ((got.filter fun c => c.2 == b).length + 1) b && !(s.core b).quarantined
      ((List.range 4).findSome? fun die => s.gangCores ln g die room).map fun x => got ++ x) (some [])

/-- Every claimed place is free at once. -/
def State.claimFree (s : State) (ln : Launch) (got : List (Nat × Nat)) : Bool :=
  ((got.map (·.2)).eraseDups).all fun b =>
    let n := (got.filter fun c => c.2 == b).length
    let h := ln.hdr
    decide (n * h.teamCrews ≤ (s.freeSlots b).length) && h.thrCap (s.thrCrews b) (n * h.teamCrews) && decide (n * h.banks ≤ (s.core b).freeBanks.length) &&
    (let kept := (got.filter fun c => c.2 == b && (s.bound b ln.part ln.task c.1).isSome).length
     (pickUnits (s.usedUnits b) h.tas64 ((n - kept) * h.tasN)).isSome)

/-- R35 and the other reasons to start no team of a launch. -/
def State.unplaceable (s : State) (ln : Launch) : Bool :=
  let p := s.part ln.part
  let h := ln.hdr
  let pool := (p.pool h.urg).filter fun b => !(s.core b).quarantined
  let e1 := h.ext 1
  !(pool.any fun b => s.fitsCore h 1 b) ||
  !((List.range 4).any fun die => decide (e1 ≤ (pool.filter fun b => b / 40 == die).length)) ||
  decide (p.stackSize < ln.total * h.ext 0 * h.stack) ||
  (h.cor && (s.assignAll ln).isNone) ||
  (List.range (ln.total / e1)).any fun g =>
    let bs := (List.range e1).filterMap fun m => s.boundCore ln (g * e1 + m)
    bs.any (fun b => bs.any fun c => b / 40 != c / 40) || bs.eraseDups.length != bs.length

def Partition.queueOf (p : Partition) (urgent : Bool) : List Chunk := if urgent then p.urgentq else p.workq
def State.setQueueOf (s : State) (p : Nat) (urgent : Bool) (q : List Chunk) : State :=
  s.modPart p fun x => if urgent then { x with urgentq := q } else { x with workq := q }

/-- C teams per chunk (R33). -/
def Header.chunkSize (h : Header) : Nat :=
  let c := if h.chunk = 0 then 16 else h.chunk
  ceilDiv c (h.ext 1) * h.ext 1

/-- CHUNK_APPEND (R280, R35, R37, 09 R173): the oldest launch of a queue that has not appended its last chunk: it is found
unplaceable, gets its stack window and its reservation, or appends a chunk where the queue has room. -/
def execChunkAppend (p : Nat) (urgent : Bool) (s : State) : Answer :=
  .next (match (s.part p).launches.find? fun l => l.hdr.urg == urgent && !l.unplaceable && decide (l.next < l.total) with
    | none => s
    | some ln =>
      let q := (s.part p).queueOf urgent
      if !ln.started then
        if s.unplaceable ln then s.modLaunch p ln.id fun l => { l with unplaceable := true, started := true }
        else
          let size := ln.total * ln.hdr.ext 0 * ln.hdr.stack
          let x := s.part p
          match (if size = 0 then some 0 else lowestFree x.stackBase x.stackSize 4096 size x.windows) with
          | none => s
          | some base =>
            if ln.hdr.cor then
              match s.assignAll ln with
              | some got =>
                if q.isEmpty && s.claimFree ln got then
                  s.modLaunch p ln.id fun l => { l with started := true, stackBase := base, stackSize := size, claimed := got }
                else s
              | none => s
            else s.modLaunch p ln.id fun l => { l with started := true, stackBase := base, stackSize := size }
      else if 512 ≤ q.length then s
      else
        let last := min (ln.next + ln.hdr.chunkSize) ln.total - 1
        (s.setQueueOf p urgent (q ++ [{ launch := ln.id, l := ln.next, last }])).modLaunch p ln.id fun l => { l with next := last + 1 })

/-! Placement (R34, R31, 05 R100, 09 R175, R188, 27 R434). -/

/-- A bank taken: changed to the mode, or kept with every presence bit set; lanes parked on its lines look again. -/
def State.takeBank (s : State) (b : Nat) (m : BankMode) (k : Nat) : State :=
  if (s.bank b k).mode = m then
    (s.wakeParked fun b' k' _ => b' == b && k' == k).modBank b k fun z => { z with counts := [], change := none }
  else s.changeBank b k m

/-- The reset values of a tile's blocks (R188). -/
def Core.clearTile (c : Core) (unit : Nat) (tas64 : Bool) : Core :=
  let lo := 1024 * unit
  let n := if tas64 then 2048 else 1024
  let inside (u : Nat) : Bool := decide (lo ≤ u) && decide (u < lo + n)
  let rest := c.tas.filter fun x => !inside x.idx
  { c with tas := if tas64 then (List.range 1024).map (fun i => tasReset (lo + 2 * i) true) ++ rest else rest,
           tasPoison := c.tasPoison.filter fun k => !inside (k / 4) }

/-- A crew at its start. -/
def newCrew (ln : Launch) (team idx tvec cycle : Nat) : Crew :=
  let h := ln.hdr
  { team := some team, idx, lastSlot := cycle,
    threads := Vector.ofFn fun l =>
      if idx * nlane h.pair + visible h.pair l.val < h.ext 0 then
        { pc := BitVec.ofNat 64 ln.entryVa, st := .runnable, tvec := BitVec.ofNat 64 tvec }
      else { pc := BitVec.ofNat 64 ln.entryVa, tvec := BitVec.ofNat 64 tvec } }

/-- A team placed on a core that has room; what its launch had claimed for it is its own (R37). -/
def State.placeTeam (s : State) (ln : Launch) (l b : Nat) : State :=
  let h := ln.hdr
  let (id, s) := s.newId
  let slots := (s.freeSlots b).take h.teamCrews
  let banks := s.banksFor b h
  let s := banks.foldl (fun (s : State) k => s.takeBank b k.2 k.1) s
  let kept := s.bound b ln.part ln.task l
  let units := match kept with
    | some k => k.units
    | none => (pickUnits (s.usedUnits b) h.tas64 h.tasN).getD []
  let s := if kept.isSome then s else units.foldl (fun (s : State) u => s.modCore b fun c => c.clearTile u h.tas64) s
  let tvec := (s.part ln.part).tvec
  let team : Team := { id, part := ln.part, launch := ln.id, l, slots, banks := banks.map (·.1), units }
  let s := s.modCore b fun c =>
    { c with teams := c.teams ++ [team], gated := false,
             kept := c.kept.filter fun k => !(k.part == ln.part && k.task == ln.task && k.l == l) }
  let s := (slots.zip (List.range slots.length)).foldl (fun (s : State) x =>
    s.setCrew b x.1 (some (newCrew ln id x.2 tvec s.cycle))) s
  (s.modLaunch ln.part ln.id fun y => { y with claimed := y.claimed.filter fun c => c.1 != l }).acquire b

/-- The cores a gang takes on a die now: its claimed ones, or those with room (R34, R37, R41). -/
def State.gangPlace (s : State) (ln : Launch) (g die : Nat) : Option (List (Nat × Nat)) :=
  if ln.claimed.isEmpty then s.gangCores ln g die fun l b => s.hasRoom ln l b
  else
    let e1 := ln.hdr.ext 1
    let mine := ln.claimed.filter fun c => c.1 / e1 == g
    if mine.all fun c => c.2 / 40 == die && s.hasRoom ln c.1 c.2 then some mine else none

/-- The gangs of a chunk placed from its first on while room lasts; what remains. -/
def State.placeGangs (s : State) (ln : Launch) (die : Nat) : Nat → Chunk → State × Option Chunk
  | 0, c => (s, if c.last < c.l then none else some c)
  | fuel + 1, c =>
    if c.last < c.l then (s, none)
    else match s.gangPlace ln (c.l / ln.hdr.ext 1) die with
      | none => (s, some c)
      | some cores =>
        let s := cores.foldl (fun (s : State) x => s.placeTeam ln x.1 x.2) s
        s.placeGangs ln die fuel { c with l := c.l + ln.hdr.ext 1 }

/-- DISPATCH_PULL (R281). -/
def execDispatchPull (die p : Nat) (urgent : Bool) (s : State) : Answer :=
  .next (match (s.part p).queueOf urgent with
    | [] => s
    | c :: rest => match s.launch p c.launch with
      | none => s.setQueueOf p urgent rest
      | some ln =>
        if (s.part p).phase ≠ .active ∨ (s.part p).st ≠ 1 then s
        else
          let (s', left) := s.placeGangs ln die (c.last + 1) c
          match left with
          | none => s'.setQueueOf p urgent rest
          | some c' => if c'.l = c.l then s else s'.setQueueOf p urgent (c' :: rest))

/-! Retirement (R40, R41). -/

/-- A copy still goes into a team's scratchpad. -/
def State.copiesInto (s : State) (b team : Nat) : Bool :=
  (List.range 160).any fun c => (s.core c).copies.any fun o =>
    o.req.dst / 2 ^ 48 == 0xFFFE && o.dests.contains (team, b)

/-- The three conditions of R40, and nothing of the team left in the core's queues. -/
def State.mayRetire (s : State) (b : Nat) (t : Team) : Bool :=
  let c := s.core b
  t.slots.all (fun sl => match s.crew b sl with
    | some cr => cr.live.isEmpty
    | none => true) &&
  (c.slotsWhere fun h => h.team == t.id && h.st == .pending).isEmpty &&
  !s.copiesInto b t.id && !(s.arrays.any fun a => a.span.any (fun m => m.1 == b && m.2 == t.id) ||
    (a.st != .queued && a.span.tail.any fun m => m.1 == b)) &&
  c.pend.all (fun p => !t.slots.contains p.slot) &&
  !(c.copies.any fun o => o.team == t.id) && !(c.engs.any fun o => o.team == t.id)

/-- The chain successor of a task (R41): its index. -/
def Task.chain (t : Task) : Option Nat :=
  t.succ.foldl (fun (m : Option Nat) i => match m with
    | none => some i
    | some j => some (min i j)) none

/-- The debug crew enters slot 63 once it is free (20 R394), of a core that is then in use again (17 R346). -/
def State.reserveDebug (s : State) (b : Nat) : State :=
  if (s.part (s.partOf b)).dbgen && (s.crew b 63).isNone then
    (s.setCrew b 63 (some (s.debugCrew b))).modCore b fun c => { c with debug := true, gated := false }
  else s

def State.retireTeam (s : State) (b : Nat) (t : Team) : State :=
  let tk := (s.launch t.part t.launch).bind fun ln => (s.part t.part).task ln.task |>.map fun k => (ln, k)
  let s := match tk with
    | some (ln, k) => if ln.hdr.keepTas && ln.hdr.tasN != 0 then
        match k.chain with
        | some succ => s.modCore b fun c => { c with kept := c.kept ++ [{ part := t.part, task := succ, l := t.l, tas64 := ln.hdr.tas64, units := t.units }] }
        | none => s
      else s
    | none => s
  let s := t.slots.foldl (fun (s : State) sl => s.setCrew b sl none) s
  let s := ((s.core b).slotsWhere fun h => h.team == t.id && h.st != .free).foldl (fun (s : State) k => s.freeSlot b k) s
  let s := s.modCore b fun c => { c with teams := c.teams.filter fun u => u.id != t.id, oldCopies := c.oldCopies.filter fun o => o.team != t.id }
  (s.modLaunch t.part t.launch fun ln => { ln with retired := ln.retired + 1 }).reserveDebug b |>.wakeUnits b

/-- TEAM_RETIRE (R40). -/
def execTeamRetire (core team : Nat) (s : State) : Answer :=
  .next (match (s.core core).team team with
    | none => s
    | some t => if s.mayRetire core t then s.retireTeam core t else s)

/-! Completion (R42, 14 R274). -/

/-- The bitmap of killed teams. -/
def Launch.bitmap (ln : Launch) : List Byte := leBytes (ceilDiv ln.total 8) (maskOf ln.killed)

/-- A record access of the run failed: the status it gives the run (R274). -/
def State.recordFail (s : State) (p status : Nat) : State :=
  s.modPart p fun x => { x with run := x.run.map fun r => { r with fail := r.fail.orElse fun _ => some status } }

/-- The record of a node, and its bitmap of killed teams (R274); the right side while a fault is unresolved. -/
def State.writeRecord (s : State) (p node status teams killed : Nat) (bitmap : List Byte) : State ⊕ State :=
  match (s.part p).run with
  | none => .inl s
  | some r =>
    let note (s : State) : State := s.modPart p fun x => { x with run := x.run.map fun r =>
      { r with bad := if status = 1 then r.bad.filter (· != node) else if r.bad.contains node then r.bad else r.bad ++ [node] } }
    let at_ := r.recBase + 32 * node
    let ptr := (r.bitmaps[node]?).getD 0
    let parts := if r.recBase = 0 then []
      else (if ptr = 0 then [] else [(ptr, bitmap)]) ++
        [(at_, leBytes 4 status ++ leBytes 4 killed ++ leBytes 8 teams), (at_ + 24, leBytes 8 0)]
    let (s, w) := parts.foldl (fun (acc : State × Bool) q =>
      if acc.2 then acc
      else match acc.1.writeVa (cpAgent p) q.1 q.2 with
        | (s, .wait _) => (s, true)
        | (s, .fault _) => (s.recordFail p 6, false)
        | (s, .poison _) => (s.recordFail p 9, false)
        | (s, .ok _) => (s, false)) (s, false)
    if w then .inr s else .inl (note s)

/-- LAUNCH_COMPLETE (R42): the record, then the successors. -/
def execLaunchComplete (p launch : Nat) (s : State) : Answer :=
  .next (match s.launch p launch with
    | none => s
    | some ln =>
      if !(ln.unplaceable || ln.retired == ln.total) then s
      else match (s.part p).task ln.task with
        | none => (s.endCode launch).modPart p fun x => { x with launches := x.launches.filter fun l => l.id != launch }
        | some t =>
          let status := if ln.unplaceable then 3 else if ln.killed.isEmpty then 1 else 2
          match s.writeRecord p t.node status ln.total ln.killed.length ln.bitmap with
          | .inr s => s
          | .inl s =>
            let s := (s.endCode launch).modPart p fun x => { x with launches := x.launches.filter fun l => l.id != launch }
            let s := s.modTask p t.idx fun t => { t with st := .done }
            t.succ.foldl (fun (s : State) i => (s.decrement p i).1) s)

end Sys2Proof.Machine
end

