-- ==== Sys2Proof/Machine/Igb.lean ====
section
/-! DEFINITION. The Idfel graph binary (03 R76 to R81): launch headers, sections, and the checks of GRAPH_LOAD. -/

namespace Sys2Proof.Machine

/-! Launch headers (R76, R77). -/

/-- Where E0M1 to E5M1 stand: byte and length. -/
def extentFields : List (Nat × Nat) := [(10, 2), (12, 1), (16, 8), (24, 8), (32, 8), (40, 8)]

/-- A header from its 64 bytes and the KERNELS section that holds its split entries. -/
def Header.parse (d kern : List Byte) : Header :=
  { entry := field d 0 4, widths := (List.range 6).map fun i => field d (4 + i) 1, exts := extentFields.map fun e => field d e.1 e.2 + 1,
    teamCrews := field d 13 1, flags := field d 14 2, bkSp := field d 48 1, bkCache := field d 49 1, bkFifo := field d 50 1,
    tasN := field d 51 1, chunk := field d 52 2, canon := field d 54 2, stack := field d 56 4,
    splits := (List.range (field d 62 1)).map fun j => bits (field kern (4 * field d 60 2 + 4 * j) 4) 12 0 }

/-- The bytes of KERNELS in a header's split entries that break R78: a factor of 0, a RSVD bit. -/
def splitFaults (d kern : List Byte) : List Nat :=
  (List.range (field d 62 1)).flatMap fun i =>
    let a := 4 * field d 60 2 + 4 * i
    (if bits (field kern a 4) 12 0 = 0 then [a] else []) ++ (if bits (field kern (a + 1) 1) 7 5 ≠ 0 then [a + 1] else []) ++
    ([a + 2, a + 3].filter fun k => field kern k 1 != 0)

/-- The bytes of a header that break R30, R45 or R78; those of its split entries are apart. -/
def Header.faults (h : Header) (d kern : List Byte) (codeSize : Nat) : List Nat :=
  let sum := h.widths.foldl (· + ·) 0
  let at_ := 4 * field d 60 2
  let n := field d 62 1
  let bad (p : Bool) (b : Nat) : List Nat := if p then [b] else []
  bad (h.entry % 4 != 0 || decide (codeSize ≤ h.entry)) 0 ++
  bad (decide (64 < sum) || decide ((if h.pair then 10 else 11) < h.width 0)) 4 ++ bad (decide (4 < h.width 1)) 5 ++
  ((List.range 6).zip extentFields).filterMap (fun e => if 2 ^ h.width e.1 < h.ext e.1 then some e.2.1 else none) ++
  bad (decide (16 < h.ext 1)) 12 ++
  bad (h.teamCrews == 0 || decide (64 < h.teamCrews) || decide (h.teamCrews * nlane h.pair < h.ext 0)) 13 ++
  bad (bit h.flags 7 || (h.det && h.thr)) 14 ++ bad (decide (256 ≤ h.flags)) 15 ++
  bad (decide (48 < h.banks)) 48 ++ bad (decide ((if h.tas64 then 12 else 24) < h.tasN)) 51 ++
  bad (if h.det then h.canon == 0 || decide (4096 < h.canon) else h.canon != 0) 54 ++
  bad (h.stack % 16 != 0 || decide (0x100000 < h.stack)) 56 ++
  bad (n != 0 && decide (kern.length < at_ + 4 * n)) 60 ++
  bad (decide (16 < n)) 62 ++ bad (field d 63 1 != 0) 63

/-! Sections (R79, R80). -/

/-- An entry of the section table: type, place, size, and where the entry stands. -/
structure Section where
  ty : Nat
  off : Nat
  size : Nat
  at_ : Nat
  deriving DecidableEq, Repr

def sections (d : List Byte) : List Section :=
  (List.range (field d 6 2)).map fun i =>
    let a := 64 + 16 * i
    { ty := field d a 2, off := field d (a + 4) 4, size := field d (a + 8) 8, at_ := a }

def recordSizeOf (ty : Nat) : Nat := if ty = 3 then 16 else if ty = 4 then 4 else if ty = 5 then 8 else if ty = 6 then 32 else 1

/-- The offending bytes of the 64-byte file header, by reason (R79, R81). -/
def headFaults (d : List Byte) (size : Nat) : List (Nat × Nat) :=
  let n := field d 6 2
  let fs := field d 8 8
  (if field d 0 4 ≠ 0x09424749 then [(1, 0)] else []) ++ (if field d 4 2 ≠ 1 then [(1, 4)] else []) ++
  (if n = 0 ∨ 8 < n then [(2, 6)] else []) ++ (if size < fs ∨ fs < 64 + 16 * n then [(2, 8)] else []) ++
  ((List.range 48).filter fun i => field d (16 + i) 1 != 0).map fun i => (2, 16 + i)

/-- The offending bytes of the section table (R81), a section being held against those before it. -/
def tableFaults (d : List Byte) : List (Nat × Nat) :=
  let fs := field d 8 8
  let ss := sections d
  ((List.range ss.length).zip ss).flatMap fun (x : Nat × Section) =>
    let s := x.2
    let before := ss.take x.1
    let meets (a n : Nat) : Bool := decide (s.size ≠ 0) && decide (n ≠ 0) && decide (s.off < a + n) && decide (a < s.off + s.size)
    (if s.ty = 0 ∨ 8 < s.ty ∨ before.any fun t => t.ty == s.ty then [(2, s.at_)] else []) ++
    ([2, 3].filter fun k => field d (s.at_ + k) 1 != 0).map (fun k => (2, s.at_ + k)) ++
    (if fs < s.off + s.size ∨ meets 0 (64 + 16 * ss.length) ∨ before.any (fun t => meets t.off t.size) ∨ (s.ty = 1 ∧ s.off % 4 ≠ 0) then
      [(2, s.at_ + 4)] else []) ++
    (if s.size % recordSizeOf s.ty ≠ 0 then [(2, s.at_ + 8)] else [])

/-- A section's place in the file and its bytes; an empty one where the file has none. -/
structure Part where
  off : Nat := 0
  data : List Byte := []
  deriving DecidableEq, Repr, Inhabited

/-- The image as read: its table, and the sections the command processor reads. -/
structure Igb where
  secs : List Section
  kern : Part
  nodes : Part
  edges : Part
  patch : Part
  plan : Part

def Igb.sec (g : Igb) (ty : Nat) : Option Section := g.secs.find? fun s => s.ty == ty
def Igb.count (g : Igb) : Nat := g.nodes.data.length / 16
/-- Fields of node i: header offset, successors, initial count, patch size. -/
def Igb.node (g : Igb) (i : Nat) : Nat × Nat × Nat × Nat :=
  let d := g.nodes.data.drop (16 * i)
  (field d 0 4, field d 4 2, field d 6 2, field d 8 2)
def Igb.edgeList (g : Igb) : List (Nat × Nat) :=
  (List.range (g.edges.data.length / 4)).map fun j => (field g.edges.data (4 * j) 2, field g.edges.data (4 * j + 2) 2)
def Igb.plans (g : Igb) : Nat := g.plan.data.length / 32

def nonzero (p : Part) (at_ : Nat) (ks : List Nat) : List Nat := (ks.filter fun k => field p.data (at_ + k) 1 != 0).map fun k => p.off + at_ + k

/-- Reason 0x02 in the NODES records. -/
def Igb.nodeFaults (g : Igb) : List Nat :=
  (List.range g.count).flatMap fun i =>
    let (k, _, _, pb) := g.node i
    let r := g.nodes.off + 16 * i
    (if k % 64 ≠ 0 ∨ g.kern.data.length < k + 64 then [r] else []) ++ (if 256 < pb then [r + 8] else []) ++
    nonzero g.nodes (16 * i) [10, 11, 12, 13, 14, 15]

/-- Nodes reached from a set along edges, within as many rounds as there are edges. -/
def reachable (edges : List (Nat × Nat)) : Nat → List Nat → List Nat
  | 0, l => l
  | fuel + 1, l =>
    let l' := edges.foldl (fun l e => if l.contains e.1 && !l.contains e.2 then e.2 :: l else l) l
    if l'.length = l.length then l else reachable edges fuel l'

/-- Reason 0x05: edges to missing nodes, the first edge that closes a cycle with those before it, successor counts. -/
def Igb.edgeFaults (g : Igb) : List Nat :=
  let es := g.edgeList
  let n := g.count
  let at_ (j : Nat) : Nat := g.edges.off + 4 * j
  ((List.range es.length).zip es).flatMap (fun x =>
    if n ≤ x.2.1 then [at_ x.1] else if n ≤ x.2.2 then [at_ x.1 + 2] else []) ++
  (((List.range es.length).zip es).find? fun x => (reachable (es.take x.1) x.1 [x.2.2]).contains x.2.1).toList.map (fun x => at_ x.1) ++
  (List.range n).filterMap fun i =>
    if (g.node i).2.1 ≠ (es.filter fun e => e.1 == i).length then some (g.nodes.off + 16 * i + 4) else none

/-- Reason 0x06. -/
def Igb.countFaults (g : Igb) : List Nat :=
  (List.range g.count).filterMap fun i =>
    if (g.node i).2.2.1 ≠ (g.edgeList.filter fun e => e.2 == i).length then some (g.nodes.off + 16 * i + 6) else none

/-- A PATCH record: node, offset, size, buffer index + 1. -/
def Igb.point (g : Igb) (j : Nat) : PatchPoint :=
  let d := g.patch.data.drop (8 * j)
  { node := field d 0 2, off := field d 2 1, size := field d 3 1, buf := field d 4 2 }
def Igb.points (g : Igb) : List PatchPoint := (List.range (g.patch.data.length / 8)).map g.point

/-- Reason 0x07. -/
def Igb.patchFaults (g : Igb) : List Nat :=
  (List.range (g.patch.data.length / 8)).flatMap fun j =>
    let p := g.point j
    let r := g.patch.off + 8 * j
    (if g.count ≤ p.node then [r] else []) ++
    (if p.size ≠ 4 ∧ p.size ≠ 8 then [r + 3]
     else if p.off % p.size ≠ 0 ∨ (p.node < g.count ∧ (g.node p.node).2.2.2 < p.off + p.size) then [r + 2] else []) ++
    (if g.plans < p.buf then [r + 4] else []) ++ nonzero g.patch (8 * j) [6, 7]

/-- A PLAN record's size, log2 alignment, image offset and image size. -/
def Igb.planOf (g : Igb) (j : Nat) : Nat × Nat × Nat × Nat :=
  let d := g.plan.data.drop (32 * j)
  (field d 0 8, field d 8 1, field d 12 8, field d 20 8)

/-- Reason 0x08. -/
def Igb.planFaults (g : Igb) : List Nat :=
  let dat := ((g.sec 7).map Section.size).getD 0
  (List.range g.plans).flatMap fun j =>
    let (size, al, io, isz) := g.planOf j
    let d := g.plan.data.drop (32 * j)
    let r := g.plan.off + 32 * j
    (if al < 8 ∨ 30 < al then [r + 8] else []) ++ (if 4 < field d 9 1 then [r + 9] else []) ++ (if 15 < field d 10 1 then [r + 10] else []) ++
    (if 1 < field d 11 1 then [r + 11] else []) ++ (if dat < io + isz then [r + 12] else []) ++ (if size < isz then [r + 20] else []) ++
    nonzero g.plan (32 * j) [28, 29, 30, 31]

def Igb.header (g : Igb) (i : Nat) : Header := Header.parse (g.kern.data.drop (g.node i).1) g.kern.data

/-- How many launch headers KERNELS begins with: all before the last that a node names, since headers come first (R80; log entry 58). -/
def Igb.headers (g : Igb) : Nat := (List.range g.count).foldl (fun m i => max m ((g.node i).1 / 64 + 1)) 0

/-- Reason 0x09: the offending bytes of every header and of its split entries; an entry outside KERNELS is its header's fault. -/
def Igb.headerFaults (g : Igb) : List Nat :=
  let code := ((g.sec 1).map Section.size).getD 0
  let kern := g.kern.data
  (List.range g.headers).flatMap fun j =>
    let d := kern.drop (64 * j)
    (((Header.parse d kern).faults d kern code).map fun b => g.kern.off + 64 * j + b) ++
    ((splitFaults d kern).filter fun b => decide (b < kern.length)).map fun b => g.kern.off + b

/-- Reason 0x0A: buffer addresses that are not aligned as asked. -/
def Igb.bufferFaults (g : Igb) (bufs : List Nat) : List Nat :=
  (List.range g.plans).filterMap fun j =>
    if (bufs[j]?).getD 0 % 2 ^ (g.planOf j).2.1 ≠ 0 then some (g.plan.off + 32 * j) else none

/-- The first reason with an offending byte, and its lowest one (R81). -/
def firstReason (l : List (Nat × List Nat)) : Option (Nat × Nat) :=
  l.findSome? fun r => match r.2 with
    | [] => none
    | b :: bs => some (r.1, bs.foldl min b)

/-- The checks after the table, in the order of their reasons. -/
def Igb.faults (g : Igb) : Option (Nat × Nat) :=
  firstReason [(2, g.nodeFaults), (3, if [1, 2, 3].all fun t => (g.sec t).isSome then (if g.count = 0 then [g.nodes.off] else []) else [64]),
    (4, if 4096 < g.count then [g.nodes.off] else []), (5, g.edgeFaults), (6, g.countFaults), (7, g.patchFaults), (8, g.planFaults),
    (9, g.headerFaults)]

/-- The same of pairs (reason, byte). -/
def lowestFault (l : List (Nat × Nat)) : Option (Nat × Nat) :=
  l.foldl (fun m x => match m with
    | none => some x
    | some y => if x.1 < y.1 ∨ (x.1 = y.1 ∧ x.2 < y.2) then some x else m) none

end Sys2Proof.Machine
end

