-- ==== Sys2Proof/Machine/Queue.lean ====
section
/-! DEFINITION. The host command queue and the command processor (14 R267 to R279): the ring, and the four commands. -/

namespace Sys2Proof.Machine

/-! The ring's registers (R267 to R269). -/

def State.modQueue (s : State) (p : Nat) (f : QueueRegs → QueueRegs) : State := s.modPart p fun x => { x with queue := f x.queue }
def logOk (n : Nat) : Bool := decide (4 ≤ n) && decide (n ≤ 12)
/-- An entry's field. -/
def Command.f (c : Command) (i n : Nat) : Nat := field c.entry i n
def Command.opc (c : Command) : Nat := c.f 0 1
/-- A SYNC whose MODE is WAIT. -/
def Command.isWait (c : Command) : Bool := c.opc == 4 && c.f 16 1 == 1

/-- The command at hand ends with a status, a detail and its result fields (R270). -/
def State.result (s : State) (p status detail : Nat) (fields : List (Nat × List Byte) := []) : State :=
  s.modPart p fun x => { x with cmd := x.cmd.map fun c => { c with result := some (status, detail), fields } }

/-- A SYNC wait ends with STOPPED when EN is cleared (R268). -/
def State.stopWait (s : State) (p : Nat) : State :=
  match (s.part p).cmd with
  | some c => if c.isWait && c.result.isNone then s.result p 8 0 else s
  | none => s

/-- A write of the word at 0x08, judged against EN as it stood (R268). -/
def State.writeQueue08 (s : State) (p : Nat) (v : Word) : State :=
  let q := (s.part p).queue
  let en := bit v.toNat 31
  let n := bits v.toNat 3 0
  let taken := n == q.logN || (!q.en && logOk n)
  let logN := if n = q.logN ∨ q.en ∨ !logOk n then q.logN else n
  let refused := en && !q.en && !logOk logN
  let s := s.badWrite p 0x08 (bits v.toNat 30 4 != 0) false
  let s := s.modQueue p fun q => { q with logN, cfgErr := q.cfgErr || !taken || refused }
  if en && !q.en && !refused then
    (s.modQueue p fun q => { q with en := true, head := 0, tail := 0 }).modPart p fun x => { x with cmd := x.cmd.map fun c => { c with stale := true } }
  else if !en && q.en then (s.modQueue p fun q => { q with en := false }).stopWait p
  else s

/-- A write of QBASE (R268). -/
def State.writeQbase (s : State) (p : Nat) (v : DWord) : State :=
  let s := s.badWrite p 0x00 (bits v.toNat 63 57 != 0 || bits v.toNat 11 0 != 0) false
  s.modQueue p fun q => if q.en then { q with cfgErr := true } else { q with qbase := bits v.toNat 56 12 * 4096 }

/-- A TAIL write, judged against the ring (R269). -/
def State.writeTail (s : State) (p : Nat) (v : Word) : State :=
  let q := (s.part p).queue
  let n := 2 ^ q.logN
  let v' := bits v.toNat 11 0
  let gap (i : Nat) : Nat := (i + n - q.head) % n
  let s := s.badWrite p 0x0C (bits v.toNat 31 12 != 0) false
  if !q.en || decide (n ≤ v') || decide (gap v' < gap q.tail) then s.modQueue p fun q => { q with tailErr := true }
  else s.modQueue p fun q => { q with tail := v' }

/-- QUEUE_CONFIG_WRITE (R268). -/
def execQueueConfigWrite (fn : Nat) (w : QueueWrite) (s : State) : Answer :=
  .next (s.ifReady (match w with
    | .qbase v => s.writeQbase fn v
    | .word08 v => s.writeQueue08 fn v))

/-- QUEUE_ENABLE (R268). -/
def execQueueEnable (fn : Nat) (v : Word) (s : State) : Answer :=
  .next (s.ifReady (if bit v.toNat 31 && !(s.part fn).queue.en then s.writeQueue08 fn v else s))

/-- QUEUE_DISABLE (R268). -/
def execQueueDisable (fn : Nat) (v : Word) (s : State) : Answer :=
  .next (s.ifReady (if !bit v.toNat 31 && (s.part fn).queue.en then s.writeQueue08 fn v else s))

/-- TAIL_DOORBELL (R269). -/
def execTailDoorbell (fn : Nat) (v : Word) (s : State) : Answer := .next (s.ifReady (s.writeTail fn v))

/-! Fetching an entry (R268, R270). -/

/-- The offending bytes of an entry (BAD_CMD). A field of several bytes that is out of range offends by its first byte (log entry 94). -/
def Command.badBytes (c : Command) (p : Partition) : List Nat :=
  let nz (l : List Nat) : List Nat := l.filter fun k => c.f k 1 != 0
  let span (a b : Nat) : List Nat := (List.range (b + 1 - a)).map (a + ·)
  let far (i : Nat) : List Nat := if c.f i 8 / 2 ^ 57 ≠ 0 then [i] else []
  let when_ (b : Bool) (i : Nat) : List Nat := if b then [i] else []
  when_ (decide (2 ≤ c.f 1 1)) 1 ++ nz [2, 3] ++
  (match c.opc with
    | 1 => when_ (c.f 16 8 % 64 != 0) 16 ++ far 16 ++ when_ (decide (c.f 24 8 < 64)) 24 ++ far 32 ++ when_ (decide (15 < c.f 40 2)) 40 ++ nz (span 42 63)
    | 2 =>
      let points := ((p.graph (c.f 16 2)).map fun g => g.points.length).getD (c.f 18 2)
      when_ (decide (15 < c.f 16 2)) 16 ++ when_ (c.f 18 2 != 0 && c.f 18 2 != points) 18 ++ nz (span 20 23) ++ far 24 ++ far 32 ++ nz (span 40 55)
    | 3 => far 16 ++ far 24 ++ when_ (decide (2 ^ 40 < c.f 32 8)) 32 ++ nz (span 40 47) ++ nz (span 56 63)
    | 4 => when_ (decide (1 < c.f 16 1)) 16 ++ nz (span 17 23) ++ when_ (c.f 24 8 % 8 != 0) 24 ++ far 24 ++ nz (span 40 63)
    | _ => [0])

/-- ENTRY_FETCH (R268): the entry at HEAD becomes the command in progress, or cannot be read. -/
def execEntryFetch (fn : Nat) (s : State) : Answer :=
  .next (
    let x := s.part fn
    let q := x.queue
    if !q.en || q.head == q.tail || x.cmd.isSome || x.phase != .active || x.st != 1 || x.tdisp == 3 then s
    else
      let lost (s : State) : State :=
        ((s.modQueue fn fun q => { q with fetchErr := true, en := false }).modPart fn fun x => { x with cpFatal := [] }).msix fn 0
      match s.readVa (cpAgent fn) (q.qbase + 64 * q.head) 64 with
      | (s, .wait _) => s
      | (s, .fault _) | (s, .poison _) => lost s
      | (s, .ok d) =>
        let c : Command := { entry := d, addr := q.qbase + 64 * q.head }
        let s := s.modPart fn fun x => { x with cmd := some c, cpFatal := [] }
        match c.badBytes x with
        | [] => s
        | b :: bs => s.result fn 7 (bs.foldl min b))

/-- A command of an operation that has still to be done; one that has started goes on while its partition is suspended (19 R388). -/
def State.command (s : State) (p opc : Nat) (f : Command → State) : Answer :=
  .next (match (s.part p).cmd with
    | some c => if c.opc = opc ∧ c.result.isNone then f c else s
    | none => s)

/-- The end of an access of a command by operand: waits, or the status of R270. -/
def State.orFail {α : Type} (s : State) (p operand : Nat) (g : Got α) (f : α → State) : State :=
  match g with
  | .ok a => f a
  | .wait _ => s
  | .fault _ => s.result p 6 operand
  | .poison _ => s.result p 9 operand

/-! GRAPH_LOAD (R272). -/

/-- A graph slot emptied: its tasks are FREE, tiles bound to them are freed (R278, 02 R41). -/
def State.freeGraph (s : State) (p slot : Nat) : State :=
  let gone := ((s.part p).tasks.filter fun t => t.gslot == slot).map Task.idx
  (s.filterKept fun k => !(k.part == p && gone.contains k.task)).modPart p fun x =>
    { x with graphs := x.graphs.filter fun g => g.slot != slot, tasks := x.tasks.filter fun t => t.gslot != slot }

/-- The lowest range of n free task entries. -/
def Partition.taskRange (x : Partition) (n : Nat) : Option Nat :=
  (0 :: x.tasks.map fun t => t.idx + 1).filter (fun a => decide (a + n ≤ 4096) && !(x.tasks.any fun t => decide (a ≤ t.idx) && decide (t.idx < a + n)))
    |>.foldl (fun (m : Option Nat) a => some (match m with
      | none => a
      | some b => min a b)) none

/-- The patch blocks of the loaded graphs, and places for new ones in node order. -/
def Partition.patchBlocks (x : Partition) : List (Nat × Nat) := x.tasks.filterMap fun t => if t.patchLen = 0 then none else some (t.patch, t.patchLen)
def Partition.placeBlocks (x : Partition) (sizes : List Nat) : Option (List Nat) :=
  if x.cmdSize = 0 then none
  else
    (sizes.foldl (fun (acc : Option (List Nat × List (Nat × Nat))) n =>
      match acc with
      | none => none
      | some (l, used) => match lowestFree x.cmdBase x.cmdSize 64 n used with
        | none => none
        | some a => some (l ++ [a], if n = 0 then used else used ++ [(a, n)])) (some ([], x.patchBlocks))).map (·.1)

/-- A section's bytes, in place; none where the file has none. -/
def State.readSection (s : State) (g : Agent) (image : Nat) (secs : List Section) (ty : Nat) : State × Got Part :=
  match secs.find? fun x => x.ty == ty with
  | none => (s, .ok {})
  | some x => match s.readVa g (image + x.off) x.size with
    | (s, .ok d) => (s, .ok { off := x.off, data := d })
    | (s, .wait r) => (s, .wait r)
    | (s, .fault v) => (s, .fault v)
    | (s, .poison v) => (s, .poison v)

def State.readSections (s : State) (g : Agent) (image : Nat) (secs : List Section) : State × Got (List Part) :=
  [2, 3, 4, 5, 6].foldl (fun (acc : State × Got (List Part)) ty =>
    match acc.2 with
    | .ok l => match acc.1.readSection g image secs ty with
      | (s, .ok p) => (s, .ok (l ++ [p]))
      | (s, .wait r) => (s, .wait r)
      | (s, .fault v) => (s, .fault v)
      | (s, .poison v) => (s, .poison v)
    | _ => acc) (s, .ok [])

def rejected (r : Nat × Nat) : Nat := r.1 + 256 * (r.2 % 2 ^ 24)

/-- Step 4: the DATA images into their buffers; an operand that failed (1 IMAGE, or 8 with its record), or a wait. -/
def State.copyImages (s : State) (g : Agent) (image : Nat) (im : Igb) (bufs : List Nat) : State × Got Unit × Nat :=
  let dat := ((im.sec 7).map Section.off).getD 0
  (List.range im.plans).foldl (fun (acc : State × Got Unit × Nat) j =>
    match acc.2.1 with
    | .ok _ =>
      let (_, _, io, n) := im.planOf j
      match acc.1.readVa g (image + dat + io) n with
      | (s, .ok d) => match s.writeVa g ((bufs[j]?).getD 0) d with
        | (s, .ok _) => (s, .ok (), 0)
        | (s, .wait r) => (s, .wait r, 0)
        | (s, .fault v) => (s, .fault v, 8 + 256 * j)
        | (s, .poison v) => (s, .poison v, 8 + 256 * j)
      | (s, .wait r) => (s, .wait r, 0)
      | (s, .fault v) => (s, .fault v, 1)
      | (s, .poison v) => (s, .poison v, 1)
    | _ => acc) (s, .ok (), 0)

/-- Writes of a command, in order. -/
def State.writeAll (s : State) (g : Agent) (l : List (Nat × List Byte)) : State × Got Unit :=
  l.foldl (fun (acc : State × Got Unit) w =>
    match acc.2 with
    | .ok _ => match acc.1.writeVa g w.1 w.2 with
      | (s, .ok _) => (s, .ok ())
      | (s, .wait r) => (s, .wait r)
      | (s, .fault v) => (s, .fault v)
      | (s, .poison v) => (s, .poison v)
    | _ => acc) (s, .ok ())

/-- Steps 2 to 5 for a checked image. -/
def State.loadGraph (s : State) (p : Nat) (c : Command) (im : Igb) (bufs : List Nat) : State :=
  let g := cpAgent p
  let slot := c.f 40 2
  let image := c.f 16 8
  let s := s.freeGraph p slot
  let n := im.count
  let sizes := (List.range n).map fun i => (im.node i).2.2.2
  match (s.part p).taskRange n, (s.part p).placeBlocks sizes with
  | some first, some blocks =>
    let (s, r, operand) := s.copyImages g image im bufs
    s.orFail p operand r fun _ =>
      let block (i : Nat) : Nat := (blocks[i]?).getD 0
      let zeros := ((blocks.zip sizes).filter fun b => b.2 != 0).map fun b => (b.1, List.replicate b.2 (0 : Byte))
      let bound := (im.points.filter fun q => q.buf != 0).map fun q =>
        (block q.node + q.off, leBytes q.size ((bufs[q.buf - 1]?).getD 0))
      let (s, r) := s.writeAll g (zeros ++ bound)
      s.orFail p 9 r fun _ =>
        let tasks := (List.range n).map fun i =>
          ({ idx := first + i, gslot := slot, node := i, st := .idle, count := 0, init := (im.node i).2.2.1, hdr := im.header i, patch := block i,
             patchLen := (sizes[i]?).getD 0, succ := (im.edgeList.filter fun e => e.1 == i).map fun e => first + e.2 } : Task)
        let gs : GraphSlot :=
          { slot, first, count := n, code := image + ((im.sec 1).map Section.off).getD 0, points := im.points }
        (s.modPart p fun x => { x with tasks := x.tasks ++ tasks, graphs := x.graphs ++ [gs] }).result p 1 (first + n * 2 ^ 16)
  | _, _ => s.result p 4 0

/-- GRAPH_LOAD (R272): one event does it whole; a fault that is being resolved leaves it to be done again. -/
def execGraphLoad (fn : Nat) (s : State) : Answer :=
  s.command fn 1 fun c =>
    let g := cpAgent fn
    let image := c.f 16 8
    let (s, head) := s.readVa g image 64
    s.orFail fn 1 head fun head =>
      match lowestFault (headFaults head (c.f 24 8)) with
      | some r => s.result fn 3 (rejected r)
      | none =>
        let (s, table) := s.readVa g image (64 + 16 * field head 6 2)
        s.orFail fn 1 table fun table =>
          match lowestFault (tableFaults table) with
          | some r => s.result fn 3 (rejected r)
          | none =>
            let secs := sections table
            let (s, parts) := s.readSections g image secs
            s.orFail fn 1 parts fun ps =>
              let at_ (i : Nat) : Part := (ps[i]?).getD {}
              let im : Igb := { secs, kern := at_ 0, nodes := at_ 1, edges := at_ 2, patch := at_ 3, plan := at_ 4 }
              match im.faults with
              | some r => s.result fn 3 (rejected r)
              | none =>
                let (s, tab) := s.readVa g (c.f 32 8) (8 * im.plans)
                s.orFail fn 2 tab fun tab =>
                  let bufs := (List.range im.plans).map fun j => field tab (8 * j) 8
                  match firstReason [(0x0A, im.bufferFaults bufs)] with
                  | some r => s.result fn 3 (rejected r)
                  | none => s.loadGraph fn c im bufs

/-! GRAPH_RUN (R274, R278, R279). -/

/-- The BITMAP pointer of each node before the run; one that cannot be read is none, and its status is kept. -/
def State.readBitmaps (s : State) (p base n : Nat) : State × Got (List Nat × Option Nat) :=
  if base = 0 then (s, .ok (List.replicate n 0, none))
  else (List.range n).foldl (fun (acc : State × Got (List Nat × Option Nat)) i =>
    match acc.2 with
    | .ok (l, f) => match acc.1.readVa (cpAgent p) (base + 32 * i + 16) 8 with
      | (s, .ok d) => (s, .ok (l ++ [leNat d], f))
      | (s, .wait r) => (s, .wait r)
      | (s, .fault _) => (s, .ok (l ++ [0], f.orElse fun _ => some 6))
      | (s, .poison _) => (s, .ok (l ++ [0], f.orElse fun _ => some 9))
    | _ => acc) (s, .ok ([], none))

/-- The entries of PATCHTAB for the points not bound to a buffer, those alone being read (R274). -/
def State.readPatches (s : State) (p tab : Nat) (points : List (Nat × PatchPoint)) : State × Got (List (PatchPoint × List Byte)) :=
  points.foldl (fun (acc : State × Got (List (PatchPoint × List Byte))) q =>
    match acc.2 with
    | .ok l => match acc.1.readVa (cpAgent p) (tab + 8 * q.1) 8 with
      | (s, .ok d) => (s, .ok (l ++ [(q.2, d.take q.2.size)]))
      | (s, .wait r) => (s, .wait r)
      | (s, .fault v) => (s, .fault v)
      | (s, .poison v) => (s, .poison v)
    | _ => acc) (s, .ok [])

/-- GRAPH_RUN's start (R274, R278). -/
def execGraphRun (fn : Nat) (s : State) : Answer :=
  s.command fn 2 fun c =>
    let x := s.part fn
    let g := cpAgent fn
    match x.run, x.graph (c.f 16 2) with
    | some _, _ => s
    | none, none => s.result fn 5 0
    | none, some gs =>
      let points := if c.f 18 2 = 0 then [] else ((List.range gs.points.length).zip gs.points).filter fun q => q.2.buf == 0
      let (s, tab) := s.readPatches fn (c.f 24 8) points
      s.orFail fn 3 tab fun tab =>
        let block (i : Nat) : Nat := (((s.part fn).task (gs.first + i)).map Task.patch).getD 0
        let (s, w) := s.writeAll g (tab.map fun q => (block q.1.node + q.1.off, q.2))
        s.orFail fn 9 w fun _ =>
          let (s, bm) := s.readBitmaps fn (c.f 32 8) gs.count
          s.orFail fn 4 bm fun bm =>
            let s := s.modPart fn fun x => { x with run := some { gslot := gs.slot, recBase := c.f 32 8, bitmaps := bm.1, discards := 0, bad := [], fail := bm.2 } }
            let idx := (List.range gs.count).map (gs.first + ·)
            let s := idx.foldl (fun (s : State) i => s.modTask fn i fun t => { t with st := .waiting, count := t.init }) s
            idx.foldl (fun (s : State) i => match (s.part fn).task i with
              | some t => if t.init = 0 then s.startLaunch fn i else s
              | none => s) s

/-- RUN_END (R279): no task of the graph is RUNNING. -/
def execRunEnd (p : Nat) (s : State) : Answer :=
  .next (match (s.part p).run with
    | none => s
    | some r =>
      let mine (x : Partition) : List Task := x.tasks.filter fun t => t.gslot == r.gslot
      if (mine (s.part p)).any (fun t => t.st == .running) then s
      else
        -- the record of a skipped task is written, then its tiles are freed (02 R41)
        let (s, w) := (mine (s.part p)).foldl (fun (acc : State × Bool) t =>
          if acc.2 || t.st != .waiting then acc
          else match acc.1.writeRecord p t.node 4 t.hdr.teams 0 (leBytes (ceilDiv t.hdr.teams 8) 0) with
            | .inr s => (s, true)
            | .inl s => (s, false)) (s, false)
        if w then s
        else
          let ts := mine (s.part p)
          let skipped := (ts.filter fun t => t.st == .waiting).length
          let gone := ts.map Task.idx
          let s := s.filterKept fun k => !(k.part == p && gone.contains k.task)
          let r := ((s.part p).run).getD r
          let s := s.modPart p fun x => { x with run := none, tasks := x.tasks.map fun t => if t.gslot = r.gslot then { t with st := .idle } else t }
          let out := [(60, leBytes 4 skipped), (56, leBytes 4 r.discards)]
          match r.fail with
          | some st => s.result p st 4 out
          | none => s.result p (if r.bad.isEmpty then 1 else 2) r.bad.length out)

/-! HOST_COPY and SYNC (R275, R276). -/

/-- How far a range can be accessed: the offset of the first byte that cannot, its status, or a wait. -/
def State.reachable (s : State) (g : Agent) (va n : Nat) (write : Bool) : State × Got (Option (Nat × Nat)) :=
  (pageSplit va n).foldl (fun (acc : State × Got (Option (Nat × Nat))) p =>
    match acc.2 with
    | .ok none =>
      let r : State × Got Unit := if write then acc.1.canWrite g [p] else
        match acc.1.readVa g p.1 p.2 with
        | (s, .ok _) => (s, .ok ())
        | (s, .wait r) => (s, .wait r)
        | (s, .fault v) => (s, .fault v)
        | (s, .poison v) => (s, .poison v)
      match r with
      | (s, .ok _) => (s, .ok none)
      | (s, .wait r) => (s, .wait r)
      | (s, .fault v) => (s, .ok (some (v - va, 6)))
      | (s, .poison v) => (s, .ok (some (v - va, 9)))
    | _ => acc) (s, .ok none)

/-- HOST_COPY (R275). Where a byte cannot be accessed as the command finds it, DONE is a free value within its bound (log entry 11); where
the bytes written have since changed the tables, it is what has been written. -/
def execHostCopy (fn : Nat) (s : State) : Answer :=
  s.command fn 3 fun c =>
    let g := cpAgent fn
    let (src, dst, n) := (c.f 16 8, c.f 24 8, c.f 32 8)
    let overlap := decide (src < dst + n) && decide (dst < src + n)
    let (s, rs) := s.reachable g src n false
    s.orFail fn 5 rs fun badSrc =>
      let (s, rd) := s.reachable g dst n true
      s.orFail fn 6 rd fun badDst =>
        let copy (s : State) (k status operand : Nat) : State := match s.readVa g src k with
          | (s, .ok d) => match s.writeVa g dst d with
            | (s, .ok _) => s.result fn status operand [(48, leBytes 8 k)]
            | (s, .wait _) => s
            | (s, .fault v) | (s, .poison v) => s.result fn 6 6 [(48, leBytes 8 (v - dst))]
          | (s, _) => s
        let stop (s : State) (bound status operand : Nat) : State := copy s (Config.freeNat s.fresh % (bound + 1)) status operand
        match badSrc, badDst with
        | none, none => copy s n 1 0
        | some (f, st), none => if overlap then s.result fn st 5 [(48, leBytes 8 0)] else stop s f st 5
        | none, some (f, st) => stop s f st 6
        | some (f, st), some (f', st') =>
          if overlap then s.result fn st 5 [(48, leBytes 8 0)] else if f ≤ f' then stop s f st 5 else stop s f' st' 6

/-- SYNC_SIGNAL (R276). -/
def execSyncSignal (fn : Nat) (s : State) : Answer :=
  s.command fn 4 fun c =>
    if c.isWait then s
    else
      let (s, r) := s.writeVa (cpAgent fn) (c.f 24 8) (leBytes 8 (c.f 32 8))
      s.orFail fn 7 r fun _ => s.result fn 1 0

/-- SYNC_WAIT (R276): the wait begins; with EN cleared it ends at once. -/
def execSyncWait (fn : Nat) (s : State) : Answer :=
  s.command fn 4 fun c =>
    if !c.isWait then s
    else if !(s.part fn).queue.en then s.result fn 8 0
    else s.modPart fn fun x => { x with cmd := some { c with waiting := true } }

/-- SYNC_WAIT_SATISFIED (R276): a read finds the word large enough, or cannot be made. -/
def execSyncWaitSatisfied (fn : Nat) (s : State) : Answer :=
  s.command fn 4 fun c =>
    if !c.waiting then s
    else
      let (s, r) := s.readVa (cpAgent fn) (c.f 24 8) 8
      s.orFail fn 7 r fun d => if c.f 32 8 ≤ leNat d then s.result fn 1 0 else s

/-- COMMAND_COMPLETION (R268): result fields and DETAIL, then STATUS, then HEAD; the interrupt if asked. -/
def execCommandCompletion (fn : Nat) (s : State) : Answer :=
  .next (match (s.part fn).cmd with
    | none => s
    | some c => match c.result with
      | none => s
      | some (status, detail) =>
        let parts := c.fields.map (fun f => (c.addr + f.1, f.2)) ++ [(c.addr + 12, leBytes 4 detail), (c.addr + 8, leBytes 4 status)]
        let (s, w) := parts.foldl (fun (acc : State × Bool) q =>
          if acc.2 then acc
          else match acc.1.writeVa (cpAgent fn) q.1 q.2 with
            | (s, .wait _) => (s, true)
            | (s, _) => (s, false)) (s, false)
        if w then s
        else
          let s := if c.stale then s else s.modQueue fn fun q => { q with head := (q.head + 1) % 2 ^ q.logN }
          let s := s.modPart fn fun x => { x with cmd := none, cpFatal := [] }
          if c.f 1 1 % 2 = 1 then s.msix fn 0 else s)

end Sys2Proof.Machine
end

