-- ==== Sys2Proof/Machine/Walks.lean ====
section
/-! DEFINITION. Walks (17 R347), the resolution of faults and the rings (R349 to R351), invalidations (R352, R353) and
TLBI (R358, R359). -/

namespace Sys2Proof.Machine

/-! Lanes that wait for a walk. -/

/-- A change of every thread of a core. -/
def State.eachThread (s : State) (b : Nat) (f : Thread → Thread) : State :=
  s.modCore b fun c => { c with crews := c.crews.map fun o => o.map fun cr => { cr with threads := cr.threads.map f } }

/-- Two misses of one page, which one walk serves (R347); where their accesses differ, what it finds may not serve both, and the
other misses again. -/
def Miss.page (m n : Miss) : Bool := m.part == n.part && m.va / 4096 == n.va / 4096

/-- Misses of one page by accesses of one kind, which fault together. -/
def Miss.same (m n : Miss) : Bool := m.page n && m.write == n.write && m.fetch == n.fetch && m.smode == n.smode

/-- The thread waits in WAIT_UNIT for such a walk. -/
def Thread.awaits (t : Thread) (m : Miss) : Bool := t.st == .waitUnit && match t.miss with
  | some n => n.same m
  | none => false

/-- The misses of a page are done with on the cores; their lanes look again, where they do not park or trap. -/
def State.dropMisses (s : State) (cores : List Nat) (m : Miss) : State :=
  cores.foldl (fun (s : State) b => (s.modCore b fun c => { c with misses := c.misses.filter fun n => !n.page m }).wakeUnits b) s

/-- The waiting lanes of the cores park on a fault of their access (R325). -/
def State.parkOn (s : State) (cores : List Nat) (m : Miss) (rid : Nat) : State :=
  let s := (cores.foldl (fun (s : State) b => s.eachThread b fun t =>
      if t.awaits m then { t with st := .parked (.fault rid), age := 0 } else t) s).dropMisses cores m
  cores.foldl (fun (s : State) b => (List.range 64).foldl (fun (s : State) sl => s.settle b sl) s) s

/-- Every live lane of the cores that satisfies a test takes a trap of its own. -/
def State.trapWhere (s : State) (cores : List Nat) (p : Thread → Bool) (r : Thread → Trap) : State :=
  cores.foldl (fun (s : State) b => (List.range 64).foldl (fun (s : State) sl =>
    (List.range 32).foldl (fun (s : State) l =>
      let t := s.thread b sl l
      if p t && !((s.hdrOf b sl).pair && l % 2 == 1) then s.trapOut ⟨b, sl, l⟩ (r t) t.pc else s) s) s) s

/-- PAGE_FAULT_FATAL of a lane (R349): its own address. -/
def fatalTrap (code : Nat) (t : Thread) : Trap :=
  { cause := cPageFault, info := code, addr := BitVec.ofNat 64 ((t.miss.map Miss.va).getD 0) }

/-! Walks. -/

def State.setWalk (s : State) (id : Nat) (w : Option Walk) : State :=
  { s with walks := s.walks.flatMap fun x => if x.id = id then w.toList else [x] }

/-- A combined entry entered in L1 TLBs, and among the 8,192 of a die's L2 TLB (R346). -/
def State.fillTlb (s : State) (die : Nat) (cores : List Nat) (m : Miss) (e : TlbEntry) : State :=
  let s := s.modDie die fun d => { d with l2tlb := (e :: d.l2tlb).take 8192, stage2 := d.stage2.take (8191 - d.l2tlb.length) }
  (cores.foldl (fun (s : State) b => s.modCore b fun c => { c with tlb := (e :: c.tlb).take 64 }) s).dropMisses cores m

/-- Cores of a partition on a die, and its quota of walkers there (R347). -/
def State.dieCores (s : State) (p die : Nat) : List Nat :=
  (List.range 40).map (· + 40 * die) |>.filter fun b => (s.part p).cores.getLsbD b
def State.quota (s : State) (p die : Nat) : Nat := 256 * (s.dieCores p die).length / 40

/-- WALK_START (R347): a miss is served from the L2 TLB, merged into a walk of its page, or given a walker. -/
def execWalkStart (core miss : Nat) (s : State) : Answer :=
  .next (match (s.core core).misses[miss]? with
    | none => s
    | some m =>
      let die := core / 40
      match (s.die die).l2tlb.find? (fun e => e.serves m) with
      | some e => s.fillTlb die [core] m e
      | none => match s.walks.find? (fun w => w.die == die && w.miss.page m) with
        | some w => s.setWalk w.id (some { w with cores := if w.cores.contains core then w.cores else w.cores ++ [core] })
        | none =>
          if s.quota m.part die ≤ (s.walks.filter fun w => w.die == die && w.miss.part == m.part).length then s
          else
            let (id, s) := s.newId
            { s with walks := s.walks ++ [{ id, die, cores := [core], miss := m, st := .read, trail := [], restarts := 0 }] })

/-- The walk starts again with nothing read so far. -/
def Walk.restart (w : Walk) (byInv : Bool) : Walk :=
  { w with st := .read, trail := [], restarts := if byInv then w.restarts + 1 else w.restarts }

/-- An invalidation of the partition is in progress. -/
def State.invalidating (s : State) (p : Nat) : Bool := (s.part p).invs.any fun q => q.sent

/-- A cached table entry: of the die's walk caches, or a second-stage leaf of its L2 TLB. -/
def State.cachedPte (s : State) (w : Walk) (addr : Nat) (stage2 : Bool) : Option Nat :=
  ((s.walkCache.find? fun e => e.1 == w.die && e.2.1 == w.miss.part && e.2.2.1 == (if stage2 then 2 else 1) && e.2.2.2.1 == addr).map
    fun e => e.2.2.2.2).orElse fun _ =>
  if stage2 then ((s.die w.die).stage2.find? fun e => e.1 == w.miss.part && e.2.1 == addr).map fun e => e.2.2 else none

/-- What a walk read kept: non-leaf entries in the walk caches, second-stage leaves whose A bit is set in the L2 TLB (R346). -/
def State.cachePte (s : State) (w : Walk) (addr : Nat) (stage2 : Bool) (v : Nat) : State :=
  if pteV v && pteT v then
    { s with walkCache := (w.die, w.miss.part, (if stage2 then 2 else 1), addr, v) ::
        s.walkCache.filter fun e => !(e.1 == w.die && e.2.1 == w.miss.part && e.2.2.2.1 == addr) }
  else if pteV v && stage2 && pteA v then
    s.modDie w.die fun d =>
      { d with stage2 := ((w.miss.part, addr, v) :: d.stage2.filter fun e => !(e.1 == w.miss.part && e.2.1 == addr)).take (8192 - d.l2tlb.length) }
  else s

def Walk.entries (w : Walk) (a : Nat) : Option Nat := (w.trail.find? fun e => e.1 == a).map (·.2)

/-- The walk is over: its fault, its updates or its fill. -/
def State.walkOut (s : State) (w : Walk) : State :=
  match walkAll w.entries (s.part w.miss.part) w.miss with
  | .inl (.fault code gpa uni) =>
    let s := s.setWalk w.id none
    match s.fault w.miss 0 code gpa uni with
    | (s, some rid) => s.parkOn w.cores w.miss rid
    | (s, none) => (s.trapWhere w.cores (fun t => t.awaits w.miss) (fatalTrap code)).dropMisses w.cores w.miss
  | .inl _ => s
  | .inr x =>
    if x.writes.isEmpty then (s.setWalk w.id none).fillTlb w.die w.cores w.miss x.entry
    else s.setWalk w.id (some { w with st := .update x.writes x.logs })

/-- WALK_READ (R347): one more table entry, from the walk caches or from its home. A walk that restarted four times
for invalidations waits for the one in progress. -/
def execWalkRead (die id : Nat) (cached : Bool) (s : State) : Answer :=
  .next (match s.walks.find? fun w => w.id == id && w.die == die with
    | none => s
    | some w =>
      if w.st ≠ .read ∨ (4 ≤ w.restarts ∧ s.invalidating w.miss.part) then s
      else match walkAll w.entries (s.part w.miss.part) w.miss with
        | .inl (.need addr stage2) =>
          let (s, v) := match (if cached then s.cachedPte w addr stage2 else none) with
            | some v => (s, v)
            | none => (s.keyless w.miss.part addr, s.pte addr)
          let w := { w with trail := w.trail ++ [(addr, v)] }
          (s.cachePte w addr stage2 v |>.setWalk id (some w)).walkOut w
        | _ => s.walkOut w)

/-- WALK_UPDATE (R344, R347, R351): each dirty-log append with the compare-and-swap of its leaf, then the other ones; a changed entry
restarts the walk, a full log parks its lanes. -/
def execWalkUpdate (die id : Nat) (s : State) : Answer :=
  .next (match s.walks.find? fun w => w.id == id && w.die == die with
    | none => s
    | some w => match w.st with
      | .update writes logs =>
        if writes.any fun u => s.pte u.1 != u.2.1 then
          let addrs := writes.map fun u => u.1
          ({ s with walkCache := s.walkCache.filter fun e => !(addrs.contains e.2.2.2.1) }.modDie die fun d =>
            { d with stage2 := d.stage2.filter fun e => !(addrs.contains e.2.1) }).setWalk id (some (w.restart false))
        else match logs with
          | [] => match walkAll w.entries (s.part w.miss.part) w.miss with
            | .inr x => ((writes.foldl (fun (s : State) u => s.setPte u.1 u.2.2) s).setWalk id none).fillTlb w.die w.cores w.miss x.entry
            | .inl _ => s.setWalk id (some (w.restart false))
          | g :: rest =>
            let (s, ok) := s.logLeaf w.miss.part writes g
            if ok then s.setWalk id (some { w with st := .update (writes.filter fun u => u.1 != g.2) rest })
            else (s.setWalk id (some { w with st := .parked writes logs })).parkOn w.cores w.miss id
      | _ => s)

/-! Resolution of faults (R349). -/

/-- Lanes parked on a fault run again. -/
def State.unpark (s : State) (rid : Nat) : State :=
  (List.range 160).foldl (fun (s : State) b =>
    s.eachThread b fun t => if t.st = .parked (.fault rid) then { t with st := .runnable, age := 0 } else t) s

/-- Engines that wait on a fault walk again. -/
def State.unwait (s : State) (rid : Nat) (stop : Option (Nat × Nat)) : State :=
  { s with cores := s.cores.map fun c =>
    { c with copies := c.copies.map fun o => if o.waitRid = some rid then { o with waitRid := none, stop := stop.orElse fun _ => o.stop } else o,
             engs := c.engs.map fun o => if o.waitRid = some rid then { o with waitRid := none, stop := stop.orElse fun _ => o.stop } else o } }

/-- A record resolved: its lanes and engines retry, or end. -/
def State.resolve (s : State) (f : FaultRec) (fatal : Option Nat) : State :=
  let s := { s with faults := s.faults.filter fun g => g.rid != f.rid }
  match fatal with
  | none => (s.unpark f.rid).unwait f.rid none
  | some code =>
    let s := s.unwait f.rid (some (outcomeFault, f.va))
    let s := if f.cp then s.modPart f.part fun p => { p with cpFatal := f.va / 4096 :: p.cpFatal } else s
    s.trapWhere (List.range 160) (fun t => t.st == .parked (.fault f.rid)) (fatalTrap code)

def State.findFault (s : State) (p : Nat) (ring : Ring) (rid : Word) : Option FaultRec :=
  s.faults.find? fun f => f.part == p && f.ring == some ring && f.rid == rid.toNat && f.written

/-- A write of RESUME (R349): one that names no unresolved record is discarded. -/
def State.writeResume (s : State) (p : Nat) (ring : Ring) (rid : Word) (fatal : Bool) : State :=
  match s.findFault p ring rid with
  | some f => s.resolve f (if fatal then some f.code else none)
  | none => s

def execResumeRetry (p : Nat) (ring : Ring) (rid : Word) (s : State) : Answer := .next (s.writeResume p ring rid false)
def execResumeFatal (p : Nat) (ring : Ring) (rid : Word) (s : State) : Answer := .next (s.writeResume p ring rid true)

/-- The function and offset of a ring's registers (28 R439). -/
def ringPage (p : Nat) : Ring → Nat × Nat
  | .fault => (p, 0x1000)
  | .hypervisor => (0, 0x8000 + 0x4000 * (p - 1))
  | .dirty => (0, 0x9000 + 0x4000 * (p - 1))

/-- Records that found their ring full are written as room allows (R349). -/
def State.flushFaults (s : State) (p : Nat) (ring : Ring) : State :=
  s.faults.foldl (fun (s : State) f =>
    if f.part = p ∧ f.ring = some ring ∧ f.written = false ∧ !((s.part p).ring ring).full then
      let (s, ok) := s.ringAppend p ring 32 f.bytes
      if ok then { s with faults := s.faults.map fun g => if g.rid = f.rid then { g with written := true } else g } else s
    else s) s

/-- A ring's room has changed: records, or walks parked on a full dirty log, find some (R350, R351); those that wait for a ring now disabled
are resolved FATAL (R349). -/
def State.ringChanged (s : State) (p : Nat) (ring : Ring) : State :=
  if ring = .dirty then
    s.walks.foldl (fun (s : State) w => match w.st with
      | .parked .. => if w.miss.part = p then (s.setWalk w.id none).unpark w.id else s
      | _ => s) s
  else if ((s.part p).ring ring).logN = 0 then
    (s.faults.filter fun f => f.part == p && f.ring == some ring && !f.written).foldl (fun (s : State) f => s.resolve f (some f.code)) s
  else s.flushFaults p ring

/-- A HEAD write (R350). -/
def State.writeHead (s : State) (p : Nat) (ring : Ring) (v : Word) : State :=
  let (fn, base) := ringPage p ring
  let s := s.badWrite fn (base + 8) (bits v.toNat 31 16 != 0) false
  (s.modRing p ring fun r => { r with head := v.toNat % 65536 }).ringChanged p ring

/-- RING_HEAD_WRITE (R350, R351). -/
def execRingHeadWrite (p : Nat) (ring : Ring) (v : Word) (s : State) : Answer := .next (s.ifReady (s.writeHead p ring v))

/-! Invalidation (R352, R353). -/

def State.invRegs (s : State) (p : Nat) (stage2 : Bool) : InvRegs := if stage2 then (s.part p).inv2 else (s.part p).inv1
def State.setInv (s : State) (p : Nat) (stage2 : Bool) (r : InvRegs) : State :=
  s.modPart p fun x => if stage2 then { x with inv2 := r } else { x with inv1 := r }

/-- A request at the end of the partition's queue at the MP. -/
def State.askInv (s : State) (p : Nat) (stage2 : Bool) (page : Option Nat) (asker : Option (Nat × Nat × Nat)) (register : Bool)
    (next : DWord := 0) : State :=
  let (id, s) := s.newId
  s.modPart p fun x => { x with invs := x.invs ++ [{ id, stage2, page, asker, register, sent := false, left := [], quar := 0, next }] }

/-- A start by the registers: discarded while one is in progress (R352). -/
def State.startInv (s : State) (p : Nat) (stage2 : Bool) (whole : Bool) : State :=
  let r := s.invRegs p stage2
  if r.busy then s.setInv p stage2 { r with dropped := true }
  else (s.setInv p stage2 { r with busy := true }).askInv p stage2 (if whole then none else some r.addr) none true

def execInvalidatePage (p : Nat) (stage2 : Bool) (s : State) : Answer := .next (s.ifReady (s.startInv p stage2 false))
def execInvalidateStage (p : Nat) (stage2 : Bool) (s : State) : Answer := .next (s.ifReady (s.startInv p stage2 true))

/-- The cores of a partition that are in the directory: a gated core acknowledges at once, a quarantined one is removed. -/
def State.invCores (s : State) (p : Nat) : List Nat :=
  (List.range 160).filter fun b => (s.part p).cores.getLsbD b && !(s.core b).gated && !(s.core b).quarantined

/-- The die holds a core of the partition, or entries of it still. -/
def State.invDie (s : State) (p c : Nat) : Bool :=
  !(s.dieCores p c).isEmpty || (s.die c).l2tlb.any (fun e => e.part == p) || (s.die c).stage2.any (fun e => e.1 == p) ||
  s.walkCache.any (fun e => e.1 == c && e.2.1 == p) || s.walks.any fun w => w.die == c && w.miss.part == p

/-- The directory of a partition (R353). -/
def State.directory (s : State) (p : Nat) : List InvTarget :=
  let cs := s.invCores p
  ((List.range 4).filter fun c => s.invDie p c).map InvTarget.die ++ cs.map InvTarget.core ++
  cs.map InvTarget.copyEngine ++ (List.range 4).map InvTarget.geyser ++ [.commandProcessor, .nearMemory]

def State.modInv (s : State) (p id : Nat) (f : InvReq → InvReq) : State :=
  s.modPart p fun x => { x with invs := x.invs.map fun q => if q.id = id then f q else q }

/-- INVALIDATION_SEND (R353): the oldest request, the one before being done. -/
def execInvalidationSend (p : Nat) (s : State) : Answer :=
  .next (match (s.part p).invs with
    | q :: _ => if q.sent then s else s.modInv p q.id fun q => { q with sent := true, left := s.directory p }
    | [] => s)

/-- A request names the page that an entry's leaf maps: of the first stage by its virtual address, of the second by its guest address. -/
def InvReq.names (q : InvReq) (e : TlbEntry) : Bool :=
  match q.page with
  | none => true
  | some a => if q.stage2 then a / 2 ^ e.guestPage == e.gpa / 2 ^ e.guestPage else a / 2 ^ e.page == e.va / 2 ^ e.page

/-- A combined entry a request covers: one of the second stage drops them all. -/
def InvReq.covers (q : InvReq) (p : Nat) (e : TlbEntry) : Bool := e.part == p && (q.stage2 || q.names e)

/-- A near-memory command of the partition translated through an entry that the request names is under way, or a PKLB, which translates as it
goes and is waited for whatever the page, unless it stands still on a fault (log entry 92). -/
def State.nearBusy (s : State) (p : Nat) (q : InvReq) : Bool :=
  (List.range 160).any fun b => (s.core b).engs.any fun o => o.part == p &&
    (o.kind == .nmc && o.via.any q.names || o.kind == .pklb && o.waitRid.isNone)

/-- A target drops what the request covers, and discards the walks in flight. -/
def State.invTarget (s : State) (p : Nat) (q : InvReq) : InvTarget → State
  | .core b => s.modCore b fun c => { c with tlb := c.tlb.filter fun e => !q.covers p e }
  | .die c =>
    let s := s.modDie c fun d => { d with l2tlb := d.l2tlb.filter fun e => !q.covers p e, stage2 := d.stage2.filter fun e => !(q.stage2 && e.1 == p) }
    { s with walkCache := s.walkCache.filter (fun e => !(e.1 == c && e.2.1 == p && (!q.stage2 || e.2.2.1 == 2) && (q.stage2 || e.2.2.1 == 1))),
             walks := s.walks.map fun w => match w.st with
               | .parked .. => w
               | _ => if w.die = c ∧ w.miss.part = p then w.restart true else w }
  | _ => s

/-- A request is DONE: its register or its lane is told (R352, R359). -/
def State.invDone (s : State) (p : Nat) (q : InvReq) : State :=
  let s := s.modPart p fun x => { x with invs := x.invs.filter fun r => r.id != q.id }
  let s := if q.register then
      let r := s.invRegs p q.stage2
      s.setInv p q.stage2 { r with busy := false, seq := (r.seq + 1) % 2 ^ 32, timeout := r.timeout || q.quar != 0 }
    else s
  match q.asker with
  | none => s
  | some (b, sl, l) =>
    -- the lane waits, or was about to look again
    if (s.thread b sl l).st ≠ .waitUnit ∧ (s.thread b sl l).st ≠ .runnable then s
    else
      if q.quar = 0 then s.resume ⟨b, sl, l⟩ q.next else s.trapOut ⟨b, sl, l⟩ { cause := cShootdown, info := q.quar, next := true } q.next

/-- A target can answer now: near-memory logic once its operations that the request covers have ended, a core once its die has, so
that nothing dropped comes back to it from there (R354). -/
def State.canAck (s : State) (p : Nat) (q : InvReq) : InvTarget → Bool
  | .nearMemory => !s.nearBusy p q
  | .core b => !q.left.contains (.die (b / 40))
  | _ => true

/-- INVALIDATION_ACK (R353). -/
def execInvalidationAck (p : Nat) (target : InvTarget) (s : State) : Answer :=
  .next (match (s.part p).invs with
    | q :: _ =>
      if !q.sent || !q.left.contains target || !s.canAck p q target then s
      else
        let s := s.invTarget p q target
        let q := { q with left := q.left.filter fun t => t != target }
        if q.left.isEmpty then s.invDone p q else s.modInv p q.id fun _ => q
    | [] => s)

/-- A core leaves service: its teams are killed (R353). -/
def State.quarantine (s : State) (p b : Nat) : State :=
  let s := (s.core b).teams.foldl (fun (s : State) t => s.killTeam b t.id) s
  (s.modCore b fun c => { c with quarantined := true }).count p 11

def targetCore : InvTarget → Option Nat
  | .core b => some b
  | _ => none

/-- INVALIDATION_TIMEOUT (R353): the cores that alone have not acknowledged are quarantined. -/
def execInvalidationTimeout (p : Nat) (s : State) : Answer :=
  .next (match (s.part p).invs with
    | q :: _ =>
      if !q.sent || q.left.isEmpty || q.left.any (fun t => (targetCore t).isNone) then s
      else
        let cs := q.left.filterMap targetCore
        (cs.foldl (fun (s : State) b => s.quarantine p b) s).invDone p { q with quar := cs.length }
    | [] => s)

/-! TLBI. -/

/-- The lane has asked and waits. -/
def State.asked (s : State) (x : Lane) : Bool :=
  (List.range 9).any fun p => (s.part p).invs.any fun q => q.asker == some (x.core, x.slot, x.lane)

/-- A store of the lane is not yet registered. -/
def State.storing (s : State) (x : Lane) : Bool :=
  ((s.core x.core).pendOf x.slot x.lane).any fun p => p.isMem && !p.returns

def tlbiForm (o : Enc) (srcs : List Opnd) (req : State → Thread → Nat × Bool × Option Nat) : LaneForm :=
  { sOnly := some 0xE3, srcs,
    body := fun s x =>
      let (p, stage2, page) := req s (s.laneThread x)
      if stage2 && (p == 0 || decide (8 < p)) then (s, .trap { cause := cAccess, info := 0x0F })
      else if s.asked x || s.storing x then (s, .hold .waitUnit)
      else (s.askInv p stage2 page (some (x.core, x.slot, x.lane)) false ((s.laneThread x).pc + BitVec.ofNat 64 o.bytes), .hold .waitUnit) }

/-- Kinds 2 and 3 are partition 0's alone (R358). -/
def State.tlbiHyper (s : State) (o : Enc) (f : LaneForm) : State :=
  match s.cur with
  | none => s
  | some cur =>
    if s.partOf cur.core = 0 then s.laneInstr o f
    else s.trapBundle fun pc => { cause := cPriv, info := 0xE3, addr := pc }

/-- The partition of the bundle at hand. -/
def State.curPart (s : State) : Nat :=
  match s.cur with
  | some cur => s.partOf cur.core
  | none => 0

def execTlbiVa (o : Enc) (s : State) : Answer :=
  let a := o.regA true (.only .addr)
  .next (s.laneInstr o (tlbiForm o [a] fun s t => (s.curPart, false, some (a.value t).toNat)))
def execTlbiAll (o : Enc) (s : State) : Answer :=
  .next (s.laneInstr o (tlbiForm o [] fun s _ => (s.curPart, false, none)))

def partTags : Want := .oneOf [.n32, .i32]

def execTlbiGpa (o : Enc) (s : State) : Answer :=
  let a := o.regA true (.oneOf [.n64, .i64])
  let b := o.regB false partTags
  .next (s.tlbiHyper o (tlbiForm o [a, b] fun _ t => ((b.value t).toNat, true, some (a.value t).toNat)))
def execTlbiGall (o : Enc) (s : State) : Answer :=
  let b := o.regB false partTags
  .next (s.tlbiHyper o (tlbiForm o [b] fun _ t => ((b.value t).toNat, true, none)))

end Sys2Proof.Machine
end

