-- ==== Sys2Proof/Machine/Mailbox.lean ====
section
/-! DEFINITION. The PF mailbox (28 R442, R455): its doorbell, how a command is answered, and what a locked TDI forbids
(28 R446); the power limit (01 R22) and the slot calendar (14 R282, R286). -/

namespace Sys2Proof.Machine

/-! Codes (R442). -/

def codeOk := 1
def codeRefused := 2
def codeBadCmd := 3
def codeLocked := 4
def codeState := 5

/-- A request field, and the operand bytes that must be zero. -/
def Mailbox.arg (m : Mailbox) (i n : Nat) : Nat := field m.cmd i n

/-- The command ends: CODE, then vector 3. -/
def State.mailDone (s : State) (code : Nat) : State :=
  { s with mailbox := { s.mailbox with code, busy := false, cmd := [] } }.msix 0 3

/-- The command ends OK, its response written before CODE (R442, R455). -/
def State.mailReply (s : State) (data : List Byte) : State :=
  { s with mailbox := { s.mailbox with resp := data ++ s.mailbox.resp.drop data.length } }.mailDone codeOk

/-- The command of an operation, at hand for partition p: BAD_CMD for bytes 3:2, a partition above 8, or a non-zero byte of
the ranges that R455 reserves. -/
def State.mail (s : State) (op : Nat) (zero : List (Nat × Nat)) (f : Nat → Mailbox → State) : Answer :=
  .next (
    let m := s.mailbox
    if !m.busy || m.arg 0 1 != op then s
    else if m.arg 2 2 != 0 || decide (8 < m.arg 1 1) || zero.any (fun z => m.arg z.1 z.2 != 0) then s.mailDone codeBadCmd
    else f (m.arg 1 1) m)

/-- An operation that has a row of its own; UNIFIED by its sub-operation. -/
def knownOp (req : List Byte) : Bool :=
  let op := field req 0 1
  decide (1 ≤ op) && decide (op ≤ 10) || op == 11 && decide (field req 4 1 ≤ 2)

/-- The doorbell (R442, 29 R451): before READY it completes with STATE, while BUSY it is dropped. -/
def State.doorbell (s : State) : State :=
  if s.boot ≠ 3 then s.mailDone codeState
  else if s.mailbox.busy then { s with mailbox := { s.mailbox with dropped := true } }
  else if knownOp s.mailbox.req then { s with mailbox := { s.mailbox with busy := true, cmd := s.mailbox.req } }
  else s.mailDone codeBadCmd

/-! TDISP (R446). -/

/-- The TDI of a partition is CONFIG_LOCKED or RUN. -/
def State.locked (s : State) (p : Nat) : Bool := (s.part p).tdisp == 1 || (s.part p).tdisp == 2

/-- A command that a locked TDI forbids: LOCKED, and the TDI goes to ERROR. -/
def State.refuseLocked (s : State) (ps : List Nat) : State :=
  (ps.foldl (fun (s : State) p => s.modPart p fun x => { x with tdisp := 3 }) s).mailDone codeLocked

/-! LIMIT (R442, 01 R22). -/

/-- LIMIT: in force from the next arbiter interval. -/
def execLimit (s : State) : Answer :=
  s.mail 9 [(6, 2)] fun _ m =>
    let w := m.arg 4 2
    if w < 1200 ∨ 3000 < w ∨ w % 50 ≠ 0 then s.mailDone codeBadCmd else { s with limitNext := w }.mailDone codeOk

/-! The slot calendar (14 R282 to R286). -/

/-- A class's table as last written; it takes effect at a round boundary (R286). -/
def State.table (s : State) (cls : Nat) : List Nat :=
  if h : cls < 7 then (s.calendarNext[cls]).getD s.calendar[cls] else []

/-- Slots a partition owns in a class. -/
def State.slots (s : State) (p cls : Nat) : Nat := ((s.table cls).filter (· == p)).length

/-- A partition keeps at least 8 slots of every class (R282). -/
def State.enoughSlots (s : State) (p : Nat) : Bool := (List.range 7).all fun c => decide (8 ≤ s.slots p c)

/-- Entries of the 64 table bytes. -/
def calendarEntries (d : List Byte) : List Nat := d.flatMap fun b => [b.toNat % 16, b.toNat / 16]

/-- CALENDAR (R442, R455): half a table. -/
def execCalendar (s : State) : Answer :=
  s.mail 10 [(6, 2)] fun _ m =>
    let cls := m.arg 4 1
    let half := m.arg 5 1
    let es := calendarEntries ((m.cmd.drop 8).take 64)
    if 6 < cls ∨ 1 < half ∨ es.any (fun e => decide (9 ≤ e) && decide (e ≤ 14)) then s.mailDone codeBadCmd
    else
      let old := s.table cls
      let new := if half = 0 then es ++ old.drop 128 else old.take 128 ++ es
      let changed (p : Nat) : Bool := (old.zip new).any fun e => (e.1 == p) != (e.2 == p)
      let held := (List.range 9).filter fun p => s.locked p && changed p
      let s' := { s with calendarNext := s.calendarNext.setIfInBounds cls (some new) }
      if !held.isEmpty then s.refuseLocked held
      else if (List.range 9).any fun p => (p == 0 || (s.part p).st != 0) && decide (s'.slots p cls < 8) then s.mailDone codeRefused
      else s'.mailDone codeOk

/-- CALENDAR_TAKE_EFFECT (R286). -/
def execCalendarTakeEffect (cls : Nat) (s : State) : Answer :=
  .next (if h : cls < 7 then
      match s.calendarNext[cls] with
      | some t => { s with calendar := s.calendar.set cls t, calendarNext := s.calendarNext.set cls none }
      | none => s
    else s)

end Sys2Proof.Machine
end

