-- ==== Sys2Proof/Machine/CopyIssue.lean ====
section
/-! DEFINITION. Copy requests (15 R296 to R299): their fields and checks, the issue of iterations, and the copy aperture
(R301). -/

namespace Sys2Proof.Machine

/-! Requests (R296). -/

/-- A signed 32-bit field. -/
def strideAt (d : List Byte) (i : Nat) : Int := signed 32 (field d i 4)

/-- The request of 64 bytes; `dep` is the task whose counter it decrements. -/
def CopyReq.parse (d : List Byte) (dep : Option Nat) : CopyReq :=
  { src := field d 0 8, dst := field d 8 8,
    ext := (List.range 4).map fun k => field d (16 + 2 * k) 2 + 1,
    sstr := 0 :: (List.range 3).map fun k => strideAt d (24 + 4 * k),
    dstr := 0 :: (List.range 3).map fun k => strideAt d (36 + 4 * k),
    esz := 2 ^ bits (field d 48 1) 1 0, xform := bits (field d 48 1) 3 2,
    fmt := bits (field d 49 1) 4 0, stages := bits (field d 49 1) 7 5 + 1,
    mcast := field d 50 2,
    bar := if bit (field d 52 4) 31 then some (bits (field d 52 4) 21 0) else none,
    iters := field d 56 2, dep }

/-- The node DEPEN names. -/
def copyNode (d : List Byte) : Option Nat := if bit (field d 58 2) 15 then some (bits (field d 58 2) 11 0) else none

/-- Bytes an operand address is a multiple of: one where two elements share a byte. -/
def CopyReq.align (r : CopyReq) : Nat := if r.elemBits < 8 then 1 else r.elemBits / 8

/-- A request that breaks no rule of shape (R297). -/
def CopyReq.wellShaped (r : CopyReq) (d : List Byte) : Bool :=
  let spad := r.dst / 2 ^ 48 == 0xFFFE
  field d 60 4 == 0 && bits (field d 58 2) 14 12 == 0 && bits (field d 52 4) 30 22 == 0 && bits (field d 48 1) 7 4 == 0 &&
  (if r.xform = 2 then
      match r.planeFmt with
      | none => false
      | some f =>
        spad && r.ext_ 2 == 1 && r.ext_ 3 == 1 && r.ds 1 == (recordSize f (r.ext_ 0) : Nat) &&
        (if r.elemBits < 8 then r.esz == 1 && r.ext_ 0 % 2 == 0 else 8 * r.esz == r.elemBits)
    else r.fmt == 0) &&
  (r.xform != 3 || (r.ext_ 2 == 1 && r.ext_ 3 == 1 && !r.looping)) &&
  (r.stages == 1 || r.looping) && (!r.looping || r.ext_ 3 == 1) &&
  (r.mcast == 0 || (spad && bits r.dst 27 24 == 0xF)) &&
  (r.sstr ++ r.dstr).all fun x => x % (r.align : Int) == 0

/-- The trap of an operand that names a gang member that is absent, killed or retired (R290 step 4). -/
def State.memberTrap (s : State) (x : Lane) (va : Nat) : Option Trap :=
  match s.steer x va { align := 1, write := false } with
  | .trap r => if va / 2 ^ 48 = 0xFFFE ∧ r.cause = cAccess ∧ r.info = 0x03 then some r else none
  | _ => none

/-- An operand address that is neither scratchpad nor global (R297). -/
def outsideTrap (va : Nat) : Option Trap := if va / 2 ^ 48 = 0xFFFE ∨ va / 2 ^ 57 = 0 then none else some (aperture va)

/-- A misaligned operand address (R290 step 5, R297). -/
def alignTrap (al va : Nat) : Option Trap := if va % al = 0 then none else some (Machine.align al va)

/-- The steering of a scratchpad source (R297). -/
def State.sourceTrap (s : State) (x : Lane) (va : Nat) : Option Trap :=
  if va / 2 ^ 48 ≠ 0xFFFE then none
  else match s.steer x va { align := 1, write := false } with
    | .trap r => some r
    | _ => none

/-- The destination addresses: DST itself, or DST in each multicast member's scratchpad (R298). -/
def CopyReq.bases (r : CopyReq) : List Nat :=
  if r.mcast = 0 then [r.dst] else (bitList r.mcast 16).map fun m => setBits r.dst 27 24 m

/-- The first byte, the last and every line's first of a piece. -/
def pieceBytes (p : Nat × Nat) : List Nat :=
  p.1 :: (p.1 + p.2 - 1) :: (List.range (p.2 / 128 + 1)).filterMap fun i =>
    let a := (p.1 / 128 + 1 + i) * 128
    if a < p.1 + p.2 then some a else none

/-- The footprint of the scratchpad destinations (R290 step 6): the first byte that cannot be reached. -/
def State.footprint (s : State) (x : Lane) (r : CopyReq) : Option Trap :=
  r.bases.findSome? fun base =>
    (List.range (min r.passes r.stages)).findSome? fun n =>
      (List.range r.items).findSome? fun k =>
        ((r.target n k).flatMap pieceBytes).findSome? fun a =>
          let a := if r.mcast = 0 then a else setBits a 27 24 (bits base 27 24)
          match s.steer x (a % 2 ^ 64) { align := 1, write := true } with
          | .trap t => some t
          | _ => none

/-- The destinations as (team, core); a global one belongs to the issuing team. -/
def State.copyDests (s : State) (x : Lane) (r : CopyReq) : List (Nat × Nat) :=
  if r.dst / 2 ^ 48 = 0xFFFE then
    r.bases.filterMap fun a => (s.memberTeam x (bits a 27 24)).map fun m => (m.2.id, m.1)
  else [(((s.teamOf x.core x.slot).map Team.id).getD 0, x.core)]

/-- The checks of a request at an address (R290 steps 4 to 6, R297). -/
def State.copyTrap (s : State) (x : Lane) (d : List Byte) (dva : Nat) (r : CopyReq) : Option Trap :=
  let e1 := match s.teamOf x.core x.slot with
    | some t => s.e1 t
    | none => 1
  if !r.wellShaped d then some (access 0x07 dva)
  else if (bitList r.mcast 16).any (fun m => decide (e1 ≤ m)) || ((copyNode d).isSome && r.dep.isNone) then some (access 0x08 dva)
  else ((r.src :: r.bases).findSome? (s.memberTrap x)).orElse fun _ =>
    (outsideTrap r.src).orElse fun _ => (outsideTrap r.dst).orElse fun _ =>
    (alignTrap r.align r.src).orElse fun _ => (alignTrap r.align r.dst).orElse fun _ =>
    (s.sourceTrap x r.src).orElse fun _ => if r.dst / 2 ^ 48 = 0xFFFE then s.footprint x r else none

/-- The request as the engine reads it. -/
def State.copyReq (s : State) (x : Lane) (d : List Byte) : CopyReq :=
  CopyReq.parse d ((copyNode d).bind fun n => (s.nodeTask x n).map (·.2))

/-! Issue of iterations (R178, R298, R299). -/

/-- The scratchpad lines an iteration covers, as core, bank and line. -/
def State.copyLines (s : State) (o : CopyOp) (n : Nat) : List (Nat × Nat × Nat) :=
  if o.req.dst / 2 ^ 48 ≠ 0xFFFE then []
  else o.dests.flatMap fun d => (o.req.lines n).filterMap fun ln =>
    (s.destBank d (ln.1 * 128)).map fun bk => (bk.1, bk.2, ln.1 * 128 % 65536 / 128)

/-- Iteration n is due: one of the first, or every destination has released the one before it in its stage. -/
def CopyOp.due (o : CopyOp) (n : Nat) : Bool :=
  decide (n < o.req.passes) && !o.issued.contains n &&
  (decide (n < o.req.stages) || o.dests.all fun d => o.released.contains (n - o.req.stages, d.1))

def State.modCopy (s : State) (b id : Nat) (f : CopyOp → CopyOp) : State :=
  s.modCore b fun c => { c with copies := c.copies.map fun o => if o.id = id then f o else o }
def State.copy (s : State) (b id : Nat) : Option CopyOp := (s.core b).copies.find? fun o => o.id == id

/-- Iterations that are due are issued: their pending counts rise, unless one would pass 7, which holds the iteration in
the engine. -/
def State.issueCopy (s : State) (b id : Nat) : State :=
  match s.copy b id with
  | none => s
  | some o =>
    (List.range o.req.stages ++ o.issued.map (· + o.req.stages)).foldl (fun (s : State) n =>
      match s.copy b id with
      | none => s
      | some o =>
        let ls := s.copyLines o n
        if !o.due n || ls.any (fun l => decide (7 ≤ s.lineCount l.1 l.2.1 l.2.2)) then s
        else (ls.foldl (fun (s : State) l => s.raiseLine l.1 l.2.1 l.2.2) s).modCopy b id fun o => { o with issued := o.issued ++ [n] }) s

/-- A copy enters its engine. -/
def State.startCopy (s : State) (x : Lane) (r : CopyReq) (reqAddr : Nat) (handle channel : Option Nat) : State :=
  let (id, s) := s.newId
  let dests := s.copyDests x r
  let team := ((s.teamOf x.core x.slot).map Team.id).getD 0
  let op : CopyOp :=
    { id, part := s.partOf x.core, team, reqAddr, req := r, handle, channel, dests, issued := [], done := dests.map fun _ => 0,
      released := [], waitRid := none, stop := none, peer := none, ahead := [], smode := (s.laneThread x).priv,
      members := dests.map fun d => (((s.core d.2).team d.1).map s.f1).getD 0 }
  (s.modCore x.core fun c => { c with copies := c.copies ++ [op] }).issueCopy x.core id

/-- The core's copy engine has room (R288). -/
def Core.copyRoom (c : Core) : Bool := decide (c.copies.length < 64)

/-! The copy aperture (R301). -/

/-- The page of a partition's copy aperture, if an address lies in it. -/
def State.inAperture (s : State) (x : Lane) (va : Nat) : Bool :=
  (s.part (s.partOf x.core)).inAperture va

/-- The 64 bytes of a template through the lane's own translation. -/
def State.template (s : State) (x : Lane) (va : Nat) : (State × List Byte × Bool) ⊕ LaneOut :=
  (pageSplit va 64).foldl (fun (acc : (State × List Byte × Bool) ⊕ LaneOut) p =>
    match acc with
    | .inr r => .inr r
    | .inl (s, d, bad) => match (if s.inAperture x p.1 then .trap (access 0x0C p.1) else s.steer x p.1 { align := 1, write := false }) with
      | .mem (.glob pa) => let (s, e, b) := s.l2Read (s.partOf x.core) pa p.2; .inl (s, d ++ e, bad || b)
      | .trap r => .inr (.trap r)
      | .miss m => .inr (.miss m)
      | _ => .inr .next) (.inl (s, [], false))

/-- A kick (R301). -/
def State.kick (s : State) (x : Lane) (va : Nat) (data : Nat) : State × LaneOut :=
  let bad : LaneOut := .trap (access 0x0C va)
  if !(s.laneThread x).priv || 32 ≤ va % 4096 || bits data 31 10 ≠ 0 then (s, bad)
  else
    let at_ := (s.part (s.partOf x.core)).templ + 64 * bits data 9 0
    match s.template x at_ with
    | .inr r => (s, r)
    | .inl (s, _, true) => (s.consume x none false at_, .gone)
    | .inl (s, d, false) =>
      let r := s.copyReq x d
      if r.looping then (s, bad)
      else match s.copyTrap x d at_ r with
        | some t => (s, .trap t)
        | none =>
          if !(s.core x.core).copyRoom then (s, .hold .waitUnit)
          else (s.startCopy x r at_ none (some (va % 4096 / 4)), .next)

/-- steer for a thread's load, store or atomic: an access to the aperture page that is no kick traps (R301). -/
def State.steerAp (s : State) (x : Lane) (va : Nat) (op : AccessOp) : Steer :=
  if s.inAperture x va && va % op.align == 0 then .trap (access 0x0C va) else s.steer x va op

end Sys2Proof.Machine
end

