-- ==== Sys2Proof/Machine/Tile.lean ====
section
/-! DEFINITION. Tile descriptors (05 R93) and the addresses their fields give. -/

namespace Sys2Proof.Machine

/-- The fields of a tile descriptor (R93). -/
structure Tile where
  base : Nat
  space : Nat
  rows : Nat
  cols : Nat
  fmt : Nat
  layout : Nat
  scale : Nat
  offs : Nat
  sparse : Nat
  deriving DecidableEq, Repr

def Tile.of (v : BitVec 128) : Tile :=
  let n := v.toNat
  { base := bits n 56 0, space := bits n 58 57, rows := bits n 68 59 + 1, cols := bits n 78 69 + 1, fmt := bits n 83 79,
    layout := bits n 86 84, scale := bits n 99 87, offs := bits n 112 100, sparse := bits n 125 113 }

/-- The generic address of a tile's first byte outside TAS (11 R220). -/
def Tile.gbase (t : Tile) : Nat := if t.space = 1 then 0xFFFE000000000000 + t.base % 2 ^ 28 else t.base

/-- The generic address of a scratchpad structure of the issuing team at a unit of 512 bytes (R93). -/
def ownSpad (unit : Nat) : Nat := 0xFFFE00000F000000 + unit * 512

/-- Tile register k of the lane's crew. -/
def State.tile (s : State) (x : Lane) (k : Nat) : Tile :=
  Tile.of (match s.crew x.core x.slot with
    | some c => c.tile k
    | none => 0)

end Sys2Proof.Machine
end

