-- ==== Sys2Proof/Machine/LoadStore.lean ====
section
/-! DEFINITION. Load, store, atomic, fence, presence, prefetch, invalidation, bank and queue instructions (spec 11),
and the events that perform their accesses (09 R176, R182, 05 R91). -/

namespace Sys2Proof.Machine

/-- The memory operand's base (R204) and the address it gives. -/
def baseOpnd (o : Enc) : Opnd := o.regA true (.only .addr)
def baseOrLit (o : Enc) : Opnd := o.litA true (.only .addr)
def ea (o : Enc) (base : Opnd) (t : Thread) : DWord := base.value t + (if o.isExt then o.w2.signExtend 64 else 0)

def laneEa (o : Enc) (base : Opnd) (s : State) (x : Lane) : DWord := ea o base (s.laneThread x)

/-- The shadow lane of a visible one in paired-lane mode. -/
def State.shadowOf (s : State) (x : Lane) : Option Lane :=
  if (s.hdrOf x.core x.slot).pair && x.lane % 2 == 0 then some { x with lane := x.lane + 1 } else none

/-! Watchpoints (20 R395, R397). -/

/-- The first watchpoint an access of a U-mode team lane touches, with the first watched address. -/
def State.watched (s : State) (x : Lane) (va : Nat) (l : Loc) (n : Nat) (rd wr : Bool) : Option (Nat × DWord) :=
  match l with
  | .glob _ => none
  | .spad b k off =>
    if b != x.core || (s.teamOf x.core x.slot).isNone || (s.laneThread x).priv then none
    else (List.range 4).findSome? fun i =>
      match (s.core b).wps.toList[i]? with
      | some (some (team, kind, bank, at_, size)) =>
        match (s.core b).team team with
        | none => none
        | some t =>
          let hits := (List.range n).filter fun j => decide (at_ ≤ off + j) && decide (off + j < at_ + size)
          if t.banks[bank]? == some k && (s.bank b k).mode == .spad && ((bit kind 0 && wr) || (bit kind 1 && rd)) then
            hits.head?.map fun j => (i, BitVec.ofNat 64 (va + j))
          else none
      | _ => none

/-- A lane goes on, having touched what it touched. -/
def leaveAccess (w : Option (Nat × DWord)) : LaneOut :=
  match w with
  | some (n, a) => .watch n a
  | none => .next

/-- SHADOW_MISMATCH of a pair: a rollback where the region allows it (19 R385). -/
def State.mismatch (s : State) (x : Lane) (info : Nat) (va : DWord) : State × LaneOut :=
  if (s.laneThread x).mayRoll then (s.rollback x, .gone) else (s, .trap { cause := cShadow, info, addr := va })

/-- The trap that a lane, by its own operands and address, ends a memory instruction with. -/
def LaneForm.ownTrap (f : LaneForm) (s : State) (y : Lane) : Option Trap :=
  match operandFate (s.laneThread y) f.srcs f.dst f.preds with
  | .trap r => some r
  | _ => match (f.body s y).2 with
    | .trap r => some r
    | _ => none

/-- A memory instruction of a pair: a trap that only the shadow raises, or at a store or atomic a difference of address <0> or data <1>
(`diff`), is a mismatch, and the instruction is not performed (R208, 19 R385). `va` is the visible lane's address. -/
def LaneForm.paired (f : LaneForm) (va : State → Lane → DWord) (diff : State → Lane → Lane → Nat := fun _ _ _ => 0) : LaneForm :=
  { f with body := fun s x =>
      let out := f.body s x
      match s.shadowOf x with
      | none => out
      | some y =>
        let info := diff s x y + match f.ownTrap s y with
          | some r => 4 + r.cause * 256
          | none => 0
        match out.2 with
        | .trap _ | .miss _ => out
        | _ => if info = 0 then out else s.mismatch x info (va s x) }

/-- A steering outcome that keeps the lane from its access. -/
def steerOut : Steer → Option LaneOut
  | .trap r => some (.trap r)
  | .miss m => some (.miss m)
  | _ => none

/-! LD (R211). -/

/-- The access width of SZ (R210). -/
def szBytes (sz : Nat) : Nat := if sz = 0 then 4 else if sz = 1 then 8 else if sz ≤ 3 then 1 else 2

/-- A load of `n` bytes from memory: the lane's, with its shadow's place or value beside it, or (`own` being what the lane itself has
read) its shadow's (R208). One that meets an absent line waits for it. -/
def loadMemory (o : Enc) (s : State) (x : Lane) (n : Nat) (va : DWord) (l : Loc) (twin : Option Loc) (own twinVal : Option DWord)
    (out : LaneOut) : State × LaneOut :=
  let wide := o.modBits 2 0 == 1
  match (l :: twin.toList).find? s.absent with
  | some (.spad b k off) => (s.empty x o.d.toNat wide, .hold (.parked (.line b k (off / 128) (some o.d.toNat) wide)))
  | _ =>
    (s.accessed x 0 (some o.d.toNat) wide va twin
      (.load l n (o.modBits 2 0 == 3 || o.modBits 2 0 == 5) (o.fmt .raw) (o.modBit 3 || o.cp == 1) (o.cp == 2) (o.modBit 3)) false own twinVal, out)

def loadBody (o : Enc) (s : State) (x : Lane) : State × LaneOut :=
  let t := s.laneThread x
  let va := ea o (baseOrLit o) t
  let n := szBytes (o.modBits 2 0)
  let op : AccessOp := { align := n, write := false, isLoad := true }
  let wide := o.modBits 2 0 == 1
  let d := o.d.toNat
  if (s.core x.core).acquiring x.slot x.lane then (s, .hold .waitUnit)
  else
    let here := s.steerAp x va.toNat op
    let other := (s.shadowOf x).map fun y => s.steerAp y (ea o (baseOrLit o) (s.laneThread y)).toNat op
    match steerOut here, other with
    | some r, _ => (s, r)
    | none, some (.miss m) => (s, .miss m)
    | none, _ =>
      let sext := o.modBits 2 0 == 3 || o.modBits 2 0 == 5
      -- what the lane itself, and its shadow, read of the TAS window, and whether it is poisoned
      let window (z : Steer) : Option (DWord × Bool) := match z with
        | .tas off => let (data, bad) := s.tasWindow x.core off n; some (loadValue data sext, bad)
        | _ => none
      let mine := window here
      let twinVal := other.bind window
      let memory (z : Steer) : Option Loc := match z with
        | .mem l => some l
        | _ => none
      let twin := other.bind memory
      if (mine.map (·.2)).getD false then ((s.empty x d wide).consume x (some d) wide va.toNat, .gone)
      else if (twinVal.map (·.2)).getD false then s.mismatch x (4 + cMemUnc * 256) va
      else match memory here, twin with
        | none, none =>
          let s := s.producer x (some d) wide (.value ((mine.map (·.1)).getD 0) (o.fmt .raw)) 0 (twinVal.map (·.1))
          (if o.modBit 3 then s.acquire x.core else s, .next)
        | some l, twin => loadMemory o s x n va l twin none (twinVal.map (·.1)) (leaveAccess (s.watched x va.toNat l n true false))
        | none, some l' => loadMemory o s x n va l' none (mine.map (·.1)) none .next

def ldForm (o : Enc) : LaneForm :=
  LaneForm.paired { srcs := [baseOrLit o], dst := some (o.d.toNat, o.modBits 2 0 == 1), body := loadBody o } (laneEa o (baseOrLit o))

def execLd (o : Enc) (s : State) : Answer := .next (s.laneInstr o (ldForm o))

/-! ST (R212). -/

/-- An earlier access of the thread that returns a value from the same bytes is still outstanding. -/
def State.readOutstanding (s : State) (x : Lane) (l : Loc) (n : Nat) : Bool :=
  ((s.core x.core).pendOf x.slot x.lane).any fun p => p.returns && match p.place with
    | some (m, k) => l.overlaps n m k
    | none => false

/-- The fence a later store stands behind, if some access it covers is outstanding (R198). -/
def State.openFence (s : State) (x : Lane) : Nat :=
  let f := (s.laneThread x).fence
  if (s.core x.core).outstanding x.slot x.lane f then f else 0

/-- A plain or marked store of a lane to a place: its entry, and its cache effect at issue (R194, 09 R181). -/
def State.storeTo (s : State) (x : Lane) (va : DWord) (l : Loc) (data : List Byte) (marked stream rel : Bool) : State :=
  let f := s.openFence x
  let (s, cached) := match l with
    | .glob pa => if marked || f != 0 then (s, false) else s.cacheStore x.core pa data (s.placeOf x.core x.slot stream)
    | .spad .. => (s, false)
  s.accessed x f none false va none (.store l data cached marked rel) stream

/-- A store would change the cache before an earlier load of the same bytes has returned. -/
def State.storeHeld (s : State) (x : Lane) (l : Loc) (n : Nat) : Bool :=
  (s.core x.core).acquiring x.slot x.lane || s.readOutstanding x l n

/-- The comparison of a pair: <0> address, <1> data (02 R48, 19 R385). -/
def pairDiff {α β : Type} [BEq α] [BEq β] (va : Thread → α) (data : Thread → β) (s : State) (x y : Lane) : Nat :=
  let t := s.laneThread x
  let u := s.laneThread y
  (va t != va u).toNat + 2 * (data t != data u).toNat

def storeBody (o : Enc) (s : State) (x : Lane) : State × LaneOut :=
  let t := s.laneThread x
  let sz := o.modBits 2 0
  let n := szBytes sz
  let b := o.litB (sz == 1) (.only (o.fmt .raw))
  let va := ea o (baseOpnd o) t
  let data := leBytes n (b.value t).toNat
  let rel := o.modBit 3
  let kicks := sz == 0 && va.toNat % 4 == 0 && s.inAperture x va.toNat
  let here := if kicks then .tas 0 else s.steerAp x va.toNat { align := n, write := true }
  match steerOut here with
  | some r => (s, r)
  | none =>
    if kicks then
      -- a kick is a release (10 R198, R200)
      if (s.core x.core).acquiring x.slot x.lane || !s.quiet x then (s, .hold .waitUnit)
      else match s.kick x va.toNat (b.value t).toNat with
        | (s, .next) => (s.releaseAfter x (t.pc + BitVec.ofNat 64 o.bytes), .next)
        | r => r
    else match here with
      | .mem l =>
        if s.storeHeld x l n || (rel && (s.core x.core).loadsOutstanding x.slot x.lane t.seq) then (s, .hold .waitUnit)
        else
          let w := s.watched x va.toNat l n false true
          let s := s.storeTo x va l data (rel || o.cp == 1) (o.cp == 2) rel
          (if rel then s.releaseAfter x (t.pc + BitVec.ofNat 64 o.bytes) else s, leaveAccess w)
      | _ => (s, .next)

def stForm (o : Enc) : LaneForm :=
  let sz := o.modBits 2 0
  let b := o.litB (sz == 1) (.only (o.fmt .raw))
  LaneForm.paired { srcs := [baseOpnd o, b], body := storeBody o } (laneEa o (baseOpnd o))
    (pairDiff (ea o (baseOpnd o)) fun u => leBytes (szBytes sz) (b.value u).toNat)

def execSt (o : Enc) (s : State) : Answer := .next (s.laneInstr o (stForm o))

/-! ATOM and RED (R214 to R217). -/

/-- The group of this bundle at a location, entered at `start` or later. -/
def Core.group (c : Core) (start slot : Nat) (l : Loc) (n : Nat) : Option Nat :=
  (c.pend.find? fun p => decide (start ≤ p.id) && p.slot == slot && match p.kind with
    | .atoms l' n' .. => l' == l && n' == n
    | _ => false).map Pend.id

/-- A lane joins its bundle's group, or opens one (R207). -/
def State.joinGroup (s : State) (x : Lane) (start : Nat) (va : DWord) (l : Loc) (n : Nat) (a : AtomLane) (acq rel : Bool) : State :=
  let s := s.modThread x.core x.slot x.lane fun t => { t with seq := t.seq + 1 }
  let a := { a with seq := (s.laneThread x).seq, fence := s.openFence x }
  let s := match a.dst with
    | some d => s.empty x d (n == 8)
    | none => s
  match (s.core x.core).group start x.slot l n with
  | some id => s.modCore x.core fun c => { c with pend := c.pend.map fun p =>
      if p.id = id then { p with kind := match p.kind with
        | .atoms l n ls q r => .atoms l n (ls ++ [a]) q r
        | k => k } else p }
  | none =>
    let (id, s) := s.newId
    s.modCore x.core fun c => { c with pend := c.pend ++
      [{ id, slot := x.slot, lane := x.lane, seq := a.seq, fence := a.fence, dst := none, wide := n == 8, va, kind := .atoms l n [a] acq rel }] }

/-- Deterministic mode refuses order-sensitive atomics outside the own team's scratchpad (R217). -/
def State.detViolates (s : State) (x : Lane) (op : Nat) (va : Nat) : Bool :=
  (s.hdrOf x.core x.slot).det && decide (6 ≤ op) &&
  !(va / 2 ^ 48 == 0xFFFE && (bits va 27 24 == 0xF || match s.teamOf x.core x.slot with
    | some t => bits va 27 24 == s.f1 t
    | none => false))

/-- CAS's third operand; the other operations have none. -/
def atomC (o : Enc) (t : Thread) : DWord :=
  let f := o.fmt .i32
  if o.modBits 3 0 = 7 then (o.regC f.wide (.only f)).value t else 0

def atomBody (o : Enc) (returns : Bool) (start : Nat) (s : State) (x : Lane) : State × LaneOut :=
  let t := s.laneThread x
  let f := o.fmt .i32
  let op := o.modBits 3 0
  let n := if f.wide then 8 else 4
  let b := o.litB f.wide (.only f)
  let acq := returns && o.modBit 4
  let rel := returns && o.modBit 5
  let va := ea o (baseOpnd o) t
  let here := s.steerAp x va.toNat { align := n, write := true }
  match steerOut here with
  | some r => (s, r)
  | none =>
    if s.detViolates x op va.toNat then (s, .trap { cause := cDet, info := op, addr := va })
    else match here with
      | .mem l =>
        if (s.core x.core).acquiring x.slot x.lane || (rel && (s.core x.core).loadsOutstanding x.slot x.lane t.seq) then (s, .hold .waitUnit)
        else if s.absent l then
          let s := if returns then s.empty x o.d.toNat f.wide else s
          match l with
          | .spad b' k off => (s, .hold (.parked (.line b' k (off / 128) (if returns then some o.d.toNat else none) f.wide)))
          | .glob _ => (s, .next)
        else
          let rm := if o.rm == 7 || !o.isExt then t.rnd.toNat % 8 else o.rm.toNat
          let w := s.watched x va.toNat l n true true
          let s := s.joinGroup x start va l n
            { lane := x.lane, seq := 0, fence := 0, dst := if returns then some o.d.toNat else none, op, tag := f, rm,
              b := b.value t, c := atomC o t } acq rel
          (if rel then s.releaseAfter x (t.pc + BitVec.ofNat 64 o.bytes) else s, leaveAccess w)
      | _ => (s, .next)

/-- The comparison of an atomic's pair. -/
def atomDiff (o : Enc) : State → Lane → Lane → Nat :=
  pairDiff (ea o (baseOpnd o)) fun u => ((o.litB (o.fmt .i32).wide (.only (o.fmt .i32))).value u, atomC o u)

def atomForm (o : Enc) (start : Nat) : LaneForm :=
  let f := o.fmt .i32
  let form : LaneForm :=
    { short := false,
      srcs := [baseOpnd o, o.litB f.wide (.only f)] ++ (if o.modBits 3 0 = 7 then [o.regC f.wide (.only f)] else []),
      dst := some (o.d.toNat, f.wide), body := atomBody o true start }
  form.paired (laneEa o (baseOpnd o)) (atomDiff o)
def redForm (o : Enc) (start : Nat) : LaneForm :=
  let f := o.fmt .i32
  LaneForm.paired { srcs := [baseOpnd o, o.litB f.wide (.only f)], body := atomBody o false start } (laneEa o (baseOpnd o)) (atomDiff o)

def execAtom (o : Enc) (s : State) : Answer := .next (s.laneInstr o (atomForm o s.nextId))
def execRed (o : Enc) (s : State) : Answer := .next (s.laneInstr o (redForm o s.nextId))

/-! FENCE (R218, 10 R198). -/

/-- Every earlier access of the lane is done. -/
def State.drained (s : State) (x : Lane) : Bool := !(s.core x.core).outstanding x.slot x.lane (s.laneThread x).seq

def fenceBody (o : Enc) (acq rel : Bool) (s : State) (x : Lane) : State × LaneOut :=
  let t := s.laneThread x
  let next := t.pc + BitVec.ofNat 64 o.bytes
  if acq && (if rel then !s.drained x else (s.core x.core).loadsOutstanding x.slot x.lane t.seq) then (s, .hold .waitUnit)
  else
    let s := if acq then s.acquire x.core else s
    if rel then
      ((s.modThread x.core x.slot x.lane fun t => { t with fence := t.seq }).releaseAfter x next, .next)
    else (s, .next)

def execFenceAcq (o : Enc) (s : State) : Answer := .next (s.laneInstr o { body := fenceBody o true false })
def execFenceRel (o : Enc) (s : State) : Answer := .next (s.laneInstr o { body := fenceBody o false true })
def execFenceAr (o : Enc) (s : State) : Answer := .next (s.laneInstr o { body := fenceBody o true true })

/-! STT (R219, R220). -/

/-- The checks of one tile alone, then of the pair. TADDR of the ALIGN trap is the plain piece's address (DESIGN CHOICE, log entry 90: R220
says no more than an address). -/
def sttTrap (o : Enc) (f : Tag) (tx ty : Tile) (r c n z : Nat) : Option Trap :=
  let nx := if o.isExt then o.w2Bits 3 0 else 0
  let ny := if o.isExt then o.w2Bits 7 4 else 1
  let at_ (k : Nat) : DWord := BitVec.ofNat 64 k
  if tx.fmt ≠ f.code then some { cause := cFormat, info := tx.fmt + 5 * 32, addr := at_ nx }
  else if ty.fmt ≠ f.code then some { cause := cFormat, info := ty.fmt + 5 * 32, addr := at_ ny }
  else if tx.layout ≠ 0 ∨ 2 ≤ tx.space then some { cause := cAccess, info := 0x07, addr := at_ nx }
  else if ty.layout ≠ 1 ∨ 2 ≤ ty.space ∨ ty.rows ≠ tx.rows ∨ ty.cols ≠ tx.cols then some { cause := cAccess, info := 0x07, addr := at_ ny }
  else if tx.rows ≤ r ∨ tx.cols < c + n then some { cause := cAccess, info := 0x08, addr := at_ nx }
  else if c % n ≠ 0 then some { cause := cAlign, info := n * z, addr := at_ (add64 tx.gbase ((r * tx.cols + c) * z : Nat)) }
  else none

/-- The pieces of a stash store: address and bytes. -/
def sttPieces (tx ty : Tile) (r c n z : Nat) (v : Nat) : List (Nat × List Byte) :=
  (add64 tx.gbase ((r * tx.cols + c) * z : Nat), leBytes (n * z) v) ::
  (List.range n).map fun k => (add64 ty.gbase (((c + k) * ty.rows + r) * z : Nat), leBytes z (v >>> (8 * z * k)))

/-- A thread's row, column and data of a stash store. -/
def sttArgs (o : Enc) (t : Thread) : Nat × Nat × Nat :=
  (((o.regA false countTags).value t).toNat, ((o.regB false countTags).value t).toNat, ((o.regC false (.only (o.fmt .f32))).value t).toNat)

def State.sttTiles (s : State) (o : Enc) (x : Lane) : Tile × Tile :=
  (s.tile x (if o.isExt then o.w2Bits 3 0 else 0), s.tile x (if o.isExt then o.w2Bits 7 4 else 1))

/-- The pieces of a lane's stash store. -/
def State.sttOf (s : State) (o : Enc) (x : Lane) : List (Nat × List Byte) :=
  let (tx, ty) := s.sttTiles o x
  let (r, c, v) := sttArgs o (s.laneThread x)
  sttPieces tx ty r c (o.fmt .f32).count ((o.fmt .f32).elemBits / 8) v

def sttBody (o : Enc) (s : State) (x : Lane) : State × LaneOut :=
  let f := o.fmt .f32
  let (tx, ty) := s.sttTiles o x
  let (r, c, _) := sttArgs o (s.laneThread x)
  match sttTrap o f tx ty r c f.count (f.elemBits / 8) with
  | some r => (s, .trap r)
  | none =>
    let steered := (s.sttOf o x).map fun p => (p, s.steerAp x p.1 { align := p.2.length, write := true })
    match steered.findSome? fun p => steerOut p.2 with
    | some r => (s, r)
    | none =>
      let places := steered.filterMap fun p => match p.2 with
        | .mem l => some (p.1, l)
        | _ => none
      if places.any fun p => s.storeHeld x p.2 p.1.2.length then (s, .hold .waitUnit)
      else
        let w := places.findSome? fun p => s.watched x p.1.1 p.2 p.1.2.length false true
        (places.foldl (fun (s : State) p => s.storeTo x (BitVec.ofNat 64 p.1.1) p.2 p.1.2 false (o.cp == 2) false) s, leaveAccess w)

/-- The address of a lane's plain piece. -/
def sttAddr (o : Enc) (s : State) (x : Lane) : DWord := BitVec.ofNat 64 ((s.sttOf o x).headD (0, [])).1

/-- The comparison of a stash store's pair: the addresses of all pieces, then the data. -/
def sttDiff (o : Enc) (s : State) (x y : Lane) : Nat :=
  let p := s.sttOf o x
  let q := s.sttOf o y
  (p.map (·.1) != q.map (·.1)).toNat + 2 * (p.map (·.2) != q.map (·.2)).toNat

def sttForm (o : Enc) : LaneForm :=
  let f := o.fmt .f32
  LaneForm.paired { srcs := [o.regA false countTags, o.regB false countTags, o.regC false (.only f)], body := sttBody o } (sttAddr o) (sttDiff o)

def execStt (o : Enc) (s : State) : Answer := .next (s.laneInstr o (sttForm o))

/-! PRES (R221). -/

/-- The scratchpad line of the address, or how the lane leaves. -/
def State.presLine (s : State) (x : Lane) (va : Nat) : (Nat × Nat × Nat) ⊕ LaneOut :=
  if va / 2 ^ 48 ≠ 0xFFFE then .inr (.trap (aperture va))
  else match s.steer x va { align := 1, write := false } with
    | .mem (.spad b k off) => .inl (b, k, off / 128)
    | .trap r => .inr (.trap r)
    | _ => .inr .next

def presForm (o : Enc) (act : State → Lane → Nat × Nat × Nat → State × LaneOut) (preds : List Nat := []) : LaneForm :=
  let a := o.regA true (.only .addr)
  LaneForm.paired
    { srcs := [a], preds,
      body := fun s x => match s.presLine x (a.value (s.laneThread x)).toNat with
        | .inl l => act s x l
        | .inr out => (s, out) } fun s x => a.value (s.laneThread x)

def execPresTest (o : Enc) (s : State) : Answer :=
  .next (s.laneInstr o (presForm o (fun s x l => (s.putPred x o.predD (s.lineCount l.1 l.2.1 l.2.2 == 0), .next)) [o.predD]))
def execPresWait (o : Enc) (s : State) : Answer :=
  .next (s.laneInstr o (presForm o fun s _ l => if s.lineCount l.1 l.2.1 l.2.2 = 0 then (s, .next) else (s, .hold .waitUnit)))
def execPresClear (o : Enc) (s : State) : Answer :=
  .next (s.laneInstr o (presForm o fun s _ l =>
    if s.lineCount l.1 l.2.1 l.2.2 = 7 then (s, .hold .waitUnit) else (s.raiseLine l.1 l.2.1 l.2.2, .next)))

/-- A store of the lane to the line is outstanding. -/
def State.storesTo (s : State) (x : Lane) (l : Nat × Nat × Nat) : Bool :=
  ((s.core x.core).pendOf x.slot x.lane).any fun p => match p.place with
    | some (.spad b k off, _) => p.isStore && b == l.1 && k == l.2.1 && off / 128 == l.2.2
    | _ => false

def execPresSet (o : Enc) (s : State) : Answer :=
  .next (s.laneInstr o (presForm o fun s x l =>
    if s.storesTo x l then (s, .hold .waitUnit) else ((s.lowerLine l.1 l.2.1 l.2.2).wakeAll, .next)))

/-! PREF and CINV (R222, R223). -/

/-- The PA behind a global or stack address, if an access of the lane would reach one; nothing is recorded. -/
def State.peek (s : State) (x : Lane) (va : Nat) : Option Nat :=
  match s.steer x va { align := 1, write := false } with
  | .mem (.glob pa) => some pa
  | .miss m => match walkAll (fun a => some (s.pte a)) (s.part m.part) m with
    | .inr t => match paCheck va t.pa with
      | .mem (.glob pa) => some pa
      | _ => none
    | .inl _ => none
  | _ => none

def prefForm (o : Enc) : LaneForm :=
  let a := o.litA true .all
  { srcs := [a],
    body := fun s x =>
      let t := s.laneThread x
      match (if (a.tag t == .raw || a.tag t == .addr) then s.peek x (ea o a t).toNat else none) with
      | none => (s, .next)
      | some pa =>
        if o.cp == 1 || !(s.core x.core).cacheOn then
          (if s.keyLoaded (paKey pa) then s.l2Fill (paKey pa) (paAddr pa / 128) else s, .next)
        else (s.fillLine (s.partOf x.core) x.core pa (s.placeOf x.core x.slot (o.cp == 2)), .next) }

def execPref (o : Enc) (s : State) : Answer := .next (s.laneInstr o (prefForm o))

/-- A cached store of the core to the lines of interest is not yet registered. -/
def Core.dirtyLine (c : Core) (line : Option (Nat × Nat)) : Bool :=
  c.pend.any fun p => p.isCached && match p.place, line with
    | some (.glob pa, _), some (k, ln) => paKey pa == k && paAddr pa / 128 == ln
    | some (.glob _, _), none => true
    | _, _ => false

def cinvForm (o : Enc) : LaneForm :=
  let a := baseOrLit o
  LaneForm.paired
    { srcs := [a],
      body := fun s x =>
        let va := (ea o a (s.laneThread x)).toNat
        if va / 2 ^ 57 ≠ 0 ∧ va / 2 ^ 48 ≠ 0xFFFD then (s, .trap (aperture va))
        else match s.steer x va { align := 1, write := false }, s.peek x va with
          | .trap r, _ => if r.cause = cAperture then (s, .trap r) else (s, .next)
          | _, none => (s, .next)
          | _, some pa =>
            let ln := (paKey pa, paAddr pa / 128)
            if (s.core x.core).dirtyLine (some ln) then (s, .hold .waitUnit)
            else (s.modCore x.core fun c => { c with cache := c.cache.filter fun l => !(l.key == ln.1 && l.line == ln.2) }, .next) }
    (laneEa o a)

def execCinv (o : Enc) (s : State) : Answer := .next (s.laneInstr o (cinvForm o))

def cinvAllForm : LaneForm :=
  { body := fun s x =>
      if (s.core x.core).dirtyLine none then (s, .hold .waitUnit)
      else (s.modCore x.core fun c => { c with cache := [] }, .next) }

def execCinvAll (o : Enc) (s : State) : Answer := .next (s.laneInstr o cinvAllForm)

/-! BCFG (R224, 09 R176). -/

/-- The lane has a bank change under way. -/
def State.changing (s : State) (x : Lane) : Bool :=
  ((s.core x.core).pendOf x.slot x.lane).any fun p => match p.kind with
    | .bank .. => true
    | _ => false

def bcfgForm (o : Enc) (m : BankMode) : LaneForm :=
  let a := o.litA false countTags
  LaneForm.paired
    { srcs := [a],
      body := fun s x =>
        let t := s.laneThread x
        let v := (a.value t).toNat
        match (match s.teamOf x.core x.slot with | some tm => if v < 64 then tm.banks[v]? else none | none => none) with
        | none => (s, .trap { cause := cAccess, info := 0x01, addr := BitVec.ofNat 64 v })
        | some k =>
          if s.changing x then (s, .hold .waitUnit)
          else if (s.bank x.core k).change.isNone && (s.bank x.core k).mode = m then (s, .next)
          else
            let s := s.producer x none false (.bank k m (t.pc + BitVec.ofNat 64 o.bytes)) t.pc
            (if (s.bank x.core k).change.isNone then s.modBank x.core k fun b => { b with change := some m } else s, .hold .waitUnit) } fun s x => a.value (s.laneThread x)

def execBcfgSp (o : Enc) (s : State) : Answer := .next (s.laneInstr o (bcfgForm o .spad))
def execBcfgCache (o : Enc) (s : State) : Answer := .next (s.laneInstr o (bcfgForm o .cache))
def execBcfgFifo (o : Enc) (s : State) : Answer := .next (s.laneInstr o (bcfgForm o .fifo))

/-! QPUSH and QPOP (R225, R226). -/

/-- The FIFO bank a selector names, or the trap. -/
def State.fifoBank (s : State) (x : Lane) (v : Nat) : (Nat × Nat) ⊕ Trap :=
  if bits v 31 12 ≠ 0 ∨ bits v 7 6 ≠ 0 then .inr (aperture v)
  else match s.teamBank x (bits v 11 8) (v % 64) .fifo with
    | .inl r => .inr (access r v)
    | .inr bk => .inl bk

/-- An earlier lane of the bundle waits at this instruction (R226). -/
def State.queuedBehind (s : State) (x : Lane) : Bool :=
  match s.cur with
  | none => false
  | some c => c.lanes.any fun l => decide (l < x.lane) && (s.thread x.core x.slot l).st == .waitUnit && (s.thread x.core x.slot l).pc == c.pc

def selector (o : Enc) : Opnd := o.regA false (.only .n32)
def selectorVa (o : Enc) (s : State) (x : Lane) : DWord := (selector o).value (s.laneThread x)

def qpushForm (o : Enc) : LaneForm :=
  let wide := o.modBit 1
  let b := o.regB wide (.only (o.fmt .raw))
  let try_ := o.modBit 0
  LaneForm.paired
    { srcs := [selector o, b], preds := if try_ then [o.pd] else [],
      body := fun s x =>
        let t := s.laneThread x
        match s.fifoBank x ((selector o).value t).toNat with
        | .inr r => (s, .trap r)
        | .inl (c, k) =>
          if !s.drained x || s.queuedBehind x then (s, .hold .waitUnit)
          else if (s.bank c k).fifo.length ≥ s.spcap c / 8 then
            if try_ then (s.putPred x o.pd false, .next) else (s, .hold .waitUnit)
          else
            let s := (s.modBank c k fun z => { z with fifo := z.fifo ++ [(b.value t, false)] }).releaseAfter x (t.pc + BitVec.ofNat 64 o.bytes)
            ((if try_ then s.putPred x o.pd true else s).wakeAll, .next) } (selectorVa o)

def execQpush (o : Enc) (s : State) : Answer := .next (s.laneInstr o (qpushForm o))

def qpopForm (o : Enc) : LaneForm :=
  let wide := o.modBit 1
  let try_ := o.modBit 0
  let d := o.d.toNat
  LaneForm.paired
    { srcs := [selector o], dst := some (d, wide), preds := if try_ then [o.pd] else [],
      body := fun s x =>
        let t := s.laneThread x
        match s.fifoBank x ((selector o).value t).toNat with
        | .inr r => (s, .trap r)
        | .inl (c, k) =>
          match (s.bank c k).fifo with
          | e :: rest =>
            if !try_ && s.queuedBehind x then (s, .hold .waitUnit)
            else
              let s := (s.modBank c k fun z => { z with fifo := rest }).acquire x.core
              if e.2 then ((s.consume x (some d) wide ((selector o).value t).toNat).wakeAll, .gone)
              else
                let s := s.put x d wide (if wide then e.1 else e.1 &&& 0xFFFFFFFF) (o.fmt .raw)
                ((if try_ then s.putPred x o.pd true else s).wakeAll, .next)
          | [] =>
            if try_ then ((s.put x d wide 0 .raw).putPred x o.pd false, .next) else (s, .hold .waitUnit) } (selectorVa o)

def execQpop (o : Enc) (s : State) : Answer := .next (s.laneInstr o (qpopForm o))

/-! The events that perform accesses. -/

/-- STORE_REGISTRATION (09 R182): a store, or a group of reductions, of a core is performed if it may be. -/
def execStoreRegistration (core id : Nat) (s : State) : Answer :=
  .next (match (s.core core).pend.find? fun p => p.id == id with
    | none => s
    | some p =>
      if !s.mayPerform core p then s
      else match p.kind with
        | .store .. => s.performStore core p
        | .atoms .. => if p.returns then s else s.performAtoms core p
        | _ => s)

/-- REVOKE (09 R182): the owned bits of the line are cleared at the core, and the waiting write may be registered. -/
def execRevoke (core line : Nat) (s : State) : Answer :=
  .next (if s.revokes.contains (core, line) then
      { s.clearOwned core line with revokes := s.revokes.filter fun r => r != (core, line) }
    else s)

/-- Whether a pending operation is a change of bank `k`. -/
def Pend.ofBank (p : Pend) (k : Nat) : Bool :=
  match p.kind with
  | .bank k' _ _ => k' == k
  | _ => false

/-- The lanes whose bank change this was go past their BCFG, and the bank's next change starts. -/
def State.bankChanged (s : State) (b k : Nat) : State :=
  match (s.core b).pend.find? fun p => p.ofBank k with
  | some p =>
    let s := s.dropPend b p.id
    let s := match p.kind with
      | .bank _ _ next =>
        let t := s.thread b p.slot p.lane
        if t.pc = p.va ∧ (t.st = LaneState.waitUnit ∨ t.st = LaneState.runnable) then s.resume ⟨b, p.slot, p.lane⟩ next else s
      | _ => s
    (match (s.core b).pend.findSome? fun (p : Pend) => p.bankMode k with
      | some m => s.modBank b k fun z => { z with change := some m }
      | none => s).wakeAll
  | none => s.wakeAll

/-- BANK_MODE_CHANGE (09 R176). -/
def execBankModeChange (core bank : Nat) (s : State) : Answer :=
  .next (match (s.bank core bank).change with
    | none => s
    | some m =>
      if (s.bank core bank).mode = m then (s.modBank core bank fun z => { z with change := none }).bankChanged core bank
      else if !s.bankReady core bank then s
      else (s.changeBank core bank m).bankChanged core bank)

end Sys2Proof.Machine
end

