-- ==== Sys2Proof/Machine/Barrier.lean ====
section
/-! DEFINITION. Barrier objects (18 R360 to R367): their fields, arrivals, byte counts, completion of a phase and the lanes
that wait for one. -/

namespace Sys2Proof.Machine

/-- The fields of a barrier object (R360); PENDING as its 32 bits. -/
structure BarObj where
  arrived : Nat
  expect : Nat
  pending : Nat
  phase : Nat
  waiters : Nat
  deriving DecidableEq, Repr

def BarObj.of (v : Nat) : BarObj :=
  { arrived := bits v 15 0, expect := bits v 47 32, pending := bits v 95 64, phase := bits v 111 96, waiters := bits v 127 112 }
def BarObj.word (o : BarObj) : Nat :=
  o.arrived % 2 ^ 16 + (o.expect % 2 ^ 16) * 2 ^ 32 + (o.pending % 2 ^ 32) * 2 ^ 64 + (o.phase % 2 ^ 16) * 2 ^ 96 +
  (o.waiters % 2 ^ 16) * 2 ^ 112

/-- Malformed (R361). -/
def barMalformed (v : Nat) : Bool := bits v 31 16 != 0 || bits v 63 48 != 0 || decide (bits v 47 32 < bits v 15 0)

/-- done(P) against a phase number (R362). -/
def phaseDone (phase p : Nat) : Bool :=
  let d := (phase + 2 ^ 16 - p % 2 ^ 16) % 2 ^ 16
  decide (1 ≤ d) && decide (d ≤ 32767)

def State.barRead (s : State) (b k off : Nat) : Nat × Bool :=
  let (d, bad) := s.spadRead b k off 16
  (leNat d, bad)
def State.barWrite (s : State) (b k off : Nat) (o : BarObj) : State := s.spadWrite b k off (leBytes 16 o.word)

/-- A thread in WAIT_BAR reads PHASE again: it returns with an acquire once done holds (R367). -/
def State.barReturn (s : State) (x : Lane) : State :=
  match (s.laneThread x).st with
  | .waitBar b k va p next =>
    if !phaseDone (BarObj.of (s.barRead b k (va % 65536)).1).phase p then s
    else
      let hit := s.watched x va (.spad b k (va % 65536)) 16 true true
      let s := (s.acquire x.core).both x fun t => t.goto (BitVec.ofNat 64 next)
      let s := match hit with
        | some (n, a) => s.raiseWatch x.core x.slot [(x.lane, n, a)]
        | none => s
      s.afterLanes x.core x.slot [x.lane]
  | _ => s

/-- The team that holds a bank. -/
def Core.bankTeam (c : Core) (k : Nat) : Option Team := c.teams.find? fun t => t.banks.contains k

/-- Every thread of a core that waits on the object looks again. -/
def State.barWake (s : State) (core b k off : Nat) : State :=
  (List.range 64).foldl (fun (s : State) sl =>
    (List.range 32).foldl (fun (s : State) l =>
      match (s.thread core sl l).st with
      | .waitBar b' k' va _ _ =>
        if b' = b ∧ k' = k ∧ va % 65536 = off ∧ !((s.hdrOf core sl).pair && l % 2 == 1) then s.barReturn ⟨core, sl, l⟩ else s
      | _ => s) s) s

/-- An object after an arrival or a count that changed it: the phase completes where both targets are met (R362). -/
def State.barEvent (s : State) (b k off : Nat) (o : BarObj) : State :=
  if o.arrived ≠ o.expect ∨ o.pending ≠ 0 then s.barWrite b k off o
  else
    let s := s.barWrite b k off { o with phase := (o.phase + 1) % 2 ^ 16, arrived := 0, waiters := 0 }
    match (s.core b).bankTeam k with
    | none => s.barWake b b k off
    | some t =>
      let s := t.slots.foldl (fun (s : State) sl => s.modCrew b sl fun c => { c with behind := 0 }) s
      let cores := ((bitList o.waiters 16).filterMap fun m => (s.member t m).map (·.1)).eraseDups
      cores.foldl (fun (s : State) c => s.barWake c b k off) s

/-- A copy's countdown of `n` bytes on an object (R363). -/
def State.barCount (s : State) (part b k off n : Nat) : State :=
  let (v, bad) := s.barRead b k off
  if n = 0 then s
  else if bad || barMalformed v || (s.bank b k).mode != .spad then s.count part 10
  else s.barEvent b k off { BarObj.of v with pending := ((BarObj.of v).pending + 2 ^ 32 - n % 2 ^ 32) % 2 ^ 32 }

/-! The instructions (R364 to R366). -/

/-- The address operand and B of a barrier instruction. -/
def barAddr (o : Enc) : Opnd := o.regA true (.only .addr)
def barCountOpnd (o : Enc) : Opnd := o.litB false (.oneOf [.n32, .i32])

/-- The lane's earlier accesses of the object are done, and nothing orders it behind others (R197, R198). -/
def State.barFree (s : State) (x : Lane) (l : Loc) : Bool :=
  !(s.core x.core).acquiring x.slot x.lane && s.openFence x == 0 &&
  !(((s.core x.core).pendOf x.slot x.lane).any fun p => match p.place with
    | some (m, n) => l.overlaps 16 m n
    | none => false)

/-- A barrier instruction on the object it names; `usesB` where B is compared between the lanes of a pair, `reads` where an
absent line parks the lane. -/
def barForm (o : Enc) (usesB reads rel : Bool) (dst : Option (Nat × Bool)) (preds : List Nat)
    (act : State → Lane → Nat → Nat → Nat × Nat × Nat → State × LaneOut) : LaneForm :=
  let n (u : Thread) : Nat := if usesB then ((barCountOpnd o).value u).toNat else 1
  LaneForm.paired
    { srcs := barAddr o :: (if usesB then [barCountOpnd o] else []), dst, preds,
      body := fun s x =>
        let t := s.laneThread x
        let va := ((barAddr o).value t).toNat
        if va / 2 ^ 48 ≠ 0xFFFE then (s, .trap (aperture va))
        else match s.steer x va { align := 16, write := true } with
          | .mem (.spad b k off) =>
            if !s.barFree x (.spad b k off) || (rel && !s.drained x) then (s, .hold .waitUnit)
            else if reads && s.absent (.spad b k off) then
              (s.emptyDst x dst, .hold (.parked (.line b k (off / 128) (dst.map (·.1)) false)))
            else act s x va (n t) (b, k, off)
          | .trap r => (s, .trap r)
          | _ => (s, .next) }
    (fun s x => (barAddr o).value (s.laneThread x)) (pairDiff (barAddr o).value n)

/-- The object read, unless poison or its form stops the lane (R361). -/
def State.barObject (s : State) (x : Lane) (dst : Option Nat) (va : Nat) (l : Nat × Nat × Nat)
    (act : BarObj → State × LaneOut) : State × LaneOut :=
  let (v, bad) := s.barRead l.1 l.2.1 l.2.2
  if bad then ((s.emptyDst x (dst.map (·, false))).consume x dst false va, .gone)
  else if barMalformed v then (s, .trap (access 0x07 va))
  else act (BarObj.of v)

def State.barWatch (s : State) (x : Lane) (va : Nat) (l : Nat × Nat × Nat) (rd wr : Bool) : LaneOut :=
  leaveAccess (s.watched x va (.spad l.1 l.2.1 l.2.2) 16 rd wr)

def overflow (va n : Nat) : Trap := { cause := cBarOverflow, info := n, addr := BitVec.ofNat 64 va }

def execBari (o : Enc) (s : State) : Answer :=
  .next (s.laneInstr o (barForm o true false false none [] fun s x va n l =>
    if bits n 31 16 ≠ 0 then (s, .trap (access 0x08 va))
    else (s.barWrite l.1 l.2.1 l.2.2 { arrived := 0, expect := n % 2 ^ 16, pending := 0, phase := 0, waiters := 0 },
      s.barWatch x va l false true)))

def execBara (o : Enc) (s : State) : Answer :=
  let d := o.d.toNat
  .next (s.laneInstr o (barForm o (o.modBit 0) true true (some (d, false)) [] fun s x va n l =>
    s.barObject x (some d) va l fun z =>
      if n = 0 ∨ z.expect < z.arrived + n then (s, .trap (overflow va n))
      else
        let w := s.barWatch x va l true true
        let next := (s.laneThread x).pc + BitVec.ofNat 64 o.bytes
        let s := s.producer x (some d) false (.value (BitVec.ofNat 64 z.phase) .n32)
        let s := s.barEvent l.1 l.2.1 l.2.2 { z with arrived := z.arrived + n }
        (s.releaseAfter x next, w)))

def execBarx (o : Enc) (s : State) : Answer :=
  .next (s.laneInstr o (barForm o true true false none [] fun s x va n l =>
    s.barObject x none va l fun z =>
      if 2 ^ 31 - 1 < signed 32 z.pending + n then (s, .trap (overflow va n))
      else
        let w := s.barWatch x va l true true
        (if n = 0 then s else s.barEvent l.1 l.2.1 l.2.2 { z with pending := wrap 32 (signed 32 z.pending + n) }, w)))

def execBarw (o : Enc) (s : State) : Answer :=
  .next ((s.laneInstr o (barForm o true true false none [] fun s x va n l =>
    if bits n 31 16 ≠ 0 then (s, .trap (access 0x08 va))
    else s.barObject x none va l fun z =>
      if phaseDone z.phase n then (s.acquire x.core, s.barWatch x va l true false)
      else
        let f := match s.teamOf x.core x.slot with
          | some t => s.f1 t
          | none => 0
        (s.barWrite l.1 l.2.1 l.2.2 { z with waiters := z.waiters ||| 2 ^ f },
          .hold (.waitBar l.1 l.2.1 va n (((s.laneThread x).pc + BitVec.ofNat 64 o.bytes).toNat))))).switchIf fun st =>
    match st with
    | .waitBar .. => true
    | _ => false)

def execBart (o : Enc) (s : State) : Answer :=
  .next (s.laneInstr o (barForm o true true false none [o.predD] fun s x va n l =>
    if bits n 31 16 ≠ 0 then (s, .trap (access 0x08 va))
    else s.barObject x none va l fun z =>
      (s.putPred x o.predD (phaseDone z.phase n), s.barWatch x va l true false)))

/-- BARW_RECHECK (R367): PHASE is read again; a poisoned object is consumed (19 R382). -/
def execBarwRecheck (core slot lane : Nat) (s : State) : Answer :=
  .next (match (s.thread core slot lane).st with
    | .waitBar b k va _ _ =>
      if (s.barRead b k (va % 65536)).2 then s.consume ⟨core, slot, lane⟩ none false va else s.barReturn ⟨core, slot, lane⟩
    | _ => s)

end Sys2Proof.Machine
end

