-- ==== Sys2Proof/Machine/Float.lean ====
section
/-! DEFINITION. Floating-point instructions (07 R141 to R148). -/

namespace Sys2Proof.Machine

/-- The rounding mode of an instruction in a thread: DYN in base form (R57). -/
def roundOf (o : Enc) (t : Thread) : Rm := rmOf (if o.isExt then o.rm.toNat else 7) t.rnd

/-- rand16 of element k under SR (R141). -/
def rand16 (c : Nat) (k : Nat) : Nat := bits c (16 * k + 15) (16 * k)

/-- The accuracy class of Q; scalar products keep the planes of R115. -/
def scalarClass (o : Enc) (p : Nat) : AccClass :=
  match o.q.toNat with
  | 1 => .trunc p (if p = 53 then 27 else if p = 24 then 12 else if p = 11 then 6 else 5)
  | 2 => .log
  | _ => .exact

/-- The elements' results written with a tag, or ARITH (R148). -/
def finishElems (o : Enc) (f : Tag) (t : Thread) (rs : List (Nat × Exc)) : Thread ⊕ Trap :=
  match arithInfo t.rnd (rs.map (·.2)) with
  | some n => .inr { cause := cArith, info := n }
  | none => .inl (t.write o.d.toNat f.wide (BitVec.ofNat 64 (packElems f.elemBits (rs.map (·.1)))) f)

/-- A value rounded into a format with what its computation signalled. -/
def roundWith (g : FloatFmt) (rm : Rm) (r16 : Nat) (sat : Bool) (v : Val × Bool) : Nat × Exc :=
  let (x, e) := g.round rm r16 sat v.1
  (x, { e with invalid := e.invalid || v.2 })

/-- The sum, difference and product of R142, and the fused form (NaN rules of R110 and R111). -/
def fpAdd (rm : Rm) (a b : Val) : Val × Bool := withNaN [a, b] (Val.add rm a b)
def fpSub (rm : Rm) (a b : Val) : Val × Bool := withNaN [a, b] (Val.add rm a b.negate)
def fpMul (c : AccClass) (a b : Val) : Val × Bool := withNaN [a, b] (Val.mul c a b)
def fpFma (cls : AccClass) (rm : Rm) (a b c : Val) : Val × Bool :=
  let (p, bad) := Val.mul cls a b
  match firstNaN [a, b, c] with
  | some v => (v, [a, b, c].any Val.isSig || (!a.isNaN && !b.isNaN && bad))
  | none => if bad then (p, true) else Val.add rm p c

/-- The format of a floating-point instruction's elements. -/
def floatOf (f : Tag) : FloatFmt :=
  match f.elemFmt with
  | .float g => g
  | _ => .f32

/-- D := round(g(A, B)) per element; C gives rand16 under SR (R141). -/
def fpBinForm (o : Enc) (short : Bool) (g : FloatFmt → Rm → Val → Val → Val × Bool) : RegForm :=
  let f := o.fmt .f32
  let a := o.regA f.wide (.only f)
  let b := o.litB f.wide (.only f)
  let c := o.regC false (.only .n32)
  let sr := o.isExt && o.rm == 5
  { short, srcs := if sr then [a, b, c] else [a, b], dst := some (o.d.toNat, f.wide),
    body := fun _ t =>
      let ff := floatOf f
      let rm := roundOf o t
      finishElems o f t ((List.range f.count).map fun k =>
        let x := ff.decode (elem f.elemBits (a.value t).toNat k)
        let y := ff.decode (elem f.elemBits (b.value t).toNat k)
        roundWith ff rm (rand16 (c.value t).toNat k) false (g ff rm x y)) }

def execFadd (o : Enc) (s : State) : Answer := .next (s.regInstr o (fpBinForm o true fun _ rm a b => fpAdd rm a b))
def execFsub (o : Enc) (s : State) : Answer := .next (s.regInstr o (fpBinForm o true fun _ rm a b => fpSub rm a b))
def execFmul (o : Enc) (s : State) : Answer :=
  .next (s.regInstr o (fpBinForm o false fun ff _ a b => fpMul (scalarClass o ff.p) a b))

def ffmaForm (o : Enc) : RegForm :=
  let f := o.fmt .f32
  let a := o.regA f.wide (.only f)
  let b := o.litB f.wide (.only f)
  let c := o.regC f.wide (.only f)
  { short := false, srcs := [a, b, c], dst := some (o.d.toNat, f.wide),
    body := fun _ t =>
      let ff := floatOf f
      let rm := roundOf o t
      finishElems o f t ((List.range f.count).map fun k =>
        let v (x : Opnd) := ff.decode (elem f.elemBits (x.value t).toNat k)
        roundWith ff rm 0 false (fpFma (scalarClass o ff.p) rm (v a) (v b) (v c))) }

def execFfma (o : Enc) (s : State) : Answer := .next (s.regInstr o (ffmaForm o))

/-- FMIN and FMAX (R143): MOD<57> is PROP. -/
def minMaxForm (o : Enc) (isMax : Bool) : RegForm :=
  let f := o.fmt .f32
  let a := o.regA f.wide (.only f)
  let b := o.litB f.wide (.only f)
  { srcs := [a, b], dst := some (o.d.toNat, f.wide),
    body := fun _ t =>
      let ff := floatOf f
      finishElems o f t ((List.range f.count).map fun k =>
        let (v, inv) := fminmax isMax (o.modBit 0) (ff.decode (elem f.elemBits (a.value t).toNat k))
          (ff.decode (elem f.elemBits (b.value t).toNat k))
        ((ff.round .rne 0 false v).1, { invalid := inv })) }

def execFmin (o : Enc) (s : State) : Answer := .next (s.regInstr o (minMaxForm o false))
def execFmax (o : Enc) (s : State) : Answer := .next (s.regInstr o (minMaxForm o true))

/-- Bits alone (R144). -/
def signForm (o : Enc) (g : Nat → Nat → Nat) : RegForm :=
  unForm o .f32 fun f a => packElems f.elemBits ((List.range f.count).map fun k => g f.elemBits (elem f.elemBits a k))

def execFabs (o : Enc) (s : State) : Answer := .next (s.regInstr o (signForm o fun w x => x % 2 ^ (w - 1)))
def execFneg (o : Enc) (s : State) : Answer := .next (s.regInstr o (signForm o fun w x => x ^^^ 2 ^ (w - 1)))

/-- FCMP (R145): two conditions of a packed format. -/
def fcmpForm (o : Enc) : RegForm :=
  let f := o.fmt .f32
  let a := o.regA f.wide (.only f)
  let b := o.litB f.wide (.only f)
  { srcs := [a, b], preds := Enc.cmpPreds o,
    body := fun _ t =>
      let ff := floatOf f
      let cs := (List.range f.count).map fun k =>
        fcmpCond (Enc.cond o) (ff.decode (elem f.elemBits (a.value t).toNat k)) (ff.decode (elem f.elemBits (b.value t).toNat k))
      match arithInfo t.rnd (cs.map fun c => { invalid := c.2 }) with
      | some n => .inr { cause := cArith, info := n }
      | none =>
        let c0 := (cs.headD (false, false)).1
        .inl (t.compared o c0 (match cs[1]? with | some c => c.1 | none => !c0)) }

def execFcmp (o : Enc) (s : State) : Answer := .next (s.regInstr o (fcmpForm o))

/-- FCLASS (R144): the masks of elements 0 and 1 stand 16 bits apart. -/
def fclassForm (o : Enc) : RegForm :=
  let f := o.fmt .f32
  let a := o.litA f.wide (.only f)
  { srcs := [a], dst := some (o.d.toNat, false),
    body := fun _ t => .inl (t.write o.d.toNat false (BitVec.ofNat 64 (packElems 16 ((List.range f.count).map fun k =>
      2 ^ (floatOf f).classBit (elem f.elemBits (a.value t).toNat k)))) .n32) }

def execFclass (o : Enc) (s : State) : Answer := .next (s.regInstr o (fclassForm o))

/-! Division, roots, exponentials and logarithms (R146). -/

/-- The value of a function, and the exceptions its special results signal. -/
abbrev Special := Val × Exc

def invalidOf (b : Bool) : Exc := { invalid := b }

/-- a / b in a class. -/
def fpDiv (log : Bool) (p : Nat) (a b : Val) : Special :=
  let n := a.neg != b.neg
  match firstNaN [a, b] with
  | some v => (v, invalidOf (a.isSig || b.isSig))
  | none => match a, b with
    | .inf _, .inf _ | .zero _, .zero _ => (Val.defaultNaN, invalidOf true)
    | .inf _, _ => (.inf n, {})
    | _, .inf _ => (.zero n, {})
    | .zero _, _ => (.zero n, {})
    | _, .zero _ => (.inf n, { divZero := true })
    | .fin _ m e, .fin _ m' e' => (if log then divLog n m e m' e' else divSticky p n m e m' e', {})
    | x, _ => (x, {})

def fpRcp (log : Bool) (p : Nat) (a : Val) : Special := fpDiv log p (.fin false 1 0) a

def fpSqrt (log : Bool) (p : Nat) (a : Val) : Special :=
  match a with
  | .nan n q x => (.nan n q x, invalidOf q)
  | .zero n => (.zero n, {})
  | .inf false => (.inf false, {})
  | .inf true => (Val.defaultNaN, invalidOf true)
  | .fin n m e => if n then (Val.defaultNaN, invalidOf true) else (if log then sqrtLog m e else sqrtSticky p m e, {})

def fpRsq (log : Bool) (p : Nat) (a : Val) : Special :=
  match a with
  | .nan n q x => (.nan n q x, invalidOf q)
  | .zero n => (.inf n, { divZero := true })
  | .inf false => (.zero false, {})
  | .inf true => (Val.defaultNaN, invalidOf true)
  | .fin n m e => if n then (Val.defaultNaN, invalidOf true) else (if log then rsqrtLog m e else rsqrtSticky p m e, {})

def fpExp2 (log : Bool) (p : Nat) (a : Val) : Special :=
  match a with
  | .nan n q x => (.nan n q x, invalidOf q)
  | .zero _ => (.fin false 1 0, {})
  | .inf n => (if n then .zero false else .inf false, {})
  | .fin n m e => (if log then exp2Log n m e else exp2Sticky p n m e, {})

def fpLog2 (log : Bool) (p : Nat) (a : Val) : Special :=
  match a with
  | .nan n q x => (.nan n q x, invalidOf q)
  | .zero _ => (.inf true, { divZero := true })
  | .inf false => (.inf false, {})
  | .inf true => (Val.defaultNaN, invalidOf true)
  | .fin n m e => if n then (Val.defaultNaN, invalidOf true) else (if log then log2Log m e else log2Sticky p m e, {})

/-- One rounding of a special function's value. -/
def roundSpecial (g : FloatFmt) (rm : Rm) (v : Special) : Nat × Exc :=
  let (x, e) := g.round rm 0 false v.1
  (x, e.or v.2)

/-- D := round(g(A)); Q = 10 is the log class. -/
def fnForm (o : Enc) (g : Bool → Nat → Val → Special) : RegForm :=
  let f := o.fmt .f32
  let a := o.litA f.wide (.only f)
  { short := false, srcs := [a], dst := some (o.d.toNat, f.wide),
    body := fun _ t =>
      let ff := floatOf f
      finishElems o f t [roundSpecial ff (roundOf o t) (g (o.q == 2) ff.p (ff.decode (a.value t).toNat))] }

def fdivForm (o : Enc) : RegForm :=
  let f := o.fmt .f32
  let a := o.regA f.wide (.only f)
  let b := o.litB f.wide (.only f)
  { short := false, srcs := [a, b], dst := some (o.d.toNat, f.wide),
    body := fun _ t =>
      let ff := floatOf f
      finishElems o f t [roundSpecial ff (roundOf o t)
        (fpDiv (o.q == 2) ff.p (ff.decode (a.value t).toNat) (ff.decode (b.value t).toNat))] }

def execFdiv (o : Enc) (s : State) : Answer := .next (s.regInstr o (fdivForm o))
def execFrcp (o : Enc) (s : State) : Answer := .next (s.regInstr o (fnForm o fpRcp))
def execFsqrt (o : Enc) (s : State) : Answer := .next (s.regInstr o (fnForm o fpSqrt))
def execFrsq (o : Enc) (s : State) : Answer := .next (s.regInstr o (fnForm o fpRsq))
def execFexp2 (o : Enc) (s : State) : Answer := .next (s.regInstr o (fnForm o fpExp2))
def execFlog2 (o : Enc) (s : State) : Answer := .next (s.regInstr o (fnForm o fpLog2))

/-- A value times 2^n; zeros, infinities and NaNs pass (R147). -/
def scaleVal (n : Int) : Val → Val
  | .fin s m e => .fin s m (e + n)
  | v => v

/-- FSCALB (R147): B is one signed 32-bit register for every element. -/
def fscalbForm (o : Enc) : RegForm :=
  let f := o.fmt .f32
  let a := o.regA f.wide (.only f)
  let b := o.litB false (.only .i32)
  { srcs := [a, b], dst := some (o.d.toNat, f.wide),
    body := fun _ t =>
      let ff := floatOf f
      let n := signed 32 (b.value t).toNat
      finishElems o f t ((List.range f.count).map fun k =>
        let x := ff.decode (elem f.elemBits (a.value t).toNat k)
        roundWith ff (roundOf o t) 0 false (scaleVal n x, x.isSig)) }

def execFscalb (o : Enc) (s : State) : Answer := .next (s.regInstr o (fscalbForm o))

end Sys2Proof.Machine
end

