-- ==== Sys2Proof/Machine/EngineOps.lean ====
section
/-! DEFINITION. What the Geyser, near-memory and collective engines share: their entry, their scratchpad arrays and exact
arithmetic (15 R290, R304, R309), and SPAWN (R315). -/

namespace Sys2Proof.Machine

def addrA (o : Enc) : Opnd := o.regA true (.only .addr)
def seedB (o : Enc) : Opnd := o.regB true (.oneOf [.n64, .i64])

/-- The entry of the core's TLB that serves a write of a lane. -/
def State.entryOf (s : State) (x : Lane) (va : Nat) : Option TlbEntry :=
  let m : Miss := { part := s.partOf x.core, va, write := true, fetch := false, smode := (s.laneThread x).priv }
  (s.core x.core).tlb.find? fun e => e.serves m

/-- An operation enters its engine. -/
def State.startEng (s : State) (x : Lane) (kind : EngKind) (handle descAddr : Nat) (desc : List Byte) (seed seqNo : Nat)
    (pages : List (Nat × Nat)) (number : Nat) : State :=
  let (id, s) := s.newId
  let op : EngOp :=
    { id, kind, part := s.partOf x.core, team := ((s.teamOf x.core x.slot).map Team.id).getD 0, slot := x.slot, handle,
      descAddr, desc, seed, seqNo, pages, via := pages.filterMap fun p => s.entryOf x p.1, started := false, source := [], skip := [], done := [], stop := none, waitRid := none,
      parts := [], chunks := [], resent := 0, number, smode := (s.laneThread x).priv }
  s.modCore x.core fun c => { c with engs := c.engs ++ [op] }

def State.eng (s : State) (b id : Nat) : Option EngOp := (s.core b).engs.find? fun o => o.id == id
def State.modEng (s : State) (b id : Nat) (f : EngOp → EngOp) : State :=
  s.modCore b fun c => { c with engs := c.engs.map fun o => if o.id = id then f o else o }

/-- Room for one more of the kinds (R288). -/
def Core.engRoom (c : Core) (p : EngKind → Bool) (cap : Nat) : Bool := decide ((c.engs.filter fun o => p o.kind).length < cap)

/-- The engines' accesses on core b (17 R348); of them collectives alone use the windows (09 R184). -/
def EngOp.agent (o : EngOp) (b : Nat) : Agent :=
  { part := o.part, smode := o.smode, source := if o.kind = .nmc then 2 else 1, win := o.kind == .coll, issuer := some (b, o.team) }

/-- Bytes of the operation's own scratchpad, with the first poisoned address; none where no bank is there. -/
def State.spadGet (s : State) (b team va n : Nat) : Option (List Byte × Option Nat) :=
  (pageSplit va n).foldl (fun (acc : Option (List Byte × Option Nat)) p =>
    match acc, s.destBank (team, b) p.1 with
    | some (d, bad), some (c, k) =>
      let (e, _) := s.spadRead c k (p.1 % 65536) p.2
      let hit := (List.range p.2).find? fun i => poisonedAt (s.bank c k).poison (p.1 % 65536 + i)
      some (d ++ e, bad.orElse fun _ => hit.map fun i => p.1 + i)
    | _, _ => none) (some ([], none))
def State.spadPut (s : State) (b team va : Nat) (data : List Byte) : State :=
  ((pageSplit va data.length).foldl (fun (acc : State × Nat) p =>
    match acc.1.destBank (team, b) p.1 with
    | some (c, k) => (acc.1.spadWrite c k (p.1 % 65536) ((data.drop acc.2).take p.2), acc.2 + p.2)
    | none => (acc.1, acc.2 + p.2)) (s, 0)).1

/-- The first byte of an own-scratchpad array that steering refuses, line by line (R290 step 6). -/
def State.arrayTrap (s : State) (x : Lane) (va n : Nat) : Option Trap :=
  (pieceBytes (va, n)).findSome? fun a =>
    match s.steer x a { align := 1, write := true } with
    | .trap t => some t
    | _ => none

/-- An operand that must be global, or in the own team's scratchpad, and is neither (R308, R312). -/
def State.ownTrap (s : State) (x : Lane) (va : Nat) : Option Trap :=
  if va / 2 ^ 48 = 0xFFFE then
    match s.memberTeam x (bits va 27 24), s.teamOf x.core x.slot with
    | some (_, t), some own => if t.id = own.id then none else some (aperture va)
    | _, _ => some (aperture va)
  else if va / 2 ^ 57 ≠ 0 then some (aperture va)
  else none

/-- Deterministic mode refuses the instruction at issue (R315). -/
def State.detTrap (s : State) (x : Lane) (opc : Nat) : Option Trap :=
  if (s.hdrOf x.core x.slot).det then some { cause := cDet, info := opc } else none

/-! Exact sums (R304). -/

/-- The exact sum of products: the first NaN operand, the default NaN of an invalid operation, or the value. -/
def sumProducts (ps : List (Val × Val)) : Val :=
  match firstNaN (ps.flatMap fun p => [p.1, p.2]) with
  | some v => v
  | none => match ps with
    | [] => .zero false
    | p :: r => (r.foldl (fun (acc : Val) q =>
        if acc.isNaN then acc
        else
          let (z, bad) := Val.mul .exact q.1 q.2
          if bad then Val.defaultNaN else (Val.add .rne acc z).1) (Val.mul .exact p.1 p.2).1)

/-- round in F32 under RNE, as bits and as a value. -/
def round32 (v : Val) : Nat := (FloatFmt.f32.round .rne 0 false v).1
def round32v (v : Val) : Val := FloatFmt.f32.decode (round32 v)

/-- Element i of packed bytes. -/
def elemAt (d : List Byte) (bytes i : Nat) : Nat := leNat ((d.drop (bytes * i)).take bytes)

/-- An element put into a list in the order of a test, after those it does not precede. -/
def insertBy {α : Type} (before : α → α → Bool) (x : α) : List α → List α
  | [] => [x]
  | y :: r => if before x y then x :: y :: r else y :: insertBy before x r
def sortBy {α : Type} (before : α → α → Bool) (l : List α) : List α := l.foldl (fun acc x => insertBy before x acc) []

/-! SPAWN (R315). -/

def execSpawn (o : Enc) (s : State) : Answer :=
  let d := o.d.toNat
  let a := o.regA false (.oneOf [.n32, .i32])
  let b := o.regB false (.oneOf [.n32, .i32])
  .next (s.onceInstr o [] [a, b] (some (d, false)) fun s x =>
    let t := s.laneThread x
    if !s.quiet x then (s, .hold .waitUnit)
    else
      let (s, st) := s.spawn x (a.value t).toNat (b.value t).toNat
      let s := s.producer x (some d) false (.value (BitVec.ofNat 64 st) .n32)
      (s.releaseAfter x (t.pc + BitVec.ofNat 64 o.bytes), .next))

end Sys2Proof.Machine
end

