-- ==== Sys2Proof/Machine/Matrix.lean ====
section
/-! DEFINITION. Matrix instructions at issue (13 R247 to R256), MMA and MMAS, and the states of an MMA: attempts, the
checksum guard, fault injection, the rail tuner (12 R228 to R246). -/

namespace Sys2Proof.Machine

/-! Issue (R250). -/

/-- The launch header of a team. -/
def State.teamHdr (s : State) (t : Team) : Header := ((s.launch t.part t.launch).map Launch.hdr).getD {}

def tasTileSize (dbl : Bool) : Nat := if dbl then 0x40000 else 0x20000
def Tile.tasBase (t : Tile) : Nat := t.base % 2 ^ 22

/-- Row and column group of the blocks a TAS tile touches (R262), rows first. -/
def Tile.blocks (t : Tile) : List (Nat × Nat) :=
  (List.range t.rows).flatMap fun r => (List.range (ceilDiv t.cols 16)).map (r, ·)

/-- The 128-byte unit where block (r, c) of the team's tile at `base` starts (09 R188, R189). -/
def Team.block (t : Team) (dbl : Bool) (base : Nat) (b : Nat × Nat) : Nat :=
  (t.units[base / tasTileSize dbl]?).getD 0 * 1024 + (if dbl then 2 else 1) * (8 * b.1 + b.2)

def fmtTrap (t : Tile) (n : Nat) : Trap := { cause := cFormat, info := 0xA0 + t.fmt, addr := BitVec.ofNat 64 n }

/-- The own fields of a TAS tile named by register n. -/
def tasTileTrap (h : Header) (t : Tile) (n : Nat) : Option Trap :=
  let size := tasTileSize h.tas64
  if t.space ≠ 2 then some (access 0x07 n)
  else if 128 < t.rows ∨ 128 < t.cols then some (access 0x08 n)
  else if t.tasBase % size ≠ 0 ∨ h.tasN * size ≤ t.tasBase then some (access 0x0A n)
  else none

def Tile.sameShape (t u : Tile) : Bool := t.rows == u.rows && t.cols == u.cols

/-- The first trap of checks made in order. -/
def firstTrap (l : List (Bool × Trap)) : Option Trap := (l.find? fun x => x.1).map (·.2)

/-- What passes the descriptor checks: tile bases to align, memory ranges (address, bytes, written), the TAS tile written,
the span (core, team), the tile registers, and the operands. -/
structure MatIssue where
  opc : Nat
  tiles : List Nat
  bases : List Nat
  ranges : List (Nat × Nat × Bool)
  writes : Option Tile
  width : Option Nat := none
  span : List (Nat × Nat)
  a : DWord := 0
  b : DWord := 0
  c : DWord := 0
  rm : Nat := 0

/-- Steering of every byte of a range: the pages of a global one (R250 step 5). -/
def State.matRange (s : State) (x : Lane) (r : Nat × Nat × Bool) : List (Nat × Nat) ⊕ LaneOut :=
  let at_ := if r.1 / 2 ^ 48 = 0xFFFE then pieceBytes (r.1, r.2.1) else (pageSplit r.1 r.2.1).map (·.1)
  at_.foldl (fun (acc : List (Nat × Nat) ⊕ LaneOut) va =>
    match acc with
    | .inr o => .inr o
    | .inl l => match s.steerAp x va { align := 1, write := r.2.2 } with
      | .mem (.glob pa) => .inl (l ++ [(va, pa)])
      | .trap t => .inr (.trap t)
      | .miss m => .inr (.miss m)
      | _ => .inl l) (.inl [])
def State.matPages (s : State) (x : Lane) (rs : List (Nat × Nat × Bool)) : List (Nat × Nat) ⊕ LaneOut :=
  rs.foldl (fun (acc : List (Nat × Nat) ⊕ LaneOut) r =>
    match acc with
    | .inr o => .inr o
    | .inl l => match s.matRange x r with
      | .inl l' => .inl (l ++ l')
      | .inr o => .inr o) (.inl [])

/-- The blocks a tile claims in member n's team, by their number within the team: of an MMA's, those that the member's columns
reach, `width` being the result columns of all (R255, R257). -/
def claimBlocks (dbl : Bool) (t : Tile) (width : Option Nat) (n : Nat) : List Nat :=
  (t.blocks.filter fun b => match width with
    | some w => decide (128 * n + 16 * b.2 < w)
    | none => true).map fun b => t.tasBase / tasTileSize dbl * 1024 + 8 * b.1 + b.2

/-- TAS_CONFLICT: the first block that another crew has claimed (R255). -/
def State.claimTrap (s : State) (x : Lane) (q : MatIssue) : Option Trap :=
  let h := s.hdrOf x.core x.slot
  let own := ((s.teamOf x.core x.slot).map Team.id).getD 0
  let idx := ((s.crew x.core x.slot).map Crew.idx).getD 0
  match q.writes with
  | none => none
  | some t =>
    if !h.det then none
    else ((List.range q.span.length).zip q.span).findSome? fun m =>
      match (s.core m.2.1).team m.2.2 with
      | none => none
      | some tm => (claimBlocks h.tas64 t q.width m.1).findSome? fun k =>
          if tm.claims.any fun c => c.block == k && (c.team != own || c.crew != idx) then
            some { cause := cTasConflict, info := k % 1024 + m.1 * 1024 }
          else none

/-- The claims made (R255). -/
def State.claimTas (s : State) (x : Lane) (q : MatIssue) : State :=
  let h := s.hdrOf x.core x.slot
  let own := ((s.teamOf x.core x.slot).map Team.id).getD 0
  let idx := ((s.crew x.core x.slot).map Crew.idx).getD 0
  match q.writes with
  | none => s
  | some t =>
    if !h.det then s
    else ((List.range q.span.length).zip q.span).foldl (fun (s : State) m => s.modTeam m.2.1 m.2.2 fun tm =>
      { tm with claims := tm.claims ++ ((claimBlocks h.tas64 t q.width m.1).filter fun k => !(tm.claims.any fun c => c.block == k)).map fun k =>
          { block := k, team := own, crew := idx } }) s

/-- Entries in the array queue of a core (12 R232). -/
def State.queued (s : State) (b : Nat) : Nat := (s.arrays.filter fun a => a.span.any fun m => m.1 == b).length

/-- Steps 4 to 7 of R250. Entries of both kinds take the queue's places (R232, R251; log entry 99). -/
def State.enterArray (s : State) (x : Lane) (o : Enc) (q : MatIssue) : State × LaneOut :=
  match q.bases.find? fun va => va % 128 != 0 with
  | some va => (s, .trap (align 128 va))
  | none => match s.matPages x q.ranges with
    | .inr r => (s, r)
    | .inl pages => match s.claimTrap x q with
      | some r => (s, .trap r)
      | none =>
        if q.span.any fun m => decide (8 ≤ s.queued m.1) then (s, .hold .waitUnit)
        else match s.newHandle x 1 with
          | none => (s, .hold .waitUnit)
          | some (k, h, s) =>
            let (id, s) := (s.claimTas x q).newId
            let regs := q.tiles.map fun n => match s.crew x.core x.slot with
              | some c => c.tile n
              | none => 0
            let op : ArrayOp :=
              { id, slot := x.slot, lane := x.lane, handle := k, span := q.span, tileReg := q.tiles.headD 0,
                job := { opc := q.opc, enc := o, tiles := regs, a := q.a, b := q.b, c := q.c, rm := q.rm, pages },
                st := .queued, attempt := 1, emax := 0, good := [], guardRows := [], guardCols := [], scales := [], errs := [],
                located := [], corr := 0, injected := {}, armed := [] }
            let s := { s with arrays := s.arrays ++ [op] }
            (s.put x o.d.toNat false (BitVec.ofNat 64 h) .handle, .next)

/-- A matrix instruction: its delivery group comes first, then operands, then its own checks (R247, R240). -/
def State.matInstr (s : State) (o : Enc) (srcs : List Opnd) (act : State → Lane → State × LaneOut) : State :=
  s.onceInstr o [1] srcs (some (o.d.toNat, false)) act

/-- The span of an instruction on the issuing core alone. -/
def State.ownSpan (s : State) (x : Lane) : List (Nat × Nat) := [(x.core, ((s.teamOf x.core x.slot).map Team.id).getD 0)]

/-! Operand access of an entry (R252). -/

/-- The core and bank behind a scratchpad address: of the own team or of a member of its gang. -/
def State.opBank (s : State) (o : ArrayOp) (va : Nat) : Option (Nat × Nat) :=
  match o.span.head? with
  | none => none
  | some (b, id) => match (s.core b).team id with
    | none => none
    | some t =>
      let m := bits va 27 24
      let who := if m = 15 ∨ m = s.f1 t then some (b, t) else s.member t m
      who.bind fun w => (w.2.banks[bits va 21 16]?).map (w.1, ·)

/-- The PA of a global operand's byte, as translated at issue. -/
def ArrayJob.pa (j : ArrayJob) (va : Nat) : Nat :=
  match j.pages.find? fun p => p.1 / 4096 == va / 4096 && decide (p.1 ≤ va) with
  | some p => p.2 + (va - p.1)
  | none => 0

/-- Bytes of an operand: a wait for an absent line, a team that is gone, or poison, by address. -/
def State.opRead (s : State) (o : ArrayOp) (va n : Nat) : State × Got (List Byte) :=
  (pageSplit va n).foldl (fun (acc : State × Got (List Byte)) p =>
    let s := acc.1
    match acc.2 with
    | .ok d =>
      if p.1 / 2 ^ 48 = 0xFFFE then
        match s.opBank o p.1 with
        | none => (s, .fault p.1)
        | some (b, k) =>
          let off := p.1 % 65536
          if (List.range ((off + p.2 - 1) / 128 + 1 - off / 128)).any fun i => s.lineCount b k (off / 128 + i) != 0 then (s, .wait 0)
          else match (List.range p.2).find? fun i => poisonedAt (s.bank b k).poison (off + i) with
            | some i => (s, .poison (p.1 + i))
            | none => (s, .ok (d ++ (s.spadRead b k off p.2).1))
      else
        let pa := o.job.pa p.1
        match s.l2Read (s.partOf ((o.span.headD (0, 0)).1)) pa p.2 with
        | (s, _, true) => (s, .poison (s.poisonAt pa p.1 p.2))
        | (s, e, false) => (s, .ok (d ++ e))
    | _ => acc) (s, .ok [])

/-- Reads in order, the first failure ending them. -/
def State.opReads (s : State) (o : ArrayOp) (l : List (Nat × Nat)) : State × Got (List (List Byte)) :=
  l.foldl (fun (acc : State × Got (List (List Byte))) r =>
    match acc.2 with
    | .ok ds => match acc.1.opRead o r.1 r.2 with
      | (s, .ok d) => (s, .ok (ds ++ [d]))
      | (s, .wait w) => (s, .wait w)
      | (s, .fault v) => (s, .fault v)
      | (s, .poison v) => (s, .poison v)
    | _ => acc) (s, .ok [])

/-- Whether every global line of the ranges may be registered now (09 R182). -/
def State.opClaims (s : State) (o : ArrayOp) (l : List (Nat × Nat)) : State × Bool :=
  let b := (o.span.headD (0, 0)).1
  (l.flatMap fun r => if r.1 / 2 ^ 48 = 0xFFFE then [] else pageSplit r.1 r.2).foldl (fun (acc : State × Bool) p =>
    let pa := paAddr (o.job.pa p.1)
    (List.range ((pa + p.2 - 1) / 128 + 1 - pa / 128)).foldl (fun (acc : State × Bool) i =>
      let (s, ok) := acc.1.claimLine b (pa / 128 + i)
      (s, acc.2 && ok)) acc) (s, true)

/-- Bytes of a destination written: at the bank, or registered at home by the core, whose own copy is dropped. -/
def State.opWrite (s : State) (o : ArrayOp) (va : Nat) (data : List Byte) : State :=
  let b := (o.span.headD (0, 0)).1
  ((pageSplit va data.length).foldl (fun (acc : State × Nat) p =>
    let s := acc.1
    let d := (data.drop acc.2).take p.2
    (if p.1 / 2 ^ 48 = 0xFFFE then
      match s.opBank o p.1 with
      | none => s
      | some (c, k) => s.spadWrite c k (p.1 % 65536) d
    else
      let pa := o.job.pa p.1
      ((s.holdCode b ((o.span.head?).map (·.2)) pa p.2).register (s.partOf b) b pa d).1.cacheDrop b pa p.2, acc.2 + p.2)) (s, 0)).1

/-- The issuing lane's own earlier stores and atomics have been performed (R252). -/
def State.storesSeen (s : State) (o : ArrayOp) : Bool :=
  let b := (o.span.headD (0, 0)).1
  let n := (s.handle b o.handle).seq
  ((s.core b).pendOf o.slot o.lane).all fun p => !(p.isMem && !p.isLoad && p.orders.any fun e => e.1 == o.lane && decide (e.2.1 < n))

/-- An entry that rollback would do twice has begun writing (R254). -/
def State.begunWriting (s : State) (o : ArrayOp) : State :=
  let b := (o.span.headD (0, 0)).1
  let n := (s.handle b o.handle).seq
  s.modThread b o.slot o.lane fun t => { t with wrote := max t.wrote n }

/-- An add into a block; a poisoned block stays poisoned (log entry 31). -/
def Core.addTas (c : Core) (idx : Nat) (dbl : Bool) (vs : List Val) : Core :=
  { c.setTas (bfpAdd (c.tasBlock idx dbl) vs) with tasPoison := c.tasPoison }

/-! MMA and MMAS (R256). -/

/-- What an MMA is of, from its fields and descriptors. -/
structure Mma where
  tD : Tile
  tA : Tile
  tB : Tile
  fA : Tag
  fB : Tag
  q : Nat
  h : Nat
  k0 : Nat
  k : Nat
  nsp : Option Nat
  deriving DecidableEq, Repr

def Mma.of (opc : Nat) (o : Enc) (td ta tb : Tile) (k0 : Nat) : Mma :=
  { tD := td, tA := ta, tB := tb, fA := o.fmt .raw, fB := (Tag.ofCode tb.fmt).getD .raw, q := o.q.toNat, h := o.modBits 5 0 + 1, k0,
    k := o.w2Bits 26 17 + 1, nsp := if opc = 0xA1 then some (([2, 3, 4, 6, 8][o.w2Bits 16 14]?).getD 2) else none }

def mmaSpan (o : Enc) : Nat := 2 ^ o.w2Bits 13 12
def ArrayOp.mma (o : ArrayOp) : Mma :=
  let t (i : Nat) : Tile := Tile.of ((o.job.tiles[i]?).getD 0)
  Mma.of o.job.opc o.job.enc (t 0) (t 1) (t 2) o.job.a.toNat

def Mma.m (i : Mma) : Nat := i.tA.rows
def Mma.n (i : Mma) : Nat := i.tB.cols
def Mma.kk (i : Mma) : Nat := i.tB.rows
def Mma.isLog (i : Mma) : Bool := i.q == 2
def Mma.cls (i : Mma) : AccClass := if i.q = 0 then .exact else if i.q = 1 then .trunc i.fB.planes i.h else .log
def Mma.keff (i : Mma) : Nat := match i.nsp with
  | some n => i.k * n / 12
  | none => i.k
def Mma.offsA (i : Mma) : Bool := i.tA.layout == 3 && i.tA.offs != 0
def Mma.offsB (i : Mma) : Bool := i.tB.layout == 4 && i.tB.offs != 0
/-- Result columns of member n. -/
def Mma.cols (i : Mma) (n : Nat) : Nat := min i.n (128 * n + 128) - 128 * n

def isFp8 (t : Tag) : Bool := t == .e4m3x4 || t == .e5m2x4

/-- The descriptor checks in the order of the tiles (R250, R256): FMT, reason 0x07, then 0x08 and 0x0A of each. A tD whose format is FT's
but whose team's TAS64 is not traps with reason 0x07 naming tD, and an h above the planes of tB's format with 0x07 naming tB (log
entry 98). -/
def Mma.trap (i : Mma) (h : Header) (span td ta tb : Nat) : Option Trap :=
  let planes := (planeFmt i.fB).map PlaneFmt.sp
  (firstTrap [(i.tD.fmt != (if i.fA = .f64 then Tag.f64 else Tag.f32).code, fmtTrap i.tD td),
    (i.tD.space != 2 || h.tas64 != (i.fA == .f64), access 0x07 td)]).orElse fun _ =>
  (tasTileTrap h i.tD td).orElse fun _ =>
  firstTrap [(i.tA.fmt != i.fA.code, fmtTrap i.tA ta),
    (i.tA.space != 1 || !(i.tA.layout == 0 && i.tA.offs == 0 || i.tA.layout == 3) || (i.tA.sparse != 0) != i.nsp.isSome, access 0x07 ta),
    (decide (128 < i.m), access 0x08 ta),
    (i.tD.rows != i.m, access 0x07 ta),
    (i.tB.fmt != i.fA.code && !(isFp8 i.fA && isFp8 i.fB), fmtTrap i.tB tb),
    (i.tB.space != 1 || !(i.tB.layout == 2 && i.tB.offs == 0 || i.tB.layout == 4), access 0x07 tb),
    (decide (128 * span < i.n), access 0x08 tb),
    ((2 ≤ span && i.n ≤ 64 * span) || (i.nsp.isSome && i.kk % 12 != 0) || (i.q == 1 && (planes.getD 0) < i.h), access 0x07 tb),
    (i.tD.cols != min i.n 128 || i.tA.cols != (match i.nsp with | some n => i.kk * n / 12 | none => i.kk), access 0x07 tb),
    (decide (i.kk < i.k0 + i.k), access 0x08 tb),
    ((i.offsA && i.k0 % 32 != 0) || (i.nsp.isSome && (i.k0 % 12 != 0 || i.k % 12 != 0)), access 0x07 ta),
    (i.offsB && i.k0 % 32 != 0, access 0x07 tb)]

/-- The bytes of A, B, the metadata, the offset planes and the scales. -/
def Mma.ranges (i : Mma) : List (Nat × Nat × Bool) :=
  let rec_ := ((planeFmt i.fB).map fun f => recordSize f i.n).getD 0
  let nb := ceilDiv i.kk 32
  [(i.tA.gbase, ceilDiv (i.m * i.tA.cols * i.fA.elemBits) 8, false)] ++
  (if i.nsp.isSome then [(ownSpad i.tA.sparse, i.m * (i.kk / 12) * 2, false)] else []) ++
  (if i.offsA then [(ownSpad i.tA.offs, i.m * nb, false)] else []) ++
  (if i.tA.scale ≠ 0 then [(ownSpad i.tA.scale, 4, false)] else []) ++
  [(i.tB.gbase, i.kk * rec_, false)] ++
  (if i.offsB then [(ownSpad i.tB.offs, i.n * nb, false)] else []) ++
  (if i.tB.scale ≠ 0 then [(ownSpad i.tB.scale, 4, false)] else [])

/-- The members of a span, or the trap of one that cannot be formed (R250, R256). -/
def State.spanOf (s : State) (x : Lane) (n : Nat) : Trap ⊕ List (Nat × Nat) :=
  match s.teamOf x.core x.slot with
  | none => .inl (access 0x09 0)
  | some t =>
    let f := s.f1 t
    if f % n ≠ 0 ∨ s.e1 t < f + n then .inl (access 0x09 0)
    else
      let ms := (List.range n).map fun i => if i = 0 then some (x.core, t) else s.member t (f + i)
      if ms.any Option.isNone || t.killed then .inl (access 0x03 0)
      else .inr ((ms.filterMap id).map fun m => (m.1, m.2.id))

def State.mmaIssue (s : State) (x : Lane) (opc : Nat) (o : Enc) (k0 : DWord) : State × LaneOut :=
  let td := o.w2Bits 3 0
  let ta := o.w2Bits 7 4
  let tb := o.w2Bits 11 8
  let i := Mma.of opc o (s.tile x td) (s.tile x ta) (s.tile x tb) k0.toNat
  match i.trap (s.hdrOf x.core x.slot) (mmaSpan o) td ta tb with
  | some r => (s, .trap r)
  | none => match s.spanOf x (mmaSpan o) with
    | .inl r => (s, .trap r)
    | .inr span =>
      let n := s.nextId
      let (s', out) := s.enterArray x o { opc, tiles := [td, ta, tb], bases := [i.tA.gbase, i.tB.gbase], ranges := i.ranges, writes := some i.tD, width := some i.n, span, a := k0 }
      -- the record of tD is this MMA's from now on (R258)
      match (s'.arrays.getLast?).bind fun a => if n ≤ a.id then some a.id else none with
      | some id => (s'.modCrew x.core x.slot fun c => c.setRec td { op := some id }, out)
      | none => (s', out)

def k0Opnd (o : Enc) : Opnd := o.regA false (.oneOf [.n32, .i32])

def execMma (o : Enc) (s : State) : Answer :=
  .next (s.matInstr o [k0Opnd o] fun s x => s.mmaIssue x 0xA0 o ((k0Opnd o).value (s.laneThread x)))
def execMmas (o : Enc) (s : State) : Answer :=
  .next (s.matInstr o [k0Opnd o] fun s x => s.mmaIssue x 0xA1 o ((k0Opnd o).value (s.laneThread x)))

/-- TCHK (R258): the record, once its MMA has ended. -/
def execTchk (o : Enc) (s : State) : Answer :=
  let d := o.d.toNat
  .next (s.matInstr o [] fun s x =>
    let r := match s.crew x.core x.slot with
      | some c => c.record (o.w2Bits 3 0)
      | none => {}
    let kind : PendKind := match r.op with
      | some id => .tchk id
      | none => .value (r.word.setWidth 64) .n32
    (s.producer x (some d) false kind, .next))

/-! The cells (12 R228 to R236, 06 R124 to R126). -/

/-- top(F) (R124). -/
def topOf : Tag → Int
  | .f64 => 1024 | .f32 | .bf16x2 => 128 | .f16x2 | .e5m2x4 => 16 | .e4m3x4 => 9 | .e2m1x8 => 3
  | .i8x4 | .n8x4 => 8 | .i4x8 => 4 | _ => 0

/-- A finite value truncated toward zero onto the grid of 2^q, counted in it. -/
def truncGrid (v : Val) (q : Int) : Int :=
  match v with
  | .fin n m e =>
    let a : Nat := if q ≤ e then m <<< (e - q).toNat else m >>> (q - e).toNat
    if n then -(a : Int) else a
  | _ => 0

/-- The value the engine reads from a record (R229). The log class takes the class of an element from its sign and exponent planes
and its magnitude from its log word; its significand tells only what these leave open, Inf from NaN and the integer 1 from 0, whose
log words are all zero. The truncated class knows the top `h` significand planes alone, and takes the others as zeros in whatever it makes of
an element (log entry 32). -/
def readPlanes (t : Tag) (f : PlaneFmt) (log : Bool) (h : Nat) (e : Nat × Nat × Nat × Nat) : Val :=
  let (sg, ex, all, word) := e
  let m := all / 2 ^ (f.sp - h) * 2 ^ (f.sp - h)
  let neg := sg == 1
  let fr := word % 2 ^ (f.sp - 1)
  let logged : Val := .fin neg (2 ^ (f.sp - 1) + fr) (signed f.we (word >>> (f.sp - 1)) - (f.sp - 1 : Nat))
  match t.elemFmt with
  | .float g =>
    let top := ex == 2 ^ g.ebits - 1
    if top && g.hasInf then (if m % 2 ^ (g.p - 1) = 0 then .inf neg else Val.defaultNaN)
    else if log then
      if top && g.hasNaN && word == 0 then Val.defaultNaN else if ex = 0 ∧ word = 0 then .zero neg else logged
    else if top && g.hasNaN && m % 2 ^ (g.p - 1) == 7 then Val.defaultNaN
    else if m = 0 then .zero neg
    else Val.mk neg m ((max ex 1 : Nat) - (g.bias : Int) - (g.p - 1 : Nat))
  | _ => if log && word != 0 then logged else if m = 0 then .zero neg else if log then logged else Val.mk neg m 0

/-- One cell: its sum P on the grid 2^q, its special state, and the exact sum of its present finite terms (R124, R126,
R234). A row gives (position, value, offset), an offset that is NaN being none. -/
def cellOf (c : AccClass) (q : Int) (row : List (Nat × Val × Option Int)) (col : Array (Val × Option Int)) : CellSum × Val :=
  row.foldl (fun (acc : CellSum × Val) t =>
    let special (k : Nat) : CellSum × Val := ({ acc.1 with spec := mergeSpec acc.1.spec k }, acc.2)
    match col[t.1]? with
    | none => acc
    | some (b, ob) => match t.2.2, ob with
      | some x, some y =>
        if t.2.1.isNaN || b.isNaN then special 3
        else match Val.mul c t.2.1 b with
          | (_, true) => special 3
          | (.inf n, _) => special (if n then 2 else 1)
          | (.fin n m e, _) =>
            let v := Val.fin n m (e + x + y)
            ({ acc.1 with p := acc.1.p + truncGrid v q }, (Val.add .rne acc.2 v).1)
          | _ => acc
      | _, _ => special 3) ({ p := 0, spec := 0 }, .zero false)

/-- The offset of a byte of a plane: E8M0 less its bias, or none where it is NaN. -/
def offsetOf (plane : Option (Array Byte)) (i : Nat) : Option Int :=
  match plane with
  | none => some 0
  | some a => match a[i]? with
    | some b => if b = 255 then none else some ((b.toNat : Int) - 127)
    | none => some 0

def maxOffset (l : List (Option Int)) : Int :=
  ((l.filterMap id).foldl (fun (m : Option Int) x => some (match m with
    | none => x
    | some y => max x y)) none).getD 0

/-- Stored positions of row i of a sparse A within the K range, or the offset of its first malformed metadata word (R233). -/
def Mma.sparseRow (i : Mma) (nsp row : Nat) (md : Array Byte) : List (Nat × Nat) ⊕ Nat :=
  (List.range (i.k / 12)).foldl (fun (acc : List (Nat × Nat) ⊕ Nat) g =>
    match acc with
    | .inr a => .inr a
    | .inl l =>
      let g' := i.k0 / 12 + g
      let at_ := 2 * (row * (i.kk / 12) + g')
      let w := ((md[at_]?).getD 0).toNat + 256 * ((md[at_ + 1]?).getD 0).toNat
      if w / 4096 ≠ 0 ∨ popcount w 12 ≠ nsp then .inr at_
      else
        let ps := bitList w 12
        .inl (l ++ ((List.range nsp).zip ps).map fun p => (12 * g + p.2, g' * nsp + p.1))) (.inl [])

/-- The product of an attempt: the anchor, and per member its cells, guard rows and guard columns. -/
structure MmaSums where
  emax : Int
  good : List (List CellSum)
  rows : List (List Int)
  cols : List (List Int)

/-- The sums from the operands' bytes (A, metadata, offsets of A, B's records in the K range, offsets of B), or the first
malformed metadata word. -/
def Mma.sums (i : Mma) (span : Nat) (a md : List Byte) (oa : Option (List Byte)) (b : List (List Byte)) (ob : Option (List Byte)) :
    MmaSums ⊕ Nat :=
  match planeFmt i.fB with
  | none => .inl ⟨0, [], [], []⟩
  | some f =>
    let nb := ceilDiv i.kk 32
    let oa := oa.map List.toArray
    let ob := ob.map List.toArray
    let md := md.toArray
    let blocks := (List.range ((i.k0 + i.k - 1) / 32 + 1 - i.k0 / 32)).map (i.k0 / 32 + ·)
    let maxA := maxOffset ((List.range i.m).flatMap fun r => blocks.map fun k => offsetOf oa (r * nb + k))
    let maxB := maxOffset ((List.range i.n).flatMap fun c => blocks.map fun k => offsetOf ob (c * nb + k))
    let emax := topOf i.fA + topOf i.fB + maxA + maxB
    let av := leNat a
    let w := i.fA.elemBits
    let places (r : Nat) : List (Nat × Nat) ⊕ Nat :=
      match i.nsp with
      | some n => i.sparseRow n r md
      | none => .inl ((List.range i.k).map fun t => (t, i.k0 + t))
    let rows := (List.range i.m).foldl (fun (acc : List (List (Nat × Val × Option Int)) ⊕ Nat) r =>
      match acc with
      | .inr x => .inr x
      | .inl l => match places r with
        | .inr x => .inr x
        | .inl ps => .inl (l ++ [ps.map fun p =>
            (p.1, i.fA.elemFmt.decode (elem w av (r * i.tA.cols + p.2)), offsetOf oa (r * nb + (i.k0 + p.1) / 32))])) (.inl [])
    match rows with
    | .inr x => .inr x
    | .inl rows =>
      let column (j : Nat) : Array (Val × Option Int) :=
        (((List.range b.length).zip b).map fun r =>
          (readPlanes i.fB f i.isLog (if i.q = 1 then i.h else f.sp) (recordElem f i.n r.2 j), offsetOf ob (j * nb + (i.k0 + r.1) / 32))).toArray
      let q := emax - 85
      let blocks := (List.range span).map fun n =>
        let cols := (List.range (i.cols n)).map fun j => column (128 * n + j)
        rows.map fun r => cols.map fun c => cellOf i.cls q r c
      let total (l : List Val) : Int := truncGrid (l.foldl (fun acc v => (Val.add .rne acc v).1) (.zero false)) q
      .inl { emax,
             good := blocks.map fun bl => bl.flatMap fun r => r.map (·.1),
             rows := blocks.map fun bl => bl.map fun r => total (r.map (·.2)),
             cols := ((List.range span).zip blocks).map fun x =>
               (List.range (i.cols x.1)).map fun j => total (x.2.filterMap fun r => (r[j]?).map (·.2)) }

/-! The states of R239. -/

def State.array (s : State) (id : Nat) : Option ArrayOp := s.arrays.find? fun a => a.id == id
def State.modArray (s : State) (id : Nat) (f : ArrayOp → ArrayOp) : State :=
  { s with arrays := s.arrays.map fun a => if a.id = id then f a else a }

def ArrayOp.isMma (o : ArrayOp) : Bool := o.job.opc == 0xA0 || o.job.opc == 0xA1

/-- The entry is the oldest of every queue it has entered. -/
def State.oldest (s : State) (o : ArrayOp) : Bool :=
  s.arrays.all fun a => decide (o.id ≤ a.id) || !(a.span.any fun m => o.span.any fun k => k.1 == m.1)

/-- An MMA in one of its states, by its name. -/
def State.mmaIn (s : State) (id : Nat) (st : ArrayState) (f : ArrayOp → State) : Answer :=
  .next (match s.array id with
    | none => s
    | some o => if o.isMma && o.st == st then f o else s)

/-- MMA_START (R232): the arrays are claimed, the followers slaved. -/
def execMmaStart (id : Nat) (s : State) : Answer :=
  s.mmaIn id .queued fun o => if s.oldest o then s.modArray id fun o => { o with st := .rail } else s

/-- A window of the tuner (R243). -/
def tunerWindow := 2 ^ 16

/-- The tuner's step, once its window is full: by CRTARGET, on the 2.5 mV grid, the counts returning to zero (R243). -/
def Rail.step (r : Rail) (target : Nat) : Rail :=
  if r.retired < tunerWindow then r
  else
    let v := if target = 0 then 7500
      else if 0 < r.r ∨ r.failed ∨ target < 16 * r.c then min (r.v + 25) 7500
      else if 16 * r.c < target then max (r.v - 25) 5000
      else r.v
    { r with v, retired := 0, c := 0, r := 0, failed := false }

def State.modRail (s : State) (b : Nat) (f : Rail → Rail) : State := s.modCore b fun c => { c with rail := f c.rail }

/-- The tuner of a core counts (R243): a window that is full ends before anything is counted in the next. -/
def State.tune (s : State) (b : Nat) (f : Rail → Rail) : State :=
  s.modCore b fun c => { c with rail := f (c.rail.step c.crTarget.toNat) }

/-- The voltage of an attempt on a core's rail (R239, R242). -/
def Rail.attempt (r : Rail) (log : Bool) (n : Nat) : Nat :=
  if log || n == 4 then 7500 else min (r.v + 250 * (n - 1)) 7500

/-- MMA_RAIL_READY (R239): every spanned rail stands at the attempt's voltage. A rail raised for it stands there whatever the tuner makes
of V meanwhile (R242, R243). -/
def execMmaRailReady (id : Nat) (s : State) : Answer :=
  s.mmaIn id .rail fun o =>
    let s := o.span.foldl (fun (s : State) m => s.modRail m.1 fun r =>
      let v := r.attempt o.mma.isLog o.attempt
      { r with raised := if o.mma.isLog || o.attempt != 1 then some v else none, extra := max r.extra (v - r.v) }) s
    s.modArray id fun o => { o with st := .fetch }

/-- The bytes of a record the class reads, no padding among them (R229). -/
def Mma.recordReads (i : Mma) (f : PlaneFmt) : List (Nat × Nat) :=
  let w := padBytes i.n
  let planes (k : Nat) : List (Nat × Nat) :=
    if 8 * w = i.n then [(0, w * k)] else (List.range k).map fun j => (w * j, ceilDiv i.n 8)
  if i.isLog then planes (1 + f.ep) ++ [(w * (1 + f.ep + f.sp), ceilDiv (i.n * f.l) 8)]
  else planes (1 + f.ep + (if i.q = 1 then i.h else f.sp))

/-- The parts of A, its metadata and the offset planes that the K range needs, as address and bytes (R229): elements at A's packing,
metadata words of the groups, offsets of the K-blocks. -/
def Mma.partsRead (i : Mma) : List (Nat × Nat) :=
  let nb := ceilDiv i.kk 32
  let (b0, b1) := (i.k0 / 32, (i.k0 + i.k - 1) / 32 + 1)
  let (c0, cn) := match i.nsp with
    | some n => (i.k0 / 12 * n, i.k / 12 * n)
    | none => (i.k0, i.k)
  let w := i.fA.elemBits
  (List.range i.m).map (fun r =>
    let lo := (r * i.tA.cols + c0) * w / 8
    (i.tA.gbase + lo, ceilDiv ((r * i.tA.cols + c0 + cn) * w) 8 - lo)) ++
  (if i.nsp.isSome then (List.range i.m).map fun r => (ownSpad i.tA.sparse + 2 * (r * (i.kk / 12) + i.k0 / 12), 2 * (i.k / 12)) else []) ++
  (if i.offsA then (List.range i.m).map fun r => (ownSpad i.tA.offs + r * nb + b0, b1 - b0) else []) ++
  (if i.offsB then (List.range i.n).map fun c => (ownSpad i.tB.offs + c * nb + b0, b1 - b0) else [])

/-- The bytes of scratchpad operands as they stand. -/
def State.rawBytes (s : State) (o : ArrayOp) (r : Nat × Nat) : List Byte := (pageSplit r.1 r.2).flatMap fun p =>
  match s.opBank o p.1 with
  | some (b, k) => (s.spadRead b k (p.1 % 65536) p.2).1
  | none => []

/-- The operands of an attempt: A, metadata, offsets and scales, then B's records. Only the parts that the class and the K range need
are read: they alone decide on absent lines and poison. -/
def State.mmaFetch (s : State) (o : ArrayOp) (i : Mma) : State × Got (List (List Byte)) :=
  match planeFmt i.fB with
  | none => (s, .ok [])
  | some f =>
    let size := recordSize f i.n
    let opt (p : Bool) (unit n : Nat) : Nat × Nat := if p then (ownSpad unit, n) else (ownSpad unit, 0)
    let nb := ceilDiv i.kk 32
    let scales := [opt (i.tA.scale != 0) i.tA.scale 4, opt (i.tB.scale != 0) i.tB.scale 4]
    let records := (List.range i.k).flatMap fun r => (i.recordReads f).map fun p => (i.tB.gbase + (i.k0 + r) * size + p.1, p.2)
    let whole := [(i.tA.gbase, ceilDiv (i.m * i.tA.cols * i.fA.elemBits) 8), opt i.nsp.isSome i.tA.sparse (i.m * (i.kk / 12) * 2),
      opt i.offsA i.tA.offs (i.m * nb), opt i.offsB i.tB.offs (i.n * nb)]
    match s.opReads o (i.partsRead ++ scales ++ records) with
    | (s, .ok _) => (s, .ok ((whole ++ scales ++ (List.range i.k).map fun r => (i.tB.gbase + (i.k0 + r) * size, size)).map (s.rawBytes o)))
    | r => r

/-- MMA_OPERANDS_DELIVERED (R239, R236): the anchor is fixed. -/
def execMmaOperandsDelivered (id : Nat) (s : State) : Answer :=
  s.mmaIn id .fetch fun o =>
    let i := o.mma
    if !s.storesSeen o then s
    else match s.mmaFetch o i with
      | (_, .wait _) => s
      | (_, .fault _) => (s.endArray o outcomeAbandoned 0).wakeAll
      | (_, .poison va) => (s.endArray o outcomePoisoned va).wakeAll
      | (_, .ok (a :: md :: oa :: ob :: sa :: sb :: b)) =>
        match i.sums o.span.length a md (if i.offsA then some oa else none) b (if i.offsB then some ob else none) with
        | .inr at_ => (s.endArray o outcomeMalformed (ownSpad i.tA.sparse + at_)).wakeAll
        | .inl r =>
          let one (d : List Byte) : Nat := if d.isEmpty then 0x3F800000 else leNat d
          s.modArray id fun o => { o with st := .compute, emax := r.emax, good := r.good, guardRows := r.rows, guardCols := r.cols,
                                          scales := [one sa, one sb], errs := [] }
      | (_, .ok _) => s

/-- P of a cell as it stands, errors included: 96 bits (R228). -/
def ArrayOp.cell (o : ArrayOp) (n i j : Nat) : Int :=
  let w := o.mma.cols n
  let good := if i < o.mma.m ∧ j < w then (((o.good[n]?).getD [])[i * w + j]?).map CellSum.p else none
  let d := (o.errs.filter fun e => e.member == n && e.row == i && e.col == j).foldl (fun a e => a + e.d) 0
  signed 96 (wrap 96 (good.getD 0 + d))

/-- The errors of cells run below 0.75 V (R238; log entry 30). -/
def State.railErrors (s : State) (o : ArrayOp) : List CellErr :=
  let low (n : Nat) : Bool := match o.span[n]? with
    | some m => let r := (s.core m.1).rail; decide (r.raised.getD r.v < 7500)
    | none => false
  if (List.range o.span.length).all fun n => !low n then []
  else (Config.cellErrors s.fresh).filterMap fun e =>
    if low e.1 && decide (e.2.1 < 128) && decide (e.2.2.1 < 128) then some ⟨e.1, e.2.1, e.2.2.1, e.2.2.2, false⟩ else none

/-- The flips of an armed FINJ on member n in an attempt (R244, R245). -/
def ArrayOp.flips (o : ArrayOp) (n : Nat) (finj : Nat) : List CellErr :=
  let row := bits finj 13 7
  let col := bits finj 6 0
  let at_ := (row, col) :: (match bits finj 30 29 with
    | 1 => [((row + 1) % 128, (col + 1) % 128)]
    | 2 => [(row, (col + 1) % 128)]
    | _ => [])
  at_.map fun c =>
    let p := o.cell n c.1 c.2
    ⟨n, c.1, c.2, signed 96 (wrap 96 p ^^^ 2 ^ bits finj 26 20) - p, true⟩

/-- The adds begin (R239, R254). -/
def State.enterAdd (s : State) (id : Nat) : State :=
  let s := match s.array id with
    | some o => s.begunWriting o
    | none => s
  s.modArray id fun o => { o with st := .add }

/-- MMA_LAST_STEP (R239): a log-class MMA goes to its adds; another to its check, with the errors of its cells and what
FINJ injects. -/
def execMmaLastStep (id : Nat) (s : State) : Answer :=
  s.mmaIn id .compute fun o =>
    if o.mma.isLog then s.enterAdd id
    else
      let o := { o with errs := s.railErrors o, st := .check }
      let o := ((List.range o.span.length).zip o.span).foldl (fun (o : ArrayOp) m =>
        let f := (s.core m.2.1).finj.toNat
        if !bit f 31 then o
        else
          let o := if o.armed.contains m.2.1 then o else { o with armed := o.armed ++ [m.2.1] }
          if o.attempt ≤ bits f 28 27 + 1 then { o with errs := o.errs ++ o.flips m.1 f } else o) o
      s.modArray id fun _ => o

/-- The rows and columns of member n's block that mismatch (R237). -/
def ArrayOp.mismatches (o : ArrayOp) (n : Nat) : List Nat × List Nat :=
  let tau : Int := 129 * o.mma.keff
  let w := o.mma.cols n
  let p (i j : Nat) : Int := o.cell n i j
  let far (x : Int) : Bool := decide (tau < x) || decide (x < -tau)
  -- rows and columns outside the result hold only what erred there
  let rows := (List.range o.mma.m ++ (o.errs.filter fun e => e.member == n).map CellErr.row).eraseDups
  let cols := (List.range w ++ (o.errs.filter fun e => e.member == n).map CellErr.col).eraseDups
  let sum (l : List Int) : Int := l.foldl (· + ·) 0
  (rows.filter fun i => far (sum (cols.map fun j => p i j) - (((o.guardRows[n]?).getD [])[i]?).getD 0),
   cols.filter fun j => far (sum (rows.map fun i => p i j) - (((o.guardCols[n]?).getD [])[j]?).getD 0))

/-- The verdict on a block (R238): pass, the located element, or fail. -/
inductive Verdict where
  | pass
  | located (i j : Nat)
  | fail
  deriving DecidableEq, Repr
def ArrayOp.verdict (o : ArrayOp) (n : Nat) : Verdict :=
  match o.mismatches n with
  | ([], []) => .pass
  | ([i], [j]) => .located i j
  | _ => .fail

/-- The block as it would be without injection: an event that then does not happen is one that FINJ caused (R245; log entry 30). -/
def ArrayOp.uninjected (o : ArrayOp) : ArrayOp := { o with errs := o.errs.filter fun e => !e.inj }
def ArrayOp.fails (o : ArrayOp) : Bool := (List.range o.span.length).any fun n => o.verdict n == .fail
def ArrayOp.locates (o : ArrayOp) (n : Nat) : Bool := match o.verdict n with
  | .located .. => true
  | _ => false

/-- MMA_CHECK_DONE (R238, R239). -/
def execMmaCheckDone (id : Nat) (s : State) : Answer :=
  s.mmaIn id .check fun o =>
    let found := (List.range o.span.length).filterMap fun n => match o.verdict n with
      | .located i j => some (n, 128 * i + j)
      | _ => none
    let natural := o.uninjected
    let tuned (f : Rail → Rail) : State := if natural.fails then o.span.foldl (fun (s : State) m => s.tune m.1 f) s else s
    if o.fails then
      if o.attempt < 4 then
        (tuned fun r => { r with r := r.r + 1 }).modArray id fun o =>
          { o with st := .rail, attempt := o.attempt + 1, errs := [], located := [],
                   injected := { o.injected with reissues := o.injected.reissues + (!natural.fails).toNat } }
      else
        ((tuned fun r => { r with failed := true }).endArray { o with injected := { o.injected with failed := !natural.fails } }
          outcomeUncorrectable 0).wakeAll
    else if found.isEmpty then s.enterAdd id
    else s.modArray id fun o =>
      { o with st := .correct, located := found,
               injected := { o.injected with members := (found.map (·.1)).filter fun n => !natural.locates n } }

/-- MMA_CORRECT_DONE (R238): each located element is what a fault-free cell holds. -/
def execMmaCorrectDone (id : Nat) (s : State) : Answer :=
  s.mmaIn id .correct fun _ =>
    (s.modArray id fun o =>
      { o with corr := o.located.length,
               errs := o.errs.filter fun e => !o.located.contains (e.member, 128 * e.row + e.col) }).enterAdd id

/-- What an element adds to its accumulator (06 R125, R126). -/
def ArrayOp.addend (o : ArrayOp) (n i j : Nat) : Val :=
  let w := o.mma.cols n
  let scale (k : Nat) : Val := FloatFmt.f32.decode ((o.scales[k]?).getD 0x3F800000)
  let sAB := withNaN [scale 0, scale 1] (Val.mul .exact (scale 0) (scale 1))
  let spec := ((((o.good[n]?).getD [])[i * w + j]?).map CellSum.spec).getD 0
  let p : Val := match spec with
    | 0 => Val.ofInt (o.cell n i j) (o.emax - 85)
    | 1 => .inf false
    | 2 => .inf true
    | _ => Val.defaultNaN
  (withNaN [p, sAB.1] (Val.mul .exact p sAB.1)).1

/-- The blocks of a tile that a member's columns reach: the only ones an MMA adds into (13 R255, R257). -/
def reachedBlocks (t : Tile) (cols : Nat) : List (Nat × Nat) := t.blocks.filter fun b => decide (16 * b.2 < cols)

/-- The adds of one member into its own TAS (12 R231, 06 R122). -/
def State.memberAdds (s : State) (o : ArrayOp) (n : Nat) (m : Nat × Nat) : State :=
  match (s.core m.1).team m.2 with
  | none => s
  | some t =>
    let dbl := (s.teamHdr t).tas64
    let i := o.mma
    s.modCore m.1 fun c => (reachedBlocks i.tD (i.cols n)).foldl (fun (c : Core) b =>
      c.addTas (t.block dbl i.tD.tasBase b) dbl ((List.range 16).map fun k =>
        if 16 * b.2 + k < i.cols n then o.addend n b.1 (16 * b.2 + k) else .zero false)) c

/-- Every member's adds are complete: CRCOUNT, the tuner's counts without what injection caused, and the end (R239, R243, R246). -/
def State.addDone (s : State) (o : ArrayOp) : State :=
  let s := ((List.range o.span.length).zip o.span).foldl (fun (s : State) m =>
    let c := if o.corr = 0 then 0 else (o.located.filter fun l => l.1 == m.1).length
    let own := if o.injected.members.contains m.1 then 0 else c
    let s := s.memberAdds o m.1 m.2
    let s := s.modCore m.2.1 fun x => { x with crCount := x.crCount + BitVec.ofNat 32 c }
    if o.mma.isLog then s else s.tune m.2.1 fun r => { r with retired := r.retired + 1, c := r.c + own }) s
  s.endArray o outcomeRetired 0

/-- MMA_ADD_DONE (R239, R243, R246). -/
def execMmaAddDone (id : Nat) (s : State) : Answer := s.mmaIn id .add fun o => (s.addDone o).wakeAll

/-- RAIL_TUNER_STEP (R243): a full window ends. -/
def execRailTunerStep (core : Nat) (s : State) : Answer := .next (s.tune core id)

/-- LOG_RAIL_RETURN (R242): the rail of an idle array returns to the tuner voltage. -/
def execLogRailReturn (core : Nat) (s : State) : Answer :=
  .next (if s.arrays.any fun a => a.st != .queued && a.span.any fun m => m.1 == core then s
    else s.modRail core fun r => { r with raised := none })

end Sys2Proof.Machine
end

