-- ==== Sys2Proof/Machine/Reset.lean ====
section
/-! DEFINITION. Resets (19 R390 to R392, 28 R446), boot (29 R450, R451), low power (01 R20) and power gating (17 R346). -/

namespace Sys2Proof.Machine

/-! A core scrubbed (R390 steps 2 to 6, R391). -/

/-- An issued store or atomic on its way out of core b, which goes on without its lanes (10 R196). -/
def Pend.leaving (p : Pend) (b : Nat) : Option Pend :=
  let out := match p.place with
    | some (.glob _, _) => true
    | some (.spad b' .., _) => b' != b
    | none => false
  match p.kind with
  | .store .. => if out then some p else none
  | .atoms l n ls a r => if out then some { p with kind := .atoms l n (ls.map fun z => { z with dst := none }) a r } else none
  | _ => none

/-- A core whose scratchpad, TAS, register files, private cache and Caldera slots are scrubbed and whose L1 TLB is flushed: its
place in service, its power share, its rail and its special registers stay (05 R102), and its stores on their way to L2. -/
def Core.scrubbed (c : Core) (b : Nat) : Core :=
  { pend := c.pend.filterMap fun p => p.leaving b, quarantined := c.quarantined, gated := c.gated, masked := c.masked, charged := c.charged, rail := c.rail, crTarget := c.crTarget,
    crCount := c.crCount, finj := c.finj, tolerant := c.tolerant }

/-- The rail and CRCOUNT at their reset values (12 R243, 18 R370). -/
def Core.untuned (c : Core) : Core := { c with rail := {}, crCount := 0 }

/-- A core in no walk and with no miss that waits for one. -/
def State.leaveWalks (s : State) (b : Nat) : State :=
  { s.modCore b fun c => { c with misses := [] } with
    walks := s.walks.flatMap fun w => let cs := w.cores.filter (· != b); if cs.isEmpty then [] else [{ w with cores := cs }] }

/-- Nothing of a core's lanes is left in the array queues, at the MP or in the walkers. An MMA in its adds completes them; another
is cancelled, and counted as it ends (12 R239, R246). -/
def State.forgetCore (s : State) (b : Nat) : State :=
  let s := (List.range 64).foldl (fun (s : State) sl => s.dropAsk b sl none) s
  let s := s.arrays.foldl (fun (s : State) a =>
    if !(a.span.any fun m => m.1 == b) then s
    else if a.isMma && a.st == .add then s.addDone a
    else s.endArray a outcomeAbandoned 0) s
  s.leaveWalks b

def State.scrub (s : State) (b : Nat) : State := (s.forgetCore b).modCore b fun c => c.scrubbed b

/-- Cores of a partition. -/
def State.coresOf (s : State) (p : Nat) : List Nat := (List.range 160).filter fun b => (s.part p).cores.getLsbD b

/-! Partition reset (R390, 14 R287). -/

/-- Steps 1 to 8. A store not yet registered is lost (step 4 allows it). -/
def State.resetPartition (s : State) (p : Nat) : State :=
  let s := (s.coresOf p).foldl (fun (s : State) b => (s.scrub b).modCore b fun c => { c.untuned with pend := [], crTarget := 64, finj := 0 }) s
  let s := (s.part p).launches.foldl (fun (s : State) l => s.endCode l.id) s
  let s := { s with walks := s.walks.filter (fun w => w.miss.part != p), walkCache := s.walkCache.filter (fun e => e.2.1 != p),
                    faults := s.faults.filter (fun f => f.part != p),
                    dies := s.dies.map fun (d : Die) =>
                      { d with l2tlb := d.l2tlb.filter fun e => e.part != p, stage2 := d.stage2.filter fun e => e.1 != p } }
  s.modPart p fun x =>
    { x with st := 3, phase := .active, image := [],
             groot := 0, tvec := 0, stackBase := 0, stackSize := 0, copyAp := 0, templ := 0, cmdBase := 0, cmdSize := 0,
             queue := {}, cmd := none, cpFatal := [], graphs := [], tasks := [], run := none, launches := [], workq := [], urgentq := [],
             faultRing := {}, hyperRing := {}, dirtyRing := {}, collSeq := List.replicate 16 0, msixPend := 0 }

/-- RESET through the mailbox (R442): BUSY until the reset's last step. -/
def execReset (s : State) : Answer :=
  s.mail 7 [] fun p _ => if (s.part p).st = 3 then s else (s.resetPartition p).wakeAll

/-- VF_FLR (R390); no VF is enabled before READY (29 R450). -/
def execVfFlr (p : Nat) (s : State) : Answer :=
  .next (if s.boot = 3 ∧ 1 ≤ p ∧ p ≤ 8 then (s.resetPartition p).wakeAll else s)

/-- PARTITION_RESET_COMPLETE (R390 step 9): the mailbox is told, and a function reset of the PF goes on to the next. -/
def execPartitionResetComplete (p : Nat) (s : State) : Answer :=
  .next (if (s.part p).st ≠ 3 then s
    else
      let s := s.modPart p fun x => { x with st := 1 }
      let s := (s.coresOf p).foldl State.reserveDebug s
      let s := if s.mailbox.busy && s.mailbox.arg 0 1 == 7 && s.mailbox.arg 1 1 == p then s.mailDone codeOk else s
      match s.flr with
      | q :: rest =>
        if q ≠ p then s
        else
          let s := { s with flr := rest }
          match rest with
          | next :: _ => s.resetPartition next
          | [] => s
      | [] => s)

/-- PF_FLR (R445, R446): every key goes, every TDI unlocks, and the partitions are reset one after another. -/
def execPfFlr (s : State) : Answer :=
  .next (if s.boot ≠ 3 then s
    else
    let s := { s with keys := [], flr := List.range 9, parts := s.parts.map fun (x : Partition) => { x with tdisp := 0 } }
    (s.resetPartition 0).wakeAll)

/-! Core reset (R391). -/

/-- Every team is killed and leaves; the core returns to service. Stores its lanes issued are still registered (10 R196), as its launches'
(03 R69). -/
def State.resetCore (s : State) (b : Nat) : State :=
  let ts := (s.core b).teams
  let s := ts.foldl (fun (s : State) t => s.killTeam b t.id) s
  let s := (s.core b).pend.foldl (fun (s : State) p => match p.place with
    | some (.glob pa, n) => if p.isLoad then s else s.holdCode b ((s.crew b p.slot).bind Crew.team) pa n
    | _ => s) s
  let s := ts.foldl (fun (s : State) t => s.retireTeam b t) (s.forgetCore b)
  ((s.modCore b fun c => { (c.scrubbed b).untuned with quarantined := false }).reserveDebug b).wakeAll

/-- CORE_RESET (R442, R391): the command, or the MP's own reset of a quarantined core. -/
def execCoreReset (s : State) : Answer :=
  if s.mailbox.busy && s.mailbox.arg 0 1 == 8 then
    s.mail 8 [(6, 2)] fun p m =>
      let b := m.arg 4 2
      if 159 < b then s.mailDone codeBadCmd
      else if !(s.part p).cores.getLsbD b then s.mailDone codeRefused
      else if !(s.core b).teams.isEmpty then s.mailDone codeState
      else (s.resetCore b).mailDone codeOk
  else .next (match (List.range 160).find? fun b => (s.core b).quarantined with
    | some b => s.resetCore b
    | none => s)

/-! Package reset and boot (R392, R450, R451), low power (R20), gating (R346). -/

/-- What outlasts a package reset: the host's memory and what it has seen, the schedule, and the fused counters. -/
def State.outlast (s t : State) : State :=
  { t with hostMem := s.hostMem, hostBad := s.hostBad, hostOut := s.hostOut, agenda := s.agenda, fresh := s.fresh, antiRollback := s.antiRollback,
           signatures := s.signatures, exhausted := s.exhausted }

/-- A boot can end so: READY, or FAILED with one of the codes of R451. -/
def bootPossible : BootResult → Bool
  | .ready => true
  | .failed e => decide (1 ≤ e.toNat) && decide (e.toNat ≤ 5)

/-- PACKAGE_RESET: the boot begins, that will end READY, or FAILED with BOOTERR (R450). -/
def execPackageReset (boot : BootResult) (sram : BitVec 4) (s : State) : Answer :=
  .next (if bootPossible boot then s.outlast (State.started (s.boots + 1) sram boot) else s)

/-- Nothing is placed and no engine works. -/
def State.quietPackage (s : State) : Bool :=
  s.arrays.isEmpty && (List.range 160).all fun b =>
    let c := s.core b
    c.teams.isEmpty && !c.debug && c.copies.isEmpty && c.engs.isEmpty

/-- LOW_POWER_ENTRY (R20): only of a package with no work (log entry 37). -/
def execLowPowerEntry (s : State) : Answer := .next (if s.quietPackage then { s with asleep := true } else s)

/-- LOW_POWER_WAKE (R20). -/
def execLowPowerWake (s : State) : Answer := .next { s with asleep := false }

/-- POWER_GATING (R346): a core with nothing placed on it loses its L1 TLB, and no walk under way fills it again. -/
def execPowerGating (core : Nat) (s : State) : Answer :=
  .next (if (s.core core).teams.isEmpty && !(s.core core).debug then
      (s.leaveWalks core).modCore core fun c => { c with gated := true, tlb := [] }
    else s)

end Sys2Proof.Machine
end

