-- ==== Sys2Proof/Machine/Attest.lean ====
section
/-! DEFINITION. Attestation, tenant keys and TDISP (28 R443 to R446). -/

namespace Sys2Proof.Machine

/-- SPDM requests are answered once DISCOVERY has ended (29 R451). -/
def State.answers (s : State) : Bool := s.boot == 2 || s.boot == 3

/-! Keys (R445). -/

/-- The key ID that index k of a partition's KEYS names. -/
def Partition.keyAt (x : Partition) (k : Nat) : Option Nat :=
  (x.keys[k]?).bind fun e => if bit e 7 then some (e % 128) else none

/-- A key loaded under a key ID. -/
def State.loadKey (s : State) (id : Nat) (key : BitVec 512) : State :=
  match (List.range s.keyLog.length).find? fun i => s.keyLog[i]? == some (id, key) with
  | some i => { s with keys := (id, i) :: s.keys }
  | none => { s with keys := (id, s.keyLog.length) :: s.keys, keyLog := s.keyLog ++ [(id, key)] }

/-- KEY_SET: refused where the index is invalid or the key ID already holds a key. -/
def execKeySet (p k : Nat) (key : BitVec 512) (s : State) : Answer :=
  .next (if !s.answers then s
    else
      let reply (s : State) (ok : Bool) : State := { s with hostOut := s.hostOut ++ [.key p k ok] }
      match (s.part p).keyAt k with
      | none => reply s false
      | some id => if s.keyLoaded id then reply s false else reply (s.loadKey id key) true)

/-- The lines of L2 held under a key ID are written back and leave it (R445). -/
def State.dropKeyLines (s : State) (id : Nat) : State :=
  (s.l2.filter fun o => o.key == id).foldl (fun (s : State) o => s.leaveL2 o.line) s

def State.eraseKeys (s : State) (ids : List Nat) : State := { s with keys := s.keys.filter fun e => !ids.contains e.1 }

/-- KEY_CLEAR. -/
def execKeyClear (p k : Nat) (s : State) : Answer :=
  .next (if !s.answers then s
    else
      let reply (s : State) (ok : Bool) : State := { s with hostOut := s.hostOut ++ [.key p k ok] }
      match (s.part p).keyAt k with
      | none => reply s false
      | some id => reply (if s.keyLoaded id then (s.dropKeyLines id).eraseKeys [id] else s) true)

/-! Measurements and firmware (R443, R444). -/

/-- Signatures of a lower tree, and the last leaf of the upper one (R444). -/
def lowerTree := 2 ^ 15
def lastLeaf := 32767

/-- The SRAM die of a block 9 to 12 is fused off, which its block states (R443, 29 R451). -/
def State.measuredOff (s : State) (block : Nat) : Bool := decide (9 ≤ block) && decide (block ≤ 12) && !(s.die (block - 9)).sram

/-- SPDM_MEASUREMENT: a signed answer, until the last lower tree is used up; then an error. -/
def execSpdmMeasurement (fn block : Nat) (s : State) : Answer :=
  .next (if !s.answers then s
    else
      let reply (s : State) (v : Option DWord) : State := { s with hostOut := s.hostOut ++ [.spdm fn block v] }
      if s.exhausted ∨ block = 0 ∨ 26 < block then reply s none
      else
        let s := reply s (some (Config.measurement block s.antiRollback (s.measuredOff block)))
        let n := s.signatures + 1
        if n < lowerTree then { s with signatures := n }
        else if s.antiRollback < lastLeaf then { s with signatures := 0, antiRollback := s.antiRollback + 1 }
        else { s with signatures := n, exhausted := true })

/-- FIRMWARE_UPDATE: the counter steps, and with it the lower tree; it stays at its last leaf. -/
def execFirmwareUpdate (s : State) : Answer :=
  .next (if s.antiRollback < lastLeaf then { s with antiRollback := s.antiRollback + 1, signatures := 0 } else s)

/-! TDISP (R446). -/

def isTenant (p : Nat) : Bool := decide (1 ≤ p) && decide (p ≤ 8)

/-- TDI_CONFIG_LOCKED. No VF is enabled before READY (29 R450). -/
def execTdiConfigLocked (p : Nat) (s : State) : Answer :=
  .next (if s.boot = 3 ∧ isTenant p then s.modPart p fun x => if x.tdisp = 0 then { x with tdisp := 1 } else x else s)

/-- TDI_RUN. -/
def execTdiRun (p : Nat) (s : State) : Answer :=
  .next (if s.boot = 3 ∧ isTenant p then s.modPart p fun x => if x.tdisp = 1 then { x with tdisp := 2 } else x else s)

/-- TDISP_STOP: a partition reset, the partition's keys erased, the TDI unlocked. -/
def execTdispStop (p : Nat) (s : State) : Answer :=
  .next (if s.boot ≠ 3 ∨ !isTenant p then s
    else
      let ids := ((s.part p).keys.filter fun k => bit k 7).map (· % 128)
      (((s.eraseKeys ids).resetPartition p).modPart p fun x => { x with tdisp := 0 }).wakeAll)

end Sys2Proof.Machine
end

