-- ==== Sys2Proof/Machine/Copy.lean ====
section
/-! DEFINITION. The copy engine (15 R296 to R302, 18 R363, 28 R448, R449): CPYK, CPYREL, CPYQ, and the events that perform
copied bytes. -/

namespace Sys2Proof.Machine

/-! Performing an item. -/

/-- The copy engine's accesses (R302). -/
def CopyOp.agent (o : CopyOp) (b : Nat) : Agent := { part := o.part, smode := o.smode, source := 1, win := true, issuer := some (b, o.team) }

/-- The bank behind a scratchpad address as the issuing team sees it. -/
def State.sourceBank (s : State) (b team va : Nat) : Option (Nat × Nat) :=
  match (s.core b).team team with
  | none => none
  | some t =>
    let m := bits va 27 24
    match (if m = 0xF ∨ m = s.f1 t then some (b, t) else s.member t m) with
    | none => none
    | some (c, u) => (u.banks[bits va 21 16]?).map fun k => (c, k)

/-- The aligned pieces of 8 bytes that a range touches, with the part of each: address, first byte, how many. -/
def eighths (va n : Nat) : List (Nat × Nat × Nat) :=
  (List.range ((va + n + 7) / 8 - va / 8)).map fun i =>
    let p := (va / 8 + i) * 8
    (p, max va p - p, min (va + n) (p + 8) - max va p)

/-- What a source piece gave, kept for the iteration at a destination. -/
def State.keepPiece (s : State) (b : Nat) (o : CopyOp) (p : CopyPiece) : State := s.modCopy b o.id fun o => { o with ahead := p :: o.ahead }

/-- The bytes of a source piece of an iteration at a destination: as it was read first (10 R201), or read now. -/
def State.copyPiece (s : State) (b : Nat) (o : CopyOp) (dest iter va : Nat) : State × (CopyPiece ⊕ ItemOut) :=
  let bad (f : Nat → Bool) : Nat := maskOf ((List.range 8).filter f)
  match ((s.copy b o.id).getD o).ahead.find? fun p => p.dest == dest && p.iter == iter && p.va == va with
  | some p => (s, .inl p)
  | none =>
    if va / 2 ^ 48 = 0xFFFE then
      match s.sourceBank b o.team va with
      | none => (s, .inr (.stop outcomeFault va))
      | some (c, k) =>
        let p : CopyPiece := { dest, iter, va, bytes := (s.spadRead c k (va % 65536) 8).1,
                               bad := bad fun i => poisonedAt (s.bank c k).poison (va % 65536 + i) }
        (s.keepPiece b o p, .inl p)
    else match s.reachPa (o.agent b) va false with
      | (s, .wait 0) => (s, .inr .again)
      | (s, .wait r) => (s, .inr (.wait r))
      | (s, .fault v) => (s, .inr (.stop outcomeFault v))
      | (s, .poison v) => (s, .inr (.stop outcomePoisoned v))
      | (s, .ok pa) =>
        match s.readPa o.part pa 8 with
        | (s, none) => (s, .inr (.stop outcomeFault va))
        | (s, some (bytes, hit)) =>
          let p : CopyPiece := { dest, iter, va, bytes, bad := if hit then bad fun i => s.badByte (pa + i) else 0 }
          (s.keepPiece b o p, .inl p)

/-- The source bytes of an item of an iteration, after those already got: a peer's are asked for page by page. -/
def State.copyRead (s : State) (b : Nat) (o : CopyOp) (dest iter va n : Nat) (got : List Byte) : State × (List Byte ⊕ ItemOut) :=
  (pageSplit (va + got.length) (n - got.length)).foldl (fun (acc : State × (List Byte ⊕ ItemOut)) p =>
    match acc with
    | (s, .inr r) => (s, .inr r)
    | (s, .inl d) =>
      let a := p.1 % 2 ^ 64
      match s.peerPa (o.agent b) a with
      | some pa =>
        (match s.sendPeer o.part pa p.2 none with
          | none => (s.count o.part 9, .inr (.stop outcomeFault a))
          | some s => (s, .inr (.sent { dest, write := false, got := d, pos := 0, n := p.2 })))
      | none =>
        (eighths a p.2).foldl (fun (acc : State × (List Byte ⊕ ItemOut)) q =>
          match acc with
          | (s, .inr r) => (s, .inr r)
          | (s, .inl d) => match s.copyPiece b o dest iter q.1 with
            | (s, .inr r) => (s, .inr r)
            | (s, .inl c) => match (List.range q.2.2).find? fun i => c.bad.testBit (q.2.1 + i) with
              | some i => (s, .inr (.stop outcomePoisoned (q.1 + q.2.1 + i)))
              | none => (s, .inl (d ++ (c.bytes.drop q.2.1).take q.2.2))) (s, .inl d)) (s, .inl got)

/-- The bytes an item writes into each of its pieces (R297, 12 R229). -/
def CopyReq.image (r : CopyReq) (src : List Byte) : List Byte :=
  match r.planeFmt, Tag.ofCode r.fmt with
  | some f, some t =>
    let v := leNat src
    planeRecord t f ((List.range (r.ext_ 0)).map fun i => elem r.elemBits v i)
  | _, _ => src

/-- The writes of an item, cut at page boundaries. -/
def CopyReq.writes (r : CopyReq) (n k : Nat) (img : List Byte) : List (Nat × List Byte) :=
  (r.target n k).flatMap fun p => (pageSplit p.1 p.2).map fun q => (q.1 % 2 ^ 64, (img.drop (q.1 - p.1)).take q.2)

/-- Bytes of an item are performed at a global destination. -/
def State.copyWrote (s : State) (b : Nat) (o : CopyOp) (n : Nat) : State := s.modCopy b o.id fun o => { o with written := o.written + n }

/-- One write of an item at a destination. -/
def State.copyPut (s : State) (b : Nat) (o : CopyOp) (dest pos : Nat) (src : List Byte) (w : Nat × List Byte) : State × ItemOut :=
  if w.1 / 2 ^ 48 = 0xFFFE then
    match (o.dests[dest]?).bind fun d => s.destBank d w.1 with
    | none => (s, .done)
    | some (c, k) => (s.spadArrive c k (w.1 % 65536) w.2, .done)
  else match s.reachPa (o.agent b) w.1 true with
    | (s, .wait 0) => (s, .again)
    | (s, .wait r) => (s, .wait r)
    | (s, .fault v) | (s, .poison v) => (s, .stop outcomeFault v)
    | (s, .ok pa) =>
      if paWin pa && bit pa 46 then
        match s.sendPeer o.part pa w.2.length (some w.2) with
        | none => (s.count o.part 9, .stop outcomeFault w.1)
        | some s => (s, .sent { dest, write := true, got := src, pos, n := w.2.length })
      else if paWin pa then ((s.writePa o.part pa w.2).1.copyWrote b o w.2.length, .done)
      else match (s.holdCode b (some o.team) pa w.2.length).register o.part b pa w.2 with
        | (s, true) => ((s.cacheDrop b pa w.2.length).copyWrote b o w.2.length, .done)
        | (s, false) => (s, .again)

/-- Whether a write of an item can be made now: its page is reached and its lines are claimed (R182). -/
def State.copyReady (s : State) (b : Nat) (o : CopyOp) (w : Nat × List Byte) : State × ItemOut :=
  if w.1 / 2 ^ 48 = 0xFFFE then (s, .done)
  else match s.reachPa (o.agent b) w.1 true with
    | (s, .wait 0) => (s, .again)
    | (s, .wait r) => (s, .wait r)
    | (s, .fault v) | (s, .poison v) => (s, .stop outcomeFault v)
    | (s, .ok pa) =>
      if paWin pa then (s, .done)
      else
        let (s, ok) := (linesOf (paAddr pa) w.2.length).foldl (fun (acc : State × Bool) ln =>
          let (s, ok) := acc.1.claimLine b ln
          (s, acc.2 && ok)) (s, true)
        (s, if ok then .done else .again)

/-- The writes of an item from number `pos` on: together, once each can be made, so that a cancel finds all of them done or none
(R179); packets to peers go one by one (log entry 83). -/
def State.copyPuts (s : State) (b : Nat) (o : CopyOp) (dest : Nat) (src : List Byte) (pos : Nat) (ws : List (Nat × List Byte)) : State × ItemOut :=
  match whileDone (fun s w => s.copyReady b o w) ws s with
  | (s, .done) => whileDone (fun s w => s.copyPut b o dest w.1 src w.2) ((List.range ws.length).map (pos + ·) |>.zip ws) s
  | r => r

/-- A barrier object of a copy at a destination for a stage (R298): its core, bank and offset where it can be used. -/
def State.copyBar (s : State) (b : Nat) (o : CopyOp) (dest stage bar : Nat) : Option (Nat × Nat × Nat) :=
  let va := bar + (if o.req.looping then 16 * stage else 0)
  let home := if o.req.dst / 2 ^ 48 = 0xFFFE then o.dests[dest]? else some (o.team, b)
  match home.bind fun d => s.destBank d va with
  | none => none
  | some (c, k) =>
    let off := va % 65536
    if off % 16 = 0 ∧ off + 16 ≤ s.spcap c then some (c, k, off) else none

/-- A countdown of bytes performed at a destination (R363). -/
def State.copyCount (s : State) (b : Nat) (o : CopyOp) (dest n bytes : Nat) : State :=
  if bytes = 0 then s
  else match o.req.bar with
    | none => s
    | some bar => match s.copyBar b o dest (n % o.req.stages) bar with
      | some (c, bk, off) => s.barCount o.part c bk off bytes
      | none => s.count o.part 10

/-- The bytes of an item under way that have been performed since `o` was read are counted (R363). -/
def State.copyPart (s : State) (b : Nat) (o : CopyOp) (dest n : Nat) : State :=
  s.copyCount b o dest n (((s.copy b o.id).getD o).written - o.written)

/-- An item performed at a destination: lines whose last bytes it was become present, and its bytes not yet counted are
(R178, R363). -/
def State.copyArrived (s : State) (b : Nat) (o : CopyOp) (dest idx : Nat) : State :=
  let n := idx / o.req.items
  let k := idx % o.req.items
  let s := s.modCopy b o.id fun o =>
    { o with done := updateAt (· + 1) o.done dest, written := 0, going := none,
             ahead := if k + 1 = o.req.items then o.ahead.filter fun p => !(p.dest == dest && p.iter == n) else o.ahead }
  let s := if o.req.dst / 2 ^ 48 = 0xFFFE then
      (o.req.lines n).foldl (fun (s : State) ln =>
        if ln.2 ≠ k then s
        else match (o.dests[dest]?).bind fun d => s.destBank d (ln.1 * 128) with
          | none => s
          | some (c, bk) => s.lowerLine c bk (ln.1 * 128 % 65536 / 128)) s
    else s
  s.copyCount b o dest n (o.req.itemBytes - o.written)

/-- Earlier copies of the same channel come first (R301). -/
def State.channelFree (s : State) (o : CopyOp) : Bool :=
  match o.channel with
  | none => true
  | some c => !((List.range 160).any fun b => (s.core b).copies.any fun q => q.part == o.part && q.channel == some c && decide (q.id < o.id))

/-- An item of a destination, from the source bytes got and the writes made so far. -/
def State.copyItem (s : State) (b : Nat) (o : CopyOp) (dest : Nat) (got : List Byte) (pos : Nat) (whole : Bool) : State :=
  let r := o.req
  let idx := (o.done[dest]?).getD 0
  let n := idx / r.items
  let k := idx % r.items
  let va := ((r.source n k).headD (0, 0)).1
  let size := if r.xform = 2 then ceilDiv (r.ext_ 0 * r.elemBits) 8 else r.esz
  let finish (s : State) (going : Option PeerWait) : ItemOut → State
    | .done => s.copyArrived b o dest idx
    | .again => (s.copyPart b o dest n).modCopy b o.id fun o => { o with going }
    | .wait rid => (s.copyPart b o dest n).modCopy b o.id fun o => { o with waitRid := some rid, going }
    | .sent w => (s.copyPart b o dest n).modCopy b o.id fun o => { o with peer := some w, going := none }
    | .stop outcome a =>
      let s := s.copyPart b o dest n
      match s.copy b o.id with
      | some o => s.endCopy b o outcome a
      | none => s
  match (if whole then (s, .inl got) else s.copyRead b o dest n va size got) with
  | (s, .inr out) => finish s none out
  | (s, .inl src) =>
    let (s, out) := s.copyPuts b o dest src pos ((r.writes n k (r.image src)).drop pos)
    finish s (if pos = 0 then none else some { dest, write := true, got := src, pos, n := 0 }) out

/-- One item of a destination, where the copy can go on. -/
def State.copyStep (s : State) (b id dest : Nat) : State :=
  let s := s.issueCopy b id
  match s.copy b id with
  | none => s
  | some o =>
    let idx := (o.done[dest]?).getD 0
    match o.going with
    | some w => if o.waitRid.isSome || w.dest != dest then s else s.copyItem b o dest w.got w.pos true
    | none =>
      if o.stop.isSome || o.waitRid.isSome || o.peer.isSome || !s.channelFree o || !decide (dest < o.dests.length) ||
         !o.issued.contains (idx / o.req.items) then s
      else s.copyItem b o dest [] 0 false

/-- COPY_WRITE (R201): `n` items at a destination. -/
def execCopyWrite (core id dest n : Nat) (s : State) : Answer :=
  .next ((List.range n).foldl (fun (s : State) _ => s.copyStep core id dest) s).wakeAll

/-- Every destination has every item. -/
def CopyOp.finished (o : CopyOp) : Bool := o.done.all fun n => n == o.req.items * o.req.passes

/-- COPY_COMPLETE (R298, R302): the dependence decrement, then the handle. -/
def execCopyComplete (core id : Nat) (s : State) : Answer :=
  .next (match s.copy core id with
    | none => s
    | some o => match o.stop with
      | some (outcome, va) =>
        if outcome = outcomeAbandoned ∧ (o.going.isSome ∨ o.peer.isSome) then s else (s.endCopy core o outcome va).wakeAll
      | none =>
        if !o.finished then s
        else
          let s := match o.req.dep with
            | some idx => (s.decrement o.part idx).1
            | none => s
          (s.endCopy core o outcomeRetired 0).wakeAll)

/-! The instructions. -/

def copyAddr (o : Enc) : Opnd := o.regA true (.only .addr)
def scalarB (o : Enc) : Opnd := o.regB false (.oneOf [.n32, .i32])

/-- CPYK (R297). -/
def execCpyk (o : Enc) (s : State) : Answer :=
  let d := o.d.toNat
  .next (s.onceInstr o [2] [copyAddr o] (some (d, false)) fun s x =>
    let va := ((copyAddr o).value (s.laneThread x)).toNat
    match s.descriptor x va 64 64 (some d) with
    | .inr r => r
    | .inl (bytes, _) =>
      let r := s.copyReq x bytes
      match s.copyTrap x bytes va r with
      | some t => (s, .trap t)
      | none =>
        if !(s.core x.core).copyRoom || !s.hasSlot x || !s.quiet x then (s, .hold .waitUnit)
        else match s.newHandle x 2 with
          | none => (s, .hold .waitUnit)
          | some (k, h, s) => ((s.startCopy x r (va % 2 ^ 22) (some k) none).issued x o h, .next))

/-- The team and core behind a request address, of the own team or a gang member, or how the lane leaves (R290). -/
def State.requestTeam (s : State) (x : Lane) (va : Nat) : (Nat × Team) ⊕ LaneOut :=
  if va / 2 ^ 48 ≠ 0xFFFE then .inr (.trap (aperture va))
  else match s.steer x va { align := 64, write := false } with
    | .trap r => .inr (.trap r)
    | _ => match s.memberTeam x (bits va 27 24) with
      | some m => .inl m
      | none => .inr (.trap (access 0x03 va))

/-- The latest unended copy a team issued from a request address (R299). -/
def Core.copyFrom (c : Core) (team va : Nat) : Option CopyOp :=
  (c.copies.filter fun o => o.team == team && o.reqAddr == va % 2 ^ 22 && o.handle.isSome).getLast?

/-- CPYREL (R299). -/
def execCpyrel (o : Enc) (s : State) : Answer :=
  .next (s.onceInstr o [2] [copyAddr o, scalarB o] none fun s x =>
    let t := s.laneThread x
    let va := ((copyAddr o).value t).toNat
    let stage := ((scalarB o).value t).toNat
    match s.requestTeam x va with
    | .inr r => (s, r)
    | .inl (b, tm) =>
      let spadStore (p : Pend) : Bool := p.isStore && match p.place with
        | some (.spad .., _) => true
        | _ => false
      match (s.core b).copyFrom tm.id va with
      | none => (s, .next)
      | some c =>
        let mine := ((s.teamOf x.core x.slot).map Team.id).getD 0
        let last := (c.issued.filter fun n => n % c.req.stages == stage).foldl max 0
        if (s.core x.core).loadsOutstanding x.slot x.lane t.seq || ((s.core x.core).pendOf x.slot x.lane).any spadStore then (s, .hold .waitUnit)
        else if !c.req.looping || decide (c.req.stages ≤ stage) || !(c.dests.any fun d => d.1 == mine) ||
            !(c.issued.any fun n => n % c.req.stages == stage) || decide (c.req.passes ≤ last + c.req.stages) ||
            c.released.contains (last, mine) then (s, .next)
        else ((s.modCopy b c.id fun c => { c with released := c.released ++ [(last, mine)] }).issueCopy b c.id, .next))

/-- The destination a member number names (R300). -/
def CopyOp.destAt (c : CopyOp) (m : Nat) : Option Nat :=
  if m = 0xF then (if c.dests.length = 1 then some 0 else none)
  else if c.req.dst / 2 ^ 48 ≠ 0xFFFE then none
  else (List.range c.dests.length).find? fun i => c.members[i]? == some m

/-- CPYQ (R300). -/
def execCpyq (o : Enc) (s : State) : Answer :=
  let d := o.d.toNat
  .next (s.onceInstr o [2] [copyAddr o, scalarB o] (some (d, true)) fun s x =>
    let t := s.laneThread x
    let va := ((copyAddr o).value t).toNat
    match s.requestTeam x va with
    | .inr r => (s, r)
    | .inl (b, tm) =>
      let old := (s.core b).oldCopies.find? fun o => o.team == tm.id && o.reqAddr == va % 2 ^ 22 && o.handle.isSome
      let found := ((s.core b).copyFrom tm.id va).orElse fun _ => old
      let none_ : DWord := BitVec.allOnes 64
      let v : DWord := match found with
        | none => none_
        | some c => match c.destAt ((scalarB o).value t).toNat with
          | none => none_
          | some i =>
            if o.modBit 0 then BitVec.ofNat 64 ((c.stop.map (·.2)).getD 0)
            else BitVec.ofNat 64 (((c.done[i]?).getD 0) * c.req.itemBytes + (if c.req.xform = 3 then 0 else c.written))
      (s.producer x (some d) true (.value v (if o.modBit 0 then .addr else .n64)), .next))

end Sys2Proof.Machine
end

