-- ==== Sys2Proof/Machine/Geyser.lean ====
section
/-! DEFINITION. The Geyser units (15 R303 to R307): product-key lookups and gradient scatters. -/

namespace Sys2Proof.Machine

/-! The descriptor (R303). -/

structure Geyser where
  val : Nat
  key1 : Nat
  key2 : Nat
  qry : Nat
  out : Nat
  idx : Nat
  wgt : Nat
  scr : Nat
  n1 : Nat
  n2 : Nat
  d : Nat
  dv : Nat
  k : Nat
  q : Nat
  bf16 : Bool
  vfmt : Nat
  wmode : Nat
  temp : Nat
  deriving DecidableEq, Repr

def Geyser.of (b : List Byte) : Geyser :=
  { val := field b 0 8, key1 := field b 8 8, key2 := field b 16 8, qry := field b 24 4, out := field b 28 4, idx := field b 32 4,
    wgt := field b 36 4, scr := field b 40 4, n1 := field b 44 2 + 1, n2 := field b 46 2 + 1, d := field b 48 2 % 1024,
    dv := field b 50 2 % 4096, k := field b 52 1 % 128, q := field b 53 1 + 1, bf16 := bit (field b 54 1) 4,
    vfmt := bits (field b 54 1) 3 2, wmode := bits (field b 54 1) 1 0, temp := field b 56 4 }

/-- The value format and its bytes, the output's bytes. -/
def Geyser.vf (g : Geyser) : FloatFmt := if g.vfmt = 0 then .bf16 else if g.vfmt = 1 then .e4m3 else .e5m2
def Geyser.vz (g : Geyser) : Nat := if g.vfmt = 0 then 2 else 1
def Geyser.oz (g : Geyser) : Nat := if g.bf16 then 2 else 4

/-- The scratchpad arrays an operation reads or writes, as offset and bytes: destinations, then sources. -/
def Geyser.dests (g : Geyser) : List (Nat × Nat) :=
  [(g.out, g.q * g.dv * g.oz), (g.idx, g.q * g.k * 4), (g.wgt, g.q * g.k * 4), (g.scr, g.q * g.k * 4)]
def Geyser.sources (g : Geyser) (scatter : Bool) : List (Nat × Nat) :=
  if scatter then [(g.qry, g.q * g.dv * 4), (g.idx, g.q * g.k * 4), (g.wgt, g.q * g.k * 4)] else [(g.qry, g.q * g.d * 2)]

/-- The own-scratchpad address of an offset. -/
def spadAt (off : Nat) : Nat := 0xFFFE00000F000000 + off % 2 ^ 22

/-- A Geyser descriptor refused (R290 steps 4 to 6). -/
def State.geyserTrap (s : State) (x : Lane) (b : List Byte) (va : Nat) (scatter : Bool) : Option Trap :=
  let g := Geyser.of b
  let arrays := if scatter then g.sources true else g.sources false ++ g.dests
  let tables := if scatter then [g.val] else [g.val, g.key1, g.key2]
  if field b 60 4 ≠ 0 ∨ bits (field b 55 1) 7 2 ≠ 0 ∨ bits (field b 54 1) 7 5 ≠ 0 ∨ bit (field b 52 1) 7 ∨ bits (field b 50 2) 15 12 ≠ 0 ∨
     (!scatter && bits (field b 48 2) 15 10 != 0) ∨ arrays.any (fun a => decide (2 ^ 22 ≤ a.1)) ∨ g.vfmt = 3 ∨ g.wmode = 3 ∨
     (scatter && g.vfmt != 0) ∨ (!scatter && g.wmode != 0 && g.temp != 0) then some (access 0x07 va)
  else if g.k < 1 ∨ 64 < g.k ∨ g.dv < 1 ∨ 2048 < g.dv ∨ 8192 < g.n1 ∨ 8192 < g.n2 ∨ g.n1 < g.k ∨ g.n2 < g.k ∨
     (!scatter && (decide (g.d < 2) || decide (512 < g.d) || g.d % 2 == 1)) then some (access 0x08 va)
  else match tables.find? (fun a => a / 2 ^ 57 != 0) with
    | some a => some (aperture a)
    | none => match (tables ++ arrays.map fun a => spadAt a.1).find? (fun a => a % 128 != 0) with
      | some a => some (align 128 a)
      | none => (if scatter then [] else g.dests).findSome? fun a => s.arrayTrap x (spadAt a.1) a.2

/-- PKL and PKLB at issue. -/
def State.geyserIssue (s : State) (o : Enc) (scatter : Bool) : State :=
  let d := o.d.toNat
  let c := o.regC false (.oneOf [.n32, .i32])
  s.onceInstr o (if scatter then [3, 4, 5] else [3, 4]) ([addrA o, seedB o] ++ (if scatter then [c] else [])) (some (d, false)) fun s x =>
    let t := s.laneThread x
    let va := ((addrA o).value t).toNat
    match s.descriptor x va 64 64 (some d) with
    | .inr r => r
    | .inl (b, _) => match (s.geyserTrap x b va scatter).orElse fun _ => if scatter then s.detTrap x 0xB4 else none with
      | some r => (s, .trap r)
      | none =>
        let geyser (k : EngKind) : Bool := k == .pkl || k == .pklb
        if !(s.core x.core).engRoom geyser 16 || !s.quiet x then (s, .hold .waitUnit)
        else match s.newHandle x (if scatter then 4 else 3) with
          | none => (s, .hold .waitUnit)
          | some (k, h, s) =>
            let seq := if scatter then (c.value t).toNat else 0
            ((s.startEng x (if scatter then .pklb else .pkl) k va b ((seedB o).value t).toNat seq [] 0).issued x o h, .next)

def execPkl (o : Enc) (s : State) : Answer := .next (s.geyserIssue o false)
def execPklb (o : Enc) (s : State) : Answer := .next (s.geyserIssue o true)

/-! Lookups (R304, R305). -/

/-- a ranks before b: larger first, NaN last; equal values keep their order. -/
def ranksBefore (a b : Val) : Bool := if a.isNaN then false else b.isNaN || Val.lt b a

/-- The indices of the k largest, in rank order. -/
def topIndices (k : Nat) (l : List Val) : List Nat :=
  ((sortBy (fun (a b : Nat × Val) => ranksBefore a.2 b.2) ((List.range l.length).zip l)).take k).map (·.1)

/-- The weights of the chosen scores (R305). -/
def geyserWeights (wmode temp : Nat) (cs : List Val) : List Val :=
  let abs (v : Val) : Val := if v.neg && !v.isNaN then v.negate else v
  let div (u z : Val) : Val := round32v (fpDiv false 24 u z).1
  let total (l : List Val) : Val := round32v (sumProducts (l.map fun v => (v, .fin false 1 0)))
  match wmode with
  | 0 =>
    let m := cs.headD (.zero false)
    if m.isNaN || m.isInf then cs.map fun _ => Val.defaultNaN
    else
      let us := cs.map fun c =>
        let diff := (withNaN [c] (Val.add .rne c m.negate)).1
        round32v (fpExp2 false 24 (round32v (sumProducts [(diff, FloatFmt.f32.decode temp)]))).1
      let z := total us
      us.map fun u => div u z
  | 1 =>
    let z := total (cs.map abs)
    if z.isZero then cs.map fun _ => .zero false else cs.map fun c => div c z
  | _ => cs.map fun _ => .fin false 1 0

/-- A candidate: its index a × n2 + b, its score, its tie key. -/
structure Candidate where
  r : Nat
  c : Val
  tie : Nat

/-- The chosen rows and scores of a query (R304). -/
def Geyser.choose (g : Geyser) (seed q : Nat) (x k1 k2 : List Val) : List Candidate :=
  let h := g.d / 2
  let score (keys xs : List Val) (n : Nat) : List Val :=
    (List.range n).map fun a => round32v (sumProducts (xs.zip ((keys.drop (a * h)).take h)))
  let s1 := score k1 (x.take h) g.n1
  let s2 := score k2 (x.drop h) g.n2
  let cands := (topIndices g.k s1).flatMap fun a => (topIndices g.k s2).map fun b =>
    let r := a * g.n2 + b
    let sum := (withNaN [(s1[a]?).getD (.zero false), (s2[b]?).getD (.zero false)]
      (Val.add .rne ((s1[a]?).getD (.zero false)) ((s2[b]?).getD (.zero false)))).1
    { r, c := round32v sum, tie := kmix seed r q : Candidate }
  let before (a b : Candidate) : Bool :=
    if ranksBefore a.c b.c then true
    else if ranksBefore b.c a.c then false
    else if a.c.isNaN then decide (a.r < b.r)
    else decide (a.tie < b.tie) || (a.tie == b.tie && decide (a.r < b.r))
  (sortBy before cands).take g.k

/-- Values of packed elements. -/
def decodeAll (f : FloatFmt) (bytes : Nat) (d : List Byte) : List Val :=
  (List.range (d.length / bytes)).map fun i => f.decode (elemAt d bytes i)

/-- A query's tables and queries as read, or how the operation stands. -/
inductive EngOut where
  | done (s : State)
  | wait (s : State) (rid : Nat)
  | stop (s : State) (outcome va : Nat)

def EngOut.ofGot {α : Type} (s : State) (g : Got α) (f : α → EngOut) : EngOut :=
  match g with
  | .ok a => f a
  | .wait r => .wait s r
  | .fault v => .stop s outcomeFault v
  | .poison v => .stop s outcomePoisoned v

/-- One query looked up and written whole. -/
def State.lookup (s : State) (b : Nat) (o : EngOp) (q : Nat) : EngOut :=
  let g := Geyser.of o.desc
  match s.spadGet b o.team (spadAt g.qry + q * g.d * 2) (g.d * 2) with
  | none => .stop s outcomeFault (spadAt g.qry + q * g.d * 2)
  | some (_, some va) => .stop s outcomePoisoned va
  | some (qb, none) =>
    let (s, r1) := s.readVa (o.agent b) g.key1 (g.n1 * g.d)
    EngOut.ofGot s r1 fun b1 =>
    let (s, r2) := s.readVa (o.agent b) g.key2 (g.n2 * g.d)
    EngOut.ofGot s r2 fun b2 =>
    let sel := g.choose o.seed q (decodeAll .bf16 2 qb) (decodeAll .bf16 2 b1) (decodeAll .bf16 2 b2)
    let ws := geyserWeights g.wmode g.temp (sel.map Candidate.c)
    let (s, rows) := s.readAll (o.agent b) (sel.map fun c => (g.val + c.r * g.dv * g.vz, g.dv * g.vz))
    EngOut.ofGot s rows fun rows =>
    let rows := rows.map (decodeAll g.vf g.vz)
    let out := (List.range g.dv).flatMap fun e =>
      let y := sumProducts (ws.zip (rows.map fun r => (r[e]?).getD (.zero false)))
      leBytes g.oz ((if g.bf16 then FloatFmt.bf16 else FloatFmt.f32).round .rne 0 false y).1
    let at_ (off n : Nat) : Nat := spadAt off + q * n
    let s := s.spadPut b o.team (at_ g.out (g.dv * g.oz)) out
    let s := s.spadPut b o.team (at_ g.idx (g.k * 4)) (sel.flatMap fun c => leBytes 4 c.r)
    let s := s.spadPut b o.team (at_ g.scr (g.k * 4)) (sel.flatMap fun c => leBytes 4 (round32 c.c))
    .done (s.spadPut b o.team (at_ g.wgt (g.k * 4)) (ws.flatMap fun w => leBytes 4 (round32 w)))

/-- The lowest poisoned address an operation met, or 0. -/
def EngOp.lowPoison (o : EngOp) : Nat := o.chunks.foldl (fun m c => if m = 0 ∨ c.2 < m then c.2 else m) 0

/-- The first poisoned address an operation met (R294), or 0. -/
def EngOp.firstPoison (o : EngOp) : Nat := ((o.chunks.head?).map (·.2)).getD 0

/-- The state after a query: its mark (a query with a skipped granule is not counted as done), its wait, or the end. -/
def geyserAfter (b id q : Nat) : EngOut → State
  | .done s => s.modEng b id fun o =>
      if o.chunks.any fun c => c.1 == q then { o with skip := o.skip ++ [q] } else { o with done := o.done ++ [q] }
  | .wait s 0 => s
  | .wait s rid => s.modEng b id fun o => { o with waitRid := some rid }
  | .stop s outcome va => match s.eng b id with
    | some o => s.endEng b o outcome o.done.length (if o.chunks.isEmpty then va else o.firstPoison)
    | none => s

/-- One more query; with none left the operation ends. -/
def State.geyserStep (s : State) (b id : Nat) (kind : EngKind) (run : State → EngOp → Nat → EngOut) : State :=
  match s.eng b id with
  | none => s
  | some o =>
    if o.kind ≠ kind ∨ o.waitRid.isSome then s
    else match o.stop with
      | some (outcome, va) => s.endEng b o outcome o.done.length va
      | none =>
        let q := o.done.length + o.skip.length
        let s := if q < (Geyser.of o.desc).q then geyserAfter b id q (run s o q) else s
        match s.eng b id with
        | none => s
        | some o =>
          if o.done.length + o.skip.length < (Geyser.of o.desc).q then s
          else
            s.endEng b o (if o.chunks.isEmpty then outcomeRetired else outcomePoisoned) o.done.length o.firstPoison

/-- PKL_COMPLETE (R304): `n` more queries. -/
def execPklComplete (core id n : Nat) (s : State) : Answer :=
  .next ((List.range n).foldl (fun (s : State) _ => s.geyserStep core id .pkl fun s o q => s.lookup core o q) s).wakeAll

/-! Scatters (R306). -/

/-- A range cut at granules of 256 bytes. -/
def granulesOf (va : Nat) : Nat → Nat → List (Nat × Nat)
  | 0, _ => []
  | fuel + 1, n =>
    if n = 0 then []
    else
      let k := min n (256 - va % 256)
      (va, k) :: granulesOf (va + k) fuel (n - k)

/-- The first poisoned address of a granule at a PA, its address being va. -/
def State.granulePoison (s : State) (pa va : Nat) : Option Nat :=
  let p := paAddr pa / 256 * 256
  ((List.range 256).find? fun i => poisonedAt s.poison (p + i)).map fun i => va / 256 * 256 + i

/-- A BF16 value with a product added under SR (R306, 06 R119). -/
def scatterAdd (seed va stream v : Nat) (g w : Val) : Nat :=
  let x := FloatFmt.bf16.decode v
  let sum : Val := match firstNaN [x, g, w] with
    | some n => n
    | none =>
      let (p, bad) := Val.mul .exact g w
      if bad then Val.defaultNaN else (Val.add .rne x p).1
  (FloatFmt.bf16.round .sr (kmix seed (va / 2) stream % 65536) false sum).1

/-- The additions of one piece of a row, a granule's part of `n` bytes at `va`, whose first element is element `first` of the row; or the
poisoned address its granule holds. -/
def State.scatterPiece (s : State) (b : Nat) (o : EngOp) (q : Nat) (grad : List Val) (w : Val) (va n first : Nat) : State × Got (Option Nat) :=
  match s.reachPa (o.agent b) va true with
  | (s, .ok pa) =>
    if !s.keyLoaded (paKey pa) then (s.count o.part 8, .fault 0)
    else
      let s := s.dropLines (paAddr pa / 256 * 256) 256
      match s.granulePoison pa va with
      | some a => (s, .ok (some a))
      | none =>
        let (s, d, _) := s.homeRead o.part pa n
        let out := (List.range (n / 2)).flatMap fun i =>
          leBytes 2 (scatterAdd o.seed (va + 2 * i) ((o.seqNo + q) % 65536) (elemAt d 2 i) ((grad[first + i]?).getD (.zero false)) w)
        ((s.holdCode b (some o.team) pa out.length).homePut o.part pa out, .ok none)
  | (s, .wait rid) => (s, .wait rid)
  | (s, .fault v) | (s, .poison v) => (s, .fault v)

/-- The pieces of the rows of a query in the order of R306: weight, address, bytes, first element. -/
def Geyser.pieces (g : Geyser) (rows : List (Nat × Val)) : List (Val × Nat × Nat × Nat) :=
  rows.flatMap fun r =>
    let base := g.val + r.1 * g.dv * 2
    (granulesOf base (g.dv + 2) (g.dv * 2)).map fun p => (r.2, p.1, p.2, (p.1 - base) / 2)

/-- Pieces scattered one after another; answers the poisoned granules met. -/
def State.scatterRows (s : State) (b : Nat) (o : EngOp) (q : Nat) (grad : List Val) (ps : List (Val × Nat × Nat × Nat)) : State × List Nat × Got Unit :=
  ps.foldl (fun (acc : State × List Nat × Got Unit) p =>
    match acc with
    | (s, bad, .ok _) => match s.scatterPiece b o q grad p.1 p.2.1 p.2.2.1 p.2.2.2 with
      | (s, .ok a) => (s, bad ++ a.toList, .ok ())
      | (s, .wait rid) => (s, bad, .wait rid)
      | (s, .fault v) | (s, .poison v) => (s, bad, .fault v)
    | _ => acc) (s, [], .ok ())

/-- One query scattered, once every page it writes is reached. -/
def State.scatter (s : State) (b : Nat) (o : EngOp) (q : Nat) : EngOut :=
  let g := Geyser.of o.desc
  match s.spadGet b o.team (spadAt g.qry + q * g.dv * 4) (g.dv * 4), s.spadGet b o.team (spadAt g.idx + q * g.k * 4) (g.k * 4),
      s.spadGet b o.team (spadAt g.wgt + q * g.k * 4) (g.k * 4) with
  | some (gb, p1), some (ib, p2), some (wb, p3) =>
    match (p1.orElse fun _ => p2).orElse fun _ => p3 with
    | some va => .stop s outcomePoisoned va
    | none =>
      let rows := (List.range g.k).map fun j => (elemAt ib 4 j, FloatFmt.f32.decode (elemAt wb 4 j))
      let note (s : State) (bad : List Nat) : State := s.modEng b o.id fun o => { o with chunks := o.chunks ++ bad.map fun a => (q, a) }
      match s.canWrite (o.agent b) (rows.map fun r => (g.val + r.1 * g.dv * 2, g.dv * 2)) with
      | (s, .wait rid) => .wait s rid
      | (s, .fault v) | (s, .poison v) => .stop s outcomeFault v
      | (s, .ok _) => match s.scatterRows b o q (decodeAll .f32 4 gb) (g.pieces rows) with
        | (s, bad, .ok _) =>
          .done (note s bad)
        | (s, bad, .wait rid) => .wait (note s bad) rid
        | (s, bad, .fault _) | (s, bad, .poison _) => .stop (note s bad) outcomeError 0
  | _, _, _ => .stop s outcomeFault (spadAt g.qry)

/-- PKLB_COMPLETE (R306): `n` more queries. -/
def execPklbComplete (core id n : Nat) (s : State) : Answer :=
  .next ((List.range n).foldl (fun (s : State) _ => s.geyserStep core id .pklb fun s o q => s.scatter core o q) s).wakeAll

end Sys2Proof.Machine
end

