-- ==== Sys2Proof/Machine/Collective.lean ====
section
/-! DEFINITION. Collectives (15 R312 to R314, 10 R203): COLL, its formation, its chunks and its completion. What the other
participants issue arrives with the event that forms the collective (log entry 29). And the answers of peers, to copies and to
collectives (28 R449). -/

namespace Sys2Proof.Machine

/-! The descriptor (R312). -/

structure CollDesc where
  op : Nat
  rop : Nat
  fmt : Nat
  group : Nat
  lowexp : Int
  root : Nat
  send : Nat
  recv : Nat
  count : Nat
  recAt : Nat
  deriving DecidableEq, Repr

def CollDesc.of (d : List Byte) : CollDesc :=
  { op := field d 0 1, rop := field d 1 1, fmt := field d 2 1, group := field d 3 1, lowexp := signed 16 (field d 4 2),
    root := field d 6 2, send := field d 8 8, recv := field d 16 8, count := field d 24 8, recAt := field d 32 8 }

/-- Element bytes and format of a code. -/
def collBytes (fmt : Nat) : Nat := if fmt = 8 then 2 else if fmt = 6 ∨ fmt = 3 then 8 else 4
def collFloat (fmt : Nat) : Option FloatFmt := if fmt = 5 then some .f32 else if fmt = 6 then some .f64 else if fmt = 8 then some .bf16 else none
/-- A reducing operation, and a floating-point SUM. -/
def CollDesc.reduces (c : CollDesc) : Bool := c.op == 1 || c.op == 2
def CollDesc.sums (c : CollDesc) : Bool := c.reduces && c.rop == 0 && (collFloat c.fmt).isSome

def CollDesc.wellShaped (c : CollDesc) (d : List Byte) : Bool :=
  (List.range 24).all (fun i => field d (40 + i) 1 == 0) && decide (1 ≤ c.op) && decide (c.op ≤ 4) &&
  (if c.reduces then decide (c.rop ≤ 2) else c.rop == 0) && [1, 3, 5, 6, 8].contains c.fmt &&
  (c.op == 4 || c.root == 0) && (c.sums || c.lowexp == 0)

/-- A group of the partition: valid, own rank, size (17 R356). -/
def Partition.collGroup (p : Partition) (g : Nat) : Option (Nat × Nat) :=
  match p.groups[g]? with
  | some e => if bit e 63 then some (bits e 47 32, bits e 31 16) else none
  | none => none

/-- Elements of SEND and of RECV. -/
def CollDesc.sendLen (c : CollDesc) (n : Nat) : Nat := if c.op = 2 then n * c.count else c.count
def CollDesc.recvLen (c : CollDesc) (n : Nat) : Nat := if c.op = 3 then n * c.count else c.count

/-- The checks of a descriptor (R290 steps 4 to 6, R312). -/
def State.collTrap (s : State) (x : Lane) (d : List Byte) (va : Nat) : Option Trap :=
  let c := CollDesc.of d
  let z := collBytes c.fmt
  if !c.wellShaped d then some (access 0x07 va)
  else if 15 < c.group ∨ c.count < 1 ∨ 2 ^ 40 < c.count then some (access 0x08 va)
  else match (s.part (s.partOf x.core)).collGroup c.group with
    | none => some (access 0x0E va)
    | some (_, n) =>
      if c.op = 4 ∧ n ≤ c.root then some (access 0x08 va)
      else
        let far (va : Nat) : Option Trap := if va / 2 ^ 57 ≠ 0 then some (aperture va) else none
        (s.memberTrap x c.recAt).orElse fun _ => (far c.send).orElse fun _ => (far c.recv).orElse fun _ => (s.ownTrap x c.recAt).orElse fun _ =>
        (alignTrap z c.send).orElse fun _ => (alignTrap z c.recv).orElse fun _ => (alignTrap 16 c.recAt).orElse fun _ => s.sourceTrap x c.recAt

/-- COLL at issue: it joins the group's next collective. -/
def execColl (o : Enc) (s : State) : Answer :=
  let d := o.d.toNat
  .next (s.onceInstr o [6] [addrA o] (some (d, false)) fun s x =>
    let va := ((addrA o).value (s.laneThread x)).toNat
    match s.descriptor x va 64 64 (some d) with
    | .inr r => r
    | .inl (b, _) => match s.collTrap x b va with
      | some r => (s, .trap r)
      | none =>
        if !(s.core x.core).engRoom (· == .coll) 8 || !s.quiet x then (s, .hold .waitUnit)
        else match s.newHandle x 6 with
          | none => (s, .hold .waitUnit)
          | some (k, h, s) =>
            let p := s.partOf x.core
            let g := (CollDesc.of b).group
            let m := ((s.part p).collSeq[g]?).getD 0
            let s := s.modPart p fun y => { y with collSeq := updateAt (· + 1) y.collSeq g }
            ((s.startEng x .coll k va b 0 0 [] m).issued x o h, .next))

/-! Formation, chunks, completion. -/

/-- The record (R314), where it can be written; to a peer window its packet is sent, the tags allowing (28 R448, log entry 52). -/
def State.collRecord (s : State) (b : Nat) (o : EngOp) (outcome bad flags : Nat) : State :=
  let c := CollDesc.of o.desc
  let data := leBytes 4 (outcome * 2 ^ 29 + min o.resent (2 ^ 24 - 1)) ++ leBytes 4 flags ++ leBytes 4 bad ++ leBytes 4 0
  if c.recAt / 2 ^ 48 = 0xFFFE then s.spadPut b o.team c.recAt data
  else match s.peerPa (o.agent b) c.recAt with
    | some pa => (s.sendPeer o.part pa 16 (some data)).getD (s.count o.part 9)
    | none => (s.writeVa (o.agent b) c.recAt data).1

/-- The collective ends for this participant. -/
def State.collEnd (s : State) (b : Nat) (o : EngOp) (outcome bad flags addr : Nat) : State :=
  ((s.collRecord b o outcome bad flags).endEng b o outcome o.resent addr).wakeAll

/-- A collective of a kind forms: every rank's part is there; parts that differ end it ERROR (R312). -/
def State.collForm (s : State) (b id kind : Nat) (peers : List PeerPart) : State :=
  match s.eng b id with
  | none => s
  | some o =>
    let c := CollDesc.of o.desc
    match (s.part o.part).collGroup c.group with
    | none => s
    | some (rank, n) =>
      if o.kind ≠ .coll ∨ c.op ≠ kind ∨ o.started ∨
         !((List.range n).all fun r => r == rank || (peers.filter fun p => p.rank == r).length == 1) then s
      else if peers.any fun p => p.op != c.op || p.rop != c.rop || p.fmt != c.fmt || p.count != c.count || p.lowexp != c.lowexp || p.root != c.root then
        s.collEnd b o outcomeError 0xFFFFFFFF 0 0
      else s.modEng b id fun o => { o with started := true, parts := peers }

def execAllreduce (core id : Nat) (peers : List PeerPart) (s : State) : Answer := .next (s.collForm core id 1 peers)
def execReduceScatter (core id : Nat) (peers : List PeerPart) (s : State) : Answer := .next (s.collForm core id 2 peers)
def execAllgather (core id : Nat) (peers : List PeerPart) (s : State) : Answer := .next (s.collForm core id 3 peers)
def execBroadcast (core id : Nat) (peers : List PeerPart) (s : State) : Answer := .next (s.collForm core id 4 peers)

/-- Chunks of 4 KiB of SEND. -/
def CollDesc.chunks (c : CollDesc) (n : Nat) : Nat := ceilDiv (c.sendLen n * collBytes c.fmt) 4096

/-- COLL_CHUNK (R314): a chunk whose checksum holds is kept; a mismatch has it sent again, and the fourth is an ERROR. -/
def execCollChunk (core id chunk : Nat) (good : Bool) (s : State) : Answer :=
  .next (match s.eng core id with
    | none => s
    | some o =>
      let c := CollDesc.of o.desc
      let n := (((s.part o.part).collGroup c.group).map (·.2)).getD 0
      if o.kind ≠ .coll ∨ !o.started ∨ c.chunks n ≤ chunk ∨ o.done.contains chunk then s
      else if good then s.modEng core id fun o => { o with done := o.done ++ [chunk] }
      else
        let fails := lookupNat o.chunks chunk 0
        if fails = 3 then s.collEnd core o outcomeError chunk 0 0
        else s.modEng core id fun o => { o with chunks := putNat o.chunks chunk (fails + 1) 0, resent := o.resent + 1 })

/-- X of R313: the 128-bit integer of an element, whether it saturated, whether it is NaN. -/
def collX (elow : Int) (v : Val) : Int × Bool × Bool :=
  let lim : Int := 2 ^ 127 - 1
  match v with
  | .nan .. => (0, false, true)
  | .inf n => (if n then -lim else lim, true, false)
  | .zero _ => (0, false, false)
  | .fin n m e =>
    let q := e - elow
    if 127 ≤ (Nat.log2 m : Int) + q then (if n then -lim else lim, true, false)
    else
      let a : Int := if 0 ≤ q then (m : Int) * 2 ^ q.toNat else ((m / 2 ^ (-q).toNat : Nat) : Int)
      (if n then -a else a, false, false)

/-- One result element from the participants' elements, with the SAT and NAN flags. -/
def CollDesc.reduce (c : CollDesc) (xs : List Nat) : Nat × Nat :=
  let z := collBytes c.fmt
  match collFloat c.fmt with
  | some f =>
    if c.rop = 0 then
      let ts := xs.map fun x => collX c.lowexp (f.decode x)
      let nan := ts.any fun t => t.2.2
      let sum := (ts.map (·.1)).foldl (· + ·) 0
      let v := if nan then Val.defaultNaN else Val.ofInt sum c.lowexp
      ((f.round .rne 0 false v).1, (ts.any fun t => t.2.1).toNat + 2 * nan.toNat)
    else match xs with
      | [] => (0, 0)
      | x :: r => (r.foldl (fun a b => (f.round .rne 0 false (fminmax (c.rop == 2) false (f.decode a) (f.decode b)).1).1) x, 0)
  | none =>
    let w := 8 * z
    match xs with
    | [] => (0, 0)
    | x :: r => (r.foldl (fun a b =>
        if c.rop = 0 then (a + b) % 2 ^ w
        else if c.rop = 1 then (if signed w b < signed w a then b else a)
        else if signed w a < signed w b then b else a) x, 0)

/-- RECV and the flags, from every rank's bytes in rank order. -/
def CollDesc.result (c : CollDesc) (rank : Nat) (all : List (List Byte)) : List Byte × Nat :=
  let z := collBytes c.fmt
  let part (r : Nat) : List Byte := (all[r]?).getD []
  match c.op with
  | 3 => (all.flatMap fun d => d.take (c.count * z), 0)
  | 4 => ((part c.root).take (c.count * z), 0)
  | _ =>
    let base := if c.op = 2 then rank * c.count else 0
    let rs := (List.range c.count).map fun i => c.reduce (all.map fun d => elemAt d z (base + i))
    (rs.flatMap fun r => leBytes z r.1, rs.foldl (fun f r => f ||| r.2) 0)

/-- Bytes brought to a length. -/
def padTo (n : Nat) (d : List Byte) : List Byte := (d ++ List.replicate n 0).take n

/-- The acquire of a named buffer: words of its lines that the core's cache holds valid and not owned are dropped (10 R198, R203). -/
def State.acquireVa (s : State) (b : Nat) (g : Agent) (va n : Nat) : State :=
  (pageSplit va n).foldl (fun (s : State) p => match s.reachPa g p.1 false with
    | (s, .ok pa) =>
      let ls := linesOf (paAddr pa) p.2
      s.modCore b fun c => { c with cache := c.cache.map fun l => if ls.contains l.line then { l with valid := l.valid &&& l.owned } else l }
    | (s, _) => s) s

/-- A failed access of a collective's, as what its work comes to. -/
def Got.item {α : Type} : Got α → ItemOut
  | .ok _ => .done
  | .wait 0 => .again
  | .wait rid => .wait rid
  | .fault v => .stop outcomeFault v
  | .poison _ => .stop outcomePoisoned 0

/-- SEND's bytes, those already got first: a peer's are asked for page by page (28 R449). -/
def State.collRead (s : State) (b : Nat) (o : EngOp) (va n : Nat) : State × List Byte × ItemOut :=
  (pageSplit (va + o.got.length) (n - o.got.length)).foldl (fun (acc : State × List Byte × ItemOut) p =>
    match acc with
    | (s, d, .done) => (match s.peerPa (o.agent b) p.1 with
      | some pa => match s.sendPeer o.part pa p.2 none with
        | none => (s.count o.part 9, d, .stop outcomeFault p.1)
        | some s => (s, d, .sent { dest := 0, write := false, got := d, pos := 0, n := p.2 })
      | none => match s.readVa (o.agent b) p.1 p.2 with
        | (s, .ok e) => (s, d ++ e, .done)
        | (s, r) => (s, d, r.item))
    | _ => acc) (s, o.got, .done)

/-- RECV's page number `i`, from the result's bytes there: a peer's goes as a packet. -/
def State.collPut (s : State) (b : Nat) (o : EngOp) (own : List Byte) (i : Nat) (w : Nat × List Byte) : State × ItemOut :=
  match s.reachPa (o.agent b) w.1 true with
  | (s, .ok pa) =>
    if paWin pa && bit pa 46 then
      match s.sendPeer o.part pa w.2.length (some w.2) with
      | none => (s.count o.part 9, .stop outcomeFault w.1)
      | some s => (s, .sent { dest := 0, write := true, got := own, pos := i, n := w.2.length })
    else let (s, r) := s.writeVa (o.agent b) w.1 w.2; (s, r.item)
  | (s, r) => (s, r.item)

/-- What a piece of a collective's work comes to: it goes on from the bytes got and the pages written, or it ends. -/
def State.collHold (s : State) (b : Nat) (o : EngOp) (got : List Byte) (pos : Nat) : ItemOut → State
  | .done | .again => s
  | .wait rid => s.modEng b o.id fun o => { o with waitRid := some rid, got, pos }
  | .sent w => s.modEng b o.id fun o => { o with peer := some w, got, pos }
  | .stop outcome va => s.collEnd b o outcome 0xFFFFFFFF 0 va

/-- COLL_COMPLETE (R203): every chunk is here; the results and the record are written and the handle completes. -/
def execCollComplete (core id : Nat) (s : State) : Answer :=
  .next (match s.eng core id with
    | none => s
    | some o =>
      let c := CollDesc.of o.desc
      match (s.part o.part).collGroup c.group with
      | none => s
      | some (rank, n) =>
        let bytes := c.sendLen n * collBytes c.fmt
        if o.kind ≠ .coll ∨ !o.started ∨ o.waitRid.isSome ∨ o.peer.isSome ∨ o.done.length < c.chunks n then s
        else match o.stop with
          | some (outcome, va) => s.collEnd core o outcome 0xFFFFFFFF 0 va
          | none =>
            match s.collRead core o c.send (if c.op = 4 ∧ c.root ≠ rank then 0 else bytes) with
            | (s, own, .done) =>
              let data (r : Nat) : List Byte := if r = rank then own else padTo bytes (((o.parts.find? fun p => p.rank == r).map PeerPart.data).getD [])
              let (out, flags) := c.result rank ((List.range n).map data)
              let pages := pageSplit c.recv out.length
              let here := (pages ++ if c.recAt / 2 ^ 48 = 0xFFFE then [] else [(c.recAt, 16)]).filter fun p => (s.peerPa (o.agent core) p.1).isNone
              (match s.canWrite (o.agent core) here with
              | (s, .ok _) =>
                let ws := (List.range pages.length).zip (pages.map fun p => (p.1, (out.drop (p.1 - c.recv)).take p.2))
                (match whileDone (fun s w => s.collPut core o own w.1 w.2) (ws.drop o.pos) s with
                | (s, .done) => ((s.acquireVa core (o.agent core) c.recv out.length).acquireVa core (o.agent core) c.send bytes).collEnd core o
                    outcomeRetired 0xFFFFFFFF flags 0
                | (s, r) => s.collHold core o own o.pos r)
              | (s, .poison v) => s.collHold core o own o.pos (.stop outcomeFault v)
              | (s, r) => s.collHold core o own o.pos r.item)
            | (s, got, r) => s.collHold core o got o.pos r)

/-- A peer's answer to a collective's packet in flight. -/
def State.collAnswer (s : State) (b : Nat) (o : EngOp) (w : PeerWait) (ok : Bool) (data : List Byte) : State :=
  let c := CollDesc.of o.desc
  let s := s.modEng b o.id fun o => { o with peer := none }
  if w.write then
    if ok then s.modEng b o.id fun o => { o with pos := w.pos + 1 }
    else s.collEnd b o outcomeFault 0xFFFFFFFF 0 (((pageSplit c.recv ((w.pos + 1) * 4096))[w.pos]?.map (·.1)).getD 0)
  else if ok && data.length == w.n then s.modEng b o.id fun o => { o with got := w.got ++ data }
  else s.collEnd b o outcomeFault 0xFFFFFFFF 0 (c.send + w.got.length)

/-- A peer's participant has cancelled the collective: this one ends ABANDONED too (R295). -/
def State.peerCancel (s : State) (core id : Nat) : State :=
  match s.eng core id with
  | some o => if o.kind = .coll then (s.endEng core o outcomeAbandoned o.resent 0).wakeAll else s
  | none => s

/-- UALINK_COMPLETION (R449): the answer to a copy's or a collective's packet in flight. -/
def execUalinkCompletion (core id : Nat) (ok : Bool) (data : List Byte) (s : State) : Answer :=
  .next (match s.copy core id with
    | none => (match s.eng core id with
      | some o => (match o.kind, o.peer with
        | .coll, some w => s.collAnswer core o w ok data
        | _, _ => s)
      | none => s)
    | some o => match o.peer with
      | none => s
      | some w =>
        let idx := (o.done[w.dest]?).getD 0
        let n := idx / o.req.items
        let k := idx % o.req.items
        let o' := { o with peer := none }
        let s := s.modCopy core id fun o => { o with peer := none }
        if w.write then
          if ok then ((s.copyWrote core o' w.n).copyItem core o' w.dest w.got (w.pos + 1) true).wakeAll
          else
            let at_ := ((((o.req.writes n k (o.req.image w.got)).drop w.pos).headD (0, [])).1)
            (s.endCopy core o' outcomeFault at_).wakeAll
        else if ok && data.length == w.n then (s.copyItem core o' w.dest (w.got ++ data) 0 false).wakeAll
        else (s.endCopy core o' outcomeFault (((o.req.source n k).headD (0, 0)).1 + w.got.length)).wakeAll)

end Sys2Proof.Machine
end

