-- ==== Sys2Proof/Machine/Convert.lean ====
section
/-! DEFINITION. Conversion, packing, dot-product and random instructions (07 R149 to R155). -/

namespace Sys2Proof.Machine

/-- The source operand of CVT and CVTS: in SF, or with SF = 0 in the format that A's tag names (R150). -/
def cvtSource (o : Enc) (unary : Bool) (t : Thread) : Opnd × Tag :=
  let sf := (Encoding.sfTag o).getD .raw
  let lit := o.hasLit && unary
  if lit then (.lit 1 (o.litVal (sf == .raw || sf.wide)) (if sf = .raw then .among Encoding.setX else .only sf), sf)
  else if sf = .raw then
    let g := (t.reg o.a.toNat).tag
    if !Encoding.setX.contains g || g.wide && o.a.getLsbD 0 then (.reg 1 o.a.toNat false o.wa (.among []), g)
    else (.reg 1 o.a.toNat g.wide o.wa (.among Encoding.setX), g)
  else (.reg 1 o.a.toNat sf.wide o.wa (.only sf), sf)

/-- round_fp(a × 2^n) from one element format to another (R150). -/
def convert (src dst : Tag) (rm : Rm) (sat : Bool) (n : Int) (x : Nat) : Nat × Exc :=
  let v := src.elemFmt.decode (x % 2 ^ src.elemBits)
  let (y, e) := dst.elemFmt.round rm 0 sat (scaleVal n v)
  (y, { e with invalid := e.invalid || v.isSig })

def cvtForm (o : Enc) (scaled : Bool) : RegForm :=
  let f := o.fmt .f32
  let b := o.litB false (.only .i32)
  { more := fun t => [(cvtSource o (!scaled) t).1], srcs := if scaled then [b] else [], dst := some (o.d.toNat, f.wide),
    body := fun _ t =>
      let (a, sf) := cvtSource o (!scaled) t
      let n := if scaled then signed 32 (b.value t).toNat else 0
      finishElems o f t [convert sf f (roundOf o t) (o.modBit 0) n (a.value t).toNat] }

def execCvt (o : Enc) (s : State) : Answer := .next (s.regInstr o (cvtForm o false))
def execCvts (o : Enc) (s : State) : Answer := .next (s.regInstr o (cvtForm o true))

/-- The 32-bit format whose values an element format packs (R149). -/
def packSource (f : Tag) : Tag := if f.isFloat then .f32 else if f.isSigned then .i32 else .n32

/-- The elements of D with pair j replaced by two rounded values (R151). -/
def packPair (o : Enc) (f : Tag) (old : Nat) (t : Thread) (g : Nat → Nat × Exc) : Thread ⊕ Trap :=
  let j := o.modBits 1 0
  finishElems o f t ((List.range f.count).map fun k =>
    if k = 2 * j then g 0 else if k = 2 * j + 1 then g 1 else (elem f.elemBits old k, {}))

/-- PACK (R151). Under SR operand C carries the random bits, tagged N32 or RAW as the floating-point group's does (log entry 96). -/
def packForm (o : Enc) : RegForm :=
  let f := o.fmt .bf16x2
  let g := packSource f
  let a := o.regA false (.only g)
  let b := o.litB false (.only g)
  let c := o.regC false (.only .n32)
  let d := o.regD false (.only f)
  { srcs := if o.isExt && o.rm == 5 then [a, b, c, d] else [a, b, d], dst := some (o.d.toNat, false),
    body := fun _ t => packPair o f (d.value t).toNat t fun k =>
      let v := g.elemFmt.decode ((if k = 0 then a else b).value t).toNat
      let (y, e) := f.elemFmt.round (roundOf o t) (rand16 (c.value t).toNat k) (o.modBit 2) v
      (y, { e with invalid := e.invalid || v.isSig }) }

def execPack (o : Enc) (s : State) : Answer := .next (s.regInstr o (packForm o))

/-- A value scaled by an E8M0 code; the code 0xFF makes it a NaN (R151). -/
def quantScale (v : Val) (c : Nat) : Val × Bool :=
  if v.isNaN then (v, v.isSig || c == 255) else if c = 255 then (Val.defaultNaN, true) else (scaleVal (127 - (c : Int)) v, false)

/-- QNT (R151); a base form checks the one register it reads as C and as D only as C (03 R73). -/
def qntForm (o : Enc) : RegForm :=
  let f := o.fmt .e4m3x4
  let a := o.regA false (.only .f32)
  let b := o.litB false (.only .f32)
  let c := o.regC false (.only .e8m0x4)
  let d := o.regD false (.only f)
  { srcs := if o.isExt then [a, b, c, d] else [a, b, c], dst := some (o.d.toNat, false),
    body := fun _ t => packPair o f (d.value t).toNat t fun k =>
      let (v, inv) := quantScale (FloatFmt.f32.decode ((if k = 0 then a else b).value t).toNat) ((c.value t).toNat % 256)
      let (y, e) := f.elemFmt.round (roundOf o t) 0 (o.modBit 2) v
      (y, { e with invalid := e.invalid || inv }) }

def execQnt (o : Enc) (s : State) : Answer := .next (s.regInstr o (qntForm o))

/-- A scalar result with its exceptions (R148: a scalar counts as element 0). -/
def finishScalar (o : Enc) (g : Tag) (t : Thread) (r : Nat × Exc) : Thread ⊕ Trap :=
  match arithInfo t.rnd [r.2] with
  | some n => .inr { cause := cArith, info := n }
  | none => .inl (t.write o.d.toNat g.wide (BitVec.ofNat 64 r.1) g)

/-- Element j of A, widened exactly (R152). -/
def unpkForm (o : Enc) : RegForm :=
  let f := o.fmt .bf16x2
  let a := o.litA false (.only f)
  let g := if f = .e8m0x4 then .f32 else packSource f
  { srcs := [a], dst := some (o.d.toNat, false),
    body := fun _ t =>
      let v := f.elemFmt.decode (elem f.elemBits (a.value t).toNat (o.modBits 2 0))
      finishScalar o g t ((g.elemFmt.round .rne 0 false v).1, { invalid := v.isSig }) }

def execUnpk (o : Enc) (s : State) : Answer := .next (s.regInstr o (unpkForm o))

/-- DEQ (R152). -/
def deqForm (o : Enc) : RegForm :=
  let f := o.fmt .bf16x2
  let a := o.regA false (.only f)
  let b := o.litB false (.only .e8m0x4)
  { srcs := [a, b], dst := some (o.d.toNat, false),
    body := fun _ t =>
      let v := f.elemFmt.decode (elem f.elemBits (a.value t).toNat (o.modBits 2 0))
      let c := (b.value t).toNat % 256
      let (x, inv) := if c = 255 then (Val.defaultNaN, true) else (scaleVal ((c : Int) - 127) v, v.isSig)
      finishScalar o .f32 t (roundWith .f32 (roundOf o t) 0 false (x, inv)) }

def execDeq (o : Enc) (s : State) : Answer := .next (s.regInstr o (deqForm o))

/-! Dot products (R153). -/

/-- The exact sum of terms that may be infinite, none of them NaN; whether ∞ − ∞ occurs. -/
def sumVals (rm : Rm) (vs : List Val) : Val × Bool :=
  let up := vs.any fun v => v.isInf && !v.neg
  let down := vs.any fun v => v.isInf && v.neg
  if up && down then (Val.defaultNaN, true)
  else if up || down then (.inf down, false)
  else (match vs with
    | [] => .zero false
    | v :: r => r.foldl (fun acc x => (Val.add rm acc x).1) v, false)

/-- C plus the class products of the elements, with the NaN order A, B, C. Beside a NaN a product 0 times infinity signals
invalid, a difference of infinities does not (log entry 84). -/
def dotSum (cls : AccClass) (rm : Rm) (as bs : List Val) (c : Val) : Val × Bool :=
  let ps := (as.zip bs).map fun x => if x.1.isNaN || x.2.isNaN then (Val.zero false, false) else Val.mul cls x.1 x.2
  let bad := ps.any (·.2)
  match firstNaN (as ++ bs ++ [c]) with
  | some v => (v, (as ++ bs ++ [c]).any Val.isSig || bad)
  | none => if bad then (Val.defaultNaN, true) else sumVals rm (c :: ps.map (·.1))

/-- The class of a DOT: a base form truncates at half its planes (R149). -/
def dotClass (o : Enc) (p : Nat) : AccClass :=
  match o.q.toNat with
  | 1 => .trunc p (if o.isExt then o.modBits 3 0 + 1 else (p + 1) / 2)
  | 2 => .log
  | _ => .exact

/-- The integer a finite exact value of exponent 0 or above holds. -/
def intOfVal : Val → Int
  | .fin n m e => Val.mantAt 0 (.fin n (m <<< e.toNat) 0)
  | _ => 0

def dotForm (o : Enc) (dflt : Tag) : RegForm :=
  let f := o.fmt dflt
  let g := packSource f
  let a := o.regA false (.only f)
  let b := o.litB false (.only f)
  let c := o.regC false (.only g)
  { short := false, srcs := [a, b, c], dst := some (o.d.toNat, false),
    body := fun _ t =>
      let vs (x : Opnd) := (List.range f.count).map fun k => f.elemFmt.decode (elem f.elemBits (x.value t).toNat k)
      let rm := if f.isFloat then roundOf o t else .rne
      let v := dotSum (dotClass o f.planes) rm (vs a) (vs b) (g.elemFmt.decode (c.value t).toNat)
      if f.isFloat then finishScalar o g t (roundWith .f32 rm 0 (o.modBit 4) v)
      else
        let x := intOfVal v.1
        let y := if o.modBit 4 then clampInt x (intLow g.isSigned 32) (intHigh g.isSigned 32) else x
        .inl (t.write o.d.toNat false (BitVec.ofNat 64 (wrap 32 y)) g) }

def execDot2 (o : Enc) (s : State) : Answer := .next (s.regInstr o (dotForm o .f16x2))
def execDot4 (o : Enc) (s : State) : Answer := .next (s.regInstr o (dotForm o .e4m3x4))
def execDot8 (o : Enc) (s : State) : Answer := .next (s.regInstr o (dotForm o .e2m1x8))

/-! Random numbers (R154, R155). -/

/-- Key, counter and stream operands. -/
def rngTags : Want := .oneOf [.n64, .i64]

def rngForm (o : Enc) (g : Tag) (val : Nat → Nat) : RegForm :=
  let a := o.regA true rngTags
  let b := o.litB true rngTags
  { srcs := [a, b], dst := some (o.d.toNat, false),
    body := fun _ t => .inl (t.write o.d.toNat false
      (BitVec.ofNat 64 (val (kmix (a.value t).toNat (b.value t).toNat (o.w2Bits 15 0)))) g) }

def execRng (o : Enc) (s : State) : Answer := .next (s.regInstr o (rngForm o .n32 fun x => x))
def execRngu (o : Enc) (s : State) : Answer :=
  .next (s.regInstr o (rngForm o .f32 fun x => (FloatFmt.f32.round .rne 0 false (Val.ofInt ((x / 256 : Nat)) (-24))).1))

def rmaskForm (o : Enc) : RegForm :=
  let a := o.regA true rngTags
  let b := o.litB true rngTags
  let c := o.regC false (.only .n32)
  { srcs := [a, b, c], dst := some (o.d.toNat, false),
    body := fun _ t =>
      let bits := (List.range 32).filter fun j =>
        decide (kmix (a.value t).toNat (((b.value t).toNat + j) % 2 ^ 64) (o.w2Bits 15 0) < (c.value t).toNat)
      .inl (t.write o.d.toNat false (BitVec.ofNat 64 (maskOf bits)) .pred32) }

def execRmask (o : Enc) (s : State) : Answer := .next (s.regInstr o (rmaskForm o))

end Sys2Proof.Machine
end

