-- ==== Sys2Proof/Machine/Debug.lean ====
section
/-! DEFINITION. Debug instructions and the event queue (spec 20). Lane masks and targets number physical lanes (log entry 26). -/

namespace Sys2Proof.Machine

open Encoding

def slotTags : Want := .oneOf [.n32, .i32]
def messageTags : Want := .oneOf [.addr, .n64]

def reason (n : Nat) : LaneOut := .trap { cause := cAccess, info := n }

/-- A slot operand names a team crew of the executing core (R398): the slot, or the reason. -/
def State.debugSlot (s : State) (b v : Nat) : Nat ⊕ Nat :=
  if 64 ≤ v then .inr 0x08
  else if v = 63 ∨ (s.teamOf b v).isNone then .inr 0x10
  else .inl v

/-- A target word: slot and lane. -/
def State.debugTarget (s : State) (b v : Nat) : Lane ⊕ Nat :=
  if bits v 31 13 ≠ 0 ∨ bits v 7 6 ≠ 0 then .inr 0x08
  else match s.debugSlot b (v % 64) with
    | .inr r => .inr r
    | .inl sl =>
      let l := bits v 12 8
      if (s.thread b sl l).st = .halted then .inl ⟨b, sl, l⟩ else .inr 0x10

/-- A debug instruction with a slot in A. -/
def slotForm (o : Enc) (srcs : List Opnd) (dst : Option (Nat × Bool)) (body : State → Lane → Nat → State × LaneOut) (opc : Nat) : LaneForm :=
  let a := o.regA false slotTags
  { sOnly := some opc, short := false, srcs := a :: srcs, dst,
    body := fun s x => match s.debugSlot x.core ((a.value (s.laneThread x)).toNat % 2 ^ 32) with
      | .inr r => (s, reason r)
      | .inl sl => body s x sl }

/-- DHALT (R399): runnable lanes halt at once; lanes in a wait are marked. -/
def dhaltForm (o : Enc) : LaneForm :=
  slotForm o [] (some (o.d.toNat, false)) (fun s x sl =>
    let run := (List.range 32).filter fun l => (s.thread x.core sl l).st == .runnable
    let s := s.modCrew x.core sl fun c => { c with threads := c.threads.map fun t =>
      if t.st = .runnable then { t with st := .halted, age := 0 }
      else if t.st = .exited ∨ t.st = .halted then t else { t with haltMark := true } }
    let s := s.settle x.core sl
    (s.producer x (some o.d.toNat) false (.halting sl (maskOf run)), .next)) 0xE4

def execDhalt (o : Enc) (s : State) : Answer := .next (s.laneInstr o (dhaltForm o))

/-- A halted lane runs again; it does not match a breakpoint at its first issue (R395). -/
def Thread.unhalt (t : Thread) (step : Bool) : Thread :=
  if t.st = .halted then { t with st := .runnable, age := 0, haltMark := false, stepMark := step, skipBp := true } else t

/-- The lanes of a mask with their shadows. -/
def pairMask (pair : Bool) (m : Nat) : List Nat :=
  (List.range 32).filter fun l => m.testBit (if pair then l / 2 * 2 else l)

def State.unhaltLanes (s : State) (b sl : Nat) (lanes : List Nat) (step : Bool) : State :=
  s.modCrew b sl fun c => lanes.foldl (fun (c : Crew) l => c.modThread l fun t => t.unhalt step) c

/-- DRUN (R399). -/
def drunForm (o : Enc) : LaneForm :=
  let b := o.regB false slotTags
  slotForm o [b] none (fun s x sl =>
    let m := (b.value (s.laneThread x)).toNat
    (s.unhaltLanes x.core sl (pairMask (s.hdrOf x.core sl).pair m) false, .next)) 0xE6

def execDrun (o : Enc) (s : State) : Answer := .next (s.laneInstr o (drunForm o))

/-- The bundle DSTEP forms: select_bundle over the halted lanes of the mask (R318, R399). -/
def Crew.stepBundle (c : Crew) (pair : Bool) (m : Nat) : List Nat :=
  let h (l : Nat) : Bool := m.testBit l && (c.thread l).st == .halted
  Crew.bundle { c with threads := Vector.ofFn fun l =>
    { c.threads[l] with st := if h l.val then .runnable else .exited, stepMark := false, yielded := 0 } } pair

/-- DSTEP (R399): the lanes are released and their crew issues next. -/
def dstepForm (o : Enc) : LaneForm :=
  let b := o.regB false slotTags
  slotForm o [b] (some (o.d.toNat, false)) (fun s x sl =>
    match s.crew x.core sl with
    | none => (s, .next)
    | some c =>
      let pair := (s.hdrOf x.core sl).pair
      let ls := (c.resorted s.cycle).stepBundle pair (b.value (s.laneThread x)).toNat
      if ls.isEmpty then (s.put x o.d.toNat false 0 .n32, .next)
      else
        let m := maskOf (pairMask pair (maskOf ls))
        let s := s.unhaltLanes x.core sl (bitList m 32) true
        ({ s.producer x (some o.d.toNat) false (.stepping sl m) with agenda := .issue x.core sl :: s.agenda }, .next)) 0xE5

def execDstep (o : Enc) (s : State) : Answer := .next (s.laneInstr o (dstepForm o))

/-- DBP and DBP.clr (R397): breakpoint n of word 2. -/
def dbpForm (o : Enc) : LaneForm :=
  let b := o.regB true messageTags
  { sOnly := some 0xE7, short := false, srcs := [b],
    body := fun s x =>
      (s.modCore x.core fun c => { c with bps := c.bps.setIfInBounds (o.w2Bits 2 0) (some (b.value (s.laneThread x))) }, .next) }

def dbpClrForm (o : Enc) : LaneForm :=
  { sOnly := some 0xE7, short := false,
    body := fun s x => (s.modCore x.core fun c => { c with bps := c.bps.setIfInBounds (o.w2Bits 2 0) none }, .next) }

def execDbp (o : Enc) (s : State) : Answer := .next (s.laneInstr o (dbpForm o))
def execDbpClr (o : Enc) (s : State) : Answer := .next (s.laneInstr o (dbpClrForm o))

/-- DWP (R397): its checks in order, A's tag among them. -/
def dwpForm (o : Enc) : LaneForm :=
  let a := o.regA false .all
  let b := o.regB false slotTags
  { sOnly := some 0xE8, short := false, srcs := [a, b],
    body := fun s x =>
      let t := s.laneThread x
      let v := (a.value t).toNat
      match s.debugSlot x.core (b.value t).toNat with
      | .inr _ => (s, reason 0x10)
      | .inl sl => match (o.regA false slotTags).tagTrap t with
        | some r => (s, .trap r)
        | none =>
          if bits v 31 22 ≠ 0 then (s, reason 0x08)
          else match s.teamOf x.core sl with
            | none => (s, reason 0x10)
            | some tm =>
              let size := 2 ^ (o.w2Bits 7 4 + 2)
              if tm.banks.length ≤ bits v 21 16 then (s, reason 0x01)
              else if s.spcap x.core ≤ v % 65536 then (s, reason 0x08)
              else if v % 65536 % size ≠ 0 then (s, .trap { cause := cAlign, info := size, addr := BitVec.ofNat 64 v })
              else
                let w := (tm.id, o.w2Bits 3 2, bits v 21 16, v % 65536, size)
                (s.modCore x.core fun c => { c with wps := c.wps.setIfInBounds (o.w2Bits 1 0) (some w) }, .next) }

def dwpClrForm (o : Enc) : LaneForm :=
  { sOnly := some 0xE8, short := false,
    body := fun s x => (s.modCore x.core fun c => { c with wps := c.wps.setIfInBounds (o.w2Bits 1 0) none }, .next) }

def execDwp (o : Enc) (s : State) : Answer := .next (s.laneInstr o (dwpForm o))
def execDwpClr (o : Enc) (s : State) : Answer := .next (s.laneInstr o (dwpClrForm o))

/-- STATE codes (16 R317). -/
def LaneState.code : LaneState → Nat
  | .runnable => 0 | .waitReg _ => 1 | .waitJoin => 2 | .waitXl => 3 | .waitBar .. => 4 | .waitHandle => 5
  | .waitUnit => 6 | .parked _ => 7 | .halted => 8 | .exited => 9

/-- Word k of a PC-table entry (16 R316). -/
def Thread.pcWord (t : Thread) (k : Nat) : Nat :=
  match k with
  | 0 => t.pc.toNat % 2 ^ 32 / 4 * 4
  | 1 => t.pc.toNat / 2 ^ 32
  | _ => t.st.code * 2 ^ 12 + t.age * 2 ^ 5

/-- What DREAD gives of a halted lane (R398). -/
def State.dreadValue (s : State) (x : Lane) (space ix : Nat) : DWord × Tag :=
  let t := s.laneThread x
  let n (v : Nat) : DWord := BitVec.ofNat 64 v
  match space with
  | 0 => ((t.reg ix).val.setWidth 64, (t.reg ix).tag)
  | 1 => (n ((t.reg ix).tag.code + (t.reg ix).full.toNat * 32), .n32)
  | 2 => (n (maskOf ((List.range 32).filter fun j => t.pred (32 * ix + j))), .pred32)
  | 3 => (n (t.pcWord ix), .n32)
  | 4 => (s.srRead x true ix, srTag ix)
  | _ => (if ix = 0 then n (2 * (x.core / 40) + 1) else n (Config.physCore x.core), .n32)

/-- DREAD (R398): a long-latency producer. SPACE 6 answers every S-mode lane that names a halted target, one outside the debug crew too: R454
speaks of the debug crew alone and R397 of the mode only (DEDUCED, log entry 46). -/
def dreadForm (o : Enc) : LaneForm :=
  let a := o.regA false slotTags
  let space := o.w2Bits 3 0
  let wide := dspaceWide o
  { sOnly := some 0xE9, short := false, srcs := [a], dst := some (o.d.toNat, wide),
    body := fun s x => match s.debugTarget x.core (a.value (s.laneThread x)).toNat with
      | .inr r => (s, reason r)
      | .inl y =>
        if space = 5 then
          match (s.core x.core).events with
          | [] => (s, .hold .waitUnit)
          | r :: rest => ((s.modCore x.core fun c => { c with events := rest }).producer x (some o.d.toNat) true (.value r .n64), .next)
        else
          let (v, g) := s.dreadValue y space (o.w2Bits 15 4)
          (s.producer x (some o.d.toNat) wide (.value v g), .next) }

def execDread (o : Enc) (s : State) : Answer := .next (s.laneInstr o (dreadForm o))

/-- DWRITE's change of a halted lane, or how it is refused (R398). A PC keeps its bits <1:0> whatever the value's are: space 3
writes the PC bits only (log entry 46). In space 1 a bit above <5> is refused as a reserved tag code is: R398 names no trap for it (DEDUCED,
log entry 46). -/
def State.dwriteTo (s : State) (y : Lane) (space ix : Nat) (v : DWord) : State ⊕ Trap :=
  let upd (f : Thread → Thread) : State := s.modThread y.core y.slot y.lane f
  let w := v.toNat % 2 ^ 32
  match space with
  | 0 => .inl (upd fun t => t.setReg ix { val := v.setWidth 32, tag := .raw, full := true })
  | 1 => match w / 64, Tag.ofCode (w % 32) with
    | 0, some g => .inl (upd fun t => t.setReg ix { t.reg ix with tag := g, full := w.testBit 5 })
    | _, _ => .inr { cause := cAccess, info := 0x08 }
  | 2 => .inl (upd fun t => (List.range 32).foldl (fun (t : Thread) j => t.setPred (32 * ix + j) (w.testBit j)) t)
  | 3 => .inl (upd fun t =>
      let pc := if ix = 0 then setBits t.pc.toNat 31 2 (w / 4) else setBits t.pc.toNat 63 32 w
      { t with pc := BitVec.ofNat 64 pc })
  | _ => match srBad ix v.toNat with
    | some b => .inr { cause := cIllegalEncoding, info := 0x11 + b * 256 }
    | none => .inl (s.srWrite y upd ix v)

def dwriteForm (o : Enc) : LaneForm :=
  let a := o.regA false slotTags
  let b := o.regB (dspaceWide o) .noHandle
  { sOnly := some 0xEA, short := false, srcs := [a, b],
    body := fun s x =>
      let t := s.laneThread x
      match s.debugTarget x.core (a.value t).toNat with
      | .inr r => (s, reason r)
      | .inl y => match s.dwriteTo y (o.w2Bits 3 0) (o.w2Bits 15 4) (b.value t) with
        | .inl s => (s, .next)
        | .inr r => (s, .trap { r with addr := if r.cause = cIllegalEncoding then t.pc else 0 }) }

def execDwrite (o : Enc) (s : State) : Answer := .next (s.laneInstr o (dwriteForm o))

/-- DMBX.send and DMBX.recv (R400). -/
def dmbxSendForm (o : Enc) : LaneForm :=
  let a := o.regA true messageTags
  { sOnly := some 0xEB, short := false, srcs := [a],
    body := fun s x =>
      let p := s.partOf x.core
      let q := (s.part p).d2h
      if 64 ≤ q.length then (s, .trap { cause := cQueueFull })
      else
        let s := s.modPart p fun z => { z with d2h := q ++ [a.value (s.laneThread x)] }
        (if q.isEmpty then s.msix p 2 else s, .next) }

def dmbxRecvForm (o : Enc) : LaneForm :=
  { sOnly := some 0xEB, short := false, dst := some (o.d.toNat, true),
    body := fun s x =>
      let p := s.partOf x.core
      match (s.part p).h2d with
      | [] => (s, .hold .waitUnit)
      | m :: rest => ((s.modPart p fun z => { z with h2d := rest }).put x o.d.toNat true m .n64, .next) }

def execDmbxSend (o : Enc) (s : State) : Answer := .next (s.laneInstr o (dmbxSendForm o))
def execDmbxRecv (o : Enc) (s : State) : Answer := .next (s.laneInstr o (dmbxRecvForm o))

/-- BKPT (R395): the lanes go on, and those in U mode of a team crew raise event 1. -/
def bkptForm : LaneForm := { body := fun s _ => (s, .next) }

def execBkpt (o : Enc) (s : State) : Answer :=
  .next (match s.cur with
    | none => s
    | some cur =>
      let hit := cur.lanes.filter fun l =>
        let t := s.thread cur.core cur.slot l
        (s.teamOf cur.core cur.slot).isSome && !t.priv && o.guard true t &&
          !((o.guardPreds true).any fun p => t.predWait.contains p)
      let a := cur.lanes.foldl (bkptForm.step o cur) { s, lost := false, hits := [] }
      let raise (s : State) : State := s.raiseEvent cur.core cur.slot 1 0 (trapCode o) (hit.map fun l => (l, cur.pc))
      Bundle.close { a with s := a.s.raiseDone cur.core cur.slot hit raise } cur)

/-- DEBUG_RECORD_APPEND (R396): a record that waited for room enters the queue. -/
def execDebugRecordAppend (core : Nat) (s : State) : Answer :=
  .next (match (s.core core).eventsWaiting with
    | [] => s
    | r :: rest =>
      if 8 ≤ (s.core core).events.length then s
      else ((s.modCore core fun c => { c with events := c.events ++ [r], eventsWaiting := rest }).wakeUnits core).restartDebug core)

end Sys2Proof.Machine
end

