-- ==== Sys2Proof/Machine/Events.lean ====
section
/-! DEFINITION. The core's own events: fills of long-latency producers (05 R91), the deadlock detector (08 R160), the sort
of the PC table (16 R318) and the decay of the throttle score (16 R323). -/

namespace Sys2Proof.Machine

/-- Each lane of the mask has halted or exited. -/
def State.stopped (s : State) (b sl mask : Nat) : Bool :=
  match s.crew b sl with
  | none => true
  | some c => (bitList mask 32).all fun l => (c.thread l).st == .halted || (c.thread l).st == .exited

/-- A WAITH whose operation has ended leaves its wait (16 R338). -/
def State.waithEnds (s : State) (b : Nat) (p : Pend) (handle : Word) (strict : Bool) (next : DWord) : State :=
  let k := handleSlot handle.toNat
  let x : Lane := ⟨b, p.slot, p.lane⟩
  if (s.handle b k).st = .pending then s
  else if (s.laneThread x).st ≠ .waitHandle then
    -- a trap has taken the lane out of the wait: its destination fills all the same (log entry 24)
    let s := s.dropPend b p.id
    let d := p.dst.getD 0
    if s.owes x k then s.fill x d false 0 .raw
    else
      let s := (s.acquire b).fill x d false ((s.handle b k).word.setWidth 64) .n32
      (if (s.handle b k).st = .ended ∧ (s.handle b k).fail.isNone then s.freeSlot b k else s).wakeUnits b
  else
    let (s, out) := (s.dropPend b p.id).waithReturns x k (p.dst.getD 0) strict
    let s := (s.modThread b p.slot p.lane Thread.wakeRegs).wakeUnits b
    match out with
    | .trap r => s.trapOut x r next
    | .gone => s
    | _ => s.resume x next

/-- LONG_LATENCY_FILL (R91): the producer `id` of a core writes, if it can. -/
def execLongLatencyFill (core id : Nat) (s : State) : Answer :=
  .next (match (s.core core).pend.find? fun p => p.id == id with
    | none => s
    | some p =>
      let x : Lane := ⟨core, p.slot, p.lane⟩
      let give (v : DWord) (g : Tag) : State := (s.dropPend core p.id).fill x (p.dst.getD 0) p.wide v g
      match p.kind with
      | .load .. => if s.mayPerform core p then s.performLoad core p else s
      | .atoms .. => if p.returns && s.mayPerform core p then s.performAtoms core p else s
      | .value v g =>
        let s := give v g
        match p.twinVal with
        | some w => s.modThread core p.slot (p.lane + 1) fun t => t.write (p.dst.getD 0) p.wide w g
        | none => s
      | .waith h strict next => s.waithEnds core p h strict next
      | .halting sl m | .stepping sl m => if s.stopped core sl m then give (BitVec.ofNat 64 m) .n32 else s
      | .store .. | .bank .. | .tchk .. => s)

/-- RENDEZVOUS_DEADLOCK (R160). -/
def execRendezvousDeadlock (core slot : Nat) (s : State) : Answer := .next (s.deadlock core slot)

/-- PC_TABLE_SORT (R318). -/
def execPcTableSort (core slot : Nat) (s : State) : Answer :=
  .next (s.modCrew core slot fun c => { c with order := c.sorted, sortedAt := s.cycle })

/-- THROTTLE_SCORE_DECAY (R323). -/
def execThrottleScoreDecay (core : Nat) (s : State) : Answer :=
  .next (s.modCore core fun c => { c with score := c.score - 1 })

end Sys2Proof.Machine
end

