-- ==== Sys2Proof/Machine/Fabric.lean ====
section
/-! DEFINITION. Inbound UALink requests (28 R447 to R449). -/

namespace Sys2Proof.Machine

/-- A guest page reached through the second stage alone, A and D set as for any access (17 R344, R351): the PA, a fault, which
writes no record, or a wait for room in the dirty log. -/
def State.guestPa (s : State) (p gpa : Nat) (write : Bool) : State × Got Nat :=
  let give (s : State) (pa : Nat) : State × Got Nat :=
    if paWin pa ∨ 0x3000000000 ≤ pa % 2 ^ 38 then (s, .fault gpa) else (s, .ok pa)
  if p = 0 then give s (gpa % 2 ^ 48)
  else match walk2 (fun a => some (s.pte a)) gpa 5 1 (s.part p).hroot with
    | .leaf addr level e _ =>
      let pa := leafOut level e gpa % 2 ^ 48
      if (write && !pteW e) || !(s.part p).holdsKey (paKey pa) then (s, .fault gpa)
      else
        let n := pteTouch e write
        if n = e then give s pa
        else
          match (if write && !pteD e then s.logPage p ({ addr, level, entry := e, gpa } : Leaf2).page else (s, true)) with
          | (s, true) => give (s.setPte addr n) pa
          | (s, false) => (s, .wait 0)
    | _ => (s, .fault gpa)

/-- The pages of a request, all of them reached. -/
def State.guestPages (s : State) (p gpa n : Nat) (write : Bool) : State × Got (List (Nat × Nat)) :=
  (pageSplit gpa n).foldl (fun (acc : State × Got (List (Nat × Nat))) q =>
    match acc.2 with
    | .ok l => match acc.1.guestPa p q.1 write with
      | (s, .ok pa) => (s, .ok (l ++ [(pa, q.2)]))
      | (s, .wait r) => (s, .wait r)
      | (s, .fault v) => (s, .fault v)
      | (s, .poison v) => (s, .poison v)
    | _ => acc) (s, .ok [])

/-- A completion sent back. -/
def State.complete (s : State) (dest : BitVec 16) (ok : Bool) (data : List Byte) : State :=
  { s with hostOut := s.hostOut ++ [.fabric dest ok data] }

/-- The partition that a destination tag names. -/
def State.tagged (s : State) (tag : BitVec 16) : Option Nat :=
  if tag = 0 then none else (List.range 9).find? fun p => (s.part p).tags.head? == some tag.toNat

/-- The export window's GPA of an accepted request (R449). -/
def Partition.exported (x : Partition) (off n : Nat) : Option Nat :=
  if off < x.expSize ∧ off + n ≤ x.expSize then some (x.expBase + off) else none

/-- UALINK_INBOUND (R448, R449). A write waits where the dirty log is full. -/
def execUalinkInbound (req : FabricRequest) (s : State) : Answer :=
  .next (
    let error (s : State) : State := s.complete req.src false []
    if s.boot ≠ 3 then s
    else match s.tagged req.dst with
      | none => error (s.count 0 9)
      | some p =>
        if req.src = 0 ∨ !((s.part p).tags.drop 1).contains req.src.toNat then error (s.count 0 9)
        else match req.body with
          | .other => error s
          | .read n => match (s.part p).exported req.off n with
            | none => error s
            | some gpa => match s.guestPages p gpa n false with
              | (s, .ok l) =>
                let (s, d) := l.foldl (fun (acc : State × Option (List Byte)) q =>
                  let (s, e, bad) := acc.1.l2Read p q.1 q.2
                  (s, if bad then none else acc.2.map (· ++ e))) (s, some [])
                (match d with
                  | some d => s.complete req.src true d
                  | none => error s)
              | (s, _) => error s
          | .write data => match (s.part p).exported req.off data.length with
            | none => error s
            | some gpa => match s.guestPages p gpa data.length true with
              | (s, .ok l) =>
                let s := (l.foldl (fun (acc : State × List Byte) q =>
                  (((acc.1.freeCode q.1 q.2).writePa p q.1 (acc.2.take q.2)).1, acc.2.drop q.2)) (s, data)).1
                (s.complete req.src true []).wakeAll
              | (s, .wait _) => s
              | (s, _) => error s)

end Sys2Proof.Machine
end

