-- ==== Sys2Proof/Machine/PartTable.lean ====
section
/-! DEFINITION. The partition table (17 R356, R357, 29 R452) through PT_WRITE and PT_READ (28 R442, R455). -/

namespace Sys2Proof.Machine

/-! The 512 bytes of an entry (R356). -/

def State.entryBytes (s : State) (p : Nat) : List Byte :=
  let x := s.part p
  leBytes 4 (x.st % 256 + p * 2 ^ 16 + x.flags * 2 ^ 24) ++ leBytes 68 0 ++ leBytes 20 x.cores.toNat ++ leBytes 20 x.urgent.toNat ++
  leBytes 8 x.hroot ++ leBytes 8 x.groot ++ leBytes 8 x.tvec ++ leBytes 8 x.stackBase ++ leBytes 8 x.stackSize ++
  leBytes 8 x.copyAp ++ leBytes 8 x.templ ++ (List.range 16).flatMap (fun k => leBytes 1 ((x.keys[k]?).getD 0)) ++
  (List.range 7).flatMap (fun c => leBytes 1 (min 255 (s.slots p c))) ++ leBytes 1 0 ++
  (List.range 16).flatMap (fun k => leBytes 2 ((x.tags[k]?).getD 0)) ++ (List.range 16).flatMap (fun k => leBytes 8 ((x.groups[k]?).getD 0)) ++
  leBytes 8 x.cmdBase ++ leBytes 8 x.cmdSize ++ leBytes 144 0

/-- The entry that bytes give; TVEC<63:57> stays zero (19 R376). -/
def Partition.ofBytes (x : Partition) (d : List Byte) : Partition :=
  { x with flags := field d 3 1, cores := BitVec.ofNat 160 (field d 72 20), urgent := BitVec.ofNat 160 (field d 92 20),
           hroot := field d 112 8, groot := field d 120 8, tvec := bits (field d 128 8) 56 12 * 4096,
           stackBase := field d 136 8, stackSize := field d 144 8, copyAp := field d 152 8, templ := field d 160 8,
           keys := (List.range 16).map fun k => field d (168 + k) 1, tags := (List.range 16).map fun k => field d (192 + 2 * k) 2,
           groups := (List.range 16).map fun k => field d (224 + 8 * k) 8, cmdBase := field d 352 8, cmdSize := field d 360 8 }

/-- The bits of entry byte i that are reserved; of TVEC, those of its layout (19 R376). -/
def entryRsvd (i : Nat) : Nat :=
  if i = 1 ∨ (4 ≤ i ∧ i ≤ 71) ∨ i = 191 ∨ 368 ≤ i then 0xFF
  else if i = 3 then 0xFC
  else if i = 128 then 0xFF
  else if i = 129 then 0x0F
  else if i = 135 then 0xFE
  else if 224 ≤ i ∧ i ≤ 351 then (if i % 8 = 6 then 0xFF else if i % 8 = 7 then 0x7F else 0)
  else 0

/-- Entry bytes of RO fields: STATE, VF and SLOTS. -/
def entryRo (i : Nat) : Bool := i == 0 || i == 2 || decide (184 ≤ i) && decide (i ≤ 190)

/-! The refusals of R357. -/

/-- Key IDs an entry holds. -/
def Partition.keyIds (x : Partition) : List Nat := (x.keys.filter fun k => bit k 7).map (· % 128)

/-- A core holds a team, placed or saved in its Caldera slot, or a bound tile (02 R39). -/
def Core.holdsTeam (c : Core) : Bool := !c.teams.isEmpty || !c.kept.isEmpty

/-- Cores that a change moves. -/
def movedCores (x y : Partition) : List Nat := (List.range 160).filter fun b => x.cores.getLsbD b != y.cores.getLsbD b

def State.refusesEntry (s : State) (p : Nat) (y : Partition) : Bool :=
  let x := s.part p
  ((List.range 9).any fun q => q != p && ((s.part q).cores &&& y.cores != 0 || y.keyIds.any fun k => (s.part q).keyIds.contains k)) ||
  (y.urgent &&& ~~~y.cores != 0) || (p != 0 && y.keyIds.contains 0) ||
  ((p == 0 || x.st != 0 || y.cores != 0) && !s.enoughSlots p) ||
  (movedCores x y).any (fun b => (s.core b).holdsTeam) ||
  (x.st == 1 && (x.hroot != y.hroot || x.groot != y.groot))

/-- A core that changes partition: scrubbed, its TLB flushed, its rail and counters at their reset values (02 R39, 12 R243,
17 R346, 18 R370); the debug crew of its new partition enters (20 R394). -/
def State.moveCore (s : State) (b : Nat) : State := ((s.scrub b).modCore b Core.untuned).reserveDebug b

/-- The telemetry of a new tenant (R452, 18 R371, R373). -/
def Partition.clearCounters (x : Partition) : Partition :=
  { x with tele := Vector.replicate 12 0, slots := Vector.replicate 8 0, energy := 0, maskedSlots := 0, maskInt := 0 }

/-- An accepted change (R357, R452). -/
def State.setEntry (s : State) (p : Nat) (y : Partition) : State :=
  let x := s.part p
  let fresh := x.st == 0 && y.cores != 0
  let s := s.setPart p (if fresh then { y.clearCounters with st := 1 } else y)
  let s := (movedCores x y).foldl State.moveCore s
  if x.cores ≠ y.cores ∨ x.keys ≠ y.keys ∨ x.hroot ≠ y.hroot then s.askInv p true none none false else s

/-- The change touches what a locked TDI holds (28 R446). -/
def touchesLocked (x y : Partition) : Bool :=
  x.cores != y.cores || x.urgent != y.urgent || x.keys != y.keys || x.tags != y.tags || x.groups != y.groups || x.hroot != y.hroot

/-- PT_WRITE (R442). -/
def execPtWrite (s : State) : Answer :=
  s.mail 1 [] fun p m =>
    let off := m.arg 4 2
    let n := m.arg 6 2
    let data := (m.cmd.drop 8).take n
    let old := s.entryBytes p
    let new := old.take off ++ data ++ old.drop (off + n)
    let bad (i : Nat) : Bool :=
      let b := field data i 1
      b &&& entryRsvd (off + i) != 0 || (entryRo (off + i) && b != field old (off + i) 1)
    if n = 0 ∨ 128 < n ∨ 512 < off + n ∨ (List.range n).any bad then s.mailDone codeBadCmd
    else
      let x := s.part p
      let y := x.ofBytes new
      if s.locked p && touchesLocked x y then s.refuseLocked [p]
      else if s.refusesEntry p y then s.mailDone codeRefused
      else ((s.setEntry p y).mailDone codeOk).wakeAll

/-- The entry bytes that a VF reaches (R356). -/
def vfField (i : Nat) : Bool := decide (120 ≤ i) && decide (i < 168) || decide (352 ≤ i) && decide (i < 368)

/-- A VF's access to the fields of its partition's entry that are its own, whose place in its BAR the manual does not give: it
writes bytes, or with none reads 8 (R356, R357; log entry 38). Reserved bits stay zero and set RSVD_WRITE (00 R6); a refused write
leaves every field. -/
def State.vfAccess (s : State) (fn off : Nat) (data : List Byte) : State :=
  let n := if data.isEmpty then 8 else data.length
  if s.boot ≠ 3 ∨ fn = 0 ∨ 8 < fn ∨ !((List.range n).all fun i => vfField (off + i)) then s
  else
    let old := s.entryBytes fn
    if data.isEmpty then { s with hostOut := s.hostOut ++ [.field fn off (BitVec.ofNat 64 (field old off 8))] }
    else
      let s := s.badWrite fn off ((List.range n).any fun i => field data i 1 &&& entryRsvd (off + i) != 0) false
      let kept := (List.range n).map fun i => BitVec.ofNat 8 (field data i 1 &&& (255 - entryRsvd (off + i)))
      let y := (s.part fn).ofBytes (old.take off ++ kept ++ old.drop (off + n))
      if s.refusesEntry fn y then s else s.setEntry fn y

/-- PT_READ (R442). -/
def execPtRead (s : State) : Answer :=
  s.mail 2 [] fun p m =>
    let off := m.arg 4 2
    let n := m.arg 6 2
    if n = 0 ∨ 256 < n ∨ 512 < off + n then s.mailDone codeBadCmd else s.mailReply (((s.entryBytes p).drop off).take n)

end Sys2Proof.Machine
end

