-- ==== Sys2Proof/Machine/HostRegs.lean ====
section
/-! DEFINITION. The functions' pages in BAR0 (28 R439 to R441): every memory-mapped register with what a read returns, its
reserved bits and what a write does (00 R5, R6); the debug page (20 R393, R394, R456). -/

namespace Sys2Proof.Machine

/-! The debug page's actions. -/

/-- DBGEN (R394): set, it reserves slot 63 of every core and starts the debug crews where the slot is free; cleared, the
halted lanes run again and the slot is freed. -/
def State.setDbgen (s : State) (p : Nat) (on : Bool) : State :=
  let x := s.part p
  if on == x.dbgen then s
  else if on then
    (s.coresOf p).foldl State.reserveDebug (s.modPart p fun x => { x with dbgen := true, dbgCode := s.mem, dbgKeys := s.unitKeys })
  else
    let s := s.modPart p fun x => { x with dbgen := false }
    ((s.coresOf p).foldl (fun (s : State) b =>
      let s := if (s.core b).debug then
          (((List.range 32).foldl (fun (s : State) l => s.dropProducers ⟨b, 63, l⟩) s).dropAsk b 63 none).modCore b fun c =>
            { c.setCrew 63 none with debug := false }
        else s
      (List.range 63).foldl (fun (s : State) sl => s.unhaltLanes b sl (List.range 32) false) s) s).wakeAll

/-- A message pushed to H2D, or lost (R393, R456); DMBX.recv looks again. -/
def State.pushH2d (s : State) (p : Nat) (m : DWord) : State :=
  let x := s.part p
  let s := s.modPart p fun x => { x with staging := 0 }
  if 64 ≤ x.h2d.length then s.modPart p fun x => { x with h2dLost := true }
  else (s.coresOf p).foldl State.wakeUnits (s.modPart p fun x => { x with h2d := x.h2d ++ [m] })

/-- CLEAR (18 R371, R373). -/
def State.clearTelemetry (s : State) (p : Nat) : State := s.modPart p Partition.clearCounters

/-! Registers. -/

/-- A register: 64 bits wide or 32, what a read returns, its reserved bits, and a write. -/
structure PageReg where
  wide : Bool
  get : Nat
  rsvd : Nat
  set : Nat → State

def State.ro (s : State) (get rsvd : Nat) : Option PageReg := some { wide := false, get, rsvd, set := fun _ => s }
def State.ro64 (s : State) (get rsvd : Nat) : Option PageReg := some { wide := true, get, rsvd, set := fun _ => s }

/-- The queue page (14 R267). -/
def State.queuePage (s : State) (p o : Nat) : Option PageReg :=
  let x := s.part p
  let q := x.queue
  match o with
  | 0x00 => some { wide := true, get := q.qbase, rsvd := 0xFE00000000000FFF, set := fun v => s.writeQbase p (BitVec.ofNat 64 v) }
  | 0x08 => some { wide := false, get := q.en.toNat * 2 ^ 31 + q.logN, rsvd := 0x7FFFFFF0, set := fun v => s.writeQueue08 p (BitVec.ofNat 32 v) }
  | 0x0C => some { wide := false, get := q.tail, rsvd := 0xFFFFF000, set := fun v => s.writeTail p (BitVec.ofNat 32 v) }
  | 0x10 => s.ro q.head 0xFFFFF000
  | 0x14 => some { wide := false, get := x.cmd.isSome.toNat * 256 + q.fetchErr.toNat * 4 + q.tailErr.toNat * 2 + q.cfgErr.toNat,
                   rsvd := 0xFFFFFEF8,
                   set := fun v => s.modQueue p fun q =>
                     { q with fetchErr := q.fetchErr && !bit v 2, tailErr := q.tailErr && !bit v 1, cfgErr := q.cfgErr && !bit v 0 } }
  | _ => none

/-- A ring's registers (17 R350); BASE and LOG2N are written from the PF alone, LOG2N to 0 or 6 to 16. -/
def State.ringRegs (s : State) (p : Nat) (k : Ring) (pf : Bool) (o : Nat) : Option PageReg :=
  let r := (s.part p).ring k
  let mod (f : RingRegs → RingRegs) : State := s.modRing p k f
  match o with
  | 0x00 => some { wide := true, get := r.base + r.logN, rsvd := 0xFFFF000000000FE0,
                   set := fun v =>
                     let n := v % 32
                     if !pf then s
                     else (mod fun r => { r with base := bits v 47 12 * 4096, logN := if n = 0 ∨ 6 ≤ n ∧ n ≤ 16 then n else r.logN }).ringChanged p k }
  | 0x08 => some { wide := false, get := r.head, rsvd := 0xFFFF0000, set := fun v => s.writeHead p k (BitVec.ofNat 32 v) }
  | 0x0C => s.ro r.tail 0xFFFF0000
  | 0x10 => some { wide := false, get := r.ovf.toNat * 2 + r.full.toNat, rsvd := 0xFFFFFFFC,
                   set := fun v => mod fun r => { r with ovf := r.ovf && !bit v 1 } }
  | 0x18 => some { wide := true, get := 0, rsvd := if k = .dirty then 2 ^ 64 - 1 else 0x7FFFFFFF00000000,
                   set := fun v => s.writeResume p k (BitVec.ofNat 32 v) (bit v 63) }
  | _ => none

/-- The invalidation registers (17 R352). -/
def State.invPage (s : State) (p : Nat) (stage2 : Bool) (o : Nat) : Option PageReg :=
  let r := s.invRegs p stage2
  match o with
  | 0x20 => some { wide := true, get := r.addr, rsvd := 0xFE00000000000FFF, set := fun v => s.setInv p stage2 { r with addr := v } }
  | 0x28 => some { wide := false, get := 0, rsvd := 0xFFFFFFFE, set := fun v => s.startInv p stage2 (bit v 0) }
  | 0x2C => some { wide := false, get := r.dropped.toNat * 4 + r.timeout.toNat * 2 + r.busy.toNat, rsvd := 0xFFFFFFF8,
                   set := fun v => s.setInv p stage2 { r with dropped := r.dropped && !bit v 2, timeout := r.timeout && !bit v 1 } }
  | 0x30 => s.ro r.seq 0
  | _ => none

/-- The telemetry page (18 R371), in the PF's view or the VF's. -/
def State.telePage (s : State) (p : Nat) (pf : Bool) (o : Nat) : Option PageReg :=
  if o % 8 = 0 ∧ o < 0x60 then s.ro64 (((s.part p).tele.toList[o / 8]?).getD 0) 0
  else if o % 8 = 0 ∧ o < 0xA0 then s.ro64 (((s.part p).slots.toList[o / 8 - 12]?).getD 0) 0
  else if o = 0xA0 then
    some { wide := true, get := 0, rsvd := 0xFFFFFFFFFFFFFFFE, set := fun v => if pf && bit v 0 then s.clearTelemetry p else s }
  else none

/-- The power page (18 R373). -/
def State.powerRegs (s : State) (p o : Nat) : Option PageReg :=
  let x := s.part p
  match o with
  | 0x00 => s.ro64 s.limit 0xFFFFFFFFFFFF0000
  | 0x08 => s.ro64 x.energy 0
  | 0x10 => s.ro64 x.maskedSlots 0
  | 0x18 => s.ro64 x.maskInt 0
  | 0x20 => s.ro64 x.floor 0xFFFFFFFF00000000
  | _ => none

/-- The debug page (20 R393). -/
def State.debugPage (s : State) (p o : Nat) : Option PageReg :=
  let x := s.part p
  match o with
  | 0x00 => some { wide := true, get := x.dentry, rsvd := 0xFE00000000000003, set := fun v => s.modPart p fun x => { x with dentry := v } }
  | 0x08 => some { wide := false, get := x.dbgen.toNat, rsvd := 0xFFFFFFFE, set := fun v => s.setDbgen p (bit v 0) }
  | 0x10 => some { wide := true, get := 0, rsvd := 0, set := fun v => s.pushH2d p (BitVec.ofNat 64 v) }
  | 0x18 => s.ro64 ((x.d2h.head?).getD 0).toNat 0
  | 0x20 => some { wide := false, get := x.h2dLost.toNat * 2 ^ 31 + x.d2h.length * 2 ^ 16 + x.h2d.length, rsvd := 0x7F80FF80,
                   set := fun v => s.modPart p fun x => { x with h2dLost := x.h2dLost && !bit v 31 } }
  | _ => none

/-- SRAMEN (29 R451): bit n is the SRAM die of core group n (log entry 6). -/
def State.sramen (s : State) : Nat := maskOf ((List.range 4).filter fun c => (s.die c).sram)

/-- The function status page (R440, R451); its boot fields read zero in a VF and until DISCOVERY ends. -/
def State.statusPage (s : State) (fn o : Nat) : Option PageReg :=
  let x := s.part fn
  match o with
  | 0x00 => some { wide := false, get := x.tdisp * 16 + x.badAcc.toNat * 2 + x.rsvdWrite.toNat, rsvd := 0xFFFFFFCC,
                   set := fun v => s.modPart fn fun x => { x with badAcc := x.badAcc && !bit v 1, rsvdWrite := x.rsvdWrite && !bit v 0 } }
  | 0x08 => s.ro64 x.lastOff 0xFFFFFFFFFFF00000
  | 0x10 => s.ro (if fn = 0 then s.boot * 2 ^ 28 + (if s.answers then s.sramen * 2 ^ 12 + 160 else 0) else 0) 0x0FFF0F00
  | 0x14 => s.ro (if fn = 0 then s.bootErr else 0) 0xFFFFFF00
  | _ => none

/-- The PF mailbox (R442). -/
def State.mailboxPage (s : State) (o : Nat) : Option PageReg :=
  let m := s.mailbox
  if o % 4 ≠ 0 then none
  else if o < 0x100 then
    some { wide := false, get := field m.req o 4, rsvd := 0,
           set := fun v => { s with mailbox := { m with req := m.req.take o ++ leBytes 4 v ++ m.req.drop (o + 4) } } }
  else if o < 0x200 then s.ro (field m.resp (o - 0x100) 4) 0
  else if o = 0x200 then some { wide := false, get := 0, rsvd := 0, set := fun _ => s.doorbell }
  else if o = 0x208 then
    some { wide := false, get := m.busy.toNat * 2 ^ 31 + m.dropped.toNat * 2 ^ 30 + m.code, rsvd := 0x3FFFFF00,
           set := fun v => { s with mailbox := { m with dropped := m.dropped && !bit v 30 } } }
  else none

/-- Vectors of a function (R441). -/
def vectors (fn : Nat) : Nat := if fn = 0 then 20 else 3

/-- A vector masked, or unmasked: what is pending is then sent (log entry 39). -/
def State.setMask (s : State) (fn n : Nat) (on : Bool) : State :=
  let x := s.part fn
  if on then s.setPart fn { x with msixMask := x.msixMask ||| 2 ^ n }
  else
    let s := s.setPart fn { x with msixMask := x.msixMask &&& (2 ^ 20 - 1 - 2 ^ n), msixPend := x.msixPend &&& (2 ^ 20 - 1 - 2 ^ n) }
    if x.msixPend.testBit n then s.msix fn n else s

/-- The MSI-X table and the pending bits (R441; their layout is PCIe's, log entry 39). -/
def State.msixPage (s : State) (fn o : Nat) : Option PageReg :=
  let x := s.part fn
  let n := o / 16
  let (a, d) := (x.msixTable[n]?).getD (0, 0)
  let put (e : DWord × Word) : State := s.setPart fn { x with msixTable := x.msixTable.set n e }
  if o = 0x800 then s.ro64 x.msixPend 0
  else if vectors fn ≤ n then none
  else match o % 16 with
  | 0 => some { wide := true, get := a.toNat, rsvd := 3, set := fun v => put (BitVec.ofNat 64 v, d) }
  | 8 => some { wide := false, get := d.toNat, rsvd := 0, set := fun v => put (a, BitVec.ofNat 32 v) }
  | 12 => some { wide := false, get := (x.msixMask.testBit n).toNat, rsvd := 0xFFFFFFFE, set := fun v => s.setMask fn n (bit v 0) }
  | _ => none

/-- A fabric page (R449); a locked TDI keeps its peer map (R446). -/
def State.fabricPage (s : State) (p o : Nat) : Option PageReg :=
  let x := s.part p
  if o % 4 = 0 ∧ o < 0x3C then
    let old := (x.peers[o / 4]?).getD 0
    some { wide := false, get := old, rsvd := 0xFFFFFC00,
           set := fun v =>
             if s.locked p && v != old then
               let s := s.modPart p fun x => { x with tdisp := 3 }
               if s.mailbox.busy then s else { s with mailbox := { s.mailbox with code := codeLocked } }
             else s.modPart p fun x => { x with peers := x.peers.set (o / 4) v } }
  else if o = 0x40 then some { wide := true, get := x.expBase, rsvd := 0xFE0000000000FFFF, set := fun v => s.modPart p fun x => { x with expBase := v } }
  else if o = 0x48 then some { wide := true, get := x.expSize, rsvd := 0xFFFFFC000000FFFF, set := fun v => s.modPart p fun x => { x with expSize := v } }
  else none

/-- The register at an offset of a function's BAR (R439). -/
def State.regAt (s : State) (fn off : Nat) : Option PageReg :=
  let o := off % 4096
  if fn = 0 ∧ 0x8000 ≤ off then
    let p := (off - 0x8000) / 0x4000 + 1
    if 8 < p then none
    else match (off - 0x8000) / 4096 % 4 with
      | 0 => (s.ringRegs p .hypervisor true o).or (s.invPage p true o)
      | 1 => s.ringRegs p .dirty true o
      | 2 => s.fabricPage p o
      | _ => s.telePage p true o
  else match off / 4096 with
    | 0 => s.queuePage fn o
    | 1 => (s.ringRegs fn .fault (fn == 0) o).or (s.invPage fn false o)
    | 2 => s.telePage fn (fn == 0) o
    | 3 => s.powerRegs fn o
    | 4 => s.debugPage fn o
    | 5 => s.statusPage fn o
    | 6 => if fn = 0 then s.mailboxPage o else none
    | 7 => s.msixPage fn o
    | _ => none

/-- What the host may reach before READY (29 R451). -/
def State.hostReaches (s : State) (fn off : Nat) : Bool :=
  s.boot == 3 || fn == 0 && (off / 4096 == 5 || off == 0x6200)

/-- An access that R439 admits by its size and alignment. -/
def accessOk (off size : Nat) : Bool := (size == 4 || size == 8) && off % size == 0

/-! Writes. -/

/-- A 4-byte write: a register, or half of a wide one; the State and whether a reserved bit was set; none where no register lies. -/
def State.writeWord (s : State) (fn off v : Nat) : Option (State × Bool) :=
  let put (r : PageReg) (sh : Nat) : State × Bool :=
    let rsvd := r.rsvd / 2 ^ sh % 2 ^ 32
    let keep := v &&& (2 ^ 32 - 1 - rsvd)
    (r.set (if r.wide then setBits r.get (sh + 31) sh keep else keep), v &&& rsvd != 0)
  match s.regAt fn off with
  | some r => some (put r 0)
  | none =>
    if off % 8 ≠ 4 then none
    else match s.regAt fn (off - 4) with
      | some r => if r.wide then some (put r 32) else none
      | none => none

/-- A write of 4 or 8 bytes (R5, R6, R439, R456). -/
def State.pageWrite (s : State) (fn off size v : Nat) : State :=
  if 8 < fn ∨ !s.hostReaches fn off then s
  else if !accessOk off size then s.badWrite fn off false true
  else if size = 4 ∧ off = 0x4010 then s.modPart fn fun x => { x with staging := BitVec.ofNat 32 v }
  else if size = 4 ∧ off = 0x4014 then s.pushH2d fn (BitVec.ofNat 32 v ++ (s.part fn).staging)
  else if size = 4 then
    match s.writeWord fn off (v % 2 ^ 32) with
    | some (s, r) => s.badWrite fn off r false
    | none => s.badWrite fn off false true
  else match s.regAt fn off with
    | none => s.badWrite fn off false true
    | some r =>
      if r.wide then (r.set (v &&& (2 ^ 64 - 1 - r.rsvd))).badWrite fn off (v &&& r.rsvd != 0) false
      else match s.writeWord fn off (v % 2 ^ 32) with
        | none => s
        | some (s, a) => match s.writeWord fn (off + 4) (v / 2 ^ 32 % 2 ^ 32) with
          | none => s.badWrite fn off a false
          | some (s, b) => s.badWrite fn off (a || b) false

/-- A 4-byte write by the PF of BASE and LOG2N of a tenant's fault ring, whose place in the PF's view the manual does not give
(17 R350; log entry 38). -/
def State.ringWrite (s : State) (p off : Nat) (v : Word) : State :=
  if s.boot ≠ 3 ∨ p = 0 ∨ 8 < p ∨ 4 < off ∨ off % 4 ≠ 0 then s
  else match s.ringRegs p .fault true 0 with
    | none => s
    | some r =>
      let rsvd := r.rsvd / 2 ^ (8 * off) % 2 ^ 32
      (r.set (setBits r.get (8 * off + 31) (8 * off) (v.toNat &&& (2 ^ 32 - 1 - rsvd)))).badWrite 0 off (v.toNat &&& rsvd != 0) false

/-! Reads. -/

/-- The 4 bytes read at an offset; none where no register lies. -/
def State.readWord (s : State) (fn off : Nat) : Option Nat :=
  match s.regAt fn off with
  | some r => some (r.get % 2 ^ 32)
  | none =>
    if off % 8 ≠ 4 then none
    else match s.regAt fn (off - 4) with
      | some r => if r.wide then some (r.get / 2 ^ 32) else none
      | none => none

/-- D2H's oldest message leaves the queue. -/
def State.popD2h (s : State) (p : Nat) : State := s.modPart p fun x => { x with d2h := x.d2h.drop 1 }

/-- A read of 4 or 8 bytes and what it returned (R439); one of D2H, whole or its high half, takes the message (R456). -/
def State.pageRead (s : State) (fn off size : Nat) : State :=
  let seen (s : State) (v : Nat) : State := { s with hostOut := s.hostOut ++ [.read fn off (BitVec.ofNat 64 v)] }
  if 8 < fn then s
  else if !s.hostReaches fn off then seen s 0
  else if !accessOk off size then seen (s.badWrite fn off false true) 0
  else match s.readWord fn off with
    | none => seen (s.badWrite fn off false true) 0
    | some lo =>
      let v := if size = 4 then lo else lo + ((s.readWord fn (off + 4)).getD 0) * 2 ^ 32
      let s := if off = 0x4018 ∧ size = 8 ∨ off = 0x401C then s.popD2h fn else s
      seen s v

/-- A BAR request that does not arrive in its function's selective IDE stream: refused with UR where the TDI runs (R446). -/
def State.strayRequest (s : State) (fn off size : Nat) (v : Option DWord) : State :=
  if (s.part fn).tdisp = 2 then { s with hostOut := s.hostOut ++ [.unsupported fn off] }
  else match v with
    | some v => (s.pageWrite fn off size v.toNat).wakeAll
    | none => s.pageRead fn off size

/-! The rows. -/

/-- REGISTER_WRITE (R5, R6, R439). -/
def execRegisterWrite (fn off size : Nat) (v : DWord) (s : State) : Answer := .next (s.pageWrite fn off size v.toNat)

/-- The PF's view of a telemetry page (18 R371). -/
def teleOffset (p : Nat) : Nat := if p = 0 then 0x2000 else 0xB000 + 0x4000 * (p - 1)

/-- TELEMETRY_CLEAR (R371). -/
def execTelemetryClear (p : Nat) (s : State) : Answer := .next (if p ≤ 8 then s.pageWrite 0 (teleOffset p + 0xA0) 8 1 else s)

/-- DBGEN_WRITE (R394). -/
def execDbgenWrite (p : Nat) (v : Word) (s : State) : Answer := .next (s.pageWrite p 0x4008 4 v.toNat)

/-- H2D_WRITE (R393). -/
def execH2dWrite (p : Nat) (v : DWord) (s : State) : Answer := .next (s.pageWrite p 0x4010 8 v.toNat)

/-- H2D_STAGE_WRITE (R456). -/
def execH2dStageWrite (p : Nat) (v : Word) (s : State) : Answer := .next (s.pageWrite p 0x4010 4 v.toNat)

/-- H2D_HIGH_WRITE (R456). -/
def execH2dHighWrite (p : Nat) (v : Word) (s : State) : Answer := .next (s.pageWrite p 0x4014 4 v.toNat)

/-- D2H_READ (R393). -/
def execD2hRead (p : Nat) (s : State) : Answer := .next (s.pageRead p 0x4018 8)

/-- D2H_HIGH_READ (R456). -/
def execD2hHighRead (p : Nat) (s : State) : Answer := .next (s.pageRead p 0x401C 4)

end Sys2Proof.Machine
end

