-- ==== Sys2Proof/Machine/Near.lean ====
section
/-! DEFINITION. Near-memory commands (15 R308 to R311): NMC, NMF, and the events of the home base die. -/

namespace Sys2Proof.Machine

/-! The block (R308). -/

structure NmBlock where
  op : Nat
  dfmt : Nat
  rm : Nat
  granules : Nat
  sfmt : Nat
  p1 : Nat
  p2 : Nat
  seq : Nat
  dst : Nat
  src : Nat
  deriving DecidableEq, Repr

def NmBlock.of (d : List Byte) : NmBlock :=
  { op := field d 0 1, dfmt := bits (field d 1 1) 4 0, rm := bits (field d 1 1) 7 5, granules := field d 2 1 + 1,
    sfmt := bits (field d 3 1) 4 0, p1 := field d 4 4, p2 := field d 8 4, seq := field d 12 2, dst := field d 16 8, src := field d 24 8 }

def NmBlock.reads (n : NmBlock) : Bool := n.op == 1 || n.op == 2
/-- The element format of a code, and its bytes. -/
def nmFmt (code : Nat) : FloatFmt := if code = 8 then .bf16 else .f32
def nmBytes (code : Nat) : Nat := if code = 8 then 2 else 4
/-- Source bytes of one granule. -/
def NmBlock.perGranule (n : NmBlock) : Nat := 256 / nmBytes n.dfmt * nmBytes n.sfmt

def NmBlock.wellShaped (n : NmBlock) (d : List Byte) : Bool :=
  let fmtOk (c : Nat) : Bool := c == 5 || c == 8
  field d 14 2 == 0 && bits (field d 3 1) 7 5 == 0 && decide (1 ≤ n.op) && decide (n.op ≤ 4) && (n.rm == 0 || n.rm == 5) && fmtOk n.dfmt &&
  (if n.reads then fmtOk n.sfmt else n.sfmt == 0 && n.src == 0) && (n.op == 2 || n.op == 3 || n.p1 == 0) && (n.op == 2 || n.p2 == 0)

/-- The window trap of a source page, where it translates to one now; nothing is recorded (R308). -/
def State.windowTrap (s : State) (x : Lane) (va : Nat) : Option Trap :=
  let only : Steer → Option Trap
    | .trap r => if r.cause = cAccess ∧ r.info = 0x05 then some r else none
    | _ => none
  match s.steer x va { align := 1, write := false } with
  | .miss m => match walkAll (fun a => some (s.pte a)) (s.part m.part) m with
    | .inr t => only (paCheck va t.pa)
    | .inl _ => none
  | r => only r

/-- The operands at issue (R290 steps 4 and 5): the source, global or in the own scratchpad, and the range, each aligned. -/
def State.nmTrap (s : State) (x : Lane) (n : NmBlock) : Option Trap :=
  let src (f : Nat → Option Trap) : Option Trap := if n.reads then f n.src else none
  (src (s.memberTrap x)).orElse fun _ => (if n.dst / 2 ^ 57 ≠ 0 then some (aperture n.dst) else none).orElse fun _ =>
  (src (s.ownTrap x)).orElse fun _ => (alignTrap 256 n.dst).orElse fun _ => (src (alignTrap (nmBytes n.sfmt))).orElse fun _ => src (s.sourceTrap x)

/-- The pages of the range translated through the lane (R290 step 6, R308). -/
def State.nmPages (s : State) (x : Lane) (n : NmBlock) : List (Nat × Nat) ⊕ LaneOut :=
  (pageSplit n.dst (256 * n.granules)).foldl (fun (acc : List (Nat × Nat) ⊕ LaneOut) p =>
    match acc with
    | .inr r => .inr r
    | .inl l => match s.steerAp x p.1 { align := 1, write := true } with
      | .mem (.glob pa) =>
        match l with
        | (_, q) :: _ => if bits q 39 38 = bits pa 39 38 then .inl (l ++ [(p.1, pa)]) else .inr (.trap (access 0x0D (p.1 / 4096 * 4096)))
        | [] => .inl [(p.1, pa)]
      | .trap r => .inr (.trap (if r.cause = cAccess ∧ r.info = 0x05 then access 0x0D (p.1 / 4096 * 4096) else r))
      | .miss m => .inr (.miss m)
      | _ => .inr .next) (.inl [])

/-- NMC at issue (R290, R308). -/
def execNmc (o : Enc) (s : State) : Answer :=
  let d := o.d.toNat
  .next (s.onceInstr o [4, 5] [addrA o, seedB o] (some (d, false)) fun s x =>
    let t := s.laneThread x
    let va := ((addrA o).value t).toNat
    match s.descriptor x va 32 128 (some d) with
    | .inr r => r
    | .inl (b, _) =>
      let n := NmBlock.of b
      if !n.wellShaped b then (s, .trap (access 0x07 va))
      else match s.nmTrap x n with
        | some r => (s, .trap r)
        | none => match s.nmPages x n with
          | .inr r => (s, r)
          | .inl pages =>
            let windows := if n.reads && n.src / 2 ^ 48 != 0xFFFE then
                (pageSplit n.src (n.granules * n.perGranule)).findSome? fun p => s.windowTrap x p.1
              else none
            match windows.orElse fun _ => if n.op = 4 then none else s.detTrap x 0xB5 with
            | some r => (s, .trap r)
            | none =>
              if !(s.core x.core).engRoom (· == .nmc) 32 || !s.quiet x then (s, .hold .waitUnit)
              else match s.newHandle x 5 with
                | none => (s, .hold .waitUnit)
                | some (k, h, s) =>
                  ((s.startEng x .nmc k va b ((seedB o).value t).toNat n.seq pages 0).issued x o h, .next))

/-! The home die (R309). -/

/-- The source of every granule: its bytes, or the address of its poison. -/
def State.nmRead (s : State) (b : Nat) (o : EngOp) (n : NmBlock) : State × Got (List (List Byte × Nat)) :=
  (List.range n.granules).foldl (fun (acc : State × Got (List (List Byte × Nat))) g =>
    match acc.2 with
    | .ok l =>
      let va := n.src + g * n.perGranule
      if n.src / 2 ^ 48 = 0xFFFE then
        match acc.1.spadGet b o.team va n.perGranule with
        | none => (acc.1, .fault va)
        | some (_, some a) => (acc.1, .ok (l ++ [([], a)]))
        | some (d, none) => (acc.1, .ok (l ++ [(d, 0)]))
      else match acc.1.readVa (o.agent b) va n.perGranule with
        | (s, .ok d) => (s, .ok (l ++ [(d, 0)]))
        | (s, .poison a) => (s, .ok (l ++ [([], a)]))
        | (s, .wait r) => (s, .wait r)
        | (s, .fault v) => (s, .fault v)
    | _ => acc) (s, .ok [])

/-- The PA of an address of the range, as translated at issue. -/
def EngOp.pageOf (o : EngOp) (va : Nat) : Nat :=
  match o.pages.find? fun p => decide (p.1 ≤ va) && decide (va / 4096 = p.1 / 4096) with
  | some p => p.2 + (va - p.1)
  | none => 0

/-- The home die takes a command in: its lines are dropped and its whole source is read, granules with a poisoned
source being skipped. -/
def State.nmTake (s : State) (b id op : Nat) : State :=
  match s.eng b id with
  | none => s
  | some o =>
    let n := NmBlock.of o.desc
    if o.kind ≠ .nmc ∨ n.op ≠ op ∨ o.started ∨ o.waitRid.isSome then s
    else match o.stop with
      | some (outcome, va) => s.endEng b o outcome 0 va
      | none =>
        let (s, r) := if n.reads then s.nmRead b o n else (s, .ok [])
        match r with
        | .wait 0 => s
        | .wait rid => s.modEng b id fun o => { o with waitRid := some rid }
        | .fault v | .poison v => s.endEng b o outcomeFault 0 v
        | .ok l =>
          let s := o.pages.foldl (fun (s : State) p => s.dropLines (paAddr p.2) (min (4096 - p.1 % 4096) (n.dst + 256 * n.granules - p.1))) s
          let bad := ((List.range l.length).zip l).filter fun x => x.2.2 != 0
          s.modEng b id fun o =>
            { o with started := true, source := l.flatMap fun x => (if x.2 = 0 then x.1 else List.replicate n.perGranule 0).map (·.toNat),
                     skip := bad.map (·.1), chunks := bad.map fun x => (x.1, x.2.2) }

def execNmAdd (core id : Nat) (s : State) : Answer := .next (s.nmTake core id 1).wakeAll
def execNmSgd (core id : Nat) (s : State) : Answer := .next (s.nmTake core id 2).wakeAll
def execNmScale (core id : Nat) (s : State) : Answer := .next (s.nmTake core id 3).wakeAll
def execNmZero (core id : Nat) (s : State) : Answer := .next (s.nmTake core id 4).wakeAll

/-- The exact value of an element (R309); NaNs in the order w, s, P1, P2. -/
def nmValue (op : Nat) (w s p1 p2 : Val) : Val :=
  let pick (ops : List Val) (v : Val × Bool) : Val := match firstNaN ops with
    | some n => n
    | none => v.1
  match op with
  | 1 => pick [w, s] (Val.add .rne w s)
  | 2 =>
    let (a, bad) := Val.mul .exact p2 w
    let (c, bad') := Val.mul .exact p1 s
    pick [w, s, p1, p2] (if bad || bad' then (Val.defaultNaN, true) else Val.add .rne a c.negate)
  | 3 => pick [w, p1] (Val.mul .exact p1 w)
  | _ => .zero false

/-- The new bytes of a granule at va. -/
def NmBlock.result (n : NmBlock) (seed va : Nat) (old src : List Byte) : List Byte :=
  let f := nmFmt n.dfmt
  let z := nmBytes n.dfmt
  if n.op = 4 then List.replicate 256 0
  else (List.range (256 / z)).flatMap fun i =>
    let w := f.decode (elemAt old z i)
    let x := (nmFmt n.sfmt).decode (elemAt src (nmBytes n.sfmt) i)
    let r := kmix seed ((va + z * i) / 2) n.seq % 65536
    leBytes z (f.round (Rm.ofCode n.rm) r false (nmValue n.op w x (FloatFmt.f32.decode n.p1) (FloatFmt.f32.decode n.p2))).1

/-- NM_GRANULE (R309, R310): one granule processed indivisibly, or skipped. -/
def execNmGranule (core id g : Nat) (s : State) : Answer :=
  .next (match s.eng core id with
    | none => s
    | some o =>
      let n := NmBlock.of o.desc
      if o.kind ≠ .nmc ∨ !o.started ∨ n.granules ≤ g ∨ o.done.contains g ∨ o.skip.contains g then s
      else
        let va := n.dst + 256 * g
        let pa := o.pageOf va
        if !s.keyLoaded (paKey pa) then ((s.count o.part 8).endEng core o outcomeError o.done.length o.lowPoison).wakeAll
        else match s.granulePoison pa va with
          | some a => s.modEng core id fun o => { o with skip := o.skip ++ [g], chunks := o.chunks ++ [(g, a)] }
          | none =>
            let s := s.dropLines (paAddr pa) 256
            let (s, old, _) := s.homeRead o.part pa 256
            let src := ((o.source.drop (g * n.perGranule)).take n.perGranule).map (BitVec.ofNat 8)
            ((s.holdCode core (some o.team) pa 256).homePut o.part pa (n.result o.seed va old src)).modEng core id fun o => { o with done := o.done ++ [g] })

/-- NMC_COMPLETE (R309): the record, then the handle. -/
def execNmcComplete (core id : Nat) (s : State) : Answer :=
  .next (match s.eng core id with
    | none => s
    | some o =>
      if o.kind ≠ .nmc ∨ !o.started ∨ o.done.length + o.skip.length < (NmBlock.of o.desc).granules then s
      else (s.endEng core o (if o.skip.isEmpty then outcomeRetired else outcomePoisoned) o.done.length o.lowPoison).wakeAll)

/-- NMF (R311). -/
def nmfForm : LaneForm :=
  { short := false,
    body := fun s x =>
      let before := ((s.laneThread x).mark).getD s.nextId
      let busy := (s.core x.core).engs.any fun e => e.slot == x.slot && (e.kind == .nmc || e.kind == .pklb) && decide (e.id < before)
      if busy then (s.both x fun t => { t with mark := some before }, .hold .waitUnit)
      else
        let s := s.acquire x.core
        match s.failureOf x [4, 5] with
        | some k => s.deliverTo x k
        | none => (s, .next) }

def execNmf (o : Enc) (s : State) : Answer := .next (s.laneInstr o nmfForm)

end Sys2Proof.Machine
end

