-- ==== Sys2Proof/Machine/Power.lean ====
section
/-! DEFINITION. The power arbiter (01 R22 to R24, 18 R373). -/

namespace Sys2Proof.Machine

/-- Issue slots of a core in an interval, a sixteenth of them: 22,000 cycles of 4 ports (01 R19, R23, 16 R320). -/
def slotSixteenth := 5500

/-- A core's reading. -/
def readingOf (l : List RailReading) (b : Nat) : RailReading := (l.find? fun r => r.core == b).getD { core := b, milliamps := 0, microjoules := 0 }

/-- What a core's matrix rail draws in mW, accounted at its present tuner voltage, and what a raise of it added (R23, R24). -/
def Core.draws (c : Core) (r : RailReading) : Nat := r.milliamps * c.rail.v / 10000
def Core.surplus (c : Core) (r : RailReading) : Nat := r.milliamps * c.rail.extra / 10000

/-- A power page at the end of an interval (R373). -/
def State.powerPage (s : State) (l : List RailReading) (floor p : Nat) : State :=
  let cs := s.coresOf p
  let sat (n : Nat) : Nat := min n (2 ^ 64 - 1)
  let sum (f : Nat → Nat) : Nat := (cs.map f).foldl (· + ·) 0
  let masked := sum fun b => (s.core b).masked * slotSixteenth
  s.modPart p fun x =>
    { x with energy := sat (x.energy + sum fun b => (readingOf l b).microjoules), maskedSlots := sat (x.maskedSlots + masked),
             maskInt := sat (x.maskInt + if masked = 0 then 0 else 1), floor := floor % 2 ^ 32 }

/-- POWER_ARBITER_INTERVAL (R23, R24): the limit in force, the shares, which their floor makes equal, less what a raised rail was
charged, and the cores to be masked in the next interval, by how much being free (log entry 36). -/
def execPowerArbiterInterval (currents : List RailReading) (s : State) : Answer :=
  .next (
    let s := { s with limit := s.limitNext }
    let floor := (s.limit * 1000 - Config.guardedNeed s.fresh) / 160
    let s := (List.range 9).foldl (fun (s : State) p => s.powerPage currents floor p) s
    (List.range 160).foldl (fun (s : State) b =>
      let r := readingOf currents b
      s.modCore b fun c =>
        { c with masked := if floor < c.draws r + c.charged then 1 + Config.freeNat (s.fresh + b) % 15 else 0, charged := c.surplus r,
                 rail := { c.rail with extra := c.rail.raised.getD c.rail.v - c.rail.v } }) s)

end Sys2Proof.Machine
end

