-- ==== Sys2Proof/Machine/Soft.lean ====
section
/-! DEFINITION. Uncorrectable errors as they strike (09 R187, 19 R382, R387): poison, or state that errs when it is read. -/

namespace Sys2Proof.Machine

/-- A sector of a bank errs: of a scratchpad or of a way of the private cache it is poisoned; of a FIFO, the entries that it holds are,
counted from the oldest (R187; log entry 79). -/
def Bank.strike (x : Bank) (k : Nat) : Bank :=
  if x.mode = .fifo then { x with fifo := x.fifo.zipIdx.map fun e => if e.2 / 4 = k then (e.1.1, true) else e.1 }
  else { x with poison := addPoison x.poison k }

/-- UNCORRECTABLE_ERROR. A scratchpad sector counts through the core's banks, 2,048 to a bank; a Caldera one names a crew slot, or, from 64 on, the core's
own state. -/
def execUncorrectableError (e : ErrorSite) (s : State) : Answer :=
  .next (match e with
    | .memSector k => if k < 2 ^ 35 then { s with poison := addPoison s.poison k } else s
    | .spadSector b k => if k % 2048 * 32 < s.spcap b then s.modBank b (k / 2048) fun x => x.strike (k % 2048) else s
    | .tasSector b k => if k < 98304 then s.modCore b fun c => { c with tasPoison := k :: c.tasPoison.filter (· != k) } else s
    | .crewFile b sl => s.modCrew b sl fun c => { c with bad := true }
    | .datapath b sl lanes =>
      let pair := (s.hdrOf b sl).pair
      s.consumeEach b sl (((bitList lanes.toNat 32).map fun l => if pair then l / 2 * 2 else l).eraseDups)
    | .handleTable b => s.modCore b fun c => { c with badHandles := true }
    | .caldera b k => s.modCore b fun c => if c.caldera.isEmpty then c else { c with badCaldera := min 64 k :: c.badCaldera })

end Sys2Proof.Machine
end

