-- ==== Sys2Proof/Machine/Suspend.lean ====
section
/-! DEFINITION. Suspension, evacuation and restoring of a partition (19 R387 to R389, 28 R442, R455). -/

namespace Sys2Proof.Machine

/-! SUSPEND and the halt (R388, R389). -/

/-- SUSPEND: STATE reads SUSPENDED from here on; answers the bytes per core that EVACUATE needs. -/
def execSuspend (s : State) : Answer :=
  s.mail 3 [] fun p _ =>
    let x := s.part p
    if x.phase ≠ .active ∨ x.st ≠ 1 then s.mailDone codeState
    else if s.locked p then s.refuseLocked [p]
    else (s.modPart p fun x => { x with st := 2, phase := .halting }).mailReply (leBytes 8 (Config.evacuateBytes p))

/-- A producer that has to return before a core is halted: loads, atomics and values on their way; a wait for an engine, for
the debugger or for a bank is saved as it stands (R389, 05 R101). -/
def Pend.returning (p : Pend) : Bool := match p.kind with
  | .load .. | .value .. | .tchk .. => true
  | .atoms _ _ ls _ _ => ls.any fun a => a.dst.isSome
  | .store .. | .waith .. | .halting .. | .stepping .. | .bank .. => false

/-- A core is halted for its partition (R389). -/
def State.coreHalted (s : State) (b : Nat) : Bool :=
  let c := s.core b
  !(s.arrays.any fun a => a.span.any fun m => m.1 == b) && !(c.pend.any Pend.returning) &&
  !(c.teams.any fun t => s.copiesInto b t.id) && !(c.engs.any fun o => o.kind == .pkl)

/-- SUSPEND_HALTED: every core has halted. -/
def execSuspendHalted (p : Nat) (s : State) : Answer :=
  .next (if (s.part p).phase = .halting ∧ (s.coresOf p).all s.coreHalted then s.modPart p fun x => { x with phase := .saving } else s)

/-- CONTEXT_SAVED: each core's context is in a free Caldera slot. -/
def execContextSaved (p : Nat) (s : State) : Answer :=
  .next (
    let cs := s.coresOf p
    if (s.part p).phase ≠ .saving ∨ cs.any (fun b => decide (2 ≤ (s.core b).caldera.length)) then s
    else
      let s := cs.foldl (fun (s : State) b => s.modCore b fun c => { c with caldera := c.caldera ++ [p], badCaldera := [] }) s
      s.modPart p fun x => { x with phase := .saved })

/-! EVACUATE. -/

/-- The image's place and size: under the partition's key of index 0. -/
def State.imagePa (s : State) (p pa : Nat) : Nat := ((s.part p).keys.headD 0) % 128 * 2 ^ 40 + pa % 2 ^ 40

/-- EVACUATE: the copy to memory begins. -/
def execEvacuate (s : State) : Answer :=
  s.mail 4 [(4, 4)] fun p m =>
    if (s.part p).phase ≠ .saved then s.mailDone codeState
    else if s.locked p then s.refuseLocked [p]
    else if m.arg 16 8 < Config.evacuateBytes p * (s.coresOf p).length then s.mailDone codeRefused
    else (s.modPart p fun x => { x with phase := .evacuating, imageAt := m.arg 8 8 }).mailDone codeOk

/-- Nothing of a core is still under way: what its engines and stores do has reached the saved context or memory. -/
def State.coreDrained (s : State) (b : Nat) : Bool :=
  let c := s.core b
  s.coreHalted b && c.copies.isEmpty && c.engs.isEmpty && !(c.pend.any Pend.isMem) &&
  !((List.range 9).any fun p => (s.part p).invs.any fun q => match q.asker with
    | some (b', _, _) => b' == b
    | none => false)

/-- EVACUATE_COMPLETE: the image is in memory, the cores and Caldera slots are free. Its bytes have no stated format: they
are free values, and the model keeps what they stand for (log entry 34). -/
def execEvacuateComplete (p : Nat) (s : State) : Answer :=
  .next (
    let cs := s.coresOf p
    if (s.part p).phase ≠ .evacuating ∨ !cs.all s.coreDrained then s
    else
      let x := s.part p
      let n := Config.evacuateBytes p * cs.length
      let image := cs.map fun b => ({ core := b, ctx := s.core b } : Image)
      let s := s.mpPut p (s.imagePa p x.imageAt) ((List.range n).map (Config.imageByte p s.fresh))
      let no := s.fresh
      let s := cs.foldl State.scrub s
      s.modPart p fun x => { x with phase := .evacuated, image, imageNo := no })

/-! RESTORE and RESUME. -/

/-- RESTORE: the load begins, from the device physical address that the PF names. -/
def execRestore (s : State) : Answer :=
  s.mail 5 [(4, 4)] fun p m =>
    if (s.part p).phase ≠ .evacuated then s.mailDone codeState
    else if s.locked p then s.refuseLocked [p]
    else (s.modPart p fun x => { x with phase := .restoring, imageAt := m.arg 8 8 }).mailDone codeOk

/-- Where a core of the image goes. -/
def newPlace (moves : List (Nat × Nat)) (b : Nat) : Nat := lookupNat moves b b

/-- A lane's waits follow the cores they name. -/
def LaneState.move (moves : List (Nat × Nat)) (t : LaneState) : LaneState := match t with
  | .waitBar c k va ph n => .waitBar (newPlace moves c) k va ph n
  | .parked (.line c k l d w) => .parked (.line (newPlace moves c) k l d w)
  | t => t
def Crew.move (moves : List (Nat × Nat)) (c : Crew) : Crew :=
  { c with threads := c.threads.map fun t => { t with st := t.st.move moves } }

/-- A saved core entered on another: what belongs to the place stays there (05 R101). `badCaldera` are the parts of it that were loaded with
an uncorrectable error (R387). -/
def Core.enter (old ctx : Core) (moves : List (Nat × Nat)) (p : Nat) (badCaldera : List Nat) : Core :=
  { ctx with crews := ctx.crews.map fun o => o.map (Crew.move moves), cache := [], victims := [], tlb := [], rail := old.rail,
             crCount := old.crCount, finj := old.finj, tolerant := old.tolerant, charged := old.charged, quarantined := old.quarantined, gated := false, masked := old.masked,
             caldera := old.caldera ++ [p], badCaldera }

/-- The gang of a team: its launch and place. -/
def State.gangOf (s : State) (t : Team) : Nat × Nat := (t.launch, t.l / s.e1 t)

/-- The MP may choose these cores: free ones of the partition, as large, each gang on one die (R388), urgent teams in the urgent pool and
no others there (02 R38). -/
def State.restorable (s : State) (p : Nat) (cores : List Nat) : Bool :=
  let im := (s.part p).image
  cores.length == im.length && cores.eraseDups.length == cores.length &&
  cores.all (fun b => (s.part p).cores.getLsbD b && (s.core b).teams.isEmpty && (s.core b).caldera.isEmpty && !(s.core b).quarantined) &&
  (im.zip cores).all (fun a => decide (s.spcap a.1.core ≤ s.spcap a.2) &&
    a.1.ctx.teams.all (fun t => (s.launch t.part t.launch).all fun ln => ln.hdr.urg == (s.part p).urgent.getLsbD a.2) &&
    (im.zip cores).all fun c => a.2 / 40 == c.2 / 40 ||
      !(a.1.ctx.teams.any fun t => c.1.ctx.teams.any fun u => s.gangOf t == s.gangOf u))

/-- The part of a core's context that byte `i` of its image holds: a crew slot, or 64 for the core's own state (log entry 34). -/
def imagePart (i : Nat) : Nat := min 64 (Config.imageSlot i)

/-- The crews of a context whose parts were loaded from bytes that are not those evacuated: what their registers hold is not stated
(log entry 34). -/
def Core.strange (c : Core) (n : Nat) (parts : List Nat) : Core :=
  parts.foldl (fun (c : Core) sl => match c.crews[sl]? with
    | some (some cr) => c.setCrew sl (some { cr with threads := cr.threads.mapFinIdx fun l t _ =>
        { t with regs := t.regs.mapFinIdx fun r x _ => { x with val := Config.strangeWord n sl (64 * l + r) } } })
    | _ => c) c

/-- Core number `j` of an image as it is loaded: its parts that met an error, and its context. -/
def State.loadImage (s : State) (p base j : Nat) (data : List Byte) (ctx : Core) : List Nat × Core :=
  let n := Config.evacuateBytes p
  let own := (List.range n).map (n * j + ·)
  let bad := own.filter fun i => s.badByte (base + i)
  let odd := own.filter fun i => data[i]? != some (Config.imageByte p (s.part p).imageNo i)
  ((bad.map fun i => imagePart (i - n * j)).eraseDups, ctx.strange s.fresh ((odd.map fun i => imagePart (i - n * j)).eraseDups))

/-- RESTORE_COMPLETE: the image, read under the partition's key of index 0, is on the chosen cores, as a saved context. -/
def execRestoreComplete (p : Nat) (cores : List Nat) (s : State) : Answer :=
  .next (if (s.part p).phase ≠ .restoring ∨ !s.restorable p cores then s
    else
      let im := (s.part p).image
      let moves := (im.map Image.core).zip cores
      let base := s.imagePa p (s.part p).imageAt
      let (s, data, _) := s.l2Read p base (Config.evacuateBytes p * im.length)
      let loaded := (List.range im.length).zip im |>.map fun a => s.loadImage p base a.1 data a.2.ctx
      let s := (loaded.zip cores).foldl (fun (s : State) a => s.modCore a.2 fun c => c.enter a.1.2 moves p a.1.1) s
      s.modPart p fun x =>
        { x with phase := .saved, image := [],
                 launches := x.launches.map fun l => { l with claimed := l.claimed.map fun c => (c.1, newPlace moves c.2) } })

/-- A restored lane that was parked on a fault makes its access again, which starts its walk again (16 R326). -/
def Crew.retried (c : Crew) : Crew :=
  { c with threads := c.threads.map fun t => match t.st with
    | .parked (.fault _) => { t with st := .runnable, age := 0 }
    | _ => t }

/-- The teams of a core whose saved context met an uncorrectable error: those of a crew slot, or for the core's own state all. -/
def State.badTeams (s : State) (b : Nat) : List Nat :=
  let bad := (s.core b).badCaldera
  (s.core b).teams.filterMap fun t => if bad.contains 64 || t.slots.any bad.contains then some t.id else none

/-- RESUME: the contexts are restored where they are; a team whose context met an uncorrectable error is killed, and each error counted
(R387). -/
def execResume (s : State) : Answer :=
  s.mail 6 [] fun p _ =>
    if (s.part p).phase ≠ .saved then s.mailDone codeState
    else
      let s := (s.coresOf p).foldl (fun (s : State) b =>
        let s := (s.core b).badCaldera.foldl (fun (s : State) _ => s.count p 7) s
        let s := (s.badTeams b).foldl (fun (s : State) t => s.killTeam b t) s
        s.modCore b fun c => { c with caldera := c.caldera.filter (· != p), badCaldera := [], crews := c.crews.map fun o => o.map Crew.retried }) s
      ((s.modPart p fun x => { x with st := 1, phase := .active }).mailDone codeOk).wakeAll

end Sys2Proof.Machine
end

