-- ==== Sys2Proof/Machine/TilePath.lean ====
section
/-! DEFINITION. The tile path (13 R251, R259 to R265): quantising, bit planes, accumulator tiles and draining. -/

namespace Sys2Proof.Machine

/-! Elements and blocks of a tile. -/

def Tile.count (t : Tile) : Nat := t.rows * t.cols
/-- The bytes of a plain tile of an element format. -/
def Tile.plainBytes (t : Tile) (f : Tag) : Nat := ceilDiv (t.count * f.elemBits) 8
/-- The bytes of a raw image of TAS blocks (R262). -/
def Tile.rawBytes (t : Tile) (dbl : Bool) : Nat := (if dbl then 256 else 128) * (8 * (t.rows - 1) + ceilDiv t.cols 16)

/-- The elements' bits of a plain tile, row by row. -/
def plainElems (f : Tag) (d : List Byte) (n : Nat) : List Nat :=
  let v := leNat d
  (List.range n).map fun k => elem f.elemBits v k

/-- The exact value of accumulator i of a block (06 R121, R126); SPEC keeps no NaN's sign or payload: the default NaN (log entry 84). -/
def TasBlock.value (b : TasBlock) (i : Nat) : Val :=
  match (b.spec[i]?).getD 0 with
  | 0 => Val.ofInt ((b.m[i]?).getD 0) b.x
  | 1 => .inf false
  | 2 => .inf true
  | _ => Val.defaultNaN

/-- The team of an entry that runs on the tile path, and whether its blocks are double. -/
def State.opTeam (s : State) (o : ArrayOp) : Option (Nat × Team × Bool) :=
  match o.span.head? with
  | none => none
  | some (b, id) => ((s.core b).team id).map fun t => (b, t, (s.teamHdr t).tas64)

def ArrayOp.tile (o : ArrayOp) (i : Nat) : Tile := Tile.of ((o.job.tiles[i]?).getD 0)

/-- The blocks a TAS tile touches, as their first 128-byte units. -/
def Tile.units (t : Tile) (tm : Team) (dbl : Bool) : List Nat := t.blocks.map fun b => tm.block dbl t.tasBase b

/-- The address of the first poisoned sector of blocks, given by their first units, in the TAS window (log entry 31). -/
def Core.tasBad (c : Core) (dbl : Bool) (us : List Nat) : Option Nat :=
  us.findSome? fun u => ((List.range (if dbl then 8 else 4)).map (4 * u + ·)).find? c.tasPoison.contains |>.map fun k => 0xFFFC000000000000 + 32 * k

/-! Descriptor checks (R250). -/

/-- A memory tile's own fields: its format, SPACE 00 or 01, LAYOUT 000. -/
def plainChecks (t : Tile) (n : Nat) (fmts : List Nat) : List (Bool × Trap) :=
  [(!fmts.contains t.fmt, fmtTrap t n), (decide (1 < t.space) || t.layout != 0, access 0x07 n)]
def shapeCheck (t u : Tile) (n : Nat) : Bool × Trap := (!t.sameShape u, access 0x07 n)

/-- An instruction that passed its descriptor checks enters the queue; one that did not traps. -/
def State.tileIssue (s : State) (x : Lane) (o : Enc) (t : Option Trap) (q : MatIssue) : State × LaneOut :=
  match t with
  | some r => (s, .trap r)
  | none => s.enterArray x o { q with span := s.ownSpan x }

/-- The rounding mode's code, DYN replaced at issue (03 R57, 05 R96). -/
def rmCode (o : Enc) (t : Thread) : Nat := if o.rm = 7 then t.rnd.toNat % 8 else o.rm.toNat

/-! QBLK and RQNT (R259, R260). -/

def emaxE : Tag → Int
  | .e4m3x4 => 8 | .e5m2x4 => 15 | .e2m1x8 => 2 | _ => 6

/-- A quantised copy's own fields. -/
def copyChecks (t : Tile) (n ft layout : Nat) : List (Bool × Trap) :=
  [(t.fmt != ft, fmtTrap t n), (t.space != 1 || t.layout != layout || t.offs == 0 || t.scale == 0, access 0x07 n)]

/-- The bytes of a copy's elements, of its offset plane, and its scale. -/
def Tile.copyRanges (t : Tile) (f : Tag) : List (Nat × Nat × Bool) :=
  let (n, k) := if t.layout = 3 then (t.plainBytes f, t.rows * ceilDiv t.cols 32)
    else (t.rows * ((planeFmt f).map fun p => recordSize p t.cols).getD 0, t.cols * ceilDiv t.rows 32)
  [(t.gbase, n, true), (ownSpad t.offs, k, true), (ownSpad t.scale, 4, true)]

/-- Row-major indices of each block of a copy, in the order of its offset plane (12 R235). -/
def Tile.copyBlocks (t : Tile) : List (List Nat) :=
  if t.layout = 3 then
    (List.range t.rows).flatMap fun r => (List.range (ceilDiv t.cols 32)).map fun b =>
      (List.range (min 32 (t.cols - 32 * b))).map fun i => r * t.cols + 32 * b + i
  else
    (List.range t.cols).flatMap fun c => (List.range (ceilDiv t.rows 32)).map fun b =>
      (List.range (min 32 (t.rows - 32 * b))).map fun i => (32 * b + i) * t.cols + c

/-- ⌊log2 (m × 2^e / (m' × 2^e'))⌋. -/
def floorLog2Quot (m : Nat) (e : Int) (m' : Nat) (e' : Int) : Int :=
  let k := Nat.log2 m
  let k' := Nat.log2 m'
  let t : Int := k + e - k' - e'
  if m' * 2 ^ k ≤ m * 2 ^ k' then t else t - 1

/-- x / (S × 2^e) rounded once into the format, saturating. -/
def quantElem (f : Tag) (rm : Rm) (x : Val) (ms : Nat) (es : Int) : Nat :=
  let v : Val := match x with
    | .fin n m e => divSticky 24 n m e ms es
    | v => v
  (f.elemFmt.round rm 0 true v).1

/-- The block rule of R259: the offset and the elements. -/
def quantBlock (f : Tag) (rm : Rm) (s : Val) (xs : List Val) : Nat × List Nat :=
  match s with
  | .fin false ms es =>
    if xs.any fun x => x.isNaN || x.isInf then (255, xs.map fun _ => 0)
    else
      let e : Int := (xs.filterMap fun x => match x with
        | .fin _ m e => some (floorLog2Quot m e ms es)
        | _ => none).foldl (fun (a : Option Int) t => some (match a with
          | none => t
          | some u => max u t)) none |>.map (· - emaxE f) |>.getD 0
      let off := (clampInt (e + 127) 0 254).toNat
      (off, xs.map fun x => quantElem f rm x ms (es + off - 127))
  | _ => (255, xs.map fun _ => 0)

/-- The codes of a copy laid out: plain, or bit-plane records (R259). -/
def Tile.copyBytes (t : Tile) (f : Tag) (codes : List Nat) : List Byte :=
  if t.layout = 3 then leBytes (t.plainBytes f) (packElems f.elemBits codes)
  else match planeFmt f with
    | none => []
    | some p => (List.range t.rows).flatMap fun r => planeRecord f p ((codes.drop (r * t.cols)).take t.cols)

/-- The codes read back from a copy. -/
def Tile.copyCodes (t : Tile) (f : Tag) (d : List Byte) : List Nat :=
  if t.layout = 3 then plainElems f d t.count
  else match planeFmt f with
    | none => []
    | some p =>
      let size := recordSize p t.cols
      (List.range t.rows).flatMap fun r =>
        let rec_ := (d.drop (r * size)).take size
        (List.range t.cols).map fun j =>
          let (sg, ex, m, _) := recordElem p t.cols rec_ j
          match f.elemFmt with
          | .float g => sg * 2 ^ (g.width - 1) + ex * 2 ^ (g.p - 1) + m % 2 ^ (g.p - 1)
          | _ => wrap f.elemBits (if sg = 1 then -(m : Int) else m)

/-- Codes by index put in row-major order. -/
def inOrder (n : Nat) (l : List (Nat × Nat)) : List Nat :=
  (l.foldl (fun (a : Array Nat) p => a.setIfInBounds p.1 p.2) (Array.replicate n 0)).toList

/-- The writes of one copy from its blocks (indices, offset, codes), with the tile scale. -/
def Tile.copyWrites (t : Tile) (f : Tag) (scale : Nat) (bs : List (List Nat × Nat × List Nat)) : List (Nat × List Byte) :=
  let codes := inOrder t.count (bs.flatMap fun b => b.1.zip b.2.2)
  [(t.gbase, t.copyBytes f codes), (ownSpad t.offs, bs.map fun b => BitVec.ofNat 8 b.2.1), (ownSpad t.scale, leBytes 4 scale)]

def scaleOpnd (o : Enc) : Opnd := o.regA false (.oneOf [.f32])

/-- QBLK at issue. -/
def execQblk (o : Enc) (s : State) : Answer :=
  .next (s.matInstr o [scaleOpnd o] fun s x =>
    let (nR, nC, nS) := (o.w2Bits 3 0, o.w2Bits 7 4, o.w2Bits 11 8)
    let (tR, tC, tS) := (s.tile x nR, s.tile x nC, s.tile x nS)
    let f := o.fmt .e4m3x4
    let (row, col) := (!o.modBit 0, !o.modBit 1)
    let srcs := [Tag.f32, .bf16x2, .f16x2].map Tag.code
    let t := firstTrap ((if row then copyChecks tR nR f.code 3 else []) ++ (if col then copyChecks tC nC f.code 4 else []) ++
      (if row && col then [(!tC.sameShape tR || tC.scale != tR.scale, access 0x07 nC)] else []) ++
      plainChecks tS nS srcs ++ [shapeCheck tS (if row then tR else tC) nS])
    let fS := (Tag.ofCode tS.fmt).getD .f32
    s.tileIssue x o t
      { opc := 0xA2, tiles := [nR, nC, nS], bases := (if row then [tR.gbase] else []) ++ (if col then [tC.gbase] else []) ++ [tS.gbase],
        ranges := (if row then tR.copyRanges f else []) ++ (if col then tC.copyRanges f else []) ++ [(tS.gbase, tS.plainBytes fS, false)],
        writes := none, span := [], a := (scaleOpnd o).value (s.laneThread x), rm := rmCode o (s.laneThread x) })

/-- RQNT at issue. -/
def execRqnt (o : Enc) (s : State) : Answer :=
  .next (s.matInstr o [scaleOpnd o] fun s x =>
    let (nR, nC) := (o.w2Bits 3 0, o.w2Bits 7 4)
    let (tR, tC) := (s.tile x nR, s.tile x nC)
    let f := o.fmt .e4m3x4
    let t := firstTrap (copyChecks tR nR f.code 3 ++ copyChecks tC nC f.code 4 ++
      [(!tC.sameShape tR || tC.scale != tR.scale, access 0x07 nC)])
    s.tileIssue x o t
      { opc := 0xA3, tiles := [nR, nC], bases := [tR.gbase, tC.gbase], ranges := tR.copyRanges f ++ tC.copyRanges f, writes := none, span := [],
        a := (scaleOpnd o).value (s.laneThread x), rm := rmCode o (s.laneThread x) })

/-- BPLN at issue (R261). -/
def execBpln (o : Enc) (s : State) : Answer :=
  .next (s.matInstr o [] fun s x =>
    let (nB, nS) := (o.w2Bits 3 0, o.w2Bits 7 4)
    let (tB, tS) := (s.tile x nB, s.tile x nS)
    let f := o.fmt .bf16x2
    let t := firstTrap [(tB.fmt != f.code, fmtTrap tB nB), (tB.space != 1 || tB.layout != 2, access 0x07 nB), (tS.fmt != f.code, fmtTrap tS nS),
      (decide (1 < tS.space) || decide (1 < tS.layout), access 0x07 nS), shapeCheck tS tB nS]
    let size := ((planeFmt f).map fun p => recordSize p tB.cols).getD 0
    s.tileIssue x o t
      { opc := 0xA4, tiles := [nB, nS], bases := [tB.gbase, tS.gbase],
        ranges := [(tB.gbase, tB.rows * size, true), (tS.gbase, tS.plainBytes f, false)], writes := none, span := [] })

/-! TLD, TST, TSCL, TZERO, TDRN and TMOVE at issue (R262 to R265). -/

def execTld (o : Enc) (s : State) : Answer :=
  .next (s.matInstr o [] fun s x =>
    let (nT, nM) := (o.w2Bits 3 0, o.w2Bits 7 4)
    let (tT, tM) := (s.tile x nT, s.tile x nM)
    let h := s.hdrOf x.core x.slot
    let f := o.fmt .f32
    let t := (tasTileTrap h tT nT).orElse fun _ => firstTrap (plainChecks tM nM [f.code] ++ [shapeCheck tM tT nM])
    s.tileIssue x o t
      { opc := 0xA5, tiles := [nT, nM], bases := [tM.gbase],
        ranges := [(tM.gbase, if o.modBit 0 then tT.rawBytes h.tas64 else tM.plainBytes f, false)], writes := some tT, span := [] })

def execTst (o : Enc) (s : State) : Answer :=
  .next (s.matInstr o [] fun s x =>
    let (nM, nT) := (o.w2Bits 3 0, o.w2Bits 7 4)
    let (tM, tT) := (s.tile x nM, s.tile x nT)
    let h := s.hdrOf x.core x.slot
    let t := (firstTrap [(tM.fmt != 0, fmtTrap tM nM), (decide (1 < tM.space), access 0x07 nM)]).orElse fun _ => tasTileTrap h tT nT
    s.tileIssue x o t
      { opc := 0xA6, tiles := [nM, nT], bases := [tM.gbase], ranges := [(tM.gbase, tT.rawBytes h.tas64, true)], writes := none, span := [] })

def shiftOpnd (o : Enc) : Opnd := o.regA false (.oneOf [.i32])

def execTscl (o : Enc) (s : State) : Answer :=
  .next (s.matInstr o [shiftOpnd o] fun s x =>
    let nT := o.w2Bits 3 0
    let tT := s.tile x nT
    s.tileIssue x o (tasTileTrap (s.hdrOf x.core x.slot) tT nT)
      { opc := 0xA7, tiles := [nT], bases := [], ranges := [], writes := some tT, span := [], a := (shiftOpnd o).value (s.laneThread x) })

def execTzero (o : Enc) (s : State) : Answer :=
  .next (s.matInstr o [] fun s x =>
    let nT := o.w2Bits 3 0
    let tT := s.tile x nT
    s.tileIssue x o (tasTileTrap (s.hdrOf x.core x.slot) tT nT)
      { opc := 0xA8, tiles := [nT], bases := [], ranges := [], writes := some tT, span := [] })

/-- The register operands of TDRN: η, s and λ with .upd, the key pair with SR. -/
def drainOpnds (o : Enc) : List Opnd :=
  if o.modBits 1 0 = 2 then [o.regA false (.oneOf [.f32]), o.regB false (.oneOf [.f32]), o.regC false (.oneOf [.f32])]
  else if o.rm = 5 then [o.regC true (.oneOf [.n64, .i64])] else []

def execTdrn (o : Enc) (s : State) : Answer :=
  let srcs := drainOpnds o
  .next (s.matInstr o srcs fun s x =>
    let (nM, nT) := (o.w2Bits 3 0, o.w2Bits 7 4)
    let (tM, tT) := (s.tile x nM, s.tile x nT)
    let th := s.laneThread x
    let f := o.fmt .f32
    let v (i : Nat) : DWord := ((srcs[i]?).map fun r => r.value th).getD 0
    let upd := o.modBits 1 0 == 2
    let t := (firstTrap (plainChecks tM nM [f.code])).orElse fun _ =>
      (tasTileTrap (s.hdrOf x.core x.slot) tT nT).orElse fun _ => firstTrap [shapeCheck tM tT nT]
    s.tileIssue x o t
      { opc := 0xA9, tiles := [nM, nT], bases := [tM.gbase], ranges := [(tM.gbase, tM.plainBytes f, true)],
        writes := if o.modBit 3 then some tT else none, span := [], a := v 0, b := v 1, c := if upd then v 2 else v 0,
        rm := rmCode o th })

def execTmove (o : Enc) (s : State) : Answer :=
  .next (s.matInstr o [] fun s x =>
    let (nD, nS) := (o.w2Bits 3 0, o.w2Bits 7 4)
    let (tD, tS) := (s.tile x nD, s.tile x nS)
    let h := s.hdrOf x.core x.slot
    let t := (tasTileTrap h tD nD).orElse fun _ => (tasTileTrap h tS nS).orElse fun _ => firstTrap [shapeCheck tS tD nS]
    s.tileIssue x o t { opc := 0xAA, tiles := [nD, nS], bases := [], ranges := [], writes := some tD, span := [] })

/-! The tile path (R251, R253). -/

/-- A block with n added to its exponent (R264). -/
def TasBlock.shift (b : TasBlock) (n : Int) : TasBlock :=
  let e := b.x + n
  if 32767 < e then
    { b with x := 32767, spec := (List.range 16).map fun i =>
        let old := (b.spec[i]?).getD 0
        let m := (b.m[i]?).getD 0
        if old = 0 ∧ m ≠ 0 then (if m < 0 then 2 else 1) else old }
  else if e < -32768 then { b with x := -32768, m := b.m.map fun (m : Int) => m >>> (-32768 - e).toNat }
  else { b with x := e }

/-- A block from its raw image (R262): CHECK and RSVD are not loaded. -/
def TasBlock.load (idx : Nat) (dbl : Bool) (d : List Byte) : TasBlock :=
  let v := leNat d
  let w := if dbl then 112 else 48
  let n := 16 * w
  { idx, dbl, m := (List.range 16).map fun i => signed w (elem w v i), x := signed 16 (v >>> n),
    spec := (List.range 16).map fun i => elem 2 (v >>> (n + 16)) i, grow := (v >>> (n + 48)) % 256 }

/-- The bytes of a block (R263). -/
def TasBlock.image (b : TasBlock) : List Byte := leBytes (if b.dbl then 256 else 128) b.bits

/-- What an entry does: reads that decide, then writes to memory and to blocks of its team's TAS. -/
structure TileWork where
  reads : List (Nat × Nat)
  tasReads : List Nat
  mem : List (List Byte) → List (Nat × List Byte)
  tas : List (List Byte) → Core → Core

/-- The element that TDRN writes (R265). -/
def drainElem (o : ArrayOp) (f : Tag) (i j : Nat) (w g : Val) : Nat :=
  let e := o.job.enc
  let rm := Rm.ofCode o.job.rm
  let val (v : DWord) : Val := FloatFmt.f32.decode (v.toNat % 2 ^ 32)
  let x : Val := match e.modBits 1 0 with
    | 0 => g
    | 1 => (withNaN [w, g] (Val.add rm w g)).1
    | _ =>
      let (eta, s, lam) := (val o.job.a, val o.job.b, val o.job.c)
      match firstNaN [w, eta, s, g, lam] with
      | some v => v
      | none =>
        let p := (Val.mul .exact s g).1
        let q := (Val.mul .exact lam w).1
        let inner := if p.isNaN || q.isNaN then Val.defaultNaN else (Val.add rm p q).1
        let step := if inner.isNaN then inner else (Val.mul .exact eta inner).1
        if step.isNaN then step else (Val.add rm w step.negate).1
  let r := if o.job.rm = 5 then kmix o.job.c.toNat (i * 1024 + j) (e.w2Bits 27 12) % 65536 else 0
  (f.elemFmt.round rm r (e.modBit 2) x).1

/-- The work of an entry by its opcode; `c` is the core's TAS as it stands. -/
def ArrayOp.work (o : ArrayOp) (tm : Team) (dbl : Bool) (c : Core) : TileWork :=
  let e := o.job.enc
  let t0 := o.tile 0
  let t1 := o.tile 1
  let get (ds : List (List Byte)) (i : Nat) : List Byte := (ds[i]?).getD []
  let blk (t : Tile) (b : Nat × Nat) : Nat := tm.block dbl t.tasBase b
  match o.job.opc with
  | 0xA2 =>
    let f := e.fmt .e4m3x4
    let t2 := o.tile 2
    let fS := (Tag.ofCode t2.fmt).getD .f32
    let scale := o.job.a.toNat % 2 ^ 32
    let copies := (if e.modBit 0 then [] else [t0]) ++ (if e.modBit 1 then [] else [t1])
    { reads := [(t2.gbase, t2.plainBytes fS)], tasReads := [], tas := fun _ c => c,
      mem := fun ds =>
        let xs := ((plainElems fS (get ds 0) t2.count).map fS.elemFmt.decode).toArray
        copies.flatMap fun t => t.copyWrites f scale (t.copyBlocks.map fun b =>
          (b, quantBlock f (Rm.ofCode o.job.rm) (FloatFmt.f32.decode scale) (b.map fun k => (xs[k]?).getD (.zero false)))) }
  | 0xA3 =>
    let f := e.fmt .e4m3x4
    let scale := o.job.a.toNat % 2 ^ 32
    let rs (t : Tile) : List (Nat × Nat) := (t.copyRanges f).map fun r => (r.1, r.2.1)
    let one (t : Tile) (elems offs old : List Byte) : List (Nat × List Byte) :=
      let codes := (t.copyCodes f elems).toArray
      let s := FloatFmt.f32.decode (leNat old)
      t.copyWrites f scale (((List.range t.copyBlocks.length).zip t.copyBlocks).map fun nb =>
        let b := nb.2
        let off := ((offs[nb.1]?).getD 0).toNat
        let cs := b.map fun k => (codes[k]?).getD 0
        (b, if off = 255 then (255, cs)
          else quantBlock f (Rm.ofCode o.job.rm) (FloatFmt.f32.decode scale) (cs.map fun q =>
            let v := f.elemFmt.decode q
            match (withNaN [v, s] (Val.mul .exact v s)).1 with
            | .fin n m e => .fin n m (e + off - 127)
            | v => v)))
    { reads := rs t0 ++ rs t1, tasReads := [], tas := fun _ c => c,
      mem := fun ds => one t0 (get ds 0) (get ds 1) (get ds 2) ++ one t1 (get ds 3) (get ds 4) (get ds 2) }
  | 0xA4 =>
    let f := e.fmt .bf16x2
    { reads := [(t1.gbase, t1.plainBytes f)], tasReads := [], tas := fun _ c => c,
      mem := fun ds =>
        let xs := (plainElems f (get ds 0) t1.count).toArray
        let at_ (r c : Nat) : Nat := (xs[if t1.layout = 1 then c * t1.rows + r else r * t1.cols + c]?).getD 0
        match planeFmt f with
        | none => []
        | some p => [(t0.gbase, (List.range t0.rows).flatMap fun r => planeRecord f p ((List.range t0.cols).map (at_ r)))] }
  | 0xA5 =>
    let f := e.fmt .f32
    let raw := e.modBit 0
    let size := if dbl then 256 else 128
    { reads := if raw then t0.blocks.map fun b => (t1.gbase + size * (8 * b.1 + b.2), size) else [(t1.gbase, t1.plainBytes f)],
      tasReads := [], mem := fun _ => [],
      tas := fun ds c =>
        let d := get ds 0
        let xs := ((plainElems f d t1.count).map f.elemFmt.decode).toArray
        (t0.blocks.zip (if raw then ds else t0.blocks.map fun _ => [])).foldl (fun (c : Core) bd =>
          let b := bd.1
          c.setTas (if raw then TasBlock.load (blk t0 b) dbl bd.2
            else bfpAdd (tasReset (blk t0 b) dbl) ((List.range 16).map fun k =>
              let j := 16 * b.2 + k
              if j < t0.cols then (xs[b.1 * t0.cols + j]?).getD (.zero false) else .zero false))) c }
  | 0xA6 =>
    { reads := [], tasReads := t1.units tm dbl, tas := fun _ c => c,
      mem := fun _ => t1.blocks.map fun b =>
        (t0.gbase + (if dbl then 256 else 128) * (8 * b.1 + b.2), (c.tasBlock (blk t1 b) dbl).image) }
  | 0xA7 =>
    { reads := [], tasReads := t0.units tm dbl, mem := fun _ => [],
      tas := fun _ c => t0.blocks.foldl (fun (c : Core) b => c.setTas ((c.tasBlock (blk t0 b) dbl).shift (signed 32 o.job.a.toNat))) c }
  | 0xA8 =>
    { reads := [], tasReads := [], mem := fun _ => [],
      tas := fun _ c => t0.blocks.foldl (fun (c : Core) b => c.setTas (tasReset (blk t0 b) dbl)) c }
  | 0xA9 =>
    let f := e.fmt .f32
    let n := t0.plainBytes f
    { reads := if e.modBits 1 0 = 0 then [] else [(t0.gbase, n)], tasReads := t1.units tm dbl,
      mem := fun ds =>
        let ws := ((plainElems f (get ds 0) t0.count).map f.elemFmt.decode).toArray
        [(t0.gbase, leBytes n (packElems f.elemBits ((List.range t0.count).map fun k =>
          let i := k / t0.cols
          let j := k % t0.cols
          drainElem o f i j ((ws[k]?).getD (.zero false)) ((c.tasBlock (blk t1 (i, j / 16)) dbl).value (j % 16)))))],
      tas := fun _ c => if e.modBit 3 then t1.blocks.foldl (fun (c : Core) b => c.setTas (tasReset (blk t1 b) dbl)) c else c }
  | _ =>
    { reads := [], tasReads := t1.units tm dbl ++ (if e.modBit 0 then t0.units tm dbl else []), mem := fun _ => [],
      tas := fun _ c => t0.blocks.foldl (fun (c : Core) b =>
        let src := c.tasBlock (blk t1 b) dbl
        c.setTas (if e.modBit 0 then bfpAdd (c.tasBlock (blk t0 b) dbl) ((List.range 16).map src.value) else { src with idx := blk t0 b })) c }

/-- The oldest entry of a core's queue, if it runs on the tile path. -/
def State.tileHead (s : State) (b : Nat) (st : ArrayState) : Option ArrayOp :=
  match s.arrays.find? fun a => a.span.any fun m => m.1 == b with
  | some o => if !o.isMma && o.st == st then some o else none
  | none => none

/-- Would rollback do it twice (R254)? -/
def ArrayOp.notAgain (o : ArrayOp) : Bool :=
  match o.job.opc with
  | 0xA7 => true
  | 0xA9 => o.job.enc.modBits 1 0 != 0 || o.job.enc.modBit 3
  | 0xAA => o.job.enc.modBit 0
  | _ => false

/-- TILE_PATH_START (R251): the oldest entry of the queue, every earlier one having ended. -/
def execTilePathStart (core : Nat) (s : State) : Answer :=
  .next (match s.tileHead core .queued with
    | none => s
    | some o =>
      if !s.storesSeen o then s
      else
        let s := if o.notAgain then s.begunWriting o else s
        s.modArray o.id fun o => { o with st := .running })

/-- TILE_PATH_END (R253): the work is done and the handle completes; it waits for absent lines and revokes. -/
def execTilePathEnd (core : Nat) (s : State) : Answer :=
  .next (match s.tileHead core .running with
    | none => s
    | some o => match s.opTeam o with
      | none => (s.endArray o outcomeAbandoned 0).wakeAll
      | some (b, tm, dbl) =>
        let w := o.work tm dbl (s.core b)
        match s.opReads o w.reads with
        | (_, .wait _) => s
        | (s, .fault _) => (s.endArray o outcomeAbandoned 0).wakeAll
        | (s, .poison va) => (s.endArray o outcomePoisoned va).wakeAll
        | (s', .ok ds) => match (s.core b).tasBad dbl w.tasReads with
          | some va => (s.endArray o outcomePoisoned va).wakeAll
          | none =>
            let out := w.mem ds
            match s'.opClaims o (out.map fun r => (r.1, r.2.length)) with
            | (s, false) => s
            | (s, true) =>
              let s := out.foldl (fun (s : State) r => s.opWrite o r.1 r.2) s
              ((s.modCore b (w.tas ds)).endArray o outcomeRetired 0).wakeAll)

end Sys2Proof.Machine
end

