-- ==== Sys2Proof/Machine/Unified.lean ====
section
/-! DEFINITION. Unified pages (17 R355): the MP's leaves, migrations, and the UNIFIED commands (28 R442, R455). A page in host
memory has V = 0 and the host window's address as its OA (log entry 17). -/

namespace Sys2Proof.Machine

/-- The level-5 entry of a guest page, whatever its V: its address and value; none where no level-5 table is reached. -/
def leafSlot (rd : Nat → Nat) (gpa : Nat) : Nat → Nat → Nat → Option (Nat × Nat)
  | 0, _, _ => none
  | fuel + 1, level, table =>
    let addr := table + 8 * ptIndex level gpa
    let e := rd addr
    if level = 5 then some (addr, e)
    else if pteV e && pteT e && !pteMalformed true level e then leafSlot rd gpa fuel (level + 1) (pteOa e)
    else none

/-- The level-5 entry of a page of a tenant partition. -/
def State.pageEntry (s : State) (p gpa : Nat) : Option (Nat × Nat) :=
  if p = 0 then none else leafSlot s.pte gpa 5 1 (s.part p).hroot

/-- The leaf of a guest page, at whatever level it stands, or the level-5 entry. -/
def leafOf (rd : Nat → Nat) (gpa : Nat) : Nat → Nat → Nat → Option Nat
  | 0, _, _ => none
  | fuel + 1, level, table =>
    let e := rd (table + 8 * ptIndex level gpa)
    if level = 5 then some e
    else if pteV e && !pteMalformed true level e then (if pteT e then leafOf rd gpa fuel (level + 1) (pteOa e) else some e)
    else none

/-- The host address behind a unified page. -/
def Partition.backed (x : Partition) (gpa : Nat) : Option Nat := (x.backing.find? fun e => e.1 == gpa).map (·.2)

/-- The host window's address of a bus address (09 R184). -/
def hostPa (bus : Nat) : Nat := 2 ^ 47 + bus % 2 ^ 46

/-- Where the n-th migrated page goes: a page of HBM4 under the partition's key of index 0. -/
def State.migrationPa (s : State) (p : Nat) : Nat :=
  let n := Config.migrationTarget s.fresh
  (((s.part p).keys.headD 0) % 128) * 2 ^ 40 + n % 4 * 2 ^ 38 + n / 4 % 0x3000000 * 4096

/-- Flag bits of a leaf without V and its address. -/
def leafFlags (e : Nat) : Nat := bits e 11 1 * 2

/-- The faults parked on a unified page (R355). -/
def State.pageFaults (s : State) (p page : Nat) : List FaultRec :=
  s.faults.filter fun f => f.part == p && f.ring == none && f.gpa / 4096 == page / 4096
def State.resolveFaults (s : State) (fs : List FaultRec) (code : FaultRec → Option Nat) : State :=
  fs.foldl (fun (s : State) f => s.resolve f (code f)) s

/-- A page brought into HBM4, its leaf made valid and the faults parked on it resolved (R355 steps 2 and 3); V = 0 holds of it
already. -/
def State.pageIn (s : State) (p gpa bus addr e : Nat) : State :=
  let pa := s.migrationPa p
  let s := s.mpPut p pa (memRead s.hostMem bus 4096)
  let s := (s.setPte addr (bits pa 47 12 * 4096 + leafFlags e + 1)).modPart p fun x =>
    { x with backing := (gpa, bus) :: x.backing.filter fun b => b.1 != gpa }
  s.resolveFaults (s.pageFaults p gpa) fun _ => none

/-- Step 1 of a page's way to host memory: V = 0, and the translations are invalidated (R355). -/
def State.pageLeave (s : State) (p gpa addr e : Nat) : State :=
  let q := s.nextId
  ((s.setPte addr (e - e % 2)).askInv p true (some gpa) none false).modPart p fun x => { x with moving := x.moving ++ [(gpa, q)] }

/-- Steps 2 and 3, once the invalidation is DONE: the data are copied, the leaf names the host's page, and the faults parked on it
are resolved (R355). -/
def State.pageOut (s : State) (p gpa bus addr e : Nat) : State :=
  let (s, d, _) := s.l2Read p (pteOa e % 2 ^ 48) 4096
  let s := ({ s with hostMem := memWrite s.hostMem bus d }.setPte addr (hostPa bus / 4096 * 4096 + leafFlags e)).modPart p fun x =>
    { x with moving := x.moving.filter fun m => m.1 != gpa }
  s.resolveFaults (s.pageFaults p gpa) fun _ => none

/-- The page's invalidation is still under way. -/
def Partition.invalidating (x : Partition) (gpa : Nat) : Bool := x.moving.any fun m => m.1 == gpa && x.invs.any fun q => q.id == m.2

/-- UNIFIED_MIGRATION: the MP answers the faults on a unified page (R355): it migrates the page to HBM4 and has them retried,
or cannot place it. A fault that a valid leaf still gives ends as it is. -/
def execUnifiedMigration (p gpa : Nat) (placed : Bool) (s : State) : Answer :=
  .next (
    let page := gpa / 4096 * 4096
    let fs := s.pageFaults p page
    let end_ (s : State) (code : FaultRec → Option Nat) : State := (s.resolveFaults fs code).wakeAll
    if fs.isEmpty || (s.part p).moving.any (fun m => m.1 == page) then s
    else match s.pageEntry p page, (s.part p).backed page with
      | some (addr, e), some bus =>
        if pteV e then end_ s fun f => if placed then none else some f.code
        else if placed then (s.pageIn p page bus addr e).wakeAll
        else end_ s fun _ => some 0x26
      | _, _ => end_ s fun _ => some 0x26)

/-! The commands. -/

/-- Pages of a request, or none where an operand is malformed (R455). -/
def unifiedPages (m : Mailbox) : Option (List Nat) :=
  let gpa := m.arg 8 8
  let n := m.arg 16 8
  if gpa % 4096 ≠ 0 ∨ n = 0 ∨ n % 4096 ≠ 0 ∨ 2 ^ 57 < gpa + n then none
  else some ((List.range (n / 4096)).map fun i => gpa + 4096 * i)

/-- A UNIFIED command with a sub-operation. -/
def State.unified (s : State) (sub : Nat) (zero : List (Nat × Nat)) (f : Nat → Mailbox → List Nat → State) : Answer :=
  if s.mailbox.arg 4 1 ≠ sub then .next s
  else s.mail 11 ((6, 2) :: zero) fun p m => match unifiedPages m with
    | none => s.mailDone codeBadCmd
    | some ps => f p m ps

/-- UNIFIED map: leaves with UNI = 1, writable and executable, whose pages lie in host memory; REFUSED where a page has no
level-5 table or a leaf of the hypervisor's own. -/
def execUnifiedMap (s : State) : Answer :=
  s.unified 0 [(5, 1)] fun p m ps =>
    let bus := m.arg 24 8
    if bus % 4096 ≠ 0 ∨ 2 ^ 46 < bus + m.arg 16 8 then s.mailDone codeBadCmd
    else if !(ps.all fun g => match s.pageEntry p g with
      | some (_, e) => !pteV e && !(pteUni e && ((s.part p).backed g).isSome)
      | none => false) then s.mailDone codeRefused
    else
      let s := ((List.range ps.length).zip ps).foldl (fun (s : State) x => match s.pageEntry p x.2 with
        | some (addr, _) =>
          let b := bus + 4096 * x.1
          (s.setPte addr (hostPa b + 2 ^ 8 + 12)).modPart p fun y => { y with backing := (x.2, b) :: y.backing.filter fun c => c.1 != x.2 }
        | none => s) s
      s.mailDone codeOk

/-- UNIFIED migrate: every page of the range has to be unified. Pages on their way to host memory are first made invalid; the command
goes on once all their invalidations are DONE, and then ends (R355). -/
def execUnifiedMigrate (s : State) : Answer :=
  s.unified 1 [(24, 8)] fun p m ps =>
    let target := m.arg 5 1
    if 1 < target then s.mailDone codeBadCmd
    else if !(ps.all fun g => (s.pageEntry p g).isSome && ((s.part p).backed g).isSome) then s.mailDone codeRefused
    else if target = 1 then
      let s := ps.foldl (fun (s : State) g => match s.pageEntry p g, (s.part p).backed g with
        | some (addr, e), some bus =>
          if pteV e || (s.part p).moving.any (fun m => m.1 == g) then s else { (s.pageIn p g bus addr e) with fresh := s.fresh + 1 }
        | _, _ => s) s
      (s.mailDone codeOk).wakeAll
    else
      let out := ps.filter fun g => ((s.pageEntry p g).map fun e => pteV e.2).getD false
      if !out.isEmpty then
        out.foldl (fun (s : State) g => match s.pageEntry p g with
          | some (addr, e) => s.pageLeave p g addr e
          | none => s) s
      else if ps.any (s.part p).invalidating then s
      else
        let s := ps.foldl (fun (s : State) g => match s.pageEntry p g, (s.part p).backed g with
          | some (addr, e), some bus => if (s.part p).moving.any fun m => m.1 == g then s.pageOut p g bus addr e else s
          | _, _ => s) s
        (s.mailDone codeOk).wakeAll

/-- UNIFIED query: the second-stage leaf of the page, of 4 KiB, 2 MiB or 1 GiB (R455); 0 where it has none. -/
def execUnifiedQuery (s : State) : Answer :=
  s.unified 2 [(5, 1), (24, 8)] fun p _ ps =>
    s.mailReply (leBytes 8 (if p = 0 then 0 else (leafOf s.pte (ps.headD 0) 5 1 (s.part p).hroot).getD 0))

end Sys2Proof.Machine
end

