-- ==== Sys2Proof/Machine/Dispatch.lean ====
section
/-! DEFINITION. The meaning of every instruction of the opcode table: one direct call of its definition. -/

namespace Sys2Proof.Machine

def exec (i : Instr) (s : State) : Host.Outcome State Fault Refusal :=
  match i with
  | .iadd o => Sys2Proof.Machine.execIadd o s
  | .isub o => Sys2Proof.Machine.execIsub o s
  | .iadc o => Sys2Proof.Machine.execIadc o s
  | .isbb o => Sys2Proof.Machine.execIsbb o s
  | .imul o => Sys2Proof.Machine.execImul o s
  | .imulh o => Sys2Proof.Machine.execImulh o s
  | .imad o => Sys2Proof.Machine.execImad o s
  | .idiv o => Sys2Proof.Machine.execIdiv o s
  | .irem o => Sys2Proof.Machine.execIrem o s
  | .imin o => Sys2Proof.Machine.execImin o s
  | .imax o => Sys2Proof.Machine.execImax o s
  | .iabs o => Sys2Proof.Machine.execIabs o s
  | .ineg o => Sys2Proof.Machine.execIneg o s
  | .andL o => Sys2Proof.Machine.execAndL o s
  | .orL o => Sys2Proof.Machine.execOrL o s
  | .xorL o => Sys2Proof.Machine.execXorL o s
  | .andn o => Sys2Proof.Machine.execAndn o s
  | .notL o => Sys2Proof.Machine.execNotL o s
  | .shl o => Sys2Proof.Machine.execShl o s
  | .shr o => Sys2Proof.Machine.execShr o s
  | .sar o => Sys2Proof.Machine.execSar o s
  | .rotl o => Sys2Proof.Machine.execRotl o s
  | .bfx o => Sys2Proof.Machine.execBfx o s
  | .bfi o => Sys2Proof.Machine.execBfi o s
  | .popc o => Sys2Proof.Machine.execPopc o s
  | .clz o => Sys2Proof.Machine.execClz o s
  | .brev o => Sys2Proof.Machine.execBrev o s
  | .sel o => Sys2Proof.Machine.execSel o s
  | .mov o => Sys2Proof.Machine.execMov o s
  | .movl o => Sys2Proof.Machine.execMovl o s
  | .lea o => Sys2Proof.Machine.execLea o s
  | .icmp o => Sys2Proof.Machine.execIcmp o s
  | .pand o => Sys2Proof.Machine.execPand o s
  | .por o => Sys2Proof.Machine.execPor o s
  | .pxor o => Sys2Proof.Machine.execPxor o s
  | .pnot o => Sys2Proof.Machine.execPnot o s
  | .pmov o => Sys2Proof.Machine.execPmov o s
  | .ppack o => Sys2Proof.Machine.execPpack o s
  | .punpk o => Sys2Proof.Machine.execPunpk o s
  | .fadd o => Sys2Proof.Machine.execFadd o s
  | .fsub o => Sys2Proof.Machine.execFsub o s
  | .fmul o => Sys2Proof.Machine.execFmul o s
  | .ffma o => Sys2Proof.Machine.execFfma o s
  | .fmin o => Sys2Proof.Machine.execFmin o s
  | .fmax o => Sys2Proof.Machine.execFmax o s
  | .fabs o => Sys2Proof.Machine.execFabs o s
  | .fneg o => Sys2Proof.Machine.execFneg o s
  | .fcmp o => Sys2Proof.Machine.execFcmp o s
  | .fclass o => Sys2Proof.Machine.execFclass o s
  | .fdiv o => Sys2Proof.Machine.execFdiv o s
  | .frcp o => Sys2Proof.Machine.execFrcp o s
  | .fsqrt o => Sys2Proof.Machine.execFsqrt o s
  | .frsq o => Sys2Proof.Machine.execFrsq o s
  | .fexp2 o => Sys2Proof.Machine.execFexp2 o s
  | .flog2 o => Sys2Proof.Machine.execFlog2 o s
  | .fscalb o => Sys2Proof.Machine.execFscalb o s
  | .cvt o => Sys2Proof.Machine.execCvt o s
  | .cvts o => Sys2Proof.Machine.execCvts o s
  | .pack o => Sys2Proof.Machine.execPack o s
  | .unpk o => Sys2Proof.Machine.execUnpk o s
  | .qnt o => Sys2Proof.Machine.execQnt o s
  | .deq o => Sys2Proof.Machine.execDeq o s
  | .dot2 o => Sys2Proof.Machine.execDot2 o s
  | .dot4 o => Sys2Proof.Machine.execDot4 o s
  | .dot8 o => Sys2Proof.Machine.execDot8 o s
  | .rng o => Sys2Proof.Machine.execRng o s
  | .rngu o => Sys2Proof.Machine.execRngu o s
  | .rmask o => Sys2Proof.Machine.execRmask o s
  | .vote o => Sys2Proof.Machine.execVote o s
  | .shfl o => Sys2Proof.Machine.execShfl o s
  | .redl o => Sys2Proof.Machine.execRedl o s
  | .scanl o => Sys2Proof.Machine.execScanl o s
  | .elect o => Sys2Proof.Machine.execElect o s
  | .matchL o => Sys2Proof.Machine.execMatchL o s
  | .bra o => Sys2Proof.Machine.execBra o s
  | .brx o => Sys2Proof.Machine.execBrx o s
  | .call o => Sys2Proof.Machine.execCall o s
  | .ret o => Sys2Proof.Machine.execRet o s
  | .join o => Sys2Proof.Machine.execJoin o s
  | .exit o => Sys2Proof.Machine.execExit o s
  | .yield o => Sys2Proof.Machine.execYield o s
  | .trap o => Sys2Proof.Machine.execTrap o s
  | .nop o => Sys2Proof.Machine.execNop o s
  | .regionExact o => Sys2Proof.Machine.execRegionExact o s
  | .regionChecked o => Sys2Proof.Machine.execRegionChecked o s
  | .regionTolerant o => Sys2Proof.Machine.execRegionTolerant o s
  | .idem o => Sys2Proof.Machine.execIdem o s
  | .idemEnd o => Sys2Proof.Machine.execIdemEnd o s
  | .waith o => Sys2Proof.Machine.execWaith o s
  | .testh o => Sys2Proof.Machine.execTesth o s
  | .canch o => Sys2Proof.Machine.execCanch o s
  | .htag o => Sys2Proof.Machine.execHtag o s
  | .ld o => Sys2Proof.Machine.execLd o s
  | .st o => Sys2Proof.Machine.execSt o s
  | .atom o => Sys2Proof.Machine.execAtom o s
  | .red o => Sys2Proof.Machine.execRed o s
  | .fenceAcq o => Sys2Proof.Machine.execFenceAcq o s
  | .fenceRel o => Sys2Proof.Machine.execFenceRel o s
  | .fenceAr o => Sys2Proof.Machine.execFenceAr o s
  | .stt o => Sys2Proof.Machine.execStt o s
  | .presTest o => Sys2Proof.Machine.execPresTest o s
  | .presWait o => Sys2Proof.Machine.execPresWait o s
  | .presClear o => Sys2Proof.Machine.execPresClear o s
  | .presSet o => Sys2Proof.Machine.execPresSet o s
  | .pref o => Sys2Proof.Machine.execPref o s
  | .cinv o => Sys2Proof.Machine.execCinv o s
  | .cinvAll o => Sys2Proof.Machine.execCinvAll o s
  | .bcfgSp o => Sys2Proof.Machine.execBcfgSp o s
  | .bcfgCache o => Sys2Proof.Machine.execBcfgCache o s
  | .bcfgFifo o => Sys2Proof.Machine.execBcfgFifo o s
  | .qpush o => Sys2Proof.Machine.execQpush o s
  | .qpop o => Sys2Proof.Machine.execQpop o s
  | .mma o => Sys2Proof.Machine.execMma o s
  | .mmas o => Sys2Proof.Machine.execMmas o s
  | .qblk o => Sys2Proof.Machine.execQblk o s
  | .rqnt o => Sys2Proof.Machine.execRqnt o s
  | .bpln o => Sys2Proof.Machine.execBpln o s
  | .tld o => Sys2Proof.Machine.execTld o s
  | .tst o => Sys2Proof.Machine.execTst o s
  | .tscl o => Sys2Proof.Machine.execTscl o s
  | .tzero o => Sys2Proof.Machine.execTzero o s
  | .tdrn o => Sys2Proof.Machine.execTdrn o s
  | .tmove o => Sys2Proof.Machine.execTmove o s
  | .tchk o => Sys2Proof.Machine.execTchk o s
  | .cpyk o => Sys2Proof.Machine.execCpyk o s
  | .cpyrel o => Sys2Proof.Machine.execCpyrel o s
  | .cpyq o => Sys2Proof.Machine.execCpyq o s
  | .pkl o => Sys2Proof.Machine.execPkl o s
  | .pklb o => Sys2Proof.Machine.execPklb o s
  | .nmc o => Sys2Proof.Machine.execNmc o s
  | .nmf o => Sys2Proof.Machine.execNmf o s
  | .coll o => Sys2Proof.Machine.execColl o s
  | .spawn o => Sys2Proof.Machine.execSpawn o s
  | .bari o => Sys2Proof.Machine.execBari o s
  | .bara o => Sys2Proof.Machine.execBara o s
  | .barx o => Sys2Proof.Machine.execBarx o s
  | .barw o => Sys2Proof.Machine.execBarw o s
  | .bart o => Sys2Proof.Machine.execBart o s
  | .depc o => Sys2Proof.Machine.execDepc o s
  | .clk o => Sys2Proof.Machine.execClk o s
  | .sread o => Sys2Proof.Machine.execSread o s
  | .swrite o => Sys2Proof.Machine.execSwrite o s
  | .rett o => Sys2Proof.Machine.execRett o s
  | .rettKill o => Sys2Proof.Machine.execRettKill o s
  | .tlbiVa o => Sys2Proof.Machine.execTlbiVa o s
  | .tlbiAll o => Sys2Proof.Machine.execTlbiAll o s
  | .tlbiGpa o => Sys2Proof.Machine.execTlbiGpa o s
  | .tlbiGall o => Sys2Proof.Machine.execTlbiGall o s
  | .dhalt o => Sys2Proof.Machine.execDhalt o s
  | .dstep o => Sys2Proof.Machine.execDstep o s
  | .drun o => Sys2Proof.Machine.execDrun o s
  | .dbp o => Sys2Proof.Machine.execDbp o s
  | .dbpClr o => Sys2Proof.Machine.execDbpClr o s
  | .dwp o => Sys2Proof.Machine.execDwp o s
  | .dwpClr o => Sys2Proof.Machine.execDwpClr o s
  | .dread o => Sys2Proof.Machine.execDread o s
  | .dwrite o => Sys2Proof.Machine.execDwrite o s
  | .dmbxSend o => Sys2Proof.Machine.execDmbxSend o s
  | .dmbxRecv o => Sys2Proof.Machine.execDmbxRecv o s
  | .bkpt o => Sys2Proof.Machine.execBkpt o s
  | .illegalOpcode opc => Sys2Proof.Machine.execIllegalOpcode opc s
  | .instructionFetchFault va => Sys2Proof.Machine.execInstructionFetchFault va s
  | .evacuateComplete p => Sys2Proof.Machine.execEvacuateComplete p s
  | .restoreComplete p cores => Sys2Proof.Machine.execRestoreComplete p cores s
  | .debugRecordAppend core => Sys2Proof.Machine.execDebugRecordAppend core s
  | .queueConfigWrite fn w => Sys2Proof.Machine.execQueueConfigWrite fn w s
  | .queueEnable fn v => Sys2Proof.Machine.execQueueEnable fn v s
  | .queueDisable fn v => Sys2Proof.Machine.execQueueDisable fn v s
  | .tailDoorbell fn v => Sys2Proof.Machine.execTailDoorbell fn v s
  | .entryFetch fn => Sys2Proof.Machine.execEntryFetch fn s
  | .graphLoad fn => Sys2Proof.Machine.execGraphLoad fn s
  | .graphRun fn => Sys2Proof.Machine.execGraphRun fn s
  | .hostCopy fn => Sys2Proof.Machine.execHostCopy fn s
  | .syncSignal fn => Sys2Proof.Machine.execSyncSignal fn s
  | .syncWait fn => Sys2Proof.Machine.execSyncWait fn s
  | .syncWaitSatisfied fn => Sys2Proof.Machine.execSyncWaitSatisfied fn s
  | .commandCompletion fn => Sys2Proof.Machine.execCommandCompletion fn s
  | .runEnd p => Sys2Proof.Machine.execRunEnd p s
  | .chunkAppend p urgent => Sys2Proof.Machine.execChunkAppend p urgent s
  | .dispatchPull die p urgent => Sys2Proof.Machine.execDispatchPull die p urgent s
  | .teamRetire core team => Sys2Proof.Machine.execTeamRetire core team s
  | .launchComplete p launch => Sys2Proof.Machine.execLaunchComplete p launch s
  | .pcTableSort core slot => Sys2Proof.Machine.execPcTableSort core slot s
  | .throttleScoreDecay core => Sys2Proof.Machine.execThrottleScoreDecay core s
  | .longLatencyFill core id => Sys2Proof.Machine.execLongLatencyFill core id s
  | .rendezvousDeadlock core slot => Sys2Proof.Machine.execRendezvousDeadlock core slot s
  | .storeRegistration core id => Sys2Proof.Machine.execStoreRegistration core id s
  | .revoke core line => Sys2Proof.Machine.execRevoke core line s
  | .bankModeChange core bank => Sys2Proof.Machine.execBankModeChange core bank s
  | .mmaStart id => Sys2Proof.Machine.execMmaStart id s
  | .mmaRailReady id => Sys2Proof.Machine.execMmaRailReady id s
  | .mmaOperandsDelivered id => Sys2Proof.Machine.execMmaOperandsDelivered id s
  | .mmaLastStep id => Sys2Proof.Machine.execMmaLastStep id s
  | .mmaCheckDone id => Sys2Proof.Machine.execMmaCheckDone id s
  | .mmaCorrectDone id => Sys2Proof.Machine.execMmaCorrectDone id s
  | .mmaAddDone id => Sys2Proof.Machine.execMmaAddDone id s
  | .railTunerStep core => Sys2Proof.Machine.execRailTunerStep core s
  | .logRailReturn core => Sys2Proof.Machine.execLogRailReturn core s
  | .tilePathStart core => Sys2Proof.Machine.execTilePathStart core s
  | .tilePathEnd core => Sys2Proof.Machine.execTilePathEnd core s
  | .copyWrite core id dest n => Sys2Proof.Machine.execCopyWrite core id dest n s
  | .copyComplete core id => Sys2Proof.Machine.execCopyComplete core id s
  | .pklComplete core id n => Sys2Proof.Machine.execPklComplete core id n s
  | .pklbComplete core id n => Sys2Proof.Machine.execPklbComplete core id n s
  | .nmAdd core id => Sys2Proof.Machine.execNmAdd core id s
  | .nmSgd core id => Sys2Proof.Machine.execNmSgd core id s
  | .nmScale core id => Sys2Proof.Machine.execNmScale core id s
  | .nmZero core id => Sys2Proof.Machine.execNmZero core id s
  | .nmGranule core id g => Sys2Proof.Machine.execNmGranule core id g s
  | .nmcComplete core id => Sys2Proof.Machine.execNmcComplete core id s
  | .allreduce core id peers => Sys2Proof.Machine.execAllreduce core id peers s
  | .reduceScatter core id peers => Sys2Proof.Machine.execReduceScatter core id peers s
  | .allgather core id peers => Sys2Proof.Machine.execAllgather core id peers s
  | .broadcast core id peers => Sys2Proof.Machine.execBroadcast core id peers s
  | .collChunk core id chunk good => Sys2Proof.Machine.execCollChunk core id chunk good s
  | .collComplete core id => Sys2Proof.Machine.execCollComplete core id s
  | .barwRecheck core slot lane => Sys2Proof.Machine.execBarwRecheck core slot lane s
  | .walkStart core miss => Sys2Proof.Machine.execWalkStart core miss s
  | .walkRead die id cached => Sys2Proof.Machine.execWalkRead die id cached s
  | .walkUpdate die id => Sys2Proof.Machine.execWalkUpdate die id s
  | .resumeRetry p ring rid => Sys2Proof.Machine.execResumeRetry p ring rid s
  | .resumeFatal p ring rid => Sys2Proof.Machine.execResumeFatal p ring rid s
  | .ringHeadWrite p ring v => Sys2Proof.Machine.execRingHeadWrite p ring v s
  | .invalidatePage p stage2 => Sys2Proof.Machine.execInvalidatePage p stage2 s
  | .invalidateStage p stage2 => Sys2Proof.Machine.execInvalidateStage p stage2 s
  | .invalidationSend p => Sys2Proof.Machine.execInvalidationSend p s
  | .invalidationAck p target => Sys2Proof.Machine.execInvalidationAck p target s
  | .invalidationTimeout p => Sys2Proof.Machine.execInvalidationTimeout p s
  | .unifiedMigration p gpa placed => Sys2Proof.Machine.execUnifiedMigration p gpa placed s
  | .ptWrite => Sys2Proof.Machine.execPtWrite s
  | .ptRead => Sys2Proof.Machine.execPtRead s
  | .suspend => Sys2Proof.Machine.execSuspend s
  | .suspendHalted p => Sys2Proof.Machine.execSuspendHalted p s
  | .contextSaved p => Sys2Proof.Machine.execContextSaved p s
  | .evacuate => Sys2Proof.Machine.execEvacuate s
  | .restore => Sys2Proof.Machine.execRestore s
  | .resume => Sys2Proof.Machine.execResume s
  | .reset => Sys2Proof.Machine.execReset s
  | .partitionResetComplete p => Sys2Proof.Machine.execPartitionResetComplete p s
  | .coreReset => Sys2Proof.Machine.execCoreReset s
  | .limit => Sys2Proof.Machine.execLimit s
  | .calendar => Sys2Proof.Machine.execCalendar s
  | .unifiedMap => Sys2Proof.Machine.execUnifiedMap s
  | .unifiedMigrate => Sys2Proof.Machine.execUnifiedMigrate s
  | .unifiedQuery => Sys2Proof.Machine.execUnifiedQuery s
  | .vfFlr p => Sys2Proof.Machine.execVfFlr p s
  | .pfFlr => Sys2Proof.Machine.execPfFlr s
  | .packageReset boot sram => Sys2Proof.Machine.execPackageReset boot sram s
  | .lowPowerWake => Sys2Proof.Machine.execLowPowerWake s
  | .powerArbiterInterval currents => Sys2Proof.Machine.execPowerArbiterInterval currents s
  | .calendarTakeEffect cls => Sys2Proof.Machine.execCalendarTakeEffect cls s
  | .telemetryClear p => Sys2Proof.Machine.execTelemetryClear p s
  | .dbgenWrite p v => Sys2Proof.Machine.execDbgenWrite p v s
  | .h2dWrite p v => Sys2Proof.Machine.execH2dWrite p v s
  | .h2dStageWrite p v => Sys2Proof.Machine.execH2dStageWrite p v s
  | .h2dHighWrite p v => Sys2Proof.Machine.execH2dHighWrite p v s
  | .d2hRead p => Sys2Proof.Machine.execD2hRead p s
  | .d2hHighRead p => Sys2Proof.Machine.execD2hHighRead p s
  | .keySet p k key => Sys2Proof.Machine.execKeySet p k key s
  | .keyClear p k => Sys2Proof.Machine.execKeyClear p k s
  | .spdmMeasurement fn block => Sys2Proof.Machine.execSpdmMeasurement fn block s
  | .tdispStop p => Sys2Proof.Machine.execTdispStop p s
  | .ualinkInbound req => Sys2Proof.Machine.execUalinkInbound req s
  | .ualinkCompletion core id ok data => Sys2Proof.Machine.execUalinkCompletion core id ok data s
  | .registerWrite fn off size v => Sys2Proof.Machine.execRegisterWrite fn off size v s
  | .uncorrectableError e => Sys2Proof.Machine.execUncorrectableError e s
  | .firmwareUpdate => Sys2Proof.Machine.execFirmwareUpdate s
  | .tdiConfigLocked p => Sys2Proof.Machine.execTdiConfigLocked p s
  | .tdiRun p => Sys2Proof.Machine.execTdiRun p s
  | .powerGating core => Sys2Proof.Machine.execPowerGating core s
  | .lowPowerEntry => Sys2Proof.Machine.execLowPowerEntry s

end Sys2Proof.Machine
end

