-- ==== Sys2Proof/Machine/Schedule.lean ====
section
/-! DEFINITION. The moves of the machine outside an instruction: the clock, a program placed for its first fetch, and
what follows an instruction; and the device's own schedule where the agenda names no move (log entry 9). -/

namespace Sys2Proof.Machine

/-! Slots served (14 R282 to R284, 18 R371; log entry 35). -/

/-- A partition has requests under way at the units of a calendar class: at routers, links, L2 and HBM4 for whatever works; at the Geyser
units; at the copy engines' fabric ports; at the MP and the command processor. -/
def State.requests (s : State) (p cls : Nat) : Bool :=
  let cs := (s.coresOf p).map s.core
  let x := s.part p
  let engine (f : EngKind → Bool) : Bool := cs.any fun c => c.engs.any fun o => f o.kind
  let copies := cs.any fun c => !c.copies.isEmpty
  let walks := s.walks.any fun w => w.miss.part == p
  let served := x.cmd.isSome || !x.launches.isEmpty || !x.invs.isEmpty || s.faults.any (fun f => f.part == p) ||
    (s.mailbox.busy && s.mailbox.arg 1 1 == p)
  if cls ≤ 3 then cs.any (fun c => !c.teams.isEmpty || c.debug || !c.pend.isEmpty || !c.misses.isEmpty) || engine (fun _ => true) || copies || walks || served
  else if cls = 4 then engine fun k => k == .pkl || k == .pklb
  else if cls = 5 then copies || engine (· == .coll)
  else served

/-- Slots of a class, of the `n` that follow cycle `t`, whose owner passes a test. -/
def State.slotsOf (s : State) (cls t n : Nat) (f : Nat → Bool) : Nat :=
  if h : cls < 7 then ((List.range n).filter fun i => ((s.calendar[cls])[(t + i) % 256]?).any f).length else 0

/-- Slots of a class in which a partition is served in the next `n` cycles: of its own, and of those that others lend it. How many is
free within what the calendar, the flags and its requests allow. -/
def State.served (s : State) (p cls n : Nat) : Nat × Nat :=
  if s.requests p cls then
    let flag (q i : Nat) : Bool := bit (s.part q).flags i
    (Config.slotCount p cls s.fresh % (s.slotsOf cls s.cycle n (· == p) + 1),
     if flag p 1 then Config.slotCount p (cls + 7) s.fresh % (s.slotsOf cls s.cycle n (fun q => q != p && decide (q ≤ 8) && flag q 0) + 1) else 0)
  else (0, 0)

/-- The slot counters of a partition after `n` cycles. -/
def State.slotsAfter (s : State) (p n : Nat) : Vector Nat 8 :=
  let l := (List.range 7).map fun c => s.served p c n
  (s.part p).slots.mapFinIdx fun i v _ =>
    min (2 ^ 64 - 1) (v + if i < 7 then ((l[i]?).map fun a => a.1 + a.2).getD 0 else (l.map (·.2)).sum)

/-- A step's passage of time: at least one core cycle (log entry 10), and the slots served in it. -/
def State.tick (s : State) : State :=
  let n := 1 + Config.elapsed s.fresh
  { s with cycle := (s.cycle + n) % 2 ^ 64, fresh := s.fresh + 1, cur := none,
           parts := s.parts.mapFinIdx fun p x _ => { x with slots := s.slotsAfter p n } }

/-- An instruction's answer, the bundle being done with: it may have retired, and other crews go on. -/
def settled (a : Answer) : Answer :=
  match a with
  | .next s => .next { s.countRetired with cur := none }.regroup
  | .fault f => .fault f
  | .refused r => .refused r

/-! The device's own moves: those that work at hand may call for. One that cannot act yet changes nothing. -/

/-- The move of an access or producer under way. -/
def Pend.move (b : Nat) (p : Pend) : Instr := match p.kind with
  | .store .. => .storeRegistration b p.id
  | .atoms .. => if p.returns then .longLatencyFill b p.id else .storeRegistration b p.id
  | _ => .longLatencyFill b p.id

def CopyOp.moves (b : Nat) (o : CopyOp) : List Instr :=
  (List.range o.dests.length).map (fun d => .copyWrite b o.id d 1) ++ [.copyComplete b o.id]

def EngOp.moves (b : Nat) (o : EngOp) : List Instr := match o.kind with
  | .pkl => [.pklComplete b o.id 1]
  | .pklb => [.pklbComplete b o.id 1]
  | .nmc =>
    let n := NmBlock.of o.desc
    let g := (List.range n.granules).filter fun g => !o.done.contains g && !o.skip.contains g
    (match n.op with
      | 1 => .nmAdd b o.id
      | 2 => .nmSgd b o.id
      | 3 => .nmScale b o.id
      | _ => .nmZero b o.id) :: (g.take 1).map (fun g => .nmGranule b o.id g) ++ [.nmcComplete b o.id]
  | .coll => [.collChunk b o.id o.done.length true, .collComplete b o.id]

/-- The moves of a core. -/
def State.coreMoves (s : State) (b : Nat) : List Instr :=
  let c := s.core b
  c.pend.map (Pend.move b) ++ ((List.range 48).filter fun k => (c.bank k).change.isSome).map (fun k => .bankModeChange b k) ++
  (List.range c.misses.length).map (fun i => .walkStart b i) ++ c.copies.flatMap (CopyOp.moves b) ++ c.engs.flatMap (EngOp.moves b) ++
  c.teams.map (fun t => .teamRetire b t.id) ++
  ((List.range 64).filter fun sl => match s.crew b sl with
    | some c => !c.xl.isEmpty
    | none => false).map (fun sl => .rendezvousDeadlock b sl) ++
  (List.range 64).flatMap (fun sl => match s.crew b sl with
    | some c => (c.live.filter fun l => match (c.thread l).st with
      | .waitBar .. => true
      | _ => false).map fun l => .barwRecheck b sl l
    | none => []) ++
  ((List.range 64).filter fun sl => match s.crew b sl with
    | some c => c.order != c.sorted
    | none => false).map (fun sl => .pcTableSort b sl) ++ (if c.score = 0 then [] else [.throttleScoreDecay b]) ++
  (if c.eventsWaiting.isEmpty then [] else [.debugRecordAppend b]) ++ (if c.rail.raised.isSome then [.logRailReturn b] else [])

/-- The move of an array entry (12 R239). -/
def ArrayOp.moves (a : ArrayOp) : List Instr :=
  if a.job.opc = 0xA0 ∨ a.job.opc = 0xA1 then
    match a.st with
    | .queued | .running => [.mmaStart a.id]
    | .rail => [.mmaRailReady a.id]
    | .fetch => [.mmaOperandsDelivered a.id]
    | .compute => [.mmaLastStep a.id]
    | .check => [.mmaCheckDone a.id]
    | .correct => [.mmaCorrectDone a.id]
    | .add => [.mmaAddDone a.id]
  else (a.span.take 1).map fun m => if a.st = .queued then .tilePathStart m.1 else .tilePathEnd m.1

def Walk.move (w : Walk) : List Instr := match w.st with
  | .read => [.walkRead w.die w.id false]
  | .update .. => [.walkUpdate w.die w.id]
  | .parked .. => []

/-- The command at hand (14 R270). -/
def Command.moves (p : Nat) (c : Command) : List Instr :=
  if c.result.isSome then [.commandCompletion p]
  else match c.opc with
    | 1 => [.graphLoad p]
    | 2 => [.graphRun p, .runEnd p]
    | 3 => [.hostCopy p]
    | _ => [.syncSignal p, .syncWait p, .syncWaitSatisfied p]

/-- The moves for a partition. -/
def State.partMoves (s : State) (p : Nat) : List Instr :=
  let x := s.part p
  [.chunkAppend p false, .chunkAppend p true] ++
  (if x.workq.isEmpty then [] else (List.range 4).map fun d => .dispatchPull d p false) ++
  (if x.urgentq.isEmpty then [] else (List.range 4).map fun d => .dispatchPull d p true) ++
  x.launches.map (fun l => .launchComplete p l.id) ++
  (match x.cmd with
    | some c => c.moves p
    | none => [.entryFetch p]) ++
  (match x.invs with
    | q :: _ => .invalidationSend p :: (q.left.take 1).map fun t => .invalidationAck p t
    | [] => []) ++
  (match x.phase with
    | .halting => [.suspendHalted p]
    | .saving => [.contextSaved p]
    | .evacuating => [.evacuateComplete p]
    | .restoring => [.restoreComplete p (x.image.map Image.core)]
    | _ => []) ++
  (if x.st = 3 then [.partitionResetComplete p] else []) ++
  ((s.faults.filter fun f => f.part == p && f.ring.isNone).take 1).map fun f => .unifiedMigration p f.gpa true

/-- The mailbox command at hand. -/
def Mailbox.moves (m : Mailbox) : List Instr :=
  if !m.busy then []
  else match m.arg 0 1 with
    | 1 => [.ptWrite] | 2 => [.ptRead] | 3 => [.suspend] | 4 => [.evacuate] | 5 => [.restore] | 6 => [.resume] | 7 => [.reset]
    | 8 => [.coreReset] | 9 => [.limit] | 10 => [.calendar]
    | _ => [.unifiedMap, .unifiedMigrate, .unifiedQuery]

def State.moves (s : State) : List Instr :=
  s.mailbox.moves ++ ((List.range 160).find? fun b => (s.core b).quarantined).toList.map (fun _ => .coreReset) ++ s.revokes.map (fun r => .revoke r.1 r.2) ++ s.walks.flatMap Walk.move ++ s.arrays.flatMap ArrayOp.moves ++
  (List.range 9).flatMap s.partMoves ++ (List.range 160).flatMap s.coreMoves

/-- The device's next move where the agenda is empty: a step of the boot; crews and its own moves by turns, each in rotation. -/
def State.ownMove (s : State) : Option Act :=
  if s.boot < 3 then some .boot else
  let ms := s.moves
  let own : Option Act := (ms[s.fresh / 2 % (ms.length + 1)]?).map .event
  let crew : Option Act := s.nextCrew.map fun c => .dual c.1 c.2
  if s.fresh % 2 = 0 then crew.or own else own.or crew

/-- The moves a package in its low-power state takes (01 R20). -/
def wakes : Instr → Bool
  | .lowPowerWake => true
  | .packageReset .. => true
  | _ => false

/-! A program's first instruction (log entry 23). -/

/-- The virtual and physical address of the code placed by `State.placeProgram`. -/
def programAt : Nat := 0x10000

/-- The launch that a placed program runs as: one team of one thread, one scratchpad bank. -/
def programLaunch (id : Nat) (code : List Host.Cell) : Launch :=
  { id, part := 0, task := 0,
    hdr := { entry := programAt, widths := [0, 0, 0, 0, 0, 0], exts := [1, 1, 1, 1, 1, 1], teamCrews := 1, bkSp := 1 },
    total := 1, entryVa := programAt, patch := 0, stackBase := 0, stackSize := 0, coreCnt := 160, code,
    codeKeys := [], codeOld := [], started := true, unplaceable := false, retired := 0, killed := [], claimed := [], next := 1 }

/-- Its crew: thread 0 at the code's address, every other lane exited before its first issue (02 R31). -/
def programCrew (team cycle : Nat) : Crew :=
  { team := some team, lastSlot := cycle,
    threads := Vector.ofFn fun l => { pc := BitVec.ofNat 64 programAt, st := if l.val = 0 then .runnable else .exited } }

/-- Bytes placed where the next step fetches: a launch of partition 0 runs them from crew slot 0 of core 0, the page
is in the core's TLB, and that slot issues next. -/
def State.placeProgram (s : State) (bytes : List Byte) : State :=
  let id := s.nextId
  let mem := memWrite s.mem programAt bytes
  let s := { s with nextId := id + 2, mem, agenda := [.issue 0 0] }
  let s := s.modPart 0 fun p => { p with launches := p.launches ++ [programLaunch id mem] }
  s.modCore 0 fun c =>
    { c with teams := c.teams ++ [{ id := id + 1, part := 0, launch := id, l := 0, slots := [0], banks := [0], units := [] }],
             tlb := { part := 0, va := 0, logSize := 21, pa := 0, gpa := 0, userOk := true, writeOk := true, fetchOk := true } :: c.tlb,
             crews := c.crews.set 0 (some (programCrew (id + 1) s.cycle)) }

end Sys2Proof.Machine
end

