-- ==== Sys2Proof/Machine/Step.lean ====
section
/-! DEFINITION. One step of the machine: the next move of the agenda, or of the device's own schedule where the agenda
is empty. -/

namespace Sys2Proof.Machine

/-- An issue slot: the bundle executes its instruction, or traps at decode (03 R67). -/
def runIssued : Issued → Host.Outcome State Fault Refusal
  | .nothing s => settled (.next { s with cur := none })
  | .run s i => settled (exec i s)
  | .bad s sub bit => settled (.next (s.illegalEncoding sub bit))

/-- An issue slot with its second bundle (16 R319): both issue in the same slot, on disjoint lanes. -/
def runDual (s : State) (b sl : Nat) : Host.Outcome State Fault Refusal :=
  let second := s.secondBundle b sl
  match second with
  | [] => runIssued (s.issue b sl)
  | l :: _ => match runIssued (s.issue b sl second) with
    | .next s' => if s.selectCrew b (sl % 4) = some sl then runIssued (s'.issueSecond b sl second (s.thread b sl l).pc) else .next s'
    | o => o

/-- One move; a package asleep takes only those that wake it, and what the host does (log entry 37). -/
def runAct (s : State) : Act → Host.Outcome State Fault Refusal
  | .issue b sl => if s.asleep then .next s else runIssued (s.issue b sl)
  | .dual b sl => if s.asleep then .next s else runDual s b sl
  | .event i => if s.asleep && !wakes i then .next s else settled (exec i s)
  | .host a d => .next { s with hostMem := memWrite s.hostMem a d }
  | .hostBad k a => .next { s with hostBad := a.toList.map (k, ·) ++ s.hostBad.filter fun e => e.1 != k }
  | .read fn off size => .next (s.pageRead fn off size)
  | .ring p off v => .next (s.ringWrite p off v).wakeAll
  | .vf fn off data => .next (s.vfAccess fn off data).wakeAll
  | .peerCancel b id => if s.asleep then .next s else .next (s.peerCancel b id)
  | .vectorError b l mask => if s.asleep then .next s else .next (s.vectorError b l mask)
  | .boot => .next s.bootStep
  | .stray fn off size v => if s.asleep && v.isSome then .next s else .next (s.strayRequest fn off size v)

/-- The step. -/
def step (s : State) : Host.Outcome State Fault Refusal :=
  let t := s.tick
  match t.agenda with
  | a :: r => runAct { t with agenda := r } a
  | [] => match t.ownMove with
    | some a => runAct t a
    | none => .next t

/-- `s`, its boot READY, with an instruction placed where the next step fetches it (log entry 23). -/
def State.withFetchWord (s : State) (nbits w : Nat) : State := (if s.boot = 3 then s else s.booted).placeProgram (tableBytes nbits w)

end Sys2Proof.Machine
end

