-- ==== Sys2Proof/Safety.lean ====
section
/-! DEFINITION. What the statements speak of: the bundle at hand and the lanes that take part in it, what it means that an
instruction completes on its lanes' own registers, and the canonical form of every memory. -/

namespace Sys2Proof

/-! Values as real numbers (06 R103, R114). -/

/-- The real number ±m × 2^e. -/
noncomputable def realOf (n : Bool) (m : Nat) (e : Int) : ℝ := (if n then -1 else 1) * m * 2 ^ e

/-- The value is this real number. -/
def Val.Is (v : Val) (x : ℝ) : Prop :=
  match v with
  | .zero _ => x = 0
  | .fin n m e => 0 < m ∧ x = realOf n m e
  | _ => False

/-- The value rounds to `p` bits as the real number does, in every mode but SR: it lies on the same side of, or at, each number of at most
p + 2 bits, so of every number of the format and of every middle between two (R108, R114). -/
def Val.RoundsAs (v : Val) (p : Nat) (x : ℝ) : Prop :=
  ∃ y : ℝ, v.Is y ∧ ∀ c j : ℤ, |c| < 2 ^ (p + 2) → |j| ≤ 2000 → (y < c * 2 ^ j ↔ x < c * 2 ^ j) ∧ (y = c * 2 ^ j ↔ x = c * 2 ^ j)

/-- The real number behind a finite value; 0 behind any other. -/
noncomputable def Val.real (v : Val) : ℝ :=
  match v with
  | .fin n m e => realOf n m e
  | _ => 0
/-- Neither NaN nor infinite. -/
def Val.finite (v : Val) : Bool := !v.isNaN && !v.isInf

/-- Truncation toward zero (R124). -/
noncomputable def towardZero (x : ℝ) : ℤ := if 0 ≤ x then ⌊x⌋ else ⌈x⌉

/-- 2^⌊L⌋ (1 + L − ⌊L⌋) (R117). -/
noncomputable def antilogOf (l : ℝ) : ℝ := 2 ^ ⌊l⌋ * (1 + l - ⌊l⌋)

end Sys2Proof

namespace Sys2Proof.Machine

/-- The special results of 07 R146 in a class, with the exception that each signals, and those of NaN operands (06 R111). -/
def SpecialResults (log : Bool) (p : Nat) : Prop :=
  let dz : Exc := { divZero := true }
  let inv : Exc := { invalid := true }
  (∀ (n n' : Bool) (m : Nat) (e : Int), 0 < m →
    let x := Val.fin n m e
    fpDiv log p x (.zero n') = (.inf (n != n'), dz) ∧ fpDiv log p (.zero n') x = (.zero (n' != n), {}) ∧
    fpDiv log p (.zero n) (.zero n') = (Val.defaultNaN, inv) ∧
    fpDiv log p (.inf n) (.inf n') = (Val.defaultNaN, inv) ∧ fpDiv log p (.inf n') x = (.inf (n' != n), {}) ∧
    fpDiv log p x (.inf n') = (.zero (n != n'), {}) ∧ fpDiv log p (.zero n) (.inf n') = (.zero (n != n'), {}) ∧
    fpDiv log p (.inf n) (.zero n') = (.inf (n != n'), {}) ∧
    fpRcp log p (.zero n) = (.inf n, dz) ∧ fpRcp log p (.inf n) = (.zero n, {}) ∧
    fpSqrt log p (.zero n) = (.zero n, {}) ∧ fpSqrt log p (.inf false) = (.inf false, {}) ∧
    (n = true → fpSqrt log p x = (Val.defaultNaN, inv)) ∧ fpSqrt log p (.inf true) = (Val.defaultNaN, inv) ∧
    fpRsq log p (.zero n) = (.inf n, dz) ∧ fpRsq log p (.inf false) = (.zero false, {}) ∧
    (n = true → fpRsq log p x = (Val.defaultNaN, inv)) ∧ fpRsq log p (.inf true) = (Val.defaultNaN, inv) ∧
    fpExp2 log p (.inf true) = (.zero false, {}) ∧ fpExp2 log p (.inf false) = (.inf false, {}) ∧
    fpExp2 log p (.zero n) = (.fin false 1 0, {}) ∧
    fpLog2 log p (.zero n) = (.inf true, dz) ∧ fpLog2 log p (.inf false) = (.inf false, {}) ∧
    fpLog2 log p (.fin false 1 0) = (.zero false, {}) ∧ (n = true → fpLog2 log p x = (Val.defaultNaN, inv)) ∧
    fpLog2 log p (.inf true) = (Val.defaultNaN, inv)) ∧
  (∀ u v : Val,
    (u.isNaN = true → fpDiv log p u v = (u, { invalid := u.isSig || v.isSig })) ∧
    (u.isNaN = false → v.isNaN = true → fpDiv log p u v = (v, { invalid := v.isSig }))) ∧
  ∀ fn ∈ [fpRcp, fpSqrt, fpRsq, fpExp2, fpLog2], ∀ n q y, fn log p (.nan n q y) = (.nan n q y, { invalid := q })

/-! Matrix arithmetic (06 R121 to R126, 12 R229 to R237, 13 R259). -/

/-- A block as the machine keeps one: 16 mantissas that fit their width, 16 special states, an exponent of 16 bits. -/
structure BlockOk (b : TasBlock) : Prop where
  mantissas : b.m.length = 16 ∧ ∀ m ∈ b.m, -(2 ^ (b.w - 1)) ≤ m ∧ m < 2 ^ (b.w - 1)
  states : b.spec.length = 16 ∧ ∀ k ∈ b.spec, k < 4
  exponent : -32768 ≤ b.x ∧ b.x ≤ 32767
  growths : b.grow < 256

/-- Accumulator i of a block that grows by s as values come in (R122). -/
noncomputable def addedAt (b : TasBlock) (vs : List Val) (s i : Nat) : ℤ :=
  ⌊(b.m.getD i 0 : ℝ) / 2 ^ s⌋ + ⌊(vs.getD i (.zero false)).real / 2 ^ (b.x + s)⌋
/-- It lies in the mantissa's range. -/
abbrev Held (b : TasBlock) (vs : List Val) (s i : Nat) : Prop := -(2 ^ (b.w - 1)) ≤ addedAt b vs s i ∧ addedAt b vs s i < 2 ^ (b.w - 1)

/-- `u` is block `b` after bfp_add of the values (R122): it grows by the least s at which every finite accumulator fits, as far as the
exponent goes; mantissas and values go down to the grid; what does not fit then is infinite, and incoming special values merge. -/
def BfpAdd (b : TasBlock) (vs : List Val) (u : TasBlock) : Prop :=
  ∃ g : Nat, u.idx = b.idx ∧ u.dbl = b.dbl ∧ u.x = b.x + g ∧ u.x ≤ 32767 ∧
    ((∀ i < 16, b.spec.getD i 0 = 0 → Held b vs g i) ∨ u.x = 32767) ∧ (∀ s < g, ¬ ∀ i < 16, b.spec.getD i 0 = 0 → Held b vs s i) ∧
    u.grow = (if g = 0 then b.grow else min (b.grow + 1) 255) ∧
    ∀ i < 16, (Held b vs g i → u.m[i]? = some (addedAt b vs g i)) ∧
      let now := if b.spec.getD i 0 = 0 ∧ ¬ Held b vs g i then (if addedAt b vs g i < 0 then 2 else 1) else b.spec.getD i 0
      let come := match vs.getD i (.zero false) with
        | .nan .. => 3
        | .inf n => if n then 2 else 1
        | _ => 0
      u.spec[i]? = some (if come = 0 then now else if now = 0 ∨ now = come then come else 3)

/-- A term of a cell (R124, R126): the product in the class, times 2 to both offsets; an offset that is NaN (none) makes it NaN. -/
def termOf (cls : AccClass) (a b : Val × Option Int) : Val :=
  match a.2, b.2 with
  | some p, some q => match (fpMul cls a.1 b.1).1 with
    | .fin n m e => .fin n m (e + p + q)
    | v => v
  | _, _ => Val.defaultNaN

/-- What a cell holds of its terms: their sum on the grid 2^q, each truncated toward zero, and the special state. -/
def CellIs (q : Int) (ts : List Val) (c : CellSum) : Prop :=
  c.p = (ts.map fun v => towardZero (v.real / 2 ^ q)).sum ∧
  c.spec = if ts.any Val.isNaN || (ts.contains (.inf false) && ts.contains (.inf true)) then 3
    else if ts.contains (.inf false) then 1 else if ts.contains (.inf true) then 2 else 0

/-- The offset at a byte of a plane, as its power of two, or none where it is NaN; without a plane it is 0 (R105, R124). -/
def offsetAt (plane : Option (List Byte)) (i : Nat) : Option Int :=
  match plane with
  | none => some 0
  | some l => if l.getD i 127 = 255 then none else some ((l.getD i 127).toNat - 127)

/-- The greatest number with a property, or 0 where there is none. -/
def GreatestOrZero (p : Int → Prop) (m : Int) : Prop := (p m ∧ ∀ x, p x → x ≤ m) ∨ (m = 0 ∧ ∀ x, ¬ p x)

/-- The bits of a record for a row of codes (R229): the planes, column j at bit j mod 8 of byte j / 8, each padded with zeros to 128 bits;
then the log words, normalised fraction and exponent, zero for what has none. -/
def RecordIs (t : Tag) (f : PlaneFmt) (row : List Nat) (r : List Byte) : Prop :=
  let ct := row.length
  let w := (ct + 127) / 128 * 16
  let bitAt (k j : Nat) : Bool := (r.getD (k * w + j / 8) 0).toNat.testBit (j % 8)
  let base := w * (1 + f.ep + f.sp)
  let words := leNat (r.drop base)
  r.length = base + (ct * f.l + 127) / 128 * 16 ∧ words < 2 ^ (ct * f.l) ∧
  (∀ k < 1 + f.ep + f.sp, ∀ j, ct ≤ j → j < 8 * w → bitAt k j = false) ∧
  ∀ j x, row[j]? = some x →
    (match t.elemFmt with
      | .float g => bitAt 0 j = x.testBit (g.width - 1) ∧ (∀ i < f.ep, bitAt (1 + i) j = x.testBit (g.width - 2 - i)) ∧
        bitAt (1 + f.ep) j = (bits x (g.width - 2) (g.p - 1) != 0) ∧ ∀ i, 0 < i → i < f.sp → bitAt (1 + f.ep + i) j = x.testBit (f.sp - 1 - i)
      | .int s w => bitAt 0 j = decide (intOf s w x < 0) ∧ ∀ i < f.sp, bitAt (1 + i) j = (intOf s w x).natAbs.testBit (f.sp - 1 - i)
      | _ => True) ∧
    let word := elem f.l words j
    match t.elemFmt.decode x with
    | .fin n m e => word < 2 ^ (f.sp - 1 + f.we) ∧
      realOf n (2 ^ (f.sp - 1) + word % 2 ^ (f.sp - 1)) (signed f.we (word / 2 ^ (f.sp - 1)) - (f.sp - 1 : Nat)) = realOf n m e
    | _ => word = 0

/-- The block rule of R259: the offset and the codes of a block of values under the scale S. -/
def Quantises (f : Tag) (rm : Rm) (s : Val) (xs : List Val) (r : Nat × List Nat) : Prop :=
  let ok : Prop := (∃ m e, 0 < m ∧ s = .fin false m e) ∧ ∀ x ∈ xs, x.finite = true
  (¬ ok → r = (255, xs.map fun _ => 0)) ∧
  (ok → ∃ e : Int,
    ((∀ x ∈ xs, x.real = 0) → e = 0) ∧
    (∀ x ∈ xs, x.real ≠ 0 → (∀ y ∈ xs, |y.real| ≤ |x.real|) → e = ⌊Real.logb 2 (|x.real| / s.real)⌋ - match f with
      | .e4m3x4 => 8
      | .e5m2x4 => 15
      | .e2m1x8 => 2
      | _ => 6) ∧
    (r.1 : Int) = max 0 (min 254 (e + 127)) ∧ r.2.length = xs.length ∧
    ∀ (k : Nat) (x : Val), xs[k]? = some x → ∃ v : Val, r.2[k]? = some (f.elemFmt.round rm 0 true v).1 ∧
      (x.isZero = true → v = x) ∧ (x.isZero = false → v.RoundsAs 24 (x.real / (s.real * 2 ^ ((r.1 : Int) - 127)))))

/-- The three writes of a quantised copy (12 R235, R259): its elements, row-major and plain (LAYOUT 3) or as records (LAYOUT 4); its
offsets, one to 32 elements along the copy's axis; its scale. `quant` gives the offset and codes of a block of cells (row, column). -/
def CopyHolds (f : Tag) (t : Tile) (scale : Nat) (quant : List (Nat × Nat) → Nat × List Nat) (w : List (Nat × List Byte)) : Prop :=
  ∃ (code : Nat → Nat → Nat) (elems offs : List Byte),
    w = [(t.gbase, elems), (ownSpad t.offs, offs), (ownSpad t.scale, leBytes 4 scale)] ∧
    (t.layout = 3 → elems.length = (t.rows * t.cols * f.elemBits + 7) / 8 ∧
      (∀ r < t.rows, ∀ c < t.cols, elem f.elemBits (leNat elems) (r * t.cols + c) = code r c) ∧
      ∀ r < t.rows, ∀ b, 32 * b < t.cols →
        let q := quant ((List.range (min 32 (t.cols - 32 * b))).map fun i => (r, 32 * b + i))
        (offs[r * ((t.cols + 31) / 32) + b]?).map BitVec.toNat = some (q.1 % 256) ∧
        ∀ i, i < 32 → 32 * b + i < t.cols → code r (32 * b + i) = q.2.getD i 0) ∧
    (t.layout = 4 → ∀ p, planeFmt f = some p →
      elems = (List.range t.rows).flatMap (fun r => planeRecord f p ((List.range t.cols).map (code r))) ∧
      ∀ c < t.cols, ∀ b, 32 * b < t.rows →
        let q := quant ((List.range (min 32 (t.rows - 32 * b))).map fun i => (32 * b + i, c))
        (offs[c * ((t.rows + 31) / 32) + b]?).map BitVec.toNat = some (q.1 % 256) ∧
        ∀ i, i < 32 → 32 * b + i < t.rows → code (32 * b + i) c = q.2.getD i 0)

/-- Blocks of a core's TAS that lie outside the listed ones are as they were. -/
def TasFrame (c c' : Core) (units : List Nat) (dbl : Bool) : Prop :=
  ∀ z ∈ c.tas, (∀ q ∈ units, ¬ z.covers q ∧ (dbl = true → ¬ z.covers (q + 1))) → z ∈ c'.tas

/-! The engines (15 R297, R304 to R306, R309). -/

/-- The lists hold nothing of significand 0: what the formats decode to (06 R103). -/
abbrev Shaped (l : List Val) : Prop := ∀ n m e, Val.fin n m e ∈ l → 0 < m

/-- Where item k of iteration n of a copy comes from and goes, its coordinates being i0 to i3 (R297); under bit-plane the item is row
k, whose columns are listed. -/
def CopyMap (r : CopyReq) (n k i0 i1 i2 i3 : Nat) : Prop :=
  let at_ (a : Int) : Nat := (a % 2 ^ 64).toNat
  let src : Int := r.src + if r.looping then (n : Int) * r.ss 3 else 0
  let dst : Int := r.dst + if r.looping then ((n % r.stages : Nat) : Int) * r.ds 3 else 0
  if r.xform = 2 then
    r.source n k = ((List.range (r.ext_ 0)).map fun i => (at_ (src + (i * r.elemBits / 8 : Nat) + k * r.ss 1), i * r.elemBits % 8)) ∧
    ∀ f, r.planeFmt = some f → r.target n k = [(at_ (dst + k * r.ds 1), recordSize f (r.ext_ 0))]
  else
    let cell (a : Int) (x y : Nat) : Nat := at_ (a + (x * r.esz : Nat) + y * r.ds 1 + i2 * r.ds 2 + i3 * r.ds 3)
    r.source n k = [(at_ (src + (i0 * r.esz : Nat) + i1 * r.ss 1 + i2 * r.ss 2 + i3 * r.ss 3), 0)] ∧
    r.target n k = match r.xform with
      | 3 => [(at_ (r.dst + (i0 * r.esz : Nat) + i1 * r.ds 1), r.esz), (at_ (r.dst + r.ds 3 + (i1 * r.esz : Nat) + i0 * r.ds 2), r.esz)]
      | 1 => [(cell dst i1 i0, r.esz)]
      | _ => [(cell dst i0 i1, r.esz)]

/-- The bytes an item writes: its source's, or under bit-plane the record of its codes; and where each of them goes. -/
def CopyImage (r : CopyReq) (n k : Nat) (src : List Byte) : Prop :=
  let img := r.image src
  (r.xform ≠ 2 → img = src) ∧
  (∀ t f, r.xform = 2 → Tag.ofCode r.fmt = some t → planeFmt t = some f →
    RecordIs t f ((List.range (r.ext_ 0)).map fun i => elem r.elemBits (leNat src) i) img) ∧
  ((∀ p ∈ r.target n k, p.2 ≤ img.length) →
    ((r.writes n k img).flatMap fun w => (List.range w.2.length).map fun j => ((w.1 + j) % 2 ^ 64, w.2.getD j 0)) =
      (r.target n k).flatMap fun p => (List.range p.2).map fun j => ((p.1 + j) % 2 ^ 64, img.getD j 0))

/-- The first k of a list in an order, best first. -/
def TopOf {α : Type} (before : α → α → Prop) (k : Nat) (all l : List α) : Prop :=
  l.length = min k all.length ∧ ∃ rest, (l ++ rest).Perm all ∧ (l ++ rest).Pairwise before

/-- a ranks before b by score: the larger first, equal ones by `tie`; NaN below every number, NaNs among themselves by `nan` (R304). -/
def Outranks {α : Type} (score : α → Val) (tie nan : α → α → Prop) (a b : α) : Prop :=
  match (score a).isNaN, (score b).isNaN with
  | true, false => False
  | false, true => True
  | true, true => nan a b
  | false, false => Val.lt (score b) (score a) = true ∨ (Val.lt (score a) (score b) = false ∧ tie a b)

/-- The exact sum of products (R304, R111): the first NaN among the operands; the default NaN where a product is 0 × ∞ or infinities of
both signs meet; an infinity; else the real sum. -/
def SumIs (ps : List (Val × Val)) (v : Val) : Prop :=
  let ops := ps.flatMap fun p => [p.1, p.2]
  let prods := ps.map fun p => (Val.mul .exact p.1 p.2).1
  (∀ n, firstNaN ops = some n → v = n) ∧
  (firstNaN ops = none → (prods.any Val.isNaN = true ∨ (.inf false ∈ prods ∧ .inf true ∈ prods) → v = Val.defaultNaN) ∧
    ∀ n, prods.any Val.isNaN = false → .inf n ∈ prods → .inf (!n) ∉ prods → v = .inf n) ∧
  (Shaped ops → ops.all Val.finite = true → v.Is (ps.map fun p => p.1.real * p.2.real).sum)

/-- The chosen rows of a query, best first, with their scores (R304): the k best of each half-key table, then the k best of their pairs. -/
def Chosen (g : Geyser) (seed qn : Nat) (x k1 k2 : List Val) (sel : List Candidate) : Prop :=
  let h := g.d / 2
  let z := Val.zero false
  let s1 (a : Nat) : Val := round32v (sumProducts ((List.range h).map fun t => (x.getD t z, k1.getD (a * h + t) z)))
  let s2 (b : Nat) : Val := round32v (sumProducts ((List.range h).map fun t => (x.getD (h + t) z, k2.getD (b * h + t) z)))
  let c (p : Nat × Nat) : Val := round32v (withNaN [s1 p.1, s2 p.2] (Val.add .rne (s1 p.1) (s2 p.2))).1
  let row (p : Nat × Nat) : Nat := p.1 * g.n2 + p.2
  let tie (p : Nat × Nat) : Nat := kmix seed (row p) qn
  ∃ (l1 l2 : List Nat) (ps : List (Nat × Nat)),
    TopOf (Outranks s1 (· < ·) (· < ·)) g.k (List.range g.n1) l1 ∧ TopOf (Outranks s2 (· < ·) (· < ·)) g.k (List.range g.n2) l2 ∧
    TopOf (Outranks c (fun p q => tie p < tie q ∨ (tie p = tie q ∧ row p < row q)) (fun p q => row p < row q)) g.k
      (l1.flatMap fun a => l2.map fun b => (a, b)) ps ∧
    sel = ps.map fun p => { r := row p, c := c p, tie := tie p }

/-- The weights of the chosen scores, best first (R305). -/
def WeightsAre (wmode temp : Nat) (cs ws : List Val) : Prop :=
  let one := Val.fin false 1 0
  let m := cs.headD (.zero false)
  let t := FloatFmt.f32.decode temp
  ws.length = cs.length ∧
  match wmode with
  | 0 =>
    if m.finite = true then ∃ us : List Val, us.length = cs.length ∧
      (∀ (j : Nat) (c u : Val), cs[j]? = some c → us[j]? = some u → ∃ d e : Val, u = round32v (fpExp2 false 24 (round32v e)).1 ∧ SumIs [(d, t)] e ∧
        (c.isNaN = true → d = c) ∧ (Shaped cs → c.finite = true → d.Is (c.real - m.real)) ∧ (∀ n, c = .inf n → d = c)) ∧
      ∀ (j : Nat) (u : Val), us[j]? = some u → ws[j]? = some (round32v (fpDiv false 24 u (round32v (sumProducts (us.map fun y => (y, one))))).1)
    else ∀ w ∈ ws, w = Val.defaultNaN
  | 1 =>
    let z := round32v (sumProducts (cs.map fun c => (if c.neg && !c.isNaN then c.negate else c, one)))
    ∀ (j : Nat) (c : Val), cs[j]? = some c → ws[j]? = some (if z.isZero then .zero false else round32v (fpDiv false 24 c z).1)
  | _ => ∀ w ∈ ws, w = one

/-- One addition of a scatter (R306): the exact V + g × w rounded once to BF16 under SR; the first NaN among V, g, w goes through. -/
def ScatterAddIs (seed va stream v : Nat) (g w : Val) : Prop :=
  let x := FloatFmt.bf16.decode v
  ∃ y : Val, scatterAdd seed va stream v g w = (FloatFmt.bf16.round .sr (kmix seed (va / 2) stream % 65536) false y).1 ∧
    (∀ n, firstNaN [x, g, w] = some n → y = n) ∧
    (firstNaN [x, g, w] = none → (Val.mul .exact g w).2 = true → y = Val.defaultNaN) ∧
    (Shaped [g, w] → (x.finite && g.finite && w.finite) = true → y.Is (x.real + g.real * w.real))

/-- One element of a near-memory command (R309): what is rounded; the first NaN in the order w, s, P1, P2 goes through. -/
def NmValueIs (op : Nat) (w s p1 p2 : Val) : Prop :=
  let y := nmValue op w s p1 p2
  let ops := match op with
    | 1 => [w, s]
    | 2 => [w, s, p1, p2]
    | 3 => [w, p1]
    | _ => []
  (∀ n, firstNaN ops = some n → y = n) ∧
  (Shaped ops → ops.all Val.finite = true → y.Is (match op with
    | 1 => w.real + s.real
    | 2 => p2.real * w.real - p1.real * s.real
    | 3 => p1.real * w.real
    | _ => 0))

/-! The bundle at hand. -/

/-- The bundle is a crew's, its lanes are runnable and at its address, and the debugger has marked none of them (16 R318, 20 R399). -/
abbrev AtHand (s : State) (cur : Cur) (c : Crew) : Prop :=
  s.cur = some cur ∧ s.crew cur.core cur.slot = some c ∧
  ∀ l ∈ cur.lanes, l < 32 ∧ (c.thread l).haltMark = false ∧ (c.thread l).stepMark = false ∧ (c.thread l).pc = cur.pc ∧
    (c.thread l).st = .runnable

/-- A lane takes part: it is one of the bundle's, or in paired-lane mode the shadow of one (02 R48). -/
abbrev TakesPart (pair : Bool) (lanes : List Nat) (l : Nat) : Prop :=
  l ∈ lanes ∨ (pair = true ∧ l % 2 = 1 ∧ l - 1 ∈ lanes)

/-- A lane that takes part acts: its guard is true, and in a shadow the visible lane's guard too (03 R65, 02 R48). -/
def acts (o : Enc) (short : Bool) (c : Crew) (lanes : List Nat) (l : Nat) : Bool :=
  o.guard short (c.thread l) && (lanes.contains l || o.guard short (c.thread (l - 1)))

/-- Nothing keeps the lane from its instruction: its guard can be read, and if the guard is true, its operands are full, of
tags the instruction takes, and its destination is full (03 R64, R65, 05 R90). -/
abbrev Operable (o : Enc) (short : Bool) (srcs : List Opnd) (dst : Option (Nat × Bool)) (preds : List Nat) (t : Thread) : Prop :=
  (∀ p ∈ o.guardPreds short, p ∉ t.predWait) ∧ (o.guard short t = true → operandFate t srcs dst preds = .ready)

/-- The instruction completes on its lanes' own registers: from every state in which it is at hand, `pre` holds and nothing keeps
its lanes from it, `exec` answers a next state that differs in the crew's threads alone. A lane that acts comes from `t` to some
`u` with `res l t u`, then goes on at the next instruction; one whose guard is false goes on with nothing else changed; every
other lane is as it was. -/
def RunsWhen (pre : State → Cur → Prop) (i : Instr) (o : Enc) (short : Bool) (srcs : Thread → List Opnd)
    (dst : Option (Nat × Bool)) (preds : List Nat) (can : Thread → Prop) (res : Nat → Thread → Thread → Prop) : Prop :=
  ∀ (s : State) (cur : Cur) (c : Crew), AtHand s cur c → pre s cur →
    (∀ l < 32, TakesPart (s.hdrOf cur.core cur.slot).pair cur.lanes l →
      Operable o short (srcs (c.thread l)) dst preds (c.thread l) ∧ can (c.thread l)) →
    ∃ c' : Crew, exec i s = .next (s.setCrew cur.core cur.slot (some c')) ∧ c' = { c with threads := c'.threads } ∧
      ∀ l < 32,
        (¬ TakesPart (s.hdrOf cur.core cur.slot).pair cur.lanes l → c'.thread l = c.thread l) ∧
        (TakesPart (s.hdrOf cur.core cur.slot).pair cur.lanes l →
          if acts o short c cur.lanes l then
            ∃ u, res l (c.thread l) u ∧ c'.thread l = u.goto (cur.pc + BitVec.ofNat 64 o.bytes)
          else c'.thread l = (c.thread l).goto (cur.pc + BitVec.ofNat 64 o.bytes))

/-- The same with no condition on the rest of the state. -/
abbrev RunsOnRegisters (i : Instr) (o : Enc) (short : Bool) (srcs : Thread → List Opnd) (dst : Option (Nat × Bool))
    (preds : List Nat) (can : Thread → Prop) (res : Nat → Thread → Thread → Prop) : Prop :=
  RunsWhen (fun _ _ => True) i o short srcs dst preds can res

/-! Operands and results in the manual's terms. -/

/-- A, B (or the literal in its place), C (D's field in a base form), as numbers; A where a literal may replace it (03 R61). -/
def valA (o : Enc) (wide : Bool) (t : Thread) : Nat := (t.value o.a.toNat wide).toNat
def valB (o : Enc) (wide : Bool) (t : Thread) : Nat :=
  if o.hasLit then (o.litVal wide).toNat else (t.value o.b.toNat wide).toNat
def valC (o : Enc) (wide : Bool) (t : Thread) : Nat := (t.value (if o.isExt then o.c.toNat else o.d.toNat) wide).toNat
def valLitA (o : Enc) (wide : Bool) (t : Thread) : Nat :=
  if o.hasLit then (o.litVal wide).toNat else (t.value o.a.toNat wide).toNat

/-- The operand lists of the plain shapes: A; A and B; A, B and C, all of format `f`; A of format `f` with a 32-bit B. -/
abbrev opsA (o : Enc) (f : Tag) : Thread → List Opnd := fun _ => [o.litA f.wide (.only f)]
abbrev opsAB (o : Enc) (f : Tag) : Thread → List Opnd := fun _ => [o.regA f.wide (.only f), o.litB f.wide (.only f)]
abbrev opsABC (o : Enc) (f : Tag) : Thread → List Opnd := fun _ =>
  [o.regA f.wide (.only f), o.litB f.wide (.only f), o.regC f.wide (.only f)]
abbrev opsAn (o : Enc) (f : Tag) : Thread → List Opnd := fun _ => [o.regA f.wide (.only f), o.litB false countTags]
/-- The destination D of format `f`. -/
abbrev dstD (o : Enc) (f : Tag) : Option (Nat × Bool) := some (o.d.toNat, f.wide)
/-- No further condition on a lane. -/
abbrev always : Thread → Prop := fun _ => True

/-- D receives a value of format `f` whose element k is `g k`; nothing else of the thread changes. -/
def WritesElems (o : Enc) (f : Tag) (g : Nat → Nat) (t u : Thread) : Prop :=
  ∃ v : Nat, u = t.write o.d.toNat f.wide (BitVec.ofNat 64 v) f ∧ v < 2 ^ (f.elemBits * f.count) ∧
    ∀ k < f.count, elem f.elemBits v k = g k

/-- D receives a value of format `f` whose bit j, of `n`, is `g j`; nothing else of the thread changes. -/
def WritesBits (o : Enc) (f : Tag) (n : Nat) (g : Nat → Bool) (t u : Thread) : Prop :=
  ∃ v : Nat, u = t.write o.d.toNat f.wide (BitVec.ofNat 64 v) f ∧ v < 2 ^ n ∧ ∀ j < n, v.testBit j = g j

/-- No exception that the thread enables is among those signalled (07 R148). -/
abbrev Quiet (t : Thread) (es : List Exc) : Prop := ∀ e ∈ es, e.toNat &&& bits t.rnd.toNat 12 8 = 0

/-- Element k of D is to be `(r t k).1`, and computing it signals `(r t k).2`: no enabled exception among them. -/
abbrev Calm (f : Tag) (r : Thread → Nat → Nat × Exc) (t : Thread) : Prop := Quiet t ((List.range f.count).map fun k => (r t k).2)

/-- D receives those elements. -/
def WritesRounded (o : Enc) (f : Tag) (r : Thread → Nat → Nat × Exc) (_ : Nat) (t u : Thread) : Prop :=
  WritesElems o f (fun k => (r t k).1 % 2 ^ f.elemBits) t u

/-! Instructions beyond the lane's registers. -/

/-- The instruction lets every lane go on: from every state in which it is at hand, and nothing keeps its lanes from it, `exec`
answers a next state in which each lane whose guard is true has received `eff` and stands at `dest`, one whose guard is false stands
at the next instruction, in paired-lane mode each shadow has received the same and stands where its visible lane does, every other
thread and the rest of the state is as it was (`sOnly`: in S mode alone, 19 R379); then instances that wait at other addresses are looked at (02 R48, 08 R157). -/
def LanesGoOn (i : Instr) (o : Enc) (sOnly short : Bool) (srcs : List Opnd) (dst : Option (Nat × Bool)) (preds : List Nat)
    (can : State → Lane → Thread → Prop) (eff : State → Lane → Thread → Thread) (dest : State → Lane → Thread → DWord) : Prop :=
  ∀ (s : State) (cur : Cur) (c : Crew), AtHand s cur c → cur.lanes.Nodup →
    ((s.hdrOf cur.core cur.slot).pair = true → ∀ l ∈ cur.lanes, l % 2 = 0) →
    (∀ l ∈ cur.lanes, Operable o short srcs dst preds (c.thread l) ∧ (sOnly = true → (c.thread l).priv = true) ∧
      (o.guard short (c.thread l) = true → can s ⟨cur.core, cur.slot, l⟩ (c.thread l))) →
    ∃ c' : Crew, exec i s = .next ((s.setCrew cur.core cur.slot (some c')).settle cur.core cur.slot) ∧
      c' = { c with threads := c'.threads } ∧
      ∀ l < 32,
        (l ∈ cur.lanes → c'.thread l =
          if o.guard short (c.thread l) then
            (eff s ⟨cur.core, cur.slot, l⟩ (c.thread l)).goto (dest s ⟨cur.core, cur.slot, l⟩ (c.thread l))
          else (c.thread l).goto (cur.pc + BitVec.ofNat 64 o.bytes)) ∧
        (l ∉ cur.lanes → (s.hdrOf cur.core cur.slot).pair = true ∧ l % 2 = 1 ∧ l - 1 ∈ cur.lanes → c'.thread l =
          { (if o.guard short (c.thread (l - 1)) then eff s ⟨cur.core, cur.slot, l - 1⟩ (c.thread l) else c.thread l) with
            pc := (c'.thread (l - 1)).pc, st := .runnable, age := 0, regionPc := (c'.thread (l - 1)).regionPc,
            miss := (c'.thread (l - 1)).miss, mark := none }) ∧
        (l ∉ cur.lanes → ¬ ((s.hdrOf cur.core cur.slot).pair = true ∧ l % 2 = 1 ∧ l - 1 ∈ cur.lanes) → c'.thread l = c.thread l)

/-- The bundle at hand is one lane, outside paired-lane mode, whose guard is true and whose operands are ready. -/
abbrev Alone (s : State) (cur : Cur) (c : Crew) (l : Nat) (o : Enc) (short : Bool) (srcs : List Opnd) (dst : Option (Nat × Bool))
    (preds : List Nat) : Prop :=
  AtHand s cur c ∧ cur.lanes = [l] ∧ (s.hdrOf cur.core cur.slot).pair = false ∧ o.guard short (c.thread l) = true ∧
  (∀ p ∈ o.guardPreds short, p ∉ (c.thread l).predWait) ∧ operandFate (c.thread l) srcs dst preds = .ready

/-- The thread changes, and nothing else. -/
def State.onThread (s : State) (x : Lane) (f : Thread → Thread) : State := s.modThread x.core x.slot x.lane f
/-- The lane goes on at an address, and instances that waited for it are looked at. -/
def State.onward (s : State) (x : Lane) (pc : DWord) : State := (s.onThread x fun t => t.goto pc).settle x.core x.slot

/-- Byte `a` of a scratchpad bank, and of global memory as it is stored. -/
def State.spadByte (s : State) (b k a : Nat) : Byte := memGet (s.bank b k).mem a
def State.globByte (s : State) (a : Nat) : Byte := memGet s.mem a

/-- Nothing but the listed bytes of bank k of core b differs in memory: every other byte of every bank, of global memory and of
host memory reads as before. -/
abbrev SpadFrame (s u : State) (b k off n : Nat) : Prop :=
  (∀ b' k' a, ¬ (b' = b ∧ k' = k ∧ off ≤ a ∧ a < off + n) → u.spadByte b' k' a = s.spadByte b' k' a) ∧
  (∀ a, u.globByte a = s.globByte a) ∧ u.hostMem = s.hostMem
/-- The same for `n` bytes of global memory. -/
abbrev GlobFrame (s u : State) (a n : Nat) : Prop :=
  (∀ b k a', u.spadByte b k a' = s.spadByte b k a') ∧ (∀ a', ¬ (a ≤ a' ∧ a' < a + n) → u.globByte a' = s.globByte a') ∧ u.hostMem = s.hostMem
/-- No byte of memory differs. -/
def MemorySame (s u : State) : Prop := SpadFrame s u 0 0 0 0

/-- A lane's registers but D, and its predicates, are unchanged. -/
def OtherRegs (t u : Thread) (d : Nat) (wide : Bool) : Prop :=
  u.preds = t.preds ∧ ∀ r < 64, r ≠ d → ¬ (wide = true ∧ r = d + 1) → u.reg r = t.reg r

/-- Slot k of the lane's core holds a new pending operation of the lane, next in its program order; `order` ranks it among all. -/
def State.slotTaken (s : State) (x : Lane) (cls k : Nat) : State :=
  let e := s.handle x.core k
  ((s.onThread x fun t => { t with seq := t.seq + 1 }).modCore x.core fun w =>
    { w with oldCopies := w.oldCopies.filter fun o => o.handle != some k }).modHandle x.core k fun _ =>
      { st := .pending, gen := (e.gen + 1) % 2 ^ 16, cls, team := ((s.teamOf x.core x.slot).map Team.id).getD 0, slot := x.slot, lane := x.lane,
        seq := (s.laneThread x).seq + 1, order := s.nextId, word := 0 }
/-- The handle word of a slot's next operation (15 R291). -/
def State.nextHandle (s : State) (b cls k : Nat) : Nat := cls * 2 ^ 26 + k * 2 ^ 16 + ((s.handle b k).gen + 1) % 2 ^ 16

/-- A new entry at the end of the array queues of its span, its handle in D (12 R232, 13 R250). -/
def State.arrayEntered (s : State) (x : Lane) (o : Enc) (k : Nat) (span : List (Nat × Nat)) (tileReg : Nat) (job : ArrayJob) : State :=
  let u := { s.slotTaken x 1 k with nextId := s.nextId + 2 }
  let op : ArrayOp :=
    { id := s.nextId + 1, slot := x.slot, lane := x.lane, handle := k, span, tileReg, job, st := .queued, attempt := 1, emax := 0, good := [],
      guardRows := [], guardCols := [], scales := [], errs := [], located := [], corr := 0, injected := {}, armed := [] }
  ({ u with arrays := s.arrays ++ [op] } : State).onThread x fun t =>
    t.write o.d.toNat false (BitVec.ofNat 64 (s.nextHandle x.core 1 k)) .handle

/-! Cross-lane instances and JOINs outside paired-lane mode (08 R157, 16 R331). -/

/-- The bundle's lanes are all that an instance at its address awaits: no instance is open and no lane waits in one, every lane's
operands are full and of tags the instruction takes, and each lane whose guard is true names itself, and otherwise only lanes of the bundle or exited ones. -/
abbrev Meets (s : State) (cur : Cur) (c : Crew) (o : Enc) (srcs : List Opnd) (dst : Option (Nat × Bool)) (preds : List Nat)
    (mask : Thread → Nat) : Prop :=
  AtHand s cur c ∧ (s.hdrOf cur.core cur.slot).pair = false ∧ c.xl = [] ∧ cur.lanes.Nodup ∧
  (∀ m < 32, (c.thread m).st ≠ .waitXl ∧ (c.thread m).st ≠ .waitJoin) ∧
  ∀ l ∈ cur.lanes, (c.thread l).miss = none ∧ Operable o true srcs dst preds (c.thread l) ∧
    (o.guard true (c.thread l) = true → (mask (c.thread l)).testBit l = true ∧
      ∀ m < 32, (mask (c.thread l)).testBit m = true → m ∈ cur.lanes ∨ (c.thread m).st = .exited)

/-- S(l): the lanes that contribute and that lane l's mask names, in ascending order (08 R158). -/
def members (c : Crew) (lanes : List Nat) (o : Enc) (mask : Thread → Nat) (l : Nat) : List Nat :=
  (List.range 32).filter fun m => lanes.contains m && o.guard true (c.thread m) && (mask (c.thread l)).testBit m

/-- What follows for lanes that the vector datapath has given a float result in D, and for no other (08 R169). -/
def State.vectorGave (s : State) (b sl : Nat) (f : Tag) (lanes : List Nat) (d : Nat) : State :=
  match f.elemFmt with
  | .float _ => s.vectorDone b sl lanes (.reg d)
  | _ => s

/-- The instance completes within the bundle: every contributor receives its result and goes on, a lane whose guard is false goes
on with nothing else changed, and no instance stays open. `f` is the format that a reduction sums in. -/
def Completes (i : Instr) (o : Enc) (srcs : List Opnd) (dst : Option (Nat × Bool)) (preds : List Nat) (mask : Thread → Nat)
    (can : Crew → List Nat → Nat → Prop) (res : Crew → List Nat → Nat → Thread → Thread) (f : Tag := .raw) : Prop :=
  ∀ (s : State) (cur : Cur) (c : Crew), Meets s cur c o srcs dst preds mask →
    (∀ l ∈ cur.lanes, o.guard true (c.thread l) = true → can c (members c cur.lanes o mask l) l) →
    ∃ c' : Crew, exec i s = .next ((s.setCrew cur.core cur.slot (some c')).vectorGave cur.core cur.slot f
        (cur.lanes.filter fun l => o.guard true (c.thread l)) o.d.toNat) ∧
      c' = { c with threads := c'.threads } ∧
      ∀ l < 32, c'.thread l =
        if l ∈ cur.lanes then
          (if o.guard true (c.thread l) then res c (members c cur.lanes o mask l) l (c.thread l) else c.thread l).goto
            (cur.pc + BitVec.ofNat 64 o.bytes)
        else c.thread l

/-- The lanes of a bundle come to the instance at their address, whoever is there already (08 R157, 16 R331): each lane arrives with what it
brings, its shadow in the shadows' instance (08 R161), and waits; one whose guard is false arrives with nothing and goes on. Then
instances that can complete do (`State.settle`), and a JOIN that waits may be a switch point (16 R324). -/
def Arrives (i : Instr) (opc : Nat) (o : Enc) (srcs : List Opnd) (dst : Option (Nat × Bool)) (preds : List Nat) (brings : Thread → Brings) :
    Prop :=
  ∀ (s : State) (cur : Cur) (c : Crew), AtHand s cur c → cur.lanes.Nodup →
    let pair := (s.hdrOf cur.core cur.slot).pair
    (pair = true → ∀ l ∈ cur.lanes, l % 2 = 0) →
    (∀ l ∈ cur.lanes, Operable o true srcs dst preds (c.thread l) ∧ c.hasArrived cur.pc l = false ∧
      (o.guard true (c.thread l) = true → (brings (c.thread l)).mask.getLsbD (visible pair l) = true)) →
    let joins (v l : Nat) (k : Crew) : Crew :=
      let w : Brings := if o.guard true (c.thread v) then brings (c.thread l) else { mask := 0 }
      k.arrive cur.pc opc o (l != v)
        { lane := l, contrib := o.guard true (c.thread v), mask := w.mask, a := w.a, atag := w.atag, b := w.b, pa := w.pa }
    let wait : LaneState := if opc = 0x74 then .waitJoin else .waitXl
    let after (l : Nat) : Thread :=
      if o.guard true (c.thread l) then { c.thread l with st := wait, age := 0, miss := none }
      else (c.thread l).goto (cur.pc + BitVec.ofNat 64 o.bytes)
    let d : Crew := { c with
      xl := (cur.lanes.foldl (fun k l => if pair then joins l (l + 1) (joins l l k) else joins l l k) c).xl
      threads := Vector.ofFn fun n : Fin 32 =>
        if n.val ∈ cur.lanes then after n.val
        else if pair = true ∧ n.val % 2 = 1 ∧ n.val - 1 ∈ cur.lanes then
          { c.threads[n] with pc := (after (n.val - 1)).pc, st := (after (n.val - 1)).st, age := 0, regionPc := (after (n.val - 1)).regionPc,
                              miss := (after (n.val - 1)).miss, mark := (after (n.val - 1)).mark }
        else c.threads[n] }
    let u := (s.setCrew cur.core cur.slot (some d)).settle cur.core cur.slot
    exec i s = .next (if opc = 0x74 then u.switchIf (· == .waitJoin) else u)

/-- Every memory is in canonical form (log entry 3): global memory, the host's, the banks of each core, and those of the cores
that an evacuated partition's image keeps. -/
def MemoryWf (s : State) : Prop :=
  Memory.wf s.mem = true ∧ Memory.wf s.hostMem = true ∧
  (∀ b < 160, ∀ k < 48, Memory.wf ((s.core b).bank k).mem = true) ∧
  ∀ p < 9, ∀ m ∈ (s.part p).image, ∀ k < 48, Memory.wf (m.ctx.bank k).mem = true

/-- Every line of L2 with writes not yet written back can be, as they stand: its key is still loaded, and the unit is of that key. Where
the key has gone the writes are discarded (09 R186, R190). -/
def WritesBack (s : State) : Prop :=
  ∀ o ∈ s.l2, o.back.isSome = true → s.keyLoaded o.key = true ∧ lookupNat s.unitKeys o.line 0 = s.keyOf o.key

end Sys2Proof.Machine
end

