-- ==== Sys2Proof/Certificates/Slice0/Obligations.lean ====
section
/-! DEFINITION. The statements. Each docstring names the rules of the manual that it formalises. -/

open Sys2Proof Sys2Proof.Machine

/-! Instructions on a lane's own registers (07). -/

/-- IADD, ISUB, IMIN, IMAX, IABS and INEG compute each element exactly, then clamp it (SAT) or take it modulo 2^w, and write D
with the format's tag (R132). IADC and ISBB chain an unsigned carry or borrow of the w-bit operation through a predicate, p127
in the base form; a carry out of p0 is discarded (R133). -/
def Obligations.IntegerArithmetic : Prop :=
  (∀ (o : Enc), o.fmt .i32 ∈ Encoding.setWP →
    let f := o.fmt .i32
    let w := f.elemBits
    let x (t : Thread) (k : Nat) : Int := intOf f.isSigned w (elem w (valA o f.wide t) k)
    let y (t : Thread) (k : Nat) : Int := intOf f.isSigned w (elem w (valB o f.wide t) k)
    let z (t : Thread) (k : Nat) : Int := intOf f.isSigned w (elem w (valLitA o f.wide t) k)
    let into (v : Int) : Nat := wrap w (if o.modBit 0 then clampInt v (intLow f.isSigned w) (intHigh f.isSigned w) else v)
    RunsOnRegisters (.iadd o) o true (opsAB o f) (dstD o f) [] always (fun _ t => WritesElems o f (fun k => into (x t k + y t k)) t) ∧
    RunsOnRegisters (.isub o) o true (opsAB o f) (dstD o f) [] always (fun _ t => WritesElems o f (fun k => into (x t k - y t k)) t) ∧
    RunsOnRegisters (.imin o) o true (opsAB o f) (dstD o f) [] always
      (fun _ t => WritesElems o f (fun k => wrap w (if x t k ≤ y t k then x t k else y t k)) t) ∧
    RunsOnRegisters (.imax o) o true (opsAB o f) (dstD o f) [] always
      (fun _ t => WritesElems o f (fun k => wrap w (if x t k ≤ y t k then y t k else x t k)) t) ∧
    RunsOnRegisters (.iabs o) o true (opsA o f) (dstD o f) [] always
      (fun _ t => WritesElems o f (fun k => into (if z t k < 0 then -z t k else z t k)) t) ∧
    RunsOnRegisters (.ineg o) o true (opsA o f) (dstD o f) [] always (fun _ t => WritesElems o f (fun k => into (-z t k)) t) ∧
    ((Instr.ineg o).wf = true → f.isSigned = true) ∧ ((Instr.iabs o).wf = true → f.isSigned = true)) ∧
  (∀ (o : Enc), o.fmt .i32 ∈ Encoding.setW →
    let f := o.fmt .i32
    let w := f.elemBits
    let co := if o.isExt then o.pd else 127
    let ci := if o.isExt then o.pa else 127
    let a := valA o f.wide
    let b := valB o f.wide
    let c (t : Thread) : Nat := if t.pred ci then 1 else 0
    RunsOnRegisters (.iadc o) o true (opsAB o f) (dstD o f) [co, ci] always (fun _ t u =>
      u = (t.write o.d.toNat f.wide (BitVec.ofNat 64 ((a t + b t + c t) % 2 ^ w)) f).setPred co (2 ^ w ≤ a t + b t + c t)) ∧
    RunsOnRegisters (.isbb o) o true (opsAB o f) (dstD o f) [co, ci] always (fun _ t u =>
      u = (t.write o.d.toNat f.wide (BitVec.ofNat 64 (wrap w ((a t : Int) - b t - c t))) f).setPred co (a t < b t + c t)))

/-- IMUL, IMULH, IMAD, IDIV and IREM, with the manual's results for a zero divisor and for the lowest value over −1 (R134). -/
def Obligations.ProductsAndQuotients : Prop :=
  ∀ (o : Enc), o.fmt .i32 ∈ Encoding.setW →
    let f := o.fmt .i32
    let w := f.elemBits
    let a := valA o f.wide
    let b := valB o f.wide
    let c := valC o f.wide
    let x (t : Thread) : Int := intOf f.isSigned w (a t)
    let y (t : Thread) : Int := intOf f.isSigned w (b t)
    let writes (v : Nat) (t u : Thread) : Prop := u = t.write o.d.toNat f.wide (BitVec.ofNat 64 v) f
    RunsOnRegisters (.imul o) o false (opsAB o f) (dstD o f) [] always (fun _ t => writes (a t * b t % 2 ^ w) t) ∧
    RunsOnRegisters (.imulh o) o false (opsAB o f) (dstD o f) [] always (fun _ t => writes (wrap w (x t * y t / 2 ^ w)) t) ∧
    RunsOnRegisters (.imad o) o false (opsABC o f) (dstD o f) [] always (fun _ t => writes ((a t * b t + c t) % 2 ^ w) t) ∧
    RunsOnRegisters (.idiv o) o true (opsAB o f) (dstD o f) [] always (fun _ t u =>
      ∃ v < 2 ^ w, writes v t u ∧ (y t = 0 → v = 2 ^ w - 1) ∧ (y t ≠ 0 → v = wrap w (Int.tdiv (x t) (y t))) ∧
        (y t = -1 → x t = intLow f.isSigned w → intOf f.isSigned w v = x t)) ∧
    RunsOnRegisters (.irem o) o true (opsAB o f) (dstD o f) [] always (fun _ t u =>
      ∃ v < 2 ^ w, writes v t u ∧ (y t = 0 → v = a t) ∧
        (y t ≠ 0 → intOf f.isSigned w v = x t - y t * Int.tdiv (x t) (y t)))

/-- AND, OR, XOR, ANDN and NOT act bit by bit and write the format's tag (R135). SHL, SHR, SAR and ROTL by n = B, an unsigned
32-bit number, and BREV: where each bit of D comes from (R135). BFX, BFI, POPC and CLZ: the field at pos = B<7:0> of len =
min(B<15:8>, w) bits, extracted or inserted; the number of one bits; the number of leading zero bits (R135). -/
def Obligations.BitOperations : Prop :=
  (∀ (o : Enc), o.fmt .n32 ∈ Encoding.setL →
    let f := o.fmt .n32
    let w := f.elemBits
    let a (t : Thread) (j : Nat) : Bool := (valA o f.wide t).testBit j
    let b (t : Thread) (j : Nat) : Bool := (valB o f.wide t).testBit j
    RunsOnRegisters (.andL o) o true (opsAB o f) (dstD o f) [] always (fun _ t => WritesBits o f w (fun j => a t j && b t j) t) ∧
    RunsOnRegisters (.orL o) o true (opsAB o f) (dstD o f) [] always (fun _ t => WritesBits o f w (fun j => a t j || b t j) t) ∧
    RunsOnRegisters (.xorL o) o true (opsAB o f) (dstD o f) [] always (fun _ t => WritesBits o f w (fun j => a t j != b t j) t) ∧
    RunsOnRegisters (.andn o) o true (opsAB o f) (dstD o f) [] always (fun _ t => WritesBits o f w (fun j => a t j && !b t j) t) ∧
    RunsOnRegisters (.notL o) o true (opsA o f) (dstD o f) [] always
      (fun _ t => WritesBits o f w (fun j => !(valLitA o f.wide t).testBit j) t)) ∧
  (∀ (o : Enc), o.fmt .n32 ∈ Encoding.setW →
    let f := o.fmt .n32
    let w := f.elemBits
    let a (t : Thread) (j : Nat) : Bool := (valA o f.wide t).testBit j
    let n := valB o false
    RunsOnRegisters (.shl o) o true (opsAn o f) (dstD o f) [] always
      (fun _ t => WritesBits o f w (fun j => decide (n t ≤ j) && a t (j - n t)) t) ∧
    RunsOnRegisters (.shr o) o true (opsAn o f) (dstD o f) [] always
      (fun _ t => WritesBits o f w (fun j => decide (j + n t < w) && a t (j + n t)) t) ∧
    RunsOnRegisters (.sar o) o true (opsAn o f) (dstD o f) [] always
      (fun _ t => WritesBits o f w (fun j => a t (min (j + n t) (w - 1))) t) ∧
    RunsOnRegisters (.rotl o) o true (opsAn o f) (dstD o f) [] always
      (fun _ t => WritesBits o f w (fun j => a t ((j + w - n t % w) % w)) t) ∧
    RunsOnRegisters (.brev o) o true (opsA o f) (dstD o f) [] always
      (fun _ t => WritesBits o f w (fun j => (valLitA o f.wide t).testBit (w - 1 - j)) t)) ∧
  (∀ (o : Enc), o.fmt .n32 ∈ Encoding.setW →
    let f := o.fmt .n32
    let w := f.elemBits
    let a (t : Thread) (j : Nat) : Bool := (valA o f.wide t).testBit j
    let pos (t : Thread) : Nat := bits (valB o false t) 7 0
    let len (t : Thread) : Nat := min (bits (valB o false t) 15 8) w
    RunsOnRegisters (.bfx o) o true (opsAn o f) (dstD o f) [] always (fun _ t => WritesBits o f w (fun j =>
      if len t = 0 then false
      else if j < len t then decide (pos t + j < w) && a t (pos t + j)
      else f.isSigned && decide (pos t + len t - 1 < w) && a t (pos t + len t - 1)) t) ∧
    RunsOnRegisters (.bfi o) o true (fun _ => [o.regA f.wide (.only f), o.litB false countTags, o.regC f.wide (.only f)]) (dstD o f) []
      always (fun _ t => WritesBits o f w (fun j =>
        if pos t ≤ j ∧ j < pos t + len t then a t (j - pos t) else (valC o f.wide t).testBit j) t) ∧
    RunsOnRegisters (.popc o) o true (opsA o f) (some (o.d.toNat, false)) [] always (fun _ t u =>
      u = t.write o.d.toNat false (BitVec.ofNat 64 ((List.range w).countP fun j => (valLitA o f.wide t).testBit j)) .n32) ∧
    RunsOnRegisters (.clz o) o true (opsA o f) (some (o.d.toNat, false)) [] always (fun _ t u =>
      ∃ n ≤ w, u = t.write o.d.toNat false (BitVec.ofNat 64 n) .n32 ∧
        (∀ j < w, w - n ≤ j → (valLitA o f.wide t).testBit j = false) ∧ (n < w → (valLitA o f.wide t).testBit (w - 1 - n) = true)))

/-- SEL, MOV, MOVL and LEA: SEL takes A where its predicate or C says so, else B; a RAW format carries the source's tag, a
literal's being RAW; MOVL takes the literal's 64 bits; LEA adds A, B extended and shifted by K, and the displacement, modulo
2^64 (R136, R137). ICMP compares and combines the result with PB; PAND, POR, PXOR, PNOT and PMOV compute on predicates; PPACK
and PUNPK move 32 predicates to and from a register (R138 to R140). -/
def Obligations.MovesComparesPredicates : Prop :=
  (∀ (o : Enc),
    let f := o.fmt .raw
    let a := o.regA f.wide (moveWant f false)
    let b := o.litB f.wide (moveWant f false)
    let tagOr (own : Tag) : Tag := if f = .raw then own else f
    RunsOnRegisters (.sel o) o true (fun _ => if o.modBit 0 then [a, b] else [a, b, o.regC false .noHandle]) (dstD o f)
      (if o.modBit 0 then [o.pe] else []) always (fun _ t u =>
        if (if o.modBit 0 then t.pred o.pe else valC o false t != 0) then
          u = t.write o.d.toNat f.wide (t.value o.a.toNat f.wide) (tagOr (t.tag o.a.toNat f.wide))
        else u = t.write o.d.toNat f.wide (if o.hasLit then o.litVal f.wide else t.value o.b.toNat f.wide)
          (tagOr (if o.hasLit then .raw else t.tag o.b.toNat f.wide))) ∧
    RunsOnRegisters (.mov o) o true (fun _ => [o.litA f.wide (moveWant f (o.modBit 0))]) (dstD o f) [] always (fun _ t u =>
      u = t.write o.d.toNat f.wide (if o.hasLit then o.litVal f.wide else t.value o.a.toNat f.wide)
        (tagOr (if o.hasLit then .raw else t.tag o.a.toNat f.wide))) ∧
    RunsOnRegisters (.movl o) o true (fun _ => []) (some (o.d.toNat, true)) [] always
      (fun _ t u => u = t.write o.d.toNat true o.literal (o.fmt .n64)) ∧
    RunsOnRegisters (.lea o) o true (fun _ => [o.regA true (.only .addr), o.litB false countTags]) (some (o.d.toNat, true)) [] always
      (fun _ t u => u = t.write o.d.toNat true (BitVec.ofInt 64 ((valA o true t : Int) +
        (if o.modBit 3 then (valB o false t : Int) else signed 32 (valB o false t)) * 2 ^ o.modBits 2 0 + o.w2.toInt)) .addr)) ∧
  (∀ (o : Enc), o.fmt .i32 ∈ Encoding.setW →
    let f := o.fmt .i32
    let x (t : Thread) : Int := intOf f.isSigned f.elemBits (valA o f.wide t)
    let y (t : Thread) : Int := intOf f.isSigned f.elemBits (valB o f.wide t)
    let code := if o.isExt then o.modBits 2 0 else 2
    let holds (t : Thread) : Bool := match code with
      | 0 => x t == y t | 1 => x t != y t | 2 => decide (x t < y t) | 3 => decide (x t ≤ y t)
      | 4 => decide (y t < x t) | _ => decide (y t ≤ x t)
    let comb (t : Thread) (c : Bool) : Bool := match o.modBits 4 3 with
      | 0 => c | 1 => c && t.pred o.pb | 2 => c || t.pred o.pb | _ => c != t.pred o.pb
    let pa (t : Thread) : Bool := t.pred o.predA != o.modBit 0
    let pb (t : Thread) : Bool := t.pred o.predB != o.modBit 1
    RunsOnRegisters (.icmp o) o true (opsAB o f) none
      (if o.isExt then (if o.modBits 4 3 = 0 then [o.pd, o.pa] else [o.pd, o.pa, o.pb]) else [o.d.toNat]) always (fun _ t u =>
        u = if o.isExt then (t.setPred o.pd (comb t (holds t))).setPred o.pa (comb t (!holds t)) else t.setPred o.d.toNat (holds t)) ∧
    RunsOnRegisters (.pand o) o true (fun _ => []) none [o.predD, o.predA, o.predB] always (fun _ t u => u = t.setPred o.predD (pa t && pb t)) ∧
    RunsOnRegisters (.por o) o true (fun _ => []) none [o.predD, o.predA, o.predB] always (fun _ t u => u = t.setPred o.predD (pa t || pb t)) ∧
    RunsOnRegisters (.pxor o) o true (fun _ => []) none [o.predD, o.predA, o.predB] always (fun _ t u => u = t.setPred o.predD (pa t != pb t)) ∧
    RunsOnRegisters (.pnot o) o true (fun _ => []) none [o.predD, o.predA] always (fun _ t u => u = t.setPred o.predD (!pa t)) ∧
    RunsOnRegisters (.pmov o) o true (fun _ => []) none [o.predD, o.predA] always (fun _ t u => u = t.setPred o.predD (pa t)) ∧
    RunsOnRegisters (.ppack o) o true (fun _ => []) (some (o.d.toNat, false)) ((List.range 32).map (· + o.predA)) always (fun _ t u =>
      ∃ v < 2 ^ 32, u = t.write o.d.toNat false (BitVec.ofNat 64 v) .pred32 ∧ ∀ j < 32, v.testBit j = t.pred (o.predA + j)) ∧
    (o.predD ≤ 96 → RunsOnRegisters (.punpk o) o true (fun _ => [o.litA false (.oneOf [.pred32, .n32])]) none
      ((List.range 32).map (· + o.predD)) always (fun _ t u =>
        u = { t with preds := u.preds } ∧ (∀ j < 32, u.pred (o.predD + j) = (o.predD + j == 0 || (valLitA o false t).testBit j)) ∧
        ∀ p < 128, (p < o.predD ∨ o.predD + 32 ≤ p) → u.pred p = t.pred p)))

/-- FADD, FSUB, FMUL and FFMA: each element is the sum, difference, product in the class that Q names, or product plus C, of
its operands' values, rounded once in the instruction's mode; C's 16-bit parts are the random numbers under SR. With no
enabled exception signalled D is written with the format's tag (R141, R142, R148). FMIN, FMAX, FABS, FNEG, FCMP and FCLASS: −0
lies below +0; a single NaN operand gives way to the other operand, or wins under PROP; FABS and FNEG act on the sign bits
alone; FCMP writes its condition, and that of element 1 or its complement, combined with PB; FCLASS writes one bit for each
element, 16 bits apart (R143, R144, R145). The value rounded is the real sum or difference, or the product of the class: exact, of B's kept
planes, or Mitchell's (R114 to R116), to which FFMA adds C exactly; zeros, infinities and NaNs as R110 and R111 say. -/
def Obligations.FloatArithmeticAndSelection : Prop :=
  (∀ (o : Enc), o.fmt .f32 ∈ Encoding.setFS →
    let f := o.fmt .f32
    let g := floatOf f
    let w := f.elemBits
    let a (t : Thread) (k : Nat) : Val := g.decode (elem w (valA o f.wide t) k)
    let b (t : Thread) (k : Nat) : Val := g.decode (elem w (valB o f.wide t) k)
    let c (t : Thread) (k : Nat) : Val := g.decode (elem w (valC o f.wide t) k)
    let srcs : Thread → List Opnd := fun _ =>
      if o.isExt && o.rm == 5 then [o.regA f.wide (.only f), o.litB f.wide (.only f), o.regC false (.only .n32)]
      else [o.regA f.wide (.only f), o.litB f.wide (.only f)]
    let random (t : Thread) (k : Nat) : Nat := bits (valC o false t) (16 * k + 15) (16 * k)
    let add (t : Thread) (k : Nat) := roundWith g (roundOf o t) (random t k) false (fpAdd (roundOf o t) (a t k) (b t k))
    let sub (t : Thread) (k : Nat) := roundWith g (roundOf o t) (random t k) false (fpSub (roundOf o t) (a t k) (b t k))
    let mul (t : Thread) (k : Nat) := roundWith g (roundOf o t) (random t k) false (fpMul (scalarClass o g.p) (a t k) (b t k))
    let fma (t : Thread) (k : Nat) := roundWith g (roundOf o t) 0 false (fpFma (scalarClass o g.p) (roundOf o t) (a t k) (b t k) (c t k))
    RunsOnRegisters (.fadd o) o true srcs (dstD o f) [] (Calm f add) (WritesRounded o f add) ∧
    RunsOnRegisters (.fsub o) o true srcs (dstD o f) [] (Calm f sub) (WritesRounded o f sub) ∧
    RunsOnRegisters (.fmul o) o false srcs (dstD o f) [] (Calm f mul) (WritesRounded o f mul) ∧
    RunsOnRegisters (.ffma o) o false (opsABC o f) (dstD o f) [] (Calm f fma) (WritesRounded o f fma)) ∧
  (∀ (o : Enc), o.fmt .f32 ∈ Encoding.setFS →
    let f := o.fmt .f32
    let g := floatOf f
    let w := f.elemBits
    let a (t : Thread) (k : Nat) : Val := g.decode (elem w (valA o f.wide t) k)
    let b (t : Thread) (k : Nat) : Val := g.decode (elem w (valB o f.wide t) k)
    let signals (t : Thread) (k : Nat) : Bool := (a t k).isSig || (b t k).isSig
    let below (x y : Val) : Bool := x.lt y || (x.isZero && y.isZero && x.neg && !y.neg)
    let pick (ordered : Val → Val → Val) (t : Thread) (k : Nat) : Nat × Exc :=
      let v := if (a t k).isNaN && (b t k).isNaN then a t k
        else if (a t k).isNaN then (if o.modBit 0 then a t k else b t k)
        else if (b t k).isNaN then (if o.modBit 0 then b t k else a t k)
        else ordered (a t k) (b t k)
      ((g.round .rne 0 false v).1, { invalid := signals t k })
    let least := pick fun x y => if below y x then y else x
    let greatest := pick fun x y => if below x y then y else x
    let code := if o.isExt then o.modBits 2 0 else 2
    let unordered (t : Thread) (k : Nat) : Bool := (a t k).isNaN || (b t k).isNaN
    let equal (t : Thread) (k : Nat) : Bool := !unordered t k && !(a t k).lt (b t k) && !(b t k).lt (a t k)
    let holds (t : Thread) (k : Nat) : Bool := match code with
      | 0 => equal t k | 1 => !equal t k
      | 2 => !unordered t k && (a t k).lt (b t k) | 3 => !unordered t k && !(b t k).lt (a t k)
      | 4 => !unordered t k && (b t k).lt (a t k) | 5 => !unordered t k && !(a t k).lt (b t k)
      | 6 => unordered t k | _ => !unordered t k
    let invalid (t : Thread) (k : Nat) : Exc :=
      { invalid := if 2 ≤ code ∧ code ≤ 5 then unordered t k else signals t k }
    let comb (t : Thread) (x : Bool) : Bool := match o.modBits 4 3 with
      | 0 => x | 1 => x && t.pred o.pb | 2 => x || t.pred o.pb | _ => x != t.pred o.pb
    RunsOnRegisters (.fmin o) o true (opsAB o f) (dstD o f) [] (Calm f least) (WritesRounded o f least) ∧
    RunsOnRegisters (.fmax o) o true (opsAB o f) (dstD o f) [] (Calm f greatest) (WritesRounded o f greatest) ∧
    RunsOnRegisters (.fabs o) o true (opsA o f) (dstD o f) [] always (fun _ t => WritesBits o f (w * f.count)
      (fun j => (valLitA o f.wide t).testBit j && j % w != w - 1) t) ∧
    RunsOnRegisters (.fneg o) o true (opsA o f) (dstD o f) [] always (fun _ t => WritesBits o f (w * f.count)
      (fun j => (valLitA o f.wide t).testBit j != (j % w == w - 1)) t) ∧
    RunsOnRegisters (.fcmp o) o true (opsAB o f) none
      (if o.isExt then (if o.modBits 4 3 = 0 then [o.pd, o.pa] else [o.pd, o.pa, o.pb]) else [o.d.toNat])
      (fun t => Quiet t ((List.range f.count).map (invalid t))) (fun _ t u =>
        u = if o.isExt then (t.setPred o.pd (comb t (holds t 0))).setPred o.pa
              (comb t (if f.count = 1 then !holds t 0 else holds t 1))
            else t.setPred o.d.toNat (holds t 0)) ∧
    RunsOnRegisters (.fclass o) o true (opsA o f) (some (o.d.toNat, false)) [] always (fun _ t u =>
      let cls (k : Nat) : Nat := match g.decode (elem w (valLitA o f.wide t) k) with
        | .nan _ s _ => if s then 0 else 1
        | .inf n => if n then 2 else 9
        | .zero n => if n then 5 else 6
        | .fin n m _ => if m < 2 ^ (g.p - 1) then (if n then 4 else 7) else if n then 3 else 8
      u = t.write o.d.toNat false (BitVec.ofNat 64 (if f.count = 1 then 2 ^ cls 0 else 2 ^ cls 0 + 2 ^ (16 + cls 1))) .n32)) ∧
  (∀ (rm : Rm) (cls : AccClass) (n n' : Bool) (m m' : Nat) (e e' : Int), 0 < m → 0 < m' →
    let x := Val.fin n m e
    let y := Val.fin n' m' e'
    let rx := realOf n m e
    let ry := realOf n' m' e'
    ((fpAdd rm x y).1.Is (rx + ry) ∧ (fpAdd rm x y).2 = false ∧ (rx + ry = 0 → (fpAdd rm x y).1 = .zero (rm == .rdn))) ∧
    ((fpSub rm x y).1.Is (rx - ry) ∧ (fpSub rm x y).2 = false ∧ (rx - ry = 0 → (fpSub rm x y).1 = .zero (rm == .rdn))) ∧
    fpAdd rm x (.zero n') = (x, false) ∧ fpAdd rm (.zero n') x = (x, false) ∧
    fpSub rm x (.zero n') = (x, false) ∧ fpSub rm (.zero n') x = (.fin (!n) m e, false) ∧
    fpAdd rm (.zero n) (.zero n') = (.zero (if n = n' then n else rm == .rdn), false) ∧
    fpSub rm (.zero n) (.zero n') = (.zero (if n = n' then rm == .rdn else n), false) ∧
    fpAdd rm (.inf n) (.inf n') = (if n = n' then (.inf n, false) else (Val.defaultNaN, true)) ∧
    fpSub rm (.inf n) (.inf n') = (if n = n' then (Val.defaultNaN, true) else (.inf n, false)) ∧
    (∀ z ∈ [y, .zero n'], fpAdd rm (.inf n) z = (.inf n, false) ∧ fpAdd rm z (.inf n) = (.inf n, false) ∧
      fpSub rm (.inf n) z = (.inf n, false) ∧ fpSub rm z (.inf n) = (.inf (!n), false)) ∧
    ((fpMul cls x y).2 = false ∧ (fpMul cls x y).1.neg = (n != n') ∧ (fpMul cls x y).1.Is (match cls with
      | .exact => rx * ry
      | .trunc p h => rx * realOf n' (m' - m' % 2 ^ (p - h)) e'
      | .log =>
        let ex : Int := Nat.log2 m + e
        let ey : Int := Nat.log2 m' + e'
        let sum : ℝ := ((m : ℝ) / 2 ^ Nat.log2 m - 1) + ((m' : ℝ) / 2 ^ Nat.log2 m' - 1)
        (if n != n' then -1 else 1) * (if sum < 1 then 2 ^ (ex + ey) * (1 + sum) else 2 ^ (ex + ey + 1) * sum))) ∧
    (∀ z ∈ [y, .zero n'], fpMul cls (.zero n) z = (.zero (n != n'), false) ∧ fpMul cls z (.zero n) = (.zero (n' != n), false)) ∧
    (∀ z ∈ [y, .inf n'], fpMul cls (.inf n) z = (.inf (n != n'), false) ∧ fpMul cls z (.inf n) = (.inf (n' != n), false)) ∧
    fpMul cls (.inf n) (.zero n') = (Val.defaultNaN, true) ∧ fpMul cls (.zero n) (.inf n') = (Val.defaultNaN, true)) ∧
  ∀ (rm : Rm) (cls : AccClass) (u v w : Val),
    (∀ op ∈ [fpAdd rm, fpSub rm, fpMul cls],
      (u.isNaN = true → op u v = (u, u.isSig || v.isSig)) ∧ (u.isNaN = false → v.isNaN = true → op u v = (v, v.isSig))) ∧
    let product := fpMul cls u v
    (∀ z, firstNaN [u, v, w] = some z → fpFma cls rm u v w =
      (z, u.isSig || v.isSig || w.isSig || (!u.isNaN && !v.isNaN && product.2))) ∧
    (firstNaN [u, v, w] = none → fpFma cls rm u v w = if product.2 then (Val.defaultNaN, true) else fpAdd rm product.1 w)

/-- FDIV, FRCP, FSQRT, FRSQ, FEXP2, FLOG2 and FSCALB write the value of their function in the class that Q names, rounded once
in the instruction's mode (R146, R147); FRCP divides 1. The special results are those of the manual's table, and a NaN operand is
passed on. In the exact class the value that is rounded lies as the real quotient, root, power or logarithm does to every number of
p + 2 bits, so that the one rounding gives the correctly rounded result (R114); in the log class it is the value of R117's formula,
exactly, or for FEXP2 one that rounds so. FSCALB's is a × 2^B. -/
def Obligations.FloatFunctions : Prop :=
  (∀ (o : Enc), o.fmt .f32 ∈ Encoding.setFS →
    let f := o.fmt .f32
    let g := floatOf f
    let w := f.elemBits
    let log := o.q == 2
    let x (t : Thread) : Val := g.decode (valLitA o f.wide t)
    let a (t : Thread) (k : Nat) : Val := g.decode (elem w (valA o f.wide t) k)
    let of (fn : Bool → Nat → Val → Special) (t : Thread) (_ : Nat) : Nat × Exc := roundSpecial g (roundOf o t) (fn log g.p (x t))
    let quotient (t : Thread) (_ : Nat) : Nat × Exc :=
      roundSpecial g (roundOf o t) (fpDiv log g.p (g.decode (valA o f.wide t)) (g.decode (valB o f.wide t)))
    let scaled (t : Thread) (k : Nat) : Nat × Exc :=
      roundWith g (roundOf o t) 0 false (scaleVal (signed 32 (valB o false t)) (a t k), (a t k).isSig)
    (f ∈ Encoding.setFX →
      RunsOnRegisters (.fdiv o) o false (opsAB o f) (dstD o f) [] (Calm f quotient) (WritesRounded o f quotient) ∧
      RunsOnRegisters (.frcp o) o false (opsA o f) (dstD o f) [] (Calm f (of fpRcp)) (WritesRounded o f (of fpRcp)) ∧
      RunsOnRegisters (.fsqrt o) o false (opsA o f) (dstD o f) [] (Calm f (of fpSqrt)) (WritesRounded o f (of fpSqrt)) ∧
      RunsOnRegisters (.frsq o) o false (opsA o f) (dstD o f) [] (Calm f (of fpRsq)) (WritesRounded o f (of fpRsq)) ∧
      RunsOnRegisters (.fexp2 o) o false (opsA o f) (dstD o f) [] (Calm f (of fpExp2)) (WritesRounded o f (of fpExp2)) ∧
      RunsOnRegisters (.flog2 o) o false (opsA o f) (dstD o f) [] (Calm f (of fpLog2)) (WritesRounded o f (of fpLog2))) ∧
    RunsOnRegisters (.fscalb o) o true (fun _ => [o.regA f.wide (.only f), o.litB false (.only .i32)]) (dstD o f) [] (Calm f scaled)
      (WritesRounded o f scaled)) ∧
  (∀ log p, SpecialResults log p) ∧
  (∀ (p : Nat) (n n' : Bool) (m m' : Nat) (e e' : Int), p ∈ [8, 11, 24, 53] → 0 < m → 0 < m' →
    let x := realOf n m e
    let y := realOf n' m' e'
    let rounds (r : Special) (z : ℝ) : Prop := r.2 = {} ∧ r.1.RoundsAs p z
    rounds (fpDiv false p (.fin n m e) (.fin n' m' e')) (x / y) ∧ rounds (fpRcp false p (.fin n m e)) (1 / x) ∧
    rounds (fpExp2 false p (.fin n m e)) ((2 : ℝ) ^ x) ∧ rounds (fpExp2 true p (.fin n m e)) (antilogOf x) ∧
    (n = false → rounds (fpSqrt false p (.fin n m e)) (Real.sqrt x) ∧ rounds (fpRsq false p (.fin n m e)) (1 / Real.sqrt x) ∧
      (m < 2 ^ p → rounds (fpLog2 false p (.fin n m e)) (Real.logb 2 x))) ∧
    let ex : Int := Nat.log2 m + e
    let ey : Int := Nat.log2 m' + e'
    let fx : ℝ := (m : ℝ) / 2 ^ Nat.log2 m - 1
    let fy : ℝ := (m' : ℝ) / 2 ^ Nat.log2 m' - 1
    let is (r : Special) (z : ℝ) : Prop := r.2 = {} ∧ r.1.Is z
    is (fpDiv true p (.fin n m e) (.fin n' m' e'))
      ((if n != n' then -1 else 1) * (if fy ≤ fx then 2 ^ (ex - ey) * (1 + (fx - fy)) else 2 ^ (ex - ey - 1) * (2 + (fx - fy)))) ∧
    fpRcp true p (.fin n m e) = fpDiv true p (.fin false 1 0) (.fin n m e) ∧
    (n = false → is (fpSqrt true p (.fin n m e)) (antilogOf ((ex + fx) / 2)) ∧ is (fpRsq true p (.fin n m e)) (antilogOf (-(ex + fx) / 2)) ∧
      is (fpLog2 true p (.fin n m e)) (ex + fx))) ∧
  ∀ (k : Int) (n : Bool) (m : Nat) (e : Int), (0 < m → (scaleVal k (.fin n m e)).Is (realOf n m e * 2 ^ k)) ∧
    scaleVal k (.zero n) = .zero n ∧ scaleVal k (.inf n) = .inf n ∧ ∀ q y, scaleVal k (.nan n q y) = .nan n q y

/-- The special results of division, roots, exponential and logarithm, and their exceptions, the same in both classes (R146).
Rounding to a grid of spacing 2^q chooses the multiple below or above in the mode's way: the nearer under RNE and RNA, a tie
to the even multiple or away from zero; toward zero, down or up; to the odd one under RTO; under SR up exactly when the
dropped fraction's top 16 bits plus the random number carry (R108). `m × 2^e` stands `r` above the lower multiple, in units of
2^e. A number of a floating-point format is its own rounding, in every mode, with nothing signalled (R108). -/
def Obligations.Rounding : Prop :=
  (∀ (log : Bool) (p : Nat), SpecialResults log p) ∧
  (∀ (random : Nat) (neg : Bool) (m s : Nat) (e : Int), 0 < s →
    let lo := m / 2 ^ s
    let r := m % 2 ^ s
    let got (rm : Rm) : Nat := (roundGrid rm random neg m e (e + s)).1
    (∀ rm, (roundGrid rm random neg m e (e + s)).2 = decide (r ≠ 0) ∧ (r = 0 → got rm = lo) ∧ (got rm = lo ∨ got rm = lo + 1)) ∧
    (r ≠ 0 → got .rtz = lo ∧ (got .rdn = if neg then lo + 1 else lo) ∧ (got .rup = if neg then lo else lo + 1) ∧
      got .rto % 2 = 1 ∧ (got .rna = if 2 * r < 2 ^ s then lo else lo + 1) ∧
      (2 * r < 2 ^ s → got .rne = lo) ∧ (2 ^ s < 2 * r → got .rne = lo + 1) ∧ (2 * r = 2 ^ s → got .rne % 2 = 0) ∧
      (got .sr = if 65536 ≤ r * 65536 / 2 ^ s + random % 65536 then lo + 1 else lo))) ∧
  (∀ g ∈ [FloatFmt.f64, .f32, .f16, .bf16, .e4m3, .e5m2, .e2m1], ∀ (x random : Nat) (rm : Rm) (sat : Bool), x < 2 ^ g.width →
    (g.decode x).isNaN = false → g.round rm random sat (g.decode x) = (x, {}))

/-- CVT and CVTS round A, in the format SF or in its own tag's, times 2^B once into D's format; PACK and QNT replace one pair
of D's elements and keep the others, QNT scaling by the E8M0 code of C, in a base form D's own register; UNPK widens one element exactly; DEQ multiplies one
element by the E8M0 code of B (R150, R151, R152). DOT2, DOT4 and DOT8 add C and the products of the elements exactly, in the
class that Q names; a float sum is rounded once into F32, an integer sum is clamped under SAT or taken modulo 2^32 (R153).
The model's choices in it: QNT under the scale code 0xFF keeps the NaN of an operand that is one (log entry 43); with SF = 0 the source
format is the operand's own tag (log entry 45); beside a NaN input of a DOT, products of 0 and ∞ signal and infinities of both signs do not
(log entry 84). -/
def Obligations.ConversionsAndDotProducts : Prop :=
  (∀ (o : Enc),
    let x := o.fmt .f32
    let p := o.fmt .bf16x2
    let q := o.fmt .e4m3x4
    let wide (f : Tag) : Tag := if f.isFloat then .f32 else if f.isSigned then .i32 else .n32
    let pair := o.modBits 1 0
    let sat := o.modBit 2
    let conv (unary : Bool) (t : Thread) (_ : Nat) : Nat × Exc :=
      let (a, sf) := cvtSource o unary t
      let v := sf.elemFmt.decode ((a.value t).toNat % 2 ^ sf.elemBits)
      let (y, e) := x.elemFmt.round (roundOf o t) 0 (o.modBit 0) (if unary then v else scaleVal (signed 32 (valB o false t)) v)
      (y, { e with invalid := e.invalid || v.isSig })
    let into (f : Tag) (g : Thread → Nat → Nat × Exc) (t : Thread) (k : Nat) : Nat × Exc :=
      if k / 2 = pair then g t (k % 2) else (elem f.elemBits (t.value o.d.toNat false).toNat k, {})
    let pack (t : Thread) (k : Nat) : Nat × Exc :=
      let v := (wide p).elemFmt.decode (if k = 0 then valA o false t else valB o false t)
      let (y, e) := p.elemFmt.round (roundOf o t) (bits (valC o false t) (16 * k + 15) (16 * k)) sat v
      (y, { e with invalid := e.invalid || v.isSig })
    let quant (t : Thread) (k : Nat) : Nat × Exc :=
      let a := FloatFmt.f32.decode (if k = 0 then valA o false t else valB o false t)
      let c := valC o false t % 256
      let v := if a.isNaN then a else if c = 255 then Val.defaultNaN else scaleVal (127 - (c : Int)) a
      let (y, e) := q.elemFmt.round (roundOf o t) 0 sat v
      (y, { e with invalid := e.invalid || a.isSig || c == 255 })
    let one (f : Tag) (v : Nat) : Val := f.elemFmt.decode (elem f.elemBits v (o.modBits 2 0))
    let scalarTag : Tag := if p = .e8m0x4 then .f32 else wide p
    let unpacked (t : Thread) : Nat × Exc :=
      ((scalarTag.elemFmt.round .rne 0 false (one p (valLitA o false t))).1, { invalid := (one p (valLitA o false t)).isSig })
    let dequantised (t : Thread) : Nat × Exc :=
      let c := valB o false t % 256
      let v := one p (valA o false t)
      roundWith .f32 (roundOf o t) 0 false (if c = 255 then (Val.defaultNaN, true) else (scaleVal ((c : Int) - 127) v, v.isSig))
    let writes (f : Tag) (r : Thread → Nat × Exc) (t u : Thread) : Prop :=
      u = t.write o.d.toNat f.wide (BitVec.ofNat 64 (r t).1) f
    let sr : List Opnd := if o.isExt && o.rm == 5 then [o.regC false (.only .n32)] else []
    (x ∈ Encoding.setX →
      RunsOnRegisters (.cvt o) o true (fun t => [(cvtSource o true t).1]) (dstD o x) [] (Calm x (conv true)) (WritesRounded o x (conv true)) ∧
      RunsOnRegisters (.cvts o) o true (fun t => [(cvtSource o false t).1, o.litB false (.only .i32)]) (dstD o x) []
        (Calm x (conv false)) (WritesRounded o x (conv false))) ∧
    (p ∈ Encoding.setNP → 2 * pair < p.count →
      RunsOnRegisters (.pack o) o true (fun _ => [o.regA false (.only (wide p)), o.litB false (.only (wide p))] ++ sr ++
        [o.regD false (.only p)]) (dstD o p) [] (Calm p (into p pack)) (WritesRounded o p (into p pack))) ∧
    (p ∈ Encoding.setNP ∨ p = .e8m0x4 →
      RunsOnRegisters (.unpk o) o true (fun _ => [o.litA false (.only p)]) (some (o.d.toNat, false)) []
        (fun t => Quiet t [(unpacked t).2]) (fun _ => writes scalarTag unpacked)) ∧
    (q ∈ Encoding.setQ → 2 * pair < q.count →
      RunsOnRegisters (.qnt o) o true (fun _ => [o.regA false (.only .f32), o.litB false (.only .f32), o.regC false (.only .e8m0x4)] ++
        if o.isExt then [o.regD false (.only q)] else []) (dstD o q) [] (Calm q (into q quant)) (WritesRounded o q (into q quant))) ∧
    (p ∈ Encoding.setNP →
      RunsOnRegisters (.deq o) o true (fun _ => [o.regA false (.only p), o.litB false (.only .e8m0x4)]) (some (o.d.toNat, false)) []
        (fun t => Quiet t [(dequantised t).2]) (fun _ => writes .f32 dequantised))) ∧
  (∀ (o : Enc),
    let vals (f : Tag) (v : Nat) : List Val := (List.range f.count).map fun k => f.elemFmt.decode (elem f.elemBits v k)
    let floats (f : Tag) (t : Thread) : Nat × Exc := roundWith .f32 (roundOf o t) 0 (o.modBit 4)
      (dotSum (dotClass o f.planes) (roundOf o t) (vals f (valA o false t)) (vals f (valB o false t)) (FloatFmt.f32.decode (valC o false t)))
    let ints (f : Tag) (v k : Nat) : Int := intOf f.isSigned f.elemBits (elem f.elemBits v k)
    let sum (f : Tag) (t : Thread) : Int := intOf f.isSigned 32 (valC o false t) +
      ((List.range f.count).map fun k => ints f (valA o false t) k * ints f (valB o false t) k).sum
    let runs (i : Instr) (f : Tag) : Prop :=
      (f.isFloat = true → RunsOnRegisters i o false (fun _ => [o.regA false (.only f), o.litB false (.only f), o.regC false (.only .f32)])
        (some (o.d.toNat, false)) [] (fun t => Quiet t [(floats f t).2])
        (fun _ t u => u = t.write o.d.toNat false (BitVec.ofNat 64 (floats f t).1) .f32)) ∧
      (f.isFloat = false →
        let g : Tag := if f.isSigned then .i32 else .n32
        let total (t : Thread) : Int :=
          if o.q = 0 then sum f t
          else intOfVal (dotSum (dotClass o f.planes) .rne (vals f (valA o false t)) (vals f (valB o false t))
            (g.elemFmt.decode (valC o false t))).1
        RunsOnRegisters i o false (fun _ => [o.regA false (.only f), o.litB false (.only f), o.regC false (.only g)])
          (some (o.d.toNat, false)) [] always (fun _ t u => u = t.write o.d.toNat false (BitVec.ofNat 64 (wrap 32
            (if o.modBit 4 then clampInt (total t) (intLow f.isSigned 32) (intHigh f.isSigned 32) else total t))) g))
    (o.fmt .f16x2 ∈ [Tag.f16x2, .bf16x2, .i16x2, .n16x2] → runs (.dot2 o) (o.fmt .f16x2)) ∧
    (o.fmt .e4m3x4 ∈ [Tag.e4m3x4, .e5m2x4, .i8x4, .n8x4] → runs (.dot4 o) (o.fmt .e4m3x4)) ∧
    (o.fmt .e2m1x8 ∈ [Tag.e2m1x8, .i4x8] → runs (.dot8 o) (o.fmt .e2m1x8)))

/-- RNG writes kmix of key A, counter B and the stream; RNGU its top 24 bits times 2^−24, which is exact; bit j of RMASK's D
is set exactly when kmix at counter B + j modulo 2^64 lies below C (R154, R155). kmix as the manual's four rounds on 64-bit
blocks (R118). -/
def Obligations.RandomNumbers : Prop :=
  (∀ (o : Enc),
    let stream := o.w2Bits 15 0
    let key := valA o true
    let ctr := valB o true
    let srcs := [o.regA true (.oneOf [.n64, .i64]), o.litB true (.oneOf [.n64, .i64])]
    let d := some (o.d.toNat, false)
    RunsOnRegisters (.rng o) o true (fun _ => srcs) d [] always (fun _ t u =>
      u = t.write o.d.toNat false (BitVec.ofNat 64 (kmix (key t) (ctr t) stream)) .n32) ∧
    RunsOnRegisters (.rngu o) o true (fun _ => srcs) d [] always (fun _ t u =>
      ∃ v : Nat, u = t.write o.d.toNat false (BitVec.ofNat 64 v) .f32 ∧ v < 2 ^ 31 ∧
        (FloatFmt.f32.decode v).mantAt (-149) = ((kmix (key t) (ctr t) stream / 256 * 2 ^ 125 : Nat) : Int)) ∧
    RunsOnRegisters (.rmask o) o true (fun _ => srcs ++ [o.regC false (.only .n32)]) d [] always (fun _ t u =>
      ∃ v < 2 ^ 32, u = t.write o.d.toNat false (BitVec.ofNat 64 v) .pred32 ∧
        ∀ j < 32, v.testBit j = decide (kmix (key t) ((ctr t + j) % 2 ^ 64) stream < valC o false t))) ∧
  (∀ (key ctr : BitVec 64) (stream : BitVec 16),
    let lo (x : BitVec 64) : BitVec 32 := x.setWidth 32
    let hi (x : BitVec 64) : BitVec 32 := (x >>> 32).setWidth 32
    let first (i : Nat) (x : BitVec 64) : BitVec 32 := (lo x ^^^ lo key ^^^ BitVec.ofNat 32 (i * 0x7A3B5C1D)) * 0xB5E194C7#32
    let mixed (i : Nat) (x : BitVec 64) : BitVec 32 := ((first i x ^^^ (first i x >>> 13)) * 0x2D6FA389#32) ^^^ hi key
    let round (i : Nat) (x : BitVec 64) : BitVec 64 := lo x ++ (hi x ^^^ mixed i x)
    let x := round 3 (round 2 (round 1 (round 0 (ctr ^^^ (stream.setWidth 64 <<< 48)))))
    kmix key.toNat ctr.toNat stream.toNat = (lo x ^^^ hi x).toNat)

/-- NOP does nothing, REGION sets the region mode (tolerant only outside deterministic mode), IDEM opens a region at the next
instruction and IDEM.end closes it (R334, R335, R336). -/
def Obligations.Markers : Prop :=
  ∀ (o : Enc),
    let next (t : Thread) : DWord := t.pc + BitVec.ofNat 64 o.bytes
    let plain (i : Instr) (g : Thread → Thread) : Prop := RunsOnRegisters i o true (fun _ => []) none [] always (fun _ t u => u = g t)
    plain (.nop o) (fun t => t) ∧ plain (.regionExact o) (fun t => { t with region := 0 }) ∧
    plain (.regionChecked o) (fun t => { t with region := 1 }) ∧
    RunsWhen (fun s cur => (s.hdrOf cur.core cur.slot).det = false) (.regionTolerant o) o true (fun _ => []) none [] always
      (fun _ t u => u = { t with region := 2 }) ∧
    plain (.idem o) (fun t => t.setRegion (next t)) ∧ plain (.idemEnd o) (fun t => t.setRegion 0)

/-- What stands between a lane and its instruction, in the manual's order: an empty source that traps, an empty register or a
predicate to wait for, an operand of a tag the instruction does not take (R64, R90). A lane that traps on its operands or on
an enabled arithmetic exception writes nothing and stands at its handler, with the cause and its region mode in TCAUSE, the
instruction's address in TPC, S mode and exact mode; stated for FADD and FDIV of one lane. TINFO of ARITH holds the union of
the exceptions and the elements that signalled an enabled one (R148, R375). -/
def Obligations.OperandChecksAndLaneTraps : Prop :=
  (∀ (t : Thread) (srcs : List Opnd) (dst : Option (Nat × Bool)) (preds : List Nat),
    let isEmpty (r : Nat) : Prop := (t.reg r).full = false
    let traps (x : Opnd) (r : Nat) : Prop := ∃ code a wide want, x = .reg code a wide true want ∧ r ∈ x.regs
    let blocked : Prop := (∃ x ∈ srcs, ∃ r ∈ x.regs, isEmpty r) ∨ (∃ r ∈ dstRegs dst, isEmpty r) ∨ ∃ p ∈ preds, p ∈ t.predWait
    let strange (x : Opnd) : Prop := match x with
      | .reg _ r wide _ want => want.ok (t.tag r wide) = false
      | .lit _ _ want => want.ok .raw = false
    ((∃ n, operandFate t srcs dst preds = .trap { cause := 0x05, info := n }) ↔ ∃ x ∈ srcs, ∃ r, traps x r ∧ isEmpty r) ∧
    ((∃ ns, operandFate t srcs dst preds = .wait ns) ↔ blocked ∧ ∀ x ∈ srcs, ∀ r, traps x r → ¬ isEmpty r) ∧
    ((∃ n, operandFate t srcs dst preds = .trap { cause := cFormat, info := n }) ↔ ¬ blocked ∧ ∃ x ∈ srcs, strange x) ∧
    (operandFate t srcs dst preds = .ready ↔ ¬ blocked ∧ ∀ x ∈ srcs, ¬ strange x)) ∧
  (∀ (o : Enc) (s : State) (cur : Cur) (c : Crew) (l : Nat), o.fmt .f32 ∈ Encoding.setFS → o.rm ≠ 5 → AtHand s cur c → cur.lanes = [l] →
    (s.hdrOf cur.core cur.slot).pair = false →
    let t := c.thread l
    let f := o.fmt .f32
    let g := floatOf f
    let val (v k : Nat) : Val := g.decode (elem f.elemBits v k)
    let sums : List Exc := (List.range f.count).map fun k =>
      (roundWith g (roundOf o t) (bits (valC o false t) (16 * k + 15) (16 * k)) false (fpAdd (roundOf o t) (val (valA o f.wide t) k) (val (valB o f.wide t) k))).2
    let quotient : List Exc :=
      [(roundSpecial g (roundOf o t) (fpDiv (o.q == 2) g.p (g.decode (valA o f.wide t)) (g.decode (valB o f.wide t)))).2]
    let enabled (e : Exc) : Bool := e.toNat &&& bits t.rnd.toNat 12 8 != 0
    let entered (r : Trap) : State := s.setCrew cur.core cur.slot (some (c.setThread l
      { t with tcause := BitVec.ofNat 32 (t.region.toNat * 2 ^ 10 + r.cause), tpc := cur.pc, tinfo := BitVec.ofNat 32 r.info,
               taddr := r.addr, priv := true, region := 0, pc := t.tvec + BitVec.ofNat 64 (64 * r.cause), st := .runnable, age := 0,
               mark := none, watching := false }))
    let arith (i : Instr) (es : List Exc) : Prop := es.any enabled = true →
      ∃ info < 2 ^ 16, exec i s = .next (entered { cause := 0x0E, info }) ∧ info % 256 = (es.foldl Exc.or {}).toNat ∧
        ∀ k < 8, info.testBit (8 + k) = (match es[k]? with | some e => enabled e | none => false)
    t.handles = true → (∀ short, (∀ p ∈ o.guardPreds short, p ∉ t.predWait)) →
      (o.guard true t = true →
        (∀ r, operandFate t (opsAB o f t) (dstD o f) [] = .trap r → r.next = false → exec (.fadd o) s = .next (entered r)) ∧
        (operandFate t (opsAB o f t) (dstD o f) [] = .ready → arith (.fadd o) sums)) ∧
      (o.guard false t = true → f ∈ Encoding.setFX → operandFate t (opsAB o f t) (dstD o f) [] = .ready → arith (.fdiv o) quotient))

/-! Cross-lane instructions and JOIN (08, 16). -/

/-- VOTE, ELECT and MATCH over S(l): a ballot, or whether all, any or equally many lanes' predicates are 1; the lowest-indexed
member; the members whose A has the same bits (R157, R158, R163, R167). JOIN ends when every lane it names has arrived (R331).
SHFL reads A of the lane that its mode and B name, if that lane is a member, else 0 tagged RAW; PD says which. REDL combines A
over S(l) in the tree of positions, SCANL folds from the left over the members up to its own lane, or below it, with the
operation's identity for none; with no enabled exception signalled D is written with the format's tag (R164, R165, R166). First where
the lanes come in one bundle outside paired-lane mode. Then in general: lanes of a bundle arrive with what they bring and wait, their
shadows in an instance of their own (R161); once every lane that a contributor names has arrived or exited, each contributor and its
shadow receive the result of their own instance and go on (R157, R158); and those results, with the trap of a lane's own combines (R168). -/
def Obligations.BallotsShufflesReductions : Prop :=
  (∀ (o : Enc),
    let m := o.litB false (.oneOf [.n32, .i32, .pred32])
    let mask := valB o false
    let free : Crew → List Nat → Nat → Prop := fun _ _ _ => True
    let f := o.fmt .n32
    let votes (c : Crew) (ms : List Nat) : List Nat := ms.filter fun j => (c.thread j).pred o.predA
    (o.modBits 1 0 = 0 → Completes (.vote o) o [m] (some (o.d.toNat, false)) [o.predA] mask free fun c ms _ t =>
      t.write o.d.toNat false (BitVec.ofNat 64 ((votes c ms).map (2 ^ ·)).sum) .pred32) ∧
    (o.modBits 1 0 ≠ 0 → Completes (.vote o) o [m] none [o.predA, o.pd] mask free fun c ms _ t =>
      t.setPred o.pd (match o.modBits 1 0 with
        | 1 => (votes c ms).length == ms.length
        | 2 => (votes c ms).length != 0
        | _ => (votes c ms).length == 0 || (votes c ms).length == ms.length)) ∧
    Completes (.elect o) o [m] none [o.predD] mask free (fun _ ms l t => t.setPred o.predD (ms.head? == some l)) ∧
    Completes (.matchL o) o [o.regA f.wide (.only f), m] (some (o.d.toNat, false)) [o.pd] mask free (fun c ms _ t =>
      let same := ms.filter fun j => valA o f.wide (c.thread j) == valA o f.wide t
      (t.write o.d.toNat false (BitVec.ofNat 64 ((same.map (2 ^ ·)).sum)) .pred32).setPred o.pd (same.length == ms.length)) ∧
    Completes (.join o) o [m] none [] mask free (fun _ _ _ t => t)) ∧
  (∀ (o : Enc),
    let m := o.litB false (.oneOf [.n32, .i32, .pred32])
    let r := o.fmt .raw
    let f := o.fmt .i32
    let every := !o.isExt || o.modBit 2
    let a := o.regA r.wide (moveWant r false)
    let b := o.litB false countTags
    let source (t : Thread) (l : Nat) : Int := match o.modBits 1 0 with
      | 0 => valB o false t
      | 1 => (l : Int) - valB o false t
      | 2 => (l : Int) + valB o false t
      | _ => ((l ^^^ valB o false t : Nat) : Int)
    let rm (t : Thread) : Rm := rmOf (if o.isExt then o.rm.toNat else 7) t.rnd
    let part (c : Crew) (j : Nat) : Nat := valA o f.wide (c.thread j) % 2 ^ f.elemBits
    let tree (c : Crew) (ms : List Nat) (t : Thread) : Option Nat × Exc :=
      treeReduce (laneCombine (o.modBits 2 0) f (rm t)) 5 ((List.range 32).map fun j => if ms.contains j then some (part c j) else none)
    let before (ms : List Nat) (l : Nat) : List Nat := ms.filter fun j => decide (j < l) || (j == l && !o.modBit 3)
    let fold (c : Crew) (ms : List Nat) (l : Nat) (t : Thread) : Nat × Exc := match before ms l with
      | [] => (laneIdentity (o.modBits 2 0) f, {})
      | j :: js => js.foldl (fun acc k =>
          let z := laneCombine (o.modBits 2 0) f (rm t) acc.1 (part c k)
          (z.1, acc.2.or z.2)) (part c j, {})
    (r ∈ Encoding.setNoHandle →
      Completes (.shfl o) o (if every then [a, b] else [a, b, o.regC false (.oneOf [.n32, .i32, .pred32])])
        (some (o.d.toNat, r.wide)) [o.pd] (fun t => if every then 2 ^ 32 - 1 else valC o false t) (fun _ _ _ => True)
        fun c ms l t =>
          match ms.find? fun (j : Nat) => (j : Int) == source t l with
          | some j => (t.write o.d.toNat r.wide ((c.thread j).value o.a.toNat r.wide)
              (if r = .raw then (c.thread j).tag o.a.toNat r.wide else r)).setPred o.pd true
          | none => (t.write o.d.toNat r.wide 0 .raw).setPred o.pd false) ∧
    (f ∈ Encoding.setX →
      Completes (.redl o) o [o.regA f.wide (.only f), m] (some (o.d.toNat, f.wide)) [] (valB o false)
        (fun c ms l => Quiet (c.thread l) [(tree c ms (c.thread l)).2])
        (fun c ms _ t => t.write o.d.toNat f.wide (BitVec.ofNat 64 ((tree c ms t).1.getD 0)) f) f ∧
      Completes (.scanl o) o [o.regA f.wide (.only f), m] (some (o.d.toNat, f.wide)) [] (valB o false)
        (fun c ms l => Quiet (c.thread l) [(fold c ms l (c.thread l)).2])
        (fun c ms l t => t.write o.d.toNat f.wide (BitVec.ofNat 64 (fold c ms l t).1) f) f)) ∧
  (∀ (o : Enc),
    let m := o.litB false maskTags
    let mask (t : Thread) : Word := (m.value t).setWidth 32
    let named (p : Nat) : List Nat := if p = 0 then [] else [p]
    let ballot := o.modBits 1 0 = 0
    let r := o.fmt .raw
    let every := !o.isExt || o.modBit 2
    let b := o.litB false countTags
    let some3 := o.regC false maskTags
    let reads (f : Tag) (t : Thread) : Brings :=
      { mask := mask t, a := (o.regA f.wide (.only f)).value t, atag := (o.regA f.wide (.only f)).tag t }
    let reduces (f : Tag) : List Opnd := [o.regA f.wide (.only f), m]
    Arrives (.vote o) 0x60 o [m] (if ballot then some (o.d.toNat, false) else none) (o.predA :: if ballot then [] else named o.pd)
      (fun t => { mask := mask t, pa := t.pred o.predA }) ∧
    Arrives (.shfl o) 0x61 o (o.regA r.wide (moveWant r false) :: b :: if every then [] else [some3]) (some (o.d.toNat, r.wide)) (named o.pd)
      (fun t => { mask := if every then 0xFFFFFFFF else (some3.value t).setWidth 32, a := (o.regA r.wide (moveWant r false)).value t,
                  atag := (o.regA r.wide (moveWant r false)).tag t, b := (b.value t).setWidth 32 }) ∧
    Arrives (.redl o) 0x62 o (reduces (o.fmt .i32)) (some (o.d.toNat, (o.fmt .i32).wide)) [] (reads (o.fmt .i32)) ∧
    Arrives (.scanl o) 0x63 o (reduces (o.fmt .i32)) (some (o.d.toNat, (o.fmt .i32).wide)) [] (reads (o.fmt .i32)) ∧
    Arrives (.elect o) 0x64 o [m] none (named o.predD) (fun t => { mask := mask t }) ∧
    Arrives (.matchL o) 0x65 o (reduces (o.fmt .n32)) (some (o.d.toNat, false)) (named o.pd) (reads (o.fmt .n32)) ∧
    Arrives (.join o) 0x74 o [m] none [] (fun t => { mask := mask t })) ∧
  (∀ (s : State) (b sl : Nat) (c : Crew) (i : Instance) (js : List Instance), s.crew b sl = some c → c.xl = i :: js → i.shadow = false →
    let pair := (s.hdrOf b sl).pair
    let next := i.pc + BitVec.ofNat 64 i.enc.bytes
    (if pair then ∃ j, js = [j] ∧ j.shadow = true ∧ j.pc = i.pc ∧ j.opc = i.opc ∧ j.enc = i.enc ∧
        j.arrivals.map Arrival.lane = i.arrivals.map (fun a => a.lane + 1) ∧ i.arrivals.all (fun a => a.lane % 2 == 0) = true
      else js = []) →
    i.passed = [] → i.owed = [] → (i.arrivals.map Arrival.lane).Nodup →
    (∀ a ∈ i.arrivals, a.lane < 32 ∧ (a.contrib = true → ∀ v < nlane pair, a.mask.getLsbD v = true →
      (∃ z ∈ i.arrivals, visible pair z.lane = v) ∨ (c.thread (if pair then 2 * v else v)).st = .exited)) →
    let gives (k : Instance) (a : Arrival) : Thread :=
      let t := c.thread a.lane
      { (if i.opc = 0x74 then t else t.receive i.enc.d.toNat i.wide (k.result pair t.rnd a)) with pc := next, st := .runnable, age := 0, mark := none }
    (∀ a ∈ i.arrivals, a.contrib = true → (c.thread a.lane).pc = i.pc ∧ (c.thread a.lane).st = (if i.opc = 0x74 then .waitJoin else .waitXl) ∧
      (c.thread a.lane).haltMark = false ∧ (c.thread a.lane).stepMark = false ∧
      ∀ k ∈ i :: js, ∀ z ∈ k.arrivals, z.lane = a.lane ∨ z.lane = a.lane + 1 →
        i.opc ≠ 0x74 → (k.result pair (c.thread z.lane).rnd z).trap = none) →
    ∃ c' : Crew, s.settle b sl = (s.setCrew b sl (some c')).vectorGave b sl (if i.opc = 0x62 ∨ i.opc = 0x63 then i.fmt else .raw)
        ((i.arrivals.filter fun a => a.contrib).map Arrival.lane) i.enc.d.toNat ∧ c'.xl = [] ∧
      (∀ l < 32, (∀ k ∈ i :: js, ∀ z ∈ k.arrivals, z.lane ≠ l) → (c.thread l).pc ≠ i.pc → c'.thread l = c.thread l) ∧
      ∀ a ∈ i.arrivals, a.contrib = true → c'.thread a.lane = gives i a ∧
        ∀ j ∈ js, ∀ z ∈ j.arrivals, z.lane = a.lane + 1 → c'.thread z.lane = gives j z) ∧
  ∀ (i : Instance) (pair : Bool) (rnd : Word) (a : Arrival),
    let e := i.enc
    let ms := i.arrivals.filter fun m => m.contrib && a.mask.getLsbD (visible pair m.lane)
    let vis (m : Arrival) : Nat := visible pair m.lane
    let is (reg : Option (DWord × Tag)) (pred : Option (Nat × Bool)) : Prop := i.result pair rnd a = { reg, pred }
    let lanes (v : Nat) (p : Arrival → Bool) : Prop := ∀ n, v.testBit n = ms.any fun m => p m && vis m == n
    (i.opc = 0x60 →
      (e.modBits 1 0 = 0 → ∃ v, is (some (BitVec.ofNat 64 v, .pred32)) none ∧ lanes v fun m => m.pa) ∧
      (e.modBits 1 0 ≠ 0 → ∃ v, is none (some (e.pd, v)) ∧ (v = true ↔ match e.modBits 1 0 with
        | 1 => ∀ m ∈ ms, m.pa = true
        | 2 => ∃ m ∈ ms, m.pa = true
        | _ => ∀ m ∈ ms, ∀ n ∈ ms, m.pa = n.pa))) ∧
    (i.opc = 0x61 →
      let source : Int := match e.modBits 1 0 with
        | 0 => a.b.toNat
        | 1 => (vis a : Int) - a.b.toNat
        | 2 => (vis a : Int) + a.b.toNat
        | _ => ((vis a ^^^ a.b.toNat : Nat) : Int)
      ((¬ (0 ≤ source ∧ source < nlane pair) ∨ ∀ m ∈ ms, (vis m : Int) ≠ source) → is (some (0, .raw)) (some (e.pd, false))) ∧
      ∀ m ∈ ms, (∀ n ∈ ms, vis n = vis m → n = m) → (vis m : Int) = source → source < nlane pair →
        is (some (m.a, if i.fmt = .raw then m.atag else i.fmt)) (some (e.pd, true))) ∧
    (i.opc = 0x64 → is none (some (if e.isExt then e.pd else e.d.toNat, (ms.foldl (fun k m => min k (vis m)) 32) == vis a))) ∧
    (i.opc = 0x65 → ∃ v, is (some (BitVec.ofNat 64 v, .pred32)) (some (e.pd, ms.all fun m => m.a == a.a)) ∧ lanes v fun m => m.a == a.a) ∧
    (i.opc = 0x62 ∨ i.opc = 0x63 →
      let f := i.fmt
      let g := laneCombine (e.modBits 2 0) f (rmOf (if e.isExt then e.rm.toNat else 7) rnd)
      let at_ (n : Nat) : Option Nat := (ms.find? fun m => vis m == n).map fun m => m.a.toNat % 2 ^ f.elemBits
      let r : Nat × Exc := if i.opc = 0x62 then
          let z := treeReduce g 5 ((List.range 32).map at_)
          (z.1.getD 0, z.2)
        else match (List.range 32).filterMap fun n => if n < vis a ∨ (n = vis a ∧ e.modBit 3 = false) then at_ n else none with
          | [] => (laneIdentity (e.modBits 2 0) f, {})
          | v :: vs => vs.foldl (fun (y : Nat × Exc) w => ((g y.1 w).1, y.2.or (g y.1 w).2)) (v, {})
      (r.2.toNat &&& bits rnd.toNat 12 8 = 0 → is (some (BitVec.ofNat 64 r.1, f)) none) ∧
      (r.2.toNat &&& bits rnd.toNat 12 8 ≠ 0 → i.result pair rnd a = { trap := some { cause := 0x0E, info := r.2.toNat } }))

/-! Control flow, handles and special registers (05, 16, 19). -/

/-- BRA moves the PC by the signed offset of its form; CALL also writes the next address, an ADDR, to the link pair; BRX and
RET set the PC to a register pair that is a multiple of 4 (R327, R329, R330). -/
def Obligations.Branches : Prop :=
  ∀ (o : Enc),
    let off : DWord := match o.form with
      | .base => BitVec.ofInt 64 (o.off18.toInt * 4)
      | .ext => BitVec.ofInt 64 o.w2.toInt
      | _ => o.literal
    let next (t : Thread) : DWord := t.pc + BitVec.ofNat 64 o.bytes
    let link := if o.isExt then o.d.toNat else 62
    let target (t : Thread) : DWord := t.value o.a.toNat true
    LanesGoOn (.bra o) o false true [] none [] (fun _ _ _ => True) (fun _ _ u => u) (fun _ _ t => t.pc + off) ∧
    LanesGoOn (.call o) o false true [] (some (link, true)) [] (fun _ _ _ => True)
      (fun s x u => u.write link true (next (s.laneThread x)) .addr) (fun _ _ t => t.pc + off) ∧
    LanesGoOn (.brx o) o false true [o.regA true (.only .addr)] none [] (fun _ _ t => (target t).toNat % 4 = 0) (fun _ _ u => u)
      (fun _ _ => target) ∧
    LanesGoOn (.ret o) o false true [o.regA true (.only .addr)] none [] (fun _ _ t => (target t).toNat % 4 = 0) (fun _ _ u => u)
      (fun _ _ => target)

/-- TRAP stands at its handler with the code in TINFO and TPC at the next instruction; EXIT of a lane that owes no failure
ends the lane, drops what it was still to receive and closes its region; YIELD stands back for four issue slots or, in
deterministic mode, gives the turn on (R332, R333, R334, R375). -/
def Obligations.TrapExitYield : Prop :=
  ∀ (o : Enc) (s : State) (cur : Cur) (c : Crew) (l : Nat), Alone s cur c l o true [] none [] →
    let x : Lane := ⟨cur.core, cur.slot, l⟩
    let t := c.thread l
    let next := cur.pc + BitVec.ofNat 64 o.bytes
    let code := if o.isExt then o.w2.toNat else o.off18.toNat
    (t.handles = true → exec (.trap o) s = .next ((s.onThread x fun t =>
      { t with tcause := BitVec.ofNat 32 (t.region.toNat * 2 ^ 10 + 0x23), tpc := next, tinfo := BitVec.ofNat 32 code, taddr := 0,
               priv := true, region := 0, pc := t.tvec + 64 * 0x23, st := .runnable, age := 0, mark := none, watching := false }).settle x.core x.slot)) ∧
    (s.failureOf x [1, 2, 3, 4, 5, 6] = none → exec (.exit o) s =
      .next (((s.dropProducers x).onThread x fun t => { t with st := .exited, age := 0, regionPc := 0 }).settle x.core x.slot)) ∧
    (∀ u : State, (u.hdrOf x.core x.slot).det = false → u.detSwitch x.core x.slot = u) ∧
    exec (.yield o) s = .next ((if (s.hdrOf x.core x.slot).det then (s.onward x next).detSwitch x.core x.slot
      else (s.onThread x fun t => { t with yielded := 4 }).onward x next))

/-- WAITH of an ended operation that owes the lane nothing acquires, writes the completion word as N32 and frees the slot;
TESTH says whether the operation has ended; CANCH frees an ended slot and leaves a free one; HTAG writes the value tagged
HANDLE. A value that names no operation of the team traps HANDLE_INVALID (R337 to R341, R292). -/
def Obligations.Handles : Prop :=
  ∀ (o : Enc),
    let h : Opnd := .reg 1 o.a.toNat false o.wa (.among [.handle])
    let value (t : Thread) : Nat := (t.value o.a.toNat false).toNat % 2 ^ 32
    let names (s : State) (x : Lane) (t : Thread) (k : Nat) : Prop :=
      k = bits (value t) 25 16 ∧ ∃ tm, s.teamOf x.core x.slot = some tm ∧ tm.id ≠ 0 ∧ (s.handle x.core k).team = tm.id ∧
        (s.handle x.core k).gen = bits (value t) 15 0 ∧ 1 ≤ bits (value t) 31 26 ∧ bits (value t) 31 26 ≤ 6
    let owed (s : State) (x : Lane) (k : Nat) : Prop :=
      (s.handle x.core k).slot = x.slot ∧ (s.handle x.core k).lane = x.lane ∧ (s.handle x.core k).fail.isSome
    LanesGoOn (.testh o) o false true [h] none [o.predD]
      (fun s x t => ∃ k, names s x t k ∧ ¬ owed s x k)
      (fun s x u => u.setPred o.predD ((s.handle x.core (bits (value (s.laneThread x)) 25 16)).st != .pending))
      (fun _ _ t => t.pc + BitVec.ofNat 64 o.bytes) ∧
    LanesGoOn (.htag o) o false true [.reg 1 o.a.toNat false o.wa (.only .n32)] (some (o.d.toNat, false)) []
      (fun s x t => ∃ k, names s x t k)
      (fun s x u => u.write o.d.toNat false ((s.laneThread x).value o.a.toNat false) .handle)
      (fun _ _ t => t.pc + BitVec.ofNat 64 o.bytes) ∧
    ∀ (s : State) (cur : Cur) (c : Crew) (l k : Nat),
      let x : Lane := ⟨cur.core, cur.slot, l⟩
      let t := c.thread l
      let e := s.handle x.core k
      let next := cur.pc + BitVec.ofNat 64 o.bytes
      (Alone s cur c l o true [h] (some (o.d.toNat, false)) [] → names s x t k → e.st = .ended → e.fail = none →
        (o.modBit 0 = true → bits e.word.toNat 31 29 ≠ 3) →
        exec (.waith o) s = .next ((((s.acquire x.core).onThread x fun t => t.write o.d.toNat false (e.word.setWidth 64) .n32).freeSlot
          x.core k).onward x next)) ∧
      (Alone s cur c l o true [h] none [] → names s x t k →
        (e.st = .free → exec (.canch o) s = .next (s.onward x next)) ∧
        (e.st = .ended → e.fail = none → exec (.canch o) s = .next ((s.freeSlot x.core k).wakeAll.onward x next)) ∧
        (e.st = .pending → exec (.canch o) s = .next ((s.cancel x.core k).wakeAll.onward x next))) ∧
      ∀ i srcs dst preds, (i, srcs, dst, preds) ∈ [(Instr.waith o, [h], some (o.d.toNat, false), []), (.testh o, [h], none, [o.predD]),
          (.canch o, [h], none, []), (.htag o, [.reg 1 o.a.toNat false o.wa (.only .n32)], some (o.d.toNat, false), [])] →
        Alone s cur c l o true srcs dst preds → (∀ k, ¬ names s x t k) → t.handles = true →
        exec i s = .next ((s.onThread x fun t => t.enterTrap { cause := 0x10, info := value t } cur.pc).settle x.core x.slot)

/-- SREAD writes the register's value with its tag; CLK waits for no destination and writes CYCLE as N64; SWRITE of a register
of the thread replaces it whole where no reserved field is set, one of the supervisor's only in S mode (R95, R98, R99, R369).
The values SREAD gives: the lane and crew, work identifier and indices, SPCAP, the partition, CYCLE, MODE, RNDMODE, REGIONPC,
the registers a trap saves into, CR_TARGET and CR_COUNT, FINJ in S mode (zero in U mode) and the words of the tile registers
(R95). SWRITE of CR_TARGET, of FINJ in S mode, and of a word of a tile register replaces that register or word alone (R98, R244); a
register of the supervisor's traps PRIV in U mode. -/
def Obligations.SpecialRegisters : Prop :=
  (∀ (o : Enc),
    let next (_ : State) (_ : Lane) (t : Thread) : DWord := t.pc + BitVec.ofNat 64 o.bytes
    let r := Encoding.srnRead o
    let w := Encoding.srnWrite o
    let v (t : Thread) : DWord := if o.hasLit then o.litVal (Encoding.srWide w) else t.value o.a.toNat (Encoding.srWide w)
    let writes (srn : Nat) (g : DWord → Thread → Thread) : Prop := w = srn → o.modBit 0 = false →
      LanesGoOn (.swrite o) o ((Encoding.srInfo w).any fun i => i.access == .rwS) true [] none []
        (fun _ _ t => operandFate t [o.litA (Encoding.srWide w) (.only (srTag w))] none [] = .ready ∧ srBad w (v t).toNat = none)
        (fun s x u => g (v (s.laneThread x)) u) next
    LanesGoOn (.sread o) o false true [] (some (o.d.toNat, Encoding.srWide r)) [] (fun _ _ _ => True)
      (fun s x u => u.write o.d.toNat (Encoding.srWide r) (s.srRead x (s.laneThread x).priv r) (srTag r)) next ∧
    LanesGoOn (.clk o) o false true [] none [] (fun _ _ t => (∀ q < 64, (t.reg q).full = true) ∧ t.predWait = [])
      (fun s _ u => u.write o.d.toNat true (BitVec.ofNat 64 s.cycle) .n64) next ∧
    writes 0x021 (fun v u => { u with rnd := v.setWidth 32 }) ∧ writes 0x030 (fun v u => { u with tcause := v.setWidth 32 }) ∧
    writes 0x031 (fun v u => { u with tpc := v }) ∧ writes 0x032 (fun v u => { u with taddr := v }) ∧
    writes 0x033 (fun v u => { u with tinfo := v.setWidth 32 }) ∧ writes 0x034 (fun v u => { u with tvec := v }) ∧
    ∀ (s : State) (cur : Cur) (c : Crew) (l : Nat), Alone s cur c l o true [] none [] →
      let t := c.thread l
      let x : Lane := ⟨cur.core, cur.slot, l⟩
      let sOnly := (Encoding.srInfo w).any fun i => i.access == .rwS
      let goes (u : State) : State := u.onward x (cur.pc + BitVec.ofNat 64 o.bytes)
      (sOnly = true → t.priv = false → t.handles = true → exec (.swrite o) s = .next ((s.onThread x fun t =>
        t.enterTrap { cause := 0x03, info := 0xE1, addr := cur.pc } cur.pc).settle x.core x.slot)) ∧
      ((sOnly = true → t.priv = true) → operandFate t [o.litA (Encoding.srWide w) (.only (srTag w))] none [] = .ready → srBad w (v t).toNat = none →
        (w = 0x040 → exec (.swrite o) s = .next (goes (s.modCore x.core fun k => { k with crTarget := (v t).setWidth 32 }))) ∧
        (w = 0x042 → exec (.swrite o) s = .next (goes (s.modCore x.core fun k => { k with finj := (v t).setWidth 32 }))) ∧
        (0x100 ≤ w → w ≤ 0x13F → ∃ tiles, exec (.swrite o) s = .next (goes (s.setCrew x.core x.slot (some { c with tiles }))) ∧
          ∀ k < 16, ∀ j < 4, (({ c with tiles } : Crew).tile k).toNat / 2 ^ (32 * j) % 2 ^ 32 =
            if 0x100 + 4 * k + j = w then (v t).toNat % 2 ^ 32 else (c.tile k).toNat / 2 ^ (32 * j) % 2 ^ 32))) ∧
  (∀ (s : State) (x : Lane) (c : Crew) (m : Bool), s.crew x.core x.slot = some c →
    let t := c.thread x.lane
    let h := s.hdrOf x.core x.slot
    let n (v : Nat) : DWord := BitVec.ofNat 64 v
    let rd := s.srRead x m
    rd 0x000 = n (if h.pair then x.lane / 2 else x.lane) ∧ rd 0x002 = n (if h.pair then 16 else 32) ∧
    rd 0x011 = n (if (s.die (x.core / 40)).sram then 65536 else 32768) ∧ rd 0x012 = n (s.partOf x.core) ∧ rd 0x018 = n s.cycle ∧
    rd 0x020 = n (t.region.toNat + 16 * t.priv.toNat + 32 * h.det.toNat + 64 * h.pair.toNat + 128 * h.thr.toNat) ∧
    rd 0x021 = t.rnd.setWidth 64 ∧ rd 0x022 = t.regionPc ∧ rd 0x030 = t.tcause.setWidth 64 ∧ rd 0x031 = t.tpc ∧ rd 0x032 = t.taddr ∧
    rd 0x033 = t.tinfo.setWidth 64 ∧ rd 0x034 = t.tvec ∧ rd 0x040 = (s.core x.core).crTarget.setWidth 64 ∧
    rd 0x041 = (s.core x.core).crCount.setWidth 64 ∧ rd 0x042 = (if m then (s.core x.core).finj.setWidth 64 else 0) ∧
    (∀ k < 16, ∀ i < 4, rd (0x100 + 4 * k + i) = n ((c.tile k).toNat / 2 ^ (32 * i) % 2 ^ 32)) ∧
    (∀ tm ln, s.teamOf x.core x.slot = some tm → s.launch tm.part tm.launch = some ln →
      rd 0x001 = n c.idx ∧ rd 0x003 = n (ln.hdr.wid (s.f0 x) tm.l % 2 ^ 32) ∧ rd 0x004 = n (ln.hdr.wid (s.f0 x) tm.l / 2 ^ 32) ∧
      rd 0x008 = n (s.f0 x) ∧ (∀ k < 5, rd (0x009 + k) = n ((ln.hdr.fields tm.l).getD k 0)) ∧ rd 0x00E = n ln.patch ∧
      rd 0x010 = n ln.coreCnt ∧ ∀ k < 16, rd (0x050 + k) = n (ln.hdr.splits.getD k 0)))

/-- RETT returns to TPC in U mode with the region mode that TCAUSE saved and no open region, except to a misaligned address,
or to tolerant mode under deterministic mode; RETT.kill ends the team: it is marked killed, and every thread of it has exited
with no destination left empty (R43, R377, R381). In U mode both trap PRIV. -/
def Obligations.TrapReturns : Prop :=
  ∀ (o : Enc),
    LanesGoOn (.rett o) o true true [] none []
      (fun s x t => t.tpc.toNat % 4 = 0 ∧ ((s.hdrOf x.core x.slot).det = true → bits t.tcause.toNat 11 10 ≠ 2))
      (fun _ _ u => ({ u with region := BitVec.ofNat 2 (bits u.tcause.toNat 11 10), priv := false } : Thread).setRegion 0)
      (fun _ _ t => t.tpc) ∧
    ∀ (s : State) (cur : Cur) (c : Crew) (l : Nat), Alone s cur c l o true [] none [] →
      let x : Lane := ⟨cur.core, cur.slot, l⟩
      ((c.thread l).priv = true → ∀ tm, s.teamOf x.core x.slot = some tm → x.slot ∈ tm.slots →
        ∃ u, exec (.rettKill o) s = .next u ∧ ((u.core x.core).team tm.id).map Team.killed = some true ∧
          ∀ sl ∈ tm.slots, ∀ l < 32, (u.crew x.core sl).isSome →
            (u.thread x.core sl l).st = .exited ∧ ∀ r < 64, ((u.thread x.core sl l).reg r).full = true) ∧
      ((c.thread l).handles = true → ∀ i ∈ [Instr.rett o, .rettKill o], exec i s = .next ((s.onThread x fun t =>
        t.enterTrap { cause := 0x03, info := 0xE2, addr := cur.pc } cur.pc).settle x.core x.slot))

/-! Memory instructions (09, 10, 11) and the events that perform their accesses. -/

/-- Where a thread's generic address leads (R170, R171, R184, R301). A scratchpad address: APERTURE outside bits 47 to 28, 23 and 22 zero,
48 banks and SPCAP; then ALIGN; then to the own team or the gang member that its field names, ACCESS 0x03 where there is no such member, 0x01
where that team does not hold the bank and 0x02 where the bank is no scratchpad. A stack address: APERTURE where bits 47 to 20 are not zero
or the offset reaches STACK; then ALIGN; then translation of STACKBASE + G × STACK + offset. A TAS address: APERTURE, ALIGN, then the window
to a load in S mode alone, else ACCESS 0x04. A global address: ALIGN, then translation by the TLB, or a miss. What is translated traps
ACCESS 0x05 in the host or peer window, 0x06 above the memory, and 0x0C in the copy aperture. Any other address traps APERTURE. Each trap's TADDR
is the address. -/
def Obligations.Steering : Prop :=
  (∀ (s : State) (x : Lane) (va : Nat) (op : AccessOp),
    let top := va / 2 ^ 48
    let bank := bits va 21 16
    let off := va % 65536
    let aligned : Prop := va % op.align = 0
    let trap (cause info : Nat) : Prop := s.steer x va op = .trap { cause, info, addr := BitVec.ofNat 64 va }
    let unaligned : Prop := ¬ aligned → trap 0x07 (op.align % 65536)
    let inSpad : Prop := bits va 47 28 = 0 ∧ bits va 23 22 = 0 ∧ bank < 48 ∧ off < s.spcap x.core
    let translated (a : Nat) : Prop :=
      match (s.core x.core).tlb.find? (fun e => e.serves ⟨s.partOf x.core, a, op.write, op.fetch, (s.laneThread x).priv⟩) with
      | none => s.steer x va op = .miss ⟨s.partOf x.core, a, op.write, op.fetch, (s.laneThread x).priv⟩
      | some e =>
        let pa := (e.pa + a % 2 ^ e.logSize) % 2 ^ 48
        if bit pa 47 then trap 0x09 0x05 else if 0x3000000000 ≤ pa % 2 ^ 38 then trap 0x09 0x06 else s.steer x va op = .mem (.glob pa)
    let inBank (b : Nat) (tm : Team) : Prop := match tm.banks[bank]? with
      | none => trap 0x09 0x01
      | some k => if (s.bank b k).mode = .spad then s.steer x va op = .mem (.spad b k off) else trap 0x09 0x02
    let copyAp (a : Nat) : Prop :=
      let page := (s.part (s.partOf x.core)).copyAp
      page ≠ 0 ∧ a < 2 ^ 57 ∧ a / 4096 = page / 4096
    (top = 0xFFFE → (¬ inSpad → trap 0x08 0) ∧ (inSpad → unaligned ∧ (aligned → ∀ tm, s.teamOf x.core x.slot = some tm →
      if bits va 27 24 = 0xF ∨ bits va 27 24 = s.f1 tm then inBank x.core tm
      else match s.member tm (bits va 27 24) with
        | none => trap 0x09 0x03
        | some (b, m) => inBank b m))) ∧
    (top = 0xFFFD →
      let h := s.hdrOf x.core x.slot
      let lies : Prop := bits va 47 20 = 0 ∧ va % 2 ^ 20 < h.stack
      (¬ lies → trap 0x08 0) ∧ (lies → unaligned ∧ (aligned →
        ∀ tm ln c, s.teamOf x.core x.slot = some tm → s.launch tm.part tm.launch = some ln → s.crew x.core x.slot = some c →
          let thread := tm.l * h.ext 0 + c.idx * (if h.pair then 16 else 32) + (if h.pair then x.lane / 2 else x.lane)
          let a := ln.stackBase + thread * h.stack + va % 2 ^ 20
          (copyAp a → trap 0x09 0x0C) ∧ (¬ copyAp a → translated a)))) ∧
    (top = 0xFFFC →
      let lies : Prop := bits va 47 22 = 0 ∧ va % 2 ^ 22 < 0x300000
      (¬ lies → trap 0x08 0) ∧ (lies → unaligned ∧ (aligned →
        if (s.laneThread x).priv && op.isLoad then s.steer x va op = .tas (va % 2 ^ 22) else trap 0x09 0x04))) ∧
    (va < 2 ^ 57 → unaligned ∧ (aligned → translated va) ∧
      (copyAp va → aligned → s.steerAp x va op = .trap { cause := 0x09, info := 0x0C, addr := BitVec.ofNat 64 va })) ∧
    (¬ (va < 2 ^ 57 ∧ copyAp va ∧ aligned) → s.steerAp x va op = s.steer x va op) ∧
    (2 ^ 57 ≤ va → top ≠ 0xFFFE → top ≠ 0xFFFD → top ≠ 0xFFFC → trap 0x08 0)) ∧
  ∀ (s : State) (tm : Team) (m b : Nat) (z : Team), s.member tm m = some (b, z) →
    z ∈ (s.core b).teams ∧ z.killed = false ∧ z.launch = tm.launch ∧ z.l = tm.l - tm.l % s.e1 tm + m ∧ m < s.e1 tm

/-- LD of a place that is present and that no watchpoint watches issues its access, next in the lane's program order, and empties
D; of an absent scratchpad line it parks the lane with D empty; of the TAS window, in S mode, it takes the bytes that the window
holds; a byte or halfword is extended as SZ says (R178, R194, R210, R211). Stated for one lane outside paired-lane mode.
LONG_LATENCY_FILL of such a load, if it may be performed and meets no poison, writes the bytes of its place to D, sign-extended to
32 bits where the load says so, with its tag and FE = 1, and changes no byte of memory: those of the bank; those of the home under
the key, L2's writes standing under theirs; or, for a plain load whose words are all valid in the private cache, as the cache holds them (R91,
R194). That a load which misses in one word takes all its words from the home is the model's reading (log entry 89). Of a load of the TAS window it
writes what was taken. -/
def Obligations.Loads : Prop :=
  (∀ (o : Enc) (s : State) (cur : Cur) (c : Crew) (l : Nat),
    let sz := o.modBits 2 0
    let wide := sz == 1
    let d := o.d.toNat
    let n := match sz with | 0 => 4 | 1 => 8 | 2 | 3 => 1 | _ => 2
    let x : Lane := ⟨cur.core, cur.slot, l⟩
    let t := c.thread l
    let next := cur.pc + BitVec.ofNat 64 o.bytes
    let va : DWord := (if o.hasLit then o.litVal true else t.value o.a.toNat true) + (if o.isExt then o.w2.signExtend 64 else 0)
    Alone s cur c l o true [o.litA true (.only .addr)] (some (d, wide)) [] → (s.core x.core).acquiring x.slot x.lane = false →
    ∀ loc, s.steerAp x va.toNat { align := n, write := false, isLoad := true } = .mem loc →
      (s.absent loc = false → s.watched x va.toNat loc n true false = none →
        exec (.ld o) s = .next (((({ s with nextId := s.nextId + 1 } : State).onThread x fun t =>
            ({ t with seq := t.seq + 1 } : Thread).markEmpty d wide).modCore x.core fun k => { k with pend := k.pend ++
              [{ id := s.nextId, slot := x.slot, lane := l, seq := t.seq + 1, fence := 0, dst := some d, wide, va, twin := none,
                 permit := s.permitted x.core x.slot, step := s.fresh,
                 kind := .load loc n (sz == 3 || sz == 5) (o.fmt .raw) (o.modBit 3 || o.cp == 1) (o.cp == 2) (o.modBit 3) }] }).onward
          x next)) ∧
      (∀ b k off, loc = .spad b k off → s.lineCount b k (off / 128) ≠ 0 →
        exec (.ld o) s = .next ((s.onThread x fun t =>
          { t.markEmpty d wide with st := .parked (.line b k (off / 128) (some d) wide), age := 0, miss := none }).settle x.core x.slot))) ∧
  (∀ (o : Enc) (s : State) (cur : Cur) (c : Crew) (l off : Nat),
    let n := match o.modBits 2 0 with | 0 => 4 | 1 => 8 | 2 | 3 => 1 | _ => 2
    let wide := o.modBits 2 0 == 1
    let x : Lane := ⟨cur.core, cur.slot, l⟩
    let t := c.thread l
    let va : DWord := (if o.hasLit then o.litVal true else t.value o.a.toNat true) + (if o.isExt then o.w2.signExtend 64 else 0)
    Alone s cur c l o true [o.litA true (.only .addr)] (some (o.d.toNat, wide)) [] → (s.core x.core).acquiring x.slot x.lane = false →
    s.steerAp x va.toNat { align := n, write := false, isLoad := true } = .tas off → (s.tasWindow x.core off n).2 = false →
      let issued : State := (({ s with nextId := s.nextId + 1 } : State).onThread x fun t => t.markEmpty o.d.toNat wide).modCore x.core
        fun k => { k with pend := k.pend ++
          [{ id := s.nextId, slot := x.slot, lane := l, seq := t.seq, fence := 0, dst := some o.d.toNat, wide, va := 0, twinVal := none, step := s.fresh,
             kind := .value (loadValue (s.tasWindow x.core off n).1 (o.modBits 2 0 == 3 || o.modBits 2 0 == 5)) (o.fmt .raw) }] }
      exec (.ld o) s = .next ((if o.modBit 3 then issued.acquire x.core else issued).onward x (cur.pc + BitVec.ofNat 64 o.bytes))) ∧
  (∀ (s : State) (core id : Nat) (p : Pend) (d : Nat) (v : DWord) (tag : Tag) (c : Crew),
    (s.core core).pend.find? (fun q => q.id == id) = some p → p.kind = .value v tag → p.dst = some d → d + p.wide.toNat < 64 →
    p.twinVal = none → p.lane < 32 → s.crew core p.slot = some c →
      ∃ u, exec (.longLatencyFill core id) s = .next u ∧ MemorySame s u ∧
        (u.core core).pend = (s.core core).pend.filter (fun q => q.id != p.id) ∧
        let t := u.thread core p.slot p.lane
        t.value d p.wide = (v &&& if p.wide then BitVec.allOnes 64 else 0xFFFFFFFF) ∧ t.tag d p.wide = tag ∧ (t.reg d).full = true ∧
        OtherRegs (c.thread p.lane) t d p.wide) ∧
  (∀ (s : State) (core id : Nat) (p : Pend) (loc : Loc) (n d : Nat) (sext : Bool) (tag : Tag) (l2 stream acq : Bool) (c : Crew),
    (s.core core).pend.find? (fun q => q.id == id) = some p → p.kind = .load loc n sext tag l2 stream acq →
    p.dst = some d → d + p.wide.toNat < 64 → p.twin = none → p.twinVal = none → p.own = none → p.lane < 32 →
    s.crew core p.slot = some c → s.mayPerform core p = true → ∀ data : List Byte,
      (match loc with
        | .spad b k off => data = memRead (s.bank b k).mem off n ∧ ∀ i < n, poisonedAt (s.bank b k).poison (off + i) = false
        | .glob pa =>
          let at_ (i : Nat) : Nat := paAddr pa + i
          let line := (s.core core).cacheLine (paKey pa) (paAddr pa / 128)
          let hit : Bool := !l2 && (s.core core).cacheOn && line.any fun w => (List.range n).all fun i => w.valid.getLsbD (at_ i % 128 / 4)
          s.keyLoaded (paKey pa) = true ∧ paAddr pa % 128 + n ≤ 128 ∧ WritesBack s ∧
          data = (List.range n).map (fun i => match hit, line with
            | true, some w => w.byte (at_ i % 128)
            | _, _ => s.homeByte (paKey pa) (at_ i)) ∧
          (hit = false → ∀ i < n, poisonedAt s.poison (at_ i) = false) ∧
          (l2 = false → (s.core core).hitPoisoned (s.spcap core) pa n = false)) →
      ∃ u, exec (.longLatencyFill core id) s = .next u ∧ MemorySame s u ∧
        (u.core core).pend = (s.core core).pend.filter (fun q => q.id != p.id) ∧
        let t := u.thread core p.slot p.lane
        t.value d p.wide = (loadValue data sext &&& if p.wide then BitVec.allOnes 64 else 0xFFFFFFFF) ∧ t.tag d p.wide = tag ∧
        (t.reg d).full = true ∧ OtherRegs (c.thread p.lane) t d p.wide)

/-- ST of a value to a place issues its store, behind the lane's open fence; a plain store to global memory acts on the
issuer's private cache at once; a release closes the region (R181, R194, R198, R200, R212). No byte of memory changes yet.
STORE_REGISTRATION of a store that may be performed writes its bytes at its place and nowhere else, whether in a scratchpad
bank or, once no foreign owner or revoke of its lines stands in the way, at the home of a key that is loaded and under which
the data units were last written; the entry leaves the core (R182, R186, R194). That a plain store takes its place in the issuer's cache as
it issues, and not where an open fence stands before it, is the model's choice (log entry 53: R181 does not say). -/
def Obligations.Stores : Prop :=
  (∀ (o : Enc) (s : State) (cur : Cur) (c : Crew) (l : Nat),
    let sz := o.modBits 2 0
    let n := match sz with | 0 => 4 | 1 => 8 | 2 | 3 => 1 | _ => 2
    let x : Lane := ⟨cur.core, cur.slot, l⟩
    let t := c.thread l
    let next := cur.pc + BitVec.ofNat 64 o.bytes
    let va : DWord := t.value o.a.toNat true + (if o.isExt then o.w2.signExtend 64 else 0)
    let data := leBytes n (valB o (sz == 1) t)
    let rel := o.modBit 3
    let marked := rel || o.cp == 1
    let f := s.openFence x
    Alone s cur c l o true [o.regA true (.only .addr), o.litB (sz == 1) (.only (o.fmt .raw))] none [] →
    s.inAperture x va.toNat = false → (rel = true → ∀ m, (s.core x.core).loadsOutstanding x.slot l m = false) →
    ∀ loc, s.steer x va.toNat { align := n, write := true } = .mem loc → s.watched x va.toNat loc n false true = none →
      s.storeHeld x loc n = false →
      let s1 : State × Bool := match loc with
        | .glob pa => if marked || f != 0 then (s, false) else s.cacheStore x.core pa data (s.placeOf x.core x.slot (o.cp == 2))
        | .spad .. => (s, false)
      let issued : State := ((({ s1.1 with nextId := s.nextId + 1 } : State).onThread x fun t =>
          ({ t with seq := t.seq + 1 } : Thread)).modCore x.core fun k => { k with pend := k.pend ++
            [{ id := s.nextId, slot := x.slot, lane := l, seq := t.seq + 1, fence := f, dst := none, wide := false, va, twin := none,
               permit := s.permitted x.core x.slot, stream := o.cp == 2, step := s.fresh, kind := .store loc data s1.2 marked rel }] })
      exec (.st o) s = .next ((if rel then issued.onThread x fun t => t.setRegion next else issued).onward x next) ∧
        MemorySame s issued) ∧
  (∀ (s : State) (core id : Nat) (p : Pend) (loc : Loc) (data : List Byte) (cached marked rel : Bool),
    core < 160 → (s.core core).pend.find? (fun q => q.id == id) = some p → p.kind = .store loc data cached marked rel →
    s.mayPerform core p = true → MemoryWf s →
    (∀ b k off, loc = .spad b k off → b < 160 → k < 48 →
      ∃ u, exec (.storeRegistration core id) s = .next u ∧ SpadFrame s u b k off data.length ∧
        (∀ i < data.length, u.spadByte b k (off + i) = data.getD i 0) ∧
        (u.core core).pend = (s.core core).pend.filter fun q => q.id != id) ∧
    (∀ pa, loc = .glob pa → s.keyLoaded (paKey pa) = true → WritesBack s →
      (∀ i < data.length, lookupNat s.unitKeys ((paAddr pa + i) / 128) 0 = s.keyOf (paKey pa)) →
      (∀ i < data.length, ∀ q ∈ s.revokes, q.2 ≠ (paAddr pa + i) / 128) →
      (∀ i < data.length, ∀ w, s.l2Line ((paAddr pa + i) / 128) = some w → w.core = none ∨ w.core = some core) →
      ∃ u, exec (.storeRegistration core id) s = .next u ∧ GlobFrame s u (paAddr pa) data.length ∧
        (∀ i < data.length, u.globByte (paAddr pa + i) = data.getD i 0) ∧
        (u.core core).pend = (s.core core).pend.filter fun q => q.id != id))

/-- ATOM and RED of a global place, or of a scratchpad place that is present, issue their read-modify-write, ATOM with D empty (R207,
R214, R216); stated for one lane. A released ATOM keeps its region open until it has returned. A further lane of the bundle that comes
to the same place joins the entry that the first has opened, as its last lane (R207). -/
def Obligations.AtomicsIssue : Prop :=
  (∀ (o : Enc) (s : State) (cur : Cur) (c : Crew) (l : Nat) (loc : Loc),
    let f := o.fmt .i32
    let op := o.modBits 3 0
    let n := if f.wide then 8 else 4
    let x : Lane := ⟨cur.core, cur.slot, l⟩
    let t := c.thread l
    let next := cur.pc + BitVec.ofNat 64 o.bytes
    let va : DWord := t.value o.a.toNat true + (if o.isExt then o.w2.signExtend 64 else 0)
    let operands : List Opnd := [o.regA true (.only .addr), o.litB f.wide (.only f)]
    let acq := o.modBit 4
    let rel := o.modBit 5
    let lane (dst : Option Nat) : AtomLane :=
      ⟨l, t.seq + 1, s.openFence x, dst, op, f, if o.rm == 7 || !o.isExt then t.rnd.toNat % 8 else o.rm.toNat,
        BitVec.ofNat 64 (valB o f.wide t), if op = 7 then BitVec.ofNat 64 (valC o f.wide t) else 0⟩
    let entry (dst : Option Nat) (acq rel : Bool) : Pend :=
      { id := s.nextId, slot := x.slot, lane := l, seq := t.seq + 1, fence := s.openFence x, dst := none, wide := n == 8, va,
        kind := .atoms loc n [lane dst] acq rel }
    let entered (g : Thread → Thread) (p : Pend) : State :=
      (({ s with nextId := s.nextId + 1 } : State).onThread x fun t => g { t with seq := t.seq + 1 }).modCore x.core fun w =>
        { w with pend := w.pend ++ [p] }
    (∀ q ∈ (s.core x.core).pend, q.id < s.nextId) → (s.core x.core).acquiring x.slot l = false →
    s.steerAp x va.toNat { align := n, write := true } = .mem loc → s.detViolates x op va.toNat = false →
    s.absent loc = false → s.watched x va.toNat loc n true true = none →
      (Alone s cur c l o false (operands ++ if op = 7 then [o.regC f.wide (.only f)] else []) (some (o.d.toNat, f.wide)) [] →
        (rel = true → ∀ m, (s.core x.core).loadsOutstanding x.slot l m = false) →
        exec (.atom o) s = .next ((entered (fun t =>
          if rel then { t.markEmpty o.d.toNat f.wide with relNext := some (t.seq, next) } else t.markEmpty o.d.toNat f.wide)
          (entry (some o.d.toNat) acq rel)).onward x next)) ∧
      (Alone s cur c l o true operands none [] →
        exec (.red o) s = .next ((entered id (entry none false false)).onward x next))) ∧
  ∀ (s : State) (x : Lane) (c : Crew) (p : Pend) (before after : List Pend) (ls : List AtomLane) (a : AtomLane) (start n : Nat) (va : DWord)
    (loc : Loc) (acq rel acq' rel' : Bool),
    x.core < 160 → (s.core x.core).pend = before ++ p :: after → start ≤ p.id → p.slot = x.slot → p.kind = .atoms loc n ls acq rel →
    s.crew x.core x.slot = some c → x.lane < 32 → ((s.core x.core).pend.map Pend.id).Nodup →
    (∀ q ∈ before, start ≤ q.id → q.slot = x.slot → ∀ ls' r r', q.kind ≠ .atoms loc n ls' r r') →
      ((s.joinGroup x start va loc n a acq' rel').core x.core).pend = before ++
        { p with kind := .atoms loc n (ls ++ [{ a with seq := (c.thread x.lane).seq + 1, fence := s.openFence x }]) acq rel } :: after

/-- The atomics of one bundle at a location are performed as one group, at the bank or at the home (R207, R216): each lane, in
ascending order, reads what the lanes before it left and gives that old value to its destination, tagged with the format; the last
value is stored if any lane wrote, and no other byte changes. A lane's new value is, for the integer formats, the sum, the lesser,
the greater, the logic result, B, or B where the old value equals C and else nothing; and for `.fadd` the floating-point sum of the
old value and B, as FADD adds them, rounded once in the lane's mode, with no exception (R215, R216). -/
def Obligations.AtomicsPerform : Prop :=
  (∀ (s : State) (core id : Nat) (p : Pend) (loc : Loc) (n : Nat) (ls : List AtomLane) (acq rel : Bool) (c : Crew),
    core < 160 → (n = 4 ∨ n = 8) → (ls.map AtomLane.lane).Nodup →
    (∀ a ∈ ls, a.lane < 32 ∧ a.tag.elemBits = 8 * n ∧ ((s.hdrOf core p.slot).pair = true → a.lane % 2 = 0) ∧
      ∀ d, a.dst = some d → d + (n == 8).toNat < 64) →
    (s.core core).pend.find? (fun q => q.id == id) = some p → p.kind = .atoms loc n ls acq rel → MemoryWf s →
    s.mayPerform core p = true → s.crew core p.slot = some c →
    let old := leNat (match loc with
      | .spad b k off => memRead (s.bank b k).mem off n
      | .glob pa => (List.range n).map fun i => s.homeByte (paKey pa) (paAddr pa + i))
    let out := atomRun (8 * n) old false ls
    let i := if ls.any fun a => a.dst.isSome then Instr.longLatencyFill core id else .storeRegistration core id
    (match loc with
      | .spad b k off => b < 160 ∧ k < 48 ∧ ∀ i < n, poisonedAt (s.bank b k).poison (off + i) = false
      | .glob pa => s.keyLoaded (paKey pa) = true ∧ WritesBack s ∧ ∀ i < n, poisonedAt s.poison (paAddr pa + i) = false ∧
        lookupNat s.unitKeys ((paAddr pa + i) / 128) 0 = s.keyOf (paKey pa) ∧ (∀ q ∈ s.revokes, q.2 ≠ (paAddr pa + i) / 128) ∧
        ∀ w, s.l2Line ((paAddr pa + i) / 128) = some w → w.core = none ∨ w.core = some core) →
    ∃ u, exec i s = .next u ∧ (u.core core).pend = (s.core core).pend.filter (fun q => q.id != id) ∧
      (∀ e ∈ out.1, ∀ d, e.1.dst = some d → let t := u.thread core p.slot e.1.lane
        t.value d (n == 8) = BitVec.ofNat 64 e.2 ∧ t.tag d (n == 8) = e.1.tag ∧ (t.reg d).full = true ∧
        OtherRegs (c.thread e.1.lane) t d (n == 8)) ∧
      if out.2.2 then match loc with
        | .spad b k off => SpadFrame s u b k off n ∧ memRead (u.bank b k).mem off n = leBytes n out.2.1
        | .glob pa => GlobFrame s u (paAddr pa) n ∧ ∀ i < n, u.globByte (paAddr pa + i) = (leBytes n out.2.1).getD i 0
      else MemorySame s u) ∧
  (∀ (a : AtomLane) (old y z : Nat), old < 2 ^ a.tag.elemBits → y < 2 ^ a.tag.elemBits →
    let w := a.tag.elemBits
    let new := atomNew a.op a.tag (Rm.ofCode a.rm) old y z
    (a.tag ∈ Encoding.setW → new =
      let lower := intOf a.tag.isSigned w y < intOf a.tag.isSigned w old
      let higher := intOf a.tag.isSigned w old < intOf a.tag.isSigned w y
      match a.op with
      | 0 => some ((old + y) % 2 ^ w)
      | 1 => some (if lower then y else old)
      | 2 => some (if higher then y else old)
      | 3 => some (old &&& y)
      | 4 => some (old ||| y)
      | 5 => some (old ^^^ y)
      | 6 => some y
      | 7 => if old = z then some y else none
      | _ => some old) ∧
    (a.op = 8 → ∀ g ∈ [FloatFmt.f32, .f64], a.tag.elemFmt = .float g → new =
      some (g.round (Rm.ofCode a.rm) 0 false (fpAdd (Rm.ofCode a.rm) (g.decode old) (g.decode y)).1).1)) ∧
  (∀ (w old : Nat) (ls rest : List AtomLane) (a : AtomLane),
    let before := atomRun w old false ls
    let new := atomNew a.op a.tag (Rm.ofCode a.rm) before.2.1 (a.b.toNat % 2 ^ w) (a.c.toNat % 2 ^ w)
    (atomRun w old false (ls ++ a :: rest)).1[ls.length]? = some (a, before.2.1) ∧
    (atomRun w old false (ls ++ [a])).2.1 = new.getD before.2.1 ∧
    (atomRun w old false (ls ++ [a])).2.2 = (before.2.2 || new.isSome))

/-- FENCE.acq waits for the lane's earlier loads and then invalidates every word of the private cache that is not owned;
FENCE.rel sets the lane's fence and closes the region, at once or when its earlier loads have returned; FENCE.ar does both
once every earlier access is done (R198, R200, R218). -/
def Obligations.Fences : Prop :=
  ∀ (o : Enc) (s : State) (cur : Cur) (c : Crew) (l : Nat), Alone s cur c l o true [] none [] →
    let x : Lane := ⟨cur.core, cur.slot, l⟩
    let t := c.thread l
    let next := cur.pc + BitVec.ofNat 64 o.bytes
    let invalidated : State := s.modCore x.core fun k => { k with cache := k.cache.map fun w => { w with valid := w.valid &&& w.owned } }
    let fenced (u : State) : State := u.onThread x fun t =>
      if (s.core x.core).loadsOutstanding x.slot l t.seq then { t with fence := t.seq, relNext := some (t.seq, next) }
      else ({ t with fence := t.seq } : Thread).setRegion next
    ((s.core x.core).loadsOutstanding x.slot l t.seq = false → exec (.fenceAcq o) s = .next (invalidated.onward x next)) ∧
    exec (.fenceRel o) s = .next ((fenced s).onward x next) ∧
    ((s.core x.core).outstanding x.slot l t.seq = false → exec (.fenceAr o) s = .next ((fenced invalidated).onward x next)) ∧
    ((s.core x.core).loadsOutstanding x.slot l t.seq = true → exec (.fenceAcq o) s =
      .next ((s.onThread x fun t => { t with st := .waitUnit, age := 0, miss := none }).settle x.core x.slot))

/-- PRES.test writes whether the line is present and PRES.wait goes on when it is; PRES.clear raises the line's pending count
and PRES.set lowers it, waking the lanes parked on it when it reaches zero (R178, R221). -/
def Obligations.Presence : Prop :=
  ∀ (o : Enc),
    let a := o.regA true (.only .addr)
    let va (t : Thread) : Nat := (t.value o.a.toNat true).toNat
    let line (s : State) (x : Lane) (t : Thread) (b k ln : Nat) : Prop :=
      va t / 2 ^ 48 = 0xFFFE ∧ ∃ off, s.steer x (va t) { align := 1, write := false } = .mem (.spad b k off) ∧ ln = off / 128
    -- in paired-lane mode the shadow's operands and address would not trap either (R208)
    let shadowed (preds : List Nat) (s : State) (x : Lane) : Prop := ∀ y, s.shadowOf x = some y →
      operandFate (s.laneThread y) [a] none preds = .ready ∧ ∃ b k ln, line s y (s.laneThread y) b k ln
    LanesGoOn (.presTest o) o false true [a] none [o.predD] (fun s x t => shadowed [o.predD] s x ∧ ∃ b k ln, line s x t b k ln)
      (fun s x u => match s.steer x (va (s.laneThread x)) { align := 1, write := false } with
        | .mem (.spad b k off) => u.setPred o.predD (s.lineCount b k (off / 128) == 0)
        | _ => u)
      (fun _ _ t => t.pc + BitVec.ofNat 64 o.bytes) ∧
    LanesGoOn (.presWait o) o false true [a] none [] (fun s x t => shadowed [] s x ∧ ∃ b k ln, line s x t b k ln ∧ s.lineCount b k ln = 0)
      (fun _ _ u => u) (fun _ _ t => t.pc + BitVec.ofNat 64 o.bytes) ∧
    ∀ (s : State) (cur : Cur) (c : Crew) (l b k ln : Nat), Alone s cur c l o true [a] none [] →
      let x : Lane := ⟨cur.core, cur.slot, l⟩
      let next := cur.pc + BitVec.ofNat 64 o.bytes
      let counted (n : Nat) : State := s.modBank b k fun z => { z with counts := putNat z.counts ln n 0 }
      line s x (c.thread l) b k ln →
        (s.lineCount b k ln < 7 → exec (.presClear o) s = .next ((counted (s.lineCount b k ln + 1)).onward x next)) ∧
        (s.storesTo x (b, k, ln) = false → exec (.presSet o) s = .next
          ((if s.lineCount b k ln = 1 then (counted 0).wakeLine b k ln else counted (s.lineCount b k ln - 1)).wakeAll.onward x next))

/-- PREF goes on whatever its address; it brings the line into L2 and, where the private cache is on and the policy is not the one
that stays out of it, fills the line's invalid words there; CINV drops one line and CINV.all every line of the private cache once no store of the core to
them is unregistered (R222, R223). -/
def Obligations.CacheMaintenance : Prop :=
  ∀ (o : Enc) (s : State) (cur : Cur) (c : Crew) (l : Nat),
    let x : Lane := ⟨cur.core, cur.slot, l⟩
    let t := c.thread l
    let next := cur.pc + BitVec.ofNat 64 o.bytes
    let va : Nat := ((if o.hasLit then o.litVal true else t.value o.a.toNat true) + (if o.isExt then o.w2.signExtend 64 else 0)).toNat
    let tagged : Bool := o.hasLit || t.tag o.a.toNat true == .raw || t.tag o.a.toNat true == .addr
    (Alone s cur c l o true [o.litA true .all] none [] →
      ((tagged = false ∨ s.peek x va = none) → exec (.pref o) s = .next (s.onward x next)) ∧
      (∀ pa, tagged = true → s.peek x va = some pa → s.keyLoaded (paKey pa) = true →
        exec (.pref o) s = .next ((if o.cp = 1 ∨ (s.core x.core).cacheOn = false then s.l2Fill (paKey pa) (paAddr pa / 128)
          else s.fillLine (s.partOf x.core) x.core pa (s.placeOf x.core x.slot (o.cp == 2))).onward x next)) ∧
      (∀ pa, tagged = true → s.peek x va = some pa → s.keyLoaded (paKey pa) = false → exec (.pref o) s = .next (s.onward x next))) ∧
    (Alone s cur c l o true [o.litA true (.only .addr)] none [] →
      (∀ pa, (va < 2 ^ 57 ∨ va / 2 ^ 48 = 0xFFFD) → s.peek x va = some pa → (s.core x.core).dirtyLine (some (paKey pa, paAddr pa / 128)) = false →
        exec (.cinv o) s = .next ((s.modCore x.core fun k =>
          { k with cache := k.cache.filter fun w => !(w.key == paKey pa && w.line == paAddr pa / 128) }).onward x next))) ∧
    (Alone s cur c l o true [] none [] → (s.core x.core).dirtyLine none = false →
      exec (.cinvAll o) s = .next ((s.modCore x.core fun k => { k with cache := [] }).onward x next))

/-- BCFG of a bank that is already in the mode goes on; of another it starts the change and waits. BANK_MODE_CHANGE, once the
bank is drained, leaves it in the new mode, empty and with every line present, drops the private cache's lines of a bank that
was cache, and changes no other bank (R176, R224). -/
def Obligations.BankModes : Prop :=
  (∀ (o : Enc) (s : State) (cur : Cur) (c : Crew) (l k : Nat) (tm : Team), Alone s cur c l o true [o.litA false countTags] none [] →
    let x : Lane := ⟨cur.core, cur.slot, l⟩
    let t := c.thread l
    let next := cur.pc + BitVec.ofNat 64 o.bytes
    let bank := valLitA o false t
    s.teamOf x.core x.slot = some tm → bank < 64 → tm.banks[bank]? = some k → s.changing x = false →
    let goes (i : Instr) (m : BankMode) : Prop :=
      ((s.bank x.core k).change = none → (s.bank x.core k).mode = m → exec i s = .next (s.onward x next)) ∧
      ((s.bank x.core k).change = none → (s.bank x.core k).mode ≠ m → exec i s = .next ((((({ s with nextId := s.nextId + 1 } :
          State).modCore x.core fun w => { w with pend := w.pend ++
            [{ id := s.nextId, slot := x.slot, lane := l, seq := t.seq, fence := 0, dst := none, wide := false, va := cur.pc, step := s.fresh,
               kind := .bank k m next }] }).modBank x.core k fun z => { z with change := some m }).onThread x fun t =>
            { t with st := .waitUnit, age := 0, miss := none }).settle x.core x.slot))
    goes (.bcfgSp o) .spad ∧ goes (.bcfgCache o) .cache ∧ goes (.bcfgFifo o) .fifo) ∧
  ∀ (s : State) (core k : Nat) (m : BankMode), core < 160 → k < 48 → (s.bank core k).change = some m → (s.bank core k).mode ≠ m →
    s.bankReady core k = true → (∀ q ∈ (s.core core).pend, q.ofBank k = true → (s.thread core q.slot q.lane).stepMark = false) →
    ∃ u, exec (.bankModeChange core k) s = .next u ∧ (u.bank core k).mode = m ∧ (u.bank core k).mem = [] ∧ (u.bank core k).counts = [] ∧
      (u.bank core k).fifo = [] ∧ (u.bank core k).poison = [] ∧ (∀ b j, ¬ (b = core ∧ j = k) → u.bank b j = s.bank b j) ∧
      ((s.bank core k).mode = .cache → (u.core core).cache = (s.core core).cache.filter fun w => w.bank != k) ∧
      ((s.bank core k).mode ≠ .cache → (u.core core).cache = (s.core core).cache) ∧ u.mem = s.mem

/-- QPUSH of a drained lane appends B to a FIFO bank that has room and closes the region; QPOP takes the oldest entry,
acquires and writes it to D; the trying forms say in their predicate whether they did, and go on when they did not (R225,
R226). -/
def Obligations.Fifos : Prop :=
  ∀ (o : Enc) (s : State) (cur : Cur) (c : Crew) (l b k : Nat),
    let x : Lane := ⟨cur.core, cur.slot, l⟩
    let t := c.thread l
    let next := cur.pc + BitVec.ofNat 64 o.bytes
    let wide := o.modBit 1
    let tries := o.modBit 0
    let sel : Opnd := o.regA false (.only .n32)
    let preds : List Nat := if tries then [o.pd] else []
    let tells (v : Bool) (u : State) : State := if tries then u.onThread x fun t => t.setPred o.pd v else u
    s.fifoBank x (t.value o.a.toNat false).toNat = .inl (b, k) →
    (Alone s cur c l o true [sel, o.regB wide (.only (o.fmt .raw))] none preds → s.drained x = true →
      ((s.bank b k).fifo.length < s.spcap b / 8 → exec (.qpush o) s = .next ((tells true
        ((s.modBank b k fun z => { z with fifo := z.fifo ++ [(t.value o.b.toNat wide, false)] }).onThread x fun t =>
          t.setRegion next)).wakeAll.onward x next)) ∧
      (s.spcap b / 8 ≤ (s.bank b k).fifo.length → tries = true → exec (.qpush o) s = .next ((tells false s).onward x next))) ∧
    (Alone s cur c l o true [sel] (some (o.d.toNat, wide)) preds →
      (∀ v rest, (s.bank b k).fifo = (v, false) :: rest → exec (.qpop o) s = .next ((tells true
        (((s.modBank b k fun z => { z with fifo := rest }).acquire x.core).onThread x fun t =>
          t.write o.d.toNat wide (if wide then v else v &&& 0xFFFFFFFF) (o.fmt .raw))).wakeAll.onward x next)) ∧
      ((s.bank b k).fifo = [] → tries = true → exec (.qpop o) s = .next ((tells false
        (s.onThread x fun t => t.write o.d.toNat wide 0 .raw)).onward x next)))

/-- STT stores C's n elements at row r, column c of its plain tile in one piece, and each element at its transposed place in
the other tile, once both tiles have the shape it asks for; the pieces issue as stores in that order (R207, R219, R220). -/
def Obligations.StashStores : Prop :=
  ∀ (o : Enc) (s : State) (cur : Cur) (c : Crew) (l : Nat),
    let x : Lane := ⟨cur.core, cur.slot, l⟩
    let t := c.thread l
    let f := o.fmt .f32
    let n := f.count
    let z := f.elemBits / 8
    let tx := s.tile x (if o.isExt then o.w2Bits 3 0 else 0)
    let ty := s.tile x (if o.isExt then o.w2Bits 7 4 else 1)
    let row := (t.value o.a.toNat false).toNat
    let col := (t.value o.b.toNat false).toNat
    let v := (t.value (if o.isExt then o.c.toNat else o.d.toNat) false).toNat
    let shapes : Prop := tx.fmt = f.code ∧ ty.fmt = f.code ∧ tx.layout = 0 ∧ ty.layout = 1 ∧ tx.space < 2 ∧ ty.space < 2 ∧
      ty.rows = tx.rows ∧ ty.cols = tx.cols ∧ row < tx.rows ∧ col + n ≤ tx.cols ∧ col % n = 0
    let pieces : List (Nat × List Byte) :=
      (add64 tx.gbase ((row * tx.cols + col) * z : Nat), leBytes (n * z) v) ::
      (List.range n).map fun k => (add64 ty.gbase (((col + k) * ty.rows + row) * z : Nat), leBytes z (v / 2 ^ (8 * z * k)))
    Alone s cur c l o true [o.regA false countTags, o.regB false countTags, o.regC false (.only f)] none [] → shapes →
    ∀ places : List Loc, places.length = pieces.length →
      (∀ q ∈ pieces.zip places, s.steerAp x q.1.1 { align := q.1.2.length, write := true } = .mem q.2 ∧
        s.storeHeld x q.2 q.1.2.length = false ∧ s.watched x q.1.1 q.2 q.1.2.length false true = none) →
      exec (.stt o) s = .next (((pieces.zip places).foldl (fun (s : State) q =>
        s.storeTo x (BitVec.ofNat 64 q.1.1) q.2 q.1.2 false (o.cp == 2) false) s).onward x (cur.pc + BitVec.ofNat 64 o.bytes))

/-! Barrier objects (18). -/

/-- The barrier instructions of a lane on a well-formed object (R361, R365, R366): BARI writes its fields, BARA arrives and
returns the phase, BARX raises PENDING, BARW goes on with an acquire when the phase is done and else waits in it, BART says
whether it is. After an arrival or a count the object holds its fields, and where both targets are met the next phase with
ARRIVED and WAITERS zero; no other byte of memory changes. BARW_RECHECK lets a waiting lane go on, with an acquire, once its
phase is done and leaves it waiting before; a poisoned object is consumed (R360, R362, R367, R382). -/
def Obligations.Barriers : Prop :=
  (∀ (o : Enc) (s : State) (cur : Cur) (c : Crew) (l b k off : Nat),
    let x : Lane := ⟨cur.core, cur.slot, l⟩
    let t := c.thread l
    let next := cur.pc + BitVec.ofNat 64 o.bytes
    let va := (t.value o.a.toNat true).toNat
    let a : Opnd := o.regA true (.only .addr)
    let cnt : Opnd := o.litB false (.oneOf [.n32, .i32])
    let n := valB o false t
    let v := leNat (memRead (s.bank b k).mem off 16)
    let z := BarObj.of v
    let done (n : Nat) : Prop := 1 ≤ (z.phase + 2 ^ 16 - n % 2 ^ 16) % 2 ^ 16 ∧ (z.phase + 2 ^ 16 - n % 2 ^ 16) % 2 ^ 16 ≤ 32767
    let sound : Prop := (∀ i < 16, poisonedAt (s.bank b k).poison (off + i) = false) ∧ bits v 31 16 = 0 ∧ bits v 63 48 = 0 ∧
      z.arrived ≤ z.expect ∧ s.lineCount b k (off / 128) = 0
    let quiet (rd wr : Bool) : Prop := s.watched x va (.spad b k off) 16 rd wr = none
    va / 2 ^ 48 = 0xFFFE → s.steer x va { align := 16, write := true } = .mem (.spad b k off) → s.barFree x (.spad b k off) = true →
      (Alone s cur c l o true [a, cnt] none [] → n < 2 ^ 16 → quiet false true →
        exec (.bari o) s = .next ((s.spadWrite b k off (leBytes 16 (n * 2 ^ 32))).onward x next)) ∧
      (Alone s cur c l o true (a :: if o.modBit 0 then [cnt] else []) (some (o.d.toNat, false)) [] → sound → s.drained x = true →
        quiet true true → let m := if o.modBit 0 then n else 1
        m ≠ 0 → z.arrived + m ≤ z.expect → exec (.bara o) s = .next ((((s.producer x (some o.d.toNat) false
          (.value (BitVec.ofNat 64 z.phase) .n32)).barEvent b k off { z with arrived := z.arrived + m }).releaseAfter x next).onward
          x next)) ∧
      (Alone s cur c l o true [a, cnt] none [] → sound → quiet true true → 0 < n → signed 32 z.pending + n ≤ 2 ^ 31 - 1 →
        exec (.barx o) s = .next ((s.barEvent b k off { z with pending := wrap 32 (signed 32 z.pending + n) }).onward x next)) ∧
      (Alone s cur c l o true [a, cnt] none [] → sound → quiet true false → n < 2 ^ 16 → done n →
        exec (.barw o) s = .next ((s.acquire x.core).onward x next)) ∧
      (Alone s cur c l o true [a, cnt] none [] → sound → n < 2 ^ 16 → ¬ done n → (s.hdrOf x.core x.slot).det = false →
        ∀ tm, s.teamOf x.core x.slot = some tm → exec (.barw o) s = .next
          (((s.barWrite b k off { z with waiters := z.waiters ||| 2 ^ s.f1 tm }).onThread x fun t =>
            { t with st := .waitBar b k va n next.toNat, age := 0, miss := none }).settle x.core x.slot)) ∧
      (Alone s cur c l o true [a, cnt] none [o.predD] → sound → quiet true false → n < 2 ^ 16 →
        ∃ q : Bool, (q = true ↔ done n) ∧ exec (.bart o) s = .next ((s.onThread x fun t => t.setPred o.predD q).onward x next))) ∧
  ((∀ (s : State) (b k off : Nat) (z : BarObj), b < 160 → k < 48 → Memory.wf (s.bank b k).mem = true →
    z.arrived < 2 ^ 16 → z.expect < 2 ^ 16 → z.pending < 2 ^ 32 → z.phase < 2 ^ 16 → z.waiters < 2 ^ 16 →
    (∀ sl < 64, ∀ l < 32, ∀ c < 160, (s.thread c sl l).stepMark = false) → (∀ c < 160, ∀ i < 4, (s.core c).wps.toList[i]? = some none) →
    let u := s.barEvent b k off z
    BarObj.of (leNat (memRead (u.bank b k).mem off 16)) =
      (if z.arrived = z.expect ∧ z.pending = 0 then { z with phase := (z.phase + 1) % 2 ^ 16, arrived := 0, waiters := 0 } else z) ∧
    SpadFrame s u b k off 16) ∧
  ∀ (s : State) (core slot lane b k va n next : Nat), (s.thread core slot lane).st = .waitBar b k va n next →
    let z := BarObj.of (leNat (memRead (s.bank b k).mem (va % 65536) 16))
    let ahead := (z.phase + 2 ^ 16 - n % 2 ^ 16) % 2 ^ 16
    let x : Lane := ⟨core, slot, lane⟩
    let clean : Prop := ∀ i < 16, poisonedAt (s.bank b k).poison (va % 65536 + i) = false
    (¬ clean → exec (.barwRecheck core slot lane) s = .next (s.consume x none false va)) ∧
    (clean → ¬ (1 ≤ ahead ∧ ahead ≤ 32767) → exec (.barwRecheck core slot lane) s = .next s) ∧
    (clean → 1 ≤ ahead ∧ ahead ≤ 32767 → s.watched x va (.spad b k (va % 65536)) 16 true true = none →
      (s.thread core slot lane).stepMark = false → (s.thread core slot lane).haltMark = false → (s.hdrOf core slot).pair = false →
      exec (.barwRecheck core slot lane) s = .next ((s.acquire core).onThread x fun t => t.goto (BitVec.ofNat 64 next))))

/-! The matrix engine and the tile path (12, 13). -/

/-- A matrix or tile-path instruction whose tiles pass its checks, whose tile bases are aligned to 128 bytes and whose memory
is reachable enters one entry, queued, at the end of the array queues of its span, and writes its handle to D; stated for one
lane outside deterministic mode, where no failure waits for the lane, the queues have room and a slot is free (R247, R250,
R256 to R265, R292). MMA and MMAS also bind the guard record of their accumulator tile to the entry (R258). -/
def Obligations.MatrixIssue : Prop :=
  ∀ (o : Enc) (s : State) (cur : Cur) (c : Crew) (l k : Nat) (tm : Team) (pages : List (Nat × Nat)),
    let x : Lane := ⟨cur.core, cur.slot, l⟩
    let t := c.thread l
    let h := s.hdrOf x.core x.slot
    let n0 := o.w2Bits 3 0
    let n1 := o.w2Bits 7 4
    let n2 := o.w2Bits 11 8
    let T (n : Nat) : Tile := Tile.of (c.tile n)
    let tas (n : Nat) : Prop := (T n).space = 2 ∧ (T n).rows ≤ 128 ∧ (T n).cols ≤ 128 ∧ (T n).tasBase % tasTileSize h.tas64 = 0 ∧
      (T n).tasBase < h.tasN * tasTileSize h.tas64
    let plain (n code : Nat) : Prop := (T n).fmt = code ∧ (T n).space ≤ 1 ∧ (T n).layout = 0
    let copy (n code layout : Nat) : Prop := (T n).fmt = code ∧ (T n).space = 1 ∧ (T n).layout = layout ∧ (T n).offs ≠ 0 ∧ (T n).scale ≠ 0
    let same (m n : Nat) : Prop := (T m).rows = (T n).rows ∧ (T m).cols = (T n).cols
    let own : List (Nat × Nat) := [(x.core, tm.id)]
    let w (r : Nat) : DWord := t.value r false
    let rm := if o.rm = 7 then t.rnd.toNat % 8 else o.rm.toNat
    let mode : Prop := h.det = false ∧ s.failureOf x [1] = none ∧ (s.core x.core).freeHandle = some k ∧ k < 1024 ∧
      s.teamOf x.core x.slot = some tm
    let enters (i : Instr) (opc : Nat) (srcs : List Opnd) (tiles : List Nat) (bases : List Nat) (ranges : List (Nat × Nat × Bool))
        (span : List (Nat × Nat)) (a b c' : DWord) (rm : Nat) (checks : Prop) : Prop :=
      Alone s cur c l o false srcs (some (o.d.toNat, false)) [] → mode → checks → (∀ va ∈ bases, va % 128 = 0) →
      s.matPages x ranges = .inl pages → (∀ m ∈ span, s.queued m.1 < 8) →
      let u := s.arrayEntered x o k span (tiles.headD 0) ⟨opc, o, tiles.map c.tile, a, b, c', rm, pages⟩
      exec i s = .next ((if opc ≤ 0xA1 then u.modCrew x.core x.slot fun z => z.setRec n0 { op := some (s.nextId + 1) } else u).onward x
        (cur.pc + BitVec.ofNat 64 o.bytes))
    let f := o.fmt .f32
    let e := o.fmt .e4m3x4
    let p := o.fmt .bf16x2
    let mm (opc : Nat) : Mma := Mma.of opc o (T n0) (T n1) (T n2) (w o.a.toNat).toNat
    let product (i : Instr) (opc : Nat) : Prop := ∀ span, enters i opc [o.regA false (.oneOf [.n32, .i32])] [n0, n1, n2]
      [(T n1).gbase, (T n2).gbase] (mm opc).ranges span (w o.a.toNat) 0 0 0
      ((mm opc).trap h (mmaSpan o) n0 n1 n2 = none ∧ s.spanOf x (mmaSpan o) = .inr span)
    let row := !o.modBit 0
    let col := !o.modBit 1
    product (.mma o) 0xA0 ∧ product (.mmas o) 0xA1 ∧
    enters (.qblk o) 0xA2 [o.regA false (.oneOf [.f32])] [n0, n1, n2]
      ((if row then [(T n0).gbase] else []) ++ (if col then [(T n1).gbase] else []) ++ [(T n2).gbase])
      ((if row then (T n0).copyRanges e else []) ++ (if col then (T n1).copyRanges e else []) ++
        [((T n2).gbase, (T n2).plainBytes ((Tag.ofCode (T n2).fmt).getD .f32), false)]) own (w o.a.toNat) 0 0 rm
      ((row = true → copy n0 e.code 3) ∧ (col = true → copy n1 e.code 4) ∧
        (row = true → col = true → same n1 n0 ∧ (T n1).scale = (T n0).scale) ∧
        (∃ g ∈ [Tag.f32, .bf16x2, .f16x2], plain n2 g.code) ∧ same n2 (if row then n0 else n1)) ∧
    enters (.rqnt o) 0xA3 [o.regA false (.oneOf [.f32])] [n0, n1] [(T n0).gbase, (T n1).gbase]
      ((T n0).copyRanges e ++ (T n1).copyRanges e) own (w o.a.toNat) 0 0 rm
      (copy n0 e.code 3 ∧ copy n1 e.code 4 ∧ same n1 n0 ∧ (T n1).scale = (T n0).scale) ∧
    enters (.bpln o) 0xA4 [] [n0, n1] [(T n0).gbase, (T n1).gbase]
      [((T n0).gbase, (T n0).rows * ((planeFmt p).map fun q => recordSize q (T n0).cols).getD 0, true),
        ((T n1).gbase, (T n1).plainBytes p, false)] own 0 0 0 0
      ((T n0).fmt = p.code ∧ (T n0).space = 1 ∧ (T n0).layout = 2 ∧ (T n1).fmt = p.code ∧ (T n1).space ≤ 1 ∧ (T n1).layout ≤ 1 ∧ same n1 n0) ∧
    enters (.tld o) 0xA5 [] [n0, n1] [(T n1).gbase]
      [((T n1).gbase, if o.modBit 0 then (T n0).rawBytes h.tas64 else (T n1).plainBytes f, false)] own 0 0 0 0
      (tas n0 ∧ plain n1 f.code ∧ same n1 n0) ∧
    enters (.tst o) 0xA6 [] [n0, n1] [(T n0).gbase] [((T n0).gbase, (T n1).rawBytes h.tas64, true)] own 0 0 0 0
      ((T n0).fmt = 0 ∧ (T n0).space ≤ 1 ∧ tas n1) ∧
    enters (.tscl o) 0xA7 [o.regA false (.oneOf [.i32])] [n0] [] [] own (w o.a.toNat) 0 0 0 (tas n0) ∧
    enters (.tzero o) 0xA8 [] [n0] [] [] own 0 0 0 0 (tas n0) ∧
    (let upd : Prop := o.modBits 1 0 = 2
     let key : DWord := t.value (if o.isExt then o.c.toNat else o.d.toNat) true
     enters (.tdrn o) 0xA9 (drainOpnds o) [n0, n1] [(T n0).gbase] [((T n0).gbase, (T n0).plainBytes f, true)] own
      (if upd then w o.a.toNat else if o.rm = 5 then key else 0) (if upd then w o.b.toNat else 0)
      (if upd then w (if o.isExt then o.c.toNat else o.d.toNat) else if o.rm = 5 then key else 0) rm
      (plain n0 f.code ∧ tas n1 ∧ same n0 n1)) ∧
    enters (.tmove o) 0xAA [] [n0, n1] [] [] own 0 0 0 0 (tas n0 ∧ tas n1 ∧ same n1 n0)

/-- The states of an MMA (R232, R238, R239, R242): QUEUED leaves when it is the oldest entry of every queue it is in; RAIL
when every spanned rail stands at the attempt's voltage; the last compute step leads a log-class MMA to its adds and another
to its check, with no cell in error where the rails stand at 0.75 V; the check passes, locates one element a block, or starts
another attempt, the fourth failure ending it UNCORRECTABLE; a correction leaves each located cell fault-free. How an MMA ends
(R239, R240, R246, R292): with its adds complete, RETIRED; after a fourth failed check UNCORRECTABLE, with the trap
MATRIX_UNCORRECTABLE owed to its lane; with malformed metadata MALFORMED. It leaves the queues and its handle ends with the
outcome. The adds of a member go to its own TAS, block by block: to each accumulator the cell's sum times both tile scales,
exactly, or its special value (R125, R126). -/
def Obligations.MmaLife : Prop :=
  (∀ (s : State) (id : Nat) (a : ArrayOp), s.arrays.find? (fun z => z.id == id) = some a → a.isMma = true →
    let only (f : ArrayOp → ArrayOp) : List ArrayOp := s.arrays.map fun z => if z.id = id then f z else z
    let unlocated (z : ArrayOp) (e : CellErr) : Bool := !z.located.contains (e.member, 128 * e.row + e.col)
    let judged (v : Verdict → Prop) : Prop := ∀ n < a.span.length, v (a.verdict n)
    let failed : Prop := ∃ n < a.span.length, a.verdict n = .fail
    let rail (b : Nat) : Nat := (s.core b).rail.v
    let volts (b : Nat) : Nat := if a.mma.isLog || a.attempt == 4 then 7500 else if a.attempt = 1 then rail b
      else min (rail b + 250 * (a.attempt - 1)) 7500
    (a.st = .queued → (∀ z ∈ s.arrays, z.id < id → ∀ m ∈ z.span, ∀ n ∈ a.span, m.1 ≠ n.1) →
      exec (.mmaStart id) s = .next { s with arrays := only fun z => { z with st := .rail } }) ∧
    (a.st = .rail → ∃ u, exec (.mmaRailReady id) s = .next u ∧ u.arrays = only (fun z => { z with st := .fetch }) ∧
      ∀ m ∈ a.span, m.1 < 160 → (u.core m.1).rail.v = rail m.1 ∧ (u.core m.1).rail.raised.getD (rail m.1) = volts m.1) ∧
    (a.st = .compute → a.mma.isLog = true → ∃ u, exec (.mmaLastStep id) s = .next u ∧ u.arrays = only fun z => { z with st := .add }) ∧
    (a.st = .compute → a.mma.isLog = false → (∀ m ∈ a.span, (s.core m.1).finj.getLsbD 31 = false) →
      exec (.mmaLastStep id) s = .next { s with arrays := only fun _ => { a with errs := s.railErrors a, st := .check } } ∧
      ((∀ m ∈ a.span, 7500 ≤ (s.core m.1).rail.raised.getD (rail m.1)) → s.railErrors a = [])) ∧
    (a.st = .check → judged (· = .pass) →
      ∃ u, exec (.mmaCheckDone id) s = .next u ∧ u.arrays = only fun z => { z with st := .add }) ∧
    (a.st = .check → ¬ failed → ¬ judged (· = .pass) →
      ∃ found ms, exec (.mmaCheckDone id) s =
          .next { s with arrays := only fun z => { z with st := .correct, located := found, injected := { z.injected with members := ms } } } ∧
        ((∀ e ∈ a.errs, e.inj = false) → ms = []) ∧
        ∀ n i j, (n, 128 * i + j) ∈ found ↔ n < a.span.length ∧ ∃ i' j', a.verdict n = .located i' j' ∧ 128 * i' + j' = 128 * i + j) ∧
    (a.st = .check → failed → a.attempt < 4 → ∃ u again, exec (.mmaCheckDone id) s = .next u ∧
      ((∀ e ∈ a.errs, e.inj = false) → again = 0) ∧ u.arrays = only fun z =>
        { z with st := .rail, attempt := z.attempt + 1, errs := [], located := [],
                 injected := { z.injected with reissues := z.injected.reissues + again } }) ∧
    (a.st = .correct → ∃ u, exec (.mmaCorrectDone id) s = .next u ∧
      u.arrays = only fun z => { z with st := .add, corr := z.located.length, errs := z.errs.filter (unlocated z) })) ∧
  (∀ (s : State) (id b team : Nat) (rest : List (Nat × Nat)) (a : ArrayOp),
    s.arrays.find? (fun z => z.id == id) = some a → a.isMma = true → a.span = (b, team) :: rest → b < 160 → a.handle < 1024 →
    (s.handle b a.handle).st = .pending →
    let ended (u : State) (outcome : Nat) (fail : Option (Nat × DWord)) : Prop :=
      u.arrays = s.arrays.filter (fun z => z.id != id) ∧ (u.handle b a.handle).st = .ended ∧
      (u.handle b a.handle).word = BitVec.ofNat 32 (outcome * 2 ^ 29) ∧ (u.handle b a.handle).fail = fail
    (a.st = .add → ∃ u, exec (.mmaAddDone id) s = .next u ∧ ended u 1 none ∧
      ∀ tm, rest = [] → (s.core b).team team = some tm →
        (u.core b).tas = ((a.mma.tD.blocks.filter fun q => decide (16 * q.2 < a.mma.cols 0)).foldl (fun (c : Core) q => c.addTas (tm.block (s.teamHdr tm).tas64 a.mma.tD.tasBase q)
          (s.teamHdr tm).tas64 ((List.range 16).map fun k =>
            if 16 * q.2 + k < a.mma.cols 0 then a.addend 0 q.1 (16 * q.2 + k) else .zero false)) (s.core b)).tas) ∧
    (a.st = .check → a.attempt = 4 → (∃ n < a.span.length, a.verdict n = .fail) →
      ∃ u, exec (.mmaCheckDone id) s = .next u ∧ ended u 2 (some (0x12, 0))) ∧
    (a.st = .fetch → s.storesSeen a = true → ∀ u0 da md oa ob sa sb db, s.mmaFetch a a.mma = (u0, .ok (da :: md :: oa :: ob :: sa :: sb :: db)) →
      let r := a.mma.sums a.span.length da md (if a.mma.offsA then some oa else none) db (if a.mma.offsB then some ob else none)
      (∀ at_, r = .inr at_ → ∃ u, exec (.mmaOperandsDelivered id) s = .next u ∧
        ended u 4 (some (0x09, BitVec.ofNat 64 (ownSpad a.mma.tA.sparse + at_)))) ∧
      (∀ q, r = .inl q → ∃ u, exec (.mmaOperandsDelivered id) s = .next u ∧ ∃ z, u.arrays.find? (fun z => z.id == id) = some z ∧
        z.st = .compute ∧ z.emax = q.emax ∧ z.good = q.good ∧ z.guardRows = q.rows ∧ z.guardCols = q.cols ∧ z.errs = []))) ∧
  ∀ (a : ArrayOp) (n i j : Nat) (cell : CellSum), (a.good.getD n [])[i * a.mma.cols n + j]? = some cell →
    let sa := FloatFmt.f32.decode (a.scales.getD 0 0x3F800000)
    let sb := FloatFmt.f32.decode (a.scales.getD 1 0x3F800000)
    let got := a.addend n i j
    (cell.spec = 0 → sa.finite = true → sb.finite = true →
      got.Is ((a.cell n i j : ℝ) * 2 ^ (a.emax - 85) * (sa.real * sb.real))) ∧
    (cell.spec = 3 ∨ sa.isNaN = true ∨ sb.isNaN = true → got.isNaN = true) ∧
    (∀ neg : Bool, cell.spec = (if neg then 2 else 1) → sa.finite = true → sb.finite = true →
      if sa.real * sb.real = 0 then got.isNaN = true else got = .inf (neg != (sa.neg != sb.neg)))

/-- What an attempt computes of its operands' bytes: the anchor, above every product and offset; in each cell the sum of its terms, each the
product in its class with both offsets, truncated toward zero onto the grid 2^(Emax − 85), and its special state; of a sparse row the
terms at the positions its metadata marks, or the first malformed word; and the checksums of rows and columns, exact sums of the finite
terms truncated once (R124, R126, R233, R234, R236, R237).
The verdict on a block whose checksums are its true sums: with no cell in error it passes; with one cell off by more than
the tolerance 129 Keff, and sums that stay within 96 bits, exactly that cell is located (R237, R238). TCHK writes the record
of the tile register's last ended MMA, or waits in the background for the one under way; the tuner steps a rail by 2.5 mV at
the end of a window of 2^16 retirements, within 0.50 V and 0.75 V; an idle array's raised rail returns (R242, R243, R258). -/
def Obligations.GuardAndRails : Prop :=
  ([Tag.f64, .f32, .bf16x2, .f16x2, .e5m2x4, .e4m3x4, .e2m1x8, .i8x4, .n8x4, .i4x8].map topOf = [1024, 128, 128, 16, 16, 9, 3, 8, 8, 4]) ∧
  (∀ (i : Mma) (f : PlaneFmt) (span : Nat) (a md : List Byte) (oa ob : Option (List Byte)) (b : List (List Byte)),
    planeFmt i.fB = some f → b.length = i.k → 0 < i.k → (∀ n, i.nsp = some n → i.k0 % 12 = 0 ∧ i.k % 12 = 0) →
    let nb := (i.kk + 31) / 32
    let word (r g : Nat) : Nat :=
      (md.getD (2 * (r * (i.kk / 12) + g)) 0).toNat + 256 * (md.getD (2 * (r * (i.kk / 12) + g) + 1) 0).toNat
    let bad (r g : Nat) : Prop := ∃ n, i.nsp = some n ∧ (4096 ≤ word r g ∨ popcount (word r g) 12 ≠ n)
    let stored (r t : Nat) : Option Nat := match i.nsp with
      | none => some (i.k0 + t)
      | some n => let w := word r ((i.k0 + t) / 12)
        if w.testBit (t % 12) then some ((i.k0 + t) / 12 * n + popcount w (t % 12)) else none
    let terms (r c : Nat) : List Val := (List.range i.k).filterMap fun t => (stored r t).map fun at_ =>
      termOf i.cls (i.fA.elemFmt.decode (elem i.fA.elemBits (leNat a) (r * i.tA.cols + at_)), offsetAt oa (r * nb + (i.k0 + t) / 32))
        (readPlanes i.fB f i.isLog (if i.q = 1 then i.h else f.sp) (recordElem f i.n (b.getD t []) c), offsetAt ob (c * nb + (i.k0 + t) / 32))
    let blockOf (k : Nat) : Prop := i.k0 / 32 ≤ k ∧ k ≤ (i.k0 + i.k - 1) / 32
    (∀ r < i.m, ∀ g < i.k / 12, bad r (i.k0 / 12 + g) →
      (∀ r' g', g' < i.k / 12 → r' < r ∨ r' = r ∧ g' < g → ¬ bad r' (i.k0 / 12 + g')) →
      i.sums span a md oa b ob = .inr (2 * (r * (i.kk / 12) + (i.k0 / 12 + g)))) ∧
    ((∀ r < i.m, ∀ g < i.k / 12, ¬ bad r (i.k0 / 12 + g)) → ∃ res ma mb, i.sums span a md oa b ob = .inl res ∧
      GreatestOrZero (fun x => ∃ r < i.m, ∃ k, blockOf k ∧ offsetAt oa (r * nb + k) = some x) ma ∧
      GreatestOrZero (fun x => ∃ c < i.n, ∃ k, blockOf k ∧ offsetAt ob (c * nb + k) = some x) mb ∧
      res.emax = topOf i.fA + topOf i.fB + ma + mb ∧
      ∀ n < span,
        (∀ r < i.m, ∀ j < i.cols n, ∃ cell, (res.good.getD n [])[r * i.cols n + j]? = some cell ∧
          CellIs (res.emax - 85) (terms r (128 * n + j)) cell) ∧
        (∀ r < i.m, (res.rows.getD n [])[r]? = some (towardZero
          (((List.range (i.cols n)).map fun j => ((terms r (128 * n + j)).map Val.real).sum).sum / 2 ^ (res.emax - 85)))) ∧
        ∀ j < i.cols n, (res.cols.getD n [])[j]? = some (towardZero
          (((List.range i.m).map fun r => ((terms r (128 * n + j)).map Val.real).sum).sum / 2 ^ (res.emax - 85))))) ∧
  (∀ (a : ArrayOp) (n : Nat) (p : Nat → Nat → Int),
    let rows := a.mma.m
    let cols := a.mma.cols n
    (∀ i < rows, ∀ j < cols, -(2 ^ 94) ≤ p i j ∧ p i j < 2 ^ 94 ∧
      ((a.good.getD n [])[i * cols + j]?).map CellSum.p = some (p i j)) →
    (∀ i < rows, (a.guardRows.getD n [])[i]? = some (((List.range cols).map (p i)).sum)) →
    (∀ j < cols, (a.guardCols.getD n [])[j]? = some (((List.range rows).map fun i => p i j).sum)) →
    ((∀ e ∈ a.errs, e.member ≠ n) → a.verdict n = .pass) ∧
    ∀ i j d inj, i < rows → j < cols → a.errs = [⟨n, i, j, d, inj⟩] → -(2 ^ 94) ≤ d → d < 2 ^ 94 →
      (129 * (a.mma.keff : Int) < d ∨ d < -(129 * (a.mma.keff : Int)) → a.verdict n = .located i j) ∧
      (-(129 * (a.mma.keff : Int)) ≤ d ∧ d ≤ 129 * a.mma.keff → a.verdict n = .pass)) ∧
  ((∀ (o : Enc) (s : State) (cur : Cur) (c : Crew) (l : Nat), Alone s cur c l o false [] (some (o.d.toNat, false)) [] →
    let x : Lane := ⟨cur.core, cur.slot, l⟩
    s.failureOf x [1] = none → exec (.tchk o) s = .next ((s.producer x (some o.d.toNat) false
      (match (c.record (o.w2Bits 3 0)).op with
        | some id => .tchk id
        | none => .value ((c.record (o.w2Bits 3 0)).word.setWidth 64) .n32)).onward x (cur.pc + BitVec.ofNat 64 o.bytes))) ∧
  (∀ (s : State) (b : Nat), b < 160 →
    let r := (s.core b).rail
    let target := (s.core b).crTarget.toNat
    let v := if target = 0 then 7500 else if 0 < r.r ∨ r.failed = true ∨ target < 16 * r.c then min (r.v + 25) 7500
      else if 16 * r.c < target then max (r.v - 25) 5000 else r.v
    (r.retired < 2 ^ 16 → exec (.railTunerStep b) s = .next s) ∧
    (2 ^ 16 ≤ r.retired → exec (.railTunerStep b) s =
      .next (s.modCore b fun c => { c with rail := { r with v, c := 0, r := 0, failed := false, retired := 0 } })) ∧
    ((∀ z ∈ s.arrays, z.st ≠ .queued → ∀ m ∈ z.span, m.1 ≠ b) →
      exec (.logRailReturn b) s = .next (s.modCore b fun c => { c with rail := { c.rail with raised := none } }))))

/-- The tile path runs the oldest entry of a core's queue: it starts once the lane's own earlier stores are done, and ends
RETIRED with its writes made to memory and to its team's TAS; that it reads, writes and ends in this one step is the model's reading (log
entry 55). TZERO leaves each block its tile touches at its reset value and no other block changed (R251, R252, R253, R264).
An add to a block is bfp_add, and a block's bytes hold its fields (R121, R122); a bit-plane record holds its row, from which each class
reads what the row's codes are (R229). Of an entry whose tiles passed their checks: QBLK's copies hold the block rule's codes and offsets
with the scale, RQNT's the same of the values the old ones had, a NaN block as it was (R259, R260); BPLN's records hold the source, plain or
transposed (R261); TLD enters the elements into blocks at reset, or loads images, and TST stores images (R262, R263); TSCL moves
exponents, TMOVE copies or adds (R264); TDRN writes each accumulator, its sum with the element, or the update, rounded once (R265). -/
def Obligations.TilePath : Prop :=
  ((∀ (b : TasBlock) (vs : List Val), BlockOk b → BfpAdd b vs (bfpAdd b vs)) ∧
  (∀ (b : TasBlock), BlockOk b →
    let n := 16 * b.w
    b.bits < 2 ^ (n + 56) ∧ bits b.bits (n + 15) n = wrap 16 b.x ∧ bits b.bits (n + 55) (n + 48) = b.grow ∧
    (∀ i < 16, elem b.w b.bits i = wrap b.w (b.m.getD i 0) ∧ elem 2 (b.bits / 2 ^ (n + 16)) i = b.spec.getD i 0 ∧
      match b.spec.getD i 0 with
      | 0 => (b.value i).Is ((b.m.getD i 0 : ℝ) * 2 ^ b.x)
      | 1 => b.value i = .inf false
      | 2 => b.value i = .inf true
      | _ => (b.value i).isNaN = true) ∧
    ∀ n : Int, let e := b.x + n
      let u := b.shift n
      u.idx = b.idx ∧ u.dbl = b.dbl ∧ u.grow = b.grow ∧
      (-32768 ≤ e → e ≤ 32767 → u = { b with x := e }) ∧
      (32767 < e → u.x = 32767 ∧ u.m = b.m ∧ ∀ i < 16, u.spec[i]? = some
        (if b.spec.getD i 0 = 0 ∧ b.m.getD i 0 ≠ 0 then (if b.m.getD i 0 < 0 then 2 else 1) else b.spec.getD i 0)) ∧
      (e < -32768 → u.x = -32768 ∧ u.spec = b.spec ∧ ∀ i < 16, u.m[i]? = some ⌊(b.m.getD i 0 : ℝ) / 2 ^ (-32768 - e).toNat⌋)) ∧
  (∀ (t : Tag) (f : PlaneFmt) (row : List Nat), planeFmt t = some f →
    RecordIs t f row (planeRecord t f row) ∧
    ∀ (j x : Nat), row[j]? = some x →
      let got (log : Bool) (h : Nat) : Val := readPlanes t f log h (recordElem f row.length (planeRecord t f row) j)
      match t.elemFmt.decode x with
      | .nan .. => ∀ log, (got log f.sp).isNaN = true
      | .inf n => ∀ log, got log f.sp = .inf n
      | .zero n => ∀ log, got log f.sp = .zero n
      | .fin n m e => (got true f.sp).Is (realOf n m e) ∧
        ∀ h, 0 < h → h ≤ f.sp → (got false h).Is (realOf n (m - m % 2 ^ (f.sp - h)) e)) ∧
  (∀ f ∈ [Tag.e4m3x4, .e5m2x4, .e2m1x8, .i8x4], ∀ (rm : Rm) (s : Val) (xs : List Val),
    (∀ n m e, (s = .fin n m e ∨ Val.fin n m e ∈ xs) → 0 < m) → Quantises f rm s xs (quantBlock f rm s xs))) ∧
  (∀ (a : ArrayOp) (tm : Team) (dbl : Bool) (c : Core),
    let e := a.job.enc
    let t0 := a.tile 0
    let t1 := a.tile 1
    let w := a.work tm dbl c
    let same (t u : Tile) : Prop := t.rows = u.rows ∧ t.cols = u.cols
    let code (f : Tag) (d : List Byte) (k : Nat) : Nat := elem f.elemBits (leNat d) k
    let f32 (v : DWord) : Val := FloatFmt.f32.decode (v.toNat % 2 ^ 32)
    let rm := Rm.ofCode a.job.rm
    let small (t : Tile) : Prop := t.rows ≤ 128 ∧ t.cols ≤ 128
    let blk (t : Tile) (b : Nat × Nat) : Nat := tm.block dbl t.tasBase b
    let inTile (t : Tile) (b : Nat × Nat) : Prop := b.1 < t.rows ∧ 16 * b.2 < t.cols
    -- every block of the tile holds what it should, and no other block has changed
    let leaves (t : Tile) (ds : List (List Byte)) (p : Nat × Nat → TasBlock → Prop) : Prop :=
      (∀ b, inTile t b → p b ((w.tas ds c).tasBlock (blk t b) dbl)) ∧ TasFrame c (w.tas ds c) (t.units tm dbl) dbl
    let image (base : Nat) (b : Nat × Nat) : Nat := base + (if dbl then 256 else 128) * (8 * b.1 + b.2)
    (a.job.opc = 0xA2 → ∀ fS : Tag, Tag.ofCode (a.tile 2).fmt = some fS → ∀ d : List Byte,
      let f := e.fmt .e4m3x4
      let tS := a.tile 2
      let quant (cells : List (Nat × Nat)) : Nat × List Nat :=
        quantBlock f rm (f32 a.job.a) (cells.map fun p => fS.elemFmt.decode (code fS d (p.1 * tS.cols + p.2)))
      f ∈ [Tag.e4m3x4, .e5m2x4, .e2m1x8, .i8x4] →
      (e.modBit 0 = false → t0.layout = 3 ∧ same t0 tS) → (e.modBit 1 = false → t1.layout = 4 ∧ same t1 tS) →
      w.reads = [(tS.gbase, (tS.rows * tS.cols * fS.elemBits + 7) / 8)] ∧ w.tas [d] c = c ∧
      ∃ wr wc, w.mem [d] = wr ++ wc ∧
        (if e.modBit 0 then wr = [] else CopyHolds f t0 (a.job.a.toNat % 2 ^ 32) quant wr) ∧
        (if e.modBit 1 then wc = [] else CopyHolds f t1 (a.job.a.toNat % 2 ^ 32) quant wc)) ∧
    (a.job.opc = 0xA3 → ∀ (p : PlaneFmt) (plain records offs0 offs1 old spare : List Byte) (old1 : Nat → Nat → Nat),
      let f := e.fmt .e4m3x4
      let s := FloatFmt.f32.decode (leNat old)
      let ds := [plain, offs0, old, records, offs1, spare]
      f ∈ [Tag.e4m3x4, .e5m2x4, .e2m1x8, .i8x4] → planeFmt f = some p → t0.layout = 3 → t1.layout = 4 → (∀ r k, old1 r k < 2 ^ f.elemBits) →
      records = (List.range t1.rows).flatMap (fun r => planeRecord f p ((List.range t1.cols).map (old1 r))) →
      let quant (off : Nat) (codes : List Nat) : Nat × List Nat :=
        if off = 255 then (255, codes)
        else quantBlock f rm (f32 a.job.a) (codes.map fun q => match (fpMul .exact (f.elemFmt.decode q) s).1 with
          | .fin n m x => .fin n m (x + off - 127)
          | v => v)
      w.tas ds c = c ∧ ∃ wr wc, w.mem ds = wr ++ wc ∧
        CopyHolds f t0 (a.job.a.toNat % 2 ^ 32) (fun cells => quant
          ((offs0.getD ((cells.headD (0, 0)).1 * ((t0.cols + 31) / 32) + (cells.headD (0, 0)).2 / 32) 0).toNat)
          (cells.map fun q => code f plain (q.1 * t0.cols + q.2))) wr ∧
        CopyHolds f t1 (a.job.a.toNat % 2 ^ 32) (fun cells => quant
          ((offs1.getD ((cells.headD (0, 0)).2 * ((t1.rows + 31) / 32) + (cells.headD (0, 0)).1 / 32) 0).toNat)
          (cells.map fun q => old1 q.1 q.2)) wc) ∧
    (a.job.opc = 0xA4 → same t0 t1 → ∀ (p : PlaneFmt) (d : List Byte), planeFmt (e.fmt .bf16x2) = some p → w.tas [d] c = c ∧
      w.mem [d] = [(t0.gbase, (List.range t0.rows).flatMap fun r => planeRecord (e.fmt .bf16x2) p ((List.range t0.cols).map fun k =>
        code (e.fmt .bf16x2) d (if t1.layout = 1 then k * t1.rows + r else r * t1.cols + k)))]) ∧
    (a.job.opc = 0xA5 → small t0 →
      (e.modBit 0 = false → same t1 t0 → ∀ d, w.mem [d] = [] ∧ leaves t0 [d] fun b u => BfpAdd (tasReset (blk t0 b) dbl)
        ((List.range 16).map fun k => if 16 * b.2 + k < t0.cols then
          (e.fmt .f32).elemFmt.decode (code (e.fmt .f32) d (b.1 * t0.cols + (16 * b.2 + k))) else .zero false) u) ∧
      (e.modBit 0 = true → ∀ ds, ds.length = w.reads.length → w.mem ds = [] ∧ leaves t0 ds fun b u => ∃ (k : Nat) (d : List Byte),
        w.reads[k]? = some (image t1.gbase b, if dbl then 256 else 128) ∧ ds[k]? = some d ∧
        u.dbl = dbl ∧ u.bits = leNat d % 2 ^ (16 * u.w + 56))) ∧
    (a.job.opc = 0xA6 → ∀ ds, w.tas ds c = c ∧ ∀ q, q ∈ w.mem ds ↔
      ∃ b, inTile t1 b ∧ q = (image t0.gbase b, leBytes (if dbl then 256 else 128) (c.tasBlock (blk t1 b) dbl).bits)) ∧
    (a.job.opc = 0xA7 → small t0 → ∀ ds, w.mem ds = [] ∧
      leaves t0 ds fun b u => u = (c.tasBlock (blk t0 b) dbl).shift (signed 32 a.job.a.toNat)) ∧
    (a.job.opc = 0xA9 → small t1 → same t0 t1 → ∀ ds,
      let f := e.fmt .f32
      let d := ds.headD []
      (if e.modBit 3 then leaves t1 ds fun b u => u = tasReset (blk t1 b) dbl else w.tas ds c = c) ∧
      ∃ out : List Byte, w.mem ds = [(t0.gbase, out)] ∧ out.length = (t0.rows * t0.cols * f.elemBits + 7) / 8 ∧
        ∀ i < t0.rows, ∀ j < t0.cols,
          let g := (c.tasBlock (blk t1 (i, j / 16)) dbl).value (j % 16)
          let x := f.elemFmt.decode (code f d (i * t0.cols + j))
          let (eta, sc, lam) := (f32 a.job.a, f32 a.job.b, f32 a.job.c)
          ∃ (v : Val) (r : Nat), code f out (i * t0.cols + j) = (f.elemFmt.round rm r (e.modBit 2) v).1 % 2 ^ f.elemBits ∧
            (a.job.rm = 5 → r = kmix a.job.c.toNat (i * 1024 + j) (e.w2Bits 27 12) % 65536) ∧
            match e.modBits 1 0 with
            | 0 => v = g
            | 1 => v = (fpAdd rm x g).1
            | _ => (g.finite && x.finite && eta.finite && sc.finite && lam.finite) = true →
                v.Is (x.real - eta.real * (sc.real * g.real + lam.real * x.real))) ∧
    (a.job.opc = 0xAA → small t0 → same t1 t0 → (t0.tasBase / tasTileSize dbl) ≠ (t1.tasBase / tasTileSize dbl) ∨ t0.tasBase = t1.tasBase →
      ∀ ds, w.mem ds = [] ∧ leaves t0 ds fun b u =>
        let from_ := c.tasBlock (blk t1 b) dbl
        if e.modBit 0 then BlockOk (c.tasBlock (blk t0 b) dbl) → BfpAdd (c.tasBlock (blk t0 b) dbl) ((List.range 16).map from_.value) u
        else u = { from_ with idx := blk t0 b })) ∧
  ∀ (s : State) (core : Nat) (a : ArrayOp), core < 160 →
    s.arrays.find? (fun z => z.span.any fun m => m.1 == core) = some a → a.isMma = false →
    (a.st = .queued → s.storesSeen a = true → ∃ u, exec (.tilePathStart core) s = .next u ∧
      u.arrays = s.arrays.map fun z => if z.id = a.id then { z with st := .running } else z) ∧
    (a.st = .running → ∀ b tm dbl, s.opTeam a = some (b, tm, dbl) →
      let w := a.work tm dbl (s.core b)
      (∀ s1 ds s2, s.opReads a w.reads = (s1, .ok ds) → (s.core b).tasBad dbl w.tasReads = none →
        s1.opClaims a ((w.mem ds).map fun r => (r.1, r.2.length)) = (s2, true) →
        exec (.tilePathEnd core) s = .next (((((w.mem ds).foldl (fun (s : State) r => s.opWrite a r.1 r.2) s2).modCore b
          (w.tas ds)).endArray a 1 0).wakeAll)) ∧
      (a.job.opc = 0xA8 → b < 160 → ∃ u, exec (.tilePathEnd core) s = .next u ∧ MemorySame s u ∧
        (∀ q ∈ (a.tile 0).units tm dbl, (u.core b).tasBlock q dbl = tasReset q dbl) ∧
        ∀ z ∈ (s.core b).tas, (∀ q ∈ (a.tile 0).units tm dbl, ¬ z.covers q ∧ (dbl = true → ¬ z.covers (q + 1))) → z ∈ (u.core b).tas))

/-! The copy, Geyser, near-memory and collective engines, and tasks (14, 15, 17, 18). -/

/-- CPYK, PKL, PKLB, NMC and COLL: a lane whose descriptor can be read and passes the checks, whose earlier accesses are done
and for which there is room enters one operation in its engine, writes the handle to D and is a release (R288, R290, R292,
R297, R303, R308, R312). NMF with no near-memory work of its crew left and no failure waiting for the lane is an acquire
(R311). -/
def Obligations.EnginesIssue : Prop :=
  ∀ (o : Enc) (s : State) (cur : Cur) (c : Crew) (l k : Nat) (d : List Byte) (q : Nat × Nat × Nat),
    let x : Lane := ⟨cur.core, cur.slot, l⟩
    let t := c.thread l
    let next := cur.pc + BitVec.ofNat 64 o.bytes
    let va := valA o true t
    let a : Opnd := o.regA true (.only .addr)
    let seed : Opnd := o.regB true (.oneOf [.n64, .i64])
    let n32 : Opnd := o.regC false (.oneOf [.n32, .i32])
    let own := ((s.teamOf x.core x.slot).map Team.id).getD 0
    let ready (srcs : List Opnd) (classes : List Nat) (size al : Nat) : Prop :=
      Alone s cur c l o false srcs (some (o.d.toNat, false)) [] ∧ s.failureOf x classes = none ∧
      s.descriptor x va size al (some o.d.toNat) = .inl (d, q) ∧ s.quiet x = true ∧ (s.core x.core).freeHandle = some k ∧ k < 1024
    let taken (cls : Nat) : State := { s.slotTaken x cls k with nextId := s.nextId + 2 }
    let done (u : State) (cls : Nat) : State :=
      ((u.onThread x fun t => t.write o.d.toNat false (BitVec.ofNat 64 (s.nextHandle x.core cls k)) .handle).releaseAfter x next).onward x next
    let eng (u : State) (kind : EngKind) (seed seqNo : Nat) (pages : List (Nat × Nat)) (number : Nat) : State :=
      u.modCore x.core fun w => { w with engs := w.engs ++ [
        { id := s.nextId + 1, kind, part := s.partOf x.core, team := own, slot := x.slot, handle := k, descAddr := va, desc := d, seed,
          seqNo, pages, via := pages.filterMap fun p => s.entryOf x p.1, started := false, source := [], skip := [], done := [], stop := none, waitRid := none, parts := [],
          chunks := [], resent := 0, number, smode := t.priv }] }
    let few (p : EngKind → Bool) (n : Nat) : Prop := ((s.core x.core).engs.filter fun e => p e.kind).length < n
    let det := (s.hdrOf x.core x.slot).det
    (ready [a] [2] 64 64 → s.copyTrap x d va (s.copyReq x d) = none → (s.core x.core).copies.length < 64 →
      let op : CopyOp :=
        { id := s.nextId + 1, part := s.partOf x.core, team := own, reqAddr := va % 2 ^ 22, req := s.copyReq x d, handle := some k,
          channel := none, dests := s.copyDests x (s.copyReq x d), issued := [], done := (s.copyDests x (s.copyReq x d)).map fun _ => 0,
          released := [], waitRid := none, stop := none, peer := none, ahead := [], smode := t.priv,
          members := (s.copyDests x (s.copyReq x d)).map fun z => (((s.core z.2).team z.1).map s.f1).getD 0 }
      exec (.cpyk o) s = .next (done (((taken 2).modCore x.core fun w =>
        { w with copies := w.copies ++ [op] }).issueCopy x.core (s.nextId + 1)) 2)) ∧
    (ready [a, seed] [3, 4] 64 64 → s.geyserTrap x d va false = none → few (fun e => e == .pkl || e == .pklb) 16 →
      exec (.pkl o) s = .next (done (eng (taken 3) .pkl (t.value o.b.toNat true).toNat 0 [] 0) 3)) ∧
    (ready [a, seed, n32] [3, 4, 5] 64 64 → s.geyserTrap x d va true = none → det = false → few (fun e => e == .pkl || e == .pklb) 16 →
      exec (.pklb o) s = .next (done (eng (taken 4) .pklb (t.value o.b.toNat true).toNat (valC o false t) [] 0) 4)) ∧
    (ready [a, seed] [4, 5] 32 128 →
      let n := NmBlock.of d
      ∀ pages, n.wellShaped d = true → s.nmTrap x n = none → s.nmPages x n = .inl pages →
      (n.reads = true → n.src / 2 ^ 48 ≠ 0xFFFE → ∀ p ∈ pageSplit n.src (n.granules * n.perGranule), s.windowTrap x p.1 = none) →
      (n.op = 4 ∨ det = false) → few (· == .nmc) 32 →
      exec (.nmc o) s = .next (done (eng (taken 5) .nmc (t.value o.b.toNat true).toNat n.seq pages 0) 5)) ∧
    (ready [a] [6] 64 64 → s.collTrap x d va = none → few (· == .coll) 8 →
      let p := s.partOf x.core
      let g := (CollDesc.of d).group
      exec (.coll o) s = .next (done (eng ((taken 6).modPart p fun y => { y with collSeq := updateAt (· + 1) y.collSeq g })
        .coll 0 0 [] ((s.part p).collSeq.getD g 0)) 6)) ∧
    (Alone s cur c l o false [] none [] → s.failureOf x [4, 5] = none →
      (∀ e ∈ (s.core x.core).engs, e.slot = x.slot → e.kind ≠ .nmc ∧ e.kind ≠ .pklb) →
      exec (.nmf o) s = .next ((s.acquire x.core).onward x next))

/-- CPYREL records its team's release of the latest issued iteration of a stage of a looping copy and so may let the next one
be issued; with no such copy it does nothing (R299). CPYQ gives, of the latest copy from the request address that has not ended, else
of the latest that has, the bytes a destination has received, or the address of the first fault; with none, or for a destination
that the copy does not have, all ones (R300). -/
def Obligations.CopyQueries : Prop :=
  ∀ (o : Enc) (s : State) (cur : Cur) (c : Crew) (l b : Nat) (tm mine : Team),
    let x : Lane := ⟨cur.core, cur.slot, l⟩
    let t := c.thread l
    let next := cur.pc + BitVec.ofNat 64 o.bytes
    let va := valA o true t
    let n := (t.value o.b.toNat false).toNat
    let srcs : List Opnd := [o.regA true (.only .addr), o.regB false (.oneOf [.n32, .i32])]
    let found := (s.core b).copyFrom tm.id va
    s.failureOf x [2] = none → s.requestTeam x va = .inl (b, tm) → s.teamOf x.core x.slot = some mine →
    (Alone s cur c l o false srcs none [] →
      (found = none → exec (.cpyrel o) s = .next (s.onward x next)) ∧
      ∀ cp last, found = some cp → cp.req.looping = true → n < cp.req.stages → last ∈ cp.issued → last % cp.req.stages = n →
        (∀ m ∈ cp.issued, m % cp.req.stages = n → m ≤ last) → last + cp.req.stages < cp.req.passes →
        (∃ z, (mine.id, z) ∈ cp.dests) → (last, mine.id) ∉ cp.released →
        (s.core x.core).loadsOutstanding x.slot x.lane t.seq = false →
        (∀ p ∈ (s.core x.core).pendOf x.slot x.lane, p.isStore = true → ∀ bb kk off m, p.place ≠ some (.spad bb kk off, m)) →
        exec (.cpyrel o) s = .next (((s.modCopy b cp.id fun z => { z with released := z.released ++ [(last, mine.id)] }).issueCopy b
          cp.id).onward x next)) ∧
    (Alone s cur c l o false srcs (some (o.d.toNat, true)) [] →
      let gives (v : DWord) : Prop := exec (.cpyq o) s = .next ((s.producer x (some o.d.toNat) true
        (.value v (if o.modBit 0 then .addr else .n64))).onward x next)
      let known := found.orElse fun _ => (s.core b).oldCopies.find? fun z => z.team == tm.id && z.reqAddr == va % 2 ^ 22 && z.handle.isSome
      (∀ cp i, known = some cp → cp.destAt n = some i →
        gives (BitVec.ofNat 64 (if o.modBit 0 then (cp.stop.map (·.2)).getD 0
          else cp.done.getD i 0 * cp.req.itemBytes + (if cp.req.xform = 3 then 0 else cp.written)))) ∧
      (∀ cp, known = some cp → cp.destAt n = none → gives (BitVec.allOnes 64)) ∧
      (known = none → gives (BitVec.allOnes 64)))

/-- SPAWN and DEPC apply one event to a task of the lane's graph, are releases, and give its status in D (R278, R315, R368);
what the event does: a counter set or lowered leaves the task WAITING, one that reaches zero makes it RUNNING with a launch of
its own. -/
def Obligations.TaskEvents : Prop :=
  (∀ (o : Enc) (s : State) (cur : Cur) (c : Crew) (l : Nat),
    let x : Lane := ⟨cur.core, cur.slot, l⟩
    let t := c.thread l
    let next := cur.pc + BitVec.ofNat 64 o.bytes
    let ab : List Opnd := [o.regA false (.oneOf [.n32, .i32]), o.regB false (.oneOf [.n32, .i32])]
    let dst := some (o.d.toNat, false)
    let done (u : State) (status : Nat) : State :=
      ((u.producer x (some o.d.toNat) false (.value (BitVec.ofNat 64 status) .n32)).releaseAfter x next).onward x next
    s.quiet x = true →
    (Alone s cur c l o false ab dst [] →
      let node := (t.value o.a.toNat false).toNat
      let count := (t.value o.b.toNat false).toNat
      (s.nodeTask x node = none → exec (.spawn o) s = .next (done s 3)) ∧
      ∀ p idx tk, s.nodeTask x node = some (p, idx) → (s.part p).task idx = some tk →
        (65535 < count → exec (.spawn o) s = .next (done s 4)) ∧
        (count ≤ 65535 → tk.st = .waiting ∨ tk.st = .running → exec (.spawn o) s = .next (done s 2)) ∧
        (count = 0 → tk.st ≠ .waiting → tk.st ≠ .running → exec (.spawn o) s = .next (done (s.startLaunch p idx) 1)) ∧
        (0 < count → count ≤ 65535 → tk.st ≠ .waiting → tk.st ≠ .running →
          exec (.spawn o) s = .next (done (s.modTask p idx fun z => { z with st := .waiting, count }) 0))) ∧
    (Alone s cur c l o true [o.litA false (.oneOf [.n32, .i32])] dst [] →
      let node := valLitA o false t
      (s.nodeTask x node = none → exec (.depc o) s = .next (done s 3)) ∧
      ∀ p idx tk, s.nodeTask x node = some (p, idx) → (s.part p).task idx = some tk →
        (tk.st ≠ .waiting → exec (.depc o) s = .next (done (s.modPart p fun z =>
          { z with run := z.run.map fun r => { r with discards := r.discards + 1 } }) 2)) ∧
        (tk.st = .waiting → 1 < tk.count → exec (.depc o) s = .next (done (s.modTask p idx fun z => { z with count := z.count - 1 }) 0)) ∧
        (tk.st = .waiting → tk.count ≤ 1 → exec (.depc o) s = .next (done (s.startLaunch p idx) 1)))) ∧
  ∀ (s : State) (p idx : Nat) (tk : Task), p < 9 → (s.part p).task idx = some tk →
    let u := s.startLaunch p idx
    (u.part p).task idx = some { tk with st := .running, count := 0 } ∧
    ∃ ln, (u.part p).launches = (s.part p).launches ++ [ln] ∧ ln.id = s.nextId ∧ ln.task = idx ∧ ln.hdr = tk.hdr ∧ ln.total = tk.hdr.teams ∧
      ln.patch = tk.patch ∧ ln.code = s.codeView ∧ ln.codeKeys = s.unitKeys ∧ ln.codeOld = s.codeOld ∧ ln.started = false ∧ ln.retired = 0 ∧ ln.killed = [] ∧ ln.next = 0 ∧ u.mem = s.mem

/-- TLBI (R358, R359): in S mode it asks the MP for an invalidation, of the lane's own partition's page or whole first stage,
or for partition 0 of a named partition's second stage, and the lane waits; once the last target has acknowledged, the lane
goes on. -/
def Obligations.TlbInvalidations : Prop :=
  (∀ (o : Enc) (s : State) (cur : Cur) (c : Crew) (l : Nat),
    let x : Lane := ⟨cur.core, cur.slot, l⟩
    let t := c.thread l
    let next := cur.pc + BitVec.ofNat 64 o.bytes
    let me := s.partOf x.core
    let a := (t.value o.a.toNat true).toNat
    let b := (t.value o.b.toNat false).toNat
    let part : Opnd := o.regB false (.oneOf [.n32, .i32])
    let waits (i : Instr) (p : Nat) (stage2 : Bool) (page : Option Nat) : Prop :=
      exec i s = .next (((({ s with nextId := s.nextId + 1 } : State).modPart p fun z => { z with invs := z.invs ++ [
        { id := s.nextId, stage2, page, asker := some (x.core, x.slot, x.lane), register := false, sent := false, left := [], quar := 0, next }]
        }).onThread x fun t => { t with st := .waitUnit, age := 0, miss := none }).settle x.core x.slot)
    t.priv = true → s.asked x = false → s.storing x = false →
      (Alone s cur c l o true [o.regA true (.only .addr)] none [] → waits (.tlbiVa o) me false (some a)) ∧
      (Alone s cur c l o true [] none [] → waits (.tlbiAll o) me false none) ∧
      (Alone s cur c l o true [o.regA true (.oneOf [.n64, .i64]), part] none [] → me = 0 → 1 ≤ b → b ≤ 8 → waits (.tlbiGpa o) b true (some a)) ∧
      (Alone s cur c l o true [part] none [] → me = 0 → 1 ≤ b → b ≤ 8 → waits (.tlbiGall o) b true none)) ∧
  ∀ (s : State) (p : Nat) (q : InvReq) (rest : List InvReq) (target : InvTarget) (b sl l : Nat), p < 9 → b < 160 →
    (s.part p).invs = q :: rest → (∀ r ∈ rest, r.id ≠ q.id) → q.sent = true → q.left = [target] → (target = .nearMemory → s.nearBusy p q = false) →
    q.register = false → q.asker = some (b, sl, l) → q.quar = 0 → (s.thread b sl l).st = .waitUnit ∨ (s.thread b sl l).st = .runnable → (s.thread b sl l).stepMark = false →
    (s.thread b sl l).haltMark = false →
    ∃ u, exec (.invalidationAck p target) s = .next u ∧ (u.part p).invs = rest ∧
      u.thread b sl l = { s.thread b sl l with pc := q.next, st := .runnable, age := 0, mark := none } ∧
      (∀ z, target = .core z → z < 160 → ∀ e ∈ (u.core z).tlb, q.covers p e = false) ∧
      (∀ z, target = .die z → z < 4 → ∀ e ∈ (u.die z).l2tlb, q.covers p e = false)

/-! Debugging (20). -/

/-- What the debugger does to the lanes of a team's crew (R395, R399): DHALT halts the runnable lanes and marks those that
wait; DRUN lets the halted lanes of its mask run; DSTEP releases the bundle that R318 selects among them and has the crew
issue at once, or with none halted writes 0. Each in S mode, on a slot that holds a team's crew. BKPT raises event 1 in a
U-mode lane of a team. That the mask is tagged N32 (log entry 25), and that lanes and masks number physical lanes, a bit of a mask
naming the pair of its visible lane (log entry 26), are the model's choices. -/
def Obligations.DebugControl : Prop :=
  (∀ (o : Enc) (s : State) (cur : Cur) (c z : Crew) (l sl : Nat),
    let x : Lane := ⟨cur.core, cur.slot, l⟩
    let t := c.thread l
    let next := cur.pc + BitVec.ofNat 64 o.bytes
    let a : Opnd := o.regA false (.oneOf [.n32, .i32])
    let b : Opnd := o.regB false (.oneOf [.n32, .i32])
    let m := (t.value o.b.toNat false).toNat
    let pair := (s.hdrOf x.core sl).pair
    let dst := some (o.d.toNat, false)
    let threads (ts : Vector Thread 32) : State := s.modCrew x.core sl fun z => { z with threads := ts }
    let freed (ts : Vector Thread 32) (named : Nat → Bool) (step : Bool) : Prop := ∀ j (h : j < 32), ts[j] =
      if named j = true ∧ (z.thread j).st = .halted then
        { z.thread j with st := .runnable, age := 0, haltMark := false, stepMark := step, skipBp := true }
      else z.thread j
    t.priv = true → (t.value o.a.toNat false).toNat = sl → sl < 63 → s.crew x.core sl = some z → (s.teamOf x.core sl).isSome →
      (Alone s cur c l o false [a] dst [] →
        ∃ ts, exec (.dhalt o) s = .next ((((threads ts).settle x.core sl).producer x (some o.d.toNat) false (.halting sl
            (((List.range 32).filter fun j => (z.thread j).st == .runnable).map (2 ^ ·)).sum)).onward x next) ∧
          ∀ j (h : j < 32), ts[j] = match (z.thread j).st with
            | .runnable => { z.thread j with st := .halted, age := 0 }
            | .exited | .halted => z.thread j
            | _ => { z.thread j with haltMark := true }) ∧
      (Alone s cur c l o false [a, b] none [] →
        ∃ ts, freed ts (fun j => m.testBit (if pair then j / 2 * 2 else j)) false ∧ exec (.drun o) s = .next ((threads ts).onward x next)) ∧
      (Alone s cur c l o false [a, b] dst [] → (∀ j < 32, m.testBit j = true → (z.thread j).st ≠ .halted) →
        exec (.dstep o) s = .next ((s.onThread x fun t => t.write o.d.toNat false 0 .n32).onward x next)) ∧
      (Alone s cur c l o false [a, b] dst [] → ∀ ls, (z.resorted s.cycle).stepBundle pair m = ls → ls ≠ [] →
        let took (j : Nat) : Bool := ls.contains (if pair then j / 2 * 2 else j)
        ∃ ts, freed ts took true ∧ exec (.dstep o) s = .next (State.onward { (threads ts).producer x (some o.d.toNat) false
          (.stepping sl (((List.range 32).filter took).map (2 ^ ·)).sum) with agenda := .issue x.core sl :: s.agenda } x next))) ∧
  ∀ (o : Enc) (s : State) (cur : Cur) (c : Crew) (l : Nat), Alone s cur c l o true [] none [] →
    let x : Lane := ⟨cur.core, cur.slot, l⟩
    let t := c.thread l
    let next := cur.pc + BitVec.ofNat 64 o.bytes
    let info := 2 ^ 28 + cur.slot * 2 ^ 22 + (if o.isExt then o.w2.toNat else o.off18.toNat)
    (t.priv = true ∨ s.teamOf x.core x.slot = none → exec (.bkpt o) s = .next (s.onward x next)) ∧
    (t.priv = false → (s.teamOf x.core x.slot).isSome → (s.core x.core).debug = true → exec (.bkpt o) s =
      .next (((s.onThread x fun t => { t with pc := next, st := .halted, age := 0, mark := none, watching := false }).appendEvent x.core
        (BitVec.ofNat 64 (2 ^ l * 2 ^ 32 + info))).settle x.core x.slot)) ∧
    (t.priv = false → (s.teamOf x.core x.slot).isSome → (s.core x.core).debug = false → t.handles = true → exec (.bkpt o) s =
      .next (((s.onThread x fun t => t.enterTrap { cause := 0x20, info, addr := cur.pc } next).dropAsk x.core x.slot (some l)).settle
        x.core x.slot))

/-- What the debugger reads and sets (R397, R398, R400), stated for one lane in S mode whose operands pass the checks: DBP and
DWP set a breakpoint or watchpoint, their clear forms remove it; DREAD of a halted lane gives its registers, their state, its predicates, its
PC-table entry, its special registers, the oldest event record (or waits for one), or the core's identity; DWRITE sets the first five; DMBX.send
appends to the partition's message queue, one that holds 64 trapping QUEUE_FULL, which in S mode finds no handler (R377); DMBX.recv takes the oldest
message, or waits where there is none. That DWRITE takes every tag but HANDLE, drops bits <1:0> of a PC and refuses bits above the
tag code and full bit, and that DREAD answers every S-mode lane, are the model's choices (log entry 46), as is the physical core that DREAD of
space 6 gives (log entry 14). -/
def Obligations.DebugAccess : Prop :=
  ∀ (o : Enc) (s : State) (cur : Cur) (c : Crew) (l : Nat),
    let x : Lane := ⟨cur.core, cur.slot, l⟩
    let t := c.thread l
    let next := cur.pc + BitVec.ofNat 64 o.bytes
    let n32 : Want := .oneOf [.n32, .i32]
    let n64 : Want := .oneOf [.addr, .n64]
    let va := (t.value o.a.toNat false).toNat
    let vb := (t.value o.b.toNat false).toNat
    let bps (k : Nat) (v : Option DWord) : State := s.modCore x.core fun w => { w with bps := w.bps.setIfInBounds k v }
    let wps (k : Nat) (v : Option (Nat × Nat × Nat × Nat × Nat)) : State :=
      s.modCore x.core fun w => { w with wps := w.wps.setIfInBounds k v }
    let space := o.w2Bits 3 0
    let ix := o.w2Bits 15 4
    let y : Lane := ⟨x.core, va % 64, bits va 12 8⟩
    let target : Prop := va < 2 ^ 13 ∧ bits va 7 6 = 0 ∧ va % 64 ≠ 63 ∧ (s.teamOf x.core (va % 64)).isSome ∧ (s.laneThread y).st = .halted
    let p := s.partOf x.core
    t.priv = true →
      (Alone s cur c l o false [o.regB true n64] none [] →
        exec (.dbp o) s = .next ((bps (o.w2Bits 2 0) (some (t.value o.b.toNat true))).onward x next)) ∧
      (Alone s cur c l o false [] none [] → exec (.dbpClr o) s = .next ((bps (o.w2Bits 2 0) none).onward x next) ∧
        exec (.dwpClr o) s = .next ((wps (o.w2Bits 1 0) none).onward x next)) ∧
      (Alone s cur c l o false [o.regA false .all, o.regB false n32] none [] → ∀ tm, (o.regA false n32).tagTrap t = none →
        vb < 63 → s.teamOf x.core vb = some tm → va < 2 ^ 22 → bits va 21 16 < tm.banks.length → va % 65536 < s.spcap x.core →
        va % 65536 % 2 ^ (o.w2Bits 7 4 + 2) = 0 →
        exec (.dwp o) s = .next ((wps (o.w2Bits 1 0)
          (some (tm.id, o.w2Bits 3 2, bits va 21 16, va % 65536, 2 ^ (o.w2Bits 7 4 + 2)))).onward x next)) ∧
      (Alone s cur c l o false [o.regA false n32] (some (o.d.toNat, Encoding.dspaceWide o)) [] → target →
        let z := s.laneThread y
        let gives (v : DWord) (g : Tag) : Prop :=
          exec (.dread o) s = .next ((s.producer x (some o.d.toNat) (Encoding.dspaceWide o) (.value v g)).onward x next)
        (space = 0 → gives ((z.reg ix).val.setWidth 64) (z.reg ix).tag) ∧
        (space = 1 → gives (BitVec.ofNat 64 ((z.reg ix).tag.code + if (z.reg ix).full then 32 else 0)) .n32) ∧
        (space = 2 → gives (BitVec.ofNat 64 (((List.range 32).filter fun j => z.pred (32 * ix + j)).map (2 ^ ·)).sum) .pred32) ∧
        (space = 3 → gives (if ix = 0 then BitVec.ofNat 64 (z.pc.toNat % 2 ^ 32 / 4 * 4) else if ix = 1 then z.pc >>> 32
          else BitVec.ofNat 64 (8 * 2 ^ 12 + z.age * 2 ^ 5)) .n32) ∧
        (space = 4 → gives (s.srRead y true ix) (srTag ix)) ∧
        (space = 5 → ∀ r rest, (s.core x.core).events = r :: rest → exec (.dread o) s =
          .next (((s.modCore x.core fun w => { w with events := rest }).producer x (some o.d.toNat) true (.value r .n64)).onward x next)) ∧
        (space = 5 → (s.core x.core).events = [] → exec (.dread o) s =
          .next ((s.onThread x fun t => { t with st := .waitUnit, age := 0, miss := none }).settle x.core x.slot)) ∧
        (5 < space → gives (if ix = 0 then BitVec.ofNat 64 (2 * (x.core / 40) + 1) else BitVec.ofNat 64 (Config.physCore x.core)) .n32)) ∧
      (Alone s cur c l o false [o.regA false n32, o.regB (Encoding.dspaceWide o) .noHandle] none [] → target →
        let v := t.value o.b.toNat (Encoding.dspaceWide o)
        let w := v.toNat % 2 ^ 32
        let sets (f : Thread → Thread) : Prop := exec (.dwrite o) s = .next ((s.onThread y f).onward x next)
        (space = 0 → sets fun z => z.setReg ix { val := v.setWidth 32, tag := .raw, full := true }) ∧
        (space = 1 → ∀ g, w < 64 → Tag.ofCode (w % 32) = some g → sets fun z => z.setReg ix { z.reg ix with tag := g, full := w.testBit 5 }) ∧
        (space = 2 → ∃ f, sets f ∧ ∀ z j, (f z).regs = z.regs ∧
          (f z).pred j = if 32 * ix ≤ j ∧ j < 32 * ix + 32 ∧ 0 < j ∧ j < 128 then w.testBit (j - 32 * ix) else z.pred j) ∧
        (space = 3 →
          let pc (z : Thread) : Nat :=
            if ix = 0 then z.pc.toNat / 2 ^ 32 * 2 ^ 32 + w / 4 * 4 + z.pc.toNat % 4 else w * 2 ^ 32 + z.pc.toNat % 2 ^ 32
          sets fun z => { z with pc := BitVec.ofNat 64 (pc z) }) ∧
        (4 ≤ space → srBad ix v.toNat = none → exec (.dwrite o) s = .next ((s.srWrite y (s.onThread y) ix v).onward x next))) ∧
      (Alone s cur c l o false [o.regA true n64] none [] →
        let u := s.modPart p fun z => { z with d2h := (s.part p).d2h ++ [t.value o.a.toNat true] }
        ((s.part p).d2h = [] → exec (.dmbxSend o) s = .next ((u.msix p 2).onward x next)) ∧
        ((s.part p).d2h ≠ [] → (s.part p).d2h.length < 64 → exec (.dmbxSend o) s = .next (u.onward x next)) ∧
        (64 ≤ (s.part p).d2h.length →
          ((dmbxSendForm o).lane o s x).2 = .trap { cause := 0x17 } ∧
          exec (.dmbxSend o) s = .next ((s.unhandled x.core x.slot).settle x.core x.slot))) ∧
      (Alone s cur c l o false [] (some (o.d.toNat, true)) [] →
        (∀ m rest, (s.part p).h2d = m :: rest → exec (.dmbxRecv o) s = .next (((s.modPart p fun z => { z with h2d := rest }).onThread x
          fun t => t.write o.d.toNat true m .n64).onward x next)) ∧
        ((s.part p).h2d = [] → exec (.dmbxRecv o) s =
          .next ((s.onThread x fun t => { t with st := .waitUnit, age := 0, miss := none }).settle x.core x.slot)))

/-! The host command queue, graphs and launches (02, 14). -/

/-- The registers of a command queue (R268, R269): QBASE and LOG2N are taken while EN is clear and set CFGERR otherwise; EN
set zeroes HEAD and TAIL, and is refused where LOG2N is out of range; EN cleared ends a SYNC wait with STOPPED; a TAIL beyond
the ring, or before the entries already pending, sets TAILERR. The entry at HEAD is read in full and becomes the command in
progress, ends BAD_CMD at its lowest bad byte, or where it cannot be read stops the queue with FETCH_ERR. -/
def Obligations.QueueRegisters : Prop :=
  ∀ (s : State) (fn : Nat), fn < 9 → s.boot = 3 →
    let q := (s.part fn).queue
    let becomes (i : Instr) (r : QueueRegs) : Prop := ∃ u, exec i s = .next u ∧ (u.part fn).queue = r ∧ u.mem = s.mem ∧ u.cores = s.cores
    (∀ v : DWord, becomes (.queueConfigWrite fn (.qbase v))
      (if q.en then { q with cfgErr := true } else { q with qbase := bits v.toNat 56 12 * 4096 })) ∧
    (∀ v : Word,
      let n := v.toNat % 16
      let en := v.toNat.testBit 31
      let good (k : Nat) : Prop := 4 ≤ k ∧ k ≤ 12
      (q.en = en → n = q.logN → becomes (.queueConfigWrite fn (.word08 v)) q) ∧
      (q.en = true → en = true → n ≠ q.logN → becomes (.queueConfigWrite fn (.word08 v)) { q with cfgErr := true }) ∧
      (q.en = false → en = false → n ≠ q.logN → (good n → becomes (.queueConfigWrite fn (.word08 v)) { q with logN := n }) ∧
        (¬ good n → becomes (.queueConfigWrite fn (.word08 v)) { q with cfgErr := true })) ∧
      (q.en = false → en = true → good n → becomes (.queueEnable fn v) { q with logN := n, en := true, head := 0, tail := 0 }) ∧
      (q.en = false → en = true → ¬ good n → becomes (.queueEnable fn v)
        (if 4 ≤ q.logN ∧ q.logN ≤ 12 then { q with cfgErr := true, en := true, head := 0, tail := 0 } else { q with cfgErr := true })) ∧
      (q.en = true → en = false → becomes (.queueDisable fn v) { q with en := false, cfgErr := q.cfgErr || n != q.logN } ∧
        ∀ c, (s.part fn).cmd = some c → c.isWait = true → c.result = none → ∃ u, exec (.queueDisable fn v) s = .next u ∧
          (u.part fn).cmd = some { c with result := some (8, 0), fields := [] }) ∧
      (let t := v.toNat % 2 ^ 12
       let size := 2 ^ q.logN
       let ahead (k : Nat) : Nat := (k + size - q.head) % size
       (q.en = true → t < size → ahead q.tail ≤ ahead t → becomes (.tailDoorbell fn v) { q with tail := t }) ∧
       (q.en = false ∨ size ≤ t ∨ ahead t < ahead q.tail → becomes (.tailDoorbell fn v) { q with tailErr := true }))) ∧
    (q.en = true → q.head ≠ q.tail → (s.part fn).cmd = none → (s.part fn).phase = .active → (s.part fn).st = 1 → (s.part fn).tdisp ≠ 3 →
      let read := s.readVa (cpAgent fn) (q.qbase + 64 * q.head) 64
      (∀ s1 d, read = (s1, .ok d) →
        let c : Command := { entry := d, addr := q.qbase + 64 * q.head }
        let taken (r : Option (Nat × Nat)) : State := s1.modPart fn fun x => { x with cmd := some { c with result := r }, cpFatal := [] }
        (c.badBytes (s.part fn) = [] → exec (.entryFetch fn) s = .next (taken none)) ∧
        ∀ b, b ∈ c.badBytes (s.part fn) → (∀ k ∈ c.badBytes (s.part fn), b ≤ k) → exec (.entryFetch fn) s = .next (taken (some (7, b)))) ∧
      ∀ s1 a, read = (s1, .fault a) ∨ read = (s1, .poison a) → exec (.entryFetch fn) s =
        .next ((s1.modPart fn fun x => { x with queue := { x.queue with fetchErr := true, en := false }, cpFatal := [] }).msix fn 0))

/-- The commands (R268, R272, R274, R275, R276), where their accesses succeed: GRAPH_LOAD of an image that passes every check
makes its slot, its task entries and their patch blocks, and one that does not is REJECTED with the lowest fault; GRAPH_RUN
writes the patch values and starts the run, tasks without dependences becoming RUNNING; HOST_COPY copies its bytes; SYNC
writes VALUE, or waits until it reads at least VALUE; the completion writes DETAIL, results and STATUS into the entry the command
was fetched from, advances HEAD unless EN was set anew since, and raises the interrupt if asked. That the result goes to the entry it
was fetched from, and that HEAD stays where EN was set anew, is the model's choice (log entry 59). -/
def Obligations.Commands : Prop :=
  ∀ (s : State) (fn : Nat) (c : Command), fn < 9 → (s.part fn).cmd = some c →
    let g := cpAgent fn
    let ended (u : State) (status detail : Nat) (fields : List (Nat × List Byte)) : State :=
      u.modPart fn fun x => { x with cmd := x.cmd.map fun c => { c with result := some (status, detail), fields } }
    (c.result = none → (s.part fn).phase = .active →
      (c.opc = 1 → ∀ s1 head, s.readVa g (c.f 16 8) 64 = (s1, .ok head) →
        (∀ r, lowestFault (headFaults head (c.f 24 8)) = some r →
          exec (.graphLoad fn) s = .next (ended s1 3 (r.1 + 256 * (r.2 % 2 ^ 24)) [])) ∧
        ∀ s2 table s3 ps s4 tab, lowestFault (headFaults head (c.f 24 8)) = none →
          s1.readVa g (c.f 16 8) (64 + 16 * field head 6 2) = (s2, .ok table) →
          (∀ r, lowestFault (tableFaults table) = some r →
            exec (.graphLoad fn) s = .next (ended s2 3 (r.1 + 256 * (r.2 % 2 ^ 24)) [])) ∧
          (lowestFault (tableFaults table) = none → s2.readSections g (c.f 16 8) (sections table) = (s3, .ok ps) →
            let at_ (i : Nat) : Part := ps.getD i {}
            let im : Igb := { secs := sections table, kern := at_ 0, nodes := at_ 1, edges := at_ 2, patch := at_ 3, plan := at_ 4 }
            let n := im.count
            let bufs := (List.range im.plans).map fun j => field tab (8 * j) 8
            let sizes := (List.range n).map fun i => (im.node i).2.2.2
            let slot := c.f 40 2
            im.faults = none → s3.readVa g (c.f 32 8) (8 * im.plans) = (s4, .ok tab) → firstReason [(0x0A, im.bufferFaults bufs)] = none →
            ∀ first blocks s5 s6, ((s4.freeGraph fn slot).part fn).taskRange n = some first →
              ((s4.freeGraph fn slot).part fn).placeBlocks sizes = some blocks →
              (s4.freeGraph fn slot).copyImages g (c.f 16 8) im bufs = (s5, .ok (), 0) →
              s5.writeAll g ((((blocks.zip sizes).filter fun b => b.2 != 0).map fun b => (b.1, List.replicate b.2 (0 : Byte))) ++
                (im.points.filter fun q => q.buf != 0).map fun q => (blocks.getD q.node 0 + q.off, leBytes q.size (bufs.getD (q.buf - 1) 0)))
                = (s6, .ok ()) →
              ∃ u, exec (.graphLoad fn) s = .next u ∧ (u.part fn).cmd = (s6.part fn).cmd.map (fun c =>
                  { c with result := some (1, first + n * 2 ^ 16), fields := [] }) ∧
                (u.part fn).graphs = (s6.part fn).graphs ++ [⟨slot, first, n, c.f 16 8 + ((im.sec 1).map Section.off).getD 0, im.points⟩] ∧
                (u.part fn).tasks = (s6.part fn).tasks ++ (List.range n).map fun i =>
                  { idx := first + i, gslot := slot, node := i, st := .idle, count := 0, init := (im.node i).2.2.1, hdr := im.header i,
                    patch := blocks.getD i 0, patchLen := sizes.getD i 0,
                    succ := (im.edgeList.filter fun e => e.1 == i).map fun e => first + e.2 })) ∧
      (c.opc = 2 → (s.part fn).run = none →
        ((s.part fn).graph (c.f 16 2) = none → exec (.graphRun fn) s = .next (ended s 5 0 [])) ∧
        ∀ gs s1 tab s2 s3 bm, (s.part fn).graph (c.f 16 2) = some gs →
          s.readPatches fn (c.f 24 8) (if c.f 18 2 = 0 then [] else
            ((List.range gs.points.length).zip gs.points).filter fun q => q.2.buf == 0) = (s1, .ok tab) →
          s1.writeAll g (tab.map fun q => ((((s1.part fn).task (gs.first + q.1.node)).map Task.patch).getD 0 + q.1.off, q.2)) = (s2, .ok ()) →
          s2.readBitmaps fn (c.f 32 8) gs.count = (s3, .ok bm) →
          ∃ u, exec (.graphRun fn) s = .next u ∧ (u.part fn).run = some ⟨gs.slot, c.f 32 8, bm.1, 0, [], bm.2⟩ ∧
            ∀ i tk, (s3.part fn).task i = some tk → (u.part fn).task i = some
              (if gs.first ≤ i ∧ i < gs.first + gs.count then
                (if tk.init = 0 then { tk with st := .running, count := 0 } else { tk with st := .waiting, count := tk.init })
              else tk)) ∧
      (c.opc = 3 → ∀ s1 s2 s3 d, s.reachable g (c.f 16 8) (c.f 32 8) false = (s1, .ok none) →
        s1.reachable g (c.f 24 8) (c.f 32 8) true = (s2, .ok none) → s2.readVa g (c.f 16 8) (c.f 32 8) = (s3, .ok d) →
        ∀ s4 k, s3.writeVa g (c.f 24 8) d = (s4, .ok k) →
          exec (.hostCopy fn) s = .next (ended s4 1 0 [(48, leBytes 8 (c.f 32 8))])) ∧
      (c.opc = 4 → c.f 16 1 ≠ 1 → ∀ s1 n, s.writeVa g (c.f 24 8) (leBytes 8 (c.f 32 8)) = (s1, .ok n) →
        exec (.syncSignal fn) s = .next (ended s1 1 0 [])) ∧
      (c.opc = 4 → c.f 16 1 = 1 →
        ((s.part fn).queue.en = true → exec (.syncWait fn) s = .next (s.modPart fn fun x => { x with cmd := some { c with waiting := true } })) ∧
        ((s.part fn).queue.en = false → exec (.syncWait fn) s = .next (ended s 8 0 [])) ∧
        (c.waiting = true → ∀ s1 d, s.readVa g (c.f 24 8) 8 = (s1, .ok d) →
          (c.f 32 8 ≤ leNat d → exec (.syncWaitSatisfied fn) s = .next (ended s1 1 0 [])) ∧
          (leNat d < c.f 32 8 → exec (.syncWaitSatisfied fn) s = .next s1)))) ∧
    ∀ status detail s1, c.result = some (status, detail) →
      let at_ := c.addr
      s.writeAll g (c.fields.map (fun f => (at_ + f.1, f.2)) ++ [(at_ + 12, leBytes 4 detail), (at_ + 8, leBytes 4 status)]) = (s1, .ok ()) →
      let u := s1.modPart fn fun x =>
        { x with queue := if c.stale then x.queue else { x.queue with head := (x.queue.head + 1) % 2 ^ x.queue.logN },
                 cmd := none, cpFatal := [] }
      exec (.commandCompletion fn) s = .next (if c.f 1 1 % 2 = 1 then u.msix fn 0 else u)

/-- The life of a launch (R33, R34, R36, R40, R42, R279, R280, R281): its chunks enter the work queue while there is room; a
dispatcher takes gangs of the chunk at the head and places their teams, each with its crew slots, every thread that has work
at the launch's entry in U mode; a team that is done gives up all it holds; after the last the record is written, the task is
DONE and its successors' counters fall; a run with no task RUNNING ends. -/
def Obligations.LaunchLife : Prop :=
  ∀ (s : State) (p : Nat), p < 9 →
    (∀ urgent ln, (s.part p).launches.find? (fun l => l.hdr.urg == urgent && !l.unplaceable && decide (l.next < l.total)) = some ln →
      let q := if urgent then (s.part p).urgentq else (s.part p).workq
      let now (f : Launch → Launch) : List Launch := (s.part p).launches.map fun l => if l.id = ln.id then f l else l
      (ln.started = false → s.unplaceable ln = true → ∃ u, exec (.chunkAppend p urgent) s = .next u ∧
        (u.part p).launches = now fun l => { l with unplaceable := true, started := true }) ∧
      (ln.started = false → s.unplaceable ln = false → ln.hdr.stack = 0 → ln.hdr.cor = false → ∃ u, exec (.chunkAppend p urgent) s = .next u ∧
        (u.part p).launches = now fun l => { l with started := true, stackBase := 0, stackSize := 0 }) ∧
      (ln.started = true → 512 ≤ q.length → exec (.chunkAppend p urgent) s = .next s) ∧
      (ln.started = true → q.length < 512 →
        let last := min (ln.next + ln.hdr.chunkSize) ln.total - 1
        ∃ u, exec (.chunkAppend p urgent) s = .next u ∧ (u.part p).launches = (now fun l => { l with next := last + 1 }) ∧
          (if urgent then (u.part p).urgentq else (u.part p).workq) = q ++ [⟨ln.id, ln.next, last⟩])) ∧
    (∀ die urgent ch rest ln s1 left, (if urgent then (s.part p).urgentq else (s.part p).workq) = ch :: rest → s.launch p ch.launch = some ln →
      (s.part p).phase = .active → (s.part p).st = 1 → s.placeGangs ln die (ch.last + 1) ch = (s1, left) →
      let keeps (q : List Chunk) : Prop := exec (.dispatchPull die p urgent) s =
        .next (s1.modPart p fun x => if urgent then { x with urgentq := q } else { x with workq := q })
      (left = none → keeps rest) ∧ ∀ ch', left = some ch' → (ch'.l ≠ ch.l → keeps (ch' :: rest)) ∧
        (ch'.l = ch.l → exec (.dispatchPull die p urgent) s = .next s)) ∧
    (∀ (ln : Launch) (l b : Nat), b < 160 → s.hasRoom ln l b = true → ln.hdr.bkCache = 0 → ln.hdr.bkFifo = 0 →
      let u := s.placeTeam ln l b
      ∃ tm, (u.core b).teams = (s.core b).teams ++ [tm] ∧ tm.id = s.nextId ∧ tm.part = ln.part ∧ tm.launch = ln.id ∧ tm.l = l ∧ tm.killed = false ∧
        tm.slots = (s.freeSlots b).take ln.hdr.teamCrews ∧ tm.banks.length = ln.hdr.bkSp ∧ tm.units.length = (match s.bound b ln.part ln.task l with
          | some k => k.units.length
          | none => ln.hdr.tasN) ∧
        (∀ sl < 64, sl ∉ tm.slots → (∀ cr, s.crew b sl = some cr → ∀ j < 32, ∀ w, (cr.thread j).st = .parked w → ∃ rid, w = .fault rid) →
          u.crew b sl = s.crew b sl) ∧
        ∀ i (h : i < tm.slots.length), ∃ cr, u.crew b tm.slots[i] = some cr ∧ cr.team = some tm.id ∧ cr.idx = i ∧
          ∀ j < 32, (cr.thread j).regs = Vector.replicate 64 {} ∧ (cr.thread j).preds = 1 ∧ (cr.thread j).priv = false ∧
            (cr.thread j).tvec = BitVec.ofNat 64 (s.part ln.part).tvec ∧
            (let f0 := if ln.hdr.pair then i * 16 + j / 2 else i * 32 + j
             (cr.thread j).pc = BitVec.ofNat 64 ln.entryVa ∧ (cr.thread j).st = if f0 < ln.hdr.ext 0 then .runnable else .exited)) ∧
    (∀ b t, b < 160 → t.part = p → (s.core b).team t.id = some t → s.mayRetire b t = true →
      ∃ u, exec (.teamRetire b t.id) s = .next u ∧ (u.core b).teams = (s.core b).teams.filter (fun x => x.id != t.id) ∧
        (∀ sl ∈ t.slots, sl < 63 → u.crew b sl = none) ∧ (∀ k < 1024, (s.handle b k).team = t.id → (u.handle b k).st = .free) ∧
        (u.part p).launches = (s.part p).launches.map fun ln => if ln.id = t.launch then { ln with retired := ln.retired + 1 } else ln) ∧
    (∀ ln t s1, s.launch p ln.id = some ln → ln.unplaceable = true ∨ ln.retired = ln.total → (s.part p).task ln.task = some t →
      s.writeRecord p t.node (if ln.unplaceable then 3 else if ln.killed = [] then 1 else 2) ln.total ln.killed.length
        (leBytes (ceilDiv ln.total 8) (maskOf ln.killed)) = .inl s1 →
      exec (.launchComplete p ln.id) s = .next (t.succ.foldl (fun (s : State) i => (s.decrement p i).1)
        (((s1.endCode ln.id).modPart p fun x => { x with launches := x.launches.filter fun l => l.id != ln.id }).modTask p t.idx fun t => { t with st := .done }))) ∧
    ∀ r s1, (s.part p).run = some r → (s.part p).phase = .active → (∀ t ∈ (s.part p).tasks, t.gslot = r.gslot → t.st ≠ .running) →
      let waiting := (s.part p).tasks.filter fun t => t.gslot == r.gslot && t.st == .waiting
      waiting.foldl (fun (acc : Option State) t => acc.bind fun s =>
        match s.writeRecord p t.node 4 t.hdr.teams 0 (leBytes (ceilDiv t.hdr.teams 8) 0) with
        | .inl s => some s
        | .inr _ => none) (some s) = some s1 → (s1.part p).tasks = (s.part p).tasks →
      ∀ r1, (s1.part p).run = some r1 → r1.gslot = r.gslot →
      let result : Nat × Nat := match r1.fail with
        | some st => (st, 4)
        | none => (if r1.bad = [] then 1 else 2, r1.bad.length)
      ∃ u, exec (.runEnd p) s = .next u ∧ (u.part p).run = none ∧
        (u.part p).tasks = ((s.part p).tasks.map fun t => if t.gslot = r.gslot then { t with st := .idle } else t) ∧
        (u.part p).cmd = (s1.part p).cmd.map fun c =>
          { c with result := some result, fields := [(60, leBytes 4 waiting.length), (56, leBytes 4 r1.discards)] }

/-! What goes on in a core and its engines without an instruction (09, 15 to 20). -/

/-- Moves of a core (R82, R160, R182, R187, R318, R323, R325, R346, R382, R396): an unassigned opcode and a fetch that fails
trap or park the lane; the PC table is sorted by PC and lane; the throttle score falls; a revoke clears the owned bits of its
line; a core with nothing placed is gated; a waiting event record enters the queue; an uncorrectable error poisons what it
strikes; and lanes that all wait at a rendezvous trap with the missing lanes. That an error in a FIFO-mode bank strikes the entries counted
from the oldest is the model's choice (log entry 79). -/
def Obligations.CoreEvents : Prop :=
  (∀ (s : State) (cur : Cur) (c : Crew) (l : Nat), AtHand s cur c → cur.lanes = [l] → (s.hdrOf cur.core cur.slot).pair = false →
    let x : Lane := ⟨cur.core, cur.slot, l⟩
    let enters (i : Instr) (r : Trap) : Prop :=
      exec i s = .next ((s.onThread x fun t => t.enterTrap r cur.pc).settle x.core x.slot)
    ((c.thread l).handles = true → (∀ opc : BitVec 8, enters (.illegalOpcode opc) { cause := 0x01, info := opc.toNat, addr := cur.pc }) ∧
      ∀ (va : DWord) r, s.fetchWord x va.toNat = .inr (.trap r) → r.next = false → enters (.instructionFetchFault va) r) ∧
    ∀ (va : DWord) m, s.fetchWord x va.toNat = .inr (.miss m) → exec (.instructionFetchFault va) s =
      .next (((s.onThread x fun t => { t with st := .waitUnit, age := 0, miss := some m }).modCore x.core fun w =>
        { w with misses := if m ∈ w.misses then w.misses else w.misses ++ [m] }).settle x.core x.slot)) ∧
  ∀ (s : State) (b : Nat), b < 160 →
    (∀ sl c, s.crew b sl = some c → ∃ r, exec (.pcTableSort b sl) s = .next (s.setCrew b sl (some { c with order := r, sortedAt := s.cycle })) ∧
      r.Perm (List.range 32) ∧ r.Pairwise fun i j => (c.thread i).pc < (c.thread j).pc ∨ ((c.thread i).pc = (c.thread j).pc ∧ i < j)) ∧
    exec (.throttleScoreDecay b) s = .next (s.modCore b fun w => { w with score := w.score - 1 }) ∧
    (∀ line, (b, line) ∈ s.revokes → exec (.revoke b line) s = .next
      { s.modCore b (fun w => { w with cache := w.cache.map fun l => if l.line = line then { l with owned := 0 } else l }) with
        revokes := s.revokes.filter fun r => r != (b, line) }) ∧
    ((s.core b).teams = [] → (s.core b).debug = false → exec (.powerGating b) s = .next
      { s.modCore b (fun w => { w with misses := [], gated := true, tlb := [] }) with
        walks := (s.walks.map fun w => { w with cores := w.cores.filter (· != b) }).filter fun w => !w.cores.isEmpty }) ∧
    (∀ r rest, (s.core b).eventsWaiting = r :: rest → (s.core b).events.length < 8 → ∃ u, exec (.debugRecordAppend b) s = .next u ∧
      (u.core b).events = (s.core b).events ++ [r] ∧ (u.core b).eventsWaiting = rest) ∧
    (∀ k < 2 ^ 35, ∃ l, exec (.uncorrectableError (.memSector k)) s = .next { s with poison := l } ∧
      (∀ a, a / 32 = k → poisonedAt l a = true) ∧ ∀ a, a / 32 ≠ k → poisonedAt l a = poisonedAt s.poison a) ∧
    (∀ k, k < 98304 → k % 2048 * 32 < s.spcap b →
      let bank := (s.core b).bank (k / 2048)
      (bank.mode ≠ .fifo → ∃ l, exec (.uncorrectableError (.spadSector b k)) s =
        .next (s.modBank b (k / 2048) fun z => { z with poison := l }) ∧ ∀ a, a / 32 = k % 2048 → poisonedAt l a = true) ∧
      (bank.mode = .fifo → ∃ l, exec (.uncorrectableError (.spadSector b k)) s = .next (s.modBank b (k / 2048) fun z => { z with fifo := l }) ∧
        l.map Prod.fst = bank.fifo.map Prod.fst ∧ ∀ i (h : i < bank.fifo.length), (l[i]?).map Prod.snd = some (bank.fifo[i].2 || i / 4 == k % 2048))) ∧
    (∀ k < 98304, ∃ u, exec (.uncorrectableError (.tasSector b k)) s = .next u ∧ ∀ j, j ∈ (u.core b).tasPoison ↔ j = k ∨ j ∈ (s.core b).tasPoison) ∧
    (∀ sl, exec (.uncorrectableError (.crewFile b sl)) s = .next (s.modCrew b sl fun c => { c with bad := true })) ∧
    exec (.uncorrectableError (.handleTable b)) s = .next (s.modCore b fun w => { w with badHandles := true }) ∧
    (∀ k, (s.core b).caldera ≠ [] → exec (.uncorrectableError (.caldera b k)) s =
      .next (s.modCore b fun w => { w with badCaldera := min 64 k :: w.badCaldera })) ∧
    (∀ sl l, l < 32 → (s.hdrOf b sl).pair = false → (s.thread b sl l).st ≠ .exited →
      exec (.uncorrectableError (.datapath b sl (BitVec.ofNat 32 (2 ^ l)))) s = .next (s.consume ⟨b, sl, l⟩ none false 0)) ∧
    (∀ sl c, s.crew b sl = some c → c.deadlocked false = true → (s.hdrOf b sl).pair = false →
      (∀ l ∈ c.live, (c.thread l).handles = true ∧ (c.thread l).haltMark = false ∧ (c.thread l).stepMark = false) →
      (∀ i ∈ c.xl, i.owed = []) → ∃ u, exec (.rendezvousDeadlock b sl) s = .next u ∧ ∀ l ∈ c.live, ∀ i, c.xl.find? (fun i => i.pc == (c.thread l).pc && !i.shadow) = some i →
        ∃ missing, u.thread b sl l = (c.thread l).enterTrap { cause := 0x0D, info := missing } (c.thread l).pc ∧
          ∀ j, missing.testBit j = true ↔ j < 32 ∧ (c.thread j).st ≠ .exited ∧
            (∃ a ∈ i.arrivals, a.contrib = true ∧ a.mask.getLsbD j = true) ∧ ∀ a ∈ i.arrivals, a.lane ≠ j)

/-- The engines' work as it is done (R298, R302, R304, R306, R308, R309). COPY_WRITE performs items one after the other: one
whose source is read and whose writes can be made is performed and counted at its destination, its writes into scratchpad
storing just the bytes of its pieces; with every item performed the copy leaves its engine, makes its dependence decrement and
its handle ends RETIRED. A Geyser operation counts a query whose lookup or scatter is done, and ends RETIRED after the last where
nothing was skipped. A near-memory command takes its source in; then a granule with poison is skipped and keeps its bytes,
another takes the bytes of the command's result on what it held and the source; after the last the record in its block and its
handle say how many were done. The values: an item's addresses and bytes (R297); a lookup writes the k best rows' indices, scores,
weights and weighted sums, each sum exact and rounded once (R304, R305); a scatter adds to each element of its rows, and a near-memory
granule's elements are combined and rounded, once (R306, R309). -/
def Obligations.EngineWork : Prop :=
  (∀ (r : CopyReq) (n k i0 i1 i2 i3 : Nat), (r.xform ≠ 2 → i0 < r.ext_ 0 ∧ i1 < r.ext_ 1 ∧ i2 < r.ext_ 2 ∧
      k = i0 + r.ext_ 0 * (i1 + r.ext_ 1 * (i2 + r.ext_ 2 * i3))) →
    CopyMap r n k i0 i1 i2 i3 ∧ ∀ src, CopyImage r n k src) ∧
  (∀ ps, SumIs ps (sumProducts ps)) ∧ (∀ wmode temp cs, WeightsAre wmode temp cs (geyserWeights wmode temp cs)) ∧
  (∀ (s : State) (b qn : Nat) (o : EngOp) (qb b1 b2 : List Byte) (s1 s2 : State),
    let g := Geyser.of o.desc
    qb.length = 2 * g.d → b1.length = g.n1 * g.d → b2.length = g.n2 * g.d → g.d % 2 = 0 →
    s.spadGet b o.team (spadAt g.qry + qn * g.d * 2) (g.d * 2) = some (qb, none) →
    s.readVa (o.agent b) g.key1 (g.n1 * g.d) = (s1, .ok b1) → s1.readVa (o.agent b) g.key2 (g.n2 * g.d) = (s2, .ok b2) →
    ∃ (sel : List Candidate) (ws : List Val),
      Chosen g o.seed qn (decodeAll .bf16 2 qb) (decodeAll .bf16 2 b1) (decodeAll .bf16 2 b2) sel ∧
      WeightsAre g.wmode g.temp (sel.map Candidate.c) ws ∧
      ∀ s3 rows, s2.readAll (o.agent b) (sel.map fun c => (g.val + c.r * g.dv * g.vz, g.dv * g.vz)) = (s3, .ok rows) → ∃ out : List Byte,
        out.length = g.dv * g.oz ∧
        (∀ e < g.dv, ∃ y, SumIs (ws.zip (rows.map fun r => (decodeAll g.vf g.vz r).getD e (.zero false))) y ∧
          elemAt out g.oz e = ((if g.bf16 then FloatFmt.bf16 else .f32).round .rne 0 false y).1 % 2 ^ (8 * g.oz)) ∧
        let put (u : State) (off n : Nat) (d : List Byte) : State := u.spadPut b o.team (spadAt off + qn * n) d
        s.lookup b o qn = .done (put (put (put (put s3 g.out (g.dv * g.oz) out) g.idx (g.k * 4) (sel.flatMap fun c => leBytes 4 c.r))
          g.scr (g.k * 4) (sel.flatMap fun c => leBytes 4 (round32 c.c))) g.wgt (g.k * 4) (ws.flatMap fun w => leBytes 4 (round32 w)))) ∧
  (∀ seed va stream v g w, ScatterAddIs seed va stream v g w) ∧
  (∀ (g : Geyser) (rows more : List (Nat × Val)) (r : Nat) (w : Val),
    let base := g.val + r * g.dv * 2
    g.pieces [] = [] ∧ g.pieces (rows ++ more) = g.pieces rows ++ g.pieces more ∧
    ((g.pieces [(r, w)]).flatMap fun p => (List.range p.2.2.1).map (p.2.1 + ·)) = (List.range (g.dv * 2)).map (base + ·) ∧
    ∀ p ∈ g.pieces [(r, w)], p.1 = w ∧ p.2.2.2 = (p.2.1 - base) / 2 ∧ p.2.1 / 256 = (p.2.1 + p.2.2.1 - 1) / 256 ∧ 0 < p.2.2.1) ∧
  (∀ (s s1 s2 : State) (b qn pa : Nat) (o : EngOp) (gb ib wb : List Byte),
    let g := Geyser.of o.desc
    let rows := (List.range g.k).map fun j => (elemAt ib 4 j, FloatFmt.f32.decode (elemAt wb 4 j))
    let grad := decodeAll .f32 4 gb
    (∀ bad, s.spadGet b o.team (spadAt g.qry + qn * g.dv * 4) (g.dv * 4) = some (gb, none) →
      s.spadGet b o.team (spadAt g.idx + qn * g.k * 4) (g.k * 4) = some (ib, none) →
      s.spadGet b o.team (spadAt g.wgt + qn * g.k * 4) (g.k * 4) = some (wb, none) →
      s.canWrite (o.agent b) (rows.map fun r => (g.val + r.1 * g.dv * 2, g.dv * 2)) = (s1, .ok ()) →
      s1.scatterRows b o qn grad (g.pieces rows) = (s2, bad, .ok ()) →
      s.scatter b o qn = .done (s2.modEng b o.id fun o => { o with chunks := o.chunks ++ bad.map fun a => (qn, a) })) ∧
    s.scatterRows b o qn grad [] = (s, [], .ok ()) ∧
    (∀ ps p bad u a, s.scatterRows b o qn grad ps = (s1, bad, .ok ()) → s1.scatterPiece b o qn grad p.1 p.2.1 p.2.2.1 p.2.2.2 = (u, .ok a) →
      s.scatterRows b o qn grad (ps ++ [p]) = (u, bad ++ a.toList, .ok ())) ∧
    ∀ (w : Val) (va n first : Nat), s.reachPa (o.agent b) va true = (s1, .ok pa) → s1.keyLoaded (paKey pa) = true →
      s2 = s1.dropLines (paAddr pa / 256 * 256) 256 →
      (∀ a, s2.granulePoison pa va = some a → s.scatterPiece b o qn grad w va n first = (s2, .ok (some a))) ∧
      (s2.granulePoison pa va = none → n % 2 = 0 → Memory.wf s2.mem = true → ∃ u, s.scatterPiece b o qn grad w va n first = (u, .ok none) ∧
        ((∀ i < n, lookupNat s2.unitKeys ((paAddr pa + i) / 128) 0 = s2.keyOf (paKey pa)) → GlobFrame s2 u (paAddr pa) n) ∧ (List.range n).map (fun i => u.globByte (paAddr pa + i)) =
          (List.range (n / 2)).flatMap fun i => leBytes 2 (scatterAdd o.seed (va + 2 * i) ((o.seqNo + qn) % 65536)
            (elemAt (s2.homeRead o.part pa n).2.1 2 i) (grad.getD (first + i) (.zero false)) w))) ∧
  (∀ op w s p1 p2, NmValueIs op w s p1 p2) ∧
  (∀ (n : NmBlock) (seed va : Nat) (old src : List Byte),
    let z := nmBytes n.dfmt
    (n.result seed va old src).length = 256 ∧ (n.op = 4 → ∀ x ∈ n.result seed va old src, x = 0) ∧
    (n.op ≠ 4 → ∀ i < 256 / z, elemAt (n.result seed va old src) z i = ((nmFmt n.dfmt).round (Rm.ofCode n.rm) (kmix seed ((va + z * i) / 2) n.seq % 65536)
      false (nmValue n.op ((nmFmt n.dfmt).decode (elemAt old z i)) ((nmFmt n.sfmt).decode (elemAt src (nmBytes n.sfmt) i))
        (FloatFmt.f32.decode n.p1) (FloatFmt.f32.decode n.p2))).1 % 2 ^ (8 * z))) ∧
  (∀ (s s1 : State) (b : Nat) (o : EngOp) (n : NmBlock) (l : List (List Byte × Nat)),
    s.nmRead b o { n with granules := 0 } = (s, .ok []) ∧ (s.nmRead b o n = (s1, .ok l) →
      let more := s.nmRead b o { n with granules := n.granules + 1 }
      let va := n.src + n.granules * n.perGranule
      (n.src / 2 ^ 48 = 0xFFFE → ∀ d bad, s1.spadGet b o.team va n.perGranule = some (d, bad) →
        more = (s1, .ok (l ++ [match bad with | none => (d, 0) | some a => ([], a)]))) ∧
      (n.src / 2 ^ 48 ≠ 0xFFFE → ∀ s2, (∀ d, s1.readVa (o.agent b) va n.perGranule = (s2, .ok d) → more = (s2, .ok (l ++ [(d, 0)]))) ∧
        ∀ a, s1.readVa (o.agent b) va n.perGranule = (s2, .poison a) → more = (s2, .ok (l ++ [([], a)]))))) ∧
  ∀ (s : State) (b id : Nat), b < 160 →
    let ended (u : State) (k : Nat) (outcome detail : Nat) : Prop := (s.handle b k).st = .pending → k < 1024 →
      (u.handle b k).st = .ended ∧ (u.handle b k).word = BitVec.ofNat 32 (outcome * 2 ^ 29 + min detail (2 ^ 24 - 1))
    (∀ dest n, exec (.copyWrite b id dest n) s = .next ((List.range n).foldl (fun (u : State) _ => u.copyStep b id dest) s).wakeAll) ∧
    (∀ o, s.copy b id = some o →
      (∀ dest s1 src s2, dest < o.dests.length → o.stop = none → o.waitRid = none → o.peer = none → o.going = none → s.channelFree o = true →
        s.issueCopy b id = s →
        let at_ := o.done.getD dest 0
        let n := at_ / o.req.items
        let k := at_ % o.req.items
        n ∈ o.issued →
        s.copyRead b o dest n ((o.req.source n k).headD (0, 0)).1
          (if o.req.xform = 2 then ceilDiv (o.req.ext_ 0 * o.req.elemBits) 8 else o.req.esz) [] = (s1, .inl src) →
        s1.copyPuts b o dest src 0 (o.req.writes n k (o.req.image src)) = (s2, .done) →
        s.copyStep b id dest = s2.copyArrived b o dest at_ ∧ exec (.copyWrite b id dest 1) s = .next (s2.copyArrived b o dest at_).wakeAll ∧
        ((∀ w ∈ o.req.writes n k (o.req.image src), w.1 / 2 ^ 48 = 0xFFFE) →
          s2 = (o.req.writes n k (o.req.image src)).foldl (fun (u : State) w =>
            match (o.dests[dest]?).bind fun d => u.destBank d w.1 with
            | some (c, j) => u.spadArrive c j (w.1 % 65536) w.2
            | none => u) s1) ∧
        ∀ o2, o.req.bar = none → s2.copy b id = some o2 → ∃ o3, (s2.copyArrived b o dest at_).copy b id = some o3 ∧
          o3.done = o2.done.modify dest (· + 1)) ∧
      (o.stop = none → (∀ n ∈ o.done, n = o.req.items * o.req.passes) → ∃ u, exec (.copyComplete b id) s = .next u ∧
        (u.core b).copies = (s.core b).copies.filter (fun z => z.id != id) ∧ (∀ k, o.handle = some k → ended u k 1 0) ∧
        ∀ idx tk, o.req.dep = some idx → o.part < 9 → (s.part o.part).task idx = some tk → (u.part o.part).task idx =
          some (if tk.st ≠ .waiting then tk else if 1 < tk.count then { tk with count := tk.count - 1 } else { tk with st := .running, count := 0 }))) ∧
    (∀ n, exec (.pklComplete b id n) s =
      .next ((List.range n).foldl (fun (u : State) _ => u.geyserStep b id .pkl fun s o q => s.lookup b o q) s).wakeAll) ∧
    (∀ n, exec (.pklbComplete b id n) s =
      .next ((List.range n).foldl (fun (u : State) _ => u.geyserStep b id .pklb fun s o q => s.scatter b o q) s).wakeAll) ∧
    (∀ o, s.eng b id = some o → o.waitRid = none → o.stop = none →
      let q := o.done.length + o.skip.length
      let goes (i : Instr) (s1 : State) : Prop := ∀ o1, s1.eng b id = some o1 → o1.done = o.done → o1.skip = o.skip → o1.handle = o.handle → o1.desc = o.desc →
        (∀ z ∈ o1.chunks, z.1 ≠ q) → (s1.handle b o.handle).st = (s.handle b o.handle).st →
        ∃ u, exec i s = .next u ∧
          (q + 1 < (Geyser.of o.desc).q → u.eng b id = some { o1 with done := o.done ++ [q] }) ∧
          (q + 1 = (Geyser.of o.desc).q → o1.chunks = [] → ended u o.handle 1 (o.done.length + 1))
      q < (Geyser.of o.desc).q →
        (∀ s1, o.kind = .pkl → s.lookup b o q = .done s1 → goes (.pklComplete b id 1) s1) ∧
        (∀ s1, o.kind = .pklb → s.scatter b o q = .done s1 → goes (.pklbComplete b id 1) s1)) ∧
    ∀ o, s.eng b id = some o → o.kind = .nmc →
      let n := NmBlock.of o.desc
      let takes (i : Instr) (op : Nat) : Prop := n.op = op → o.started = false → o.waitRid = none → o.stop = none →
        ∀ s1 l, (if n.reads then s.nmRead b o n else (s, .ok [])) = (s1, .ok l) → ∃ u, exec i s = .next u ∧
          u.eng b id = (s1.eng b id).map fun z => { z with started := true
                                                           source := l.flatMap fun x => (if x.2 = 0 then x.1 else List.replicate n.perGranule 0).map (·.toNat)
                                                           skip := (((List.range l.length).zip l).filter fun x => x.2.2 != 0).map (·.1)
                                                           chunks := (((List.range l.length).zip l).filter fun x => x.2.2 != 0).map fun x => (x.1, x.2.2) }
      takes (.nmAdd b id) 1 ∧ takes (.nmSgd b id) 2 ∧ takes (.nmScale b id) 3 ∧ takes (.nmZero b id) 4 ∧
      (∀ g, o.started = true → g < n.granules → g ∉ o.done → g ∉ o.skip →
        let va := n.dst + 256 * g
        let pa := o.pageOf va
        s.keyLoaded (paKey pa) = true → pa % 256 = 0 → MemoryWf s → WritesBack s →
          (s.granulePoison pa va = none → ∃ u, exec (.nmGranule b id g) s = .next u ∧ GlobFrame s u (paAddr pa) 256 ∧
            u.eng b id = some { o with done := o.done ++ [g] } ∧
            (List.range 256).map (fun i => u.globByte (paAddr pa + i)) = n.result o.seed va (((s.dropLines (paAddr pa) 256).homeRead o.part pa 256).2.1)
              (((o.source.drop (g * n.perGranule)).take n.perGranule).map (BitVec.ofNat 8))) ∧
          ∀ a, s.granulePoison pa va = some a → ∃ u, exec (.nmGranule b id g) s = .next u ∧ MemorySame s u ∧
            u.eng b id = some { o with skip := o.skip ++ [g], chunks := o.chunks ++ [(g, a)] }) ∧
      (o.started = true → n.granules ≤ o.done.length + o.skip.length → MemoryWf s → ∃ u, exec (.nmcComplete b id) s = .next u ∧
        u.eng b id = none ∧ ended u o.handle (if o.skip = [] then 1 else 5) o.done.length ∧
        ∀ c j, c < 160 → j < 48 → s.destBank (o.team, b) o.descAddr = some (c, j) →
          let at_ := o.descAddr % 65536 + 32
          SpadFrame s u c j at_ 48 ∧ (List.range 48).map (fun i => u.spadByte c j (at_ + i)) =
            leBytes 4 ((if o.skip = [] then 1 else 5) * 2 ^ 29 + o.done.length) ++ leBytes 4 o.done.length ++ leBytes 8 o.lowPoison ++
              leBytes 32 (maskOf o.done))

/-- Collectives (R203, R312, R313, R314): one of each kind forms once every other rank's part is there, and parts that differ
end it ERROR; a chunk whose checksum holds is kept, one that fails is sent again, and its fourth failure is an ERROR; with
every chunk there the results and the record are written and the handle ends; a page of RECV in a peer's memory goes as a packet, the tags allowing
(28 R448, R449). That each peer's part comes with the event that forms the collective, filled with zeros or cut to its length (log entry
29), and that RECV and the record are written in COLL_COMPLETE (log entry 52), are the model's choices. An integer SUM is the sum of the participants'
elements modulo 2^w. -/
def Obligations.Collectives : Prop :=
  (∀ (s : State) (b id rank n : Nat) (o : EngOp), b < 160 → s.eng b id = some o → o.kind = .coll →
    let c := CollDesc.of o.desc
    (s.part o.part).collGroup c.group = some (rank, n) →
      let same (p : PeerPart) : Prop := p.op = c.op ∧ p.rop = c.rop ∧ p.fmt = c.fmt ∧ p.count = c.count ∧ p.lowexp = c.lowexp ∧ p.root = c.root
      let forms (kind : Nat) (i : List PeerPart → Instr) : Prop := ∀ peers, c.op = kind → o.started = false →
        (∀ r < n, r ≠ rank → (peers.filter fun p => p.rank == r).length = 1) →
        ((∀ p ∈ peers, same p) → exec (i peers) s =
          .next (s.modCore b fun w => { w with engs := w.engs.map fun z => if z.id = id then { z with started := true, parts := peers } else z })) ∧
        ((∃ p ∈ peers, ¬ same p) → exec (i peers) s = .next (s.collEnd b o 7 0xFFFFFFFF 0 0))
      forms 1 (.allreduce b id) ∧ forms 2 (.reduceScatter b id) ∧ forms 3 (.allgather b id) ∧ forms 4 (.broadcast b id) ∧
      (∀ k, o.started = true → k < c.chunks n → k ∉ o.done →
        let now (f : EngOp → EngOp) : State := s.modCore b fun w => { w with engs := w.engs.map fun z => if z.id = id then f z else z }
        let fails := lookupNat o.chunks k 0
        exec (.collChunk b id k true) s = .next (now fun z => { z with done := z.done ++ [k] }) ∧
        (fails = 3 → exec (.collChunk b id k false) s = .next (s.collEnd b o 7 k 0 0)) ∧
        (fails ≠ 3 → exec (.collChunk b id k false) s =
          .next (now fun z => { z with chunks := putNat z.chunks k (fails + 1) 0, resent := z.resent + 1 }))) ∧
      (o.started = true → o.waitRid = none → o.stop = none → o.peer = none → c.chunks n ≤ o.done.length →
        let bytes := c.sendLen n * collBytes c.fmt
        ∀ s1 own, s.collRead b o c.send (if c.op = 4 ∧ c.root ≠ rank then 0 else bytes) = (s1, own, .done) →
          let data (r : Nat) : List Byte := if r = rank then own else
            ((((o.parts.find? fun (p : PeerPart) => p.rank == r).map PeerPart.data).getD []) ++ List.replicate bytes 0).take bytes
          let r := c.result rank ((List.range n).map data)
          let pages := pageSplit c.recv r.1.length
          ∀ s2, s1.canWrite (o.agent b) ((pages ++ if c.recAt / 2 ^ 48 = 0xFFFE then [] else [(c.recAt, 16)]).filter fun p =>
              (s1.peerPa (o.agent b) p.1).isNone) = (s2, .ok ()) →
            let puts := whileDone (fun s (w : Nat × Nat × List Byte) => s.collPut b o own w.1 w.2) (((List.range pages.length).zip
              (pages.map fun p => (p.1, (r.1.drop (p.1 - c.recv)).take p.2))).drop o.pos) s2
            (∀ s3, puts = (s3, .done) → exec (.collComplete b id) s = .next (((s3.acquireVa b (o.agent b) c.recv r.1.length).acquireVa b
              (o.agent b) c.send bytes).collEnd b o 1 0xFFFFFFFF r.2 0)) ∧
            ∀ s3 w, puts = (s3, .sent w) → exec (.collComplete b id) s = .next (s3.modCore b fun k =>
              { k with engs := k.engs.map fun z => if z.id = o.id then { z with peer := some w, got := own, pos := o.pos } else z }))) ∧
  (∀ (s s1 : State) (b : Nat) (o : EngOp) (va n pa i : Nat) (own d : List Byte),
    (o.got = [] → n ≤ 4096 - va % 4096 → 0 < n → s.peerPa (o.agent b) va = none → s.readVa (o.agent b) va n = (s1, .ok d) →
      s.collRead b o va n = (s1, d, .done)) ∧
    (s.reachPa (o.agent b) va true = (s1, .ok pa) →
      ((paWin pa && bit pa 46) = false → ∀ s2 k, s1.writeVa (o.agent b) va d = (s2, .ok k) → s.collPut b o own i (va, d) = (s2, .done)) ∧
      ((paWin pa && bit pa 46) = true →
        (∀ s2, s1.sendPeer o.part pa d.length (some d) = some s2 → s.collPut b o own i (va, d) = (s2, .sent ⟨0, true, own, i, d.length⟩)) ∧
        (s1.sendPeer o.part pa d.length (some d) = none → s.collPut b o own i (va, d) = (s1.count o.part 9, .stop 6 va)))) ∧
    ∀ outcome bad flags,
      let c := CollDesc.of o.desc
      let data := leBytes 4 (outcome * 2 ^ 29 + min o.resent (2 ^ 24 - 1)) ++ leBytes 4 flags ++ leBytes 4 bad ++ leBytes 4 0
      (c.recAt / 2 ^ 48 = 0xFFFE → s.collRecord b o outcome bad flags = s.spadPut b o.team c.recAt data) ∧
      (c.recAt / 2 ^ 48 ≠ 0xFFFE → s.peerPa (o.agent b) c.recAt = none →
        s.collRecord b o outcome bad flags = (s.writeVa (o.agent b) c.recAt data).1)) ∧
  (∀ (s : State) (b : Nat) (o : EngOp) (outcome bad flags addr : Nat), b < 160 → o.handle < 1024 →
    ((s.collRecord b o outcome bad flags).handle b o.handle).st = .pending →
    ((s.collEnd b o outcome bad flags addr).handle b o.handle).st = .ended ∧
    ((s.collEnd b o outcome bad flags addr).handle b o.handle).word = BitVec.ofNat 32 (outcome * 2 ^ 29 + min o.resent (2 ^ 24 - 1))) ∧
  ∀ (c : CollDesc) (rank : Nat) (all : List (List Byte)), c.op = 1 → c.rop = 0 → (c.fmt = 1 ∨ c.fmt = 3) → all ≠ [] →
    let z := if c.fmt = 3 then 8 else 4
    (∀ d ∈ all, d.length = c.count * z) →
    (c.result rank all).2 = 0 ∧ (c.result rank all).1.length = c.count * z ∧
    ∀ i < c.count, leNat (((c.result rank all).1.drop (z * i)).take z) =
      ((all.map fun d => leNat ((d.drop (z * i)).take z)).sum) % 2 ^ (8 * z)

/-! Translation, invalidation and unified memory (17). -/

/-- Walks and faults (R344, R346 to R351): a miss is served from the L2 TLB, merged, or given a walker within its partition's
quota; a walk reads its next entry, then fills the TLBs, goes on to set A and D bits, or faults and parks its lanes; a changed
entry restarts it; RESUME lets the parked lanes and engines retry, or ends them with the fault; a HEAD write frees room, raising
the ring's interrupt where it makes it full, and walks parked on the dirty log are taken up again. That all leaves of a walk are updated
together (log entry 81), and that TADDR of a fatal fault is the lane's own address (log entry 66), are the model's choices. -/
def Obligations.WalksAndFaults : Prop :=
  (∀ (s : State) (b i : Nat) (m : Miss), b < 160 → (s.core b).misses[i]? = some m →
    let die := b / 40
    let hit := (s.die die).l2tlb.find? fun e => e.serves m
    let going := s.walks.find? fun w => w.die == die && w.miss.page m
    let quota := 256 * ((List.range 160).filter fun z => z / 40 == die && (s.part m.part).cores.getLsbD z).length / 40
    let mine := (s.walks.filter fun w => w.die == die && w.miss.part == m.part).length
    (∀ e, hit = some e → ∃ u, exec (.walkStart b i) s = .next u ∧ (u.core b).tlb = (e :: (s.core b).tlb).take 64 ∧
      (u.core b).misses = (s.core b).misses.filter fun n => !n.page m) ∧
    (hit = none → ∀ w, going = some w → (∀ z ∈ s.walks, z.id = w.id → z = w) → exec (.walkStart b i) s = .next
      { s with walks := s.walks.map fun z => if z = w then { w with cores := if b ∈ w.cores then w.cores else w.cores ++ [b] } else z }) ∧
    (hit = none → going = none → quota ≤ mine → exec (.walkStart b i) s = .next s) ∧
    (hit = none → going = none → mine < quota → exec (.walkStart b i) s = .next
      { s with nextId := s.nextId + 1, walks := s.walks ++ [⟨s.nextId, die, [b], m, .read, [], 0⟩] })) ∧
  (∀ (s : State) (die id : Nat) (w : Walk), s.walks.find? (fun w => w.id == id && w.die == die) = some w →
    let now (w : Option Walk) (u : State) : Prop := u.walks = s.walks.flatMap fun z => if z.id = id then w.toList else [z]
    let fills (u : State) (e : TlbEntry) : Prop := ∀ z ∈ w.cores, z < 160 → e ∈ (u.core z).tlb ∧ ∀ n ∈ (u.core z).misses, n.page w.miss = false
    (∀ addr stage2, w.st = .read → (w.restarts < 4 ∨ s.invalidating w.miss.part = false) →
      walkAll w.entries (s.part w.miss.part) w.miss = .inl (.need addr stage2) →
      let w' := { w with trail := w.trail ++ [(addr, s.pte addr)] }
      let out := walkAll w'.entries (s.part w.miss.part) w.miss
      (∀ a t, out = .inl (.need a t) → ∃ u, exec (.walkRead die id false) s = .next u ∧ now (some w') u ∧ u.mem = s.mem) ∧
      (∀ x, out = .inr x → x.writes = [] → ∃ u, exec (.walkRead die id false) s = .next u ∧ now none u ∧ fills u x.entry) ∧
      (∀ x, out = .inr x → x.writes ≠ [] → ∃ u, exec (.walkRead die id false) s = .next u ∧ now (some { w' with st := .update x.writes x.logs }) u) ∧
      (∀ code gpa uni, out = .inl (.fault code gpa uni) → ∀ s1 rid,
        (((s.keyless w.miss.part addr).cachePte w addr stage2 (s.pte addr)).setWalk id none).fault w.miss 0 code gpa uni = (s1, rid) →
        exec (.walkRead die id false) s = .next (match rid with
          | some rid => s1.parkOn w.cores w.miss rid
          | none => (s1.trapWhere w.cores (fun t => t.awaits w.miss) (fatalTrap code)).dropMisses w.cores w.miss))) ∧
    (∀ writes logs, w.st = .update writes logs →
      ((∃ a ∈ writes, s.pte a.1 ≠ a.2.1) → ∃ u, exec (.walkUpdate die id) s = .next u ∧ now (some { w with st := .read, trail := [] }) u) ∧
      (∀ g rest, logs = g :: rest → (∀ a ∈ writes, s.pte a.1 = a.2.1) → ∀ s1 ok,
        (if (s.part w.miss.part).dirtyRing.logN = 0 then (s, true) else s.ringAppend w.miss.part .dirty 8 (leBytes 8 (g.1 + 1))) = (s1, ok) →
        exec (.walkUpdate die id) s = .next (if ok then
            ((writes.filter fun u => u.1 == g.2).foldl (fun (s : State) u => s.setPte u.1 u.2.2) s1).setWalk id
              (some { w with st := .update (writes.filter fun u => u.1 != g.2) rest })
          else (s1.setWalk id (some { w with st := .parked writes logs })).parkOn w.cores w.miss id)) ∧
      ((∀ a ∈ writes, s.pte a.1 = a.2.1) → logs = [] →
        ∀ x, walkAll w.entries (s.part w.miss.part) w.miss = .inr x → ∃ u, exec (.walkUpdate die id) s = .next u ∧ now none u ∧ fills u x.entry ∧
          u.mem = (writes.foldl (fun (s : State) a => s.setPte a.1 a.2.2) s).mem))) ∧
  (∀ (s : State) (p : Nat) (ring : Ring) (rid : Word) (f : FaultRec), s.findFault p ring rid = some f → f.part < 9 →
    let gone (u : State) : Prop := u.faults = s.faults.filter fun g => g.rid != f.rid
    (∃ u, exec (.resumeRetry p ring rid) s = .next u ∧ gone u ∧ ∀ b < 160,
      (∀ sl < 64, ∀ l < 32, u.thread b sl l = if (s.thread b sl l).st = .parked (.fault f.rid) then { s.thread b sl l with st := .runnable, age := 0 }
        else s.thread b sl l) ∧
      ∀ o ∈ (u.core b).copies, o.waitRid ≠ some f.rid) ∧
    ((∀ b < 160, ∀ sl < 64, ∀ l < 32, (s.thread b sl l).st = .parked (.fault f.rid) → (s.thread b sl l).handles = true ∧ (s.hdrOf b sl).pair = false ∧
        (s.thread b sl l).haltMark = false ∧ (s.thread b sl l).stepMark = false) →
      ∃ u, exec (.resumeFatal p ring rid) s = .next u ∧ gone u ∧ ∀ b < 160,
        (∀ sl < 64, ∀ l < 32, u.thread b sl l =
          let t := s.thread b sl l
          if t.st = .parked (.fault f.rid) then
            t.enterTrap { cause := 0x0A, info := f.code, addr := BitVec.ofNat 64 ((t.miss.map Miss.va).getD 0) } t.pc
          else t) ∧
        (u.core b).copies = (s.core b).copies.map fun o =>
          if o.waitRid = some f.rid then { o with waitRid := none, stop := some (6, f.va) } else o)) ∧
  ∀ (s : State) (p : Nat) (v : Word), p < 9 → s.boot = 3 → v.toNat < 2 ^ 16 →
    let walks := s.walks.filter fun w => w.miss.part == p && match w.st with
      | .parked .. => true
      | _ => false
    (∀ ring, ring ≠ .dirty → (∀ f ∈ s.faults, f.part = p → f.ring = some ring → f.written = true) →
      let r := (s.part p).ring ring
      let u := s.modPart p fun x => x.setRing ring { r with head := v.toNat }
      exec (.ringHeadWrite p ring v) s = .next (if r.full = false ∧ ({ r with head := v.toNat } : RingRegs).full = true
        then u.msix (ringVector p ring).1 (ringVector p ring).2 else u)) ∧
    (∃ u, exec (.ringHeadWrite p .dirty v) s = .next u ∧ (u.part p).dirtyRing = { (s.part p).dirtyRing with head := v.toNat } ∧
      u.walks = s.walks.filter (fun w => !walks.any fun z => z.id == w.id) ∧
      ∀ b < 160, ∀ sl < 64, ∀ l < 32, u.thread b sl l =
        if walks.any (fun w => (s.thread b sl l).st == .parked (.fault w.id)) then { s.thread b sl l with st := .runnable, age := 0 }
        else s.thread b sl l)

/-- Invalidations (R352, R353, R355): a start while one is in progress is dropped; a request is sent to every directory
target; each target drops what it covers; the last acknowledgement makes it DONE; cores that alone have not answered after 2
µs are quarantined, their teams killed, and TIMEOUT is set. A unified page brought into HBM4 resolves its faults, whose lanes
retry. -/
def Obligations.Invalidations : Prop :=
  ∀ (s : State) (p : Nat), p < 9 →
    (∀ (stage2 whole : Bool),
      let r := if stage2 then (s.part p).inv2 else (s.part p).inv1
      let i : Instr := if whole then .invalidateStage p stage2 else .invalidatePage p stage2
      let regs (x : Partition) (r : InvRegs) : Partition := if stage2 then { x with inv2 := r } else { x with inv1 := r }
      (s.boot = 3 → r.busy = true → exec i s = .next (s.modPart p fun x => regs x { r with dropped := true })) ∧
      (s.boot = 3 → r.busy = false → exec i s = .next { s.modPart p (fun x => { regs x { r with busy := true } with invs := x.invs ++
        [⟨s.nextId, stage2, if whole then none else some r.addr, none, true, false, [], 0, 0⟩] }) with nextId := s.nextId + 1 })) ∧
    (∀ q rest, (s.part p).invs = q :: rest → (∀ z ∈ rest, z.id ≠ q.id) →
      let regs (u : State) : InvRegs := if q.stage2 then (u.part p).inv2 else (u.part p).inv1
      (q.sent = false → ∃ u, exec (.invalidationSend p) s = .next u ∧ (u.part p).invs =
        { q with sent := true
                 left :=
                  let cs := (List.range 160).filter fun b => (s.part p).cores.getLsbD b && !(s.core b).gated && !(s.core b).quarantined
                  ((List.range 4).filter fun c => s.invDie p c).map .die ++ cs.map .core ++ cs.map .copyEngine ++ (List.range 4).map .geyser ++ [.commandProcessor, .nearMemory] } :: rest) ∧
      (q.sent = true → ∀ t ∈ q.left, (t = .nearMemory → s.nearBusy p q = false) → (∀ z, t = .core z → .die (z / 40) ∉ q.left) → (∃ z ∈ q.left, z ≠ t) →
        ∃ u, exec (.invalidationAck p t) s = .next u ∧ (u.part p).invs = { q with left := q.left.filter (· != t) } :: rest ∧
          (∀ z < 160, t = .core z → (u.core z).tlb = (s.core z).tlb.filter fun e => !q.covers p e) ∧
          ∀ z < 4, t = .die z → (u.die z).l2tlb = (s.die z).l2tlb.filter fun e => !q.covers p e) ∧
      (q.sent = true → q.register = true → q.asker = none →
        (∀ t, q.left = [t] → (t = .nearMemory → s.nearBusy p q = false) → ∃ u, exec (.invalidationAck p t) s = .next u ∧ (u.part p).invs = rest ∧
          regs u = { regs s with busy := false, seq := ((regs s).seq + 1) % 2 ^ 32, timeout := (regs s).timeout || q.quar != 0 }) ∧
        (q.left ≠ [] → (∀ t ∈ q.left, ∃ b < 160, t = .core b) → ∃ u, exec (.invalidationTimeout p) s = .next u ∧
          (u.part p).invs.map InvReq.id = rest.map InvReq.id ∧
          regs u = { regs s with busy := false, seq := ((regs s).seq + 1) % 2 ^ 32, timeout := true } ∧
          ∀ b, .core b ∈ q.left → (u.core b).quarantined = true ∧ ∀ tm ∈ (u.core b).teams, tm.killed = true))) ∧
    ∀ gpa, gpa % 4096 = 0 →
      let fs := s.faults.filter fun f => f.part == p && f.ring == none && f.gpa / 4096 * 4096 == gpa
      ∀ addr e bus, fs ≠ [] → (∀ m ∈ (s.part p).moving, m.1 / 4096 ≠ gpa / 4096) → s.pageEntry p gpa = some (addr, e) → (s.part p).backed gpa = some bus → pteV e = false →
        ∃ u, exec (.unifiedMigration p gpa true) s = .next u ∧ (∀ f, f ∈ u.faults ↔ f ∈ s.faults ∧ ∀ g ∈ fs, g.rid ≠ f.rid) ∧
          (u.part p).backed gpa = some bus ∧
          ∀ b < 160, ∀ sl < 64, ∀ l < 32, ∀ g ∈ fs, (s.thread b sl l).st = .parked (.fault g.rid) →
            u.thread b sl l = { s.thread b sl l with st := .runnable, age := 0 }

/-! The mailbox, partitions and their lives, resets, power, the host's pages and security (01, 14, 17, 19, 20, 28, 29). -/

/-- The mailbox commands on the partition table, the power limit, the calendar and unified memory (R22, R282, R286, R355 to
R357, R442, R455): BAD_CMD for a malformed request; otherwise each has its effect, or is REFUSED or LOCKED without it, and
answers with its CODE. That LOCKED comes before REFUSED (log entry 61), and that UNIFIED refuses a page with no level-5 table or a leaf of
another form (log entry 17), are the model's choices. -/
def Obligations.MailboxCommands : Prop :=
  (∀ (s : State), s.mailbox.busy = true →
    let m := s.mailbox
    let p := m.arg 1 1
    let op (k : Nat) (zero : List (Nat × Nat)) : Prop := m.arg 0 1 = k ∧ m.arg 2 2 = 0 ∧ p ≤ 8 ∧ ∀ z ∈ zero, m.arg z.1 z.2 = 0
    let answers (i : Instr) (code : Nat) (holds : State → Prop) : Prop :=
      ∃ u, exec i s = .next u ∧ u.mailbox.busy = false ∧ u.mailbox.code = code ∧ holds u
    let same (u : State) : Prop := u.mem = s.mem ∧ u.cores = s.cores ∧ u.calendarNext = s.calendarNext ∧ u.limitNext = s.limitNext
    let off := m.arg 4 2
    let n := m.arg 6 2
    (∀ i k, (i, k) ∈ [(Instr.ptWrite, 1), (.ptRead, 2), (.suspend, 3), (.evacuate, 4), (.restore, 5), (.resume, 6), (.reset, 7), (.limit, 9),
        (.calendar, 10)] → m.arg 0 1 = k → (8 < p ∨ m.arg 2 2 ≠ 0) → answers i 3 same) ∧
    (op 1 [] → 1 ≤ n → n ≤ 128 → off + n ≤ 512 →
      let data := (m.cmd.drop 8).take n
      let old := s.entryBytes p
      let y := (s.part p).ofBytes (old.take off ++ data ++ old.drop (off + n))
      (∀ i < n, field data i 1 &&& entryRsvd (off + i) = 0 ∧ (entryRo (off + i) = true → field data i 1 = field old (off + i) 1)) →
      let locked := s.locked p && touchesLocked (s.part p) y
      (locked = true → answers .ptWrite 4 fun u => same u ∧ (u.part p).tdisp = 3) ∧
      (locked = false → s.refusesEntry p y = true → answers .ptWrite 2 same) ∧
      (locked = false → s.refusesEntry p y = false → answers .ptWrite 1 fun u => (u.part p).flags = y.flags ∧ (u.part p).cores = y.cores ∧
        (u.part p).urgent = y.urgent ∧ (u.part p).hroot = y.hroot ∧ (u.part p).groot = y.groot ∧ (u.part p).tvec = y.tvec ∧
        (u.part p).stackBase = y.stackBase ∧ (u.part p).stackSize = y.stackSize ∧ (u.part p).copyAp = y.copyAp ∧
        (u.part p).templ = y.templ ∧ (u.part p).keys = y.keys ∧ (u.part p).tags = y.tags ∧ (u.part p).groups = y.groups ∧
        (u.part p).cmdBase = y.cmdBase ∧ (u.part p).cmdSize = y.cmdSize ∧
        (u.part p).st = if (s.part p).st = 0 ∧ y.cores ≠ 0 then 1 else (s.part p).st)) ∧
    (op 2 [] → 1 ≤ n → n ≤ 256 → off + n ≤ 512 → answers .ptRead 1 fun u => same u ∧ u.mailbox.resp.take n = ((s.entryBytes p).drop off).take n) ∧
    (op 9 [(6, 2)] → let w := m.arg 4 2
      (1200 ≤ w → w ≤ 3000 → w % 50 = 0 → answers .limit 1 fun u => u.limitNext = w ∧ u.limit = s.limit) ∧
      (w < 1200 ∨ 3000 < w ∨ w % 50 ≠ 0 → answers .limit 3 same)) ∧
    (op 10 [(6, 2)] →
      let cls := m.arg 4 1
      let half := m.arg 5 1
      let es := calendarEntries ((m.cmd.drop 8).take 64)
      let new := if half = 0 then es ++ (s.table cls).drop 128 else (s.table cls).take 128 ++ es
      let held (q : Nat) : Prop := s.locked q = true ∧ ∃ e ∈ (s.table cls).zip new, (e.1 = q) ≠ (e.2 = q)
      let short (q : Nat) : Prop := (q = 0 ∨ (s.part q).st ≠ 0) ∧ (new.filter (· == q)).length < 8
      cls ≤ 6 → half ≤ 1 → (∀ e ∈ es, e < 9 ∨ e = 15) →
        ((∃ q < 9, held q) → answers .calendar 4 same) ∧
        ((∀ q < 9, ¬ held q) → (∃ q < 9, short q) → answers .calendar 2 same) ∧
        ((∀ q < 9, ¬ held q ∧ ¬ short q) → answers .calendar 1 fun u => u.calendar = s.calendar ∧ u.table cls = new)) ∧
    (∀ ps, unifiedPages m = some ps →
      (op 11 [(6, 2), (5, 1)] → m.arg 4 1 = 0 → let bus := m.arg 24 8
        bus % 4096 = 0 → bus + m.arg 16 8 ≤ 2 ^ 46 →
        ((∃ g ∈ ps, s.pageEntry p g = none) → answers .unifiedMap 2 same) ∧
        ((∀ g ∈ ps, ∃ a e, s.pageEntry p g = some (a, e) ∧ pteV e = false ∧ (pteUni e = false ∨ (s.part p).backed g = none)) →
          answers .unifiedMap 1 fun u =>
          (u.part p).backed (ps.headD 0) = some bus ∧ ∀ g a e, ps = [g] → s.pageEntry p g = some (a, e) →
            u.mem = (s.setPte a ((2 ^ 47 + bus) / 4096 * 4096 + 2 ^ 8 + 12)).mem)) ∧
      (op 11 [(6, 2), (24, 8)] → m.arg 4 1 = 1 →
        (1 < m.arg 5 1 → answers .unifiedMigrate 3 same) ∧
        (m.arg 5 1 ≤ 1 → (∃ g ∈ ps, s.pageEntry p g = none ∨ (s.part p).backed g = none) → answers .unifiedMigrate 2 same) ∧
        (m.arg 5 1 ≤ 1 → (∀ g ∈ ps, (∀ z ∈ (s.part p).moving, z.1 ≠ g) ∧
            ∃ a e bus, s.pageEntry p g = some (a, e) ∧ (s.part p).backed g = some bus ∧ (pteV e = true ↔ m.arg 5 1 = 1)) →
          answers .unifiedMigrate 1 fun u => u.mem = s.mem ∧ u.hostMem = s.hostMem) ∧
        (∀ g a e bus, m.arg 5 1 = 0 → ps = [g] → s.pageEntry p g = some (a, e) → (s.part p).backed g = some bus →
          (pteV e = true → ∃ u q, exec .unifiedMigrate s = .next u ∧ u.mailbox = s.mailbox ∧ u.hostMem = s.hostMem ∧
            u.mem = (s.setPte a (e - 1)).mem ∧ (u.part p).invs = (s.part p).invs ++ [q] ∧ q.stage2 = true ∧ q.page = some g ∧ q.sent = false ∧
            (u.part p).moving = (s.part p).moving ++ [(g, q.id)]) ∧
          (pteV e = false → (∃ z ∈ (s.part p).moving, z.1 = g) → (s.part p).invalidating g = false → answers .unifiedMigrate 1 fun u =>
            u.hostMem = memWrite s.hostMem bus (s.l2Read p (pteOa e % 2 ^ 48) 4096).2.1 ∧ ∀ z ∈ (u.part p).moving, z.1 ≠ g))) ∧
      (op 11 [(6, 2), (5, 1), (24, 8)] → m.arg 4 1 = 2 → answers .unifiedQuery 1 fun u =>
        let root := (s.part p).hroot
        same u ∧ leNat (u.mailbox.resp.take 8) = (if p = 0 then 0 else (leafOf s.pte (ps.headD 0) 5 1 root).getD 0) % 2 ^ 64 ∧
        (∀ a e, s.pageEntry p (ps.headD 0) = some (a, e) → leNat (u.mailbox.resp.take 8) = e % 2 ^ 64) ∧
        let top := s.pte (root + 8 * ptIndex 1 (ps.headD 0))
        (1 ≤ p → pteV top = false → leNat (u.mailbox.resp.take 8) = 0)))) ∧
  ∀ (s : State) (cls : Nat) (t : List Nat) (h : cls < 7), s.calendarNext[cls] = some t →
    ∃ u, exec (.calendarTakeEffect cls) s = .next u ∧ u.calendar[cls] = t ∧ u.calendarNext[cls] = none ∧
      ∀ k (h : k < 7), k ≠ cls → u.calendar[k] = s.calendar[k]

/-- A suspension from SUSPEND to RESUME, with or without its evacuation (R387 to R389): STATE reads SUSPENDED from the command
on; the contexts are saved once every core has halted; EVACUATE takes them to memory, frees the cores and Caldera, and RESTORE
brings them back onto cores the MP chooses with their threads as they were; RESUME makes the partition ACTIVE. That SUSPEND, EVACUATE and
RESTORE answer when they are accepted (log entry 62), that a core's rail and counters stay with the core, and what an image holds (log entry
34), are the model's choices. -/
def Obligations.Suspension : Prop :=
  ∀ (s : State) (p : Nat), p < 9 →
    let m := s.mailbox
    let x := s.part p
    let asked (k : Nat) : Prop := m.busy = true ∧ m.arg 0 1 = k ∧ m.arg 2 2 = 0 ∧ m.arg 1 1 = p
    let cs := (List.range 160).filter fun b => x.cores.getLsbD b
    let answers (i : Instr) (code : Nat) (holds : State → Prop) : Prop :=
      ∃ u, exec i s = .next u ∧ u.mailbox.busy = false ∧ u.mailbox.code = code ∧ holds u
    (asked 3 → (x.phase ≠ .active ∨ x.st ≠ 1 → answers .suspend 5 fun u => (u.part p).phase = x.phase) ∧
      (x.phase = .active → x.st = 1 → s.locked p = false → answers .suspend 1 fun u => (u.part p).phase = .halting ∧ (u.part p).st = 2 ∧
        u.cores = s.cores ∧ u.mailbox.resp.take 8 = leBytes 8 (Config.evacuateBytes p))) ∧
    (x.phase = .halting → ((∀ b ∈ cs, s.coreHalted b = true) → exec (.suspendHalted p) s = .next (s.modPart p fun z => { z with phase := .saving })) ∧
      ((∃ b ∈ cs, s.coreHalted b = false) → exec (.suspendHalted p) s = .next s)) ∧
    (x.phase = .saving → (∀ b ∈ cs, (s.core b).caldera.length < 2) → ∃ u, exec (.contextSaved p) s = .next u ∧ (u.part p).phase = .saved ∧
      ∀ b < 160, u.core b = if b ∈ cs then { s.core b with caldera := (s.core b).caldera ++ [p], badCaldera := [] } else s.core b) ∧
    (asked 4 → m.arg 4 4 = 0 → (x.phase ≠ .saved → answers .evacuate 5 fun u => u.cores = s.cores) ∧
      (x.phase = .saved → s.locked p = false →
        if m.arg 16 8 < Config.evacuateBytes p * cs.length then answers .evacuate 2 fun u => (u.part p).phase = .saved
        else answers .evacuate 1 fun u => (u.part p).phase = .evacuating ∧ (u.part p).imageAt = m.arg 8 8)) ∧
    (x.phase = .evacuating → (∀ b ∈ cs, s.coreDrained b = true) → ∃ u, exec (.evacuateComplete p) s = .next u ∧ (u.part p).phase = .evacuated ∧
      (u.part p).image.map Image.core = cs ∧ (∀ im ∈ (u.part p).image, ∀ k < 48, ∀ a, memGet (im.ctx.bank k).mem a = s.spadByte im.core k a) ∧
      ∀ b ∈ cs, (u.core b).teams = [] ∧ (u.core b).caldera = [] ∧ (∀ sl < 64, u.crew b sl = none) ∧ ∀ k < 48, (u.bank b k).mem = []) ∧
    (asked 5 → m.arg 4 4 = 0 → (x.phase ≠ .evacuated → answers .restore 5 fun u => u.cores = s.cores) ∧
      (x.phase = .evacuated → s.locked p = false → answers .restore 1 fun u => (u.part p).phase = .restoring ∧
        (u.part p).imageAt = m.arg 8 8)) ∧
    (∀ cores, x.phase = .restoring → s.restorable p cores = true → (∀ b ∈ cores, b < 160) →
      ∃ u, exec (.restoreComplete p cores) s = .next u ∧ (u.part p).phase = .saved ∧ (u.part p).image = [] ∧
        ∀ (k : Nat) (im : Image) (b : Nat), x.image[k]? = some im → cores[k]? = some b →
          (u.core b).teams = im.ctx.teams ∧ (u.core b).handles = im.ctx.handles ∧ (u.core b).tas = im.ctx.tas ∧ (u.core b).banks = im.ctx.banks ∧
          (u.core b).cache = [] ∧ (u.core b).tlb = [] ∧ (u.core b).rail = (s.core b).rail ∧ p ∈ (u.core b).caldera ∧
          let n := Config.evacuateBytes p
          let base := s.imagePa p x.imageAt
          let r := s.l2Read p base (n * x.image.length)
          ((∀ i < n, r.1.badByte (base + (n * k + i)) = false) → (u.core b).badCaldera = []) ∧
          ((∀ i < n, r.2.1[n * k + i]? = some (Config.imageByte p x.imageNo (n * k + i))) →
            ∀ sl < 64, ∀ l < 32, (u.thread b sl l).regs = (match im.ctx.crew sl with
              | some c => (c.thread l).regs
              | none => ({} : Thread).regs))) ∧
    (asked 6 → (x.phase ≠ .saved → answers .resume 5 fun u => u.cores = s.cores) ∧
      (x.phase = .saved → (∀ b ∈ cs, (s.core b).badCaldera = []) → answers .resume 1 fun u => (u.part p).phase = .active ∧ (u.part p).st = 1 ∧
        ∀ b ∈ cs, p ∉ (u.core b).caldera ∧ (u.core b).teams = (s.core b).teams ∧ ∀ k < 48, (u.bank b k) = s.bank b k) ∧
      (x.phase = .saved → answers .resume 1 fun u => ∀ b ∈ cs, ∀ t ∈ (u.core b).teams,
        64 ∈ (s.core b).badCaldera ∨ (∃ k ∈ t.slots, k ∈ (s.core b).badCaldera) → t.killed = true))

/-- Resets (R390 to R392, R445, R446, R450, R451): a partition reset, by the mailbox or a function reset of its VF, leaves its
cores and its table entry as the manual says and ends ACTIVE; a function reset of the PF also erases every key and unlocks
every TDI; a core reset returns a core with no team to service; a package reset begins the boot at FIRMWARE, and its steps lead to READY, or to FAILED
with BOOTERR. The model's choices in it: memory empty (log entry 3), banks in scratchpad mode and handle slots FREE with GEN 0 (log entries 4,
5), the anti-rollback counter kept (log entry 8), and what a partition reset keeps of the partition (log entry 63). -/
def Obligations.Resets : Prop :=
  (∀ (s : State) (p : Nat), p < 9 →
    let x := s.part p
    let reset (u : State) : Prop := (u.part p).st = 3 ∧ (u.part p).cores = x.cores ∧ (u.part p).hroot = x.hroot ∧ (u.part p).keys = x.keys ∧
      (u.part p).groot = 0 ∧ (u.part p).tvec = 0 ∧ (u.part p).stackBase = 0 ∧ (u.part p).stackSize = 0 ∧ (u.part p).copyAp = 0 ∧
      (u.part p).templ = 0 ∧ (u.part p).cmdBase = 0 ∧ (u.part p).cmdSize = 0 ∧ (u.part p).queue = {} ∧ (u.part p).cmd = none ∧
      (u.part p).graphs = [] ∧ (u.part p).tasks = [] ∧ (u.part p).launches = [] ∧ (u.part p).workq = [] ∧ (u.part p).urgentq = [] ∧
      (∀ b < 160, x.cores.getLsbD b = true → (u.core b).teams = [] ∧ (u.core b).handles = Vector.replicate 1024 {} ∧ (u.core b).tas = [] ∧
        (u.core b).tlb = [] ∧ (u.core b).copies = [] ∧ (u.core b).engs = [] ∧ (u.core b).rail = {} ∧ (∀ sl < 64, u.crew b sl = none) ∧
        ∀ k < 48, u.bank b k = {}) ∧
      (∀ f ∈ u.faults, f.part ≠ p) ∧ u.mem = s.mem ∧ u.hostMem = s.hostMem
    (s.mailbox.busy = true → s.mailbox.arg 0 1 = 7 → s.mailbox.arg 2 2 = 0 → s.mailbox.arg 1 1 = p → x.st ≠ 3 →
      ∃ u, exec .reset s = .next u ∧ reset u ∧ u.mailbox = s.mailbox) ∧
    (1 ≤ p → s.boot = 3 → ∃ u, exec (.vfFlr p) s = .next u ∧ reset u ∧ u.keys = s.keys) ∧
    (p = 0 → s.boot = 3 → ∃ u, exec .pfFlr s = .next u ∧ reset u ∧ u.keys = [] ∧ (∀ q < 9, (u.part q).tdisp = 0) ∧ u.flr = List.range 9) ∧
    (1 ≤ p → s.boot = 3 → ∃ u, exec (.tdispStop p) s = .next u ∧ reset u ∧ (u.part p).tdisp = 0 ∧
      u.keys = s.keys.filter fun e => !(x.keys.any fun k => bit k 7 && k % 128 == e.1)) ∧
    (x.st = 3 → s.flr = [] → ∃ u, exec (.partitionResetComplete p) s = .next u ∧ (u.part p).st = 1 ∧
      (s.mailbox.busy = true → s.mailbox.arg 0 1 = 7 → s.mailbox.arg 1 1 = p → u.mailbox.busy = false ∧ u.mailbox.code = 1))) ∧
  (∀ (s : State) (b : Nat), s.mailbox.busy = true → s.mailbox.arg 0 1 = 8 → s.mailbox.arg 2 2 = 0 → s.mailbox.arg 6 2 = 0 → s.mailbox.arg 4 2 = b →
    s.mailbox.arg 1 1 ≤ 8 →
    let answers (code : Nat) (holds : State → Prop) : Prop :=
      ∃ u, exec .coreReset s = .next u ∧ u.mailbox.busy = false ∧ u.mailbox.code = code ∧ holds u
    let own := (s.part (s.mailbox.arg 1 1)).cores.getLsbD b
    (159 < b → answers 3 fun u => u.cores = s.cores) ∧
    (b < 160 → own = false → answers 2 fun u => u.cores = s.cores) ∧
    (b < 160 → own = true → (s.core b).teams ≠ [] → answers 5 fun u => u.cores = s.cores) ∧
    (b < 160 → own = true → (s.core b).teams = [] → answers 1 fun u => (u.core b).quarantined = false ∧
      (u.core b).handles = Vector.replicate 1024 {} ∧ (u.core b).tas = [] ∧ (u.core b).tlb = [] ∧ (∀ sl < 63, u.crew b sl = none) ∧
      ∀ k < 48, u.bank b k = {})) ∧
  (∀ (s : State) (sram : BitVec 4) (r : BootResult), r = .ready ∨ (∃ e : BitVec 8, r = .failed e ∧ 1 ≤ e.toNat ∧ e.toNat ≤ 5) →
    ∃ u, exec (.packageReset r sram) s = .next u ∧ u.boot = 0 ∧ u.booting = r ∧ u.bootErr = 0 ∧ u.mem = [] ∧ u.hostMem = s.hostMem ∧
      u.boots = s.boots + 1 ∧ u.antiRollback = s.antiRollback ∧ u.keys = [] ∧ (∀ b < 160, u.core b = {}) ∧
      (∀ c < 4, (u.die c).sram = sram.getLsbD c) ∧ ∀ p < 9, u.part p = {}) ∧
  ∀ (s : State) (rest : List Act), s.agenda = .boot :: rest →
    let t : State := { s.tick with agenda := rest }
    (s.boot = 0 → step s = .next (if s.booting = .failed 1 then { t with boot := 15, bootErr := 1 } else { t with boot := 1 })) ∧
    (s.boot = 1 → s.booting = .ready → step s = .next { t with boot := 2 }) ∧
    (∀ e, s.boot = 1 → s.booting = .failed e → step s = .next { t with boot := 15, bootErr := e.toNat }) ∧
    (s.boot = 2 → ∃ u, step s = .next u ∧ u.boot = 3 ∧ u.mem = s.mem ∧ u.cores = s.cores ∧ u.keys = [(0, s.keyLog.length)] ∧ u.limit = 3000 ∧
      (u.part 0).st = 1 ∧ (u.part 0).cores = BitVec.allOnes 160 ∧ (∀ p, 1 ≤ p → p < 9 → (u.part p).st = (s.part p).st ∧ (u.part p).cores = (s.part p).cores) ∧
      ∀ c (h : c < 7), u.calendar[c] = List.replicate 256 0) ∧
    ((s.boot = 3 ∨ s.boot = 15) → step s = .next t)

/-- Power (R20, R22 to R24, R373): a quiet package sleeps until it is woken, and meanwhile nothing else moves; every arbiter
interval puts the limit in force, counts each partition's energy, and masks only cores whose rail, at its tuner's voltage and with
what a raise of it drew in the interval before, draws more than their share. The equal shares and their charges (log entry 36), and when a
package may sleep and what reaches it asleep (log entry 37), are the model's choices. -/
def Obligations.PowerStates : Prop :=
  ∀ (s : State),
    (s.quietPackage = true → exec .lowPowerEntry s = .next { s with asleep := true }) ∧ exec .lowPowerWake s = .next { s with asleep := false } ∧
    (∀ a r, s.asleep = true → s.agenda = a :: r → (∀ i, a = .event i → wakes i = false) →
      (∀ x d, a ≠ .host x d) → (∀ k b, a ≠ .hostBad k b) → (∀ f o n, a ≠ .read f o n) → (∀ p o v, a ≠ .ring p o v) → (∀ f o d, a ≠ .vf f o d) →
      a ≠ .boot → (∀ f o n d, a ≠ .stray f o n d) → step s = .next { s.tick with agenda := r }) ∧
    ∀ l, ∃ u floor, exec (.powerArbiterInterval l) s = .next u ∧ u.limit = s.limitNext ∧ floor * 160 ≤ s.limitNext * 1000 ∧
      (∀ b < 160,
        let c := s.core b
        let draws (v : Nat) : Nat := (readingOf l b).milliamps * v / 10000
        ∃ k, u.core b = { c with masked := k, charged := draws c.rail.extra, rail := { c.rail with extra := c.rail.raised.getD c.rail.v - c.rail.v } } ∧
          k < 16 ∧ (draws c.rail.v + c.charged ≤ floor → k = 0)) ∧
      ∀ p < 9, (u.part p).energy = min ((s.part p).energy + (((List.range 160).filter fun b => (s.part p).cores.getLsbD b).map fun b =>
        (readingOf l b).microjoules).sum) (2 ^ 64 - 1) ∧ (u.part p).queue = (s.part p).queue ∧ (u.part p).launches = (s.part p).launches

/-- The debug page and the other registers of the functions' pages (R5, R6, R371, R393, R394, R439, R440, R456): DBGEN
reserves slot 63, starting the debug crews where it is free, and frees it again; messages enter H2D, 8 bytes at once or by
halves, and one that finds 64 is lost; a read of D2H takes its oldest message; CLEAR zeroes the telemetry; RSVD bits written 1
and accesses that R439 does not admit are recorded and have no other effect. That DBGEN set takes the debug crew's snapshot of its code, and
that its fall lets every halted lane run (log entry 69), and what CLEAR leaves of the slot counters (log entry 35), are the model's choices. -/
def Obligations.HostPages : Prop :=
  ∀ (s : State) (p : Nat), p ≤ 8 → s.boot = 3 →
    let x := s.part p
    let host (i : Instr) (f : Partition → Partition) : Prop := ∃ u, exec i s = .next u ∧ u.part p = f x ∧ u.mem = s.mem ∧ u.hostOut = s.hostOut
    let pushed (i : Instr) (v : DWord) : Prop :=
      (x.h2d.length < 64 → host i fun x => { x with staging := 0, h2d := x.h2d ++ [v] }) ∧
      (64 ≤ x.h2d.length → host i fun x => { x with staging := 0, h2dLost := true })
    let popped (i : Instr) (off : Nat) (v : DWord) : Prop :=
      exec i s = .next (let u := s.modPart p fun x => { x with d2h := x.d2h.drop 1 }
                        { u with hostOut := s.hostOut ++ [.read p off v] })
    (∀ v, pushed (.h2dWrite p v) v) ∧
    (∀ v : Word, exec (.h2dStageWrite p v) s = .next (s.modPart p fun x => { x with staging := v }) ∧ pushed (.h2dHighWrite p v) (v ++ x.staging)) ∧
    popped (.d2hRead p) 0x4018 ((x.d2h.head?).getD 0) ∧
    popped (.d2hHighRead p) 0x401C (((x.d2h.head?).getD 0) >>> 32) ∧
    (x.dbgen = false → ∃ u, exec (.dbgenWrite p 1) s = .next u ∧ (u.part p).dbgen = true ∧ (u.part p).dbgCode = s.mem ∧
      (u.part p).dbgKeys = s.unitKeys ∧
      ∀ b < 160, (s.partOf b = p → x.cores.getLsbD b = true → s.crew b 63 = none → (u.core b).debug = true ∧ ∃ c, u.crew b 63 = some c ∧ c.team = none ∧
        ∀ l < 32, (c.thread l).st = .runnable ∧ (c.thread l).priv = true ∧ (c.thread l).pc = BitVec.ofNat 64 x.dentry) ∧
        ∀ sl < 63, u.crew b sl = s.crew b sl) ∧
    (x.dbgen = true → ∃ u, exec (.dbgenWrite p 0) s = .next u ∧ (u.part p).dbgen = false ∧
      ∀ b < 160, x.cores.getLsbD b = true → (u.core b).debug = false ∧ ((s.core b).debug = true → u.crew b 63 = none) ∧
        ∀ sl < 63, ∀ l < 32, (s.thread b sl l).st = .halted → (u.thread b sl l).st = .runnable ∧ (u.thread b sl l).pc = (s.thread b sl l).pc) ∧
    (∃ u, exec (.telemetryClear p) s = .next u ∧ (u.part p).tele = Vector.replicate 12 0 ∧ (u.part p).slots = Vector.replicate 8 0 ∧ (u.part p).energy = 0 ∧ (u.part p).maskedSlots = 0 ∧
      (u.part p).maskInt = 0 ∧ u.mem = s.mem ∧ u.cores = s.cores) ∧
    (∀ v : DWord, host (.registerWrite p 0x4000 8 v) fun x =>
      { x with dentry := v.toNat % 2 ^ 57 / 4 * 4, rsvdWrite := x.rsvdWrite || (v &&& 0xFE00000000000003 != 0),
               lastOff := if v &&& 0xFE00000000000003 = 0 then x.lastOff else 0x4000 }) ∧
    (∀ v : DWord, host (.registerWrite p 0x20 8 v) fun x => { x with badAcc := true, lastOff := 0x20 }) ∧
    (∀ v : DWord, host (.registerWrite p 0x4004 8 v) fun x => { x with badAcc := true, lastOff := 0x4004 })

/-- Keys, attestation, TDISP and UALink (R186, R443 to R446, R448, R449): a key is loaded under a valid, empty key ID of its
partition; it is erased once the lines that L2 holds under it have left, memory reading as before; SPDM signs until its
signatures are used up; a TDI is locked and then runs; an inbound request that matches no tag, lies outside the export window, is
of no kind the device serves or reaches no page is answered with an error; one that reads gets the bytes, one that writes has its
bytes written; a completion lets the copy that waits for it go on, or ends it with FAULT. A measurement's value (log entry 15), and which
inbound requests get an error completion (log entry 65), are the model's choices. -/
def Obligations.KeysAndFabric : Prop :=
  (∀ (s : State), s.boot = 3 →
    (∀ p k key, p < 9 →
      let out (ok : Bool) : List HostObs := s.hostOut ++ [.key p k ok]
      let id := (s.part p).keyAt k
      (id = none → exec (.keySet p k key) s = .next { s with hostOut := out false } ∧ exec (.keyClear p k) s = .next { s with hostOut := out false }) ∧
      ∀ n, id = some n → (s.keyLoaded n = true → exec (.keySet p k key) s = .next { s with hostOut := out false }) ∧
        (s.keyLoaded n = false → ∃ u, exec (.keySet p k key) s = .next u ∧ u.hostOut = out true ∧ u.mem = s.mem ∧ u.keyLoaded n = true ∧
          u.keyBits (u.keyOf n) = key ∧ ∀ j, j ≠ n → u.keyLoaded j = s.keyLoaded j) ∧
        ∃ u, exec (.keyClear p k) s = .next u ∧ u.hostOut = out true ∧ u.mem = s.mem ∧ u.keys = s.keys.filter (fun e => e.1 != n) ∧
          (s.keyLoaded n = true → ∀ o ∈ u.l2, o.key ≠ n)) ∧
    (∀ fn block,
      (s.exhausted = true ∨ block = 0 ∨ 26 < block → exec (.spdmMeasurement fn block) s = .next { s with hostOut := s.hostOut ++ [.spdm fn block none] }) ∧
      (s.exhausted = false → 1 ≤ block → block ≤ 26 →
        let n := s.signatures + 1
        let u := { s with hostOut := s.hostOut ++ [HostObs.spdm fn block (some (Config.measurement block s.antiRollback
          (decide (9 ≤ block ∧ block ≤ 12) && !(s.die (block - 9)).sram)))] }
        exec (.spdmMeasurement fn block) s = .next (if n < 2 ^ 15 then { u with signatures := n }
          else if s.antiRollback < 32767 then { u with signatures := 0, antiRollback := s.antiRollback + 1 }
          else { u with signatures := n, exhausted := true })))) ∧
  (∀ (s : State),
    exec .firmwareUpdate s = .next (if s.antiRollback < 32767 then { s with antiRollback := s.antiRollback + 1, signatures := 0 } else s) ∧
    ∀ p, 1 ≤ p → p ≤ 8 → s.boot = 3 →
      ((s.part p).tdisp = 0 → exec (.tdiConfigLocked p) s = .next (s.modPart p fun x => { x with tdisp := 1 })) ∧
      ((s.part p).tdisp = 1 → exec (.tdiRun p) s = .next (s.modPart p fun x => { x with tdisp := 2 }))) ∧
  (∀ (s : State) (req : FabricRequest), s.boot = 3 →
    let answer (u : State) (ok : Bool) (data : List Byte) : State := { u with hostOut := u.hostOut ++ [.fabric req.src ok data] }
    ((∀ p < 9, req.dst = 0 ∨ (s.part p).tags.head? ≠ some req.dst.toNat) → exec (.ualinkInbound req) s = .next (answer (s.count 0 9) false [])) ∧
    ∀ p, s.tagged req.dst = some p →
      (req.src = 0 ∨ req.src.toNat ∉ (s.part p).tags.drop 1 → exec (.ualinkInbound req) s = .next (answer (s.count 0 9) false [])) ∧
      (req.src ≠ 0 → req.src.toNat ∈ (s.part p).tags.drop 1 →
        (req.body = .other → exec (.ualinkInbound req) s = .next (answer s false [])) ∧
        (∀ n, req.body = .read n → (s.part p).expSize < req.off + n ∨ (s.part p).expSize ≤ req.off →
          exec (.ualinkInbound req) s = .next (answer s false [])) ∧
        (∀ d, req.body = .write d → (s.part p).expSize < req.off + d.length ∨ (s.part p).expSize ≤ req.off →
          exec (.ualinkInbound req) s = .next (answer s false [])) ∧
        let at_ := (s.part p).expBase + req.off
        (∀ n s1, req.body = .read n → req.off < (s.part p).expSize → req.off + n ≤ (s.part p).expSize →
          (∀ l, s.guestPages p at_ n false = (s1, .ok l) →
            let r := l.foldl (fun (z : State × List Byte × Bool) q =>
              let y := z.1.l2Read p q.1 q.2
              (y.1, z.2.1 ++ y.2.1, z.2.2 || y.2.2)) (s1, [], false)
            exec (.ualinkInbound req) s = .next (if r.2.2 then answer r.1 false [] else answer r.1 true r.2.1)) ∧
          (∀ v, s.guestPages p at_ n false = (s1, .fault v) → exec (.ualinkInbound req) s = .next (answer s1 false [])) ∧
          ∀ pa, s.guestPages p at_ n false = (s1, .ok [(pa, n)]) → s1.keyLoaded (paKey pa) = true → WritesBack s1 →
            (∀ i < n, poisonedAt s1.poison (paAddr pa + i) = false) → exec (.ualinkInbound req) s =
              .next (answer (s1.l2Read p pa n).1 true ((List.range n).map fun i => s1.homeByte (paKey pa) (paAddr pa + i)))) ∧
        (∀ d s1, req.body = .write d → req.off < (s.part p).expSize → req.off + d.length ≤ (s.part p).expSize →
          (∀ l, s.guestPages p at_ d.length true = (s1, .ok l) → exec (.ualinkInbound req) s =
            .next (answer (l.foldl (fun (z : State × List Byte) q =>
              (((z.1.freeCode q.1 q.2).writePa p q.1 (z.2.take q.2)).1, z.2.drop q.2)) (s1, d)).1 true []).wakeAll) ∧
          (∀ v, s.guestPages p at_ d.length true = (s1, .fault v) → exec (.ualinkInbound req) s = .next (answer s1 false [])) ∧
          ∀ r, s.guestPages p at_ d.length true = (s1, .wait r) → exec (.ualinkInbound req) s = .next s1))) ∧
  ∀ (s : State) (b id : Nat) (o : CopyOp) (w : PeerWait), b < 160 → s.copy b id = some o → o.peer = some w →
    let o' := { o with peer := none }
    let s' := s.modCore b fun c => { c with copies := c.copies.map fun z => if z.id = id then { z with peer := none } else z }
    let n := o.done.getD w.dest 0 / o.req.items
    let k := o.done.getD w.dest 0 % o.req.items
    (∀ data, w.write = true → exec (.ualinkCompletion b id true data) s = .next (s'.copyItem b o' w.dest w.got (w.pos + 1) true).wakeAll) ∧
    (∀ data, w.write = false → data.length = w.n →
      exec (.ualinkCompletion b id true data) s = .next (s'.copyItem b o' w.dest (w.got ++ data) 0 false).wakeAll) ∧
    (∀ data, w.write = true → exec (.ualinkCompletion b id false data) s =
      .next (s'.endCopy b o' 6 (((o.req.writes n k (o.req.image w.got)).drop w.pos).headD (0, [])).1).wakeAll) ∧
    (∀ ok data, w.write = false → ¬ (ok = true ∧ data.length = w.n) → exec (.ualinkCompletion b id ok data) s =
      .next (s'.endCopy b o' 6 (((o.req.source n k).headD (0, 0)).1 + w.got.length)).wakeAll)

/-! The whole machine (01, 03, 29). -/

/-- The machine after reset: BOOT at FIRMWARE, every partition FREE and without a core, no calendar slot owned, no key loaded; the limit
at 3,000 W; no crew placed, every handle slot FREE, no cached line or translation, every bank a scratchpad bank and every rail at
0.75 V (R22, R186, R243, R291, R356, R392, R440, R442, R450, R451). Three steps of the boot later it is READY, with every core
and every calendar slot in partition 0, which is ACTIVE, the tenants FREE, and key ID 0 alone loaded (R450). That memory reads as zero
is the model's choice (log entry 3), as are the values of registers that the manual gives none (log entries 4 and 5), that a calendar
slot has no owner before the boot's last step, and that the boot will end READY (log entry 2). -/
def Obligations.ResetState : Prop :=
  let s := State.reset
  (s.boot = 0 ∧ (∀ p < 9, (s.part p).st = 0 ∧ (s.part p).cores = 0) ∧
    (∀ cls (h : cls < 7), ∀ e ∈ s.calendar[cls], e = 15) ∧ ∀ k, s.keyLoaded k = false) ∧
  (let u := s.bootStep.bootStep.bootStep;
    u.boot = 3 ∧ u.limit = 3000 ∧ (u.part 0).st = 1 ∧ (∀ b < 160, (u.part 0).cores.getLsbD b = true) ∧
    (∀ p, 1 ≤ p → p ≤ 8 → (u.part p).st = 0 ∧ (u.part p).cores = 0) ∧ u.cores = s.cores ∧ u.mem = s.mem ∧
    (∀ cls (h : cls < 7), u.calendar[cls] = List.replicate 256 0 ∧ u.calendarNext[cls] = none) ∧ ∀ k, u.keyLoaded k = true ↔ k = 0) ∧
  s.bootErr = 0 ∧ s.limit = 3000 ∧ s.asleep = false ∧ s.mailbox.busy = false ∧ s.mailbox.code = 0 ∧
  (∀ p < 9, (s.part p).queue.en = false ∧ (s.part p).queue.head = 0 ∧ (s.part p).queue.tail = 0 ∧ (s.part p).dbgen = false ∧
    (s.part p).tdisp = 0 ∧ (s.part p).h2d = [] ∧ (s.part p).d2h = []) ∧
  (∀ b < 160, (s.core b).teams = [] ∧ (∀ sl < 64, s.crew b sl = none) ∧ (∀ h < 1024, (s.handle b h).st = .free ∧ (s.handle b h).gen = 0) ∧
    (s.core b).cache = [] ∧ (s.core b).tlb = [] ∧ (∀ k < 48, ((s.core b).bank k).mode = .spad) ∧ (s.core b).rail.v = 7500 ∧
    (s.core b).crTarget = 64) ∧
  (∀ a, memGet s.mem a = 0)

/-- A step with a move on the agenda counts time, then takes it. An issue slot given to the crew that its port chooses (R322),
whose bundle meets no breakpoint and can fetch, runs the instruction that the decoder reads from the words at the bundle's PC, on
exactly the bundle's lanes, or the trap of an encoding that is none; the words are those of the code as it was at the launch,
little-endian, as many as the first of them asks for (R53, R67 to R69, R318). A slot that allows a second bundle (R319) runs that
after the first, where there is one. A device step runs as it stands. What the machine does after each, to instances that can
complete and to turns, is `settled` (log entry 9). -/
def Obligations.StepRunsDecoded : Prop :=
  (∀ (s : State) (a : Act) (rest : List Act), s.agenda = a :: rest → s.asleep = false →
    let t : State := { s.tick with agenda := rest }
    (∀ i, a = .event i → step s = settled (exec i t)) ∧
    (∀ b sl c0 l ls, a = .issue b sl → t.crew b sl = some c0 → t.selectCrew b (sl % 4) = some sl → c0.bad = false →
      let pair := (t.hdrOf b sl).pair
      let c := if t.cycle < c0.sortedAt + 4 then c0 else { c0 with order := c0.sorted, sortedAt := t.cycle }
      let pc := (c.thread l).pc
      let t1 := if (t.core b).vector.isNone then t else t.modCore b fun k => { k with vector := none }
      c.bundle pair = l :: ls → t1.issuing b sl (l :: ls) = l :: ls →
      (∀ j ∈ l :: ls, (c.thread j).st = .runnable ∧ (c.thread j).pc = pc) ∧
      let u := t1.setCrew b sl (some (c.aged pair (l :: ls) t.cycle))
      (u.breakpoint b sl (l :: ls) pc = none → u.fetchFails b sl (l :: ls) = none → ∀ ws, u.fetch ⟨b, sl, l⟩ = .inl ws →
        let w := (u.fetched ⟨b, sl, l⟩ pc.toNat ws.length).facing b sl (l :: ls) pc ws
        (∃ vec dst, w.cur = some { core := b, slot := sl, lanes := l :: ls, pc, vec, dst }) ∧
        (∀ i n, decodeWords ws = .ok i n → (t.core b).badHandles = false ∨ readsHandles (opcodeOf (ws.headD 0)).toNat = false →
          step s = settled (exec i w)) ∧
        (∀ opc, decodeWords ws = .illegalOpcode opc → step s = settled (exec (.illegalOpcode opc) w)) ∧
        (∀ sub bit, decodeWords ws = .illegalEncoding sub bit → step s = settled (.next (w.illegalEncoding sub bit))))) ∧
    (∀ b sl, a = .dual b sl → (t.secondBundle b sl = [] → step s = step { s with agenda := .issue b sl :: rest }) ∧
      ∀ l ls s', t.secondBundle b sl = l :: ls → t.selectCrew b (sl % 4) = some sl → runIssued (t.issue b sl (l :: ls)) = .next s' →
        step s = runIssued (s'.issueSecond b sl (l :: ls) (t.thread b sl l).pc))) ∧
  (∀ (s : State) (x : Lane) (ws : List Word), s.fetch x = .inl ws → ws.length = headBytes (ws.headD 0) / 4 - 1 + 1 ∧
    ∀ j (h : j < ws.length), ∃ pa, s.translate x (((s.laneThread x).pc.toNat + 4 * j) % 2 ^ 64) (((s.laneThread x).pc.toNat + 4 * j) % 2 ^ 64)
        { align := 4, write := false, fetch := true } = .mem (.glob pa) ∧
      ∀ k < 4, (ws[j]).extractLsb' (8 * k) 8 = s.codeByte x (pa + k)) ∧
  ∀ (s : State) (x : Lane) (pa : Nat) (t : Team) (ln : Launch), s.teamOf x.core x.slot = some t → s.launch t.part t.launch = some ln →
    s.keyLoaded (paKey pa) = true →
    lookupNat ln.codeOld (paAddr pa) (lookupNat ln.codeKeys (paAddr pa / 128) 0) = s.keyOf (paKey pa) →
    s.codeByte x pa = memGet ln.code (paAddr pa)

/-- Words of the manual's own worked examples, and two written out field by field from R54 and R56, decode to the instructions
they stand for; two that it says trap are refused with the TINFO that it gives (R54, R56, R68). -/
def Obligations.DecodingRight : Prop :=
  -- IADD w3, w1, w2: Q 00, WB 0, WA 0, B 2, A 1, D 3, OPC 0x00, LEN 00
  decodeWords [0b00_0_0_000010_000001_000011_00000000_00#32] = .ok (.iadd { d := 3, a := 1, b := 2 }) 4 ∧
  -- LD.f32 w4, [d3 + 16], WA 1: OPC 0x80, LEN 10; MOD, CP 00, FT 0x05, RM 000, WC, C, GN, GP zero; the displacement
  decodeWords [0b00_0_1_000000_000110_000100_10000000_10#32, 0b0000000_00_00101_000_0_000000_0_0000000#32, 16#32] =
    .ok (.ld { form := .ext, wa := true, d := 4, a := 6, ft := 5, w2 := 16 }) 12 ∧
  -- CPYK w10, d4 (15); TLBI.va d6 and TLBI.gall w3 (17); CLK d8 and DEPC w3, #5 (18); RETT (04)
  decodeWords [0x00082AC2#32, 0#32, 0#32] = .ok (.cpyk { form := .ext, d := 10, a := 8 }) 12 ∧
  decodeWords [0x000C038C#32] = .ok (.tlbiVa { a := 12 }) 4 ∧
  decodeWords [0x00C00F8C#32] = .ok (.tlbiGall { d := 3, b := 3 }) 4 ∧
  decodeWords [0x00004318#32] = .ok (.clk { d := 16 }) 4 ∧
  decodeWords [0x00000F15#32, 5#32, 0#32] = .ok (.depc { form := .lit, d := 3, literal := 5 }) 12 ∧
  decodeWords [0x00000388#32] = .ok (.rett {}) 4 ∧
  -- the manual's traps: FDIV of class 01, DHALT of LEN 01
  decodeWords [0x400000E8#32] = .illegalEncoding 0x07 0x1E ∧ decodeWords [0x00000391#32] = .illegalEncoding 0x01 0x00

/-- Decoding the bytes of a well-formed instruction gives it back, with the length of its words; and an instruction that words
decode to is well-formed, and its words are those it was read from: no bit of an encoding is dropped (R53 to R68). -/
def Obligations.DecodeEncode : Prop :=
  (∀ i : Instr, i.wf = true → encode i ≠ [] → decodeBytes (encodeBytes i) = .ok i (4 * (encode i).length)) ∧
  ∀ (ws : List Word) (i : Instr) (n : Nat), decodeWords ws = .ok i n → i.wf = true ∧ n = 4 * (encode i).length ∧ encode i <+: ws

/-- Every memory keeps its canonical form, addresses rising and no entry zero, through every step: global memory, the host's
memory, every scratchpad bank, and the banks of evacuated cores (the form is the model's: log entry 3; R174, R184). -/
def Obligations.MemoryForm : Prop :=
  ∀ s u : State, MemoryWf s → step s = .next u → MemoryWf u

/-- Every memory has its canonical form after reset. The form, and what an unlisted address reads as, are the model's choice (log entry 3). -/
def Obligations.MemoryFormAtReset : Prop :=
  MemoryWf State.reset

/-- No instruction and no step stops the machine: the manual gives every condition an outcome, so each has a next state. -/
def Obligations.NoStop : Prop :=
  (∀ (i : Instr) (s : State), ∃ u, exec i s = .next u) ∧ ∀ s : State, ∃ u, step s = .next u
end

