-- ==== Sys2Proof/Laws/Bits.lean ====
section
/-! SUPPORT. Elements, packing and two's complement. -/

namespace Sys2Proof

theorem elem_lt (w x k : Nat) : elem w x k < 2 ^ w := Nat.mod_lt _ (Nat.two_pow_pos w)

theorem wrap_lt (w : Nat) (x : Int) : wrap w x < 2 ^ w := by
  have h : (0 : Int) < 2 ^ w := Int.pow_pos (by decide)
  have h1 := Int.emod_nonneg x (Int.ne_of_gt h)
  have h2 := Int.emod_lt_of_pos x h
  have : ((2 ^ w : Nat) : Int) = 2 ^ w := by norm_cast
  unfold wrap
  omega

theorem packElems_lt (w : Nat) (l : List Nat) : packElems w l < 2 ^ (w * l.length) := by
  induction l with
  | nil => simp [packElems]
  | cons x xs ih =>
    have h1 : x % 2 ^ w < 2 ^ w := Nat.mod_lt _ (Nat.two_pow_pos w)
    have h2 : 2 ^ (w * (xs.length + 1)) = 2 ^ w * 2 ^ (w * xs.length) := by rw [Nat.mul_add, Nat.mul_one, Nat.pow_add, Nat.mul_comm]
    have h3 : 2 ^ w * (packElems w xs + 1) ≤ 2 ^ w * 2 ^ (w * xs.length) := Nat.mul_le_mul_left _ ih
    simp only [packElems, List.length_cons, h2]
    rw [Nat.mul_add] at h3
    omega

/-- Element k of packed elements. -/
theorem elem_packElems (w : Nat) (l : List Nat) (k : Nat) (h : k < l.length) : elem w (packElems w l) k = l[k] % 2 ^ w := by
  induction l generalizing k with
  | nil => simp at h
  | cons x xs ih =>
    have hx : x % 2 ^ w < 2 ^ w := Nat.mod_lt _ (Nat.two_pow_pos w)
    cases k with
    | zero => simp [elem, packElems, Nat.add_mul_mod_self_left]
    | succ k =>
      have hk : k < xs.length := by simpa using h
      have := ih k hk
      simp only [elem, packElems, List.getElem_cons_succ] at this ⊢
      rw [← this, Nat.shiftRight_eq_div_pow, Nat.shiftRight_eq_div_pow, Nat.mul_add, Nat.mul_one, Nat.add_comm (w * k) w,
        Nat.pow_add, ← Nat.div_div_eq_div_mul, Nat.add_mul_div_left _ _ (Nat.two_pow_pos w), Nat.div_eq_of_lt hx, Nat.zero_add]

/-- Packed results, element by element. -/
theorem elem_packElems_range (w n : Nat) (g : Nat → Nat) (k : Nat) (h : k < n) (hg : g k < 2 ^ w) :
    elem w (packElems w ((List.range n).map g)) k = g k := by
  rw [elem_packElems _ _ _ (by simpa using h)]
  simp [Nat.mod_eq_of_lt hg]

theorem packElems_range_lt (w n : Nat) (g : Nat → Nat) : packElems w ((List.range n).map g) < 2 ^ (w * n) := by
  simpa using packElems_lt w ((List.range n).map g)

theorem two_pow_cast (w : Nat) : ((2 ^ w : Nat) : Int) = 2 ^ w := by norm_cast

/-- An integer within a format reads back from its bits. -/
theorem intOf_wrap (s : Bool) (w : Nat) (hw : 0 < w) (x : Int) (h1 : intLow s w ≤ x) (h2 : x ≤ intHigh s w) :
    intOf s w (wrap w x) = x := by
  obtain ⟨k, rfl⟩ : ∃ k, w = k + 1 := ⟨w - 1, by omega⟩
  have hp : (2 : Int) ^ (k + 1) = 2 * 2 ^ k := by rw [Int.pow_succ, Int.mul_comm]
  have hpn : (2 : Nat) ^ (k + 1) = 2 * 2 ^ k := by rw [Nat.pow_succ, Nat.mul_comm]
  have hc := two_pow_cast k
  have hlt := wrap_lt (k + 1) x
  have hpos : (0 : Int) < 2 ^ k := Int.pow_pos (by decide)
  have hnn := Int.emod_nonneg x (b := 2 ^ (k + 1)) (by omega)
  have hw' : (wrap (k + 1) x : Int) = x % 2 ^ (k + 1) := by unfold wrap; omega
  cases s
  · simp only [intLow, intHigh, Bool.false_eq_true, ↓reduceIte] at h1 h2
    simp only [intOf, Bool.false_eq_true, ↓reduceIte, Nat.mod_eq_of_lt hlt, hw']
    exact Int.emod_eq_of_lt h1 (by omega)
  · simp only [intLow, intHigh, ↓reduceIte, Nat.add_sub_cancel] at h1 h2
    simp only [intOf, ↓reduceIte, signed, Nat.mod_eq_of_lt hlt, Nat.add_sub_cancel, hw']
    by_cases hx : 0 ≤ x
    · have he : x % 2 ^ (k + 1) = x := Int.emod_eq_of_lt hx (by omega)
      rw [if_neg (by omega), he]
    · have he : x % 2 ^ (k + 1) = x + 2 ^ (k + 1) := by
        rw [← Int.add_emod_right]
        exact Int.emod_eq_of_lt (by omega) (by omega)
      rw [if_pos (by omega), he]; omega

theorem intOf_bounds (s : Bool) (w : Nat) (hw : 0 < w) (x : Nat) : intLow s w ≤ intOf s w x ∧ intOf s w x ≤ intHigh s w := by
  obtain ⟨k, rfl⟩ : ∃ k, w = k + 1 := ⟨w - 1, by omega⟩
  have hp : (2 : Int) ^ (k + 1) = 2 * 2 ^ k := by rw [Int.pow_succ, Int.mul_comm]
  have hpn : (2 : Nat) ^ (k + 1) = 2 * 2 ^ k := by rw [Nat.pow_succ, Nat.mul_comm]
  have hc := two_pow_cast k
  have hm : x % 2 ^ (k + 1) < 2 ^ (k + 1) := Nat.mod_lt _ (Nat.two_pow_pos _)
  cases s
  · simp only [intOf, intLow, intHigh, Bool.false_eq_true, ↓reduceIte]; omega
  · simp only [intOf, intLow, intHigh, ↓reduceIte, signed, Nat.add_sub_cancel]
    split <;> omega

end Sys2Proof
end

