-- ==== Sys2Proof/Laws/State.lean ====
section
/-! SUPPORT. What each update of the state leaves alone, field by field, and what reading back gives. -/

namespace Sys2Proof.Machine

/-! Updates of the cores leave every other field of the state. -/

@[simp] theorem State.setCore_cycle (s : State) (b : Nat) (c : Core) : (s.setCore b c).cycle = s.cycle := by
  unfold State.setCore; split <;> rfl
@[simp] theorem State.setCore_fresh (s : State) (b : Nat) (c : Core) : (s.setCore b c).fresh = s.fresh := by
  unfold State.setCore; split <;> rfl
@[simp] theorem State.setCore_agenda (s : State) (b : Nat) (c : Core) : (s.setCore b c).agenda = s.agenda := by
  unfold State.setCore; split <;> rfl
@[simp] theorem State.setCore_cur (s : State) (b : Nat) (c : Core) : (s.setCore b c).cur = s.cur := by
  unfold State.setCore; split <;> rfl
@[simp] theorem State.setCore_hostOut (s : State) (b : Nat) (c : Core) : (s.setCore b c).hostOut = s.hostOut := by
  unfold State.setCore; split <;> rfl
@[simp] theorem State.setCore_mem (s : State) (b : Nat) (c : Core) : (s.setCore b c).mem = s.mem := by
  unfold State.setCore; split <;> rfl
@[simp] theorem State.setCore_hostMem (s : State) (b : Nat) (c : Core) : (s.setCore b c).hostMem = s.hostMem := by
  unfold State.setCore; split <;> rfl
@[simp] theorem State.setCore_hostBad (s : State) (b : Nat) (c : Core) : (s.setCore b c).hostBad = s.hostBad := by
  unfold State.setCore; split <;> rfl
@[simp] theorem State.setCore_unitKeys (s : State) (b : Nat) (c : Core) : (s.setCore b c).unitKeys = s.unitKeys := by
  unfold State.setCore; split <;> rfl
@[simp] theorem State.setCore_codeCells (s : State) (b : Nat) (c : Core) : (s.setCore b c).codeCells = s.codeCells := by
  unfold State.setCore; split <;> rfl
@[simp] theorem State.setCore_l2 (s : State) (b : Nat) (c : Core) : (s.setCore b c).l2 = s.l2 := by
  unfold State.setCore; split <;> rfl
@[simp] theorem State.setCore_revokes (s : State) (b : Nat) (c : Core) : (s.setCore b c).revokes = s.revokes := by
  unfold State.setCore; split <;> rfl
@[simp] theorem State.setCore_poison (s : State) (b : Nat) (c : Core) : (s.setCore b c).poison = s.poison := by
  unfold State.setCore; split <;> rfl
@[simp] theorem State.setCore_dies (s : State) (b : Nat) (c : Core) : (s.setCore b c).dies = s.dies := by
  unfold State.setCore; split <;> rfl
@[simp] theorem State.setCore_parts (s : State) (b : Nat) (c : Core) : (s.setCore b c).parts = s.parts := by
  unfold State.setCore; split <;> rfl
@[simp] theorem State.setCore_arrays (s : State) (b : Nat) (c : Core) : (s.setCore b c).arrays = s.arrays := by
  unfold State.setCore; split <;> rfl
@[simp] theorem State.setCore_walks (s : State) (b : Nat) (c : Core) : (s.setCore b c).walks = s.walks := by
  unfold State.setCore; split <;> rfl
@[simp] theorem State.setCore_walkCache (s : State) (b : Nat) (c : Core) : (s.setCore b c).walkCache = s.walkCache := by
  unfold State.setCore; split <;> rfl
@[simp] theorem State.setCore_faults (s : State) (b : Nat) (c : Core) : (s.setCore b c).faults = s.faults := by
  unfold State.setCore; split <;> rfl
@[simp] theorem State.setCore_calendar (s : State) (b : Nat) (c : Core) : (s.setCore b c).calendar = s.calendar := by
  unfold State.setCore; split <;> rfl
@[simp] theorem State.setCore_calendarNext (s : State) (b : Nat) (c : Core) : (s.setCore b c).calendarNext = s.calendarNext := by
  unfold State.setCore; split <;> rfl
@[simp] theorem State.setCore_keys (s : State) (b : Nat) (c : Core) : (s.setCore b c).keys = s.keys := by
  unfold State.setCore; split <;> rfl
@[simp] theorem State.setCore_keyLog (s : State) (b : Nat) (c : Core) : (s.setCore b c).keyLog = s.keyLog := by
  unfold State.setCore; split <;> rfl
@[simp] theorem State.setCore_limit (s : State) (b : Nat) (c : Core) : (s.setCore b c).limit = s.limit := by
  unfold State.setCore; split <;> rfl
@[simp] theorem State.setCore_limitNext (s : State) (b : Nat) (c : Core) : (s.setCore b c).limitNext = s.limitNext := by
  unfold State.setCore; split <;> rfl
@[simp] theorem State.setCore_mailbox (s : State) (b : Nat) (c : Core) : (s.setCore b c).mailbox = s.mailbox := by
  unfold State.setCore; split <;> rfl
@[simp] theorem State.setCore_antiRollback (s : State) (b : Nat) (c : Core) : (s.setCore b c).antiRollback = s.antiRollback := by
  unfold State.setCore; split <;> rfl
@[simp] theorem State.setCore_signatures (s : State) (b : Nat) (c : Core) : (s.setCore b c).signatures = s.signatures := by
  unfold State.setCore; split <;> rfl
@[simp] theorem State.setCore_exhausted (s : State) (b : Nat) (c : Core) : (s.setCore b c).exhausted = s.exhausted := by
  unfold State.setCore; split <;> rfl
@[simp] theorem State.setCore_boots (s : State) (b : Nat) (c : Core) : (s.setCore b c).boots = s.boots := by
  unfold State.setCore; split <;> rfl
@[simp] theorem State.setCore_boot (s : State) (b : Nat) (c : Core) : (s.setCore b c).boot = s.boot := by
  unfold State.setCore; split <;> rfl
@[simp] theorem State.setCore_booting (s : State) (b : Nat) (c : Core) : (s.setCore b c).booting = s.booting := by
  unfold State.setCore; split <;> rfl
@[simp] theorem State.setCore_bootErr (s : State) (b : Nat) (c : Core) : (s.setCore b c).bootErr = s.bootErr := by
  unfold State.setCore; split <;> rfl
@[simp] theorem State.setCore_asleep (s : State) (b : Nat) (c : Core) : (s.setCore b c).asleep = s.asleep := by
  unfold State.setCore; split <;> rfl
@[simp] theorem State.setCore_flr (s : State) (b : Nat) (c : Core) : (s.setCore b c).flr = s.flr := by
  unfold State.setCore; split <;> rfl
@[simp] theorem State.setCore_nextId (s : State) (b : Nat) (c : Core) : (s.setCore b c).nextId = s.nextId := by
  unfold State.setCore; split <;> rfl

@[simp] theorem State.modCore_cycle (s : State) (b : Nat) (f : Core → Core) : (s.modCore b f).cycle = s.cycle := State.setCore_cycle s b _
@[simp] theorem State.modCore_fresh (s : State) (b : Nat) (f : Core → Core) : (s.modCore b f).fresh = s.fresh := State.setCore_fresh s b _
@[simp] theorem State.modCore_agenda (s : State) (b : Nat) (f : Core → Core) : (s.modCore b f).agenda = s.agenda := State.setCore_agenda s b _
@[simp] theorem State.modCore_cur (s : State) (b : Nat) (f : Core → Core) : (s.modCore b f).cur = s.cur := State.setCore_cur s b _
@[simp] theorem State.modCore_hostOut (s : State) (b : Nat) (f : Core → Core) : (s.modCore b f).hostOut = s.hostOut := State.setCore_hostOut s b _
@[simp] theorem State.modCore_mem (s : State) (b : Nat) (f : Core → Core) : (s.modCore b f).mem = s.mem := State.setCore_mem s b _
@[simp] theorem State.modCore_hostMem (s : State) (b : Nat) (f : Core → Core) : (s.modCore b f).hostMem = s.hostMem := State.setCore_hostMem s b _
@[simp] theorem State.modCore_hostBad (s : State) (b : Nat) (f : Core → Core) : (s.modCore b f).hostBad = s.hostBad := State.setCore_hostBad s b _
@[simp] theorem State.modCore_unitKeys (s : State) (b : Nat) (f : Core → Core) : (s.modCore b f).unitKeys = s.unitKeys := State.setCore_unitKeys s b _
@[simp] theorem State.modCore_codeCells (s : State) (b : Nat) (f : Core → Core) : (s.modCore b f).codeCells = s.codeCells := State.setCore_codeCells s b _
@[simp] theorem State.modCore_l2 (s : State) (b : Nat) (f : Core → Core) : (s.modCore b f).l2 = s.l2 := State.setCore_l2 s b _
@[simp] theorem State.modCore_revokes (s : State) (b : Nat) (f : Core → Core) : (s.modCore b f).revokes = s.revokes := State.setCore_revokes s b _
@[simp] theorem State.modCore_poison (s : State) (b : Nat) (f : Core → Core) : (s.modCore b f).poison = s.poison := State.setCore_poison s b _
@[simp] theorem State.modCore_dies (s : State) (b : Nat) (f : Core → Core) : (s.modCore b f).dies = s.dies := State.setCore_dies s b _
@[simp] theorem State.modCore_parts (s : State) (b : Nat) (f : Core → Core) : (s.modCore b f).parts = s.parts := State.setCore_parts s b _
@[simp] theorem State.modCore_arrays (s : State) (b : Nat) (f : Core → Core) : (s.modCore b f).arrays = s.arrays := State.setCore_arrays s b _
@[simp] theorem State.modCore_walks (s : State) (b : Nat) (f : Core → Core) : (s.modCore b f).walks = s.walks := State.setCore_walks s b _
@[simp] theorem State.modCore_walkCache (s : State) (b : Nat) (f : Core → Core) : (s.modCore b f).walkCache = s.walkCache := State.setCore_walkCache s b _
@[simp] theorem State.modCore_faults (s : State) (b : Nat) (f : Core → Core) : (s.modCore b f).faults = s.faults := State.setCore_faults s b _
@[simp] theorem State.modCore_calendar (s : State) (b : Nat) (f : Core → Core) : (s.modCore b f).calendar = s.calendar := State.setCore_calendar s b _
@[simp] theorem State.modCore_calendarNext (s : State) (b : Nat) (f : Core → Core) : (s.modCore b f).calendarNext = s.calendarNext := State.setCore_calendarNext s b _
@[simp] theorem State.modCore_keys (s : State) (b : Nat) (f : Core → Core) : (s.modCore b f).keys = s.keys := State.setCore_keys s b _
@[simp] theorem State.modCore_keyLog (s : State) (b : Nat) (f : Core → Core) : (s.modCore b f).keyLog = s.keyLog := State.setCore_keyLog s b _
@[simp] theorem State.modCore_limit (s : State) (b : Nat) (f : Core → Core) : (s.modCore b f).limit = s.limit := State.setCore_limit s b _
@[simp] theorem State.modCore_limitNext (s : State) (b : Nat) (f : Core → Core) : (s.modCore b f).limitNext = s.limitNext := State.setCore_limitNext s b _
@[simp] theorem State.modCore_mailbox (s : State) (b : Nat) (f : Core → Core) : (s.modCore b f).mailbox = s.mailbox := State.setCore_mailbox s b _
@[simp] theorem State.modCore_antiRollback (s : State) (b : Nat) (f : Core → Core) : (s.modCore b f).antiRollback = s.antiRollback := State.setCore_antiRollback s b _
@[simp] theorem State.modCore_signatures (s : State) (b : Nat) (f : Core → Core) : (s.modCore b f).signatures = s.signatures := State.setCore_signatures s b _
@[simp] theorem State.modCore_exhausted (s : State) (b : Nat) (f : Core → Core) : (s.modCore b f).exhausted = s.exhausted := State.setCore_exhausted s b _
@[simp] theorem State.modCore_boots (s : State) (b : Nat) (f : Core → Core) : (s.modCore b f).boots = s.boots := State.setCore_boots s b _
@[simp] theorem State.modCore_boot (s : State) (b : Nat) (f : Core → Core) : (s.modCore b f).boot = s.boot := State.setCore_boot s b _
@[simp] theorem State.modCore_booting (s : State) (b : Nat) (f : Core → Core) : (s.modCore b f).booting = s.booting := State.setCore_booting s b _
@[simp] theorem State.modCore_bootErr (s : State) (b : Nat) (f : Core → Core) : (s.modCore b f).bootErr = s.bootErr := State.setCore_bootErr s b _
@[simp] theorem State.modCore_asleep (s : State) (b : Nat) (f : Core → Core) : (s.modCore b f).asleep = s.asleep := State.setCore_asleep s b _
@[simp] theorem State.modCore_flr (s : State) (b : Nat) (f : Core → Core) : (s.modCore b f).flr = s.flr := State.setCore_flr s b _
@[simp] theorem State.modCore_nextId (s : State) (b : Nat) (f : Core → Core) : (s.modCore b f).nextId = s.nextId := State.setCore_nextId s b _

@[simp] theorem State.setCrew_cycle (s : State) (b sl : Nat) (c : Option Crew) : (s.setCrew b sl c).cycle = s.cycle := State.modCore_cycle s b _
@[simp] theorem State.setCrew_fresh (s : State) (b sl : Nat) (c : Option Crew) : (s.setCrew b sl c).fresh = s.fresh := State.modCore_fresh s b _
@[simp] theorem State.setCrew_agenda (s : State) (b sl : Nat) (c : Option Crew) : (s.setCrew b sl c).agenda = s.agenda := State.modCore_agenda s b _
@[simp] theorem State.setCrew_cur (s : State) (b sl : Nat) (c : Option Crew) : (s.setCrew b sl c).cur = s.cur := State.modCore_cur s b _
@[simp] theorem State.setCrew_hostOut (s : State) (b sl : Nat) (c : Option Crew) : (s.setCrew b sl c).hostOut = s.hostOut := State.modCore_hostOut s b _
@[simp] theorem State.setCrew_mem (s : State) (b sl : Nat) (c : Option Crew) : (s.setCrew b sl c).mem = s.mem := State.modCore_mem s b _
@[simp] theorem State.setCrew_hostMem (s : State) (b sl : Nat) (c : Option Crew) : (s.setCrew b sl c).hostMem = s.hostMem := State.modCore_hostMem s b _
@[simp] theorem State.setCrew_hostBad (s : State) (b sl : Nat) (c : Option Crew) : (s.setCrew b sl c).hostBad = s.hostBad := State.modCore_hostBad s b _
@[simp] theorem State.setCrew_unitKeys (s : State) (b sl : Nat) (c : Option Crew) : (s.setCrew b sl c).unitKeys = s.unitKeys := State.modCore_unitKeys s b _
@[simp] theorem State.setCrew_codeCells (s : State) (b sl : Nat) (c : Option Crew) : (s.setCrew b sl c).codeCells = s.codeCells := State.modCore_codeCells s b _
@[simp] theorem State.setCrew_l2 (s : State) (b sl : Nat) (c : Option Crew) : (s.setCrew b sl c).l2 = s.l2 := State.modCore_l2 s b _
@[simp] theorem State.setCrew_revokes (s : State) (b sl : Nat) (c : Option Crew) : (s.setCrew b sl c).revokes = s.revokes := State.modCore_revokes s b _
@[simp] theorem State.setCrew_poison (s : State) (b sl : Nat) (c : Option Crew) : (s.setCrew b sl c).poison = s.poison := State.modCore_poison s b _
@[simp] theorem State.setCrew_dies (s : State) (b sl : Nat) (c : Option Crew) : (s.setCrew b sl c).dies = s.dies := State.modCore_dies s b _
@[simp] theorem State.setCrew_parts (s : State) (b sl : Nat) (c : Option Crew) : (s.setCrew b sl c).parts = s.parts := State.modCore_parts s b _
@[simp] theorem State.setCrew_arrays (s : State) (b sl : Nat) (c : Option Crew) : (s.setCrew b sl c).arrays = s.arrays := State.modCore_arrays s b _
@[simp] theorem State.setCrew_walks (s : State) (b sl : Nat) (c : Option Crew) : (s.setCrew b sl c).walks = s.walks := State.modCore_walks s b _
@[simp] theorem State.setCrew_walkCache (s : State) (b sl : Nat) (c : Option Crew) : (s.setCrew b sl c).walkCache = s.walkCache := State.modCore_walkCache s b _
@[simp] theorem State.setCrew_faults (s : State) (b sl : Nat) (c : Option Crew) : (s.setCrew b sl c).faults = s.faults := State.modCore_faults s b _
@[simp] theorem State.setCrew_calendar (s : State) (b sl : Nat) (c : Option Crew) : (s.setCrew b sl c).calendar = s.calendar := State.modCore_calendar s b _
@[simp] theorem State.setCrew_calendarNext (s : State) (b sl : Nat) (c : Option Crew) : (s.setCrew b sl c).calendarNext = s.calendarNext := State.modCore_calendarNext s b _
@[simp] theorem State.setCrew_keys (s : State) (b sl : Nat) (c : Option Crew) : (s.setCrew b sl c).keys = s.keys := State.modCore_keys s b _
@[simp] theorem State.setCrew_keyLog (s : State) (b sl : Nat) (c : Option Crew) : (s.setCrew b sl c).keyLog = s.keyLog := State.modCore_keyLog s b _
@[simp] theorem State.setCrew_limit (s : State) (b sl : Nat) (c : Option Crew) : (s.setCrew b sl c).limit = s.limit := State.modCore_limit s b _
@[simp] theorem State.setCrew_limitNext (s : State) (b sl : Nat) (c : Option Crew) : (s.setCrew b sl c).limitNext = s.limitNext := State.modCore_limitNext s b _
@[simp] theorem State.setCrew_mailbox (s : State) (b sl : Nat) (c : Option Crew) : (s.setCrew b sl c).mailbox = s.mailbox := State.modCore_mailbox s b _
@[simp] theorem State.setCrew_antiRollback (s : State) (b sl : Nat) (c : Option Crew) : (s.setCrew b sl c).antiRollback = s.antiRollback := State.modCore_antiRollback s b _
@[simp] theorem State.setCrew_signatures (s : State) (b sl : Nat) (c : Option Crew) : (s.setCrew b sl c).signatures = s.signatures := State.modCore_signatures s b _
@[simp] theorem State.setCrew_exhausted (s : State) (b sl : Nat) (c : Option Crew) : (s.setCrew b sl c).exhausted = s.exhausted := State.modCore_exhausted s b _
@[simp] theorem State.setCrew_boots (s : State) (b sl : Nat) (c : Option Crew) : (s.setCrew b sl c).boots = s.boots := State.modCore_boots s b _
@[simp] theorem State.setCrew_boot (s : State) (b sl : Nat) (c : Option Crew) : (s.setCrew b sl c).boot = s.boot := State.modCore_boot s b _
@[simp] theorem State.setCrew_booting (s : State) (b sl : Nat) (c : Option Crew) : (s.setCrew b sl c).booting = s.booting := State.modCore_booting s b _
@[simp] theorem State.setCrew_bootErr (s : State) (b sl : Nat) (c : Option Crew) : (s.setCrew b sl c).bootErr = s.bootErr := State.modCore_bootErr s b _
@[simp] theorem State.setCrew_asleep (s : State) (b sl : Nat) (c : Option Crew) : (s.setCrew b sl c).asleep = s.asleep := State.modCore_asleep s b _
@[simp] theorem State.setCrew_flr (s : State) (b sl : Nat) (c : Option Crew) : (s.setCrew b sl c).flr = s.flr := State.modCore_flr s b _
@[simp] theorem State.setCrew_nextId (s : State) (b sl : Nat) (c : Option Crew) : (s.setCrew b sl c).nextId = s.nextId := State.modCore_nextId s b _

@[simp] theorem State.modCrew_cycle (s : State) (b sl : Nat) (f : Crew → Crew) : (s.modCrew b sl f).cycle = s.cycle := by
  unfold State.modCrew; split <;> simp
@[simp] theorem State.modCrew_fresh (s : State) (b sl : Nat) (f : Crew → Crew) : (s.modCrew b sl f).fresh = s.fresh := by
  unfold State.modCrew; split <;> simp
@[simp] theorem State.modCrew_agenda (s : State) (b sl : Nat) (f : Crew → Crew) : (s.modCrew b sl f).agenda = s.agenda := by
  unfold State.modCrew; split <;> simp
@[simp] theorem State.modCrew_cur (s : State) (b sl : Nat) (f : Crew → Crew) : (s.modCrew b sl f).cur = s.cur := by
  unfold State.modCrew; split <;> simp
@[simp] theorem State.modCrew_hostOut (s : State) (b sl : Nat) (f : Crew → Crew) : (s.modCrew b sl f).hostOut = s.hostOut := by
  unfold State.modCrew; split <;> simp
@[simp] theorem State.modCrew_mem (s : State) (b sl : Nat) (f : Crew → Crew) : (s.modCrew b sl f).mem = s.mem := by
  unfold State.modCrew; split <;> simp
@[simp] theorem State.modCrew_hostMem (s : State) (b sl : Nat) (f : Crew → Crew) : (s.modCrew b sl f).hostMem = s.hostMem := by
  unfold State.modCrew; split <;> simp
@[simp] theorem State.modCrew_hostBad (s : State) (b sl : Nat) (f : Crew → Crew) : (s.modCrew b sl f).hostBad = s.hostBad := by
  unfold State.modCrew; split <;> simp
@[simp] theorem State.modCrew_unitKeys (s : State) (b sl : Nat) (f : Crew → Crew) : (s.modCrew b sl f).unitKeys = s.unitKeys := by
  unfold State.modCrew; split <;> simp
@[simp] theorem State.modCrew_codeCells (s : State) (b sl : Nat) (f : Crew → Crew) : (s.modCrew b sl f).codeCells = s.codeCells := by
  unfold State.modCrew; split <;> simp
@[simp] theorem State.modCrew_l2 (s : State) (b sl : Nat) (f : Crew → Crew) : (s.modCrew b sl f).l2 = s.l2 := by
  unfold State.modCrew; split <;> simp
@[simp] theorem State.modCrew_revokes (s : State) (b sl : Nat) (f : Crew → Crew) : (s.modCrew b sl f).revokes = s.revokes := by
  unfold State.modCrew; split <;> simp
@[simp] theorem State.modCrew_poison (s : State) (b sl : Nat) (f : Crew → Crew) : (s.modCrew b sl f).poison = s.poison := by
  unfold State.modCrew; split <;> simp
@[simp] theorem State.modCrew_dies (s : State) (b sl : Nat) (f : Crew → Crew) : (s.modCrew b sl f).dies = s.dies := by
  unfold State.modCrew; split <;> simp
@[simp] theorem State.modCrew_parts (s : State) (b sl : Nat) (f : Crew → Crew) : (s.modCrew b sl f).parts = s.parts := by
  unfold State.modCrew; split <;> simp
@[simp] theorem State.modCrew_arrays (s : State) (b sl : Nat) (f : Crew → Crew) : (s.modCrew b sl f).arrays = s.arrays := by
  unfold State.modCrew; split <;> simp
@[simp] theorem State.modCrew_walks (s : State) (b sl : Nat) (f : Crew → Crew) : (s.modCrew b sl f).walks = s.walks := by
  unfold State.modCrew; split <;> simp
@[simp] theorem State.modCrew_walkCache (s : State) (b sl : Nat) (f : Crew → Crew) : (s.modCrew b sl f).walkCache = s.walkCache := by
  unfold State.modCrew; split <;> simp
@[simp] theorem State.modCrew_faults (s : State) (b sl : Nat) (f : Crew → Crew) : (s.modCrew b sl f).faults = s.faults := by
  unfold State.modCrew; split <;> simp
@[simp] theorem State.modCrew_calendar (s : State) (b sl : Nat) (f : Crew → Crew) : (s.modCrew b sl f).calendar = s.calendar := by
  unfold State.modCrew; split <;> simp
@[simp] theorem State.modCrew_calendarNext (s : State) (b sl : Nat) (f : Crew → Crew) : (s.modCrew b sl f).calendarNext = s.calendarNext := by
  unfold State.modCrew; split <;> simp
@[simp] theorem State.modCrew_keys (s : State) (b sl : Nat) (f : Crew → Crew) : (s.modCrew b sl f).keys = s.keys := by
  unfold State.modCrew; split <;> simp
@[simp] theorem State.modCrew_keyLog (s : State) (b sl : Nat) (f : Crew → Crew) : (s.modCrew b sl f).keyLog = s.keyLog := by
  unfold State.modCrew; split <;> simp
@[simp] theorem State.modCrew_limit (s : State) (b sl : Nat) (f : Crew → Crew) : (s.modCrew b sl f).limit = s.limit := by
  unfold State.modCrew; split <;> simp
@[simp] theorem State.modCrew_limitNext (s : State) (b sl : Nat) (f : Crew → Crew) : (s.modCrew b sl f).limitNext = s.limitNext := by
  unfold State.modCrew; split <;> simp
@[simp] theorem State.modCrew_mailbox (s : State) (b sl : Nat) (f : Crew → Crew) : (s.modCrew b sl f).mailbox = s.mailbox := by
  unfold State.modCrew; split <;> simp
@[simp] theorem State.modCrew_antiRollback (s : State) (b sl : Nat) (f : Crew → Crew) : (s.modCrew b sl f).antiRollback = s.antiRollback := by
  unfold State.modCrew; split <;> simp
@[simp] theorem State.modCrew_signatures (s : State) (b sl : Nat) (f : Crew → Crew) : (s.modCrew b sl f).signatures = s.signatures := by
  unfold State.modCrew; split <;> simp
@[simp] theorem State.modCrew_exhausted (s : State) (b sl : Nat) (f : Crew → Crew) : (s.modCrew b sl f).exhausted = s.exhausted := by
  unfold State.modCrew; split <;> simp
@[simp] theorem State.modCrew_boots (s : State) (b sl : Nat) (f : Crew → Crew) : (s.modCrew b sl f).boots = s.boots := by
  unfold State.modCrew; split <;> simp
@[simp] theorem State.modCrew_boot (s : State) (b sl : Nat) (f : Crew → Crew) : (s.modCrew b sl f).boot = s.boot := by
  unfold State.modCrew; split <;> simp
@[simp] theorem State.modCrew_booting (s : State) (b sl : Nat) (f : Crew → Crew) : (s.modCrew b sl f).booting = s.booting := by
  unfold State.modCrew; split <;> simp
@[simp] theorem State.modCrew_bootErr (s : State) (b sl : Nat) (f : Crew → Crew) : (s.modCrew b sl f).bootErr = s.bootErr := by
  unfold State.modCrew; split <;> simp
@[simp] theorem State.modCrew_asleep (s : State) (b sl : Nat) (f : Crew → Crew) : (s.modCrew b sl f).asleep = s.asleep := by
  unfold State.modCrew; split <;> simp
@[simp] theorem State.modCrew_flr (s : State) (b sl : Nat) (f : Crew → Crew) : (s.modCrew b sl f).flr = s.flr := by
  unfold State.modCrew; split <;> simp
@[simp] theorem State.modCrew_nextId (s : State) (b sl : Nat) (f : Crew → Crew) : (s.modCrew b sl f).nextId = s.nextId := by
  unfold State.modCrew; split <;> simp

@[simp] theorem State.setThread_cycle (s : State) (b sl l : Nat) (t : Thread) : (s.setThread b sl l t).cycle = s.cycle := State.modCrew_cycle s b sl _
@[simp] theorem State.setThread_fresh (s : State) (b sl l : Nat) (t : Thread) : (s.setThread b sl l t).fresh = s.fresh := State.modCrew_fresh s b sl _
@[simp] theorem State.setThread_agenda (s : State) (b sl l : Nat) (t : Thread) : (s.setThread b sl l t).agenda = s.agenda := State.modCrew_agenda s b sl _
@[simp] theorem State.setThread_cur (s : State) (b sl l : Nat) (t : Thread) : (s.setThread b sl l t).cur = s.cur := State.modCrew_cur s b sl _
@[simp] theorem State.setThread_hostOut (s : State) (b sl l : Nat) (t : Thread) : (s.setThread b sl l t).hostOut = s.hostOut := State.modCrew_hostOut s b sl _
@[simp] theorem State.setThread_mem (s : State) (b sl l : Nat) (t : Thread) : (s.setThread b sl l t).mem = s.mem := State.modCrew_mem s b sl _
@[simp] theorem State.setThread_hostMem (s : State) (b sl l : Nat) (t : Thread) : (s.setThread b sl l t).hostMem = s.hostMem := State.modCrew_hostMem s b sl _
@[simp] theorem State.setThread_hostBad (s : State) (b sl l : Nat) (t : Thread) : (s.setThread b sl l t).hostBad = s.hostBad := State.modCrew_hostBad s b sl _
@[simp] theorem State.setThread_unitKeys (s : State) (b sl l : Nat) (t : Thread) : (s.setThread b sl l t).unitKeys = s.unitKeys := State.modCrew_unitKeys s b sl _
@[simp] theorem State.setThread_codeCells (s : State) (b sl l : Nat) (t : Thread) : (s.setThread b sl l t).codeCells = s.codeCells := State.modCrew_codeCells s b sl _
@[simp] theorem State.setThread_l2 (s : State) (b sl l : Nat) (t : Thread) : (s.setThread b sl l t).l2 = s.l2 := State.modCrew_l2 s b sl _
@[simp] theorem State.setThread_revokes (s : State) (b sl l : Nat) (t : Thread) : (s.setThread b sl l t).revokes = s.revokes := State.modCrew_revokes s b sl _
@[simp] theorem State.setThread_poison (s : State) (b sl l : Nat) (t : Thread) : (s.setThread b sl l t).poison = s.poison := State.modCrew_poison s b sl _
@[simp] theorem State.setThread_dies (s : State) (b sl l : Nat) (t : Thread) : (s.setThread b sl l t).dies = s.dies := State.modCrew_dies s b sl _
@[simp] theorem State.setThread_parts (s : State) (b sl l : Nat) (t : Thread) : (s.setThread b sl l t).parts = s.parts := State.modCrew_parts s b sl _
@[simp] theorem State.setThread_arrays (s : State) (b sl l : Nat) (t : Thread) : (s.setThread b sl l t).arrays = s.arrays := State.modCrew_arrays s b sl _
@[simp] theorem State.setThread_walks (s : State) (b sl l : Nat) (t : Thread) : (s.setThread b sl l t).walks = s.walks := State.modCrew_walks s b sl _
@[simp] theorem State.setThread_walkCache (s : State) (b sl l : Nat) (t : Thread) : (s.setThread b sl l t).walkCache = s.walkCache := State.modCrew_walkCache s b sl _
@[simp] theorem State.setThread_faults (s : State) (b sl l : Nat) (t : Thread) : (s.setThread b sl l t).faults = s.faults := State.modCrew_faults s b sl _
@[simp] theorem State.setThread_calendar (s : State) (b sl l : Nat) (t : Thread) : (s.setThread b sl l t).calendar = s.calendar := State.modCrew_calendar s b sl _
@[simp] theorem State.setThread_calendarNext (s : State) (b sl l : Nat) (t : Thread) : (s.setThread b sl l t).calendarNext = s.calendarNext := State.modCrew_calendarNext s b sl _
@[simp] theorem State.setThread_keys (s : State) (b sl l : Nat) (t : Thread) : (s.setThread b sl l t).keys = s.keys := State.modCrew_keys s b sl _
@[simp] theorem State.setThread_keyLog (s : State) (b sl l : Nat) (t : Thread) : (s.setThread b sl l t).keyLog = s.keyLog := State.modCrew_keyLog s b sl _
@[simp] theorem State.setThread_limit (s : State) (b sl l : Nat) (t : Thread) : (s.setThread b sl l t).limit = s.limit := State.modCrew_limit s b sl _
@[simp] theorem State.setThread_limitNext (s : State) (b sl l : Nat) (t : Thread) : (s.setThread b sl l t).limitNext = s.limitNext := State.modCrew_limitNext s b sl _
@[simp] theorem State.setThread_mailbox (s : State) (b sl l : Nat) (t : Thread) : (s.setThread b sl l t).mailbox = s.mailbox := State.modCrew_mailbox s b sl _
@[simp] theorem State.setThread_antiRollback (s : State) (b sl l : Nat) (t : Thread) : (s.setThread b sl l t).antiRollback = s.antiRollback := State.modCrew_antiRollback s b sl _
@[simp] theorem State.setThread_signatures (s : State) (b sl l : Nat) (t : Thread) : (s.setThread b sl l t).signatures = s.signatures := State.modCrew_signatures s b sl _
@[simp] theorem State.setThread_exhausted (s : State) (b sl l : Nat) (t : Thread) : (s.setThread b sl l t).exhausted = s.exhausted := State.modCrew_exhausted s b sl _
@[simp] theorem State.setThread_boots (s : State) (b sl l : Nat) (t : Thread) : (s.setThread b sl l t).boots = s.boots := State.modCrew_boots s b sl _
@[simp] theorem State.setThread_boot (s : State) (b sl l : Nat) (t : Thread) : (s.setThread b sl l t).boot = s.boot := State.modCrew_boot s b sl _
@[simp] theorem State.setThread_booting (s : State) (b sl l : Nat) (t : Thread) : (s.setThread b sl l t).booting = s.booting := State.modCrew_booting s b sl _
@[simp] theorem State.setThread_bootErr (s : State) (b sl l : Nat) (t : Thread) : (s.setThread b sl l t).bootErr = s.bootErr := State.modCrew_bootErr s b sl _
@[simp] theorem State.setThread_asleep (s : State) (b sl l : Nat) (t : Thread) : (s.setThread b sl l t).asleep = s.asleep := State.modCrew_asleep s b sl _
@[simp] theorem State.setThread_flr (s : State) (b sl l : Nat) (t : Thread) : (s.setThread b sl l t).flr = s.flr := State.modCrew_flr s b sl _
@[simp] theorem State.setThread_nextId (s : State) (b sl l : Nat) (t : Thread) : (s.setThread b sl l t).nextId = s.nextId := State.modCrew_nextId s b sl _

@[simp] theorem State.modThread_cycle (s : State) (b sl l : Nat) (f : Thread → Thread) : (s.modThread b sl l f).cycle = s.cycle := State.modCrew_cycle s b sl _
@[simp] theorem State.modThread_fresh (s : State) (b sl l : Nat) (f : Thread → Thread) : (s.modThread b sl l f).fresh = s.fresh := State.modCrew_fresh s b sl _
@[simp] theorem State.modThread_agenda (s : State) (b sl l : Nat) (f : Thread → Thread) : (s.modThread b sl l f).agenda = s.agenda := State.modCrew_agenda s b sl _
@[simp] theorem State.modThread_cur (s : State) (b sl l : Nat) (f : Thread → Thread) : (s.modThread b sl l f).cur = s.cur := State.modCrew_cur s b sl _
@[simp] theorem State.modThread_hostOut (s : State) (b sl l : Nat) (f : Thread → Thread) : (s.modThread b sl l f).hostOut = s.hostOut := State.modCrew_hostOut s b sl _
@[simp] theorem State.modThread_mem (s : State) (b sl l : Nat) (f : Thread → Thread) : (s.modThread b sl l f).mem = s.mem := State.modCrew_mem s b sl _
@[simp] theorem State.modThread_hostMem (s : State) (b sl l : Nat) (f : Thread → Thread) : (s.modThread b sl l f).hostMem = s.hostMem := State.modCrew_hostMem s b sl _
@[simp] theorem State.modThread_hostBad (s : State) (b sl l : Nat) (f : Thread → Thread) : (s.modThread b sl l f).hostBad = s.hostBad := State.modCrew_hostBad s b sl _
@[simp] theorem State.modThread_unitKeys (s : State) (b sl l : Nat) (f : Thread → Thread) : (s.modThread b sl l f).unitKeys = s.unitKeys := State.modCrew_unitKeys s b sl _
@[simp] theorem State.modThread_codeCells (s : State) (b sl l : Nat) (f : Thread → Thread) : (s.modThread b sl l f).codeCells = s.codeCells := State.modCrew_codeCells s b sl _
@[simp] theorem State.modThread_l2 (s : State) (b sl l : Nat) (f : Thread → Thread) : (s.modThread b sl l f).l2 = s.l2 := State.modCrew_l2 s b sl _
@[simp] theorem State.modThread_revokes (s : State) (b sl l : Nat) (f : Thread → Thread) : (s.modThread b sl l f).revokes = s.revokes := State.modCrew_revokes s b sl _
@[simp] theorem State.modThread_poison (s : State) (b sl l : Nat) (f : Thread → Thread) : (s.modThread b sl l f).poison = s.poison := State.modCrew_poison s b sl _
@[simp] theorem State.modThread_dies (s : State) (b sl l : Nat) (f : Thread → Thread) : (s.modThread b sl l f).dies = s.dies := State.modCrew_dies s b sl _
@[simp] theorem State.modThread_parts (s : State) (b sl l : Nat) (f : Thread → Thread) : (s.modThread b sl l f).parts = s.parts := State.modCrew_parts s b sl _
@[simp] theorem State.modThread_arrays (s : State) (b sl l : Nat) (f : Thread → Thread) : (s.modThread b sl l f).arrays = s.arrays := State.modCrew_arrays s b sl _
@[simp] theorem State.modThread_walks (s : State) (b sl l : Nat) (f : Thread → Thread) : (s.modThread b sl l f).walks = s.walks := State.modCrew_walks s b sl _
@[simp] theorem State.modThread_walkCache (s : State) (b sl l : Nat) (f : Thread → Thread) : (s.modThread b sl l f).walkCache = s.walkCache := State.modCrew_walkCache s b sl _
@[simp] theorem State.modThread_faults (s : State) (b sl l : Nat) (f : Thread → Thread) : (s.modThread b sl l f).faults = s.faults := State.modCrew_faults s b sl _
@[simp] theorem State.modThread_calendar (s : State) (b sl l : Nat) (f : Thread → Thread) : (s.modThread b sl l f).calendar = s.calendar := State.modCrew_calendar s b sl _
@[simp] theorem State.modThread_calendarNext (s : State) (b sl l : Nat) (f : Thread → Thread) : (s.modThread b sl l f).calendarNext = s.calendarNext := State.modCrew_calendarNext s b sl _
@[simp] theorem State.modThread_keys (s : State) (b sl l : Nat) (f : Thread → Thread) : (s.modThread b sl l f).keys = s.keys := State.modCrew_keys s b sl _
@[simp] theorem State.modThread_keyLog (s : State) (b sl l : Nat) (f : Thread → Thread) : (s.modThread b sl l f).keyLog = s.keyLog := State.modCrew_keyLog s b sl _
@[simp] theorem State.modThread_limit (s : State) (b sl l : Nat) (f : Thread → Thread) : (s.modThread b sl l f).limit = s.limit := State.modCrew_limit s b sl _
@[simp] theorem State.modThread_limitNext (s : State) (b sl l : Nat) (f : Thread → Thread) : (s.modThread b sl l f).limitNext = s.limitNext := State.modCrew_limitNext s b sl _
@[simp] theorem State.modThread_mailbox (s : State) (b sl l : Nat) (f : Thread → Thread) : (s.modThread b sl l f).mailbox = s.mailbox := State.modCrew_mailbox s b sl _
@[simp] theorem State.modThread_antiRollback (s : State) (b sl l : Nat) (f : Thread → Thread) : (s.modThread b sl l f).antiRollback = s.antiRollback := State.modCrew_antiRollback s b sl _
@[simp] theorem State.modThread_signatures (s : State) (b sl l : Nat) (f : Thread → Thread) : (s.modThread b sl l f).signatures = s.signatures := State.modCrew_signatures s b sl _
@[simp] theorem State.modThread_exhausted (s : State) (b sl l : Nat) (f : Thread → Thread) : (s.modThread b sl l f).exhausted = s.exhausted := State.modCrew_exhausted s b sl _
@[simp] theorem State.modThread_boots (s : State) (b sl l : Nat) (f : Thread → Thread) : (s.modThread b sl l f).boots = s.boots := State.modCrew_boots s b sl _
@[simp] theorem State.modThread_boot (s : State) (b sl l : Nat) (f : Thread → Thread) : (s.modThread b sl l f).boot = s.boot := State.modCrew_boot s b sl _
@[simp] theorem State.modThread_booting (s : State) (b sl l : Nat) (f : Thread → Thread) : (s.modThread b sl l f).booting = s.booting := State.modCrew_booting s b sl _
@[simp] theorem State.modThread_bootErr (s : State) (b sl l : Nat) (f : Thread → Thread) : (s.modThread b sl l f).bootErr = s.bootErr := State.modCrew_bootErr s b sl _
@[simp] theorem State.modThread_asleep (s : State) (b sl l : Nat) (f : Thread → Thread) : (s.modThread b sl l f).asleep = s.asleep := State.modCrew_asleep s b sl _
@[simp] theorem State.modThread_flr (s : State) (b sl l : Nat) (f : Thread → Thread) : (s.modThread b sl l f).flr = s.flr := State.modCrew_flr s b sl _
@[simp] theorem State.modThread_nextId (s : State) (b sl l : Nat) (f : Thread → Thread) : (s.modThread b sl l f).nextId = s.nextId := State.modCrew_nextId s b sl _

@[simp] theorem State.modBank_cycle (s : State) (b k : Nat) (f : Bank → Bank) : (s.modBank b k f).cycle = s.cycle := State.modCore_cycle s b _
@[simp] theorem State.modBank_fresh (s : State) (b k : Nat) (f : Bank → Bank) : (s.modBank b k f).fresh = s.fresh := State.modCore_fresh s b _
@[simp] theorem State.modBank_agenda (s : State) (b k : Nat) (f : Bank → Bank) : (s.modBank b k f).agenda = s.agenda := State.modCore_agenda s b _
@[simp] theorem State.modBank_cur (s : State) (b k : Nat) (f : Bank → Bank) : (s.modBank b k f).cur = s.cur := State.modCore_cur s b _
@[simp] theorem State.modBank_hostOut (s : State) (b k : Nat) (f : Bank → Bank) : (s.modBank b k f).hostOut = s.hostOut := State.modCore_hostOut s b _
@[simp] theorem State.modBank_mem (s : State) (b k : Nat) (f : Bank → Bank) : (s.modBank b k f).mem = s.mem := State.modCore_mem s b _
@[simp] theorem State.modBank_hostMem (s : State) (b k : Nat) (f : Bank → Bank) : (s.modBank b k f).hostMem = s.hostMem := State.modCore_hostMem s b _
@[simp] theorem State.modBank_hostBad (s : State) (b k : Nat) (f : Bank → Bank) : (s.modBank b k f).hostBad = s.hostBad := State.modCore_hostBad s b _
@[simp] theorem State.modBank_unitKeys (s : State) (b k : Nat) (f : Bank → Bank) : (s.modBank b k f).unitKeys = s.unitKeys := State.modCore_unitKeys s b _
@[simp] theorem State.modBank_codeCells (s : State) (b k : Nat) (f : Bank → Bank) : (s.modBank b k f).codeCells = s.codeCells := State.modCore_codeCells s b _
@[simp] theorem State.modBank_l2 (s : State) (b k : Nat) (f : Bank → Bank) : (s.modBank b k f).l2 = s.l2 := State.modCore_l2 s b _
@[simp] theorem State.modBank_revokes (s : State) (b k : Nat) (f : Bank → Bank) : (s.modBank b k f).revokes = s.revokes := State.modCore_revokes s b _
@[simp] theorem State.modBank_poison (s : State) (b k : Nat) (f : Bank → Bank) : (s.modBank b k f).poison = s.poison := State.modCore_poison s b _
@[simp] theorem State.modBank_dies (s : State) (b k : Nat) (f : Bank → Bank) : (s.modBank b k f).dies = s.dies := State.modCore_dies s b _
@[simp] theorem State.modBank_parts (s : State) (b k : Nat) (f : Bank → Bank) : (s.modBank b k f).parts = s.parts := State.modCore_parts s b _
@[simp] theorem State.modBank_arrays (s : State) (b k : Nat) (f : Bank → Bank) : (s.modBank b k f).arrays = s.arrays := State.modCore_arrays s b _
@[simp] theorem State.modBank_walks (s : State) (b k : Nat) (f : Bank → Bank) : (s.modBank b k f).walks = s.walks := State.modCore_walks s b _
@[simp] theorem State.modBank_walkCache (s : State) (b k : Nat) (f : Bank → Bank) : (s.modBank b k f).walkCache = s.walkCache := State.modCore_walkCache s b _
@[simp] theorem State.modBank_faults (s : State) (b k : Nat) (f : Bank → Bank) : (s.modBank b k f).faults = s.faults := State.modCore_faults s b _
@[simp] theorem State.modBank_calendar (s : State) (b k : Nat) (f : Bank → Bank) : (s.modBank b k f).calendar = s.calendar := State.modCore_calendar s b _
@[simp] theorem State.modBank_calendarNext (s : State) (b k : Nat) (f : Bank → Bank) : (s.modBank b k f).calendarNext = s.calendarNext := State.modCore_calendarNext s b _
@[simp] theorem State.modBank_keys (s : State) (b k : Nat) (f : Bank → Bank) : (s.modBank b k f).keys = s.keys := State.modCore_keys s b _
@[simp] theorem State.modBank_keyLog (s : State) (b k : Nat) (f : Bank → Bank) : (s.modBank b k f).keyLog = s.keyLog := State.modCore_keyLog s b _
@[simp] theorem State.modBank_limit (s : State) (b k : Nat) (f : Bank → Bank) : (s.modBank b k f).limit = s.limit := State.modCore_limit s b _
@[simp] theorem State.modBank_limitNext (s : State) (b k : Nat) (f : Bank → Bank) : (s.modBank b k f).limitNext = s.limitNext := State.modCore_limitNext s b _
@[simp] theorem State.modBank_mailbox (s : State) (b k : Nat) (f : Bank → Bank) : (s.modBank b k f).mailbox = s.mailbox := State.modCore_mailbox s b _
@[simp] theorem State.modBank_antiRollback (s : State) (b k : Nat) (f : Bank → Bank) : (s.modBank b k f).antiRollback = s.antiRollback := State.modCore_antiRollback s b _
@[simp] theorem State.modBank_signatures (s : State) (b k : Nat) (f : Bank → Bank) : (s.modBank b k f).signatures = s.signatures := State.modCore_signatures s b _
@[simp] theorem State.modBank_exhausted (s : State) (b k : Nat) (f : Bank → Bank) : (s.modBank b k f).exhausted = s.exhausted := State.modCore_exhausted s b _
@[simp] theorem State.modBank_boots (s : State) (b k : Nat) (f : Bank → Bank) : (s.modBank b k f).boots = s.boots := State.modCore_boots s b _
@[simp] theorem State.modBank_boot (s : State) (b k : Nat) (f : Bank → Bank) : (s.modBank b k f).boot = s.boot := State.modCore_boot s b _
@[simp] theorem State.modBank_booting (s : State) (b k : Nat) (f : Bank → Bank) : (s.modBank b k f).booting = s.booting := State.modCore_booting s b _
@[simp] theorem State.modBank_bootErr (s : State) (b k : Nat) (f : Bank → Bank) : (s.modBank b k f).bootErr = s.bootErr := State.modCore_bootErr s b _
@[simp] theorem State.modBank_asleep (s : State) (b k : Nat) (f : Bank → Bank) : (s.modBank b k f).asleep = s.asleep := State.modCore_asleep s b _
@[simp] theorem State.modBank_flr (s : State) (b k : Nat) (f : Bank → Bank) : (s.modBank b k f).flr = s.flr := State.modCore_flr s b _
@[simp] theorem State.modBank_nextId (s : State) (b k : Nat) (f : Bank → Bank) : (s.modBank b k f).nextId = s.nextId := State.modCore_nextId s b _

@[simp] theorem State.modHandle_cycle (s : State) (b k : Nat) (f : Handle → Handle) : (s.modHandle b k f).cycle = s.cycle := State.modCore_cycle s b _
@[simp] theorem State.modHandle_fresh (s : State) (b k : Nat) (f : Handle → Handle) : (s.modHandle b k f).fresh = s.fresh := State.modCore_fresh s b _
@[simp] theorem State.modHandle_agenda (s : State) (b k : Nat) (f : Handle → Handle) : (s.modHandle b k f).agenda = s.agenda := State.modCore_agenda s b _
@[simp] theorem State.modHandle_cur (s : State) (b k : Nat) (f : Handle → Handle) : (s.modHandle b k f).cur = s.cur := State.modCore_cur s b _
@[simp] theorem State.modHandle_hostOut (s : State) (b k : Nat) (f : Handle → Handle) : (s.modHandle b k f).hostOut = s.hostOut := State.modCore_hostOut s b _
@[simp] theorem State.modHandle_mem (s : State) (b k : Nat) (f : Handle → Handle) : (s.modHandle b k f).mem = s.mem := State.modCore_mem s b _
@[simp] theorem State.modHandle_hostMem (s : State) (b k : Nat) (f : Handle → Handle) : (s.modHandle b k f).hostMem = s.hostMem := State.modCore_hostMem s b _
@[simp] theorem State.modHandle_hostBad (s : State) (b k : Nat) (f : Handle → Handle) : (s.modHandle b k f).hostBad = s.hostBad := State.modCore_hostBad s b _
@[simp] theorem State.modHandle_unitKeys (s : State) (b k : Nat) (f : Handle → Handle) : (s.modHandle b k f).unitKeys = s.unitKeys := State.modCore_unitKeys s b _
@[simp] theorem State.modHandle_codeCells (s : State) (b k : Nat) (f : Handle → Handle) : (s.modHandle b k f).codeCells = s.codeCells := State.modCore_codeCells s b _
@[simp] theorem State.modHandle_l2 (s : State) (b k : Nat) (f : Handle → Handle) : (s.modHandle b k f).l2 = s.l2 := State.modCore_l2 s b _
@[simp] theorem State.modHandle_revokes (s : State) (b k : Nat) (f : Handle → Handle) : (s.modHandle b k f).revokes = s.revokes := State.modCore_revokes s b _
@[simp] theorem State.modHandle_poison (s : State) (b k : Nat) (f : Handle → Handle) : (s.modHandle b k f).poison = s.poison := State.modCore_poison s b _
@[simp] theorem State.modHandle_dies (s : State) (b k : Nat) (f : Handle → Handle) : (s.modHandle b k f).dies = s.dies := State.modCore_dies s b _
@[simp] theorem State.modHandle_parts (s : State) (b k : Nat) (f : Handle → Handle) : (s.modHandle b k f).parts = s.parts := State.modCore_parts s b _
@[simp] theorem State.modHandle_arrays (s : State) (b k : Nat) (f : Handle → Handle) : (s.modHandle b k f).arrays = s.arrays := State.modCore_arrays s b _
@[simp] theorem State.modHandle_walks (s : State) (b k : Nat) (f : Handle → Handle) : (s.modHandle b k f).walks = s.walks := State.modCore_walks s b _
@[simp] theorem State.modHandle_walkCache (s : State) (b k : Nat) (f : Handle → Handle) : (s.modHandle b k f).walkCache = s.walkCache := State.modCore_walkCache s b _
@[simp] theorem State.modHandle_faults (s : State) (b k : Nat) (f : Handle → Handle) : (s.modHandle b k f).faults = s.faults := State.modCore_faults s b _
@[simp] theorem State.modHandle_calendar (s : State) (b k : Nat) (f : Handle → Handle) : (s.modHandle b k f).calendar = s.calendar := State.modCore_calendar s b _
@[simp] theorem State.modHandle_calendarNext (s : State) (b k : Nat) (f : Handle → Handle) : (s.modHandle b k f).calendarNext = s.calendarNext := State.modCore_calendarNext s b _
@[simp] theorem State.modHandle_keys (s : State) (b k : Nat) (f : Handle → Handle) : (s.modHandle b k f).keys = s.keys := State.modCore_keys s b _
@[simp] theorem State.modHandle_keyLog (s : State) (b k : Nat) (f : Handle → Handle) : (s.modHandle b k f).keyLog = s.keyLog := State.modCore_keyLog s b _
@[simp] theorem State.modHandle_limit (s : State) (b k : Nat) (f : Handle → Handle) : (s.modHandle b k f).limit = s.limit := State.modCore_limit s b _
@[simp] theorem State.modHandle_limitNext (s : State) (b k : Nat) (f : Handle → Handle) : (s.modHandle b k f).limitNext = s.limitNext := State.modCore_limitNext s b _
@[simp] theorem State.modHandle_mailbox (s : State) (b k : Nat) (f : Handle → Handle) : (s.modHandle b k f).mailbox = s.mailbox := State.modCore_mailbox s b _
@[simp] theorem State.modHandle_antiRollback (s : State) (b k : Nat) (f : Handle → Handle) : (s.modHandle b k f).antiRollback = s.antiRollback := State.modCore_antiRollback s b _
@[simp] theorem State.modHandle_signatures (s : State) (b k : Nat) (f : Handle → Handle) : (s.modHandle b k f).signatures = s.signatures := State.modCore_signatures s b _
@[simp] theorem State.modHandle_exhausted (s : State) (b k : Nat) (f : Handle → Handle) : (s.modHandle b k f).exhausted = s.exhausted := State.modCore_exhausted s b _
@[simp] theorem State.modHandle_boots (s : State) (b k : Nat) (f : Handle → Handle) : (s.modHandle b k f).boots = s.boots := State.modCore_boots s b _
@[simp] theorem State.modHandle_boot (s : State) (b k : Nat) (f : Handle → Handle) : (s.modHandle b k f).boot = s.boot := State.modCore_boot s b _
@[simp] theorem State.modHandle_booting (s : State) (b k : Nat) (f : Handle → Handle) : (s.modHandle b k f).booting = s.booting := State.modCore_booting s b _
@[simp] theorem State.modHandle_bootErr (s : State) (b k : Nat) (f : Handle → Handle) : (s.modHandle b k f).bootErr = s.bootErr := State.modCore_bootErr s b _
@[simp] theorem State.modHandle_asleep (s : State) (b k : Nat) (f : Handle → Handle) : (s.modHandle b k f).asleep = s.asleep := State.modCore_asleep s b _
@[simp] theorem State.modHandle_flr (s : State) (b k : Nat) (f : Handle → Handle) : (s.modHandle b k f).flr = s.flr := State.modCore_flr s b _
@[simp] theorem State.modHandle_nextId (s : State) (b k : Nat) (f : Handle → Handle) : (s.modHandle b k f).nextId = s.nextId := State.modCore_nextId s b _

@[simp] theorem State.modTeam_cycle (s : State) (b id : Nat) (f : Team → Team) : (s.modTeam b id f).cycle = s.cycle := State.modCore_cycle s b _
@[simp] theorem State.modTeam_fresh (s : State) (b id : Nat) (f : Team → Team) : (s.modTeam b id f).fresh = s.fresh := State.modCore_fresh s b _
@[simp] theorem State.modTeam_agenda (s : State) (b id : Nat) (f : Team → Team) : (s.modTeam b id f).agenda = s.agenda := State.modCore_agenda s b _
@[simp] theorem State.modTeam_cur (s : State) (b id : Nat) (f : Team → Team) : (s.modTeam b id f).cur = s.cur := State.modCore_cur s b _
@[simp] theorem State.modTeam_hostOut (s : State) (b id : Nat) (f : Team → Team) : (s.modTeam b id f).hostOut = s.hostOut := State.modCore_hostOut s b _
@[simp] theorem State.modTeam_mem (s : State) (b id : Nat) (f : Team → Team) : (s.modTeam b id f).mem = s.mem := State.modCore_mem s b _
@[simp] theorem State.modTeam_hostMem (s : State) (b id : Nat) (f : Team → Team) : (s.modTeam b id f).hostMem = s.hostMem := State.modCore_hostMem s b _
@[simp] theorem State.modTeam_hostBad (s : State) (b id : Nat) (f : Team → Team) : (s.modTeam b id f).hostBad = s.hostBad := State.modCore_hostBad s b _
@[simp] theorem State.modTeam_unitKeys (s : State) (b id : Nat) (f : Team → Team) : (s.modTeam b id f).unitKeys = s.unitKeys := State.modCore_unitKeys s b _
@[simp] theorem State.modTeam_codeCells (s : State) (b id : Nat) (f : Team → Team) : (s.modTeam b id f).codeCells = s.codeCells := State.modCore_codeCells s b _
@[simp] theorem State.modTeam_l2 (s : State) (b id : Nat) (f : Team → Team) : (s.modTeam b id f).l2 = s.l2 := State.modCore_l2 s b _
@[simp] theorem State.modTeam_revokes (s : State) (b id : Nat) (f : Team → Team) : (s.modTeam b id f).revokes = s.revokes := State.modCore_revokes s b _
@[simp] theorem State.modTeam_poison (s : State) (b id : Nat) (f : Team → Team) : (s.modTeam b id f).poison = s.poison := State.modCore_poison s b _
@[simp] theorem State.modTeam_dies (s : State) (b id : Nat) (f : Team → Team) : (s.modTeam b id f).dies = s.dies := State.modCore_dies s b _
@[simp] theorem State.modTeam_parts (s : State) (b id : Nat) (f : Team → Team) : (s.modTeam b id f).parts = s.parts := State.modCore_parts s b _
@[simp] theorem State.modTeam_arrays (s : State) (b id : Nat) (f : Team → Team) : (s.modTeam b id f).arrays = s.arrays := State.modCore_arrays s b _
@[simp] theorem State.modTeam_walks (s : State) (b id : Nat) (f : Team → Team) : (s.modTeam b id f).walks = s.walks := State.modCore_walks s b _
@[simp] theorem State.modTeam_walkCache (s : State) (b id : Nat) (f : Team → Team) : (s.modTeam b id f).walkCache = s.walkCache := State.modCore_walkCache s b _
@[simp] theorem State.modTeam_faults (s : State) (b id : Nat) (f : Team → Team) : (s.modTeam b id f).faults = s.faults := State.modCore_faults s b _
@[simp] theorem State.modTeam_calendar (s : State) (b id : Nat) (f : Team → Team) : (s.modTeam b id f).calendar = s.calendar := State.modCore_calendar s b _
@[simp] theorem State.modTeam_calendarNext (s : State) (b id : Nat) (f : Team → Team) : (s.modTeam b id f).calendarNext = s.calendarNext := State.modCore_calendarNext s b _
@[simp] theorem State.modTeam_keys (s : State) (b id : Nat) (f : Team → Team) : (s.modTeam b id f).keys = s.keys := State.modCore_keys s b _
@[simp] theorem State.modTeam_keyLog (s : State) (b id : Nat) (f : Team → Team) : (s.modTeam b id f).keyLog = s.keyLog := State.modCore_keyLog s b _
@[simp] theorem State.modTeam_limit (s : State) (b id : Nat) (f : Team → Team) : (s.modTeam b id f).limit = s.limit := State.modCore_limit s b _
@[simp] theorem State.modTeam_limitNext (s : State) (b id : Nat) (f : Team → Team) : (s.modTeam b id f).limitNext = s.limitNext := State.modCore_limitNext s b _
@[simp] theorem State.modTeam_mailbox (s : State) (b id : Nat) (f : Team → Team) : (s.modTeam b id f).mailbox = s.mailbox := State.modCore_mailbox s b _
@[simp] theorem State.modTeam_antiRollback (s : State) (b id : Nat) (f : Team → Team) : (s.modTeam b id f).antiRollback = s.antiRollback := State.modCore_antiRollback s b _
@[simp] theorem State.modTeam_signatures (s : State) (b id : Nat) (f : Team → Team) : (s.modTeam b id f).signatures = s.signatures := State.modCore_signatures s b _
@[simp] theorem State.modTeam_exhausted (s : State) (b id : Nat) (f : Team → Team) : (s.modTeam b id f).exhausted = s.exhausted := State.modCore_exhausted s b _
@[simp] theorem State.modTeam_boots (s : State) (b id : Nat) (f : Team → Team) : (s.modTeam b id f).boots = s.boots := State.modCore_boots s b _
@[simp] theorem State.modTeam_boot (s : State) (b id : Nat) (f : Team → Team) : (s.modTeam b id f).boot = s.boot := State.modCore_boot s b _
@[simp] theorem State.modTeam_booting (s : State) (b id : Nat) (f : Team → Team) : (s.modTeam b id f).booting = s.booting := State.modCore_booting s b _
@[simp] theorem State.modTeam_bootErr (s : State) (b id : Nat) (f : Team → Team) : (s.modTeam b id f).bootErr = s.bootErr := State.modCore_bootErr s b _
@[simp] theorem State.modTeam_asleep (s : State) (b id : Nat) (f : Team → Team) : (s.modTeam b id f).asleep = s.asleep := State.modCore_asleep s b _
@[simp] theorem State.modTeam_flr (s : State) (b id : Nat) (f : Team → Team) : (s.modTeam b id f).flr = s.flr := State.modCore_flr s b _
@[simp] theorem State.modTeam_nextId (s : State) (b id : Nat) (f : Team → Team) : (s.modTeam b id f).nextId = s.nextId := State.modCore_nextId s b _

/-! Updates of the partitions leave every other field of the state. -/

@[simp] theorem State.setPart_cycle (s : State) (p : Nat) (x : Partition) : (s.setPart p x).cycle = s.cycle := by
  unfold State.setPart; split <;> rfl
@[simp] theorem State.setPart_fresh (s : State) (p : Nat) (x : Partition) : (s.setPart p x).fresh = s.fresh := by
  unfold State.setPart; split <;> rfl
@[simp] theorem State.setPart_agenda (s : State) (p : Nat) (x : Partition) : (s.setPart p x).agenda = s.agenda := by
  unfold State.setPart; split <;> rfl
@[simp] theorem State.setPart_cur (s : State) (p : Nat) (x : Partition) : (s.setPart p x).cur = s.cur := by
  unfold State.setPart; split <;> rfl
@[simp] theorem State.setPart_hostOut (s : State) (p : Nat) (x : Partition) : (s.setPart p x).hostOut = s.hostOut := by
  unfold State.setPart; split <;> rfl
@[simp] theorem State.setPart_mem (s : State) (p : Nat) (x : Partition) : (s.setPart p x).mem = s.mem := by
  unfold State.setPart; split <;> rfl
@[simp] theorem State.setPart_hostMem (s : State) (p : Nat) (x : Partition) : (s.setPart p x).hostMem = s.hostMem := by
  unfold State.setPart; split <;> rfl
@[simp] theorem State.setPart_hostBad (s : State) (p : Nat) (x : Partition) : (s.setPart p x).hostBad = s.hostBad := by
  unfold State.setPart; split <;> rfl
@[simp] theorem State.setPart_unitKeys (s : State) (p : Nat) (x : Partition) : (s.setPart p x).unitKeys = s.unitKeys := by
  unfold State.setPart; split <;> rfl
@[simp] theorem State.setPart_codeCells (s : State) (p : Nat) (x : Partition) : (s.setPart p x).codeCells = s.codeCells := by
  unfold State.setPart; split <;> rfl
@[simp] theorem State.setPart_l2 (s : State) (p : Nat) (x : Partition) : (s.setPart p x).l2 = s.l2 := by
  unfold State.setPart; split <;> rfl
@[simp] theorem State.setPart_revokes (s : State) (p : Nat) (x : Partition) : (s.setPart p x).revokes = s.revokes := by
  unfold State.setPart; split <;> rfl
@[simp] theorem State.setPart_poison (s : State) (p : Nat) (x : Partition) : (s.setPart p x).poison = s.poison := by
  unfold State.setPart; split <;> rfl
@[simp] theorem State.setPart_cores (s : State) (p : Nat) (x : Partition) : (s.setPart p x).cores = s.cores := by
  unfold State.setPart; split <;> rfl
@[simp] theorem State.setPart_dies (s : State) (p : Nat) (x : Partition) : (s.setPart p x).dies = s.dies := by
  unfold State.setPart; split <;> rfl
@[simp] theorem State.setPart_arrays (s : State) (p : Nat) (x : Partition) : (s.setPart p x).arrays = s.arrays := by
  unfold State.setPart; split <;> rfl
@[simp] theorem State.setPart_walks (s : State) (p : Nat) (x : Partition) : (s.setPart p x).walks = s.walks := by
  unfold State.setPart; split <;> rfl
@[simp] theorem State.setPart_walkCache (s : State) (p : Nat) (x : Partition) : (s.setPart p x).walkCache = s.walkCache := by
  unfold State.setPart; split <;> rfl
@[simp] theorem State.setPart_faults (s : State) (p : Nat) (x : Partition) : (s.setPart p x).faults = s.faults := by
  unfold State.setPart; split <;> rfl
@[simp] theorem State.setPart_calendar (s : State) (p : Nat) (x : Partition) : (s.setPart p x).calendar = s.calendar := by
  unfold State.setPart; split <;> rfl
@[simp] theorem State.setPart_calendarNext (s : State) (p : Nat) (x : Partition) : (s.setPart p x).calendarNext = s.calendarNext := by
  unfold State.setPart; split <;> rfl
@[simp] theorem State.setPart_keys (s : State) (p : Nat) (x : Partition) : (s.setPart p x).keys = s.keys := by
  unfold State.setPart; split <;> rfl
@[simp] theorem State.setPart_keyLog (s : State) (p : Nat) (x : Partition) : (s.setPart p x).keyLog = s.keyLog := by
  unfold State.setPart; split <;> rfl
@[simp] theorem State.setPart_limit (s : State) (p : Nat) (x : Partition) : (s.setPart p x).limit = s.limit := by
  unfold State.setPart; split <;> rfl
@[simp] theorem State.setPart_limitNext (s : State) (p : Nat) (x : Partition) : (s.setPart p x).limitNext = s.limitNext := by
  unfold State.setPart; split <;> rfl
@[simp] theorem State.setPart_mailbox (s : State) (p : Nat) (x : Partition) : (s.setPart p x).mailbox = s.mailbox := by
  unfold State.setPart; split <;> rfl
@[simp] theorem State.setPart_antiRollback (s : State) (p : Nat) (x : Partition) : (s.setPart p x).antiRollback = s.antiRollback := by
  unfold State.setPart; split <;> rfl
@[simp] theorem State.setPart_signatures (s : State) (p : Nat) (x : Partition) : (s.setPart p x).signatures = s.signatures := by
  unfold State.setPart; split <;> rfl
@[simp] theorem State.setPart_exhausted (s : State) (p : Nat) (x : Partition) : (s.setPart p x).exhausted = s.exhausted := by
  unfold State.setPart; split <;> rfl
@[simp] theorem State.setPart_boots (s : State) (p : Nat) (x : Partition) : (s.setPart p x).boots = s.boots := by
  unfold State.setPart; split <;> rfl
@[simp] theorem State.setPart_boot (s : State) (p : Nat) (x : Partition) : (s.setPart p x).boot = s.boot := by
  unfold State.setPart; split <;> rfl
@[simp] theorem State.setPart_booting (s : State) (p : Nat) (x : Partition) : (s.setPart p x).booting = s.booting := by
  unfold State.setPart; split <;> rfl
@[simp] theorem State.setPart_bootErr (s : State) (p : Nat) (x : Partition) : (s.setPart p x).bootErr = s.bootErr := by
  unfold State.setPart; split <;> rfl
@[simp] theorem State.setPart_asleep (s : State) (p : Nat) (x : Partition) : (s.setPart p x).asleep = s.asleep := by
  unfold State.setPart; split <;> rfl
@[simp] theorem State.setPart_flr (s : State) (p : Nat) (x : Partition) : (s.setPart p x).flr = s.flr := by
  unfold State.setPart; split <;> rfl
@[simp] theorem State.setPart_nextId (s : State) (p : Nat) (x : Partition) : (s.setPart p x).nextId = s.nextId := by
  unfold State.setPart; split <;> rfl

@[simp] theorem State.modPart_cycle (s : State) (p : Nat) (f : Partition → Partition) : (s.modPart p f).cycle = s.cycle := State.setPart_cycle s p _
@[simp] theorem State.modPart_fresh (s : State) (p : Nat) (f : Partition → Partition) : (s.modPart p f).fresh = s.fresh := State.setPart_fresh s p _
@[simp] theorem State.modPart_agenda (s : State) (p : Nat) (f : Partition → Partition) : (s.modPart p f).agenda = s.agenda := State.setPart_agenda s p _
@[simp] theorem State.modPart_cur (s : State) (p : Nat) (f : Partition → Partition) : (s.modPart p f).cur = s.cur := State.setPart_cur s p _
@[simp] theorem State.modPart_hostOut (s : State) (p : Nat) (f : Partition → Partition) : (s.modPart p f).hostOut = s.hostOut := State.setPart_hostOut s p _
@[simp] theorem State.modPart_mem (s : State) (p : Nat) (f : Partition → Partition) : (s.modPart p f).mem = s.mem := State.setPart_mem s p _
@[simp] theorem State.modPart_hostMem (s : State) (p : Nat) (f : Partition → Partition) : (s.modPart p f).hostMem = s.hostMem := State.setPart_hostMem s p _
@[simp] theorem State.modPart_hostBad (s : State) (p : Nat) (f : Partition → Partition) : (s.modPart p f).hostBad = s.hostBad := State.setPart_hostBad s p _
@[simp] theorem State.modPart_unitKeys (s : State) (p : Nat) (f : Partition → Partition) : (s.modPart p f).unitKeys = s.unitKeys := State.setPart_unitKeys s p _
@[simp] theorem State.modPart_codeCells (s : State) (p : Nat) (f : Partition → Partition) : (s.modPart p f).codeCells = s.codeCells := State.setPart_codeCells s p _
@[simp] theorem State.modPart_l2 (s : State) (p : Nat) (f : Partition → Partition) : (s.modPart p f).l2 = s.l2 := State.setPart_l2 s p _
@[simp] theorem State.modPart_revokes (s : State) (p : Nat) (f : Partition → Partition) : (s.modPart p f).revokes = s.revokes := State.setPart_revokes s p _
@[simp] theorem State.modPart_poison (s : State) (p : Nat) (f : Partition → Partition) : (s.modPart p f).poison = s.poison := State.setPart_poison s p _
@[simp] theorem State.modPart_cores (s : State) (p : Nat) (f : Partition → Partition) : (s.modPart p f).cores = s.cores := State.setPart_cores s p _
@[simp] theorem State.modPart_dies (s : State) (p : Nat) (f : Partition → Partition) : (s.modPart p f).dies = s.dies := State.setPart_dies s p _
@[simp] theorem State.modPart_arrays (s : State) (p : Nat) (f : Partition → Partition) : (s.modPart p f).arrays = s.arrays := State.setPart_arrays s p _
@[simp] theorem State.modPart_walks (s : State) (p : Nat) (f : Partition → Partition) : (s.modPart p f).walks = s.walks := State.setPart_walks s p _
@[simp] theorem State.modPart_walkCache (s : State) (p : Nat) (f : Partition → Partition) : (s.modPart p f).walkCache = s.walkCache := State.setPart_walkCache s p _
@[simp] theorem State.modPart_faults (s : State) (p : Nat) (f : Partition → Partition) : (s.modPart p f).faults = s.faults := State.setPart_faults s p _
@[simp] theorem State.modPart_calendar (s : State) (p : Nat) (f : Partition → Partition) : (s.modPart p f).calendar = s.calendar := State.setPart_calendar s p _
@[simp] theorem State.modPart_calendarNext (s : State) (p : Nat) (f : Partition → Partition) : (s.modPart p f).calendarNext = s.calendarNext := State.setPart_calendarNext s p _
@[simp] theorem State.modPart_keys (s : State) (p : Nat) (f : Partition → Partition) : (s.modPart p f).keys = s.keys := State.setPart_keys s p _
@[simp] theorem State.modPart_keyLog (s : State) (p : Nat) (f : Partition → Partition) : (s.modPart p f).keyLog = s.keyLog := State.setPart_keyLog s p _
@[simp] theorem State.modPart_limit (s : State) (p : Nat) (f : Partition → Partition) : (s.modPart p f).limit = s.limit := State.setPart_limit s p _
@[simp] theorem State.modPart_limitNext (s : State) (p : Nat) (f : Partition → Partition) : (s.modPart p f).limitNext = s.limitNext := State.setPart_limitNext s p _
@[simp] theorem State.modPart_mailbox (s : State) (p : Nat) (f : Partition → Partition) : (s.modPart p f).mailbox = s.mailbox := State.setPart_mailbox s p _
@[simp] theorem State.modPart_antiRollback (s : State) (p : Nat) (f : Partition → Partition) : (s.modPart p f).antiRollback = s.antiRollback := State.setPart_antiRollback s p _
@[simp] theorem State.modPart_signatures (s : State) (p : Nat) (f : Partition → Partition) : (s.modPart p f).signatures = s.signatures := State.setPart_signatures s p _
@[simp] theorem State.modPart_exhausted (s : State) (p : Nat) (f : Partition → Partition) : (s.modPart p f).exhausted = s.exhausted := State.setPart_exhausted s p _
@[simp] theorem State.modPart_boots (s : State) (p : Nat) (f : Partition → Partition) : (s.modPart p f).boots = s.boots := State.setPart_boots s p _
@[simp] theorem State.modPart_boot (s : State) (p : Nat) (f : Partition → Partition) : (s.modPart p f).boot = s.boot := State.setPart_boot s p _
@[simp] theorem State.modPart_booting (s : State) (p : Nat) (f : Partition → Partition) : (s.modPart p f).booting = s.booting := State.setPart_booting s p _
@[simp] theorem State.modPart_bootErr (s : State) (p : Nat) (f : Partition → Partition) : (s.modPart p f).bootErr = s.bootErr := State.setPart_bootErr s p _
@[simp] theorem State.modPart_asleep (s : State) (p : Nat) (f : Partition → Partition) : (s.modPart p f).asleep = s.asleep := State.setPart_asleep s p _
@[simp] theorem State.modPart_flr (s : State) (p : Nat) (f : Partition → Partition) : (s.modPart p f).flr = s.flr := State.setPart_flr s p _
@[simp] theorem State.modPart_nextId (s : State) (p : Nat) (f : Partition → Partition) : (s.modPart p f).nextId = s.nextId := State.setPart_nextId s p _

@[simp] theorem State.modLaunch_cycle (s : State) (p id : Nat) (f : Launch → Launch) : (s.modLaunch p id f).cycle = s.cycle := State.modPart_cycle s p _
@[simp] theorem State.modLaunch_fresh (s : State) (p id : Nat) (f : Launch → Launch) : (s.modLaunch p id f).fresh = s.fresh := State.modPart_fresh s p _
@[simp] theorem State.modLaunch_agenda (s : State) (p id : Nat) (f : Launch → Launch) : (s.modLaunch p id f).agenda = s.agenda := State.modPart_agenda s p _
@[simp] theorem State.modLaunch_cur (s : State) (p id : Nat) (f : Launch → Launch) : (s.modLaunch p id f).cur = s.cur := State.modPart_cur s p _
@[simp] theorem State.modLaunch_hostOut (s : State) (p id : Nat) (f : Launch → Launch) : (s.modLaunch p id f).hostOut = s.hostOut := State.modPart_hostOut s p _
@[simp] theorem State.modLaunch_mem (s : State) (p id : Nat) (f : Launch → Launch) : (s.modLaunch p id f).mem = s.mem := State.modPart_mem s p _
@[simp] theorem State.modLaunch_hostMem (s : State) (p id : Nat) (f : Launch → Launch) : (s.modLaunch p id f).hostMem = s.hostMem := State.modPart_hostMem s p _
@[simp] theorem State.modLaunch_hostBad (s : State) (p id : Nat) (f : Launch → Launch) : (s.modLaunch p id f).hostBad = s.hostBad := State.modPart_hostBad s p _
@[simp] theorem State.modLaunch_unitKeys (s : State) (p id : Nat) (f : Launch → Launch) : (s.modLaunch p id f).unitKeys = s.unitKeys := State.modPart_unitKeys s p _
@[simp] theorem State.modLaunch_codeCells (s : State) (p id : Nat) (f : Launch → Launch) : (s.modLaunch p id f).codeCells = s.codeCells := State.modPart_codeCells s p _
@[simp] theorem State.modLaunch_l2 (s : State) (p id : Nat) (f : Launch → Launch) : (s.modLaunch p id f).l2 = s.l2 := State.modPart_l2 s p _
@[simp] theorem State.modLaunch_revokes (s : State) (p id : Nat) (f : Launch → Launch) : (s.modLaunch p id f).revokes = s.revokes := State.modPart_revokes s p _
@[simp] theorem State.modLaunch_poison (s : State) (p id : Nat) (f : Launch → Launch) : (s.modLaunch p id f).poison = s.poison := State.modPart_poison s p _
@[simp] theorem State.modLaunch_cores (s : State) (p id : Nat) (f : Launch → Launch) : (s.modLaunch p id f).cores = s.cores := State.modPart_cores s p _
@[simp] theorem State.modLaunch_dies (s : State) (p id : Nat) (f : Launch → Launch) : (s.modLaunch p id f).dies = s.dies := State.modPart_dies s p _
@[simp] theorem State.modLaunch_arrays (s : State) (p id : Nat) (f : Launch → Launch) : (s.modLaunch p id f).arrays = s.arrays := State.modPart_arrays s p _
@[simp] theorem State.modLaunch_walks (s : State) (p id : Nat) (f : Launch → Launch) : (s.modLaunch p id f).walks = s.walks := State.modPart_walks s p _
@[simp] theorem State.modLaunch_walkCache (s : State) (p id : Nat) (f : Launch → Launch) : (s.modLaunch p id f).walkCache = s.walkCache := State.modPart_walkCache s p _
@[simp] theorem State.modLaunch_faults (s : State) (p id : Nat) (f : Launch → Launch) : (s.modLaunch p id f).faults = s.faults := State.modPart_faults s p _
@[simp] theorem State.modLaunch_calendar (s : State) (p id : Nat) (f : Launch → Launch) : (s.modLaunch p id f).calendar = s.calendar := State.modPart_calendar s p _
@[simp] theorem State.modLaunch_calendarNext (s : State) (p id : Nat) (f : Launch → Launch) : (s.modLaunch p id f).calendarNext = s.calendarNext := State.modPart_calendarNext s p _
@[simp] theorem State.modLaunch_keys (s : State) (p id : Nat) (f : Launch → Launch) : (s.modLaunch p id f).keys = s.keys := State.modPart_keys s p _
@[simp] theorem State.modLaunch_keyLog (s : State) (p id : Nat) (f : Launch → Launch) : (s.modLaunch p id f).keyLog = s.keyLog := State.modPart_keyLog s p _
@[simp] theorem State.modLaunch_limit (s : State) (p id : Nat) (f : Launch → Launch) : (s.modLaunch p id f).limit = s.limit := State.modPart_limit s p _
@[simp] theorem State.modLaunch_limitNext (s : State) (p id : Nat) (f : Launch → Launch) : (s.modLaunch p id f).limitNext = s.limitNext := State.modPart_limitNext s p _
@[simp] theorem State.modLaunch_mailbox (s : State) (p id : Nat) (f : Launch → Launch) : (s.modLaunch p id f).mailbox = s.mailbox := State.modPart_mailbox s p _
@[simp] theorem State.modLaunch_antiRollback (s : State) (p id : Nat) (f : Launch → Launch) : (s.modLaunch p id f).antiRollback = s.antiRollback := State.modPart_antiRollback s p _
@[simp] theorem State.modLaunch_signatures (s : State) (p id : Nat) (f : Launch → Launch) : (s.modLaunch p id f).signatures = s.signatures := State.modPart_signatures s p _
@[simp] theorem State.modLaunch_exhausted (s : State) (p id : Nat) (f : Launch → Launch) : (s.modLaunch p id f).exhausted = s.exhausted := State.modPart_exhausted s p _
@[simp] theorem State.modLaunch_boots (s : State) (p id : Nat) (f : Launch → Launch) : (s.modLaunch p id f).boots = s.boots := State.modPart_boots s p _
@[simp] theorem State.modLaunch_boot (s : State) (p id : Nat) (f : Launch → Launch) : (s.modLaunch p id f).boot = s.boot := State.modPart_boot s p _
@[simp] theorem State.modLaunch_booting (s : State) (p id : Nat) (f : Launch → Launch) : (s.modLaunch p id f).booting = s.booting := State.modPart_booting s p _
@[simp] theorem State.modLaunch_bootErr (s : State) (p id : Nat) (f : Launch → Launch) : (s.modLaunch p id f).bootErr = s.bootErr := State.modPart_bootErr s p _
@[simp] theorem State.modLaunch_asleep (s : State) (p id : Nat) (f : Launch → Launch) : (s.modLaunch p id f).asleep = s.asleep := State.modPart_asleep s p _
@[simp] theorem State.modLaunch_flr (s : State) (p id : Nat) (f : Launch → Launch) : (s.modLaunch p id f).flr = s.flr := State.modPart_flr s p _
@[simp] theorem State.modLaunch_nextId (s : State) (p id : Nat) (f : Launch → Launch) : (s.modLaunch p id f).nextId = s.nextId := State.modPart_nextId s p _

@[simp] theorem State.count_cycle (s : State) (p k n : Nat) : (s.count p k n).cycle = s.cycle := State.modPart_cycle s p _
@[simp] theorem State.count_fresh (s : State) (p k n : Nat) : (s.count p k n).fresh = s.fresh := State.modPart_fresh s p _
@[simp] theorem State.count_agenda (s : State) (p k n : Nat) : (s.count p k n).agenda = s.agenda := State.modPart_agenda s p _
@[simp] theorem State.count_cur (s : State) (p k n : Nat) : (s.count p k n).cur = s.cur := State.modPart_cur s p _
@[simp] theorem State.count_hostOut (s : State) (p k n : Nat) : (s.count p k n).hostOut = s.hostOut := State.modPart_hostOut s p _
@[simp] theorem State.count_mem (s : State) (p k n : Nat) : (s.count p k n).mem = s.mem := State.modPart_mem s p _
@[simp] theorem State.count_hostMem (s : State) (p k n : Nat) : (s.count p k n).hostMem = s.hostMem := State.modPart_hostMem s p _
@[simp] theorem State.count_hostBad (s : State) (p k n : Nat) : (s.count p k n).hostBad = s.hostBad := State.modPart_hostBad s p _
@[simp] theorem State.count_unitKeys (s : State) (p k n : Nat) : (s.count p k n).unitKeys = s.unitKeys := State.modPart_unitKeys s p _
@[simp] theorem State.count_codeCells (s : State) (p k n : Nat) : (s.count p k n).codeCells = s.codeCells := State.modPart_codeCells s p _
@[simp] theorem State.count_l2 (s : State) (p k n : Nat) : (s.count p k n).l2 = s.l2 := State.modPart_l2 s p _
@[simp] theorem State.count_revokes (s : State) (p k n : Nat) : (s.count p k n).revokes = s.revokes := State.modPart_revokes s p _
@[simp] theorem State.count_poison (s : State) (p k n : Nat) : (s.count p k n).poison = s.poison := State.modPart_poison s p _
@[simp] theorem State.count_cores (s : State) (p k n : Nat) : (s.count p k n).cores = s.cores := State.modPart_cores s p _
@[simp] theorem State.count_dies (s : State) (p k n : Nat) : (s.count p k n).dies = s.dies := State.modPart_dies s p _
@[simp] theorem State.count_arrays (s : State) (p k n : Nat) : (s.count p k n).arrays = s.arrays := State.modPart_arrays s p _
@[simp] theorem State.count_walks (s : State) (p k n : Nat) : (s.count p k n).walks = s.walks := State.modPart_walks s p _
@[simp] theorem State.count_walkCache (s : State) (p k n : Nat) : (s.count p k n).walkCache = s.walkCache := State.modPart_walkCache s p _
@[simp] theorem State.count_faults (s : State) (p k n : Nat) : (s.count p k n).faults = s.faults := State.modPart_faults s p _
@[simp] theorem State.count_calendar (s : State) (p k n : Nat) : (s.count p k n).calendar = s.calendar := State.modPart_calendar s p _
@[simp] theorem State.count_calendarNext (s : State) (p k n : Nat) : (s.count p k n).calendarNext = s.calendarNext := State.modPart_calendarNext s p _
@[simp] theorem State.count_keys (s : State) (p k n : Nat) : (s.count p k n).keys = s.keys := State.modPart_keys s p _
@[simp] theorem State.count_keyLog (s : State) (p k n : Nat) : (s.count p k n).keyLog = s.keyLog := State.modPart_keyLog s p _
@[simp] theorem State.count_limit (s : State) (p k n : Nat) : (s.count p k n).limit = s.limit := State.modPart_limit s p _
@[simp] theorem State.count_limitNext (s : State) (p k n : Nat) : (s.count p k n).limitNext = s.limitNext := State.modPart_limitNext s p _
@[simp] theorem State.count_mailbox (s : State) (p k n : Nat) : (s.count p k n).mailbox = s.mailbox := State.modPart_mailbox s p _
@[simp] theorem State.count_antiRollback (s : State) (p k n : Nat) : (s.count p k n).antiRollback = s.antiRollback := State.modPart_antiRollback s p _
@[simp] theorem State.count_signatures (s : State) (p k n : Nat) : (s.count p k n).signatures = s.signatures := State.modPart_signatures s p _
@[simp] theorem State.count_exhausted (s : State) (p k n : Nat) : (s.count p k n).exhausted = s.exhausted := State.modPart_exhausted s p _
@[simp] theorem State.count_boots (s : State) (p k n : Nat) : (s.count p k n).boots = s.boots := State.modPart_boots s p _
@[simp] theorem State.count_boot (s : State) (p k n : Nat) : (s.count p k n).boot = s.boot := State.modPart_boot s p _
@[simp] theorem State.count_booting (s : State) (p k n : Nat) : (s.count p k n).booting = s.booting := State.modPart_booting s p _
@[simp] theorem State.count_bootErr (s : State) (p k n : Nat) : (s.count p k n).bootErr = s.bootErr := State.modPart_bootErr s p _
@[simp] theorem State.count_asleep (s : State) (p k n : Nat) : (s.count p k n).asleep = s.asleep := State.modPart_asleep s p _
@[simp] theorem State.count_flr (s : State) (p k n : Nat) : (s.count p k n).flr = s.flr := State.modPart_flr s p _
@[simp] theorem State.count_nextId (s : State) (p k n : Nat) : (s.count p k n).nextId = s.nextId := State.modPart_nextId s p _

/-! Updates of a thread. -/

@[simp] theorem Thread.goto_regs (t : Thread) (pc : DWord) : (t.goto pc).regs = t.regs := rfl
@[simp] theorem Thread.goto_preds (t : Thread) (pc : DWord) : (t.goto pc).preds = t.preds := rfl
@[simp] theorem Thread.goto_rnd (t : Thread) (pc : DWord) : (t.goto pc).rnd = t.rnd := rfl
@[simp] theorem Thread.goto_region (t : Thread) (pc : DWord) : (t.goto pc).region = t.region := rfl
@[simp] theorem Thread.goto_priv (t : Thread) (pc : DWord) : (t.goto pc).priv = t.priv := rfl
@[simp] theorem Thread.goto_regionPc (t : Thread) (pc : DWord) : (t.goto pc).regionPc = t.regionPc := rfl
@[simp] theorem Thread.goto_tcause (t : Thread) (pc : DWord) : (t.goto pc).tcause = t.tcause := rfl
@[simp] theorem Thread.goto_tpc (t : Thread) (pc : DWord) : (t.goto pc).tpc = t.tpc := rfl
@[simp] theorem Thread.goto_taddr (t : Thread) (pc : DWord) : (t.goto pc).taddr = t.taddr := rfl
@[simp] theorem Thread.goto_tinfo (t : Thread) (pc : DWord) : (t.goto pc).tinfo = t.tinfo := rfl
@[simp] theorem Thread.goto_tvec (t : Thread) (pc : DWord) : (t.goto pc).tvec = t.tvec := rfl
@[simp] theorem Thread.goto_rolls (t : Thread) (pc : DWord) : (t.goto pc).rolls = t.rolls := rfl
@[simp] theorem Thread.goto_wrote (t : Thread) (pc : DWord) : (t.goto pc).wrote = t.wrote := rfl
@[simp] theorem Thread.goto_yielded (t : Thread) (pc : DWord) : (t.goto pc).yielded = t.yielded := rfl
@[simp] theorem Thread.goto_haltMark (t : Thread) (pc : DWord) : (t.goto pc).haltMark = t.haltMark := rfl
@[simp] theorem Thread.goto_stepMark (t : Thread) (pc : DWord) : (t.goto pc).stepMark = t.stepMark := rfl
@[simp] theorem Thread.goto_skipBp (t : Thread) (pc : DWord) : (t.goto pc).skipBp = t.skipBp := rfl
@[simp] theorem Thread.goto_predWait (t : Thread) (pc : DWord) : (t.goto pc).predWait = t.predWait := rfl
@[simp] theorem Thread.goto_miss (t : Thread) (pc : DWord) : (t.goto pc).miss = t.miss := rfl
@[simp] theorem Thread.goto_seq (t : Thread) (pc : DWord) : (t.goto pc).seq = t.seq := rfl
@[simp] theorem Thread.goto_fence (t : Thread) (pc : DWord) : (t.goto pc).fence = t.fence := rfl
@[simp] theorem Thread.goto_regionSeq (t : Thread) (pc : DWord) : (t.goto pc).regionSeq = t.regionSeq := rfl
@[simp] theorem Thread.goto_relNext (t : Thread) (pc : DWord) : (t.goto pc).relNext = t.relNext := rfl
@[simp] theorem Thread.goto_watching (t : Thread) (pc : DWord) : (t.goto pc).watching = t.watching := rfl
@[simp] theorem Thread.goto_debug (t : Thread) (pc : DWord) : (t.goto pc).debug = t.debug := rfl

@[simp] theorem Thread.goto_pc (t : Thread) (pc : DWord) : (t.goto pc).pc = pc := rfl
@[simp] theorem Thread.goto_st (t : Thread) (pc : DWord) : (t.goto pc).st = .runnable := rfl
@[simp] theorem Thread.goto_age (t : Thread) (pc : DWord) : (t.goto pc).age = 0 := rfl
@[simp] theorem Thread.goto_mark (t : Thread) (pc : DWord) : (t.goto pc).mark = none := rfl

@[simp] theorem Thread.setReg_preds (t : Thread) (r : Nat) (x : Reg) : (t.setReg r x).preds = t.preds := by
  unfold Thread.setReg; split <;> rfl
@[simp] theorem Thread.setReg_pc (t : Thread) (r : Nat) (x : Reg) : (t.setReg r x).pc = t.pc := by
  unfold Thread.setReg; split <;> rfl
@[simp] theorem Thread.setReg_st (t : Thread) (r : Nat) (x : Reg) : (t.setReg r x).st = t.st := by
  unfold Thread.setReg; split <;> rfl
@[simp] theorem Thread.setReg_age (t : Thread) (r : Nat) (x : Reg) : (t.setReg r x).age = t.age := by
  unfold Thread.setReg; split <;> rfl
@[simp] theorem Thread.setReg_rnd (t : Thread) (r : Nat) (x : Reg) : (t.setReg r x).rnd = t.rnd := by
  unfold Thread.setReg; split <;> rfl
@[simp] theorem Thread.setReg_region (t : Thread) (r : Nat) (x : Reg) : (t.setReg r x).region = t.region := by
  unfold Thread.setReg; split <;> rfl
@[simp] theorem Thread.setReg_priv (t : Thread) (r : Nat) (x : Reg) : (t.setReg r x).priv = t.priv := by
  unfold Thread.setReg; split <;> rfl
@[simp] theorem Thread.setReg_regionPc (t : Thread) (r : Nat) (x : Reg) : (t.setReg r x).regionPc = t.regionPc := by
  unfold Thread.setReg; split <;> rfl
@[simp] theorem Thread.setReg_tcause (t : Thread) (r : Nat) (x : Reg) : (t.setReg r x).tcause = t.tcause := by
  unfold Thread.setReg; split <;> rfl
@[simp] theorem Thread.setReg_tpc (t : Thread) (r : Nat) (x : Reg) : (t.setReg r x).tpc = t.tpc := by
  unfold Thread.setReg; split <;> rfl
@[simp] theorem Thread.setReg_taddr (t : Thread) (r : Nat) (x : Reg) : (t.setReg r x).taddr = t.taddr := by
  unfold Thread.setReg; split <;> rfl
@[simp] theorem Thread.setReg_tinfo (t : Thread) (r : Nat) (x : Reg) : (t.setReg r x).tinfo = t.tinfo := by
  unfold Thread.setReg; split <;> rfl
@[simp] theorem Thread.setReg_tvec (t : Thread) (r : Nat) (x : Reg) : (t.setReg r x).tvec = t.tvec := by
  unfold Thread.setReg; split <;> rfl
@[simp] theorem Thread.setReg_rolls (t : Thread) (r : Nat) (x : Reg) : (t.setReg r x).rolls = t.rolls := by
  unfold Thread.setReg; split <;> rfl
@[simp] theorem Thread.setReg_wrote (t : Thread) (r : Nat) (x : Reg) : (t.setReg r x).wrote = t.wrote := by
  unfold Thread.setReg; split <;> rfl
@[simp] theorem Thread.setReg_yielded (t : Thread) (r : Nat) (x : Reg) : (t.setReg r x).yielded = t.yielded := by
  unfold Thread.setReg; split <;> rfl
@[simp] theorem Thread.setReg_haltMark (t : Thread) (r : Nat) (x : Reg) : (t.setReg r x).haltMark = t.haltMark := by
  unfold Thread.setReg; split <;> rfl
@[simp] theorem Thread.setReg_stepMark (t : Thread) (r : Nat) (x : Reg) : (t.setReg r x).stepMark = t.stepMark := by
  unfold Thread.setReg; split <;> rfl
@[simp] theorem Thread.setReg_skipBp (t : Thread) (r : Nat) (x : Reg) : (t.setReg r x).skipBp = t.skipBp := by
  unfold Thread.setReg; split <;> rfl
@[simp] theorem Thread.setReg_predWait (t : Thread) (r : Nat) (x : Reg) : (t.setReg r x).predWait = t.predWait := by
  unfold Thread.setReg; split <;> rfl
@[simp] theorem Thread.setReg_miss (t : Thread) (r : Nat) (x : Reg) : (t.setReg r x).miss = t.miss := by
  unfold Thread.setReg; split <;> rfl
@[simp] theorem Thread.setReg_seq (t : Thread) (r : Nat) (x : Reg) : (t.setReg r x).seq = t.seq := by
  unfold Thread.setReg; split <;> rfl
@[simp] theorem Thread.setReg_fence (t : Thread) (r : Nat) (x : Reg) : (t.setReg r x).fence = t.fence := by
  unfold Thread.setReg; split <;> rfl
@[simp] theorem Thread.setReg_regionSeq (t : Thread) (r : Nat) (x : Reg) : (t.setReg r x).regionSeq = t.regionSeq := by
  unfold Thread.setReg; split <;> rfl
@[simp] theorem Thread.setReg_relNext (t : Thread) (r : Nat) (x : Reg) : (t.setReg r x).relNext = t.relNext := by
  unfold Thread.setReg; split <;> rfl
@[simp] theorem Thread.setReg_mark (t : Thread) (r : Nat) (x : Reg) : (t.setReg r x).mark = t.mark := by
  unfold Thread.setReg; split <;> rfl
@[simp] theorem Thread.setReg_watching (t : Thread) (r : Nat) (x : Reg) : (t.setReg r x).watching = t.watching := by
  unfold Thread.setReg; split <;> rfl
@[simp] theorem Thread.setReg_debug (t : Thread) (r : Nat) (x : Reg) : (t.setReg r x).debug = t.debug := by
  unfold Thread.setReg; split <;> rfl

@[simp] theorem Thread.write_preds (t : Thread) (r : Nat) (wide : Bool) (v : DWord) (g : Tag) : (t.write r wide v g).preds = t.preds := by
  unfold Thread.write; cases wide <;> simp
@[simp] theorem Thread.write_pc (t : Thread) (r : Nat) (wide : Bool) (v : DWord) (g : Tag) : (t.write r wide v g).pc = t.pc := by
  unfold Thread.write; cases wide <;> simp
@[simp] theorem Thread.write_st (t : Thread) (r : Nat) (wide : Bool) (v : DWord) (g : Tag) : (t.write r wide v g).st = t.st := by
  unfold Thread.write; cases wide <;> simp
@[simp] theorem Thread.write_age (t : Thread) (r : Nat) (wide : Bool) (v : DWord) (g : Tag) : (t.write r wide v g).age = t.age := by
  unfold Thread.write; cases wide <;> simp
@[simp] theorem Thread.write_rnd (t : Thread) (r : Nat) (wide : Bool) (v : DWord) (g : Tag) : (t.write r wide v g).rnd = t.rnd := by
  unfold Thread.write; cases wide <;> simp
@[simp] theorem Thread.write_region (t : Thread) (r : Nat) (wide : Bool) (v : DWord) (g : Tag) : (t.write r wide v g).region = t.region := by
  unfold Thread.write; cases wide <;> simp
@[simp] theorem Thread.write_priv (t : Thread) (r : Nat) (wide : Bool) (v : DWord) (g : Tag) : (t.write r wide v g).priv = t.priv := by
  unfold Thread.write; cases wide <;> simp
@[simp] theorem Thread.write_regionPc (t : Thread) (r : Nat) (wide : Bool) (v : DWord) (g : Tag) : (t.write r wide v g).regionPc = t.regionPc := by
  unfold Thread.write; cases wide <;> simp
@[simp] theorem Thread.write_tcause (t : Thread) (r : Nat) (wide : Bool) (v : DWord) (g : Tag) : (t.write r wide v g).tcause = t.tcause := by
  unfold Thread.write; cases wide <;> simp
@[simp] theorem Thread.write_tpc (t : Thread) (r : Nat) (wide : Bool) (v : DWord) (g : Tag) : (t.write r wide v g).tpc = t.tpc := by
  unfold Thread.write; cases wide <;> simp
@[simp] theorem Thread.write_taddr (t : Thread) (r : Nat) (wide : Bool) (v : DWord) (g : Tag) : (t.write r wide v g).taddr = t.taddr := by
  unfold Thread.write; cases wide <;> simp
@[simp] theorem Thread.write_tinfo (t : Thread) (r : Nat) (wide : Bool) (v : DWord) (g : Tag) : (t.write r wide v g).tinfo = t.tinfo := by
  unfold Thread.write; cases wide <;> simp
@[simp] theorem Thread.write_tvec (t : Thread) (r : Nat) (wide : Bool) (v : DWord) (g : Tag) : (t.write r wide v g).tvec = t.tvec := by
  unfold Thread.write; cases wide <;> simp
@[simp] theorem Thread.write_rolls (t : Thread) (r : Nat) (wide : Bool) (v : DWord) (g : Tag) : (t.write r wide v g).rolls = t.rolls := by
  unfold Thread.write; cases wide <;> simp
@[simp] theorem Thread.write_wrote (t : Thread) (r : Nat) (wide : Bool) (v : DWord) (g : Tag) : (t.write r wide v g).wrote = t.wrote := by
  unfold Thread.write; cases wide <;> simp
@[simp] theorem Thread.write_yielded (t : Thread) (r : Nat) (wide : Bool) (v : DWord) (g : Tag) : (t.write r wide v g).yielded = t.yielded := by
  unfold Thread.write; cases wide <;> simp
@[simp] theorem Thread.write_haltMark (t : Thread) (r : Nat) (wide : Bool) (v : DWord) (g : Tag) : (t.write r wide v g).haltMark = t.haltMark := by
  unfold Thread.write; cases wide <;> simp
@[simp] theorem Thread.write_stepMark (t : Thread) (r : Nat) (wide : Bool) (v : DWord) (g : Tag) : (t.write r wide v g).stepMark = t.stepMark := by
  unfold Thread.write; cases wide <;> simp
@[simp] theorem Thread.write_skipBp (t : Thread) (r : Nat) (wide : Bool) (v : DWord) (g : Tag) : (t.write r wide v g).skipBp = t.skipBp := by
  unfold Thread.write; cases wide <;> simp
@[simp] theorem Thread.write_predWait (t : Thread) (r : Nat) (wide : Bool) (v : DWord) (g : Tag) : (t.write r wide v g).predWait = t.predWait := by
  unfold Thread.write; cases wide <;> simp
@[simp] theorem Thread.write_miss (t : Thread) (r : Nat) (wide : Bool) (v : DWord) (g : Tag) : (t.write r wide v g).miss = t.miss := by
  unfold Thread.write; cases wide <;> simp
@[simp] theorem Thread.write_seq (t : Thread) (r : Nat) (wide : Bool) (v : DWord) (g : Tag) : (t.write r wide v g).seq = t.seq := by
  unfold Thread.write; cases wide <;> simp
@[simp] theorem Thread.write_fence (t : Thread) (r : Nat) (wide : Bool) (v : DWord) (g : Tag) : (t.write r wide v g).fence = t.fence := by
  unfold Thread.write; cases wide <;> simp
@[simp] theorem Thread.write_regionSeq (t : Thread) (r : Nat) (wide : Bool) (v : DWord) (g : Tag) : (t.write r wide v g).regionSeq = t.regionSeq := by
  unfold Thread.write; cases wide <;> simp
@[simp] theorem Thread.write_relNext (t : Thread) (r : Nat) (wide : Bool) (v : DWord) (g : Tag) : (t.write r wide v g).relNext = t.relNext := by
  unfold Thread.write; cases wide <;> simp
@[simp] theorem Thread.write_mark (t : Thread) (r : Nat) (wide : Bool) (v : DWord) (g : Tag) : (t.write r wide v g).mark = t.mark := by
  unfold Thread.write; cases wide <;> simp
@[simp] theorem Thread.write_watching (t : Thread) (r : Nat) (wide : Bool) (v : DWord) (g : Tag) : (t.write r wide v g).watching = t.watching := by
  unfold Thread.write; cases wide <;> simp
@[simp] theorem Thread.write_debug (t : Thread) (r : Nat) (wide : Bool) (v : DWord) (g : Tag) : (t.write r wide v g).debug = t.debug := by
  unfold Thread.write; cases wide <;> simp

@[simp] theorem Thread.markEmpty_preds (t : Thread) (r : Nat) (wide : Bool) : (t.markEmpty r wide).preds = t.preds := by
  unfold Thread.markEmpty; cases wide <;> simp
@[simp] theorem Thread.markEmpty_pc (t : Thread) (r : Nat) (wide : Bool) : (t.markEmpty r wide).pc = t.pc := by
  unfold Thread.markEmpty; cases wide <;> simp
@[simp] theorem Thread.markEmpty_st (t : Thread) (r : Nat) (wide : Bool) : (t.markEmpty r wide).st = t.st := by
  unfold Thread.markEmpty; cases wide <;> simp
@[simp] theorem Thread.markEmpty_age (t : Thread) (r : Nat) (wide : Bool) : (t.markEmpty r wide).age = t.age := by
  unfold Thread.markEmpty; cases wide <;> simp
@[simp] theorem Thread.markEmpty_rnd (t : Thread) (r : Nat) (wide : Bool) : (t.markEmpty r wide).rnd = t.rnd := by
  unfold Thread.markEmpty; cases wide <;> simp
@[simp] theorem Thread.markEmpty_region (t : Thread) (r : Nat) (wide : Bool) : (t.markEmpty r wide).region = t.region := by
  unfold Thread.markEmpty; cases wide <;> simp
@[simp] theorem Thread.markEmpty_priv (t : Thread) (r : Nat) (wide : Bool) : (t.markEmpty r wide).priv = t.priv := by
  unfold Thread.markEmpty; cases wide <;> simp
@[simp] theorem Thread.markEmpty_regionPc (t : Thread) (r : Nat) (wide : Bool) : (t.markEmpty r wide).regionPc = t.regionPc := by
  unfold Thread.markEmpty; cases wide <;> simp
@[simp] theorem Thread.markEmpty_tcause (t : Thread) (r : Nat) (wide : Bool) : (t.markEmpty r wide).tcause = t.tcause := by
  unfold Thread.markEmpty; cases wide <;> simp
@[simp] theorem Thread.markEmpty_tpc (t : Thread) (r : Nat) (wide : Bool) : (t.markEmpty r wide).tpc = t.tpc := by
  unfold Thread.markEmpty; cases wide <;> simp
@[simp] theorem Thread.markEmpty_taddr (t : Thread) (r : Nat) (wide : Bool) : (t.markEmpty r wide).taddr = t.taddr := by
  unfold Thread.markEmpty; cases wide <;> simp
@[simp] theorem Thread.markEmpty_tinfo (t : Thread) (r : Nat) (wide : Bool) : (t.markEmpty r wide).tinfo = t.tinfo := by
  unfold Thread.markEmpty; cases wide <;> simp
@[simp] theorem Thread.markEmpty_tvec (t : Thread) (r : Nat) (wide : Bool) : (t.markEmpty r wide).tvec = t.tvec := by
  unfold Thread.markEmpty; cases wide <;> simp
@[simp] theorem Thread.markEmpty_rolls (t : Thread) (r : Nat) (wide : Bool) : (t.markEmpty r wide).rolls = t.rolls := by
  unfold Thread.markEmpty; cases wide <;> simp
@[simp] theorem Thread.markEmpty_wrote (t : Thread) (r : Nat) (wide : Bool) : (t.markEmpty r wide).wrote = t.wrote := by
  unfold Thread.markEmpty; cases wide <;> simp
@[simp] theorem Thread.markEmpty_yielded (t : Thread) (r : Nat) (wide : Bool) : (t.markEmpty r wide).yielded = t.yielded := by
  unfold Thread.markEmpty; cases wide <;> simp
@[simp] theorem Thread.markEmpty_haltMark (t : Thread) (r : Nat) (wide : Bool) : (t.markEmpty r wide).haltMark = t.haltMark := by
  unfold Thread.markEmpty; cases wide <;> simp
@[simp] theorem Thread.markEmpty_stepMark (t : Thread) (r : Nat) (wide : Bool) : (t.markEmpty r wide).stepMark = t.stepMark := by
  unfold Thread.markEmpty; cases wide <;> simp
@[simp] theorem Thread.markEmpty_skipBp (t : Thread) (r : Nat) (wide : Bool) : (t.markEmpty r wide).skipBp = t.skipBp := by
  unfold Thread.markEmpty; cases wide <;> simp
@[simp] theorem Thread.markEmpty_predWait (t : Thread) (r : Nat) (wide : Bool) : (t.markEmpty r wide).predWait = t.predWait := by
  unfold Thread.markEmpty; cases wide <;> simp
@[simp] theorem Thread.markEmpty_miss (t : Thread) (r : Nat) (wide : Bool) : (t.markEmpty r wide).miss = t.miss := by
  unfold Thread.markEmpty; cases wide <;> simp
@[simp] theorem Thread.markEmpty_seq (t : Thread) (r : Nat) (wide : Bool) : (t.markEmpty r wide).seq = t.seq := by
  unfold Thread.markEmpty; cases wide <;> simp
@[simp] theorem Thread.markEmpty_fence (t : Thread) (r : Nat) (wide : Bool) : (t.markEmpty r wide).fence = t.fence := by
  unfold Thread.markEmpty; cases wide <;> simp
@[simp] theorem Thread.markEmpty_regionSeq (t : Thread) (r : Nat) (wide : Bool) : (t.markEmpty r wide).regionSeq = t.regionSeq := by
  unfold Thread.markEmpty; cases wide <;> simp
@[simp] theorem Thread.markEmpty_relNext (t : Thread) (r : Nat) (wide : Bool) : (t.markEmpty r wide).relNext = t.relNext := by
  unfold Thread.markEmpty; cases wide <;> simp
@[simp] theorem Thread.markEmpty_mark (t : Thread) (r : Nat) (wide : Bool) : (t.markEmpty r wide).mark = t.mark := by
  unfold Thread.markEmpty; cases wide <;> simp
@[simp] theorem Thread.markEmpty_watching (t : Thread) (r : Nat) (wide : Bool) : (t.markEmpty r wide).watching = t.watching := by
  unfold Thread.markEmpty; cases wide <;> simp
@[simp] theorem Thread.markEmpty_debug (t : Thread) (r : Nat) (wide : Bool) : (t.markEmpty r wide).debug = t.debug := by
  unfold Thread.markEmpty; cases wide <;> simp

@[simp] theorem Thread.setPred_regs (t : Thread) (p : Nat) (v : Bool) : (t.setPred p v).regs = t.regs := by
  unfold Thread.setPred; split <;> rfl
@[simp] theorem Thread.setPred_pc (t : Thread) (p : Nat) (v : Bool) : (t.setPred p v).pc = t.pc := by
  unfold Thread.setPred; split <;> rfl
@[simp] theorem Thread.setPred_st (t : Thread) (p : Nat) (v : Bool) : (t.setPred p v).st = t.st := by
  unfold Thread.setPred; split <;> rfl
@[simp] theorem Thread.setPred_age (t : Thread) (p : Nat) (v : Bool) : (t.setPred p v).age = t.age := by
  unfold Thread.setPred; split <;> rfl
@[simp] theorem Thread.setPred_rnd (t : Thread) (p : Nat) (v : Bool) : (t.setPred p v).rnd = t.rnd := by
  unfold Thread.setPred; split <;> rfl
@[simp] theorem Thread.setPred_region (t : Thread) (p : Nat) (v : Bool) : (t.setPred p v).region = t.region := by
  unfold Thread.setPred; split <;> rfl
@[simp] theorem Thread.setPred_priv (t : Thread) (p : Nat) (v : Bool) : (t.setPred p v).priv = t.priv := by
  unfold Thread.setPred; split <;> rfl
@[simp] theorem Thread.setPred_regionPc (t : Thread) (p : Nat) (v : Bool) : (t.setPred p v).regionPc = t.regionPc := by
  unfold Thread.setPred; split <;> rfl
@[simp] theorem Thread.setPred_tcause (t : Thread) (p : Nat) (v : Bool) : (t.setPred p v).tcause = t.tcause := by
  unfold Thread.setPred; split <;> rfl
@[simp] theorem Thread.setPred_tpc (t : Thread) (p : Nat) (v : Bool) : (t.setPred p v).tpc = t.tpc := by
  unfold Thread.setPred; split <;> rfl
@[simp] theorem Thread.setPred_taddr (t : Thread) (p : Nat) (v : Bool) : (t.setPred p v).taddr = t.taddr := by
  unfold Thread.setPred; split <;> rfl
@[simp] theorem Thread.setPred_tinfo (t : Thread) (p : Nat) (v : Bool) : (t.setPred p v).tinfo = t.tinfo := by
  unfold Thread.setPred; split <;> rfl
@[simp] theorem Thread.setPred_tvec (t : Thread) (p : Nat) (v : Bool) : (t.setPred p v).tvec = t.tvec := by
  unfold Thread.setPred; split <;> rfl
@[simp] theorem Thread.setPred_rolls (t : Thread) (p : Nat) (v : Bool) : (t.setPred p v).rolls = t.rolls := by
  unfold Thread.setPred; split <;> rfl
@[simp] theorem Thread.setPred_wrote (t : Thread) (p : Nat) (v : Bool) : (t.setPred p v).wrote = t.wrote := by
  unfold Thread.setPred; split <;> rfl
@[simp] theorem Thread.setPred_yielded (t : Thread) (p : Nat) (v : Bool) : (t.setPred p v).yielded = t.yielded := by
  unfold Thread.setPred; split <;> rfl
@[simp] theorem Thread.setPred_haltMark (t : Thread) (p : Nat) (v : Bool) : (t.setPred p v).haltMark = t.haltMark := by
  unfold Thread.setPred; split <;> rfl
@[simp] theorem Thread.setPred_stepMark (t : Thread) (p : Nat) (v : Bool) : (t.setPred p v).stepMark = t.stepMark := by
  unfold Thread.setPred; split <;> rfl
@[simp] theorem Thread.setPred_skipBp (t : Thread) (p : Nat) (v : Bool) : (t.setPred p v).skipBp = t.skipBp := by
  unfold Thread.setPred; split <;> rfl
@[simp] theorem Thread.setPred_predWait (t : Thread) (p : Nat) (v : Bool) : (t.setPred p v).predWait = t.predWait := by
  unfold Thread.setPred; split <;> rfl
@[simp] theorem Thread.setPred_miss (t : Thread) (p : Nat) (v : Bool) : (t.setPred p v).miss = t.miss := by
  unfold Thread.setPred; split <;> rfl
@[simp] theorem Thread.setPred_seq (t : Thread) (p : Nat) (v : Bool) : (t.setPred p v).seq = t.seq := by
  unfold Thread.setPred; split <;> rfl
@[simp] theorem Thread.setPred_fence (t : Thread) (p : Nat) (v : Bool) : (t.setPred p v).fence = t.fence := by
  unfold Thread.setPred; split <;> rfl
@[simp] theorem Thread.setPred_regionSeq (t : Thread) (p : Nat) (v : Bool) : (t.setPred p v).regionSeq = t.regionSeq := by
  unfold Thread.setPred; split <;> rfl
@[simp] theorem Thread.setPred_relNext (t : Thread) (p : Nat) (v : Bool) : (t.setPred p v).relNext = t.relNext := by
  unfold Thread.setPred; split <;> rfl
@[simp] theorem Thread.setPred_mark (t : Thread) (p : Nat) (v : Bool) : (t.setPred p v).mark = t.mark := by
  unfold Thread.setPred; split <;> rfl
@[simp] theorem Thread.setPred_watching (t : Thread) (p : Nat) (v : Bool) : (t.setPred p v).watching = t.watching := by
  unfold Thread.setPred; split <;> rfl
@[simp] theorem Thread.setPred_debug (t : Thread) (p : Nat) (v : Bool) : (t.setPred p v).debug = t.debug := by
  unfold Thread.setPred; split <;> rfl

@[simp] theorem Thread.enterTrap_regs (t : Thread) (r : Trap) (tpc : DWord) : (t.enterTrap r tpc).regs = t.regs := rfl
@[simp] theorem Thread.enterTrap_preds (t : Thread) (r : Trap) (tpc : DWord) : (t.enterTrap r tpc).preds = t.preds := rfl
@[simp] theorem Thread.enterTrap_rnd (t : Thread) (r : Trap) (tpc : DWord) : (t.enterTrap r tpc).rnd = t.rnd := rfl
@[simp] theorem Thread.enterTrap_regionPc (t : Thread) (r : Trap) (tpc : DWord) : (t.enterTrap r tpc).regionPc = t.regionPc := rfl
@[simp] theorem Thread.enterTrap_tvec (t : Thread) (r : Trap) (tpc : DWord) : (t.enterTrap r tpc).tvec = t.tvec := rfl
@[simp] theorem Thread.enterTrap_rolls (t : Thread) (r : Trap) (tpc : DWord) : (t.enterTrap r tpc).rolls = t.rolls := rfl
@[simp] theorem Thread.enterTrap_wrote (t : Thread) (r : Trap) (tpc : DWord) : (t.enterTrap r tpc).wrote = t.wrote := rfl
@[simp] theorem Thread.enterTrap_yielded (t : Thread) (r : Trap) (tpc : DWord) : (t.enterTrap r tpc).yielded = t.yielded := rfl
@[simp] theorem Thread.enterTrap_haltMark (t : Thread) (r : Trap) (tpc : DWord) : (t.enterTrap r tpc).haltMark = t.haltMark := rfl
@[simp] theorem Thread.enterTrap_stepMark (t : Thread) (r : Trap) (tpc : DWord) : (t.enterTrap r tpc).stepMark = t.stepMark := rfl
@[simp] theorem Thread.enterTrap_skipBp (t : Thread) (r : Trap) (tpc : DWord) : (t.enterTrap r tpc).skipBp = t.skipBp := rfl
@[simp] theorem Thread.enterTrap_predWait (t : Thread) (r : Trap) (tpc : DWord) : (t.enterTrap r tpc).predWait = t.predWait := rfl
@[simp] theorem Thread.enterTrap_miss (t : Thread) (r : Trap) (tpc : DWord) : (t.enterTrap r tpc).miss = t.miss := rfl
@[simp] theorem Thread.enterTrap_seq (t : Thread) (r : Trap) (tpc : DWord) : (t.enterTrap r tpc).seq = t.seq := rfl
@[simp] theorem Thread.enterTrap_fence (t : Thread) (r : Trap) (tpc : DWord) : (t.enterTrap r tpc).fence = t.fence := rfl
@[simp] theorem Thread.enterTrap_regionSeq (t : Thread) (r : Trap) (tpc : DWord) : (t.enterTrap r tpc).regionSeq = t.regionSeq := rfl
@[simp] theorem Thread.enterTrap_relNext (t : Thread) (r : Trap) (tpc : DWord) : (t.enterTrap r tpc).relNext = t.relNext := rfl
@[simp] theorem Thread.enterTrap_debug (t : Thread) (r : Trap) (tpc : DWord) : (t.enterTrap r tpc).debug = t.debug := rfl

@[simp] theorem Thread.setRegion_regs (t : Thread) (pc : DWord) : (t.setRegion pc).regs = t.regs := rfl
@[simp] theorem Thread.setRegion_preds (t : Thread) (pc : DWord) : (t.setRegion pc).preds = t.preds := rfl
@[simp] theorem Thread.setRegion_pc (t : Thread) (pc : DWord) : (t.setRegion pc).pc = t.pc := rfl
@[simp] theorem Thread.setRegion_st (t : Thread) (pc : DWord) : (t.setRegion pc).st = t.st := rfl
@[simp] theorem Thread.setRegion_age (t : Thread) (pc : DWord) : (t.setRegion pc).age = t.age := rfl
@[simp] theorem Thread.setRegion_rnd (t : Thread) (pc : DWord) : (t.setRegion pc).rnd = t.rnd := rfl
@[simp] theorem Thread.setRegion_region (t : Thread) (pc : DWord) : (t.setRegion pc).region = t.region := rfl
@[simp] theorem Thread.setRegion_priv (t : Thread) (pc : DWord) : (t.setRegion pc).priv = t.priv := rfl
@[simp] theorem Thread.setRegion_tcause (t : Thread) (pc : DWord) : (t.setRegion pc).tcause = t.tcause := rfl
@[simp] theorem Thread.setRegion_tpc (t : Thread) (pc : DWord) : (t.setRegion pc).tpc = t.tpc := rfl
@[simp] theorem Thread.setRegion_taddr (t : Thread) (pc : DWord) : (t.setRegion pc).taddr = t.taddr := rfl
@[simp] theorem Thread.setRegion_tinfo (t : Thread) (pc : DWord) : (t.setRegion pc).tinfo = t.tinfo := rfl
@[simp] theorem Thread.setRegion_tvec (t : Thread) (pc : DWord) : (t.setRegion pc).tvec = t.tvec := rfl
@[simp] theorem Thread.setRegion_wrote (t : Thread) (pc : DWord) : (t.setRegion pc).wrote = t.wrote := rfl
@[simp] theorem Thread.setRegion_yielded (t : Thread) (pc : DWord) : (t.setRegion pc).yielded = t.yielded := rfl
@[simp] theorem Thread.setRegion_haltMark (t : Thread) (pc : DWord) : (t.setRegion pc).haltMark = t.haltMark := rfl
@[simp] theorem Thread.setRegion_stepMark (t : Thread) (pc : DWord) : (t.setRegion pc).stepMark = t.stepMark := rfl
@[simp] theorem Thread.setRegion_skipBp (t : Thread) (pc : DWord) : (t.setRegion pc).skipBp = t.skipBp := rfl
@[simp] theorem Thread.setRegion_predWait (t : Thread) (pc : DWord) : (t.setRegion pc).predWait = t.predWait := rfl
@[simp] theorem Thread.setRegion_miss (t : Thread) (pc : DWord) : (t.setRegion pc).miss = t.miss := rfl
@[simp] theorem Thread.setRegion_seq (t : Thread) (pc : DWord) : (t.setRegion pc).seq = t.seq := rfl
@[simp] theorem Thread.setRegion_fence (t : Thread) (pc : DWord) : (t.setRegion pc).fence = t.fence := rfl
@[simp] theorem Thread.setRegion_mark (t : Thread) (pc : DWord) : (t.setRegion pc).mark = t.mark := rfl
@[simp] theorem Thread.setRegion_watching (t : Thread) (pc : DWord) : (t.setRegion pc).watching = t.watching := rfl
@[simp] theorem Thread.setRegion_debug (t : Thread) (pc : DWord) : (t.setRegion pc).debug = t.debug := rfl

/-! Updates of a core. -/

@[simp] theorem Core.setCrew_teams (c : Core) (sl : Nat) (x : Option Crew) : (c.setCrew sl x).teams = c.teams := by
  unfold Core.setCrew; split <;> rfl
@[simp] theorem Core.setCrew_banks (c : Core) (sl : Nat) (x : Option Crew) : (c.setCrew sl x).banks = c.banks := by
  unfold Core.setCrew; split <;> rfl
@[simp] theorem Core.setCrew_cache (c : Core) (sl : Nat) (x : Option Crew) : (c.setCrew sl x).cache = c.cache := by
  unfold Core.setCrew; split <;> rfl
@[simp] theorem Core.setCrew_victims (c : Core) (sl : Nat) (x : Option Crew) : (c.setCrew sl x).victims = c.victims := by
  unfold Core.setCrew; split <;> rfl
@[simp] theorem Core.setCrew_score (c : Core) (sl : Nat) (x : Option Crew) : (c.setCrew sl x).score = c.score := by
  unfold Core.setCrew; split <;> rfl
@[simp] theorem Core.setCrew_pend (c : Core) (sl : Nat) (x : Option Crew) : (c.setCrew sl x).pend = c.pend := by
  unfold Core.setCrew; split <;> rfl
@[simp] theorem Core.setCrew_tas (c : Core) (sl : Nat) (x : Option Crew) : (c.setCrew sl x).tas = c.tas := by
  unfold Core.setCrew; split <;> rfl
@[simp] theorem Core.setCrew_tasPoison (c : Core) (sl : Nat) (x : Option Crew) : (c.setCrew sl x).tasPoison = c.tasPoison := by
  unfold Core.setCrew; split <;> rfl
@[simp] theorem Core.setCrew_kept (c : Core) (sl : Nat) (x : Option Crew) : (c.setCrew sl x).kept = c.kept := by
  unfold Core.setCrew; split <;> rfl
@[simp] theorem Core.setCrew_handles (c : Core) (sl : Nat) (x : Option Crew) : (c.setCrew sl x).handles = c.handles := by
  unfold Core.setCrew; split <;> rfl
@[simp] theorem Core.setCrew_badHandles (c : Core) (sl : Nat) (x : Option Crew) : (c.setCrew sl x).badHandles = c.badHandles := by
  unfold Core.setCrew; split <;> rfl
@[simp] theorem Core.setCrew_rail (c : Core) (sl : Nat) (x : Option Crew) : (c.setCrew sl x).rail = c.rail := by
  unfold Core.setCrew; split <;> rfl
@[simp] theorem Core.setCrew_crTarget (c : Core) (sl : Nat) (x : Option Crew) : (c.setCrew sl x).crTarget = c.crTarget := by
  unfold Core.setCrew; split <;> rfl
@[simp] theorem Core.setCrew_crCount (c : Core) (sl : Nat) (x : Option Crew) : (c.setCrew sl x).crCount = c.crCount := by
  unfold Core.setCrew; split <;> rfl
@[simp] theorem Core.setCrew_finj (c : Core) (sl : Nat) (x : Option Crew) : (c.setCrew sl x).finj = c.finj := by
  unfold Core.setCrew; split <;> rfl
@[simp] theorem Core.setCrew_tolerant (c : Core) (sl : Nat) (x : Option Crew) : (c.setCrew sl x).tolerant = c.tolerant := by
  unfold Core.setCrew; split <;> rfl
@[simp] theorem Core.setCrew_vector (c : Core) (sl : Nat) (x : Option Crew) : (c.setCrew sl x).vector = c.vector := by
  unfold Core.setCrew; split <;> rfl
@[simp] theorem Core.setCrew_copies (c : Core) (sl : Nat) (x : Option Crew) : (c.setCrew sl x).copies = c.copies := by
  unfold Core.setCrew; split <;> rfl
@[simp] theorem Core.setCrew_oldCopies (c : Core) (sl : Nat) (x : Option Crew) : (c.setCrew sl x).oldCopies = c.oldCopies := by
  unfold Core.setCrew; split <;> rfl
@[simp] theorem Core.setCrew_engs (c : Core) (sl : Nat) (x : Option Crew) : (c.setCrew sl x).engs = c.engs := by
  unfold Core.setCrew; split <;> rfl
@[simp] theorem Core.setCrew_tlb (c : Core) (sl : Nat) (x : Option Crew) : (c.setCrew sl x).tlb = c.tlb := by
  unfold Core.setCrew; split <;> rfl
@[simp] theorem Core.setCrew_misses (c : Core) (sl : Nat) (x : Option Crew) : (c.setCrew sl x).misses = c.misses := by
  unfold Core.setCrew; split <;> rfl
@[simp] theorem Core.setCrew_bps (c : Core) (sl : Nat) (x : Option Crew) : (c.setCrew sl x).bps = c.bps := by
  unfold Core.setCrew; split <;> rfl
@[simp] theorem Core.setCrew_wps (c : Core) (sl : Nat) (x : Option Crew) : (c.setCrew sl x).wps = c.wps := by
  unfold Core.setCrew; split <;> rfl
@[simp] theorem Core.setCrew_events (c : Core) (sl : Nat) (x : Option Crew) : (c.setCrew sl x).events = c.events := by
  unfold Core.setCrew; split <;> rfl
@[simp] theorem Core.setCrew_eventsWaiting (c : Core) (sl : Nat) (x : Option Crew) : (c.setCrew sl x).eventsWaiting = c.eventsWaiting := by
  unfold Core.setCrew; split <;> rfl
@[simp] theorem Core.setCrew_hits (c : Core) (sl : Nat) (x : Option Crew) : (c.setCrew sl x).hits = c.hits := by
  unfold Core.setCrew; split <;> rfl
@[simp] theorem Core.setCrew_debug (c : Core) (sl : Nat) (x : Option Crew) : (c.setCrew sl x).debug = c.debug := by
  unfold Core.setCrew; split <;> rfl
@[simp] theorem Core.setCrew_caldera (c : Core) (sl : Nat) (x : Option Crew) : (c.setCrew sl x).caldera = c.caldera := by
  unfold Core.setCrew; split <;> rfl
@[simp] theorem Core.setCrew_badCaldera (c : Core) (sl : Nat) (x : Option Crew) : (c.setCrew sl x).badCaldera = c.badCaldera := by
  unfold Core.setCrew; split <;> rfl
@[simp] theorem Core.setCrew_quarantined (c : Core) (sl : Nat) (x : Option Crew) : (c.setCrew sl x).quarantined = c.quarantined := by
  unfold Core.setCrew; split <;> rfl
@[simp] theorem Core.setCrew_gated (c : Core) (sl : Nat) (x : Option Crew) : (c.setCrew sl x).gated = c.gated := by
  unfold Core.setCrew; split <;> rfl
@[simp] theorem Core.setCrew_masked (c : Core) (sl : Nat) (x : Option Crew) : (c.setCrew sl x).masked = c.masked := by
  unfold Core.setCrew; split <;> rfl
@[simp] theorem Core.setCrew_charged (c : Core) (sl : Nat) (x : Option Crew) : (c.setCrew sl x).charged = c.charged := by
  unfold Core.setCrew; split <;> rfl

@[simp] theorem Core.setBank_crews (c : Core) (k : Nat) (x : Bank) : (c.setBank k x).crews = c.crews := by
  unfold Core.setBank; split <;> rfl
@[simp] theorem Core.setBank_teams (c : Core) (k : Nat) (x : Bank) : (c.setBank k x).teams = c.teams := by
  unfold Core.setBank; split <;> rfl
@[simp] theorem Core.setBank_cache (c : Core) (k : Nat) (x : Bank) : (c.setBank k x).cache = c.cache := by
  unfold Core.setBank; split <;> rfl
@[simp] theorem Core.setBank_victims (c : Core) (k : Nat) (x : Bank) : (c.setBank k x).victims = c.victims := by
  unfold Core.setBank; split <;> rfl
@[simp] theorem Core.setBank_score (c : Core) (k : Nat) (x : Bank) : (c.setBank k x).score = c.score := by
  unfold Core.setBank; split <;> rfl
@[simp] theorem Core.setBank_pend (c : Core) (k : Nat) (x : Bank) : (c.setBank k x).pend = c.pend := by
  unfold Core.setBank; split <;> rfl
@[simp] theorem Core.setBank_tas (c : Core) (k : Nat) (x : Bank) : (c.setBank k x).tas = c.tas := by
  unfold Core.setBank; split <;> rfl
@[simp] theorem Core.setBank_tasPoison (c : Core) (k : Nat) (x : Bank) : (c.setBank k x).tasPoison = c.tasPoison := by
  unfold Core.setBank; split <;> rfl
@[simp] theorem Core.setBank_kept (c : Core) (k : Nat) (x : Bank) : (c.setBank k x).kept = c.kept := by
  unfold Core.setBank; split <;> rfl
@[simp] theorem Core.setBank_handles (c : Core) (k : Nat) (x : Bank) : (c.setBank k x).handles = c.handles := by
  unfold Core.setBank; split <;> rfl
@[simp] theorem Core.setBank_badHandles (c : Core) (k : Nat) (x : Bank) : (c.setBank k x).badHandles = c.badHandles := by
  unfold Core.setBank; split <;> rfl
@[simp] theorem Core.setBank_rail (c : Core) (k : Nat) (x : Bank) : (c.setBank k x).rail = c.rail := by
  unfold Core.setBank; split <;> rfl
@[simp] theorem Core.setBank_crTarget (c : Core) (k : Nat) (x : Bank) : (c.setBank k x).crTarget = c.crTarget := by
  unfold Core.setBank; split <;> rfl
@[simp] theorem Core.setBank_crCount (c : Core) (k : Nat) (x : Bank) : (c.setBank k x).crCount = c.crCount := by
  unfold Core.setBank; split <;> rfl
@[simp] theorem Core.setBank_finj (c : Core) (k : Nat) (x : Bank) : (c.setBank k x).finj = c.finj := by
  unfold Core.setBank; split <;> rfl
@[simp] theorem Core.setBank_tolerant (c : Core) (k : Nat) (x : Bank) : (c.setBank k x).tolerant = c.tolerant := by
  unfold Core.setBank; split <;> rfl
@[simp] theorem Core.setBank_vector (c : Core) (k : Nat) (x : Bank) : (c.setBank k x).vector = c.vector := by
  unfold Core.setBank; split <;> rfl
@[simp] theorem Core.setBank_copies (c : Core) (k : Nat) (x : Bank) : (c.setBank k x).copies = c.copies := by
  unfold Core.setBank; split <;> rfl
@[simp] theorem Core.setBank_oldCopies (c : Core) (k : Nat) (x : Bank) : (c.setBank k x).oldCopies = c.oldCopies := by
  unfold Core.setBank; split <;> rfl
@[simp] theorem Core.setBank_engs (c : Core) (k : Nat) (x : Bank) : (c.setBank k x).engs = c.engs := by
  unfold Core.setBank; split <;> rfl
@[simp] theorem Core.setBank_tlb (c : Core) (k : Nat) (x : Bank) : (c.setBank k x).tlb = c.tlb := by
  unfold Core.setBank; split <;> rfl
@[simp] theorem Core.setBank_misses (c : Core) (k : Nat) (x : Bank) : (c.setBank k x).misses = c.misses := by
  unfold Core.setBank; split <;> rfl
@[simp] theorem Core.setBank_bps (c : Core) (k : Nat) (x : Bank) : (c.setBank k x).bps = c.bps := by
  unfold Core.setBank; split <;> rfl
@[simp] theorem Core.setBank_wps (c : Core) (k : Nat) (x : Bank) : (c.setBank k x).wps = c.wps := by
  unfold Core.setBank; split <;> rfl
@[simp] theorem Core.setBank_events (c : Core) (k : Nat) (x : Bank) : (c.setBank k x).events = c.events := by
  unfold Core.setBank; split <;> rfl
@[simp] theorem Core.setBank_eventsWaiting (c : Core) (k : Nat) (x : Bank) : (c.setBank k x).eventsWaiting = c.eventsWaiting := by
  unfold Core.setBank; split <;> rfl
@[simp] theorem Core.setBank_hits (c : Core) (k : Nat) (x : Bank) : (c.setBank k x).hits = c.hits := by
  unfold Core.setBank; split <;> rfl
@[simp] theorem Core.setBank_debug (c : Core) (k : Nat) (x : Bank) : (c.setBank k x).debug = c.debug := by
  unfold Core.setBank; split <;> rfl
@[simp] theorem Core.setBank_caldera (c : Core) (k : Nat) (x : Bank) : (c.setBank k x).caldera = c.caldera := by
  unfold Core.setBank; split <;> rfl
@[simp] theorem Core.setBank_badCaldera (c : Core) (k : Nat) (x : Bank) : (c.setBank k x).badCaldera = c.badCaldera := by
  unfold Core.setBank; split <;> rfl
@[simp] theorem Core.setBank_quarantined (c : Core) (k : Nat) (x : Bank) : (c.setBank k x).quarantined = c.quarantined := by
  unfold Core.setBank; split <;> rfl
@[simp] theorem Core.setBank_gated (c : Core) (k : Nat) (x : Bank) : (c.setBank k x).gated = c.gated := by
  unfold Core.setBank; split <;> rfl
@[simp] theorem Core.setBank_masked (c : Core) (k : Nat) (x : Bank) : (c.setBank k x).masked = c.masked := by
  unfold Core.setBank; split <;> rfl
@[simp] theorem Core.setBank_charged (c : Core) (k : Nat) (x : Bank) : (c.setBank k x).charged = c.charged := by
  unfold Core.setBank; split <;> rfl

/-! Reading back. -/

@[simp] theorem State.core_setCore (s : State) (b b' : Nat) (c : Core) :
    (s.setCore b c).core b' = if b' = b ∧ b < 160 then c else s.core b' := by
  unfold State.setCore
  by_cases h : b < 160
  · rw [dif_pos h]
    unfold State.core
    by_cases e : b' = b
    · subst e; simp [h]
    · by_cases h' : b' < 160
      · simp [h', e, Ne.symm e]
      · simp [h', e]
  · rw [dif_neg h]; simp [h]

@[simp] theorem State.part_setPart (s : State) (b b' : Nat) (c : Partition) :
    (s.setPart b c).part b' = if b' = b ∧ b < 9 then c else s.part b' := by
  unfold State.setPart
  by_cases h : b < 9
  · rw [dif_pos h]
    unfold State.part
    by_cases e : b' = b
    · subst e; simp [h]
    · by_cases h' : b' < 9
      · simp [h', e, Ne.symm e]
      · simp [h', e]
  · rw [dif_neg h]; simp [h]

@[simp] theorem Core.crew_setCrew (s : Core) (b b' : Nat) (c : Option Crew) :
    (s.setCrew b c).crew b' = if b' = b ∧ b < 64 then c else s.crew b' := by
  unfold Core.setCrew
  by_cases h : b < 64
  · rw [dif_pos h]
    unfold Core.crew
    by_cases e : b' = b
    · subst e; simp [h]
    · by_cases h' : b' < 64
      · simp [h', e, Ne.symm e]
      · simp [h', e]
  · rw [dif_neg h]; simp [h]

@[simp] theorem Core.bank_setBank (s : Core) (b b' : Nat) (c : Bank) :
    (s.setBank b c).bank b' = if b' = b ∧ b < 48 then c else s.bank b' := by
  unfold Core.setBank
  by_cases h : b < 48
  · rw [dif_pos h]
    unfold Core.bank
    by_cases e : b' = b
    · subst e; simp [h]
    · by_cases h' : b' < 48
      · simp [h', e, Ne.symm e]
      · simp [h', e]
  · rw [dif_neg h]; simp [h]

@[simp] theorem Crew.thread_setThread (s : Crew) (b b' : Nat) (c : Thread) :
    (s.setThread b c).thread b' = if b' = b ∧ b < 32 then c else s.thread b' := by
  unfold Crew.setThread
  by_cases h : b < 32
  · rw [dif_pos h]
    unfold Crew.thread
    by_cases e : b' = b
    · subst e; simp [h]
    · by_cases h' : b' < 32
      · simp [h', e, Ne.symm e]
      · simp [h', e]
  · rw [dif_neg h]; simp [h]

@[simp] theorem Thread.reg_setReg (s : Thread) (b b' : Nat) (c : Reg) :
    (s.setReg b c).reg b' = if b' = b ∧ b < 64 then c else s.reg b' := by
  unfold Thread.setReg
  by_cases h : b < 64
  · rw [dif_pos h]
    unfold Thread.reg
    by_cases e : b' = b
    · subst e; simp [h]
    · by_cases h' : b' < 64
      · simp [h', e, Ne.symm e]
      · simp [h', e]
  · rw [dif_neg h]; simp [h]

@[simp] theorem State.core_modCore (s : State) (b b' : Nat) (f : Core → Core) :
    (s.modCore b f).core b' = if b' = b ∧ b < 160 then f (s.core b) else s.core b' :=
  s.core_setCore b b' _

@[simp] theorem State.part_modPart (s : State) (p p' : Nat) (f : Partition → Partition) :
    (s.modPart p f).part p' = if p' = p ∧ p < 9 then f (s.part p) else s.part p' :=
  s.part_setPart p p' _

@[simp] theorem Crew.thread_modThread (c : Crew) (l l' : Nat) (f : Thread → Thread) :
    (c.modThread l f).thread l' = if l' = l ∧ l < 32 then f (c.thread l) else c.thread l' :=
  c.thread_setThread l l' _

theorem State.crew_lt {s : State} {b sl : Nat} {c : Crew} (h : s.crew b sl = some c) : b < 160 ∧ sl < 64 := by
  unfold State.crew Core.crew at h
  by_cases hs : sl < 64
  · refine ⟨?_, hs⟩
    by_cases hb : b < 160
    · exact hb
    · simp [State.core, hb, hs] at h
  · simp [hs] at h

@[simp] theorem State.crew_setCrew (s : State) (b sl b' sl' : Nat) (x : Option Crew) :
    (s.setCrew b sl x).crew b' sl' = if b' = b ∧ sl' = sl ∧ b < 160 ∧ sl < 64 then x else s.crew b' sl' := by
  unfold State.setCrew State.crew
  rw [State.core_modCore]
  by_cases hb : b' = b ∧ b < 160
  · obtain ⟨rfl, h⟩ := hb
    simp [h]
  · rw [if_neg hb, if_neg]
    rintro ⟨h1, -, h2, -⟩
    exact hb ⟨h1, h2⟩

theorem Crew.thread_ofFn (c : Crew) (f : Fin 32 → Thread) (l : Nat) (h : l < 32) :
    ({ c with threads := Vector.ofFn f } : Crew).thread l = f ⟨l, h⟩ := by simp [Crew.thread, h]

/-- Predicate 0 reads 1 and discards writes (05 R92). -/
theorem Thread.pred_zero (t : Thread) : t.pred 0 = true := rfl
theorem Thread.setPred_zero (t : Thread) (v : Bool) : t.setPred 0 v = t := rfl

end Sys2Proof.Machine
end

