-- ==== Sys2Proof/Laws/Bundle.lean ====
section
/-! SUPPORT. What a bundle of register instructions comes to, once for all of them. -/

namespace Sys2Proof.Machine

/-- Lanes without a mark: nothing halts after the instruction. -/
theorem State.afterLanes_unmarked (s : State) (b sl : Nat) (lanes : List Nat)
    (h : ∀ l ∈ lanes, (s.thread b sl l).haltMark = false ∧ (s.thread b sl l).stepMark = false) :
    s.afterLanes b sl lanes = s := by
  have : (lanes.filter fun l => ((s.thread b sl l).stepMark || (s.core b).debug && (s.thread b sl l).haltMark) &&
      (s.thread b sl l).st == .runnable) = [] := by
    rw [List.filter_eq_nil_iff]
    intro l hl
    simp [h l hl]
  unfold State.afterLanes
  simp only [this]
  rfl

theorem Crew.thread_regBundle (c : Crew) (pair : Bool) (lanes : List Nat) (next : DWord) (out : Nat → Thread → RegOut)
    (l : Nat) (h : l < 32) :
    (c.regBundle pair lanes next out).thread l =
      if lanes.contains l then (c.thread l).afterReg next (out l (c.thread l))
      else if pair && l % 2 == 1 && lanes.contains (l - 1) then
        (c.thread l).shadowReg (c.thread (l - 1)) ((c.thread (l - 1)).afterReg next (out (l - 1) (c.thread (l - 1))))
          (out (l - 1) (c.thread (l - 1))) (out l (c.thread l))
      else c.thread l := by
  unfold Crew.regBundle
  rw [Crew.thread_ofFn _ _ _ h]
  simp [Crew.thread, h]

theorem RegForm.lane_pass (f : RegForm) (o : Enc) (l : Nat) (t : Thread)
    (h : Operable o f.short (f.more t ++ f.srcs) f.dst f.preds t) (hg : o.guard f.short t = false) : f.lane o l t = .pass := by
  unfold RegForm.lane
  rw [if_neg, if_pos (by simp [hg])]
  simp only [List.any_eq_true, not_exists, not_and, List.contains_iff_mem]
  exact h.1

theorem RegForm.lane_done (f : RegForm) (o : Enc) (l : Nat) (t u : Thread)
    (h : Operable o f.short (f.more t ++ f.srcs) f.dst f.preds t) (hg : o.guard f.short t = true) (hu : f.body l t = .inl u) :
    f.lane o l t = .done u := by
  unfold RegForm.lane
  rw [if_neg, if_neg (by simp [hg]), h.2 hg, hu]
  simp only [List.any_eq_true, not_exists, not_and, List.contains_iff_mem]
  exact h.1

/-- The spec of every register instruction: from what its form does in one lane, what it does in a bundle. -/
theorem regInstr_runsWhen (pre : State → Cur → Prop) (i : Instr) (o : Enc) (f : RegForm) (can : Thread → Prop)
    (res : Nat → Thread → Thread → Prop) (he : ∀ s cur, s.cur = some cur → pre s cur → exec i s = .next (s.regInstr o f))
    (hb : ∀ l t, can t → operandFate t (f.more t ++ f.srcs) f.dst f.preds = .ready → ∃ u, f.body l t = .inl u ∧ res l t u ∧
      u.haltMark = t.haltMark ∧ u.stepMark = t.stepMark) :
    RunsWhen pre i o f.short (fun t => f.more t ++ f.srcs) f.dst f.preds can res := by
  intro s cur c hat hpre hop
  obtain ⟨hcur, hcrew, hl⟩ := hat
  have hlt := State.crew_lt hcrew
  have hlane : ∀ l < 32, TakesPart (s.hdrOf cur.core cur.slot).pair cur.lanes l →
      f.lane o l (c.thread l) = .pass ∧ o.guard f.short (c.thread l) = false ∨
      ∃ u, f.lane o l (c.thread l) = .done u ∧ o.guard f.short (c.thread l) = true ∧ res l (c.thread l) u ∧
        u.haltMark = (c.thread l).haltMark ∧ u.stepMark = (c.thread l).stepMark := by
    intro l h ht
    obtain ⟨hO, hcan⟩ := hop l h ht
    cases hg : o.guard f.short (c.thread l)
    · exact .inl ⟨f.lane_pass o l _ hO hg, rfl⟩
    · obtain ⟨u, hu, hr⟩ := hb l _ hcan (hO.2 hg)
      exact .inr ⟨u, f.lane_done o l _ u hO hg hu, rfl, hr⟩
  refine ⟨c.regBundle (s.hdrOf cur.core cur.slot).pair cur.lanes (cur.pc + BitVec.ofNat 64 o.bytes) (f.lane o), ?_, rfl, ?_⟩
  · rw [he s cur hcur hpre]
    have hlost : (cur.lanes.any fun l => match f.lane o l (c.thread l) with
        | .trap _ => !(c.thread l).handles
        | _ => false) = false := by
      rw [List.any_eq_false]
      intro l hm
      rcases hlane l (hl l hm).1 (.inl hm) with ⟨h, -⟩ | ⟨u, h, -⟩ <;> simp [h]
    simp only [State.regInstr, hcur, hcrew]
    rw [if_neg (by rw [Bool.not_eq_true]; exact hlost), State.afterLanes_unmarked]
    intro l hm
    obtain ⟨h32, hh, hs, -⟩ := hl l hm
    simp only [State.thread, State.crew_setCrew, hlt, and_self, ↓reduceIte]
    rw [Crew.thread_regBundle _ _ _ _ _ _ h32, if_pos (by simpa using hm)]
    rcases hlane l h32 (.inl hm) with ⟨h, -⟩ | ⟨u, h, -, -, h1, h2⟩
    · simp [h, Thread.afterReg, hh, hs]
    · simp [h, Thread.afterReg, h1, h2, hh, hs]
  · intro l h32
    rw [Crew.thread_regBundle _ _ _ _ _ _ h32]
    have hacts : acts o f.short c cur.lanes l = (o.guard f.short (c.thread l) &&
        (cur.lanes.contains l || o.guard f.short (c.thread (l - 1)))) := rfl
    constructor
    · intro hn
      have h1 : ¬ (cur.lanes.contains l = true) := fun h => hn (.inl (by simpa using h))
      have h2 : ¬ (((s.hdrOf cur.core cur.slot).pair && l % 2 == 1 && cur.lanes.contains (l - 1)) = true) := by
        intro h
        simp only [Bool.and_eq_true, beq_iff_eq, List.contains_iff_mem] at h
        exact hn (.inr ⟨h.1.1, h.1.2, h.2⟩)
      rw [if_neg h1, if_neg h2]
    · intro ht
      by_cases hm : l ∈ cur.lanes
      · have h1 : cur.lanes.contains l = true := by simpa using hm
        rcases hlane l h32 ht with ⟨h, hg⟩ | ⟨u, h, hg, hr, -⟩
        · simp [hacts, hg, h, hm, Thread.afterReg]
        · simp only [hacts, hg, h1, h, Bool.true_or, Bool.and_self, ↓reduceIte]
          exact ⟨u, hr, rfl⟩
      · obtain ⟨hp, hodd, hv⟩ := ht.resolve_left hm
        have h1 : cur.lanes.contains l = false := by simpa using hm
        have h2 : ((s.hdrOf cur.core cur.slot).pair && l % 2 == 1 && cur.lanes.contains (l - 1)) = true := by
          simp [hp, hodd, hv]
        have hv32 := (hl _ hv).1
        simp only [hacts, h1, h2, Bool.false_or, Bool.false_eq_true, ↓reduceIte]
        rcases hlane _ hv32 (.inl hv) with ⟨h, hg⟩ | ⟨v, h, hg, -⟩
        · simp [hg, h, Thread.afterReg, Thread.shadowReg, Thread.goto]
        · rcases hlane l h32 ht with ⟨h', hg'⟩ | ⟨u, h', hg', hr, -⟩
          · simp [hg', h, h', Thread.afterReg, Thread.shadowReg, Thread.goto]
          · simp only [hg, hg', h, h', Bool.and_self, ↓reduceIte]
            exact ⟨u, hr, rfl⟩

theorem regInstr_runs (i : Instr) (o : Enc) (f : RegForm) (can : Thread → Prop) (res : Nat → Thread → Thread → Prop)
    (he : ∀ s, exec i s = .next (s.regInstr o f))
    (hb : ∀ l t, can t → operandFate t (f.more t ++ f.srcs) f.dst f.preds = .ready → ∃ u, f.body l t = .inl u ∧ res l t u ∧
      u.haltMark = t.haltMark ∧ u.stepMark = t.stepMark) :
    RunsOnRegisters i o f.short (fun t => f.more t ++ f.srcs) f.dst f.preds can res :=
  regInstr_runsWhen _ i o f can res (fun s _ _ _ => he s) hb

end Sys2Proof.Machine
end

