-- ==== Sys2Proof/Laws/Memory.lean ====
section
/-! SUPPORT. The memories: reading after writing, and the canonical form that every memory operation keeps (log entry 3). -/

namespace Sys2Proof.Machine

/-! Reading after writing. -/

@[simp] theorem memGet_nil (x : Nat) : memGet [] x = 0 := rfl

/-- Every address of a list in canonical form lies above `k`. -/
def Memory.above (k : Nat) (m : List Host.Cell) : Prop := ∀ e ∈ m, k < e.1

theorem Memory.wf_cons (a : Nat) (b : Byte) (r : List Host.Cell) :
    Memory.wf ((a, b) :: r) = true ↔ b ≠ 0 ∧ Memory.above a r ∧ Memory.wf r = true := by
  induction r generalizing a b with
  | nil => simp [Memory.wf, Memory.above]
  | cons e r ih =>
    obtain ⟨a', b'⟩ := e
    simp only [Memory.wf, Bool.and_eq_true, bne_iff_ne, ne_eq, decide_eq_true_eq, and_assoc]
    refine and_congr_right fun _ => ?_
    constructor
    · rintro ⟨h, w⟩
      have := (ih a' b').mp w
      refine ⟨?_, w⟩
      intro e he
      rcases List.mem_cons.mp he with rfl | he
      · exact h
      · exact Nat.lt_trans h (this.2.1 e he)
    · rintro ⟨h, w⟩
      exact ⟨h (a', b') (by simp), w⟩

theorem memGet_above {k : Nat} {m : List Host.Cell} (h : Memory.above k m) {x : Nat} (hx : x ≤ k) : memGet m x = 0 := by
  induction m with
  | nil => rfl
  | cons e r ih =>
    obtain ⟨a, b⟩ := e
    have : k < a := h (a, b) (by simp)
    rw [memGet, if_neg (by omega)]
    exact ih fun e he => h e (by simp [he])

theorem memSet_above {k : Nat} {m : List Host.Cell} (h : Memory.above k m) {x : Nat} (hx : k < x) (v : Byte) :
    Memory.above k (memSet m x v) := by
  induction m with
  | nil => unfold memSet; split <;> simp [Memory.above, hx]
  | cons e r ih =>
    obtain ⟨a, b⟩ := e
    have ha : k < a := h (a, b) (by simp)
    have hr : Memory.above k r := fun e he => h e (by simp [he])
    intro e he
    unfold memSet at he
    split at he
    · split at he
      · exact h e he
      · rcases List.mem_cons.mp he with rfl | he
        · exact hx
        · exact h e he
    · split at he
      · split at he
        · exact hr e he
        · rcases List.mem_cons.mp he with rfl | he
          · exact hx
          · exact hr e he
      · rcases List.mem_cons.mp he with rfl | he
        · exact ha
        · exact ih hr e he

/-- Writing one byte keeps the canonical form. -/
theorem memSet_wf {m : List Host.Cell} (h : Memory.wf m = true) (x : Nat) (v : Byte) : Memory.wf (memSet m x v) = true := by
  induction m with
  | nil => unfold memSet; split <;> simp_all [Memory.wf]
  | cons e r ih =>
    obtain ⟨a, b⟩ := e
    have ⟨hb, ha, hr⟩ := (Memory.wf_cons a b r).mp h
    unfold memSet
    split
    · split
      · exact h
      · refine (Memory.wf_cons x v _).mpr ⟨‹_›, ?_, h⟩
        intro e he
        rcases List.mem_cons.mp he with rfl | he
        · assumption
        · exact Nat.lt_trans (by assumption : x < a) (ha e he)
    · split
      · rename_i hxa
        subst hxa
        split
        · exact hr
        · exact (Memory.wf_cons x v r).mpr ⟨‹_›, ha, hr⟩
      · exact (Memory.wf_cons a b _).mpr ⟨hb, memSet_above ha (by omega) v, ih hr⟩

/-- Writing bytes keeps the canonical form. -/
theorem memWrite_wf (d : List Byte) {m : List Host.Cell} (h : Memory.wf m = true) (x : Nat) : Memory.wf (memWrite m x d) = true := by
  induction d generalizing m x with
  | nil => exact h
  | cons b d ih => exact ih (memSet_wf h x b) (x + 1)

/-- A byte reads as it was written, and every other byte as before. -/
theorem memGet_memSet {m : List Host.Cell} (h : Memory.wf m = true) (x : Nat) (v : Byte) (y : Nat) :
    memGet (memSet m x v) y = if y = x then v else memGet m y := by
  induction m with
  | nil =>
    unfold memSet
    split
    · simp_all
    · simp [memGet]
  | cons e r ih =>
    obtain ⟨a, b⟩ := e
    have ⟨hb, ha, hr⟩ := (Memory.wf_cons a b r).mp h
    have hw : Memory.wf ((a, b) :: r) = true := h
    unfold memSet
    split
    · rename_i hxa
      split
      · rename_i hv
        split
        · rename_i hy
          subst hy
          rw [memGet, if_neg (by omega), memGet_above ha (by omega), hv]
        · rfl
      · rfl
    · split
      · rename_i hxa
        subst hxa
        split
        · rename_i hv
          rw [memGet]
          split
          · rename_i hy
            rw [hy, memGet_above ha (Nat.le_refl _), hv]
          · rfl
        · rw [memGet, memGet]
          split <;> rfl
      · rw [memGet, ih hr, memGet]
        split
        · rename_i hy
          subst hy
          rw [if_neg (by omega)]
        · rfl

/-- The bytes written read back, and every byte outside them reads as before. -/
theorem memGet_memWrite (d : List Byte) {m : List Host.Cell} (h : Memory.wf m = true) (x y : Nat) :
    memGet (memWrite m x d) y = if x ≤ y ∧ y < x + d.length then (d[y - x]?).getD 0 else memGet m y := by
  induction d generalizing m x with
  | nil =>
    rw [if_neg (by simp only [List.length_nil]; omega)]
    rfl
  | cons b d ih =>
    rw [memWrite, ih (memSet_wf h x b), memGet_memSet h]
    simp only [List.length_cons]
    by_cases h1 : x + 1 ≤ y ∧ y < x + 1 + d.length
    · rw [if_pos h1, if_pos (by omega)]
      have : y - x = (y - (x + 1)) + 1 := by omega
      rw [this, List.getElem?_cons_succ]
    · rw [if_neg h1]
      by_cases h2 : y = x
      · subst h2
        rw [if_pos rfl, if_pos (by omega)]
        simp
      · rw [if_neg h2, if_neg (by omega)]

/-- Memories in canonical form that read alike are equal. -/
theorem Memory.ext_wf {m n : List Host.Cell} (hm : Memory.wf m = true) (hn : Memory.wf n = true) (h : ∀ x, memGet m x = memGet n x) :
    m = n := by
  induction m generalizing n with
  | nil =>
    cases n with
    | nil => rfl
    | cons e r =>
      obtain ⟨a, b⟩ := e
      have ⟨hb, _, _⟩ := (Memory.wf_cons a b r).mp hn
      have := h a
      simp [memGet] at this
      exact absurd this.symm hb
  | cons e r ih =>
    obtain ⟨a, b⟩ := e
    have ⟨hb, ha, hr⟩ := (Memory.wf_cons a b r).mp hm
    cases n with
    | nil =>
      have := h a
      simp [memGet] at this
      exact absurd this hb
    | cons e' r' =>
      obtain ⟨a', b'⟩ := e'
      have ⟨hb', ha', hr'⟩ := (Memory.wf_cons a' b' r').mp hn
      have haa : a = a' := by
        rcases Nat.lt_trichotomy a a' with hl | he | hl
        · have := h a
          rw [memGet, if_pos rfl, memGet, if_neg (by omega), memGet_above ha' (by omega)] at this
          exact absurd this hb
        · exact he
        · have := h a'
          rw [memGet, if_neg (by omega), memGet_above ha (by omega), memGet, if_pos rfl] at this
          exact absurd this.symm hb'
      subst haa
      have hbb : b = b' := by simpa [memGet] using h a
      subst hbb
      congr 1
      refine ih hr hr' fun x => ?_
      by_cases hx : x ≤ a
      · rw [memGet_above ha hx, memGet_above ha' hx]
      · have := h x
        rwa [memGet, if_neg (by omega), memGet, if_neg (by omega)] at this

@[simp] theorem memRead_length (m : List Host.Cell) (x n : Nat) : (memRead m x n).length = n := by
  induction n generalizing x with
  | zero => rfl
  | succ n ih => simp [memRead, ih]

theorem memRead_getElem? (m : List Host.Cell) (x n i : Nat) (h : i < n) : (memRead m x n)[i]? = some (memGet m (x + i)) := by
  induction n generalizing x i with
  | zero => omega
  | succ n ih =>
    cases i with
    | zero => simp [memRead]
    | succ i =>
      rw [memRead, List.getElem?_cons_succ, ih (x + 1) i (by omega)]
      congr 2
      omega

/-! The operations of the state. -/

/-- What every step of a fold keeps, the fold keeps. -/
theorem State.foldl_keeps {α : Type} {P : State → Prop} {f : State → α → State} (hf : ∀ s a, P s → P (f s a)) {s : State} (l : List α)
    (h : P s) : P (l.foldl f s) := by
  induction l generalizing s with
  | nil => exact h
  | cons a l ih => exact ih (hf s a h)

theorem State.homePut_mem_wf {s : State} (h : Memory.wf s.mem = true) (part pa : Nat) (data : List Byte) :
    Memory.wf (s.homePut part pa data).mem = true := by
  unfold State.homePut
  simp only
  split
  · rwa [State.count_mem]
  · refine memWrite_wf _ ?_ _
    refine State.foldl_keeps (P := fun s => Memory.wf s.mem = true) ?_ _ h
    intro s u h
    split
    · exact h
    · dsimp only
      generalize (List.range 128).map _ = d
      exact memWrite_wf d h (u * 128)

theorem State.homePut_hostMem (s : State) (part pa : Nat) (data : List Byte) : (s.homePut part pa data).hostMem = s.hostMem := by
  unfold State.homePut
  simp only
  split
  · exact State.count_hostMem ..
  · refine State.foldl_keeps (P := fun t => t.hostMem = s.hostMem) ?_ _ rfl
    intro t u h
    split <;> exact h

/-! The lines of L2 and their records: a line that leaves may put back what HBM4 held of it, and nothing else moves. -/

/-- Global memory keeps its canonical form, and host memory is the same. -/
def State.KeepsMem (s t : State) : Prop := (Memory.wf s.mem = true → Memory.wf t.mem = true) ∧ t.hostMem = s.hostMem

theorem State.KeepsMem.same (s : State) : s.KeepsMem s := ⟨id, rfl⟩
theorem State.KeepsMem.of_eq {s t : State} (h : t.mem = s.mem) (g : t.hostMem = s.hostMem) : s.KeepsMem t := ⟨fun w => by rwa [h], g⟩
theorem State.KeepsMem.trans {s t u : State} (h : s.KeepsMem t) (g : t.KeepsMem u) : s.KeepsMem u :=
  ⟨fun w => g.1 (h.1 w), g.2.trans h.2⟩

theorem State.foldl_keepsMem {α : Type} {f : State → α → State} (hf : ∀ (s : State) (a : α), s.KeepsMem (f s a)) (s : State) (l : List α) :
    s.KeepsMem (l.foldl f s) :=
  State.foldl_keeps (P := fun t => s.KeepsMem t) (fun t a h => h.trans (hf t a)) l (.same s)

theorem State.clearOwned_keepsMem (s : State) (core line : Nat) : s.KeepsMem (s.clearOwned core line) :=
  .of_eq (by simp [State.clearOwned]) (by simp [State.clearOwned])

theorem State.modL2_keepsMem (s : State) (ln : Nat) (f : L2Line → L2Line) : s.KeepsMem (s.modL2 ln f) := .of_eq rfl rfl
theorem State.soil_keepsMem (s : State) (ln : Nat) : s.KeepsMem (s.soil ln) := s.modL2_keepsMem ..
theorem State.freeCode_keepsMem (s : State) (pa n : Nat) : s.KeepsMem (s.freeCode pa n) := .of_eq rfl rfl

theorem State.disown_keepsMem (s : State) (ln : Nat) : s.KeepsMem (s.disown ln) :=
  State.foldl_keepsMem (fun s d => s.clearOwned_keepsMem d ln) s _

theorem State.writeBack_keepsMem (s : State) (o : L2Line) : s.KeepsMem (s.writeBack o) := by
  unfold State.writeBack
  split
  · exact .same s
  · split
    · exact .of_eq rfl rfl
    · exact ⟨fun w => memWrite_wf _ w _, rfl⟩

theorem State.leaveL2_keepsMem (s : State) (ln : Nat) : s.KeepsMem (s.leaveL2 ln) :=
  (State.foldl_keepsMem State.writeBack_keepsMem s _).trans (State.disown_keepsMem _ ln)

theorem State.l2Fill_keepsMem (s : State) (key ln : Nat) : s.KeepsMem (s.l2Fill key ln) := by
  unfold State.l2Fill
  simp only
  split
  · exact .same s
  · refine State.KeepsMem.trans (s.leaveL2_keepsMem ln) ?_
    split
    · exact .of_eq rfl rfl
    · split
      · exact State.leaveL2_keepsMem ..
      · exact .of_eq rfl rfl

theorem State.dropLines_keepsMem (s : State) (a n : Nat) : s.KeepsMem (s.dropLines a n) := State.foldl_keepsMem State.leaveL2_keepsMem s _

theorem State.claimLine_keepsMem (s : State) (c line : Nat) : s.KeepsMem (s.claimLine c line).1 := by
  unfold State.claimLine
  repeat' split
  all_goals exact .of_eq rfl rfl

theorem State.own_keepsMem (s : State) (c key line : Nat) (mask : Word) : s.KeepsMem (s.own c key line mask) :=
  ((s.l2Fill_keepsMem key line).trans (State.soil_keepsMem ..)).trans (State.modL2_keepsMem ..)

theorem State.homePut_keepsMem (s : State) (part pa : Nat) (data : List Byte) : s.KeepsMem (s.homePut part pa data) :=
  ⟨fun h => State.homePut_mem_wf h .., s.homePut_hostMem ..⟩

/-- Bytes put into L2. -/
theorem State.l2Put_keepsMem (s : State) (part pa : Nat) (data : List Byte) : s.KeepsMem (s.l2Put part pa data) := by
  unfold State.l2Put
  refine State.KeepsMem.trans ?_ (State.homePut_keepsMem ..)
  split
  · exact State.foldl_keepsMem (fun s ln => (s.l2Fill_keepsMem _ ln).trans (State.soil_keepsMem ..)) s _
  · exact .same s

/-- A walker's write, or the MP's, likewise. -/
theorem State.mpPut_keepsMem (s : State) (part pa : Nat) (data : List Byte) : s.KeepsMem (s.mpPut part pa data) :=
  ((s.freeCode_keepsMem pa data.length).trans (State.foldl_keepsMem
    (fun (s : State) ln => (s.disown_keepsMem ln).trans (State.modL2_keepsMem ..)) _ _)).trans (State.l2Put_keepsMem ..)

/-- A write at a physical address keeps both memories in canonical form. -/
theorem State.writePa_wf {s : State} (h : Memory.wf s.mem = true) (g : Memory.wf s.hostMem = true) (part pa : Nat) (data : List Byte) :
    Memory.wf (s.writePa part pa data).1.mem = true ∧ Memory.wf (s.writePa part pa data).1.hostMem = true := by
  unfold State.writePa
  split
  · split
    · exact ⟨h, g⟩
    · exact ⟨h, memWrite_wf _ g _⟩
  · have e := (s.dropLines_keepsMem (paAddr pa) data.length).trans (State.l2Put_keepsMem _ part pa data)
    exact ⟨e.1 h, by rw [e.2]; exact g⟩

/-- A write that arrives at its home, whether or not it must wait. -/
theorem State.register_keepsMem (s : State) (part c pa : Nat) (data : List Byte) : s.KeepsMem (s.register part c pa data).1 := by
  have fold : ∀ (l : List Nat) (acc : State × Bool), s.KeepsMem acc.1 →
      s.KeepsMem (l.foldl (fun (acc : State × Bool) ln => let (s, ok) := acc.1.claimLine c ln; (s, acc.2 && ok)) acc).1 := by
    intro l
    induction l with
    | nil => exact fun _ h => h
    | cons ln l ih => exact fun acc h => ih _ (h.trans (State.claimLine_keepsMem ..))
  unfold State.register
  simp only
  split
  · exact State.homePut_keepsMem ..
  · have e := fold ((List.range data.length).map fun i => (paAddr pa + i) / 128).eraseDups (s, true) (.same s)
    split
    · exact e
    · exact (e.trans (State.foldl_keepsMem (fun s ln => s.own_keepsMem ..) _ _)).trans (State.homePut_keepsMem ..)

theorem State.spadWrite_mem_wf {s : State} {b k : Nat} (h : Memory.wf (s.bank b k).mem = true) (off : Nat) (data : List Byte) :
    Memory.wf (memWrite (s.bank b k).mem off data) = true := memWrite_wf _ h _

theorem State.placeProgram_mem_wf {s : State} (h : Memory.wf s.mem = true) (bytes : List Byte) :
    Memory.wf (s.placeProgram bytes).mem = true := by
  have : (s.placeProgram bytes).mem = memWrite s.mem programAt bytes := by
    unfold State.placeProgram State.modCore State.setCore State.modPart State.setPart
    simp only
    split <;> split <;> rfl
  rw [this]
  exact memWrite_wf _ h _

theorem State.reset_mem_wf : Memory.wf State.reset.mem = true := rfl
theorem State.reset_hostMem_wf : Memory.wf State.reset.hostMem = true := rfl

end Sys2Proof.Machine
end

