-- ==== Sys2Proof/Laws/Operands.lean ====
section
/-! SUPPORT. Operands as the statements name them. -/

namespace Sys2Proof.Machine

@[simp] theorem regA_value (o : Enc) (wide : Bool) (w : Want) (t : Thread) : ((o.regA wide w).value t).toNat = valA o wide t := rfl

@[simp] theorem litB_value (o : Enc) (wide : Bool) (w : Want) (t : Thread) : ((o.litB wide w).value t).toNat = valB o wide t := by
  unfold Enc.litB valB
  split <;> rfl

@[simp] theorem litA_value (o : Enc) (wide : Bool) (w : Want) (t : Thread) : ((o.litA wide w).value t).toNat = valLitA o wide t := by
  unfold Enc.litA valLitA
  split <;> rfl

@[simp] theorem regC_value (o : Enc) (wide : Bool) (w : Want) (t : Thread) : ((o.regC wide w).value t).toNat = valC o wide t := by
  unfold Enc.regC valC
  split <;> rfl

/-- The spec of an instruction whose form writes D and nothing else. -/
theorem regInstr_writes (i : Instr) (o : Enc) (f : RegForm) (r : Nat) (wide : Bool) (v : Thread → DWord) (g : Thread → Tag)
    (res : Nat → Thread → Thread → Prop) (he : ∀ s, exec i s = .next (s.regInstr o f))
    (hf : ∀ l t, f.body l t = .inl (t.write r wide (v t) (g t)))
    (hr : ∀ l t, operandFate t (f.more t ++ f.srcs) f.dst f.preds = .ready → res l t (t.write r wide (v t) (g t))) :
    RunsOnRegisters i o f.short (fun t => f.more t ++ f.srcs) f.dst f.preds always res :=
  regInstr_runs i o f always res he fun l t _ hrd => ⟨_, hf l t, hr l t hrd, by simp, by simp⟩

/-! The shared forms of integer instructions. -/

theorem binForm_runs (i : Instr) (o : Enc) (dflt : Tag) (short : Bool) (g : Tag → Nat → Nat → Nat)
    (res : Nat → Thread → Thread → Prop) (he : ∀ s, exec i s = .next (s.regInstr o (binForm o dflt short g)))
    (hr : ∀ l t, res l t (t.write o.d.toNat (o.fmt dflt).wide
      (BitVec.ofNat 64 (g (o.fmt dflt) (valA o (o.fmt dflt).wide t) (valB o (o.fmt dflt).wide t))) (o.fmt dflt))) :
    RunsOnRegisters i o short (opsAB o (o.fmt dflt)) (dstD o (o.fmt dflt)) [] always res :=
  regInstr_writes i o (binForm o dflt short g) _ _ _ _ res he (fun _ _ => rfl) fun l t _ => by
    simpa only [regA_value, litB_value] using hr l t

theorem triForm_runs (i : Instr) (o : Enc) (dflt : Tag) (short : Bool) (g : Tag → Nat → Nat → Nat → Nat)
    (res : Nat → Thread → Thread → Prop) (he : ∀ s, exec i s = .next (s.regInstr o (triForm o dflt short g)))
    (hr : ∀ l t, res l t (t.write o.d.toNat (o.fmt dflt).wide (BitVec.ofNat 64 (g (o.fmt dflt) (valA o (o.fmt dflt).wide t)
      (valB o (o.fmt dflt).wide t) (valC o (o.fmt dflt).wide t))) (o.fmt dflt))) :
    RunsOnRegisters i o short (opsABC o (o.fmt dflt)) (dstD o (o.fmt dflt)) [] always res :=
  regInstr_writes i o (triForm o dflt short g) _ _ _ _ res he (fun _ _ => rfl) fun l t _ => by
    simpa only [regA_value, litB_value, regC_value] using hr l t

theorem unForm_runs (i : Instr) (o : Enc) (dflt : Tag) (g : Tag → Nat → Nat)
    (res : Nat → Thread → Thread → Prop) (he : ∀ s, exec i s = .next (s.regInstr o (unForm o dflt g)))
    (hr : ∀ l t, res l t (t.write o.d.toNat (o.fmt dflt).wide
      (BitVec.ofNat 64 (g (o.fmt dflt) (valLitA o (o.fmt dflt).wide t))) (o.fmt dflt))) :
    RunsOnRegisters i o true (opsA o (o.fmt dflt)) (dstD o (o.fmt dflt)) [] always res :=
  regInstr_writes i o (unForm o dflt g) _ _ _ _ res he (fun _ _ => rfl) fun l t _ => by
    simpa only [litA_value] using hr l t

theorem shiftForm_runs (i : Instr) (o : Enc) (g : Tag → Nat → Nat → Nat)
    (res : Nat → Thread → Thread → Prop) (he : ∀ s, exec i s = .next (s.regInstr o (shiftForm o g)))
    (hr : ∀ l t, res l t (t.write o.d.toNat (o.fmt .n32).wide
      (BitVec.ofNat 64 (g (o.fmt .n32) (valA o (o.fmt .n32).wide t) (valB o false t))) (o.fmt .n32))) :
    RunsOnRegisters i o true (opsAn o (o.fmt .n32)) (dstD o (o.fmt .n32)) [] always res :=
  regInstr_writes i o (shiftForm o g) _ _ _ _ res he (fun _ _ => rfl) fun l t _ => by
    simpa only [regA_value, litB_value] using hr l t

theorem bitCountForm_runs (i : Instr) (o : Enc) (g : Nat → Nat → Nat)
    (res : Nat → Thread → Thread → Prop) (he : ∀ s, exec i s = .next (s.regInstr o (bitCountForm o g)))
    (hr : ∀ l t, res l t (t.write o.d.toNat false
      (BitVec.ofNat 64 (g (o.fmt .n32).elemBits (valLitA o (o.fmt .n32).wide t))) .n32)) :
    RunsOnRegisters i o true (opsA o (o.fmt .n32)) (some (o.d.toNat, false)) [] always res :=
  regInstr_writes i o (bitCountForm o g) _ _ _ _ res he (fun _ _ => rfl) fun l t _ => by
    simpa only [litA_value] using hr l t

/-! Bounds of operand values. -/

theorem Thread.value_lt (t : Thread) (r : Nat) (wide : Bool) : (t.value r wide).toNat < 2 ^ (if wide then 64 else 32) := by
  cases wide
  · simp only [Thread.value, Bool.false_eq_true, ↓reduceIte, BitVec.toNat_setWidth]
    exact Nat.lt_of_le_of_lt (Nat.mod_le _ _) (t.reg r).val.isLt
  · exact (t.value r true).isLt

theorem litVal_lt (o : Enc) (wide : Bool) : (o.litVal wide).toNat < 2 ^ (if wide then 64 else 32) := by
  cases wide
  · simp only [Enc.litVal, Bool.false_eq_true, ↓reduceIte, BitVec.toNat_and]
    exact Nat.lt_of_le_of_lt Nat.and_le_right (by decide)
  · exact (o.litVal true).isLt

theorem valA_lt (o : Enc) (wide : Bool) (t : Thread) : valA o wide t < 2 ^ (if wide then 64 else 32) := t.value_lt _ _
theorem valB_lt (o : Enc) (wide : Bool) (t : Thread) : valB o wide t < 2 ^ (if wide then 64 else 32) := by
  unfold valB; split
  · exact litVal_lt o wide
  · exact t.value_lt _ _
theorem valC_lt (o : Enc) (wide : Bool) (t : Thread) : valC o wide t < 2 ^ (if wide then 64 else 32) := t.value_lt _ _
theorem valLitA_lt (o : Enc) (wide : Bool) (t : Thread) : valLitA o wide t < 2 ^ (if wide then 64 else 32) := by
  unfold valLitA; split
  · exact litVal_lt o wide
  · exact t.value_lt _ _

/-- The formats W of 07 R128 hold one element of their register's width. -/
theorem setW_bits (f : Tag) (h : f ∈ Encoding.setW) : f.elemBits = (if f.wide then 64 else 32) ∧ f.count = 1 := by
  simp only [Encoding.setW, List.mem_cons, List.not_mem_nil, or_false] at h
  rcases h with rfl | rfl | rfl | rfl <;> decide
theorem setL_bits (f : Tag) (h : f ∈ Encoding.setL) : f.elemBits = (if f.wide then 64 else 32) := by
  simp only [Encoding.setL, List.mem_cons, List.not_mem_nil, or_false] at h
  rcases h with rfl | rfl | rfl | rfl | rfl <;> decide

end Sys2Proof.Machine
end

