-- ==== Sys2Proof/Laws/PerInstr.lean ====
section
/-! SUPPORT. What holds of each instruction as syntax: its place in the opcode map, and that its words name it. -/

open Sys2Proof

/-- An instruction of a program has an opcode of one byte that the map assigns, and where it is well-formed its opcode and fields name it
alone; a device step has no words (03 R54, 04 R82). -/
def Sys2Proof.Laws.Encoding.Statement (i : Instr) : Prop :=
  match Sys2Proof.Encoding.opcOf i with
  | some (opc, e) => opc < 256 ∧ (Sys2Proof.Encoding.lenSet opc).isSome = true ∧
      (i.wf = true → Sys2Proof.Encoding.ofOpc opc e = some i ∧ encode i = packWords (BitVec.ofNat 8 opc) e)
  | none => encode i = []

theorem Sys2Proof.Laws.Encoding.of_opcode {i : Instr} {opc : Nat} {e : Enc} (h : Sys2Proof.Encoding.opcOf i = some (opc, e))
    (hl : opc < 256 ∧ (Sys2Proof.Encoding.lenSet opc).isSome = true) : Sys2Proof.Laws.Encoding.Statement i := by
  unfold Sys2Proof.Laws.Encoding.Statement
  rw [h]
  refine ⟨hl.1, hl.2, fun w => ⟨?_, ?_⟩⟩
  · unfold Instr.wf at w
    rw [h] at w
    simp only [Bool.and_eq_true, beq_iff_eq] at w
    exact w.2
  · unfold encode
    rw [h]

theorem Sys2Proof.Laws.Encoding.of_step {i : Instr} (h : Sys2Proof.Encoding.opcOf i = none) : Sys2Proof.Laws.Encoding.Statement i := by
  unfold Sys2Proof.Laws.Encoding.Statement encode
  rw [h]

theorem Sys2Proof.Laws.Encoding.iadd (o : Enc) : Sys2Proof.Laws.Encoding.Statement (.iadd o) := Sys2Proof.Laws.Encoding.of_opcode rfl (by decide)
theorem Sys2Proof.Laws.Encoding.isub (o : Enc) : Sys2Proof.Laws.Encoding.Statement (.isub o) := Sys2Proof.Laws.Encoding.of_opcode rfl (by decide)
theorem Sys2Proof.Laws.Encoding.iadc (o : Enc) : Sys2Proof.Laws.Encoding.Statement (.iadc o) := Sys2Proof.Laws.Encoding.of_opcode rfl (by decide)
theorem Sys2Proof.Laws.Encoding.isbb (o : Enc) : Sys2Proof.Laws.Encoding.Statement (.isbb o) := Sys2Proof.Laws.Encoding.of_opcode rfl (by decide)
theorem Sys2Proof.Laws.Encoding.imul (o : Enc) : Sys2Proof.Laws.Encoding.Statement (.imul o) := Sys2Proof.Laws.Encoding.of_opcode rfl (by decide)
theorem Sys2Proof.Laws.Encoding.imulh (o : Enc) : Sys2Proof.Laws.Encoding.Statement (.imulh o) := Sys2Proof.Laws.Encoding.of_opcode rfl (by decide)
theorem Sys2Proof.Laws.Encoding.imad (o : Enc) : Sys2Proof.Laws.Encoding.Statement (.imad o) := Sys2Proof.Laws.Encoding.of_opcode rfl (by decide)
theorem Sys2Proof.Laws.Encoding.idiv (o : Enc) : Sys2Proof.Laws.Encoding.Statement (.idiv o) := Sys2Proof.Laws.Encoding.of_opcode rfl (by decide)
theorem Sys2Proof.Laws.Encoding.irem (o : Enc) : Sys2Proof.Laws.Encoding.Statement (.irem o) := Sys2Proof.Laws.Encoding.of_opcode rfl (by decide)
theorem Sys2Proof.Laws.Encoding.imin (o : Enc) : Sys2Proof.Laws.Encoding.Statement (.imin o) := Sys2Proof.Laws.Encoding.of_opcode rfl (by decide)
theorem Sys2Proof.Laws.Encoding.imax (o : Enc) : Sys2Proof.Laws.Encoding.Statement (.imax o) := Sys2Proof.Laws.Encoding.of_opcode rfl (by decide)
theorem Sys2Proof.Laws.Encoding.iabs (o : Enc) : Sys2Proof.Laws.Encoding.Statement (.iabs o) := Sys2Proof.Laws.Encoding.of_opcode rfl (by decide)
theorem Sys2Proof.Laws.Encoding.ineg (o : Enc) : Sys2Proof.Laws.Encoding.Statement (.ineg o) := Sys2Proof.Laws.Encoding.of_opcode rfl (by decide)
theorem Sys2Proof.Laws.Encoding.andL (o : Enc) : Sys2Proof.Laws.Encoding.Statement (.andL o) := Sys2Proof.Laws.Encoding.of_opcode rfl (by decide)
theorem Sys2Proof.Laws.Encoding.orL (o : Enc) : Sys2Proof.Laws.Encoding.Statement (.orL o) := Sys2Proof.Laws.Encoding.of_opcode rfl (by decide)
theorem Sys2Proof.Laws.Encoding.xorL (o : Enc) : Sys2Proof.Laws.Encoding.Statement (.xorL o) := Sys2Proof.Laws.Encoding.of_opcode rfl (by decide)
theorem Sys2Proof.Laws.Encoding.andn (o : Enc) : Sys2Proof.Laws.Encoding.Statement (.andn o) := Sys2Proof.Laws.Encoding.of_opcode rfl (by decide)
theorem Sys2Proof.Laws.Encoding.notL (o : Enc) : Sys2Proof.Laws.Encoding.Statement (.notL o) := Sys2Proof.Laws.Encoding.of_opcode rfl (by decide)
theorem Sys2Proof.Laws.Encoding.shl (o : Enc) : Sys2Proof.Laws.Encoding.Statement (.shl o) := Sys2Proof.Laws.Encoding.of_opcode rfl (by decide)
theorem Sys2Proof.Laws.Encoding.shr (o : Enc) : Sys2Proof.Laws.Encoding.Statement (.shr o) := Sys2Proof.Laws.Encoding.of_opcode rfl (by decide)
theorem Sys2Proof.Laws.Encoding.sar (o : Enc) : Sys2Proof.Laws.Encoding.Statement (.sar o) := Sys2Proof.Laws.Encoding.of_opcode rfl (by decide)
theorem Sys2Proof.Laws.Encoding.rotl (o : Enc) : Sys2Proof.Laws.Encoding.Statement (.rotl o) := Sys2Proof.Laws.Encoding.of_opcode rfl (by decide)
theorem Sys2Proof.Laws.Encoding.bfx (o : Enc) : Sys2Proof.Laws.Encoding.Statement (.bfx o) := Sys2Proof.Laws.Encoding.of_opcode rfl (by decide)
theorem Sys2Proof.Laws.Encoding.bfi (o : Enc) : Sys2Proof.Laws.Encoding.Statement (.bfi o) := Sys2Proof.Laws.Encoding.of_opcode rfl (by decide)
theorem Sys2Proof.Laws.Encoding.popc (o : Enc) : Sys2Proof.Laws.Encoding.Statement (.popc o) := Sys2Proof.Laws.Encoding.of_opcode rfl (by decide)
theorem Sys2Proof.Laws.Encoding.clz (o : Enc) : Sys2Proof.Laws.Encoding.Statement (.clz o) := Sys2Proof.Laws.Encoding.of_opcode rfl (by decide)
theorem Sys2Proof.Laws.Encoding.brev (o : Enc) : Sys2Proof.Laws.Encoding.Statement (.brev o) := Sys2Proof.Laws.Encoding.of_opcode rfl (by decide)
theorem Sys2Proof.Laws.Encoding.sel (o : Enc) : Sys2Proof.Laws.Encoding.Statement (.sel o) := Sys2Proof.Laws.Encoding.of_opcode rfl (by decide)
theorem Sys2Proof.Laws.Encoding.mov (o : Enc) : Sys2Proof.Laws.Encoding.Statement (.mov o) := Sys2Proof.Laws.Encoding.of_opcode rfl (by decide)
theorem Sys2Proof.Laws.Encoding.movl (o : Enc) : Sys2Proof.Laws.Encoding.Statement (.movl o) := Sys2Proof.Laws.Encoding.of_opcode rfl (by decide)
theorem Sys2Proof.Laws.Encoding.lea (o : Enc) : Sys2Proof.Laws.Encoding.Statement (.lea o) := Sys2Proof.Laws.Encoding.of_opcode rfl (by decide)
theorem Sys2Proof.Laws.Encoding.icmp (o : Enc) : Sys2Proof.Laws.Encoding.Statement (.icmp o) := Sys2Proof.Laws.Encoding.of_opcode rfl (by decide)
theorem Sys2Proof.Laws.Encoding.pand (o : Enc) : Sys2Proof.Laws.Encoding.Statement (.pand o) := Sys2Proof.Laws.Encoding.of_opcode rfl (by decide)
theorem Sys2Proof.Laws.Encoding.por (o : Enc) : Sys2Proof.Laws.Encoding.Statement (.por o) := Sys2Proof.Laws.Encoding.of_opcode rfl (by decide)
theorem Sys2Proof.Laws.Encoding.pxor (o : Enc) : Sys2Proof.Laws.Encoding.Statement (.pxor o) := Sys2Proof.Laws.Encoding.of_opcode rfl (by decide)
theorem Sys2Proof.Laws.Encoding.pnot (o : Enc) : Sys2Proof.Laws.Encoding.Statement (.pnot o) := Sys2Proof.Laws.Encoding.of_opcode rfl (by decide)
theorem Sys2Proof.Laws.Encoding.pmov (o : Enc) : Sys2Proof.Laws.Encoding.Statement (.pmov o) := Sys2Proof.Laws.Encoding.of_opcode rfl (by decide)
theorem Sys2Proof.Laws.Encoding.ppack (o : Enc) : Sys2Proof.Laws.Encoding.Statement (.ppack o) := Sys2Proof.Laws.Encoding.of_opcode rfl (by decide)
theorem Sys2Proof.Laws.Encoding.punpk (o : Enc) : Sys2Proof.Laws.Encoding.Statement (.punpk o) := Sys2Proof.Laws.Encoding.of_opcode rfl (by decide)
theorem Sys2Proof.Laws.Encoding.fadd (o : Enc) : Sys2Proof.Laws.Encoding.Statement (.fadd o) := Sys2Proof.Laws.Encoding.of_opcode rfl (by decide)
theorem Sys2Proof.Laws.Encoding.fsub (o : Enc) : Sys2Proof.Laws.Encoding.Statement (.fsub o) := Sys2Proof.Laws.Encoding.of_opcode rfl (by decide)
theorem Sys2Proof.Laws.Encoding.fmul (o : Enc) : Sys2Proof.Laws.Encoding.Statement (.fmul o) := Sys2Proof.Laws.Encoding.of_opcode rfl (by decide)
theorem Sys2Proof.Laws.Encoding.ffma (o : Enc) : Sys2Proof.Laws.Encoding.Statement (.ffma o) := Sys2Proof.Laws.Encoding.of_opcode rfl (by decide)
theorem Sys2Proof.Laws.Encoding.fmin (o : Enc) : Sys2Proof.Laws.Encoding.Statement (.fmin o) := Sys2Proof.Laws.Encoding.of_opcode rfl (by decide)
theorem Sys2Proof.Laws.Encoding.fmax (o : Enc) : Sys2Proof.Laws.Encoding.Statement (.fmax o) := Sys2Proof.Laws.Encoding.of_opcode rfl (by decide)
theorem Sys2Proof.Laws.Encoding.fabs (o : Enc) : Sys2Proof.Laws.Encoding.Statement (.fabs o) := Sys2Proof.Laws.Encoding.of_opcode rfl (by decide)
theorem Sys2Proof.Laws.Encoding.fneg (o : Enc) : Sys2Proof.Laws.Encoding.Statement (.fneg o) := Sys2Proof.Laws.Encoding.of_opcode rfl (by decide)
theorem Sys2Proof.Laws.Encoding.fcmp (o : Enc) : Sys2Proof.Laws.Encoding.Statement (.fcmp o) := Sys2Proof.Laws.Encoding.of_opcode rfl (by decide)
theorem Sys2Proof.Laws.Encoding.fclass (o : Enc) : Sys2Proof.Laws.Encoding.Statement (.fclass o) := Sys2Proof.Laws.Encoding.of_opcode rfl (by decide)
theorem Sys2Proof.Laws.Encoding.fdiv (o : Enc) : Sys2Proof.Laws.Encoding.Statement (.fdiv o) := Sys2Proof.Laws.Encoding.of_opcode rfl (by decide)
theorem Sys2Proof.Laws.Encoding.frcp (o : Enc) : Sys2Proof.Laws.Encoding.Statement (.frcp o) := Sys2Proof.Laws.Encoding.of_opcode rfl (by decide)
theorem Sys2Proof.Laws.Encoding.fsqrt (o : Enc) : Sys2Proof.Laws.Encoding.Statement (.fsqrt o) := Sys2Proof.Laws.Encoding.of_opcode rfl (by decide)
theorem Sys2Proof.Laws.Encoding.frsq (o : Enc) : Sys2Proof.Laws.Encoding.Statement (.frsq o) := Sys2Proof.Laws.Encoding.of_opcode rfl (by decide)
theorem Sys2Proof.Laws.Encoding.fexp2 (o : Enc) : Sys2Proof.Laws.Encoding.Statement (.fexp2 o) := Sys2Proof.Laws.Encoding.of_opcode rfl (by decide)
theorem Sys2Proof.Laws.Encoding.flog2 (o : Enc) : Sys2Proof.Laws.Encoding.Statement (.flog2 o) := Sys2Proof.Laws.Encoding.of_opcode rfl (by decide)
theorem Sys2Proof.Laws.Encoding.fscalb (o : Enc) : Sys2Proof.Laws.Encoding.Statement (.fscalb o) := Sys2Proof.Laws.Encoding.of_opcode rfl (by decide)
theorem Sys2Proof.Laws.Encoding.cvt (o : Enc) : Sys2Proof.Laws.Encoding.Statement (.cvt o) := Sys2Proof.Laws.Encoding.of_opcode rfl (by decide)
theorem Sys2Proof.Laws.Encoding.cvts (o : Enc) : Sys2Proof.Laws.Encoding.Statement (.cvts o) := Sys2Proof.Laws.Encoding.of_opcode rfl (by decide)
theorem Sys2Proof.Laws.Encoding.pack (o : Enc) : Sys2Proof.Laws.Encoding.Statement (.pack o) := Sys2Proof.Laws.Encoding.of_opcode rfl (by decide)
theorem Sys2Proof.Laws.Encoding.unpk (o : Enc) : Sys2Proof.Laws.Encoding.Statement (.unpk o) := Sys2Proof.Laws.Encoding.of_opcode rfl (by decide)
theorem Sys2Proof.Laws.Encoding.qnt (o : Enc) : Sys2Proof.Laws.Encoding.Statement (.qnt o) := Sys2Proof.Laws.Encoding.of_opcode rfl (by decide)
theorem Sys2Proof.Laws.Encoding.deq (o : Enc) : Sys2Proof.Laws.Encoding.Statement (.deq o) := Sys2Proof.Laws.Encoding.of_opcode rfl (by decide)
theorem Sys2Proof.Laws.Encoding.dot2 (o : Enc) : Sys2Proof.Laws.Encoding.Statement (.dot2 o) := Sys2Proof.Laws.Encoding.of_opcode rfl (by decide)
theorem Sys2Proof.Laws.Encoding.dot4 (o : Enc) : Sys2Proof.Laws.Encoding.Statement (.dot4 o) := Sys2Proof.Laws.Encoding.of_opcode rfl (by decide)
theorem Sys2Proof.Laws.Encoding.dot8 (o : Enc) : Sys2Proof.Laws.Encoding.Statement (.dot8 o) := Sys2Proof.Laws.Encoding.of_opcode rfl (by decide)
theorem Sys2Proof.Laws.Encoding.rng (o : Enc) : Sys2Proof.Laws.Encoding.Statement (.rng o) := Sys2Proof.Laws.Encoding.of_opcode rfl (by decide)
theorem Sys2Proof.Laws.Encoding.rngu (o : Enc) : Sys2Proof.Laws.Encoding.Statement (.rngu o) := Sys2Proof.Laws.Encoding.of_opcode rfl (by decide)
theorem Sys2Proof.Laws.Encoding.rmask (o : Enc) : Sys2Proof.Laws.Encoding.Statement (.rmask o) := Sys2Proof.Laws.Encoding.of_opcode rfl (by decide)
theorem Sys2Proof.Laws.Encoding.vote (o : Enc) : Sys2Proof.Laws.Encoding.Statement (.vote o) := Sys2Proof.Laws.Encoding.of_opcode rfl (by decide)
theorem Sys2Proof.Laws.Encoding.shfl (o : Enc) : Sys2Proof.Laws.Encoding.Statement (.shfl o) := Sys2Proof.Laws.Encoding.of_opcode rfl (by decide)
theorem Sys2Proof.Laws.Encoding.redl (o : Enc) : Sys2Proof.Laws.Encoding.Statement (.redl o) := Sys2Proof.Laws.Encoding.of_opcode rfl (by decide)
theorem Sys2Proof.Laws.Encoding.scanl (o : Enc) : Sys2Proof.Laws.Encoding.Statement (.scanl o) := Sys2Proof.Laws.Encoding.of_opcode rfl (by decide)
theorem Sys2Proof.Laws.Encoding.elect (o : Enc) : Sys2Proof.Laws.Encoding.Statement (.elect o) := Sys2Proof.Laws.Encoding.of_opcode rfl (by decide)
theorem Sys2Proof.Laws.Encoding.matchL (o : Enc) : Sys2Proof.Laws.Encoding.Statement (.matchL o) := Sys2Proof.Laws.Encoding.of_opcode rfl (by decide)
theorem Sys2Proof.Laws.Encoding.bra (o : Enc) : Sys2Proof.Laws.Encoding.Statement (.bra o) := Sys2Proof.Laws.Encoding.of_opcode rfl (by decide)
theorem Sys2Proof.Laws.Encoding.brx (o : Enc) : Sys2Proof.Laws.Encoding.Statement (.brx o) := Sys2Proof.Laws.Encoding.of_opcode rfl (by decide)
theorem Sys2Proof.Laws.Encoding.call (o : Enc) : Sys2Proof.Laws.Encoding.Statement (.call o) := Sys2Proof.Laws.Encoding.of_opcode rfl (by decide)
theorem Sys2Proof.Laws.Encoding.ret (o : Enc) : Sys2Proof.Laws.Encoding.Statement (.ret o) := Sys2Proof.Laws.Encoding.of_opcode rfl (by decide)
theorem Sys2Proof.Laws.Encoding.join (o : Enc) : Sys2Proof.Laws.Encoding.Statement (.join o) := Sys2Proof.Laws.Encoding.of_opcode rfl (by decide)
theorem Sys2Proof.Laws.Encoding.exit (o : Enc) : Sys2Proof.Laws.Encoding.Statement (.exit o) := Sys2Proof.Laws.Encoding.of_opcode rfl (by decide)
theorem Sys2Proof.Laws.Encoding.yield (o : Enc) : Sys2Proof.Laws.Encoding.Statement (.yield o) := Sys2Proof.Laws.Encoding.of_opcode rfl (by decide)
theorem Sys2Proof.Laws.Encoding.trap (o : Enc) : Sys2Proof.Laws.Encoding.Statement (.trap o) := Sys2Proof.Laws.Encoding.of_opcode rfl (by decide)
theorem Sys2Proof.Laws.Encoding.nop (o : Enc) : Sys2Proof.Laws.Encoding.Statement (.nop o) := Sys2Proof.Laws.Encoding.of_opcode rfl (by decide)
theorem Sys2Proof.Laws.Encoding.regionExact (o : Enc) : Sys2Proof.Laws.Encoding.Statement (.regionExact o) := Sys2Proof.Laws.Encoding.of_opcode rfl (by decide)
theorem Sys2Proof.Laws.Encoding.regionChecked (o : Enc) : Sys2Proof.Laws.Encoding.Statement (.regionChecked o) := Sys2Proof.Laws.Encoding.of_opcode rfl (by decide)
theorem Sys2Proof.Laws.Encoding.regionTolerant (o : Enc) : Sys2Proof.Laws.Encoding.Statement (.regionTolerant o) := Sys2Proof.Laws.Encoding.of_opcode rfl (by decide)
theorem Sys2Proof.Laws.Encoding.idem (o : Enc) : Sys2Proof.Laws.Encoding.Statement (.idem o) := Sys2Proof.Laws.Encoding.of_opcode rfl (by decide)
theorem Sys2Proof.Laws.Encoding.idemEnd (o : Enc) : Sys2Proof.Laws.Encoding.Statement (.idemEnd o) := Sys2Proof.Laws.Encoding.of_opcode rfl (by decide)
theorem Sys2Proof.Laws.Encoding.waith (o : Enc) : Sys2Proof.Laws.Encoding.Statement (.waith o) := Sys2Proof.Laws.Encoding.of_opcode rfl (by decide)
theorem Sys2Proof.Laws.Encoding.testh (o : Enc) : Sys2Proof.Laws.Encoding.Statement (.testh o) := Sys2Proof.Laws.Encoding.of_opcode rfl (by decide)
theorem Sys2Proof.Laws.Encoding.canch (o : Enc) : Sys2Proof.Laws.Encoding.Statement (.canch o) := Sys2Proof.Laws.Encoding.of_opcode rfl (by decide)
theorem Sys2Proof.Laws.Encoding.htag (o : Enc) : Sys2Proof.Laws.Encoding.Statement (.htag o) := Sys2Proof.Laws.Encoding.of_opcode rfl (by decide)
theorem Sys2Proof.Laws.Encoding.ld (o : Enc) : Sys2Proof.Laws.Encoding.Statement (.ld o) := Sys2Proof.Laws.Encoding.of_opcode rfl (by decide)
theorem Sys2Proof.Laws.Encoding.st (o : Enc) : Sys2Proof.Laws.Encoding.Statement (.st o) := Sys2Proof.Laws.Encoding.of_opcode rfl (by decide)
theorem Sys2Proof.Laws.Encoding.atom (o : Enc) : Sys2Proof.Laws.Encoding.Statement (.atom o) := Sys2Proof.Laws.Encoding.of_opcode rfl (by decide)
theorem Sys2Proof.Laws.Encoding.red (o : Enc) : Sys2Proof.Laws.Encoding.Statement (.red o) := Sys2Proof.Laws.Encoding.of_opcode rfl (by decide)
theorem Sys2Proof.Laws.Encoding.fenceAcq (o : Enc) : Sys2Proof.Laws.Encoding.Statement (.fenceAcq o) := Sys2Proof.Laws.Encoding.of_opcode rfl (by decide)
theorem Sys2Proof.Laws.Encoding.fenceRel (o : Enc) : Sys2Proof.Laws.Encoding.Statement (.fenceRel o) := Sys2Proof.Laws.Encoding.of_opcode rfl (by decide)
theorem Sys2Proof.Laws.Encoding.fenceAr (o : Enc) : Sys2Proof.Laws.Encoding.Statement (.fenceAr o) := Sys2Proof.Laws.Encoding.of_opcode rfl (by decide)
theorem Sys2Proof.Laws.Encoding.stt (o : Enc) : Sys2Proof.Laws.Encoding.Statement (.stt o) := Sys2Proof.Laws.Encoding.of_opcode rfl (by decide)
theorem Sys2Proof.Laws.Encoding.presTest (o : Enc) : Sys2Proof.Laws.Encoding.Statement (.presTest o) := Sys2Proof.Laws.Encoding.of_opcode rfl (by decide)
theorem Sys2Proof.Laws.Encoding.presWait (o : Enc) : Sys2Proof.Laws.Encoding.Statement (.presWait o) := Sys2Proof.Laws.Encoding.of_opcode rfl (by decide)
theorem Sys2Proof.Laws.Encoding.presClear (o : Enc) : Sys2Proof.Laws.Encoding.Statement (.presClear o) := Sys2Proof.Laws.Encoding.of_opcode rfl (by decide)
theorem Sys2Proof.Laws.Encoding.presSet (o : Enc) : Sys2Proof.Laws.Encoding.Statement (.presSet o) := Sys2Proof.Laws.Encoding.of_opcode rfl (by decide)
theorem Sys2Proof.Laws.Encoding.pref (o : Enc) : Sys2Proof.Laws.Encoding.Statement (.pref o) := Sys2Proof.Laws.Encoding.of_opcode rfl (by decide)
theorem Sys2Proof.Laws.Encoding.cinv (o : Enc) : Sys2Proof.Laws.Encoding.Statement (.cinv o) := Sys2Proof.Laws.Encoding.of_opcode rfl (by decide)
theorem Sys2Proof.Laws.Encoding.cinvAll (o : Enc) : Sys2Proof.Laws.Encoding.Statement (.cinvAll o) := Sys2Proof.Laws.Encoding.of_opcode rfl (by decide)
theorem Sys2Proof.Laws.Encoding.bcfgSp (o : Enc) : Sys2Proof.Laws.Encoding.Statement (.bcfgSp o) := Sys2Proof.Laws.Encoding.of_opcode rfl (by decide)
theorem Sys2Proof.Laws.Encoding.bcfgCache (o : Enc) : Sys2Proof.Laws.Encoding.Statement (.bcfgCache o) := Sys2Proof.Laws.Encoding.of_opcode rfl (by decide)
theorem Sys2Proof.Laws.Encoding.bcfgFifo (o : Enc) : Sys2Proof.Laws.Encoding.Statement (.bcfgFifo o) := Sys2Proof.Laws.Encoding.of_opcode rfl (by decide)
theorem Sys2Proof.Laws.Encoding.qpush (o : Enc) : Sys2Proof.Laws.Encoding.Statement (.qpush o) := Sys2Proof.Laws.Encoding.of_opcode rfl (by decide)
theorem Sys2Proof.Laws.Encoding.qpop (o : Enc) : Sys2Proof.Laws.Encoding.Statement (.qpop o) := Sys2Proof.Laws.Encoding.of_opcode rfl (by decide)
theorem Sys2Proof.Laws.Encoding.mma (o : Enc) : Sys2Proof.Laws.Encoding.Statement (.mma o) := Sys2Proof.Laws.Encoding.of_opcode rfl (by decide)
theorem Sys2Proof.Laws.Encoding.mmas (o : Enc) : Sys2Proof.Laws.Encoding.Statement (.mmas o) := Sys2Proof.Laws.Encoding.of_opcode rfl (by decide)
theorem Sys2Proof.Laws.Encoding.qblk (o : Enc) : Sys2Proof.Laws.Encoding.Statement (.qblk o) := Sys2Proof.Laws.Encoding.of_opcode rfl (by decide)
theorem Sys2Proof.Laws.Encoding.rqnt (o : Enc) : Sys2Proof.Laws.Encoding.Statement (.rqnt o) := Sys2Proof.Laws.Encoding.of_opcode rfl (by decide)
theorem Sys2Proof.Laws.Encoding.bpln (o : Enc) : Sys2Proof.Laws.Encoding.Statement (.bpln o) := Sys2Proof.Laws.Encoding.of_opcode rfl (by decide)
theorem Sys2Proof.Laws.Encoding.tld (o : Enc) : Sys2Proof.Laws.Encoding.Statement (.tld o) := Sys2Proof.Laws.Encoding.of_opcode rfl (by decide)
theorem Sys2Proof.Laws.Encoding.tst (o : Enc) : Sys2Proof.Laws.Encoding.Statement (.tst o) := Sys2Proof.Laws.Encoding.of_opcode rfl (by decide)
theorem Sys2Proof.Laws.Encoding.tscl (o : Enc) : Sys2Proof.Laws.Encoding.Statement (.tscl o) := Sys2Proof.Laws.Encoding.of_opcode rfl (by decide)
theorem Sys2Proof.Laws.Encoding.tzero (o : Enc) : Sys2Proof.Laws.Encoding.Statement (.tzero o) := Sys2Proof.Laws.Encoding.of_opcode rfl (by decide)
theorem Sys2Proof.Laws.Encoding.tdrn (o : Enc) : Sys2Proof.Laws.Encoding.Statement (.tdrn o) := Sys2Proof.Laws.Encoding.of_opcode rfl (by decide)
theorem Sys2Proof.Laws.Encoding.tmove (o : Enc) : Sys2Proof.Laws.Encoding.Statement (.tmove o) := Sys2Proof.Laws.Encoding.of_opcode rfl (by decide)
theorem Sys2Proof.Laws.Encoding.tchk (o : Enc) : Sys2Proof.Laws.Encoding.Statement (.tchk o) := Sys2Proof.Laws.Encoding.of_opcode rfl (by decide)
theorem Sys2Proof.Laws.Encoding.cpyk (o : Enc) : Sys2Proof.Laws.Encoding.Statement (.cpyk o) := Sys2Proof.Laws.Encoding.of_opcode rfl (by decide)
theorem Sys2Proof.Laws.Encoding.cpyrel (o : Enc) : Sys2Proof.Laws.Encoding.Statement (.cpyrel o) := Sys2Proof.Laws.Encoding.of_opcode rfl (by decide)
theorem Sys2Proof.Laws.Encoding.cpyq (o : Enc) : Sys2Proof.Laws.Encoding.Statement (.cpyq o) := Sys2Proof.Laws.Encoding.of_opcode rfl (by decide)
theorem Sys2Proof.Laws.Encoding.pkl (o : Enc) : Sys2Proof.Laws.Encoding.Statement (.pkl o) := Sys2Proof.Laws.Encoding.of_opcode rfl (by decide)
theorem Sys2Proof.Laws.Encoding.pklb (o : Enc) : Sys2Proof.Laws.Encoding.Statement (.pklb o) := Sys2Proof.Laws.Encoding.of_opcode rfl (by decide)
theorem Sys2Proof.Laws.Encoding.nmc (o : Enc) : Sys2Proof.Laws.Encoding.Statement (.nmc o) := Sys2Proof.Laws.Encoding.of_opcode rfl (by decide)
theorem Sys2Proof.Laws.Encoding.nmf (o : Enc) : Sys2Proof.Laws.Encoding.Statement (.nmf o) := Sys2Proof.Laws.Encoding.of_opcode rfl (by decide)
theorem Sys2Proof.Laws.Encoding.coll (o : Enc) : Sys2Proof.Laws.Encoding.Statement (.coll o) := Sys2Proof.Laws.Encoding.of_opcode rfl (by decide)
theorem Sys2Proof.Laws.Encoding.spawn (o : Enc) : Sys2Proof.Laws.Encoding.Statement (.spawn o) := Sys2Proof.Laws.Encoding.of_opcode rfl (by decide)
theorem Sys2Proof.Laws.Encoding.bari (o : Enc) : Sys2Proof.Laws.Encoding.Statement (.bari o) := Sys2Proof.Laws.Encoding.of_opcode rfl (by decide)
theorem Sys2Proof.Laws.Encoding.bara (o : Enc) : Sys2Proof.Laws.Encoding.Statement (.bara o) := Sys2Proof.Laws.Encoding.of_opcode rfl (by decide)
theorem Sys2Proof.Laws.Encoding.barx (o : Enc) : Sys2Proof.Laws.Encoding.Statement (.barx o) := Sys2Proof.Laws.Encoding.of_opcode rfl (by decide)
theorem Sys2Proof.Laws.Encoding.barw (o : Enc) : Sys2Proof.Laws.Encoding.Statement (.barw o) := Sys2Proof.Laws.Encoding.of_opcode rfl (by decide)
theorem Sys2Proof.Laws.Encoding.bart (o : Enc) : Sys2Proof.Laws.Encoding.Statement (.bart o) := Sys2Proof.Laws.Encoding.of_opcode rfl (by decide)
theorem Sys2Proof.Laws.Encoding.depc (o : Enc) : Sys2Proof.Laws.Encoding.Statement (.depc o) := Sys2Proof.Laws.Encoding.of_opcode rfl (by decide)
theorem Sys2Proof.Laws.Encoding.clk (o : Enc) : Sys2Proof.Laws.Encoding.Statement (.clk o) := Sys2Proof.Laws.Encoding.of_opcode rfl (by decide)
theorem Sys2Proof.Laws.Encoding.sread (o : Enc) : Sys2Proof.Laws.Encoding.Statement (.sread o) := Sys2Proof.Laws.Encoding.of_opcode rfl (by decide)
theorem Sys2Proof.Laws.Encoding.swrite (o : Enc) : Sys2Proof.Laws.Encoding.Statement (.swrite o) := Sys2Proof.Laws.Encoding.of_opcode rfl (by decide)
theorem Sys2Proof.Laws.Encoding.rett (o : Enc) : Sys2Proof.Laws.Encoding.Statement (.rett o) := Sys2Proof.Laws.Encoding.of_opcode rfl (by decide)
theorem Sys2Proof.Laws.Encoding.rettKill (o : Enc) : Sys2Proof.Laws.Encoding.Statement (.rettKill o) := Sys2Proof.Laws.Encoding.of_opcode rfl (by decide)
theorem Sys2Proof.Laws.Encoding.tlbiVa (o : Enc) : Sys2Proof.Laws.Encoding.Statement (.tlbiVa o) := Sys2Proof.Laws.Encoding.of_opcode rfl (by decide)
theorem Sys2Proof.Laws.Encoding.tlbiAll (o : Enc) : Sys2Proof.Laws.Encoding.Statement (.tlbiAll o) := Sys2Proof.Laws.Encoding.of_opcode rfl (by decide)
theorem Sys2Proof.Laws.Encoding.tlbiGpa (o : Enc) : Sys2Proof.Laws.Encoding.Statement (.tlbiGpa o) := Sys2Proof.Laws.Encoding.of_opcode rfl (by decide)
theorem Sys2Proof.Laws.Encoding.tlbiGall (o : Enc) : Sys2Proof.Laws.Encoding.Statement (.tlbiGall o) := Sys2Proof.Laws.Encoding.of_opcode rfl (by decide)
theorem Sys2Proof.Laws.Encoding.dhalt (o : Enc) : Sys2Proof.Laws.Encoding.Statement (.dhalt o) := Sys2Proof.Laws.Encoding.of_opcode rfl (by decide)
theorem Sys2Proof.Laws.Encoding.dstep (o : Enc) : Sys2Proof.Laws.Encoding.Statement (.dstep o) := Sys2Proof.Laws.Encoding.of_opcode rfl (by decide)
theorem Sys2Proof.Laws.Encoding.drun (o : Enc) : Sys2Proof.Laws.Encoding.Statement (.drun o) := Sys2Proof.Laws.Encoding.of_opcode rfl (by decide)
theorem Sys2Proof.Laws.Encoding.dbp (o : Enc) : Sys2Proof.Laws.Encoding.Statement (.dbp o) := Sys2Proof.Laws.Encoding.of_opcode rfl (by decide)
theorem Sys2Proof.Laws.Encoding.dbpClr (o : Enc) : Sys2Proof.Laws.Encoding.Statement (.dbpClr o) := Sys2Proof.Laws.Encoding.of_opcode rfl (by decide)
theorem Sys2Proof.Laws.Encoding.dwp (o : Enc) : Sys2Proof.Laws.Encoding.Statement (.dwp o) := Sys2Proof.Laws.Encoding.of_opcode rfl (by decide)
theorem Sys2Proof.Laws.Encoding.dwpClr (o : Enc) : Sys2Proof.Laws.Encoding.Statement (.dwpClr o) := Sys2Proof.Laws.Encoding.of_opcode rfl (by decide)
theorem Sys2Proof.Laws.Encoding.dread (o : Enc) : Sys2Proof.Laws.Encoding.Statement (.dread o) := Sys2Proof.Laws.Encoding.of_opcode rfl (by decide)
theorem Sys2Proof.Laws.Encoding.dwrite (o : Enc) : Sys2Proof.Laws.Encoding.Statement (.dwrite o) := Sys2Proof.Laws.Encoding.of_opcode rfl (by decide)
theorem Sys2Proof.Laws.Encoding.dmbxSend (o : Enc) : Sys2Proof.Laws.Encoding.Statement (.dmbxSend o) := Sys2Proof.Laws.Encoding.of_opcode rfl (by decide)
theorem Sys2Proof.Laws.Encoding.dmbxRecv (o : Enc) : Sys2Proof.Laws.Encoding.Statement (.dmbxRecv o) := Sys2Proof.Laws.Encoding.of_opcode rfl (by decide)
theorem Sys2Proof.Laws.Encoding.bkpt (o : Enc) : Sys2Proof.Laws.Encoding.Statement (.bkpt o) := Sys2Proof.Laws.Encoding.of_opcode rfl (by decide)
theorem Sys2Proof.Laws.Encoding.illegalOpcode (opc : BitVec 8) : Sys2Proof.Laws.Encoding.Statement (.illegalOpcode opc) := Sys2Proof.Laws.Encoding.of_step rfl
theorem Sys2Proof.Laws.Encoding.instructionFetchFault (va : DWord) : Sys2Proof.Laws.Encoding.Statement (.instructionFetchFault va) := Sys2Proof.Laws.Encoding.of_step rfl
theorem Sys2Proof.Laws.Encoding.evacuateComplete (p : Nat) : Sys2Proof.Laws.Encoding.Statement (.evacuateComplete p) := Sys2Proof.Laws.Encoding.of_step rfl
theorem Sys2Proof.Laws.Encoding.restoreComplete (p : Nat) (cores : List Nat) : Sys2Proof.Laws.Encoding.Statement (.restoreComplete p cores) := Sys2Proof.Laws.Encoding.of_step rfl
theorem Sys2Proof.Laws.Encoding.debugRecordAppend (core : Nat) : Sys2Proof.Laws.Encoding.Statement (.debugRecordAppend core) := Sys2Proof.Laws.Encoding.of_step rfl
theorem Sys2Proof.Laws.Encoding.queueConfigWrite (fn : Nat) (w : QueueWrite) : Sys2Proof.Laws.Encoding.Statement (.queueConfigWrite fn w) := Sys2Proof.Laws.Encoding.of_step rfl
theorem Sys2Proof.Laws.Encoding.queueEnable (fn : Nat) (v : Word) : Sys2Proof.Laws.Encoding.Statement (.queueEnable fn v) := Sys2Proof.Laws.Encoding.of_step rfl
theorem Sys2Proof.Laws.Encoding.queueDisable (fn : Nat) (v : Word) : Sys2Proof.Laws.Encoding.Statement (.queueDisable fn v) := Sys2Proof.Laws.Encoding.of_step rfl
theorem Sys2Proof.Laws.Encoding.tailDoorbell (fn : Nat) (v : Word) : Sys2Proof.Laws.Encoding.Statement (.tailDoorbell fn v) := Sys2Proof.Laws.Encoding.of_step rfl
theorem Sys2Proof.Laws.Encoding.entryFetch (fn : Nat) : Sys2Proof.Laws.Encoding.Statement (.entryFetch fn) := Sys2Proof.Laws.Encoding.of_step rfl
theorem Sys2Proof.Laws.Encoding.graphLoad (fn : Nat) : Sys2Proof.Laws.Encoding.Statement (.graphLoad fn) := Sys2Proof.Laws.Encoding.of_step rfl
theorem Sys2Proof.Laws.Encoding.graphRun (fn : Nat) : Sys2Proof.Laws.Encoding.Statement (.graphRun fn) := Sys2Proof.Laws.Encoding.of_step rfl
theorem Sys2Proof.Laws.Encoding.hostCopy (fn : Nat) : Sys2Proof.Laws.Encoding.Statement (.hostCopy fn) := Sys2Proof.Laws.Encoding.of_step rfl
theorem Sys2Proof.Laws.Encoding.syncSignal (fn : Nat) : Sys2Proof.Laws.Encoding.Statement (.syncSignal fn) := Sys2Proof.Laws.Encoding.of_step rfl
theorem Sys2Proof.Laws.Encoding.syncWait (fn : Nat) : Sys2Proof.Laws.Encoding.Statement (.syncWait fn) := Sys2Proof.Laws.Encoding.of_step rfl
theorem Sys2Proof.Laws.Encoding.syncWaitSatisfied (fn : Nat) : Sys2Proof.Laws.Encoding.Statement (.syncWaitSatisfied fn) := Sys2Proof.Laws.Encoding.of_step rfl
theorem Sys2Proof.Laws.Encoding.commandCompletion (fn : Nat) : Sys2Proof.Laws.Encoding.Statement (.commandCompletion fn) := Sys2Proof.Laws.Encoding.of_step rfl
theorem Sys2Proof.Laws.Encoding.runEnd (p : Nat) : Sys2Proof.Laws.Encoding.Statement (.runEnd p) := Sys2Proof.Laws.Encoding.of_step rfl
theorem Sys2Proof.Laws.Encoding.chunkAppend (p : Nat) (urgent : Bool) : Sys2Proof.Laws.Encoding.Statement (.chunkAppend p urgent) := Sys2Proof.Laws.Encoding.of_step rfl
theorem Sys2Proof.Laws.Encoding.dispatchPull (die p : Nat) (urgent : Bool) : Sys2Proof.Laws.Encoding.Statement (.dispatchPull die p urgent) := Sys2Proof.Laws.Encoding.of_step rfl
theorem Sys2Proof.Laws.Encoding.teamRetire (core team : Nat) : Sys2Proof.Laws.Encoding.Statement (.teamRetire core team) := Sys2Proof.Laws.Encoding.of_step rfl
theorem Sys2Proof.Laws.Encoding.launchComplete (p launch : Nat) : Sys2Proof.Laws.Encoding.Statement (.launchComplete p launch) := Sys2Proof.Laws.Encoding.of_step rfl
theorem Sys2Proof.Laws.Encoding.pcTableSort (core slot : Nat) : Sys2Proof.Laws.Encoding.Statement (.pcTableSort core slot) := Sys2Proof.Laws.Encoding.of_step rfl
theorem Sys2Proof.Laws.Encoding.throttleScoreDecay (core : Nat) : Sys2Proof.Laws.Encoding.Statement (.throttleScoreDecay core) := Sys2Proof.Laws.Encoding.of_step rfl
theorem Sys2Proof.Laws.Encoding.longLatencyFill (core id : Nat) : Sys2Proof.Laws.Encoding.Statement (.longLatencyFill core id) := Sys2Proof.Laws.Encoding.of_step rfl
theorem Sys2Proof.Laws.Encoding.rendezvousDeadlock (core slot : Nat) : Sys2Proof.Laws.Encoding.Statement (.rendezvousDeadlock core slot) := Sys2Proof.Laws.Encoding.of_step rfl
theorem Sys2Proof.Laws.Encoding.storeRegistration (core id : Nat) : Sys2Proof.Laws.Encoding.Statement (.storeRegistration core id) := Sys2Proof.Laws.Encoding.of_step rfl
theorem Sys2Proof.Laws.Encoding.revoke (core line : Nat) : Sys2Proof.Laws.Encoding.Statement (.revoke core line) := Sys2Proof.Laws.Encoding.of_step rfl
theorem Sys2Proof.Laws.Encoding.bankModeChange (core bank : Nat) : Sys2Proof.Laws.Encoding.Statement (.bankModeChange core bank) := Sys2Proof.Laws.Encoding.of_step rfl
theorem Sys2Proof.Laws.Encoding.mmaStart (id : Nat) : Sys2Proof.Laws.Encoding.Statement (.mmaStart id) := Sys2Proof.Laws.Encoding.of_step rfl
theorem Sys2Proof.Laws.Encoding.mmaRailReady (id : Nat) : Sys2Proof.Laws.Encoding.Statement (.mmaRailReady id) := Sys2Proof.Laws.Encoding.of_step rfl
theorem Sys2Proof.Laws.Encoding.mmaOperandsDelivered (id : Nat) : Sys2Proof.Laws.Encoding.Statement (.mmaOperandsDelivered id) := Sys2Proof.Laws.Encoding.of_step rfl
theorem Sys2Proof.Laws.Encoding.mmaLastStep (id : Nat) : Sys2Proof.Laws.Encoding.Statement (.mmaLastStep id) := Sys2Proof.Laws.Encoding.of_step rfl
theorem Sys2Proof.Laws.Encoding.mmaCheckDone (id : Nat) : Sys2Proof.Laws.Encoding.Statement (.mmaCheckDone id) := Sys2Proof.Laws.Encoding.of_step rfl
theorem Sys2Proof.Laws.Encoding.mmaCorrectDone (id : Nat) : Sys2Proof.Laws.Encoding.Statement (.mmaCorrectDone id) := Sys2Proof.Laws.Encoding.of_step rfl
theorem Sys2Proof.Laws.Encoding.mmaAddDone (id : Nat) : Sys2Proof.Laws.Encoding.Statement (.mmaAddDone id) := Sys2Proof.Laws.Encoding.of_step rfl
theorem Sys2Proof.Laws.Encoding.railTunerStep (core : Nat) : Sys2Proof.Laws.Encoding.Statement (.railTunerStep core) := Sys2Proof.Laws.Encoding.of_step rfl
theorem Sys2Proof.Laws.Encoding.logRailReturn (core : Nat) : Sys2Proof.Laws.Encoding.Statement (.logRailReturn core) := Sys2Proof.Laws.Encoding.of_step rfl
theorem Sys2Proof.Laws.Encoding.tilePathStart (core : Nat) : Sys2Proof.Laws.Encoding.Statement (.tilePathStart core) := Sys2Proof.Laws.Encoding.of_step rfl
theorem Sys2Proof.Laws.Encoding.tilePathEnd (core : Nat) : Sys2Proof.Laws.Encoding.Statement (.tilePathEnd core) := Sys2Proof.Laws.Encoding.of_step rfl
theorem Sys2Proof.Laws.Encoding.copyWrite (core id dest n : Nat) : Sys2Proof.Laws.Encoding.Statement (.copyWrite core id dest n) := Sys2Proof.Laws.Encoding.of_step rfl
theorem Sys2Proof.Laws.Encoding.copyComplete (core id : Nat) : Sys2Proof.Laws.Encoding.Statement (.copyComplete core id) := Sys2Proof.Laws.Encoding.of_step rfl
theorem Sys2Proof.Laws.Encoding.pklComplete (core id n : Nat) : Sys2Proof.Laws.Encoding.Statement (.pklComplete core id n) := Sys2Proof.Laws.Encoding.of_step rfl
theorem Sys2Proof.Laws.Encoding.pklbComplete (core id n : Nat) : Sys2Proof.Laws.Encoding.Statement (.pklbComplete core id n) := Sys2Proof.Laws.Encoding.of_step rfl
theorem Sys2Proof.Laws.Encoding.nmAdd (core id : Nat) : Sys2Proof.Laws.Encoding.Statement (.nmAdd core id) := Sys2Proof.Laws.Encoding.of_step rfl
theorem Sys2Proof.Laws.Encoding.nmSgd (core id : Nat) : Sys2Proof.Laws.Encoding.Statement (.nmSgd core id) := Sys2Proof.Laws.Encoding.of_step rfl
theorem Sys2Proof.Laws.Encoding.nmScale (core id : Nat) : Sys2Proof.Laws.Encoding.Statement (.nmScale core id) := Sys2Proof.Laws.Encoding.of_step rfl
theorem Sys2Proof.Laws.Encoding.nmZero (core id : Nat) : Sys2Proof.Laws.Encoding.Statement (.nmZero core id) := Sys2Proof.Laws.Encoding.of_step rfl
theorem Sys2Proof.Laws.Encoding.nmGranule (core id g : Nat) : Sys2Proof.Laws.Encoding.Statement (.nmGranule core id g) := Sys2Proof.Laws.Encoding.of_step rfl
theorem Sys2Proof.Laws.Encoding.nmcComplete (core id : Nat) : Sys2Proof.Laws.Encoding.Statement (.nmcComplete core id) := Sys2Proof.Laws.Encoding.of_step rfl
theorem Sys2Proof.Laws.Encoding.allreduce (core id : Nat) (peers : List PeerPart) : Sys2Proof.Laws.Encoding.Statement (.allreduce core id peers) := Sys2Proof.Laws.Encoding.of_step rfl
theorem Sys2Proof.Laws.Encoding.reduceScatter (core id : Nat) (peers : List PeerPart) : Sys2Proof.Laws.Encoding.Statement (.reduceScatter core id peers) := Sys2Proof.Laws.Encoding.of_step rfl
theorem Sys2Proof.Laws.Encoding.allgather (core id : Nat) (peers : List PeerPart) : Sys2Proof.Laws.Encoding.Statement (.allgather core id peers) := Sys2Proof.Laws.Encoding.of_step rfl
theorem Sys2Proof.Laws.Encoding.broadcast (core id : Nat) (peers : List PeerPart) : Sys2Proof.Laws.Encoding.Statement (.broadcast core id peers) := Sys2Proof.Laws.Encoding.of_step rfl
theorem Sys2Proof.Laws.Encoding.collChunk (core id chunk : Nat) (good : Bool) : Sys2Proof.Laws.Encoding.Statement (.collChunk core id chunk good) := Sys2Proof.Laws.Encoding.of_step rfl
theorem Sys2Proof.Laws.Encoding.collComplete (core id : Nat) : Sys2Proof.Laws.Encoding.Statement (.collComplete core id) := Sys2Proof.Laws.Encoding.of_step rfl
theorem Sys2Proof.Laws.Encoding.barwRecheck (core slot lane : Nat) : Sys2Proof.Laws.Encoding.Statement (.barwRecheck core slot lane) := Sys2Proof.Laws.Encoding.of_step rfl
theorem Sys2Proof.Laws.Encoding.walkStart (core miss : Nat) : Sys2Proof.Laws.Encoding.Statement (.walkStart core miss) := Sys2Proof.Laws.Encoding.of_step rfl
theorem Sys2Proof.Laws.Encoding.walkRead (die id : Nat) (cached : Bool) : Sys2Proof.Laws.Encoding.Statement (.walkRead die id cached) := Sys2Proof.Laws.Encoding.of_step rfl
theorem Sys2Proof.Laws.Encoding.walkUpdate (die id : Nat) : Sys2Proof.Laws.Encoding.Statement (.walkUpdate die id) := Sys2Proof.Laws.Encoding.of_step rfl
theorem Sys2Proof.Laws.Encoding.resumeRetry (p : Nat) (ring : Ring) (rid : Word) : Sys2Proof.Laws.Encoding.Statement (.resumeRetry p ring rid) := Sys2Proof.Laws.Encoding.of_step rfl
theorem Sys2Proof.Laws.Encoding.resumeFatal (p : Nat) (ring : Ring) (rid : Word) : Sys2Proof.Laws.Encoding.Statement (.resumeFatal p ring rid) := Sys2Proof.Laws.Encoding.of_step rfl
theorem Sys2Proof.Laws.Encoding.ringHeadWrite (p : Nat) (ring : Ring) (v : Word) : Sys2Proof.Laws.Encoding.Statement (.ringHeadWrite p ring v) := Sys2Proof.Laws.Encoding.of_step rfl
theorem Sys2Proof.Laws.Encoding.invalidatePage (p : Nat) (stage2 : Bool) : Sys2Proof.Laws.Encoding.Statement (.invalidatePage p stage2) := Sys2Proof.Laws.Encoding.of_step rfl
theorem Sys2Proof.Laws.Encoding.invalidateStage (p : Nat) (stage2 : Bool) : Sys2Proof.Laws.Encoding.Statement (.invalidateStage p stage2) := Sys2Proof.Laws.Encoding.of_step rfl
theorem Sys2Proof.Laws.Encoding.invalidationSend (p : Nat) : Sys2Proof.Laws.Encoding.Statement (.invalidationSend p) := Sys2Proof.Laws.Encoding.of_step rfl
theorem Sys2Proof.Laws.Encoding.invalidationAck (p : Nat) (target : InvTarget) : Sys2Proof.Laws.Encoding.Statement (.invalidationAck p target) := Sys2Proof.Laws.Encoding.of_step rfl
theorem Sys2Proof.Laws.Encoding.invalidationTimeout (p : Nat) : Sys2Proof.Laws.Encoding.Statement (.invalidationTimeout p) := Sys2Proof.Laws.Encoding.of_step rfl
theorem Sys2Proof.Laws.Encoding.unifiedMigration (p : Nat) (gpa : Nat) (placed : Bool) : Sys2Proof.Laws.Encoding.Statement (.unifiedMigration p gpa placed) := Sys2Proof.Laws.Encoding.of_step rfl
theorem Sys2Proof.Laws.Encoding.ptWrite : Sys2Proof.Laws.Encoding.Statement (.ptWrite) := Sys2Proof.Laws.Encoding.of_step rfl
theorem Sys2Proof.Laws.Encoding.ptRead : Sys2Proof.Laws.Encoding.Statement (.ptRead) := Sys2Proof.Laws.Encoding.of_step rfl
theorem Sys2Proof.Laws.Encoding.suspend : Sys2Proof.Laws.Encoding.Statement (.suspend) := Sys2Proof.Laws.Encoding.of_step rfl
theorem Sys2Proof.Laws.Encoding.suspendHalted (p : Nat) : Sys2Proof.Laws.Encoding.Statement (.suspendHalted p) := Sys2Proof.Laws.Encoding.of_step rfl
theorem Sys2Proof.Laws.Encoding.contextSaved (p : Nat) : Sys2Proof.Laws.Encoding.Statement (.contextSaved p) := Sys2Proof.Laws.Encoding.of_step rfl
theorem Sys2Proof.Laws.Encoding.evacuate : Sys2Proof.Laws.Encoding.Statement (.evacuate) := Sys2Proof.Laws.Encoding.of_step rfl
theorem Sys2Proof.Laws.Encoding.restore : Sys2Proof.Laws.Encoding.Statement (.restore) := Sys2Proof.Laws.Encoding.of_step rfl
theorem Sys2Proof.Laws.Encoding.resume : Sys2Proof.Laws.Encoding.Statement (.resume) := Sys2Proof.Laws.Encoding.of_step rfl
theorem Sys2Proof.Laws.Encoding.reset : Sys2Proof.Laws.Encoding.Statement (.reset) := Sys2Proof.Laws.Encoding.of_step rfl
theorem Sys2Proof.Laws.Encoding.partitionResetComplete (p : Nat) : Sys2Proof.Laws.Encoding.Statement (.partitionResetComplete p) := Sys2Proof.Laws.Encoding.of_step rfl
theorem Sys2Proof.Laws.Encoding.coreReset : Sys2Proof.Laws.Encoding.Statement (.coreReset) := Sys2Proof.Laws.Encoding.of_step rfl
theorem Sys2Proof.Laws.Encoding.limit : Sys2Proof.Laws.Encoding.Statement (.limit) := Sys2Proof.Laws.Encoding.of_step rfl
theorem Sys2Proof.Laws.Encoding.calendar : Sys2Proof.Laws.Encoding.Statement (.calendar) := Sys2Proof.Laws.Encoding.of_step rfl
theorem Sys2Proof.Laws.Encoding.unifiedMap : Sys2Proof.Laws.Encoding.Statement (.unifiedMap) := Sys2Proof.Laws.Encoding.of_step rfl
theorem Sys2Proof.Laws.Encoding.unifiedMigrate : Sys2Proof.Laws.Encoding.Statement (.unifiedMigrate) := Sys2Proof.Laws.Encoding.of_step rfl
theorem Sys2Proof.Laws.Encoding.unifiedQuery : Sys2Proof.Laws.Encoding.Statement (.unifiedQuery) := Sys2Proof.Laws.Encoding.of_step rfl
theorem Sys2Proof.Laws.Encoding.vfFlr (p : Nat) : Sys2Proof.Laws.Encoding.Statement (.vfFlr p) := Sys2Proof.Laws.Encoding.of_step rfl
theorem Sys2Proof.Laws.Encoding.pfFlr : Sys2Proof.Laws.Encoding.Statement (.pfFlr) := Sys2Proof.Laws.Encoding.of_step rfl
theorem Sys2Proof.Laws.Encoding.packageReset (boot : BootResult) (sram : BitVec 4) : Sys2Proof.Laws.Encoding.Statement (.packageReset boot sram) := Sys2Proof.Laws.Encoding.of_step rfl
theorem Sys2Proof.Laws.Encoding.lowPowerWake : Sys2Proof.Laws.Encoding.Statement (.lowPowerWake) := Sys2Proof.Laws.Encoding.of_step rfl
theorem Sys2Proof.Laws.Encoding.powerArbiterInterval (currents : List RailReading) : Sys2Proof.Laws.Encoding.Statement (.powerArbiterInterval currents) := Sys2Proof.Laws.Encoding.of_step rfl
theorem Sys2Proof.Laws.Encoding.calendarTakeEffect (cls : Nat) : Sys2Proof.Laws.Encoding.Statement (.calendarTakeEffect cls) := Sys2Proof.Laws.Encoding.of_step rfl
theorem Sys2Proof.Laws.Encoding.telemetryClear (p : Nat) : Sys2Proof.Laws.Encoding.Statement (.telemetryClear p) := Sys2Proof.Laws.Encoding.of_step rfl
theorem Sys2Proof.Laws.Encoding.dbgenWrite (p : Nat) (v : Word) : Sys2Proof.Laws.Encoding.Statement (.dbgenWrite p v) := Sys2Proof.Laws.Encoding.of_step rfl
theorem Sys2Proof.Laws.Encoding.h2dWrite (p : Nat) (v : DWord) : Sys2Proof.Laws.Encoding.Statement (.h2dWrite p v) := Sys2Proof.Laws.Encoding.of_step rfl
theorem Sys2Proof.Laws.Encoding.h2dStageWrite (p : Nat) (v : Word) : Sys2Proof.Laws.Encoding.Statement (.h2dStageWrite p v) := Sys2Proof.Laws.Encoding.of_step rfl
theorem Sys2Proof.Laws.Encoding.h2dHighWrite (p : Nat) (v : Word) : Sys2Proof.Laws.Encoding.Statement (.h2dHighWrite p v) := Sys2Proof.Laws.Encoding.of_step rfl
theorem Sys2Proof.Laws.Encoding.d2hRead (p : Nat) : Sys2Proof.Laws.Encoding.Statement (.d2hRead p) := Sys2Proof.Laws.Encoding.of_step rfl
theorem Sys2Proof.Laws.Encoding.d2hHighRead (p : Nat) : Sys2Proof.Laws.Encoding.Statement (.d2hHighRead p) := Sys2Proof.Laws.Encoding.of_step rfl
theorem Sys2Proof.Laws.Encoding.keySet (p k : Nat) (key : BitVec 512) : Sys2Proof.Laws.Encoding.Statement (.keySet p k key) := Sys2Proof.Laws.Encoding.of_step rfl
theorem Sys2Proof.Laws.Encoding.keyClear (p k : Nat) : Sys2Proof.Laws.Encoding.Statement (.keyClear p k) := Sys2Proof.Laws.Encoding.of_step rfl
theorem Sys2Proof.Laws.Encoding.spdmMeasurement (fn block : Nat) : Sys2Proof.Laws.Encoding.Statement (.spdmMeasurement fn block) := Sys2Proof.Laws.Encoding.of_step rfl
theorem Sys2Proof.Laws.Encoding.tdispStop (p : Nat) : Sys2Proof.Laws.Encoding.Statement (.tdispStop p) := Sys2Proof.Laws.Encoding.of_step rfl
theorem Sys2Proof.Laws.Encoding.ualinkInbound (req : FabricRequest) : Sys2Proof.Laws.Encoding.Statement (.ualinkInbound req) := Sys2Proof.Laws.Encoding.of_step rfl
theorem Sys2Proof.Laws.Encoding.ualinkCompletion (core id : Nat) (ok : Bool) (data : List Byte) : Sys2Proof.Laws.Encoding.Statement (.ualinkCompletion core id ok data) := Sys2Proof.Laws.Encoding.of_step rfl
theorem Sys2Proof.Laws.Encoding.registerWrite (fn off size : Nat) (v : DWord) : Sys2Proof.Laws.Encoding.Statement (.registerWrite fn off size v) := Sys2Proof.Laws.Encoding.of_step rfl
theorem Sys2Proof.Laws.Encoding.uncorrectableError (e : ErrorSite) : Sys2Proof.Laws.Encoding.Statement (.uncorrectableError e) := Sys2Proof.Laws.Encoding.of_step rfl
theorem Sys2Proof.Laws.Encoding.firmwareUpdate : Sys2Proof.Laws.Encoding.Statement (.firmwareUpdate) := Sys2Proof.Laws.Encoding.of_step rfl
theorem Sys2Proof.Laws.Encoding.tdiConfigLocked (p : Nat) : Sys2Proof.Laws.Encoding.Statement (.tdiConfigLocked p) := Sys2Proof.Laws.Encoding.of_step rfl
theorem Sys2Proof.Laws.Encoding.tdiRun (p : Nat) : Sys2Proof.Laws.Encoding.Statement (.tdiRun p) := Sys2Proof.Laws.Encoding.of_step rfl
theorem Sys2Proof.Laws.Encoding.powerGating (core : Nat) : Sys2Proof.Laws.Encoding.Statement (.powerGating core) := Sys2Proof.Laws.Encoding.of_step rfl
theorem Sys2Proof.Laws.Encoding.lowPowerEntry : Sys2Proof.Laws.Encoding.Statement (.lowPowerEntry) := Sys2Proof.Laws.Encoding.of_step rfl
end

