-- ==== Sys2Proof/Tests/Slice0.lean ====
section
/-! SUPPORT. Tests: ill-formed terms that the checks refuse, words that decode as the manual says, results of single steps worked out
from the manual, and for every statement with premises a state that meets them. -/

namespace Sys2Proof.Tests

open Sys2Proof Sys2Proof.Machine

set_option maxRecDepth 100000
set_option Elab.async false

/-! A machine with one crew of one thread at hand: crew slot 0 of core 0, address 0x10000. -/

/-- A thread at 0x10000, in U mode, with a handler, holding the registers of a list. -/
def thread (rs : List (Nat × Nat × Tag)) : Thread :=
  rs.foldl (fun t r => t.write r.1 r.2.2.wide (BitVec.ofNat 64 r.2.1) r.2.2)
    { pc := 0x10000, st := .runnable, tvec := 0x20000 }
/-- The same in S mode. -/
def sThread (rs : List (Nat × Nat × Tag)) : Thread := { thread rs with priv := true }
/-- Its crew. -/
def crew (t : Thread) : Crew := { programCrew 2 0 with threads := Vector.ofFn fun l => if l.val = 0 then t else {} }
/-- A crew whose every lane is one thread. -/
def full (t : Thread) : Crew := { crew t with threads := Vector.ofFn fun _ => t }
/-- The bundle. -/
def bundle : Cur := { core := 0, slot := 0, lanes := [0], pc := 0x10000 }
/-- The machine: reset, with the launch, team and translation of a placed program, and the bundle at hand; and that bundle in another
machine. -/
def base : State := { State.reset.booted.placeProgram [] with agenda := [] }
def within (w : State) (c : Crew) : State := ({ w with cur := some bundle } : State).setCrew 0 0 (some c)
def machine (t : Thread) : State := within base (crew t)

/-- A thread is at the bundle's address, runnable, with no mark. -/
abbrev Here (t : Thread) : Prop := t.haltMark = false ∧ t.stepMark = false ∧ t.pc = 0x10000 ∧ t.st = .runnable

@[simp] theorem crew_thread (t : Thread) : (crew t).thread 0 = t := by
  unfold crew
  rw [Crew.thread_ofFn _ _ _ (by decide), if_pos rfl]
theorem within_crew (w : State) (c : Crew) : (within w c).crew 0 0 = some c := by
  unfold within
  rw [State.crew_setCrew, if_pos (by decide)]
theorem machine_hdr (t : Thread) : (machine t).hdrOf 0 0 = (programLaunch 1 []).hdr := by
  unfold State.hdrOf State.teamOf machine
  rw [within_crew]
  have hc : ((within base (crew t)).core 0).team 2 = (base.core 0).team 2 := by
    unfold within State.setCrew Core.team
    rw [State.core_modCore, if_pos (by decide), Core.setCrew_teams]
    rfl
  have hl : ∀ p id, (within base (crew t)).launch p id = base.launch p id := by
    intro p id
    unfold State.launch State.part within
    rw [State.setCrew_parts]
  show (match ((within base (crew t)).core 0).team 2 with
    | none => {}
    | some t' => match (within base (crew t)).launch t'.part t'.launch with | none => {} | some l => l.hdr : Header) = _
  simp only [hc, hl]
  decide +kernel

theorem atHand (w : State) {c : Crew} (h : Here (c.thread 0)) : AtHand (within w c) bundle c := by
  refine ⟨?_, within_crew w c, fun l hl => ?_⟩
  · unfold within
    rw [State.setCrew_cur]
  · simp only [bundle, List.mem_singleton] at hl
    subst hl
    exact ⟨by decide, h⟩

/-- The premises of a statement on lanes' own registers. -/
@[irreducible] def Met (o : Enc) (short : Bool) (srcs : Thread → List Opnd) (dst : Option (Nat × Bool)) (preds : List Nat) (t : Thread) : Prop :=
  AtHand (machine t) bundle (crew t) ∧ ∀ l < 32, TakesPart ((machine t).hdrOf 0 0).pair [0] l →
    Operable o short (srcs ((crew t).thread l)) dst preds ((crew t).thread l)

theorem met {o : Enc} {short : Bool} {srcs : Thread → List Opnd} {dst : Option (Nat × Bool)} {preds : List Nat} {t : Thread} (h : Here t)
    (ho : Operable o short (srcs t) dst preds t) : Met o short srcs dst preds t := by
  unfold Met
  refine ⟨atHand base (by rwa [crew_thread]), fun l _ hl => ?_⟩
  rw [machine_hdr] at hl
  rcases hl with hl | ⟨hp, _⟩
  · simp only [List.mem_singleton] at hl
    subst hl
    rw [crew_thread]
    exact ho
  · exact absurd hp (by decide)

/-- The premises of a statement on one lane of a bundle; the lane's crew given, or as above. -/
@[irreducible] def AtCrew (w : State) (c : Crew) (o : Enc) (short : Bool) (srcs : List Opnd) (dst : Option (Nat × Bool)) (preds : List Nat) :
    Prop := Alone (within w c) bundle c 0 o short srcs dst preds
@[irreducible] def At (w : State) (o : Enc) (short : Bool) (srcs : List Opnd) (dst : Option (Nat × Bool)) (preds : List Nat) (t : Thread) : Prop :=
  Alone (within w (crew t)) bundle (crew t) 0 o short srcs dst preds

theorem at_crew {w : State} {c : Crew} {o : Enc} {short : Bool} {srcs : List Opnd} {dst : Option (Nat × Bool)} {preds : List Nat}
    (h : Here (c.thread 0) ∧ ((within w c).hdrOf 0 0).pair = false ∧ o.guard short (c.thread 0) = true ∧
      (∀ p ∈ o.guardPreds short, p ∉ (c.thread 0).predWait) ∧ operandFate (c.thread 0) srcs dst preds = .ready) :
    AtCrew w c o short srcs dst preds := by
  unfold AtCrew
  exact ⟨atHand w h.1, rfl, h.2.1, h.2.2.1, h.2.2.2.1, h.2.2.2.2⟩

theorem at_hand {w : State} {o : Enc} {short : Bool} {srcs : List Opnd} {dst : Option (Nat × Bool)} {preds : List Nat} {t : Thread}
    (h : Here t ∧ ((within w (crew t)).hdrOf 0 0).pair = false ∧ o.guard short t = true ∧ (∀ p ∈ o.guardPreds short, p ∉ t.predWait) ∧
      operandFate t srcs dst preds = .ready) : At w o short srcs dst preds t := by
  unfold At
  have e := crew_thread t
  exact ⟨atHand w (by rw [e]; exact h.1), rfl, h.2.1, by rw [e]; exact h.2.2.1, by rw [e]; exact h.2.2.2.1, by rw [e]; exact h.2.2.2.2⟩

/-- The form of every memory, as one evaluation. -/
theorem memory_form {s : State} (hm : Memory.wf s.mem = true) (hh : Memory.wf s.hostMem = true)
    (hb : (s.cores.toList.all fun c => c.banks.toList.all fun k => Memory.wf k.mem) = true)
    (hi : ∀ p < 9, (s.part p).image.isEmpty = true) : MemoryWf s := by
  refine ⟨hm, hh, fun b hb' k hk => ?_, fun p hp m hm' => ?_⟩
  · simp only [List.all_eq_true] at hb
    unfold State.core Core.bank
    rw [dif_pos hb', dif_pos hk]
    exact hb _ (Vector.mem_toList_iff.2 (Vector.getElem_mem hb')) _ (Vector.mem_toList_iff.2 (Vector.getElem_mem hk))
  · have h := hi p hp
    rw [List.isEmpty_iff] at h
    rw [h] at hm'
    cases hm'
/-- With nothing held in L2 nothing waits to be written back. -/
theorem writes_back {s : State} (h : s.l2 = []) : WritesBack s := by
  intro o ho
  rw [h] at ho
  cases ho

/-- No exception is enabled in such a thread. -/
theorem thread_quiet (rs : List (Nat × Nat × Tag)) : (∀ es, Quiet (thread rs) es) ∧ ∀ f r, Calm f r (thread rs) := by
  have h : (thread rs).rnd = 0 := by
    unfold thread
    suffices ∀ t : Thread, t.rnd = 0 → (rs.foldl (fun t r => t.write r.1 r.2.2.wide (BitVec.ofNat 64 r.2.1) r.2.2) t).rnd = 0 from
      this _ rfl
    induction rs with
    | nil => exact fun _ h => h
    | cons r rs ih => exact fun t h => ih _ (by simpa using h)
  exact ⟨fun es e _ => by simp [h, bits], fun f r e _ => by simp [h, bits]⟩

/-! Premises of the statements on lanes' own registers. -/

theorem witness_IntegerArithmetic :
    ({} : Enc).fmt .i32 ∈ Encoding.setWP ∧ ({} : Enc).fmt .i32 ∈ Encoding.setW ∧ (Instr.ineg {}).wf = true ∧ (Instr.iabs {}).wf = true ∧
    Met { d := 1, a := 2, b := 3 } true (opsAB { d := 1, a := 2, b := 3 } .i32) (dstD { d := 1 } .i32) [] (thread [(2, 7, .i32), (3, 0x80000000, .i32)]) ∧
    Met { d := 1, a := 2 } true (opsA { d := 1, a := 2 } .i32) (dstD { d := 1 } .i32) [] (thread [(2, 0x80000000, .i32)]) ∧
    Met { d := 1, a := 2, b := 3 } true (opsAB { d := 1, a := 2, b := 3 } .i32) (dstD { d := 1 } .i32) [127, 127]
      (thread [(2, 0xFFFFFFFF, .i32), (3, 1, .i32)]) := by
  and_intros <;> first | exact met (by decide +kernel) (by decide +kernel) | decide +kernel

theorem witness_ProductsAndQuotients :
    Met { d := 1, a := 2, b := 3 } false (opsAB { d := 1, a := 2, b := 3 } .i32) (dstD { d := 1 } .i32) [] (thread [(2, 7, .i32), (3, 5, .i32)]) ∧
    Met { d := 1, a := 2, b := 3 } false (opsABC { d := 1, a := 2, b := 3 } .i32) (dstD { d := 1 } .i32) []
      (thread [(1, 1, .i32), (2, 7, .i32), (3, 5, .i32)]) ∧
    -- a zero divisor; the lowest value over −1
    Met { d := 1, a := 2, b := 3 } true (opsAB { d := 1, a := 2, b := 3 } .i32) (dstD { d := 1 } .i32) [] (thread [(2, 7, .i32), (3, 0, .i32)]) ∧
    Met { d := 1, a := 2, b := 3 } true (opsAB { d := 1, a := 2, b := 3 } .i32) (dstD { d := 1 } .i32) []
      (thread [(2, 0x80000000, .i32), (3, 0xFFFFFFFF, .i32)]) := by
  and_intros <;> first | exact met (by decide +kernel) (by decide +kernel) | decide +kernel

theorem witness_BitOperations :
    ({} : Enc).fmt .n32 ∈ Encoding.setL ∧ ({} : Enc).fmt .n32 ∈ Encoding.setW ∧
    Met { d := 1, a := 2, b := 3 } true (opsAB { d := 1, a := 2, b := 3 } .n32) (dstD { d := 1 } .n32) [] (thread [(2, 7, .n32), (3, 5, .n32)]) ∧
    Met { d := 1, a := 2 } true (opsA { d := 1, a := 2 } .n32) (dstD { d := 1 } .n32) [] (thread [(2, 0, .n32)]) ∧
    -- a count of the full width; a field of length 0
    Met { d := 1, a := 2, b := 3 } true (opsAn { d := 1, a := 2, b := 3 } .n32) (dstD { d := 1 } .n32) [] (thread [(2, 7, .n32), (3, 32, .n32)]) ∧
    Met { d := 1, a := 2, b := 3 } true (fun _ => [Enc.regA { a := 2 } false (.only .n32), Enc.litB { b := 3 } false countTags,
      Enc.regC { d := 1 } false (.only .n32)]) (dstD { d := 1 } .n32) [] (thread [(1, 5, .n32), (2, 7, .n32), (3, 0, .n32)]) ∧
    Met { d := 1, a := 2 } true (opsA { d := 1, a := 2 } .n32) (some (1, false)) [] (thread [(2, 0, .n32)]) := by
  and_intros <;> first | exact met (by decide +kernel) (by decide +kernel) | decide +kernel

theorem witness_MovesComparesPredicates :
    -- SEL by C, and by PE; MOV of a literal; MOVL; LEA
    Met { d := 1, a := 2, b := 3 } true (fun _ => [Enc.regA { a := 2 } false (moveWant .raw false), Enc.litB { b := 3 } false (moveWant .raw false),
      Enc.regC { d := 1 } false .noHandle]) (dstD { d := 1 } .raw) [] (thread [(1, 1, .n32), (2, 7, .n32), (3, 0, .f32)]) ∧
    Met { form := .ext, mod := 1, w2 := 5 <<< 21, d := 1, a := 2, b := 3 } true (fun _ => [Enc.regA { a := 2 } false (moveWant .raw false),
      Enc.litB { b := 3 } false (moveWant .raw false)]) (dstD { d := 1 } .raw) [5] (thread [(2, 7, .n32), (3, 0, .f32)]) ∧
    Met { form := .lit, d := 1, literal := 9 } true (fun _ => [Enc.litA { form := .lit, literal := 9 } false (moveWant .raw false)])
      (dstD { d := 1 } .raw) [] (thread []) ∧
    Met { form := .lit, d := 2, literal := 9 } true (fun _ => []) (some (2, true)) [] (thread []) ∧
    Met { d := 2, a := 4, b := 3 } true (fun _ => [Enc.regA { a := 4 } true (.only .addr), Enc.litB { b := 3 } false countTags])
      (some (2, true)) [] (thread [(4, 0xFFFFFFFFFFFFFFFF, .addr), (3, 1, .i32)]) ∧
    -- ICMP in both forms, the predicate group, and PPACK and PUNPK at the last start
    ({} : Enc).fmt .i32 ∈ Encoding.setW ∧
    Met { d := 1, a := 2, b := 3 } true (opsAB { a := 2, b := 3 } .i32) none [1] (thread [(2, 7, .i32), (3, 0, .i32)]) ∧
    Met { form := .ext, w2 := 9 + 10 * 128, a := 2, b := 3, ft := 1 } true (opsAB { form := .ext, a := 2, b := 3 } .i32) none [9, 10]
      (thread [(2, 7, .i32), (3, 7, .i32)]) ∧
    Met { d := 1, a := 2, b := 3 } true (fun _ => []) none [1, 2, 3] (thread []) ∧
    Met { form := .ext, d := 1, w2 := 96 * 128 } true (fun _ => []) (some (1, false)) ((List.range 32).map (· + 96)) (thread []) ∧
    ({ form := .ext, a := 2, w2 := 96 } : Enc).predD ≤ 96 ∧
    Met { form := .ext, a := 2, w2 := 96 } true (fun _ => [Enc.litA { form := .ext, a := 2, w2 := 96 } false (.oneOf [.pred32, .n32])]) none
      ((List.range 32).map (· + 96)) (thread [(2, 3, .pred32)]) := by
  and_intros <;> first | exact met (by decide +kernel) (by decide +kernel) | decide +kernel

theorem witness_FloatArithmeticAndSelection :
    -- the lowest significand; one NaN, quiet, behind a number
    (0 < 1 ∧ (Val.nan false true 5).isNaN = true ∧ (Val.zero true).isNaN = false ∧
      firstNaN [.zero true, .nan false true 5, .inf true] = some (.nan false true 5) ∧ firstNaN [.zero true, .inf false, .inf true] = none) ∧
    ({} : Enc).fmt .f32 ∈ Encoding.setFS ∧ (∀ f r, Calm f r (thread [(1, 0, .f32), (2, 0x3F800000, .f32), (3, 0x80000000, .f32)])) ∧
    (∀ es, Quiet (thread [(2, 0x7FC00000, .f32), (3, 0x80000000, .f32)]) es) ∧
    Met { d := 1, a := 2, b := 3 } true (opsAB { a := 2, b := 3 } .f32) (dstD { d := 1 } .f32) []
      (thread [(1, 0, .f32), (2, 0x3F800000, .f32), (3, 0x80000000, .f32)]) ∧
    Met { form := .ext, rm := 5, d := 1, a := 2, b := 3, c := 4, ft := 5 } true (fun _ => [Enc.regA { a := 2 } false (.only .f32),
      Enc.litB { b := 3 } false (.only .f32), Enc.regC { form := .ext, c := 4 } false (.only .n32)]) (dstD { d := 1 } .f32) []
      (thread [(2, 0x3F800000, .f32), (3, 0x80000000, .f32), (4, 0xFFFF, .n32)]) ∧
    Met { d := 1, a := 2, b := 3 } false (opsABC { d := 1, a := 2, b := 3 } .f32) (dstD { d := 1 } .f32) []
      (thread [(1, 0, .f32), (2, 0x3F800000, .f32), (3, 0x80000000, .f32)]) ∧
    Met { d := 1, a := 2 } true (opsA { a := 2 } .f32) (dstD { d := 1 } .f32) [] (thread [(2, 0x80000000, .f32)]) ∧
    Met { d := 1, a := 2, b := 3 } true (opsAB { a := 2, b := 3 } .f32) none [1] (thread [(2, 0x7FC00000, .f32), (3, 0x80000000, .f32)]) := by
  and_intros
  iterate 6 · decide +kernel
  · exact (thread_quiet _).2
  · exact (thread_quiet _).1
  all_goals first | exact met (by decide +kernel) (by decide +kernel) | decide +kernel

theorem witness_FloatFunctions :
    -- the lowest and the highest significand of a format
    (24 ∈ [8, 11, 24, 53] ∧ 0 < 1 ∧ 2 ^ 24 - 1 < 2 ^ 24) ∧
    ({} : Enc).fmt .f32 ∈ Encoding.setFX ∧ (∀ f r, Calm f r (thread [(2, 0x80000000, .f32), (3, 0, .i32)])) ∧
    Met { d := 1, a := 2, b := 3 } false (opsAB { a := 2, b := 3 } .f32) (dstD { d := 1 } .f32) [] (thread [(2, 0x3F800000, .f32), (3, 0, .f32)]) ∧
    Met { d := 1, a := 2 } false (opsA { a := 2 } .f32) (dstD { d := 1 } .f32) [] (thread [(2, 0x80000000, .f32)]) ∧
    Met { d := 1, a := 2, b := 3 } true (fun _ => [Enc.regA { a := 2 } false (.only .f32), Enc.litB { b := 3 } false (.only .i32)])
      (dstD { d := 1 } .f32) [] (thread [(2, 0x80000000, .f32), (3, 0, .i32)]) := by
  and_intros
  iterate 4 · decide +kernel
  · exact (thread_quiet _).2
  all_goals first | exact met (by decide +kernel) (by decide +kernel) | decide +kernel

theorem witness_Rounding :
    (0 < 1 ∧ (true = true)) ∧
    -- exact, below half, half and above half of a grid step of 4; the largest finite F32
    (0 < 2 ∧ 8 % 2 ^ 2 = 0 ∧ 9 % 2 ^ 2 ≠ 0 ∧ 2 * (9 % 2 ^ 2) < 2 ^ 2 ∧ 2 * (10 % 2 ^ 2) = 2 ^ 2 ∧ 2 ^ 2 < 2 * (11 % 2 ^ 2)) ∧
    (FloatFmt.f32 ∈ [FloatFmt.f64, .f32, .f16, .bf16, .e4m3, .e5m2, .e2m1] ∧ 0x7F7FFFFF < 2 ^ FloatFmt.f32.width ∧
      (FloatFmt.f32.decode 0x7F7FFFFF).isNaN = false) := by
  and_intros <;> first | exact met (by decide +kernel) (by decide +kernel) | decide +kernel

theorem witness_ConversionsAndDotProducts :
    (∀ f r, Calm f r (thread [(1, 0, .e4m3x4), (2, 0x3F800000, .f32), (3, 0, .f32), (4, 0, .e8m0x4)])) ∧ (∀ es, Quiet (thread [(2, 0, .bf16x2)]) es) ∧
    -- CVT of a typed value, CVTS
    ({} : Enc).fmt .f32 ∈ Encoding.setX ∧
    Met { d := 1, a := 2 } true (fun t => [(cvtSource { d := 1, a := 2 } true t).1]) (dstD { d := 1 } .f32) [] (thread [(2, 5, .i32)]) ∧
    Met { d := 1, a := 2, b := 3 } true (fun t => [(cvtSource { d := 1, a := 2, b := 3 } false t).1, Enc.litB { b := 3 } false (.only .i32)])
      (dstD { d := 1 } .f32) [] (thread [(2, 5, .i32), (3, 0, .i32)]) ∧
    -- PACK, UNPK, QNT, DEQ, at the last pair
    ({} : Enc).fmt .bf16x2 ∈ Encoding.setNP ∧ ({ form := .ext, ft := 0x09, mod := 1 } : Enc).fmt .e4m3x4 ∈ Encoding.setQ ∧
    2 * ({} : Enc).modBits 1 0 < Tag.bf16x2.count ∧ 2 * ({ form := .ext, mod := 1 } : Enc).modBits 1 0 < Tag.e4m3x4.count ∧
    Met { d := 1, a := 2, b := 3 } true (fun _ => [Enc.regA { a := 2 } false (.only .f32), Enc.litB { b := 3 } false (.only .f32)] ++ [] ++
      [Enc.regD { d := 1 } false (.only .bf16x2)]) (dstD { d := 1 } .bf16x2) [] (thread [(1, 0, .bf16x2), (2, 0, .f32), (3, 0, .f32)]) ∧
    Met { d := 1, a := 2 } true (fun _ => [Enc.litA { a := 2 } false (.only .bf16x2)]) (some (1, false)) [] (thread [(2, 0, .bf16x2)]) ∧
    Met { form := .ext, ft := 0x09, mod := 1, d := 1, a := 2, b := 3, c := 4 } true (fun _ => [Enc.regA { a := 2 } false (.only .f32),
      Enc.litB { b := 3 } false (.only .f32), Enc.regC { form := .ext, c := 4 } false (.only .e8m0x4), Enc.regD { d := 1 } false (.only .e4m3x4)])
      (dstD { d := 1 } .e4m3x4) [] (thread [(1, 0, .e4m3x4), (2, 0x3F800000, .f32), (3, 0, .f32), (4, 0, .e8m0x4)]) ∧
    Met { d := 1, a := 2, b := 3 } true (fun _ => [Enc.regA { a := 2 } false (.only .bf16x2), Enc.litB { b := 3 } false (.only .e8m0x4)])
      (some (1, false)) [] (thread [(2, 0, .bf16x2), (3, 0, .e8m0x4)]) ∧
    -- DOT2 in a float format and in an integer one, DOT4, DOT8
    ({} : Enc).fmt .f16x2 ∈ [Tag.f16x2, .bf16x2, .i16x2, .n16x2] ∧ ({} : Enc).fmt .e4m3x4 ∈ [Tag.e4m3x4, .e5m2x4, .i8x4, .n8x4] ∧
    ({} : Enc).fmt .e2m1x8 ∈ [Tag.e2m1x8, .i4x8] ∧ Tag.f16x2.isFloat = true ∧ Tag.i4x8.isFloat = false ∧
    Met { d := 1, a := 2, b := 3 } false (fun _ => [Enc.regA { a := 2 } false (.only .f16x2), Enc.litB { b := 3 } false (.only .f16x2),
      Enc.regC { d := 1 } false (.only .f32)]) (some (1, false)) [] (thread [(1, 0, .f32), (2, 0, .f16x2), (3, 0, .f16x2)]) ∧
    Met { form := .ext, ft := 0x0E, d := 1, a := 2, b := 3, c := 4 } false (fun _ => [Enc.regA { a := 2 } false (.only .i4x8),
      Enc.litB { b := 3 } false (.only .i4x8), Enc.regC { form := .ext, c := 4 } false (.only .i32)]) (some (1, false)) []
      (thread [(2, 0x88888888, .i4x8), (3, 0x88888888, .i4x8), (4, 0, .i32)]) := by
  and_intros
  · exact (thread_quiet _).2
  · exact (thread_quiet _).1
  all_goals first | exact met (by decide +kernel) (by decide +kernel) | decide +kernel

theorem witness_RandomNumbers :
    Met { d := 1, a := 2, b := 4 } true (fun _ => [Enc.regA { a := 2 } true (.oneOf [.n64, .i64]), Enc.litB { b := 4 } true (.oneOf [.n64, .i64])])
      (some (1, false)) [] (thread [(2, 1, .n64), (4, 0xFFFFFFFFFFFFFFFF, .n64)]) ∧
    Met { d := 1, a := 2, b := 4 } true (fun _ => [Enc.regA { a := 2 } true (.oneOf [.n64, .i64]), Enc.litB { b := 4 } true (.oneOf [.n64, .i64])] ++
      [Enc.regC { d := 1 } false (.only .n32)]) (some (1, false)) [] (thread [(1, 0x80000000, .n32), (2, 1, .n64), (4, 0xFFFFFFFFFFFFFFFF, .n64)]) := by
  and_intros <;> first | exact met (by decide +kernel) (by decide +kernel) | decide +kernel

theorem witness_Markers :
    Met {} true (fun _ => []) none [] (thread []) ∧ ((machine (thread [])).hdrOf bundle.core bundle.slot).det = false := by
  and_intros <;> first | exact met (by decide +kernel) (by decide +kernel) | decide +kernel

/-- A thread with inexact and every other exception enabled. -/
def strict : Thread := { thread [(2, 0x3F800000, .f32), (3, 0, .f32)] with rnd := 0x1F00 }
theorem witness_OperandChecksAndLaneTraps :
    ({} : Enc).fmt .f32 ∈ Encoding.setFX ∧ (0 : BitVec 3) ≠ 5 ∧ AtHand (machine strict) bundle (crew strict) ∧ bundle.lanes = [0] ∧
    ((machine strict).hdrOf 0 0).pair = false ∧ strict.handles = true ∧
    (∀ short, ∀ p ∈ Enc.guardPreds {} short, p ∉ strict.predWait) ∧ (∀ short, Enc.guard {} short strict = true) ∧
    -- FADD of a value of the wrong tag
    (∃ r, operandFate (thread [(2, 0, .i32), (3, 0, .f32)]) (opsAB { a := 2, b := 3 } .f32 default) (dstD { d := 1 } .f32) [] = .trap r ∧
      r.next = false) ∧
    -- FDIV of 1 by 0 with division by zero enabled
    operandFate strict (opsAB { a := 2, b := 3 } .f32 strict) (dstD { d := 1 } .f32) [] = .ready ∧
    [(roundSpecial .f32 (roundOf {} strict) (fpDiv false FloatFmt.f32.p (FloatFmt.f32.decode (valA { a := 2 } false strict))
      (FloatFmt.f32.decode (valB { b := 3 } false strict)))).2].any (fun e => e.toNat &&& bits strict.rnd.toNat 12 8 != 0) = true := by
  refine ⟨?_, ?_, ?_, ?_, ?_, ?_, ?_, ?_, ⟨_, rfl, ?_⟩, ?_, ?_⟩ <;> first | exact atHand _ (by decide +kernel) | decide +kernel

/-! Premises of the statements on control flow, handles, special registers and memory. -/

/-- The address of byte `off` of the team's own bank 0, and what core 0 can look like. -/
def ownSpad0 (off : Nat) : Nat := 0xFFFE00000F000000 + off
def withCore (f : Core → Core) : State := base.modCore 0 f
def lane0 : Lane := ⟨0, 0, 0⟩

theorem witness_Branches :
    At base {} true [] none [] (thread []) ∧ At base {} true [] (some (62, true)) [] (thread []) ∧
    At base { a := 2 } true [Enc.regA { a := 2 } true (.only .addr)] none [] (thread [(2, 0xFFFFFFFFFFFFFFFC, .addr)]) ∧
    ((thread [(2, 0xFFFFFFFFFFFFFFFC, .addr)]).value 2 true).toNat % 4 = 0 := by
  and_intros <;> first | exact at_hand (by decide +kernel) | decide +kernel

theorem witness_TrapExitYield :
    At base {} true [] none [] (thread []) ∧ (thread []).handles = true ∧ (machine (thread [])).failureOf lane0 [1, 2, 3, 4, 5, 6] = none ∧
    ((machine (thread [])).hdrOf 0 0).det = false := by
  and_intros <;> first | exact at_hand (by decide +kernel) | decide +kernel

/-- Handle slot 1023 of core 0, of generation 1 and class 2, in a state, and the value that names it. -/
def slotted (st : HandleState) : State :=
  base.modHandle 0 1023 fun _ => { st, gen := 1, cls := 2, team := 2, slot := 0, lane := 1, word := 0x20000000 }
def named : Nat := 2 * 2 ^ 26 + 1023 * 2 ^ 16 + 1
theorem witness_Handles :
    -- TESTH, WAITH and CANCH of it; HTAG of its bits
    At (slotted .ended) { a := 2, d := 5 } true [.reg 1 2 false false (.among [.handle])] none [5] (thread [(2, named, .handle)]) ∧
    At (slotted .ended) { a := 2, d := 5 } true [.reg 1 2 false false (.among [.handle])] (some (5, false)) [] (thread [(2, named, .handle)]) ∧
    At (slotted .free) { a := 2 } true [.reg 1 2 false false (.among [.handle])] none [] (thread [(2, named, .handle)]) ∧
    At (slotted .pending) { a := 2 } true [.reg 1 2 false false (.among [.handle])] none [] (thread [(2, named, .handle)]) ∧
    At (slotted .ended) { a := 2, d := 5 } true [.reg 1 2 false false (.only .n32)] (some (5, false)) [] (thread [(2, named, .n32)]) ∧
    ((1023 = bits named 25 16 ∧ bits named 31 26 = 2 ∧ bits named 15 0 = 1) ∧
      ∀ st ∈ [HandleState.free, .pending, .ended],
        (((within (slotted st) (crew (thread [(2, named, .handle)]))).teamOf 0 0).map Team.id = some 2 ∧
        let e := (within (slotted st) (crew (thread [(2, named, .handle)]))).handle 0 1023
        e.team = 2 ∧ e.gen = 1 ∧ e.cls = 2 ∧ e.st = st ∧ e.fail = none ∧ bits e.word.toNat 31 29 ≠ 3)) ∧
    -- generation 2 of that slot names nothing
    At (slotted .ended) { a := 2 } true [.reg 1 2 false false (.among [.handle])] none [] (thread [(2, named + 1, .handle)]) ∧
    ((within (slotted .ended) (crew (thread [(2, named + 1, .handle)]))).handle 0 1023).gen ≠ bits (named + 1) 15 0 ∧
    (thread [(2, named + 1, .handle)]).handles = true := by
  and_intros <;> first | exact at_hand (by decide +kernel) | decide +kernel

theorem witness_SpecialRegisters :
    At base { d := 1 } true [] (some (1, Encoding.srWide (Encoding.srnRead { d := 1 }))) [] (thread []) ∧
    At base { d := 2 } true [] none [] (thread []) ∧ (∀ q < 64, ((thread []).reg q).full = true) ∧ (thread []).predWait = [] ∧
    -- SWRITE of RNDMODE in U mode, and of TPC in S mode
    Encoding.srnWrite { form := .lit, d := 0x21, literal := 1 } = 0x021 ∧
    At base { form := .lit, d := 0x21, literal := 1 } true [] none [] (thread []) ∧ srBad 0x021 1 = none ∧
    operandFate (thread []) [Enc.litA { form := .lit, d := 0x21, literal := 1 } (Encoding.srWide 0x021) (.only (srTag 0x021))] none [] = .ready ∧
    Encoding.srnWrite { form := .lit, d := 0x31, literal := 4 } = 0x031 ∧ ((Encoding.srInfo 0x031).any fun i => i.access == .rwS) = true ∧
    At base { form := .lit, d := 0x31, literal := 4 } true [] none [] (sThread []) ∧ (sThread []).priv = true ∧ srBad 0x031 4 = none ∧
    -- a crew, its team and its launch
    ((machine (thread [])).crew 0 0).isSome = true ∧ ((machine (thread [])).teamOf 0 0).isSome = true ∧
    (((machine (thread [])).teamOf 0 0).bind fun t => (machine (thread [])).launch t.part t.launch).isSome = true := by
  and_intros <;> first | exact at_hand (by decide +kernel) | decide +kernel

theorem witness_SpecialRegisters_writes :
    let word (d b : Nat) : Enc := { form := .lit, d := BitVec.ofNat 6 d, b := BitVec.ofNat 6 b, literal := 7 }
    -- CR_TARGET, FINJ, and the first and the last word of the tile registers, in S mode and, of the supervisor's, in U mode
    (∀ o ∈ [word 0 1, word 2 1, word 0 4, word 63 4], At base o true [] none [] (sThread []) ∧
      operandFate (sThread []) [o.litA (Encoding.srWide (Encoding.srnWrite o)) (.only (srTag (Encoding.srnWrite o)))] none [] = .ready ∧
      srBad (Encoding.srnWrite o) (o.litVal (Encoding.srWide (Encoding.srnWrite o))).toNat = none) ∧
    Encoding.srnWrite (word 0 1) = 0x040 ∧ Encoding.srnWrite (word 2 1) = 0x042 ∧ Encoding.srnWrite (word 0 4) = 0x100 ∧
    Encoding.srnWrite (word 63 4) = 0x13F ∧
    ((Encoding.srInfo 0x042).any fun i => i.access == .rwS) = true ∧ At base (word 2 1) true [] none [] (thread []) ∧ (thread []).handles = true ∧
    (thread []).priv = false := by
  refine ⟨?_, ?_⟩
  · intro o ho
    simp only [List.mem_cons, List.not_mem_nil, or_false] at ho
    rcases ho with rfl | rfl | rfl | rfl
    all_goals and_intros <;> first | exact at_hand (by decide +kernel) | decide +kernel
  · and_intros <;> first | exact at_hand (by decide +kernel) | decide +kernel

theorem witness_TrapReturns :
    At base {} true [] none [] (sThread []) ∧ (sThread []).priv = true ∧ (sThread []).tpc.toNat % 4 = 0 ∧
    ((machine (sThread [])).hdrOf 0 0).det = false ∧ ((machine (sThread [])).teamOf 0 0).any (fun t => t.slots.contains 0) = true ∧
    At base {} true [] none [] (thread []) ∧ (thread []).handles = true := by
  and_intros <;> first | exact at_hand (by decide +kernel) | decide +kernel

theorem witness_Steering :
    let s := machine (thread [])
    let inSpad (va : Nat) : Prop := bits va 47 28 = 0 ∧ bits va 23 22 = 0 ∧ bits va 21 16 < 48 ∧ va % 65536 < s.spcap 0
    -- the last byte of the own bank 0; bank 48; an odd halfword
    ((ownSpad0 65535) / 2 ^ 48 = 0xFFFE ∧ inSpad (ownSpad0 65535) ∧ bits (ownSpad0 65535) 27 24 = 0xF ∧
      (s.teamOf 0 0).any (fun t => t.banks[bits (ownSpad0 65535) 21 16]? == some 0) = true) ∧
    ((ownSpad0 (48 * 65536)) / 2 ^ 48 = 0xFFFE ∧ ¬ bits (ownSpad0 (48 * 65536)) 21 16 < 48) ∧
    ((ownSpad0 1) / 2 ^ 48 = 0xFFFE ∧ inSpad (ownSpad0 1) ∧ ownSpad0 1 % 2 ≠ 0) ∧
    -- the last TAS byte, a misaligned global address, the first address above the global window, a mapped address
    (0xFFFC0000002FFFFF / 2 ^ 48 = 0xFFFC ∧ bits 0xFFFC0000002FFFFF 47 22 = 0 ∧ 0xFFFC0000002FFFFF % 2 ^ 22 < 0x300000) ∧
    (1 < 2 ^ 57 ∧ 1 % 4 ≠ 0) ∧ (2 ^ 57 ≤ 2 ^ 57 ∧ 2 ^ 57 / 2 ^ 48 ≠ 0xFFFE ∧ 2 ^ 57 / 2 ^ 48 ≠ 0xFFFD ∧ 2 ^ 57 / 2 ^ 48 ≠ 0xFFFC) ∧
    (0x1FFFFF < 2 ^ 57 ∧
      ((s.core 0).tlb.find? (fun e => e.serves ⟨s.partOf 0, 0x1FFFFF, false, false, (s.laneThread lane0).priv⟩)).isSome = true) := by
  and_intros <;> decide +kernel

/-- The placed program's team as member 0 of a gang of 2, whose member 1 is on core 1; a stack of 4 KiB a thread; a copy aperture at 0. -/
def ganged : State :=
  let b : State := base.modPart 0 fun p => { p with launches := p.launches.map fun l => { l with hdr := { l.hdr with exts := [1, 2, 1, 1, 1], stack := 4096 } } }
  b.modCore 1 fun c => { c with teams := (base.core 0).teams.map fun t => { t with l := 1, banks := [3] } }
theorem witness_Steering_places :
    let s := within ganged (crew (thread []))
    let at_ (member bank off : Nat) : Nat := 0xFFFE000000000000 + member * 2 ^ 24 + bank * 2 ^ 16 + off
    let inSpad (va : Nat) : Prop := bits va 47 28 = 0 ∧ bits va 23 22 = 0 ∧ bits va 21 16 < 48 ∧ va % 65536 < s.spcap 0
    -- the own team's last bank, member 1's own, a bank that neither holds, member 2 of two
    (∀ va ∈ [at_ 0 47 0, at_ 1 0 65535, at_ 1 1 0, at_ 2 0 0], va / 2 ^ 48 = 0xFFFE ∧ inSpad va) ∧ (s.teamOf 0 0).isSome = true ∧
    ((s.teamOf 0 0).map s.f1 = some 0) ∧
    (((s.teamOf 0 0).bind fun t => s.member t 1).map fun m => (m.1, m.2.banks)) = some (1, [3]) ∧
    ((s.teamOf 0 0).bind fun t => s.member t 2) = none ∧
    ((s.teamOf 0 0).all fun t => t.banks[47]? == none) = true ∧ (s.bank 1 3).mode = .spad ∧
    (((base.modBank 1 3 fun b => { b with mode := .fifo }).bank 1 3).mode ≠ .spad) ∧
    -- the last byte of a stack, the first beyond it; the team, the launch and the crew that say where it stands
    (0xFFFD000000000FFF / 2 ^ 48 = 0xFFFD ∧ bits 0xFFFD000000000FFF 47 20 = 0 ∧ 0xFFFD000000000FFF % 2 ^ 20 < (s.hdrOf 0 0).stack ∧
      ¬ 0xFFFD000000001000 % 2 ^ 20 < (s.hdrOf 0 0).stack ∧ (s.crew 0 0).isSome = true ∧
      ((s.teamOf 0 0).bind fun t => s.launch t.part t.launch).isSome = true) ∧
    -- the first byte beyond the TAS window; a page that is the copy aperture
    (0xFFFC000000300000 / 2 ^ 48 = 0xFFFC ∧ ¬ 0xFFFC000000300000 % 2 ^ 22 < 0x300000) ∧
    (((within (base.modPart 0 fun p => { p with copyAp := 0x1FF000 }) (crew (thread []))).part 0).copyAp = 0x1FF000 ∧
      0x1FFFFC / 4096 = 0x1FF000 / 4096) := by
  and_intros <;> decide +kernel

/-- A line of bank 0 with a pending count, and an access of the lane under way. -/
def counted (n : Nat) : State := base.modBank 0 0 fun b => { b with counts := [(0, n)] }
def pending (dst : Option Nat) (kind : PendKind) : Pend :=
  { id := 9, slot := 0, lane := 0, seq := 1, fence := 0, dst, wide := false, kind }
def waiting (dst : Option Nat) (kind : PendKind) : State := withCore fun c => { c with pend := [pending dst kind] }

/-- Core 0 with a cache bank; and with the line of 0x1FFFFC there, some of its words valid. -/
def caching : State := base.modBank 0 1 fun b => { b with mode := .cache }
def cachedLine (valid : Word) : CacheLine :=
  { bank := 1, key := 0, line := 16383, valid, owned := 0, data := Vector.replicate 32 7, first := false }

/-- A plain load of 0x1FFFFC, and the machine with it under way and that line. -/
def plainLoad : Pend := pending (some 1) (.load (.glob 0x1FFFFC) 4 false .raw false false false)
def loading (valid : Word) : State :=
  within (caching.modCore 0 fun c => { c with cache := [cachedLine valid], pend := [plainLoad] }) (crew (thread []))

theorem witness_Loads :
    -- a global place, and an absent scratchpad line
    (At base { d := 1, a := 2 } true [Enc.litA { a := 2 } true (.only .addr)] (some (1, false)) [] (thread [(2, 0x1FFFFC, .addr)]) ∧
      let s := machine (thread [(2, 0x1FFFFC, .addr)])
      (s.core 0).acquiring 0 0 = false ∧ s.steerAp lane0 0x1FFFFC { align := 4, write := false, isLoad := true } = .mem (.glob 0x1FFFFC) ∧
      s.absent (.glob 0x1FFFFC) = false ∧ s.watched lane0 0x1FFFFC (.glob 0x1FFFFC) 4 true false = none) ∧
    (At (counted 7) { d := 1, a := 2 } true [Enc.litA { a := 2 } true (.only .addr)] (some (1, false)) [] (thread [(2, ownSpad0 0, .addr)]) ∧
      let s := within (counted 7) (crew (thread [(2, ownSpad0 0, .addr)]))
      s.steerAp lane0 (ownSpad0 0) { align := 4, write := false, isLoad := true } = .mem (.spad 0 0 0) ∧ s.lineCount 0 0 (0 / 128) ≠ 0) ∧
    -- a load that may be performed, from a bank and from global memory
    (∀ loc ∈ [Loc.spad 0 0 65532, .glob 0x1FFFFC],
      let s := within (waiting (some 1) (.load loc 4 false .raw true false false)) (crew (thread []))
      (s.core 0).pend.find? (fun q => q.id == 9) = some (pending (some 1) (.load loc 4 false .raw true false false)) ∧
      (s.crew 0 0).isSome = true ∧ s.mayPerform 0 (pending (some 1) (.load loc 4 false .raw true false false)) = true ∧
      s.keyLoaded (paKey 0x1FFFFC) = true ∧ poisonedAt s.poison 0x1FFFFC = false ∧ poisonedAt (s.bank 0 0).poison 65532 = false) ∧
    -- a plain one where the private cache holds the word, and where it does not
    (∀ v ∈ [0xFFFFFFFF, 0], ((loading v).core 0).pend.find? (fun q => q.id == 9) = some plainLoad ∧ (loading v).mayPerform 0 plainLoad = true ∧
      ((loading v).core 0).cacheOn = true ∧ (((loading v).core 0).cacheLine 0 (0x1FFFFC / 128)).map CacheLine.valid = some v ∧
      ((loading v).core 0).hitPoisoned ((loading v).spcap 0) 0x1FFFFC 4 = false ∧
      ((loading v).core 0).unregistered 0 (0x1FFFFC / 128) &&& wordMask 0x1FFFFC 4 = 0 ∧ (loading v).poison = []) ∧
    -- of the first byte of the TAS window, and what it takes
    (At base { d := 1, a := 2 } true [Enc.litA { a := 2 } true (.only .addr)] (some (1, false)) [] (sThread [(2, 0xFFFC000000000000, .addr)]) ∧
      let s := machine (sThread [(2, 0xFFFC000000000000, .addr)])
      (s.core 0).acquiring 0 0 = false ∧ s.steerAp lane0 0xFFFC000000000000 { align := 4, write := false, isLoad := true } = .tas 0 ∧
      (s.tasWindow 0 0 4).2 = false) ∧
    (let s := within (waiting (some 1) (.value 7 .raw)) (crew (thread []))
     (s.core 0).pend.find? (fun q => q.id == 9) = some (pending (some 1) (.value 7 .raw)) ∧ (s.crew 0 0).isSome = true) := by
  and_intros <;> first
    | exact at_hand (by decide +kernel)
    | (intro v hv
       simp only [List.mem_cons, List.not_mem_nil, or_false] at hv
       rcases hv with rfl | rfl <;> and_intros <;> decide +kernel)
    | decide +kernel

theorem witness_Stores :
    (∀ va ∈ [0x1FFFFC, ownSpad0 0], ∀ loc ∈ (if va = 0x1FFFFC then [Loc.glob 0x1FFFFC] else [.spad 0 0 0]),
      let s := machine (thread [(2, va, .addr), (4, 5, .raw)])
      s.inAperture lane0 va = false ∧ s.steer lane0 va { align := 4, write := true } = .mem loc ∧ s.watched lane0 va loc 4 false true = none ∧
      s.storeHeld lane0 loc 4 = false ∧ ∀ m < 4, (s.core 0).loadsOutstanding 0 0 m = false) ∧
    At base { b := 4, a := 2 } true [Enc.regA { a := 2 } true (.only .addr), Enc.litB { b := 4 } false (.only .raw)] none []
      (thread [(2, 0x1FFFFC, .addr), (4, 5, .raw)]) ∧
    -- a store that may be performed, in a bank and in global memory
    (∀ loc ∈ [Loc.spad 0 0 65532, .glob 0x1FFFFC],
      let s := within (waiting none (.store loc [1, 2, 3, 4] false false false)) (crew (thread []))
      (s.core 0).pend.find? (fun q => q.id == 9) = some (pending none (.store loc [1, 2, 3, 4] false false false)) ∧
      s.mayPerform 0 (pending none (.store loc [1, 2, 3, 4] false false false)) = true ∧ s.keyLoaded (paKey 0x1FFFFC) = true ∧
      (∀ i < 4, lookupNat s.unitKeys ((paAddr 0x1FFFFC + i) / 128) 0 = s.keyOf (paKey 0x1FFFFC)) ∧ s.revokes = [] ∧ s.l2 = []) := by
  and_intros <;> first | exact at_hand (by decide +kernel) | decide +kernel

theorem witness_memories :
    -- the memories about a load, a store and an atomic under way
    (∀ v ∈ [0xFFFFFFFF, 0], WritesBack (loading v) ∧ paAddr 0x1FFFFC % 128 + 4 ≤ 128) ∧
    ∀ k ∈ [PendKind.store (.glob 0x1FFFFC) [1, 2, 3, 4] false false false, .atoms (.glob 0x1FFFFC) 4 [] false false],
      MemoryWf (within (waiting none k) (crew (thread []))) ∧ WritesBack (within (waiting none k) (crew (thread []))) := by
  refine ⟨?_, ?_⟩
  · intro v hv
    simp only [List.mem_cons, List.not_mem_nil, or_false] at hv
    rcases hv with rfl | rfl
    all_goals exact ⟨writes_back (by decide +kernel), by decide +kernel⟩
  · intro k hk
    simp only [List.mem_cons, List.not_mem_nil, or_false] at hk
    rcases hk with rfl | rfl
    all_goals
      refine ⟨?_, writes_back (by decide +kernel)⟩
      apply memory_form
      all_goals decide +kernel

theorem witness_AtomicsIssue :
    let t := thread [(1, 0, .i32), (2, ownSpad0 0, .addr), (4, 5, .i32)]
    let s := machine t
    At base { d := 1, a := 2, b := 4 } false ([Enc.regA { a := 2 } true (.only .addr), Enc.litB { b := 4 } false (.only .i32)] ++ []) (some (1, false)) [] t ∧
    At base { form := .ext, mod := 7, ft := 1, d := 1, a := 2, b := 4, c := 4 } false ([Enc.regA { a := 2 } true (.only .addr),
      Enc.litB { b := 4 } false (.only .i32)] ++ [Enc.regC { form := .ext, c := 4 } false (.only .i32)]) (some (1, false)) [] t ∧
    At base { a := 2, b := 4 } true [Enc.regA { a := 2 } true (.only .addr), Enc.litB { b := 4 } false (.only .i32)] none [] t ∧
    ((∀ q ∈ (s.core 0).pend, q.id < s.nextId) ∧ (s.core 0).acquiring 0 0 = false ∧
      s.steerAp lane0 (ownSpad0 0) { align := 4, write := true } = .mem (.spad 0 0 0) ∧ s.detViolates lane0 0 (ownSpad0 0) = false ∧
      s.lineCount 0 0 (0 / 128) = 0 ∧ s.watched lane0 (ownSpad0 0) (.spad 0 0 0) 4 true true = none ∧
      ∀ m < 4, (s.core 0).loadsOutstanding 0 0 m = false) := by
  and_intros <;> first | exact at_hand (by decide +kernel) | decide +kernel

/-- An atomic of lane 0, with a destination or without, and by each operation code. -/
def atomLane (dst : Option Nat) (op : Nat) : AtomLane := ⟨0, 1, 0, dst, op, .i32, 0, 5, 0⟩
theorem witness_AtomicsPerform :
    ∀ loc ∈ [Loc.spad 0 0 65532, .glob 0x1FFFFC], ∀ dst ∈ [some 1, none], ∀ op ∈ [0, 7],
      let p := pending none (.atoms loc 4 [atomLane dst op] false false)
      let s := within (waiting none (.atoms loc 4 [atomLane dst op] false false)) (crew (thread []))
      (atomLane dst op).tag.elemBits = 8 * 4 ∧ (s.core 0).pend.find? (fun q => q.id == 9) = some p ∧ s.mayPerform 0 p = true ∧
      (s.crew 0 0).isSome = true ∧ (∀ i < 4, poisonedAt (s.bank 0 0).poison (65532 + i) = false) ∧ (atomLane dst op).tag ∈ Encoding.setW ∧
      s.keyLoaded (paKey 0x1FFFFC) = true ∧ (∀ i < 4, poisonedAt s.poison (paAddr 0x1FFFFC + i) = false ∧
        lookupNat s.unitKeys ((paAddr 0x1FFFFC + i) / 128) 0 = s.keyOf (paKey 0x1FFFFC)) ∧ s.revokes = [] ∧ s.l2 = [] := by
  decide +kernel
theorem witness_AtomicsPerform_values :
    (0xFFFFFFFF < 2 ^ (atomLane none 8).tag.elemBits ∧ 0 < 2 ^ (atomLane none 8).tag.elemBits) ∧ Tag.f32.elemFmt = .float .f32 := by decide
theorem witness_AtomicsIssue_group :
    -- a second lane comes to the entry that the first has opened, the last of core 0's
    let p := pending none (.atoms (.spad 0 0 65532) 4 [atomLane (some 1) 0] false false)
    let s := within (waiting none p.kind) (full (thread []))
    (s.core 0).pend = [] ++ p :: [] ∧ 9 ≤ p.id ∧ p.slot = 0 ∧ s.crew 0 0 = some (full (thread [])) ∧ ((s.core 0).pend.map Pend.id).Nodup := by
  decide +kernel

theorem witness_Fences :
    At base {} true [] none [] (thread []) ∧ ((machine (thread [])).core 0).loadsOutstanding 0 0 0 = false ∧
    ((machine (thread [])).core 0).outstanding 0 0 0 = false ∧
    -- with an earlier load under way
    (let w := waiting (some 1) (.load (.glob 0x1FFFFC) 4 false .raw true false false)
     let t : Thread := { thread [] with seq := 1 }
     At w {} true [] none [] t ∧ ((within w (crew t)).core 0).loadsOutstanding 0 0 t.seq = true) := by
  and_intros <;> first | exact at_hand (by decide +kernel) | decide +kernel

theorem witness_Presence :
    ∀ n ∈ [0, 1, 6, 7],
      let t := thread [(2, ownSpad0 0, .addr)]
      let s := within (counted n) (crew t)
      At (counted n) { a := 2, d := 5 } true [Enc.regA { a := 2 } true (.only .addr)] none [5] t ∧
      At (counted n) { a := 2 } true [Enc.regA { a := 2 } true (.only .addr)] none [] t ∧ ownSpad0 0 / 2 ^ 48 = 0xFFFE ∧
      s.steer lane0 (ownSpad0 0) { align := 1, write := false } = .mem (.spad 0 0 0) ∧ s.lineCount 0 0 0 = n ∧
      s.storesTo lane0 (0, 0, 0) = false := by
  intro n hn
  simp only [List.mem_cons, List.not_mem_nil, or_false] at hn
  rcases hn with rfl | rfl | rfl | rfl
  all_goals
    and_intros <;> first | exact at_hand (by decide +kernel) | decide +kernel

theorem witness_CacheMaintenance :
    let t := thread [(2, 0x1FFFFF, .addr)]
    let u := thread [(2, 0, .f64)]
    (At base { a := 2 } true [Enc.litA { a := 2 } true .all] none [] u ∧ (u.tag 2 true == .raw || u.tag 2 true == .addr) = false) ∧
    (At caching { a := 2 } true [Enc.litA { a := 2 } true .all] none [] t ∧ (within caching (crew t)).peek lane0 0x1FFFFF = some 0x1FFFFF ∧
      ((within caching (crew t)).core 0).cacheOn = true ∧ (within caching (crew t)).keyLoaded (paKey 0x1FFFFF) = true) ∧
    -- with the cache off, and under a key that is not loaded
    (At base { a := 2 } true [Enc.litA { a := 2 } true .all] none [] t ∧ ((machine t).core 0).cacheOn = false ∧
      (∀ w ∈ [base, { base with keys := [] }], (within w (crew t)).peek lane0 0x1FFFFF = some 0x1FFFFF) ∧
      (within { base with keys := [] } (crew t)).keyLoaded (paKey 0x1FFFFF) = false) ∧
    (At caching { a := 2 } true [Enc.litA { a := 2 } true (.only .addr)] none [] t ∧ 0x1FFFFF < 2 ^ 57 ∧
      ((within caching (crew t)).core 0).dirtyLine (some (paKey 0x1FFFFF, paAddr 0x1FFFFF / 128)) = false) ∧
    (At caching {} true [] none [] (thread []) ∧ ((within caching (crew (thread []))).core 0).dirtyLine none = false) := by
  and_intros <;> first | exact at_hand (by decide +kernel) | decide +kernel

theorem witness_BankModes :
    -- the bank is in the mode already; it is in another
    (let t := thread [(2, 0, .n32)]
     At base { a := 2 } true [Enc.litA { a := 2 } false countTags] none [] t ∧
      (((machine t).teamOf 0 0).any fun tm => tm.banks[valLitA { a := 2 } false t]? == some 0) = true ∧ (machine t).changing lane0 = false ∧
      ((machine t).bank 0 0).change = none ∧ ((machine t).bank 0 0).mode = .spad) ∧
    -- a drained bank that is to change
    (let s := base.modBank 0 47 fun b => { b with change := some .fifo }
     (s.bank 0 47).change = some .fifo ∧ (s.bank 0 47).mode ≠ .fifo ∧ s.bankReady 0 47 = true ∧
      ∀ q ∈ (s.core 0).pend, q.ofBank 47 = true → (s.thread 0 q.slot q.lane).stepMark = false) ∧
    (let s := caching.modBank 0 1 fun b => { b with change := some .spad }
     (s.bank 0 1).change = some .spad ∧ (s.bank 0 1).mode = .cache ∧ s.bankReady 0 1 = true) := by
  and_intros <;> first | exact at_hand (by decide +kernel) | decide +kernel

/-- Bank 0 as a FIFO of some entries. -/
def fifo (n : Nat) : State := base.modBank 0 0 fun b => { b with mode := .fifo, fifo := List.replicate n (7, false) }
theorem witness_Fifos :
    (∀ n ∈ [0, 1], let s := within (fifo n) (crew (thread [(2, 0xF00, .n32), (4, 5, .raw)]))
      s.fifoBank lane0 ((thread [(2, 0xF00, .n32), (4, 5, .raw)]).value 2 false).toNat = .inl (0, 0) ∧ s.drained lane0 = true ∧
      (s.bank 0 0).fifo.length < s.spcap 0 / 8 ∧ (s.bank 0 0).fifo = List.replicate n (7, false)) ∧
    At (fifo 0) { a := 2, b := 4 } true [Enc.regA { a := 2 } false (.only .n32), Enc.regB { b := 4 } false (.only .raw)] none []
      (thread [(2, 0xF00, .n32), (4, 5, .raw)]) ∧
    At (fifo 1) { d := 1, a := 2 } true [Enc.regA { a := 2 } false (.only .n32)] (some (1, false)) [] (thread [(2, 0xF00, .n32)]) ∧
    -- the trying forms, on a full FIFO and on an empty one
    ({ form := .ext, mod := 1, w2 := 5 } : Enc).modBit 0 = true ∧
    (let s := within (fifo 8192) (crew (thread [(2, 0xF00, .n32), (4, 5, .raw)]))
     At (fifo 8192) { form := .ext, mod := 1, w2 := 5, a := 2, b := 4 } true [Enc.regA { a := 2 } false (.only .n32),
      Enc.regB { b := 4 } false (.only .raw)] none [5] (thread [(2, 0xF00, .n32), (4, 5, .raw)]) ∧
      s.spcap 0 / 8 ≤ (s.bank 0 0).fifo.length ∧ s.drained lane0 = true) ∧
    At (fifo 0) { form := .ext, mod := 1, w2 := 5, d := 1, a := 2 } true [Enc.regA { a := 2 } false (.only .n32)] (some (1, false)) [5]
      (thread [(2, 0xF00, .n32)]) := by
  and_intros <;> first | exact at_hand (by decide +kernel) | decide +kernel

/-! Premises of the statements on the matrix engine and the tile path. -/

/-- A tile register's 128 bits, and a crew that holds some (05 R93). -/
def tileBits (t : Tile) : BitVec 128 := BitVec.ofNat 128 (t.base + t.space * 2 ^ 57 + (t.rows - 1) * 2 ^ 59 + (t.cols - 1) * 2 ^ 69 +
  t.fmt * 2 ^ 79 + t.layout * 2 ^ 84 + t.scale * 2 ^ 87 + t.offs * 2 ^ 100 + t.sparse * 2 ^ 113)
def tiled (ts : List Tile) (t : Thread) : Crew := { crew t with tiles := Vector.ofFn fun k => ((ts[k.val]?).map tileBits).getD 0 }
/-- A team with one TAS tile. -/
def withTas : State := base.modPart 0 fun p => { p with launches := p.launches.map fun l => { l with hdr := { l.hdr with tasN := 1 } } }
/-- The largest accumulator tile; a scratchpad tile of the team; a plain tile in the mapped page. -/
def tTas : Tile := ⟨0, 2, 128, 128, 5, 0, 0, 0, 0⟩
def tSpad (off rows cols fmt layout scale offs sparse : Nat) : Tile := ⟨0x0F000000 + off, 1, rows, cols, fmt, layout, scale, offs, sparse⟩
def tPlain : Tile := ⟨0x20000, 0, 128, 128, 5, 0, 0, 0, 0⟩
/-- Tile registers 0, 1 and 2, and the fields of an MMA of k = 32 and of an MMAS of k = 24, 2 of 12. -/
def abc : BitVec 32 := 0x210
def mmaTiles : List Tile := [⟨0, 2, 2, 16, 5, 0, 0, 0, 0⟩, tSpad 0 2 32 9 0 0 0 0, tSpad 0x1000 32 16 9 2 0 0 0]
def mmasTiles : List Tile := [⟨0, 2, 2, 16, 5, 0, 0, 0, 0⟩, tSpad 0 2 4 9 0 0 0 4, tSpad 0x1000 24 16 9 2 0 0 0]
def mmaOp : Enc := { form := .ext, ft := 9, d := 1, a := 2, w2 := abc ||| (31 <<< 17) }
def mmasOp : Enc := { form := .ext, ft := 9, d := 1, a := 2, w2 := abc ||| (23 <<< 17) }

/-- What a lane of that team must meet before any entry of the array queues. -/
abbrev ArrayReady (c : Crew) : Prop :=
  let s := within withTas c
  (s.hdrOf 0 0).det = false ∧ s.failureOf lane0 [1] = none ∧ (s.core 0).freeHandle = some 0 ∧ (s.teamOf 0 0).map Team.id = some 2 ∧ s.queued 0 < 8

theorem witness_MatrixIssue_products :
    (let c := tiled mmaTiles (thread [(2, 0, .n32)])
     let s := within withTas c
     let m := Mma.of 0xA0 mmaOp (Tile.of (c.tile 0)) (Tile.of (c.tile 1)) (Tile.of (c.tile 2)) 0
     ArrayReady c ∧ AtCrew withTas c mmaOp false [Enc.regA { a := 2 } false (.oneOf [.n32, .i32])] (some (1, false)) [] ∧
      m.trap (s.hdrOf 0 0) (mmaSpan mmaOp) 0 1 2 = none ∧ s.spanOf lane0 (mmaSpan mmaOp) = .inr [(0, 2)] ∧
      (Tile.of (c.tile 1)).gbase % 128 = 0 ∧ (Tile.of (c.tile 2)).gbase % 128 = 0 ∧ (s.matPages lane0 m.ranges).isLeft = true) ∧
    (let c := tiled mmasTiles (thread [(2, 0, .n32)])
     let s := within withTas c
     let m := Mma.of 0xA1 mmasOp (Tile.of (c.tile 0)) (Tile.of (c.tile 1)) (Tile.of (c.tile 2)) 0
     ArrayReady c ∧ AtCrew withTas c mmasOp false [Enc.regA { a := 2 } false (.oneOf [.n32, .i32])] (some (1, false)) [] ∧
      m.trap (s.hdrOf 0 0) (mmaSpan mmasOp) 0 1 2 = none ∧ s.spanOf lane0 (mmaSpan mmasOp) = .inr [(0, 2)] ∧
      (Tile.of (c.tile 1)).gbase % 128 = 0 ∧ (Tile.of (c.tile 2)).gbase % 128 = 0 ∧ (s.matPages lane0 m.ranges).isLeft = true) := by
  and_intros <;> first
    | exact at_hand (by decide +kernel)
    | exact at_crew (by decide +kernel)
    | exact met (by decide +kernel) (by decide +kernel)
    | decide +kernel

/-- The premises on the tiles and the memory of an entry other than a product. -/
abbrev TilesReady (o : Enc) (c : Crew) (srcs : List Opnd) (bases : List Nat) (ranges : List (Nat × Nat × Bool)) : Prop :=
  ArrayReady c ∧ AtCrew withTas c o false srcs (some (1, false)) [] ∧ (∀ va ∈ bases, va % 128 = 0) ∧
  ((within withTas c).matPages lane0 ranges).isLeft = true
abbrev inTas (t : Tile) : Prop := t.space = 2 ∧ t.rows ≤ 128 ∧ t.cols ≤ 128 ∧ t.tasBase % tasTileSize false = 0 ∧ t.tasBase < 1 * tasTileSize false
abbrev isCopy (t : Tile) (layout : Nat) : Prop := t.fmt = 9 ∧ t.space = 1 ∧ t.layout = layout ∧ t.offs ≠ 0 ∧ t.scale ≠ 0
abbrev isPlain (t : Tile) (code : Nat) : Prop := t.fmt = code ∧ t.space ≤ 1 ∧ t.layout = 0

theorem witness_MatrixIssue_quantise :
    let row := tSpad 0 4 32 9 3 8 16 0
    let col := tSpad 0x1000 4 32 9 4 8 24 0
    let src := tSpad 0x4000 4 32 5 0 0 0 0
    -- QBLK of both copies, of the row copy alone and of the column copy alone; RQNT; BPLN
    (∀ m ∈ [0, 1, 2], let o : Enc := { form := .ext, mod := BitVec.ofNat 7 m, d := 1, a := 2, w2 := abc }
      let c := tiled [row, col, src] (thread [(2, 0x3F800000, .f32)])
      TilesReady o c [Enc.regA { a := 2 } false (.oneOf [.f32])]
        ((if o.modBit 0 then [] else [row.gbase]) ++ (if o.modBit 1 then [] else [col.gbase]) ++ [src.gbase])
        ((if o.modBit 0 then [] else row.copyRanges .e4m3x4) ++ (if o.modBit 1 then [] else col.copyRanges .e4m3x4) ++
          [(src.gbase, src.plainBytes .f32, false)])) ∧
    isCopy row 3 ∧ isCopy col 4 ∧ isPlain src 5 ∧ col.rows = row.rows ∧ col.cols = row.cols ∧ col.scale = row.scale ∧ src.rows = row.rows ∧
    src.cols = row.cols ∧
    TilesReady { d := 1, a := 2 } (tiled [row, col] (thread [(2, 0x3F800000, .f32)])) [Enc.regA { a := 2 } false (.oneOf [.f32])] [row.gbase, col.gbase]
      (row.copyRanges .e4m3x4 ++ col.copyRanges .e4m3x4) ∧
    (let b := tSpad 0 4 32 8 2 0 0 0
     let src := tSpad 0x4000 4 32 8 1 0 0 0
     TilesReady { form := .ext, ft := 8, d := 1, w2 := abc } (tiled [b, src] (thread [])) [] [b.gbase, src.gbase]
      [(b.gbase, b.rows * ((planeFmt .bf16x2).map fun q => recordSize q b.cols).getD 0, true), (src.gbase, src.plainBytes .bf16x2, false)] ∧
      b.fmt = Tag.bf16x2.code ∧ b.space = 1 ∧ b.layout = 2 ∧ src.fmt = Tag.bf16x2.code ∧ src.space ≤ 1 ∧ src.layout ≤ 1) := by
  refine ⟨?_, ?_⟩
  · intro m hm
    simp only [List.mem_cons, List.not_mem_nil, or_false] at hm
    rcases hm with rfl | rfl | rfl
    all_goals and_intros <;> first | exact at_crew (by decide +kernel) | decide +kernel
  · and_intros <;> first | exact at_crew (by decide +kernel) | decide +kernel

theorem witness_MatrixIssue_tiles :
    -- TLD plain and raw, TST, TSCL, TZERO, TMOVE
    TilesReady { d := 1 } (tiled [tTas, tPlain] (thread [])) [] [tPlain.gbase] [(tPlain.gbase, tPlain.plainBytes .f32, false)] ∧
    TilesReady { form := .ext, mod := 1, d := 1, w2 := 0x10 } (tiled [tTas, { tPlain with fmt := 0 }] (thread [])) [] [tPlain.gbase]
      [(tPlain.gbase, tTas.rawBytes false, false)] ∧
    isPlain tPlain 5 ∧ inTas tTas ∧ tPlain.rows = tTas.rows ∧ tPlain.cols = tTas.cols ∧
    TilesReady { d := 1 } (tiled [{ tPlain with fmt := 0 }, tTas] (thread [])) [] [tPlain.gbase] [(tPlain.gbase, tTas.rawBytes false, true)] ∧
    TilesReady { d := 1, a := 2 } (tiled [tTas] (thread [(2, 1, .i32)])) [Enc.regA { a := 2 } false (.oneOf [.i32])] [] [] ∧
    TilesReady { d := 1 } (tiled [tTas] (thread [])) [] [] [] ∧
    TilesReady { d := 1 } (tiled [tTas, tTas] (thread [])) [] [] [] ∧
    -- TDRN with plain rounding, under SR with a key, and with UPD
    TilesReady { d := 1 } (tiled [tPlain, tTas] (thread [])) (drainOpnds { d := 1 }) [tPlain.gbase] [(tPlain.gbase, tPlain.plainBytes .f32, true)] ∧
    TilesReady { form := .ext, rm := 5, ft := 5, d := 1, c := 6, w2 := 0x10 } (tiled [tPlain, tTas] (thread [(6, 7, .n64)]))
      (drainOpnds { form := .ext, rm := 5, d := 1, c := 6 }) [tPlain.gbase] [(tPlain.gbase, tPlain.plainBytes .f32, true)] ∧
    TilesReady { form := .ext, mod := 2, ft := 5, d := 1, a := 2, b := 3, c := 4, w2 := 0x10 } (tiled [tPlain, tTas]
      (thread [(2, 0, .f32), (3, 0, .f32), (4, 0, .f32)])) (drainOpnds { form := .ext, mod := 2, d := 1, a := 2, b := 3, c := 4 }) [tPlain.gbase]
      [(tPlain.gbase, tPlain.plainBytes .f32, true)] := by
  and_intros <;> first
    | exact at_hand (by decide +kernel)
    | exact at_crew (by decide +kernel)
    | exact met (by decide +kernel) (by decide +kernel)
    | decide +kernel

/-- An entry of core 0's array queue in some state, with the fault-free sums of its 2 × 16 block and the sums of the guard, and cells
in error. -/
def entry (opc : Nat) (o : Enc) (ts : List Tile) (st : ArrayState) (attempt : Nat) (errs : List CellErr) : ArrayOp :=
  { id := 7, slot := 0, lane := 0, handle := 0, span := [(0, 2)], tileReg := 0, job := ⟨opc, o, ts.map tileBits, 0, 0, 0, 0, []⟩, st, attempt,
    emax := 0, good := [List.replicate 32 ⟨3, 0⟩], guardRows := [List.replicate 2 48], guardCols := [List.replicate 16 6], scales := [], errs,
    located := if st = .correct then [(0, 0)] else [], corr := 0, injected := {}, armed := [] }
def entered (a : ArrayOp) : State :=
  ({ withTas with arrays := [a] } : State).modHandle 0 0 fun _ => { st := .pending, gen := 1, cls := 1, team := 2 }
def mma (st : ArrayState) (attempt : Nat) (errs : List CellErr) : ArrayOp := entry 0xA0 mmaOp mmaTiles st attempt errs
/-- The second element beyond the guard's tolerance, and two in one row, which it cannot locate. -/
def oneOff : List CellErr := [⟨0, 0, 1, 129 * 32 + 1, false⟩]
def twoOff : List CellErr := [⟨0, 0, 1, 129 * 32 + 1, false⟩, ⟨0, 1, 2, 129 * 32 + 1, false⟩]

theorem witness_MmaLife :
    (∀ st ∈ [ArrayState.queued, .rail, .fetch, .compute, .check, .correct, .add],
      (entered (mma st 1 [])).arrays.find? (fun z => z.id == 7) = some (mma st 1 []) ∧ (mma st 1 []).isMma = true ∧
      (∀ z ∈ (entered (mma st 1 [])).arrays, ¬ z.id < 7) ∧ ((entered (mma st 1 [])).core 0).finj.getLsbD 31 = false ∧
      ((entered (mma st 1 [])).handle 0 0).st = .pending) ∧
    (mma .compute 1 []).mma.isLog = false ∧ (entry 0xA0 { mmaOp with q := 2 } mmaTiles .compute 1 []).mma.isLog = true ∧
    7500 ≤ ((entered (mma .compute 1 [])).core 0).rail.raised.getD ((entered (mma .compute 1 [])).core 0).rail.v ∧
    (mma .check 1 []).verdict 0 = .pass ∧ (mma .check 1 oneOff).verdict 0 = .located 0 1 ∧ (mma .check 3 twoOff).verdict 0 = .fail ∧
    (mma .check 4 twoOff).verdict 0 = .fail ∧
    -- the operands of an MMA delivered, and malformed metadata of an MMAS
    (entered (mma .fetch 1 [])).storesSeen (mma .fetch 1 []) = true ∧
    (match (entered (mma .fetch 1 [])).mmaFetch (mma .fetch 1 []) (mma .fetch 1 []).mma with
      | (_, .ok (_ :: _ :: _ :: _ :: _ :: _ :: _)) => true
      | _ => false) = true ∧
    ((mma .fetch 1 []).mma.sums 1 (List.replicate 64 0) [] none (List.replicate 32 (List.replicate 24 0)) none).isLeft = true ∧
    ((entry 0xA1 mmasOp mmasTiles .fetch 1 []).mma.sums 1 (List.replicate 8 0) (List.replicate 8 0) none
      (List.replicate 24 (List.replicate 24 0)) none).isRight = true := by
  and_intros <;> first
    | exact at_hand (by decide +kernel)
    | exact at_crew (by decide +kernel)
    | exact met (by decide +kernel) (by decide +kernel)
    | decide +kernel

theorem witness_GuardAndRails :
    (let a := mma .check 1 oneOff
     (∀ i < a.mma.m, ∀ j < a.mma.cols 0, ((a.good.getD 0 [])[i * a.mma.cols 0 + j]?).map CellSum.p = some 3) ∧
      (∀ i < a.mma.m, (a.guardRows.getD 0 [])[i]? = some (((List.range (a.mma.cols 0)).map fun _ => (3 : Int)).sum)) ∧
      (∀ j < a.mma.cols 0, (a.guardCols.getD 0 [])[j]? = some (((List.range a.mma.m).map fun _ => (3 : Int)).sum)) ∧
      a.errs = [⟨0, 0, 1, 4129, false⟩] ∧ 129 * (a.mma.keff : Int) < 4129 ∧ (129 * 32 : Int) ≤ 129 * a.mma.keff) ∧
    At base { d := 1 } false [] (some (1, false)) [] (thread []) ∧ (machine (thread [])).failureOf lane0 [1] = none ∧
    -- a window that is not over and one that is; an array that does not run
    (base.core 0).rail.retired < 2 ^ 16 ∧
    2 ^ 16 ≤ ((withCore fun c => { c with rail := { c.rail with retired := 2 ^ 16 } }).core 0).rail.retired ∧ base.arrays = [] := by
  and_intros <;> first
    | exact at_hand (by decide +kernel)
    | exact at_crew (by decide +kernel)
    | exact met (by decide +kernel) (by decide +kernel)
    | decide +kernel

theorem witness_GuardAndRails_sums :
    -- what an attempt of a dense and of a sparse product computes from
    (let m := (mma .fetch 1 []).mma
     (planeFmt m.fB).isSome = true ∧ (List.replicate 32 (List.replicate 24 (0 : Byte))).length = m.k ∧ 0 < m.k ∧ m.nsp = none) ∧
    (let m := (entry 0xA1 mmasOp mmasTiles .fetch 1 []).mma
     (planeFmt m.fB).isSome = true ∧ (List.replicate 24 (List.replicate 24 (0 : Byte))).length = m.k ∧ m.nsp = some 2 ∧ m.k0 % 12 = 0 ∧
      m.k % 12 = 0 ∧
      -- its first word marks no position, and the others are not reached; two positions in each word
      (0 < m.m ∧ 0 < m.k / 12 ∧ popcount 0 12 ≠ 2) ∧ 3 < 4096 ∧ popcount 3 12 = 2) := by
  and_intros <;> decide +kernel

/-- An entry of the tile path. -/
def tileEntry (opc : Nat) (st : ArrayState) : ArrayOp := entry opc {} [tTas, tPlain] st 1 []
theorem witness_TilePath :
    let tm : Team := { id := 2, part := 0, launch := 1, l := 0, slots := [0], banks := [0], units := [0] }
    let w (a : ArrayOp) : State := (entered a).modCore 0 fun c => { c with teams := [tm] }
    (∀ st ∈ [ArrayState.queued, .running], (w (tileEntry 0xA8 st)).arrays.find? (fun z => z.span.any fun m => m.1 == 0) = some (tileEntry 0xA8 st) ∧
      (tileEntry 0xA8 st).isMma = false ∧ (w (tileEntry 0xA8 st)).storesSeen (tileEntry 0xA8 st) = true) ∧
    (w (tileEntry 0xA8 .running)).opTeam (tileEntry 0xA8 .running) = some (0, tm, false) ∧
    (match (w (tileEntry 0xA8 .running)).opReads (tileEntry 0xA8 .running)
        ((tileEntry 0xA8 .running).work tm false ((w (tileEntry 0xA8 .running)).core 0)).reads with
      | (s1, .ok ds) => (s1.opClaims (tileEntry 0xA8 .running)
          ((((tileEntry 0xA8 .running).work tm false ((w (tileEntry 0xA8 .running)).core 0)).mem ds).map fun r => (r.1, r.2.length))).2
      | _ => false) = true ∧
    ((w (tileEntry 0xA8 .running)).core 0).tasBad false
      ((tileEntry 0xA8 .running).work tm false ((w (tileEntry 0xA8 .running)).core 0)).tasReads = none := by
  and_intros <;> first
    | exact at_hand (by decide +kernel)
    | exact at_crew (by decide +kernel)
    | exact met (by decide +kernel) (by decide +kernel)
    | decide +kernel
/-- Entries as their works read them: QBLK of both copies and RQNT of 2 × 32, BPLN of a transposed tile, TST, TSCL, TDRN under SR and
with UPD, TMOVE between two tiles and onto one. -/
def worked (opc : Nat) (o : Enc) (ts : List Tile) : ArrayOp := entry opc o ts .running 1 []
theorem witness_TilePath_works :
    (BlockOk (tasReset 5 false) ∧ BlockOk { tasReset 5 true with m := List.replicate 16 (2 ^ 111 - 1), spec := List.replicate 16 3 }) ∧
    (∀ t ∈ [Tag.f32, .bf16x2, .e2m1x8, .i4x8], (planeFmt t).isSome = true) ∧ (([] : List Nat)[0]? ≠ some 0 ∧ [(7 : Nat)][0]? = some 7) ∧
    (∀ f ∈ [Tag.e4m3x4, .e5m2x4, .e2m1x8, .i8x4], (planeFmt f).isSome = true) ∧
    (∀ n m e, (Val.zero true = .fin n m e ∨ Val.fin n m e ∈ [Val.fin false 1 0, .inf true]) → 0 < m) ∧
    (let row := tSpad 0 4 32 9 3 8 16 0
     let col := tSpad 0x1000 4 32 9 4 8 24 0
     let a := worked 0xA2 { form := .ext, ft := 9 } [row, col, tSpad 0x4000 4 32 5 0 0 0 0]
     a.job.opc = 0xA2 ∧ Tag.ofCode (a.tile 2).fmt = some .f32 ∧ a.job.enc.fmt .e4m3x4 = .e4m3x4 ∧ a.job.enc.modBit 0 = false ∧
      a.job.enc.modBit 1 = false ∧ (a.tile 0).layout = 3 ∧ (a.tile 1).layout = 4 ∧ (a.tile 0).rows = (a.tile 2).rows ∧
      (a.tile 0).cols = (a.tile 2).cols) ∧
    (let t := worked 0xA5 { form := .ext, mod := 1 } [tTas, tPlain]
     (t.tile 0).rows ≤ 128 ∧ (t.tile 0).cols ≤ 128 ∧ (t.tile 1).rows = (t.tile 0).rows ∧ (t.tile 1).cols = (t.tile 0).cols ∧
      t.job.enc.modBit 0 = true ∧ (worked 0xA5 {} [tTas, tPlain]).job.enc.modBit 0 = false) ∧
    (let t := worked 0xA9 { form := .ext, mod := 2, ft := 5 } [tPlain, tTas]
     t.job.opc = 0xA9 ∧ (t.tile 0).rows = (t.tile 1).rows ∧ t.job.enc.modBits 1 0 = 2) ∧
    (let t := worked 0xAA { form := .ext, mod := 1 } [tTas, tTas]
     (t.tile 0).tasBase = (t.tile 1).tasBase ∧ (t.tile 0).rows ≤ 128 ∧ (t.tile 0).cols ≤ 128) ∧
    (({ tTas with base := tasTileSize false } : Tile).tasBase / tasTileSize false ≠ tTas.tasBase / tasTileSize false) := by
  and_intros
  all_goals first
    | exact ⟨by decide +kernel, by decide +kernel, by decide +kernel, by decide +kernel⟩
    | decide +kernel
    | (intro n m e h
       simp only [List.mem_cons, List.not_mem_nil, or_false] at h
       rcases h with h | h | h <;> cases h
       decide)

/-! Premises of the statements on cross-lane instructions, STT and barrier objects. -/

/-- The premises of a statement on a cross-lane instance: lane 0 alone, the crew's other lanes exited. -/
@[irreducible] def MeetsOne (o : Enc) (srcs : List Opnd) (dst : Option (Nat × Bool)) (preds : List Nat) (mask : Thread → Nat) (t : Thread) : Prop :=
  Meets (machine t) bundle (crew t) o srcs dst preds mask
theorem meets_one {o : Enc} {srcs : List Opnd} {dst : Option (Nat × Bool)} {preds : List Nat} {mask : Thread → Nat} {t : Thread}
    (h : Here t ∧ ((machine t).hdrOf 0 0).pair = false ∧ t.miss = none ∧ Operable o true srcs dst preds t ∧ (mask t).testBit 0 = true ∧
      ∀ m < 32, (mask t).testBit m = true → m = 0 ∨ ((crew t).thread m).st = .exited) : MeetsOne o srcs dst preds mask t := by
  unfold MeetsOne
  have hs : ∀ m < 32, m ≠ 0 → ((crew t).thread m).st = .exited := by
    intro m hm h0
    unfold crew
    rw [Crew.thread_ofFn _ _ _ hm, if_neg h0]
  refine ⟨atHand base (by rw [crew_thread]; exact h.1), h.2.1, rfl, by decide, fun m hm => ?_, fun l hl => ?_⟩
  · by_cases h0 : m = 0
    · subst h0
      rw [crew_thread, h.1.2.2.2]
      decide
    · rw [hs m hm h0]
      decide
  simp only [bundle, List.mem_singleton] at hl
  subst hl
  rw [crew_thread]
  refine ⟨h.2.2.1, h.2.2.2.1, fun _ => ⟨h.2.2.2.2.1, fun m hm hb => ?_⟩⟩
  exact (h.2.2.2.2.2 m hm hb).imp (fun e => by simp [bundle, e]) id

theorem witness_BallotsShufflesReductions :
    (let t := thread [(2, 5, .n32), (4, 0xFFFFFFFF, .n32)]
     let o (m : Nat) : Enc := { mod := BitVec.ofNat 7 m, d := 1, a := 2, b := 4 }
     let m := Enc.litB { b := 4 } false (.oneOf [.n32, .i32, .pred32])
     MeetsOne (o 0) [m] (some (1, false)) [(o 0).predA] (valB (o 0) false) t ∧ (o 0).modBits 1 0 = 0 ∧
     (∀ k ∈ [1, 2, 3], (o k).modBits 1 0 ≠ 0 ∧ MeetsOne (o k) [m] none [(o k).predA, (o k).pd] (valB (o k) false) t) ∧
     MeetsOne (o 0) [m] none [(o 0).predD] (valB (o 0) false) t ∧ MeetsOne (o 0) [m] none [] (valB (o 0) false) t ∧
     MeetsOne (o 0) [Enc.regA (o 0) false (.only .n32), m] (some (1, false)) [(o 0).pd] (valB (o 0) false) t) ∧
    (let t := thread [(2, 5, .i32), (4, 1, .n32), (5, 1, .n32)]
     let base4 : Enc := { d := 1, a := 2, b := 4 }
     let ext (m : Nat) : Enc := { form := .ext, mod := BitVec.ofNat 7 m, d := 1, a := 2, b := 4, c := 5 }
     base4.fmt .raw ∈ Encoding.setNoHandle ∧
     MeetsOne base4 [Enc.regA base4 false (moveWant .raw false), base4.litB false countTags] (some (1, false)) [base4.pd] (fun _ => 2 ^ 32 - 1) t ∧
     MeetsOne (ext 3) [Enc.regA (ext 3) false (moveWant .raw false), (ext 3).litB false countTags,
       (ext 3).regC false (.oneOf [.n32, .i32, .pred32])] (some (1, false)) [(ext 3).pd] (valC (ext 3) false) t ∧ (ext 3).modBit 2 = false) ∧
    (let t := thread [(2, 0x80000000, .i32), (4, 1, .n32)]
     let u := thread [(2, 0x3F800000, .f32), (4, 1, .n32)]
     let o (f : Nat) : Enc := { ft := BitVec.ofNat 5 f, d := 1, a := 2, b := 4 }
     let e (f m : Nat) : Enc := { form := .ext, ft := BitVec.ofNat 5 f, mod := BitVec.ofNat 7 m, d := 1, a := 2, b := 4 }
     let m := Enc.litB { b := 4 } false (.oneOf [.n32, .i32, .pred32])
     (o 0).fmt .i32 = .i32 ∧ Tag.i32 ∈ Encoding.setX ∧ (e 5 0).fmt .i32 = .f32 ∧ Tag.f32 ∈ Encoding.setX ∧
     MeetsOne (o 0) [Enc.regA (o 0) false (.only .i32), m] (some (1, false)) [] (valB (o 0) false) t ∧
     MeetsOne (e 5 8) [Enc.regA (e 5 8) false (.only .f32), m] (some (1, false)) [] (valB (e 5 8) false) u ∧
     (∀ es, Quiet t es) ∧ ∀ es, Quiet u es) := by
  and_intros
  all_goals first
    | exact (thread_quiet _).1
    | exact meets_one (by decide +kernel)
    | (intro k hk
       simp only [List.mem_cons, List.not_mem_nil, or_false] at hk
       rcases hk with rfl | rfl | rfl
       all_goals exact ⟨by decide, meets_one (by decide +kernel)⟩)
    | decide +kernel

/-- Paired-lane mode; lanes that wait at 0x10000 and are named by those that wait; the instances in which they and their shadows stand. -/
def pairs : State := base.modPart 0 fun p => { p with launches := p.launches.map fun l => { l with hdr := { l.hdr with flags := 2 } } }
def visitors (pair : Bool) : List Nat := if pair then [0, 2] else [0, 1]
def standing (pair shadow : Bool) (opc : Nat) : Instance :=
  { pc := 0x10000, opc, enc := { d := 1, a := 2, b := 4 }, shadow,
    arrivals := (visitors pair).map fun l => { lane := if shadow then l + 1 else l, contrib := true, mask := 3 } }
def instances (pair : Bool) (opc : Nat) : List Instance := standing pair false opc :: if pair then [standing pair true opc] else []
def assembled (pair : Bool) (opc : Nat) : Crew :=
  { full { thread [] with st := if opc = 0x74 then .waitJoin else .waitXl } with xl := instances pair opc }
/-- What a lane that comes to an instance must meet; nobody is there before it. -/
@[irreducible] def Comes (w : State) (o : Enc) (srcs : List Opnd) (dst : Option (Nat × Bool)) (preds : List Nat) (mask : Word) (t : Thread) : Prop :=
  AtHand (within w (crew t)) bundle (crew t) ∧ bundle.lanes.Nodup ∧ (∀ l ∈ bundle.lanes, l % 2 = 0) ∧
  ∀ l ∈ bundle.lanes, Operable o true srcs dst preds ((crew t).thread l) ∧ (crew t).hasArrived bundle.pc l = false ∧
    mask.getLsbD (visible ((within w (crew t)).hdrOf 0 0).pair l) = true
theorem comes {w : State} {o : Enc} {srcs : List Opnd} {dst : Option (Nat × Bool)} {preds : List Nat} {mask : Word} {t : Thread}
    (h : Here t ∧ Operable o true srcs dst preds t ∧ (crew t).hasArrived bundle.pc 0 = false ∧
      mask.getLsbD (visible ((within w (crew t)).hdrOf 0 0).pair 0) = true) : Comes w o srcs dst preds mask t := by
  unfold Comes
  refine ⟨atHand w (by rw [crew_thread]; exact h.1), by decide, by decide, fun l hl => ?_⟩
  simp only [bundle, List.mem_singleton] at hl
  subst hl
  rw [crew_thread]
  exact ⟨h.2.1, h.2.2.1, h.2.2.2⟩

theorem witness_BallotsShufflesReductions_general :
    ((within pairs (crew (thread []))).hdrOf 0 0).pair = true ∧
    (let t := thread [(2, 5, .n32), (3, 5, .i32), (4, 0xFFFFFFFF, .n32)]
     let o : Enc := { d := 1, a := 2, b := 4 }
     let m := o.litB false maskTags
     Comes base o [m] (some (1, false)) [o.predA] ((m.value t).setWidth 32) t ∧ Comes pairs o [m] none [] ((m.value t).setWidth 32) t ∧
     Comes base o [o.regA false (moveWant .raw false), o.litB false countTags] (some (1, false)) [] 0xFFFFFFFF t ∧
     Comes base { o with a := 3 } [Enc.regA { a := 3 } false (.only .i32), m] (some (1, false)) [] ((m.value t).setWidth 32) t ∧
     Comes base { o with d := 5 } [m] none [5] ((m.value t).setWidth 32) t ∧
     Comes base o [Enc.regA { a := 2 } false (.only .n32), m] (some (1, false)) [] ((m.value t).setWidth 32) t) ∧
    -- instances that every lane has come to, of a VOTE and of a JOIN
    (∀ pair ∈ [false, true], ∀ opc ∈ [0x60, 0x74],
      let s := within (if pair then pairs else base) (assembled pair opc)
      let c := assembled pair opc
      (s.hdrOf 0 0).pair = pair ∧ s.crew 0 0 = some c ∧
      c.xl = standing pair false opc :: (if pair then [standing pair true opc] else []) ∧
      (standing pair true opc).arrivals.map Arrival.lane = (standing pair false opc).arrivals.map (fun a => a.lane + 1) ∧
      (pair = true → (standing pair false opc).arrivals.all (fun a => a.lane % 2 == 0) = true) ∧
      ((standing pair false opc).arrivals.map Arrival.lane).Nodup ∧
      (∀ a ∈ (standing pair false opc).arrivals, a.lane < 32 ∧ ∀ v < nlane pair, a.mask.getLsbD v = true →
        ((standing pair false opc).arrivals.any fun z => visible pair z.lane == v) = true) ∧
      ∀ a ∈ (standing pair false opc).arrivals, (c.thread a.lane).pc = 0x10000 ∧
        (c.thread a.lane).st = (if opc = 0x74 then .waitJoin else .waitXl) ∧ (c.thread a.lane).haltMark = false ∧
        (c.thread a.lane).stepMark = false ∧
        ∀ k ∈ instances pair opc, ∀ z ∈ k.arrivals, opc ≠ 0x74 → (k.result pair (c.thread z.lane).rnd z).trap = none) ∧
    -- a result: an exception of a lane's own combines that is not enabled, and one that is; a SHFL's source that is a member, and one that is not
    (({ invalid := true } : Exc).toNat &&& bits 0 12 8 = 0 ∧ ({ invalid := true } : Exc).toNat &&& bits 0x1F00 12 8 ≠ 0) ∧
    (∀ n ∈ (standing false false 0x61).arrivals, visible false n.lane = 1 → n = { lane := 1, contrib := true, mask := 3 }) ∧
    ∀ n ∈ (standing false false 0x61).arrivals, visible false n.lane ≠ 31 := by
  and_intros
  all_goals first
    | exact comes (by decide +kernel)
    | decide +kernel

theorem witness_StashStores :
    let o : Enc := { form := .ext, ft := 8, c := 1, a := 2, b := 3, w2 := 0x10 }
    let t := thread [(1, 0x40003F80, .bf16x2), (2, 3, .n32), (3, 30, .n32)]
    let tx := tSpad 0 4 32 8 0 0 0 0
    let ty := tSpad 0x1000 4 32 8 1 0 0 0
    let c := tiled [tx, ty] t
    let s := within base c
    AtCrew base c o true [o.regA false countTags, o.regB false countTags, o.regC false (.only .bf16x2)] none [] ∧ o.fmt .f32 = .bf16x2 ∧
    s.tile lane0 0 = tx ∧ s.tile lane0 1 = ty ∧
    -- the last row and the last pair of columns: one store of 4 bytes and two of 2
    (∀ q ∈ [(tx.gbase + 252, 4, Loc.spad 0 0 252), (ty.gbase + 246, 2, .spad 0 0 0x10F6), (ty.gbase + 254, 2, .spad 0 0 0x10FE)],
      s.steerAp lane0 q.1 { align := q.2.1, write := true } = .mem q.2.2 ∧ s.storeHeld lane0 q.2.2 q.2.1 = false ∧
      s.watched lane0 q.1 q.2.2 q.2.1 false true = none) ∧
    (3 * 32 + 30) * 2 = 252 ∧ (30 * 4 + 3) * 2 = 246 ∧ (31 * 4 + 3) * 2 = 254 := by
  and_intros <;> first
    | exact at_hand (by decide +kernel)
    | exact at_crew (by decide +kernel)
    | exact met (by decide +kernel) (by decide +kernel)
    | decide +kernel

/-- Bank 0 with a barrier object at 0, of these fields. -/
def withBar (z : BarObj) : State := base.barWrite 0 0 0 z
def barObj (expect arrived pending phase : Nat) : BarObj := { expect, arrived, pending, phase, waiters := 0 }
theorem witness_Barriers :
    (∀ n ∈ [0, 1, 65535],
      let t := thread [(2, ownSpad0 0, .addr), (4, n, .n32)]
      let o : Enc := { d := 5, a := 2, b := 4 }
      let a := o.regA true (.only .addr)
      let cnt := o.litB false (.oneOf [.n32, .i32])
      -- the last phase, and the first; one arrival short, and with room for n
      ∀ ph ∈ [0, 65535], let w := withBar (barObj 65535 0 0 ph)
        let s := within w (crew t)
        At w o true [a, cnt] none [] t ∧ At w o true [a] (some (5, false)) [] t ∧ At w o true [a, cnt] none [o.predD] t ∧
        At w { o with form := .ext, mod := 1 } true [a, cnt] (some (5, false)) [] t ∧
        ownSpad0 0 / 2 ^ 48 = 0xFFFE ∧ s.steer lane0 (ownSpad0 0) { align := 16, write := true } = .mem (.spad 0 0 0) ∧
        s.barFree lane0 (.spad 0 0 0) = true ∧ s.drained lane0 = true ∧
        (∀ i < 16, poisonedAt (s.bank 0 0).poison (0 + i) = false) ∧ BarObj.of (leNat (memRead (s.bank 0 0).mem 0 16)) = barObj 65535 0 0 ph ∧
        bits (leNat (memRead (s.bank 0 0).mem 0 16)) 31 16 = 0 ∧ bits (leNat (memRead (s.bank 0 0).mem 0 16)) 63 48 = 0 ∧
        s.lineCount 0 0 (0 / 128) = 0 ∧
        (∀ rd ∈ [true, false], ∀ wr ∈ [true, false], s.watched lane0 (ownSpad0 0) (.spad 0 0 0) 16 rd wr = none) ∧
        (s.hdrOf 0 0).det = false ∧ (s.teamOf 0 0).isSome = true) ∧
    -- a phase is done from 1 to 32767 behind, and not at 0 or from 32768
    (∀ q ∈ [(0, 0, false), (1, 0, true), (32767, 0, true), (32768, 0, false), (0, 65535, true), (65535, 0, false)],
      decide (1 ≤ (q.1 + 2 ^ 16 - q.2.1 % 2 ^ 16) % 2 ^ 16 ∧ (q.1 + 2 ^ 16 - q.2.1 % 2 ^ 16) % 2 ^ 16 ≤ 32767) = q.2.2) ∧
    -- no lane of the machine has a debug step under way, no watchpoint is set
    (∀ c < 160, ((base.core c).crews.toList.all fun z => z.all fun z => z.threads.toList.all fun t => !t.stepMark) = true ∧
      (base.core c).wps.toList.length = 4 ∧ (base.core c).wps.toList.all (·.isNone) = true) ∧
    -- a lane that waits in a barrier object, before and after its phase is done
    (∀ ph ∈ [0, 1, 32767, 32768],
      let s := within (withBar (barObj 1 0 0 ph)) (crew { thread [] with st := .waitBar 0 0 (ownSpad0 0) 0 0x10004 })
      (s.thread 0 0 0).st = .waitBar 0 0 (ownSpad0 0) 0 0x10004 ∧ (s.thread 0 0 0).stepMark = false ∧ (s.thread 0 0 0).haltMark = false ∧
      (s.hdrOf 0 0).pair = false ∧ s.watched lane0 (ownSpad0 0) (.spad 0 0 (ownSpad0 0 % 65536)) 16 true true = none ∧
      (BarObj.of (leNat (memRead (s.bank 0 0).mem (ownSpad0 0 % 65536) 16))).phase = ph ∧
      (∀ i < 16, poisonedAt (s.bank 0 0).poison (ownSpad0 0 % 65536 + i) = false)) ∧
    -- and on an object in a poisoned sector
    (∀ s ∈ [(within (withBar (barObj 1 0 0 0)) (crew { thread [] with st := .waitBar 0 0 (ownSpad0 0) 0 0x10004 })).modBank 0 0
        (fun x => { x with poison := [(0, 0)] })],
      (s.thread 0 0 0).st = .waitBar 0 0 (ownSpad0 0) 0 0x10004 ∧ poisonedAt (s.bank 0 0).poison (ownSpad0 0 % 65536) = true) := by
  refine ⟨?_, ?_⟩
  · intro n hn
    simp only [List.mem_cons, List.not_mem_nil, or_false] at hn
    rcases hn with rfl | rfl | rfl
    all_goals
      intro t o a cnt ph hp
      simp only [List.mem_cons, List.not_mem_nil, or_false] at hp
      rcases hp with rfl | rfl
      all_goals and_intros <;> first | exact at_hand (by decide +kernel) | decide +kernel
  · and_intros <;> decide +kernel

/-! Premises of the statements on the engines and the tasks. -/

/-- The machine with some bytes at the start of the team's bank 0, seen by lane 0 with a descriptor address in its registers. -/
def withSpad (d : List Byte) : State := base.modBank 0 0 fun b => { b with mem := memWrite b.mem 0 d }
def asking : Thread := thread [(2, ownSpad0 0, .addr), (4, 7, .n64), (6, 3, .n32)]
def askOp : Enc := { form := .ext, d := 1, a := 2, b := 4, c := 6 }
/-- What every engine instruction needs. -/
abbrev EngineReady (w : State) (d : List Byte) (srcs : List Opnd) (classes : List Nat) (size al : Nat) : Prop :=
  let s := within w (crew asking)
  At w askOp false srcs (some (1, false)) [] asking ∧ s.failureOf lane0 classes = none ∧
  (match s.descriptor lane0 (ownSpad0 0) size al (some 1) with | .inl r => r == (d, 0, 0, 0) | .inr _ => false) = true ∧
  s.quiet lane0 = true ∧ (s.core 0).freeHandle = some 0 ∧ (s.core 0).copies.length < 64 ∧ (s.core 0).engs = [] ∧ (s.hdrOf 0 0).det = false

/-- Requests: a copy of one element; a lookup and a scatter of the smallest shape; near-memory fill of one granule and an addition
of one F32 granule; a broadcast of one element in group 15, from rank 0. -/
def copyBlock : List Byte := leBytes 8 0x10000 ++ leBytes 8 (ownSpad0 0x100) ++ List.replicate 48 0
def lookBlock (n1 k d dv : Nat) (scatter : Bool) : List Byte :=
  leBytes 8 0x20000 ++ leBytes 8 0x30000 ++ leBytes 8 0x38000 ++ leBytes 4 0x400 ++ leBytes 4 0x800 ++ leBytes 4 0xC00 ++ leBytes 4 0x1000 ++
  leBytes 4 0x1400 ++ leBytes 2 (n1 - 1) ++ leBytes 2 (n1 - 1) ++ leBytes 2 (if scatter then 0 else d) ++ leBytes 2 dv ++ leBytes 1 k ++
  leBytes 1 0 ++ leBytes 10 0
def nearBlock (op : Nat) (src : Nat) : List Byte :=
  [BitVec.ofNat 8 op, 5, 0, if src = 0 then 0 else 5] ++ List.replicate 12 0 ++ leBytes 8 0x10000 ++ leBytes 8 src
def collBlock : List Byte := [4, 0, 5, 15, 0, 0, 0, 0] ++ leBytes 8 0x10000 ++ leBytes 8 0x11000 ++ leBytes 8 1 ++ leBytes 8 0x12000 ++ List.replicate 24 0
/-- A group of two ranks. -/
def grouped : State := (withSpad collBlock).modPart 0 fun p => { p with groups := updateAt (fun _ => 2 ^ 63 + 2 * 2 ^ 16) p.groups 15 }

theorem witness_EnginesIssue :
    let a := askOp.regA true (.only .addr)
    let seed := askOp.regB true (.oneOf [.n64, .i64])
    let n32 := askOp.regC false (.oneOf [.n32, .i32])
    let at_ (w : State) : State := within w (crew asking)
    (EngineReady (withSpad copyBlock) copyBlock [a] [2] 64 64 ∧
      (at_ (withSpad copyBlock)).copyTrap lane0 copyBlock (ownSpad0 0) ((at_ (withSpad copyBlock)).copyReq lane0 copyBlock) = none) ∧
    (EngineReady (withSpad (lookBlock 1 1 2 1 false)) (lookBlock 1 1 2 1 false) [a, seed] [3, 4] 64 64 ∧
      (at_ (withSpad (lookBlock 1 1 2 1 false))).geyserTrap lane0 (lookBlock 1 1 2 1 false) (ownSpad0 0) false = none) ∧
    ((at_ (withSpad (lookBlock 8192 64 512 128 false))).geyserTrap lane0 (lookBlock 8192 64 512 16 false) (ownSpad0 0) false = none) ∧
    (EngineReady (withSpad (lookBlock 64 64 0 2048 true)) (lookBlock 64 64 0 2048 true) [a, seed, n32] [3, 4, 5] 64 64 ∧
      (at_ (withSpad (lookBlock 64 64 0 2048 true))).geyserTrap lane0 (lookBlock 64 64 0 2048 true) (ownSpad0 0) true = none) ∧
    (∀ q ∈ [(4, 0), (1, 0x20000)], let d := nearBlock q.1 q.2
      let s := at_ (withSpad d)
      EngineReady (withSpad d) d [a, seed] [4, 5] 32 128 ∧ (NmBlock.of d).wellShaped d = true ∧ s.nmTrap lane0 (NmBlock.of d) = none ∧
      (match s.nmPages lane0 (NmBlock.of d) with | .inl l => l == [(0x10000, 0x10000)] | .inr _ => false) = true ∧
      ∀ p ∈ pageSplit (NmBlock.of d).src ((NmBlock.of d).granules * (NmBlock.of d).perGranule), s.windowTrap lane0 p.1 = none) ∧
    (EngineReady grouped collBlock [a] [6] 64 64 ∧ (at_ grouped).collTrap lane0 collBlock (ownSpad0 0) = none) ∧
    -- NMF
    At base {} false [] none [] (thread []) ∧ (machine (thread [])).failureOf lane0 [4, 5] = none ∧ ((machine (thread [])).core 0).engs = [] := by
  and_intros
  all_goals first
    | exact at_hand (by decide +kernel)
    | decide +kernel
    | (intro q hq
       simp only [List.mem_cons, List.not_mem_nil, or_false] at hq
       rcases hq with rfl | rfl
       all_goals and_intros <;> first | exact at_hand (by decide +kernel) | decide +kernel)

/-- Core 0 with a looping copy of two stages and 16 passes that lane 0's team issued from its own address 0, its first
iteration issued. -/
def copyLoop : CopyOp :=
  { id := 9, part := 0, team := 2, reqAddr := 0,
    req := { CopyReq.parse (copyBlock.take 48 ++ [0, 0x20] ++ List.replicate 14 0) none with iters := 16 },
    handle := some 3, channel := none, dests := [(2, 0)], issued := [0, 1], done := [1], released := [], waitRid := none, stop := none,
    peer := none, ahead := [], smode := false }
def withLoop : State := withCore fun c => { c with copies := [copyLoop] }
theorem witness_CopyQueries :
    let ask (n : Nat) : Thread := thread [(2, ownSpad0 0, .addr), (4, n, .n32)]
    let o : Enc := { d := 1, a := 2, b := 4 }
    let srcs : List Opnd := [o.regA true (.only .addr), o.regB false (.oneOf [.n32, .i32])]
    -- the last stage, the first; no destination 2; no copy; the own team
    (∀ n ∈ [0, 1, 2, 15],
      let s := within withLoop (crew (ask n))
      At withLoop o false srcs none [] (ask n) ∧ At withLoop o false srcs (some (1, true)) [] (ask n) ∧
      At base o false srcs none [] (ask n) ∧ At base o false srcs (some (1, true)) [] (ask n) ∧
      s.failureOf lane0 [2] = none ∧ (match s.requestTeam lane0 (ownSpad0 0) with | .inl r => r.1 == 0 && r.2.id == 2 | .inr _ => false) = true ∧
      (s.teamOf 0 0).map Team.id = some 2 ∧ (s.core 0).copyFrom 2 (ownSpad0 0) = some copyLoop ∧ ((s.core 0).pendOf 0 0) = [] ∧
      (s.core 0).loadsOutstanding 0 0 0 = false) ∧
    ((machine (ask 0)).core 0).copyFrom 2 (ownSpad0 0) = none ∧ ((machine (ask 0)).core 0).oldCopies = [] ∧
    (copyLoop.req.looping = true ∧ copyLoop.req.stages = 2 ∧ ∀ n < 2, n ∈ copyLoop.issued ∧ n % 2 = n ∧
      (∀ m ∈ copyLoop.issued, m % 2 = n → m ≤ n) ∧ n + 2 < copyLoop.req.passes ∧ (n, 2) ∉ copyLoop.released) ∧
    copyLoop.destAt 15 = some 0 ∧ copyLoop.destAt 2 = none ∧
    -- an ended one, of the old copies
    ((within (withCore fun c => { c with oldCopies := [copyLoop] }) (crew (ask 0))).core 0).copyFrom 2 (ownSpad0 0) = none ∧
    copyLoop.team = 2 ∧ copyLoop.reqAddr = ownSpad0 0 % 2 ^ 22 ∧ copyLoop.handle.isSome = true := by
  and_intros
  · intro n hn
    simp only [List.mem_cons, List.not_mem_nil, or_false] at hn
    rcases hn with rfl | rfl | rfl | rfl
    all_goals and_intros <;> first | exact at_hand (by decide +kernel) | decide +kernel
  all_goals decide +kernel

/-- Partition 0 with a graph of two tasks, the lane's own the first, the second in a state. -/
def taskOf (i : Nat) (st : TaskState) (count : Nat) : Task :=
  { idx := i, gslot := 0, node := i, st, count, init := 0, hdr := {}, patch := 0, patchLen := 0, succ := [] }
def withTasks (st : TaskState) (count : Nat) : State :=
  base.modPart 0 fun p => { p with tasks := [taskOf 0 .running 0, taskOf 1 st count], graphs := [⟨0, 0, 2, 0, []⟩] }
theorem witness_TaskEvents :
    -- node 1, with counts 0, 65535 and 65536; node 2, which is not there
    (∀ q ∈ [(1, 0), (1, 65535), (1, 65536), (2, 1)], ∀ st ∈ [TaskState.idle, .waiting, .running],
      let t := thread [(2, q.1, .n32), (4, q.2, .n32)]
      let s := within (withTasks st 1) (crew t)
      At (withTasks st 1) { d := 1, a := 2, b := 4 } false
        [Enc.regA { a := 2 } false (.oneOf [.n32, .i32]), Enc.regB { b := 4 } false (.oneOf [.n32, .i32])] (some (1, false)) [] t ∧
      At (withTasks st 1) { d := 1, a := 2 } true [Enc.litA { a := 2 } false (.oneOf [.n32, .i32])] (some (1, false)) [] t ∧
      s.quiet lane0 = true ∧ s.nodeTask lane0 q.1 = (if q.1 = 1 then some (0, 1) else none) ∧ (s.part 0).task 1 = some (taskOf 1 st 1)) ∧
    (∀ n ∈ [0, 1, 2], let s := within (withTasks .waiting n) (crew (thread [(2, 1, .n32)]))
      s.quiet lane0 = true ∧ s.nodeTask lane0 1 = some (0, 1) ∧ (s.part 0).task 1 = some (taskOf 1 .waiting n)) := by
  refine ⟨?_, by decide +kernel⟩
  intro q hq st hs
  simp only [List.mem_cons, List.not_mem_nil, or_false] at hq hs
  rcases hq with rfl | rfl | rfl | rfl <;> rcases hs with rfl | rfl | rfl
  all_goals and_intros <;> first | exact at_hand (by decide +kernel) | decide +kernel

/-- The team of an S-mode lane with an invalidation that its last target has yet to acknowledge. -/
def invReq (stage2 : Bool) (page : Option Nat) (target : InvTarget) : InvReq :=
  { id := 9, stage2, page, asker := some (0, 0, 0), register := false, sent := true, left := [target], quar := 0, next := 0x10004 }
theorem witness_TlbInvalidations :
    (∀ b ∈ [1, 8],
      let t := sThread [(2, 0x1FFFFF, .addr), (4, b, .n32), (6, 0x1000, .n64)]
      let s := machine t
      let at_ (a : List Opnd) : Prop := At base { a := 2, b := 4 } true a none [] t
      at_ [Enc.regA { a := 2 } true (.only .addr)] ∧ at_ [] ∧ at_ [Enc.regB { b := 4 } false (.oneOf [.n32, .i32])] ∧
      At base { a := 6, b := 4 } true [Enc.regA { a := 6 } true (.oneOf [.n64, .i64]), Enc.regB { b := 4 } false (.oneOf [.n32, .i32])] none [] t ∧
      t.priv = true ∧ s.asked lane0 = false ∧ s.storing lane0 = false ∧ s.partOf 0 = 0 ∧ (t.value 4 false).toNat = b) ∧
    (∀ target ∈ [InvTarget.core 159, .die 3, .nearMemory], ∀ page ∈ [some 0x1FFFFF],
      let q := invReq false page target
      let s := within (base.modPart 0 fun p => { p with invs := [q] }) (crew { sThread [] with st := .waitUnit })
      (s.part 0).invs = [q] ∧ q.sent = true ∧ q.left = [target] ∧ (target = .nearMemory → s.nearBusy 0 q = false) ∧ q.register = false ∧ q.asker = some (0, 0, 0) ∧
      q.quar = 0 ∧ (s.thread 0 0 0).st = .waitUnit ∧ (s.thread 0 0 0).stepMark = false ∧ (s.thread 0 0 0).haltMark = false) := by
  refine ⟨?_, by decide +kernel⟩
  intro b hb
  simp only [List.mem_cons, List.not_mem_nil, or_false] at hb
  rcases hb with rfl | rfl
  all_goals and_intros <;> first | exact at_hand (by decide +kernel) | decide +kernel

/-! Premises of the statements on the debugger. -/

/-- Crew slot 62 of core 0 holds a second crew of the team, lane 1 in a state. -/
def other (st : LaneState) : Crew :=
  { programCrew 2 0 with threads := Vector.ofFn fun l => if l.val = 1 then { pc := 0x10000, st, tvec := 0x20000 } else {} }
def withOther (st : LaneState) : State := base.setCrew 0 62 (some (other st))
theorem witness_DebugControl :
    (∀ st ∈ [LaneState.runnable, .halted, .exited, .waitUnit],
      let o : Enc := { d := 1, a := 2, b := 4 }
      let a := o.regA false (.oneOf [.n32, .i32])
      let b := o.regB false (.oneOf [.n32, .i32])
      let t := sThread [(2, 62, .n32), (4, 2, .n32)]
      let s := within (withOther st) (crew t)
      At (withOther st) o false [a] (some (1, false)) [] t ∧ At (withOther st) o false [a, b] none [] t ∧
      At (withOther st) o false [a, b] (some (1, false)) [] t ∧ t.priv = true ∧ (t.value 2 false).toNat = 62 ∧
      s.crew 0 62 = some (other st) ∧ (s.teamOf 0 62).isSome = true ∧ (((other st).resorted s.cycle).stepBundle false 2 = if st = .halted then [1] else []) ∧
      ((∀ j < 32, Nat.testBit 2 j = true → ((other st).thread j).st ≠ .halted) ↔ st ≠ .halted)) ∧
    -- BKPT: in S mode; in U mode with the debugger on and off
    At base {} true [] none [] (sThread []) ∧ (sThread []).priv = true ∧
    (∀ on ∈ [true, false], let w := withCore fun c => { c with debug := on }
      At w {} true [] none [] (thread []) ∧ ((within w (crew (thread []))).core 0).debug = on ∧
      ((within w (crew (thread []))).teamOf 0 0).isSome = true) ∧ (thread []).priv = false ∧ (thread []).tvec ≠ 0 := by
  refine ⟨?_, ?_, ?_, ?_, ?_⟩
  · intro st hs
    simp only [List.mem_cons, List.not_mem_nil, or_false] at hs
    rcases hs with rfl | rfl | rfl | rfl
    all_goals and_intros <;> first | exact at_hand (by decide +kernel) | decide +kernel
  · exact at_hand (by decide +kernel)
  · decide +kernel
  · intro on ho
    simp only [List.mem_cons, List.not_mem_nil, or_false] at ho
    rcases ho with rfl | rfl
    all_goals and_intros <;> first | exact at_hand (by decide +kernel) | decide +kernel
  · decide +kernel

/-- The core's event queue holds an event and the partition's queues a message. -/
def withMessages (n : Nat) : State :=
  ((withOther .halted).modCore 0 fun c => { c with events := [7] }).modPart 0 fun p =>
    { p with d2h := List.replicate n 5, h2d := List.replicate n 6 }
/-- What names lane 1 of crew slot 62. -/
def lane1 : Nat := 2 ^ 8 + 62
theorem witness_DebugAccess :
    let n32 : Want := .oneOf [.n32, .i32]
    let n64 : Want := .oneOf [.addr, .n64]
    -- DBP and DWP, set and cleared
    (let o : Enc := { form := .ext, w2 := 7, a := 2, b := 4 }
     let t := sThread [(2, 65532, .n32), (4, 0, .n32), (6, 0x10000, .addr)]
     let s := machine t
     At base { o with b := 6 } false [Enc.regB { o with b := 6 } true n64] none [] t ∧ At base o false [] none [] t ∧ t.priv = true ∧
     At base o false [o.regA false .all, o.regB false n32] none [] t ∧ (o.regA false n32).tagTrap t = none ∧
     (s.teamOf 0 0).any (fun tm => decide (bits 65532 21 16 < tm.banks.length)) = true ∧ 65532 % 65536 < s.spcap 0 ∧
     65532 % 65536 % 2 ^ (o.w2Bits 7 4 + 2) = 0 ∧ o.w2Bits 2 0 = 7) ∧
    -- DREAD and DWRITE of each space at its first place and its last
    (∀ w2 ∈ [0, 0x3F0, 1, 0x3F1, 2, 0x32, 3, 0x13, 0x23, 4, 0x314, 5, 6, 0x16],
      let o : Enc := { form := .ext, w2 := BitVec.ofNat 32 w2, d := 8, a := 2, b := 4 }
      let t := sThread [(2, lane1, .n32), (4, 5, if Encoding.dspaceWide o then .n64 else .n32)]
      let s := within (withMessages 1) (crew t)
      At (withMessages 1) o false [o.regA false n32] (some (8, Encoding.dspaceWide o)) [] t ∧
      At (withMessages 1) o false [o.regA false n32, o.regB (Encoding.dspaceWide o) .noHandle] none [] t ∧ t.priv = true ∧
      lane1 < 2 ^ 13 ∧ bits lane1 7 6 = 0 ∧ lane1 % 64 = 62 ∧ (s.teamOf 0 62).isSome = true ∧ (s.laneThread ⟨0, 62, 1⟩).st = .halted ∧
      (s.core 0).events = [7] ∧ Tag.ofCode 5 = some .f32 ∧ (o.w2Bits 3 0 = 4 → srBad (o.w2Bits 15 4) 5 = none)) ∧
    -- no event to read
    ((within (withOther .halted) (crew (sThread [(2, lane1, .n32)]))).core 0).events = [] ∧
    -- DMBX.send and DMBX.recv on queues of 0, 1, 63 and 64 messages
    (∀ n ∈ [0, 1, 63, 64],
      let t := sThread [(2, 5, .n64)]
      At (withMessages n) { a := 2 } false [Enc.regA { a := 2 } true n64] none [] t ∧ At (withMessages n) { d := 2 } false [] (some (2, true)) [] t ∧
      t.priv = true ∧ ((within (withMessages n) (crew t)).part 0).d2h.length = n ∧
      ((within (withMessages n) (crew t)).part 0).h2d = List.replicate n 6) := by
  refine ⟨?_, ?_, by decide +kernel, ?_⟩
  · and_intros <;> first | exact at_hand (by decide +kernel) | decide +kernel
  · intro w hw
    simp only [List.mem_cons, List.not_mem_nil, or_false] at hw
    rcases hw with rfl | rfl | rfl | rfl | rfl | rfl | rfl | rfl | rfl | rfl | rfl | rfl | rfl | rfl
    all_goals and_intros <;> first | exact at_hand (by decide +kernel) | decide +kernel
  · intro n hn
    simp only [List.mem_cons, List.not_mem_nil, or_false] at hn
    rcases hn with rfl | rfl | rfl | rfl
    all_goals and_intros <;> first | exact at_hand (by decide +kernel) | decide +kernel

/-! Premises of the statements on the command queue, graphs and launches. -/

/-- Partition 0 with the lowest GiB mapped for everything by a first-stage table at 0x8000. -/
def entryTo (pa flags : Nat) : List Byte := leBytes 8 (pa + flags)
def paged : State :=
  { base.modPart 0 (fun p => { p with groot := 0x8000 }) with
    mem := memWrite (memWrite (memWrite base.mem 0x8000 (entryTo 0x9000 3)) 0x9000 (entryTo 0xA000 3)) 0xA000 (entryTo 0 0x60D) }
/-- An answer's state and value, where it is one. -/
def gotten {α : Type} : State × Got α → Option (State × α)
  | (s, .ok a) => some (s, a)
  | _ => none
abbrev isFault {α : Type} : State × Got α → Bool
  | (_, .fault _) => true
  | _ => false

/-- A queue of 16 entries at 0x20000 with 15 as its HEAD. -/
def queueing (fn : Nat) (en : Bool) (tail : Nat) : State :=
  paged.modPart fn fun p => { p with st := 1, queue := { qbase := 0x20000, en, logN := 4, head := 15, tail } }
theorem witness_QueueRegisters :
    let q (fn : Nat) (en : Bool) (tail : Nat) : QueueRegs := ((queueing fn en tail).part fn).queue
    (∀ fn ∈ [0, 8], ∀ en ∈ [true, false], (queueing fn en 0).boot = 3 ∧ (q fn en 0).en = en ∧ (q fn en 0).logN = 4) ∧
    -- word 08: LOG2N and EN as they are; LOG2N changed while enabled; EN cleared
    (∀ v ∈ [(0x80000004, 4, true), (0x8000000C, 12, true), (4, 4, false), (12, 12, false), (13, 13, false), (3, 3, false), (0x80000003, 3, true)],
      v.1 % 16 = v.2.1 ∧ v.1.testBit 31 = v.2.2) ∧
    -- TAIL: one entry pending; the next place; itself full; beyond the ring; before the pending one
    ((q 0 true 0).en = true ∧ (∀ t ∈ [0, 1, 14], t < 2 ^ 4 ∧ (0 + 2 ^ 4 - 15) % 2 ^ 4 ≤ (t + 2 ^ 4 - 15) % 2 ^ 4) ∧
      2 ^ 4 ≤ 16 ∧ (15 + 2 ^ 4 - 15) % 2 ^ 4 < (0 + 2 ^ 4 - 15) % 2 ^ 4) ∧
    -- a SYNC that waits
    ((q 0 true 0).en = true ∧ ({ entry := leBytes 16 4 ++ leBytes 48 1 } : Command).isWait = true) ∧
    -- an entry to fetch, and one that cannot be read
    ((q 0 true 0).en = true ∧ (q 0 true 0).head ≠ (q 0 true 0).tail ∧ ((queueing 0 true 0).part 0).cmd = none ∧
      ((queueing 0 true 0).part 0).phase = .active ∧ ((queueing 0 true 0).part 0).st = 1 ∧ ((queueing 0 true 0).part 0).tdisp ≠ 3 ∧
      (gotten ((queueing 0 true 0).readVa (cpAgent 0) (0x20000 + 64 * 15) 64)).any (fun r => decide (0 ∈ { entry := r.2 : Command }.badBytes
        ((queueing 0 true 0).part 0))) = true ∧
      ({ entry := leBytes 16 4 ++ leBytes 48 0 } : Command).badBytes {} = []) ∧
    (let s := (queueing 0 true 0).modPart 0 fun p => { p with groot := 0 }
     isFault (s.readVa (cpAgent 0) (0x20000 + 64 * 15) 64) = true ∧ (s.part 0).cmd = none ∧ (s.part 0).st = 1) := by
  and_intros <;> decide +kernel

/-- An image of two nodes, the first before the second and with a patch block of 8 bytes. -/
def image : List Byte :=
  leBytes 4 0x09424749 ++ leBytes 2 1 ++ leBytes 2 5 ++ leBytes 8 304 ++ leBytes 48 0 ++
  [(1, 144, 4), (2, 192, 64), (3, 256, 32), (4, 288, 4), (5, 296, 8)].flatMap (fun s : Nat × Nat × Nat => leBytes 4 s.1 ++ leBytes 4 s.2.1 ++ leBytes 8 s.2.2) ++
  leBytes 48 0 ++ (leBytes 13 0 ++ leBytes 51 1) ++ (leBytes 4 0 ++ leBytes 2 1 ++ leBytes 2 0 ++ leBytes 8 8) ++ (leBytes 6 0 ++ leBytes 10 1) ++
  (leBytes 2 0 ++ leBytes 6 1) ++ (leBytes 3 0 ++ leBytes 5 8)
/-- Partition 0 with a command of an operation at hand and some bytes at 0x30000. -/
def commanding (entry d : List Byte) : State :=
  { (queueing 0 true 0).modPart 0 (fun p => { p with cmd := some { entry }, cmdBase := 0x50000, cmdSize := 4096 }) with
    mem := memWrite paged.mem 0x30000 d }
def loadEntry : List Byte := leBytes 16 1 ++ leBytes 8 0x30000 ++ leBytes 8 304 ++ leBytes 8 0x40000 ++ leBytes 24 15
def runEntry : List Byte := leBytes 16 2 ++ leBytes 2 15 ++ leBytes 6 1 ++ leBytes 8 0x40000 ++ leBytes 32 0x48000
def copyEntry : List Byte := leBytes 16 3 ++ leBytes 8 0x30000 ++ leBytes 8 0x40FFC ++ leBytes 32 8
def syncEntry (mode : Nat) : List Byte := leBytes 16 4 ++ leBytes 8 mode ++ leBytes 8 0x30000 ++ leBytes 32 1
def loadedGraph : GraphSlot := ⟨15, 0, 2, 0x30090, [⟨0, 0, 8, 0⟩]⟩
def loaded : State := (commanding runEntry image).modPart 0 fun p =>
  { p with graphs := [loadedGraph], tasks := [{ taskOf 0 .idle 0 with gslot := 15, patch := 0x50000, patchLen := 8 }, { taskOf 1 .idle 0 with gslot := 15, init := 1 }] }

/-- The premises of the statement on GRAPH_LOAD, one after the other. -/
def loads (s : State) (c : Command) : Option Unit := do
  let g := cpAgent 0
  let (s1, head) ← gotten (s.readVa g (c.f 16 8) 64)
  guard (lowestFault (headFaults head (c.f 24 8)) = none)
  let (s2, table) ← gotten (s1.readVa g (c.f 16 8) (64 + 16 * field head 6 2))
  guard (lowestFault (tableFaults table) = none)
  let (s3, ps) ← gotten (s2.readSections g (c.f 16 8) (sections table))
  let at_ (i : Nat) : Part := ps.getD i {}
  let im : Igb := { secs := sections table, kern := at_ 0, nodes := at_ 1, edges := at_ 2, patch := at_ 3, plan := at_ 4 }
  guard (im.count = 2 ∧ im.points.length = 1 ∧ im.faults = none)
  let (s4, tab) ← gotten (s3.readVa g (c.f 32 8) (8 * im.plans))
  let bufs := (List.range im.plans).map fun j => field tab (8 * j) 8
  guard (firstReason [(0x0A, im.bufferFaults bufs)] = none)
  let sizes := (List.range im.count).map fun i => ceilDiv (im.node i).2.2.2 8 * 8
  let first ← ((s4.freeGraph 0 (c.f 40 2)).part 0).taskRange im.count
  let blocks ← ((s4.freeGraph 0 (c.f 40 2)).part 0).placeBlocks sizes
  guard (first = 0 ∧ blocks.headD 0 = 0x50000)
  match (s4.freeGraph 0 (c.f 40 2)).copyImages g (c.f 16 8) im bufs with
  | (s5, .ok (), 0) =>
    let _ ← gotten (s5.writeAll g ((((blocks.zip sizes).filter fun b => b.2 != 0).map fun b => (b.1, List.replicate b.2 (0 : Byte))) ++
      (im.points.filter fun q => q.buf != 0).map fun q => (blocks.getD q.node 0 + q.off, leBytes q.size (bufs.getD (q.buf - 1) 0))))
  | _ => none

theorem witness_Commands :
    let g := cpAgent 0
    let at_ (s : State) (entry : List Byte) (opc : Nat) : Prop := (s.part 0).cmd = some { entry } ∧ (s.part 0).phase = .active ∧
      ({ entry } : Command).opc = opc
    -- a load of the image; one whose first byte is wrong, one with a section of an unknown type
    (at_ (commanding loadEntry image) loadEntry 1 ∧ loads (commanding loadEntry image) { entry := loadEntry } = some () ∧
      (lowestFault (headFaults ((0 : Byte) :: (image.drop 1).take 63) 304)).isSome = true ∧
      (gotten ((commanding loadEntry (image.take 64 ++ 9 :: image.drop 65)).readVa g 0x30000 144)).any
        (fun r => (lowestFault (tableFaults r.2)).isSome) = true) ∧
    -- a run of a slot that holds no graph, and of one that does
    (at_ (commanding runEntry image) runEntry 2 ∧ ((commanding runEntry image).part 0).graph 15 = none ∧ at_ loaded runEntry 2 ∧
      (loaded.part 0).run = none ∧ (loaded.part 0).graph 15 = some loadedGraph ∧
      ((gotten (loaded.readVa g 0x40000 8)).bind fun a =>
        (gotten (a.1.writeAll g [(0x50000, leBytes 8 (field a.2 0 8))])).bind fun b =>
        (gotten (b.1.readBitmaps 0 0x48000 2)).map fun d => ((d.1.part 0).task 1).isSome) = some true) ∧
    -- a copy across a page boundary
    (at_ (commanding copyEntry image) copyEntry 3 ∧
      ((gotten ((commanding copyEntry image).reachable g 0x30000 8 false)).bind fun a =>
        (gotten (a.1.reachable g 0x40FFC 8 true)).bind fun b => (gotten (b.1.readVa g 0x30000 8)).map fun d => a.2.isNone && b.2.isNone && d.2.length == 8)
        = some true) ∧
    -- SYNC: a signal; a wait with the queue enabled, and not; a waiting one whose word is below VALUE, and at it
    (at_ (commanding (syncEntry 0) []) (syncEntry 0) 4 ∧ ({ entry := syncEntry 0 } : Command).f 16 1 ≠ 1 ∧
      (gotten ((commanding (syncEntry 0) []).writeVa g 0x30000 (leBytes 8 1))).isSome = true) ∧
    (at_ (commanding (syncEntry 1) []) (syncEntry 1) 4 ∧ ({ entry := syncEntry 1 } : Command).f 16 1 = 1 ∧
      ((commanding (syncEntry 1) []).part 0).queue.en = true ∧
      ((((commanding (syncEntry 1) []).modPart 0 fun p => { p with queue := { p.queue with en := false } }).part 0).queue.en = false) ∧
      ∀ n ∈ [0, 1], (gotten ((commanding (syncEntry 1) (leBytes 8 n)).readVa g 0x30000 8)).any (fun r => leNat r.2 == n) = true) ∧
    -- a completion
    (gotten ((commanding (syncEntry 0) []).writeAll g [(0x20000 + 64 * 15 + 12, leBytes 4 0), (0x20000 + 64 * 15 + 8, leBytes 4 1)])).isSome = true := by
  and_intros <;> decide +kernel

/-- Core 1 runs partition 0; one of its launches is of some teams that each need a whole core's banks. -/
def whole (f : Launch → Launch) : Launch :=
  f { programLaunch 9 [] with hdr := { (programLaunch 9 []).hdr with bkSp := 48 }, task := 1, total := 3, started := false, next := 0 }
def launching (f : Launch → Launch) (q : List Chunk) : State :=
  base.modPart 0 fun p => { p with st := 1, cores := 2, launches := [whole f], workq := q, urgentq := q, tasks := [taskOf 1 .running 0] }
/-- The chunks left after a dispatch, by the first team they name. -/
def leftOf (s : State) (f : Launch → Launch) (ch : Chunk) : Option Nat := (s.placeGangs (whole f) 0 (ch.last + 1) ch).2.map Chunk.l

theorem witness_LaunchLife :
    -- chunks: a launch that cannot be placed; one that can; a full queue; room for one more; an urgent launch
    (let find (s : State) (u : Bool) : Option Launch :=
       (s.part 0).launches.find? fun l => l.hdr.urg == u && !l.unplaceable && decide (l.next < l.total)
     let big (l : Launch) : Launch := { l with hdr := { l.hdr with bkSp := 49 } }
     let on (l : Launch) : Launch := { l with started := true }
     let urgent (l : Launch) : Launch := { on l with hdr := { l.hdr with flags := l.hdr.flags ||| 16 } }
     (find (launching big []) false = some (whole big) ∧ (whole big).started = false ∧ (launching big []).unplaceable (whole big) = true) ∧
     (find (launching id []) false = some (whole id) ∧ (whole id).started = false ∧ (launching id []).unplaceable (whole id) = false ∧
       (whole id).hdr.stack = 0 ∧ (whole id).hdr.cor = false) ∧
     (∀ n ∈ [0, 511, 512], find (launching on (List.replicate n ⟨9, 0, 0⟩)) false = some (whole on) ∧ (whole on).started = true ∧
       ((launching on (List.replicate n ⟨9, 0, 0⟩)).part 0).workq.length = n) ∧
     find (launching urgent []) true = some (whole urgent)) ∧
    -- dispatch: one team, placed; two, with room for one; none placed
    (let on (l : Launch) : Launch := { l with started := true, next := 3 }
     let few (l : Launch) : Launch := { on l with hdr := { l.hdr with bkSp := 1 } }
     let nearFull (s : State) (b : Nat) : State := s.modCore b fun c =>
       { c with teams := [{ id := 5, part := 0, launch := 9, l := 0, slots := [0], banks := List.range 47, units := [] }] }
     (∀ q ∈ [(on, 0), (few, 1)], let s := nearFull (nearFull (launching q.1 [⟨9, 0, q.2⟩]) 0) 1
       (s.part 0).workq = [⟨9, 0, q.2⟩] ∧ s.launch 0 9 = some (whole q.1) ∧ (s.part 0).phase = .active ∧ (s.part 0).st = 1) ∧
     leftOf (launching on [⟨9, 0, 0⟩]) on ⟨9, 0, 0⟩ = none ∧
     leftOf (nearFull (nearFull (launching few [⟨9, 0, 1⟩]) 0) 1) few ⟨9, 0, 1⟩ = some 1 ∧
     leftOf ((launching on [⟨9, 0, 1⟩]).modPart 0 fun p => { p with cores := 1 }) on ⟨9, 0, 1⟩ = some 0) ∧
    -- a team placed on an empty core; a team that is done
    (let s := launching (fun l => { l with started := true }) []
     s.hasRoom (whole fun l => { l with started := true }) 0 1 = true ∧ s.hasRoom (whole fun l => { l with started := true }) 2 159 = true ∧
     (whole id).hdr.bkCache = 0 ∧ (whole id).hdr.bkFifo = 0) ∧
    (let s := base.setCrew 0 0 (some { programCrew 2 0 with threads := Vector.ofFn fun _ => {} })
     ((s.core 0).team 2).any (fun t => t.part == 0 && t.id == 2 && s.mayRetire 0 t && t.slots.all fun sl => sl < 63) = true) ∧
    -- a launch whose last team has retired, and one that could not be placed
    (∀ un ∈ [true, false],
      let f (l : Launch) : Launch := { l with started := true, unplaceable := un, retired := if un then 0 else 3, next := 3 }
      let s := (launching f []).modPart 0 fun p => { p with run := some ⟨0, 0, [0, 0], 0, [], none⟩ }
      s.launch 0 9 = some (whole f) ∧ ((whole f).unplaceable = true ∨ (whole f).retired = (whole f).total) ∧
      (s.part 0).task (whole f).task = some (taskOf 1 .running 0) ∧
      (match s.writeRecord 0 1 (if un then 3 else 1) 3 0 (leBytes 1 0) with | .inl _ => true | .inr _ => false) = true) ∧
    -- a run with no task RUNNING, and one WAITING; its records are not asked for
    (let s := (withTasks .waiting 1).modPart 0 fun p =>
       { p with tasks := [taskOf 0 .done 0, taskOf 1 .waiting 1], run := some ⟨0, 0, [0, 0], 0, [], none⟩ }
     (s.part 0).run = some ⟨0, 0, [0, 0], 0, [], none⟩ ∧ (s.part 0).phase = .active ∧ (∀ t ∈ (s.part 0).tasks, t.gslot = 0 → t.st ≠ .running) ∧
     (match s.writeRecord 0 1 4 0 0 [] with
      | .inl u => (u.part 0).tasks == (s.part 0).tasks && (u.part 0).run.any fun r => r.gslot == 0
      | .inr _ => false) = true) := by
  and_intros <;> decide +kernel

/-! Premises of the statements on cores and engines at work. -/

theorem witness_CoreEvents :
    -- an unassigned opcode and a fetch beyond the address space trap; one of an unmapped page waits
    (AtHand (machine (thread [])) bundle (crew (thread [])) ∧ bundle.lanes = [0] ∧ ((machine (thread [])).hdrOf 0 0).pair = false ∧
      (thread []).handles = true ∧
      (match (machine (thread [])).fetchWord lane0 (2 ^ 57) with | .inr (.trap r) => !r.next | _ => false) = true ∧
      (match (machine (thread [])).fetchWord lane0 0x200000 with | .inr (.miss _) => true | _ => false) = true) ∧
    -- a core with a team and a crew; one with neither; one with an event that waits behind 7
    (((machine (thread [])).crew 0 0).isSome = true ∧ ((machine (thread [])).thread 0 0 0).st ≠ .exited ∧
      ((machine (thread [])).hdrOf 0 0).pair = false ∧ ((machine (thread [])).core 159).teams = [] ∧
      ((machine (thread [])).core 159).debug = false ∧ (0, 2 ^ 31 - 1) ∈ ({ base with revokes := [(0, 2 ^ 31 - 1)] } : State).revokes) ∧
    (let s := withCore fun c => { c with eventsWaiting := [9], events := List.replicate 7 8, caldera := [0] }
     (s.core 0).eventsWaiting = [9] ∧ (s.core 0).events.length < 8 ∧ (s.core 0).caldera ≠ []) ∧
    -- the last sectors; each lies where its kind has room
    (2 ^ 35 - 1 < 2 ^ 35 ∧ 98303 < 98304 ∧ 98303 % 2048 * 32 < base.spcap 159 ∧ 24575 < 24576) ∧
    (98303 / 2048 = 47 ∧ ((base.core 159).bank 47).mode ≠ .fifo ∧
      (((base.modBank 159 47 fun z => { z with mode := .fifo }).core 159).bank 47).mode = .fifo ∧
      98303 % 2048 * 32 < (base.modBank 159 47 fun z => { z with mode := .fifo }).spcap 159) ∧
    -- a crew whose one live lane waits for lane 31
    (let t : Thread := { thread [] with st := .waitXl }
     let c : Crew := { crew t with xl := [{ pc := 0x10000, opc := 0x60, enc := {}, shadow := false, arrivals := [{ lane := 0, contrib := true, mask := 0x80000001 }] }] }
     (within base c).crew 0 0 = some c ∧ c.deadlocked false = true ∧ ((within base c).hdrOf 0 0).pair = false ∧ c.live = [0] ∧
      (c.thread 0).handles = true ∧ (∀ i ∈ c.xl, i.owed = []) ∧ (c.xl.find? fun i => i.pc == (c.thread 0).pc && !i.shadow).isSome = true) := by
  refine ⟨⟨atHand base (by rw [crew_thread]; decide +kernel), ?_⟩, ?_, ?_, ?_, ?_, within_crew _ _, ?_⟩
  all_goals decide +kernel

/-- A copy with nothing to issue stays as it is. -/
theorem issueCopy_idle {s : State} {b id : Nat} {o : CopyOp} (h : s.copy b id = some o)
    (hd : ∀ n ∈ List.range o.req.stages ++ o.issued.map (· + o.req.stages), o.due n = false) : s.issueCopy b id = s := by
  unfold State.issueCopy
  simp only [h]
  generalize List.range o.req.stages ++ o.issued.map (· + o.req.stages) = l at hd
  induction l with
  | nil => rfl
  | cons n l ih =>
    simp only [List.foldl_cons, h, hd n (.head _), Bool.not_false, Bool.true_or, if_true]
    exact ih fun m hm => hd m (.tail _ hm)

/-- A copy of one 1-byte element from the mapped page to bank 0, under way; an engine operation under way; their handle slot. -/
def oneCopy (done : Nat) : CopyOp :=
  { copyLoop with req := CopyReq.parse copyBlock (some 1), dests := [(2, 0)], issued := [0], done := [done], handle := some 1023 }
def engOp (kind : EngKind) (d : List Byte) (started : Bool) (done skip : List Nat) : EngOp :=
  { id := 9, kind, part := 0, team := 2, slot := 0, handle := 1023, descAddr := ownSpad0 0, desc := d, seed := 7, seqNo := 3,
    pages := [(0x10000, 0x10000)], started, source := [], skip, done, stop := none, waitRid := none, parts := [], chunks := [], resent := 0, via := [],
    number := 0, smode := false }
def working (f : Core → Core) : State :=
  ((paged.modPart 0 fun p => { p with tasks := [taskOf 1 .waiting 2] }).modCore 0 f).modHandle 0 1023 fun _ =>
    { st := .pending, gen := 1, cls := 2, team := 2, slot := 0, lane := 0, word := 0 }
def withCopy (done : Nat) : State := working fun c => { c with copies := [oneCopy done] }
def withEng (o : EngOp) : State := working fun c => { c with engs := [o] }

theorem witness_EngineWork :
    -- a copy with its item to perform; one that has performed it
    ((withCopy 0).copy 0 9 = some (oneCopy 0) ∧ 0 < (oneCopy 0).dests.length ∧ (oneCopy 0).stop = none ∧ (oneCopy 0).waitRid = none ∧
      (oneCopy 0).peer = none ∧ (withCopy 0).channelFree (oneCopy 0) = true ∧ (withCopy 0).issueCopy 0 9 = withCopy 0 ∧
      (0 / (oneCopy 0).req.items) ∈ (oneCopy 0).issued ∧ (oneCopy 0).req.bar = none ∧
      (match (withCopy 0).copyRead 0 (oneCopy 0) 0 0 (((oneCopy 0).req.source 0 0).headD (0, 0)).1 1 [] with
        | (s1, .inl d) => (match s1.copyPuts 0 (oneCopy 0) 0 d 0 ((oneCopy 0).req.writes 0 0 ((oneCopy 0).req.image d)) with
          | (s2, .done) => (s2.copy 0 9).isSome
          | _ => false)
        | _ => false) = true ∧ (oneCopy 0).req.esz = 1 ∧ (oneCopy 0).req.xform = 0 ∧
      (∀ w ∈ (oneCopy 0).req.writes 0 0 ((oneCopy 0).req.image [7]), w.1 / 2 ^ 48 = 0xFFFE ∧
        (((oneCopy 0).dests[0]?).bind fun d => (withCopy 0).destBank d w.1).isSome = true)) ∧
    ((withCopy 1).copy 0 9 = some (oneCopy 1) ∧ (∀ n ∈ (oneCopy 1).done, n = (oneCopy 1).req.items * (oneCopy 1).req.passes) ∧
      ((withCopy 1).handle 0 1023).st = .pending ∧ (oneCopy 1).handle = some 1023 ∧ (oneCopy 1).req.dep = some 1 ∧ (oneCopy 1).part < 9 ∧
      ((withCopy 1).part 0).task 1 = some (taskOf 1 .waiting 2)) ∧
    -- a lookup of one query, and of the first of two; a scatter
    (∀ d ∈ [lookBlock 1 1 2 1 false, (lookBlock 1 1 2 1 false).set 53 1],
      let o := engOp .pkl d false [] []
      (withEng o).eng 0 9 = some o ∧ 0 < (Geyser.of d).q ∧ ((withEng o).handle 0 1023).st = .pending ∧
      (match (withEng o).lookup 0 o 0 with | .done s1 => s1.eng 0 9 == some o && (s1.handle 0 1023).st == .pending | _ => false) = true) ∧
    (let o := engOp .pklb (lookBlock 1 1 0 1 true) false [] []
     (withEng o).eng 0 9 = some o ∧ 0 < (Geyser.of o.desc).q ∧
      (match (withEng o).scatter 0 o 0 with | .done s1 => s1.eng 0 9 == some o && (s1.handle 0 1023).st == .pending | _ => false) = true) ∧
    -- a near-memory command of each operation, not yet taken in; with its granule to do; with the granule poisoned; with it done
    (∀ q ∈ [(1, 0x20000), (2, 0x20000), (3, 0), (4, 0)],
      let o := engOp .nmc (nearBlock q.1 q.2) false [] []
      (withEng o).eng 0 9 = some o ∧ o.kind = .nmc ∧ (NmBlock.of o.desc).op = q.1 ∧
      (gotten (if (NmBlock.of o.desc).reads then (withEng o).nmRead 0 o (NmBlock.of o.desc) else (withEng o, .ok []))).isSome = true) ∧
    (let o := engOp .nmc (nearBlock 4 0) true [] []
     let s := withEng o
     s.eng 0 9 = some o ∧ 0 < (NmBlock.of o.desc).granules ∧ s.keyLoaded (paKey (o.pageOf 0x10000)) = true ∧ o.pageOf 0x10000 % 256 = 0 ∧
      s.granulePoison (o.pageOf 0x10000) 0x10000 = none ∧ (({ s with poison := [(2049, 1)] } : State).granulePoison (o.pageOf 0x10000) 0x10000).isSome = true) ∧
    (∀ q ∈ [([0], []), ([], [0])], let o := engOp .nmc (nearBlock 4 0) true q.1 q.2
      (withEng o).eng 0 9 = some o ∧ (NmBlock.of o.desc).granules ≤ o.done.length + o.skip.length ∧ ((withEng o).handle 0 1023).st = .pending ∧
        ((withEng o).destBank (o.team, 0) o.descAddr).isSome = true) := by
  refine ⟨?_, ?_⟩
  · refine ⟨?_, ?_, ?_, ?_, ?_, ?_, issueCopy_idle (o := oneCopy 0) ?_ ?_, ?_, ?_, ?_, ?_, ?_⟩
    all_goals decide +kernel
  · and_intros <;> decide +kernel

theorem witness_EngineWork_values :
    -- the last item of a copy of 1 × 1 × 1 elements and of its 16th pass; rows of one query's lookup
    ((oneCopy 0).req.xform ≠ 2 ∧ 0 < (oneCopy 0).req.ext_ 0 ∧ 0 < (oneCopy 0).req.ext_ 1 ∧ 0 < (oneCopy 0).req.ext_ 2 ∧
      0 = 0 + (oneCopy 0).req.ext_ 0 * (0 + (oneCopy 0).req.ext_ 1 * (0 + (oneCopy 0).req.ext_ 2 * 0))) ∧
    (let o := engOp .pkl (lookBlock 1 1 2 1 false) false [] []
     let g := Geyser.of o.desc
     let s := withEng o
     g.d % 2 = 0 ∧ (s.spadGet 0 o.team (spadAt g.qry + 0 * g.d * 2) (g.d * 2)).any (fun q => q.1.length == 2 * g.d && q.2.isNone) = true ∧
      ((gotten (s.readVa (o.agent 0) g.key1 (g.n1 * g.d))).bind fun a => (gotten (a.1.readVa (o.agent 0) g.key2 (g.n2 * g.d))).bind fun b =>
        (gotten (b.1.readAll (o.agent 0) [(g.val, g.dv * g.vz)])).map fun c =>
          (a.2.length == g.n1 * g.d, b.2.length == g.n2 * g.d, c.2.length)) = some (true, true, 1)) ∧
    (let o := engOp .pklb (lookBlock 1 1 0 1 true) false [] []
     let g := Geyser.of o.desc
     let s := withEng o
     let get (off n : Nat) : Option (List Byte × Option Nat) := s.spadGet 0 o.team (spadAt off + 0 * n) n
     (get g.qry (g.dv * 4)).any (fun q => q.2.isNone) = true ∧ (get g.idx (g.k * 4)).any (fun q => q.2.isNone) = true ∧
      (get g.wgt (g.k * 4)).any (fun q => q.2.isNone) = true ∧
      (gotten (s.canWrite (o.agent 0) [(g.val + 0 * g.dv * 2, g.dv * 2)])).isSome = true ∧
      (match s.scatterRows 0 o 0 [.zero false] (g.pieces [(0, .zero false)]) with | (_, bad, .ok ()) => bad == [] | _ => false) = true ∧
      -- a piece, and one whose granule is poisoned
      ∀ bad ∈ [false, true], let t : State := if bad then { s with poison := [((paAddr 0x38000) / 32, 1)] } else s
        (gotten (t.reachPa (o.agent 0) 0x38000 true)).any (fun a =>
          a.1.keyLoaded (paKey a.2) && ((a.1.dropLines (paAddr a.2 / 256 * 256) 256).granulePoison a.2 0x38000).isSome == bad &&
            Memory.wf (a.1.dropLines (paAddr a.2 / 256 * 256) 256).mem) = true) ∧
    -- a source granule in scratchpad, sound and poisoned, and one in global memory
    (let o := engOp .nmc (nearBlock 1 (ownSpad0 0)) false [] []
     let n := NmBlock.of o.desc
     n.src / 2 ^ 48 = 0xFFFE ∧ ((withEng o).spadGet 0 o.team n.src n.perGranule).any (fun q => q.2.isNone) = true ∧
      (((withEng o).modBank 0 0 fun z => { z with poison := [(0, 1)] }).spadGet 0 o.team n.src n.perGranule).any (fun q => q.2.isSome) = true ∧
      0x20000 / 2 ^ 48 ≠ 0xFFFE ∧ (gotten ((withEng o).readVa (o.agent 0) 0x20000 n.perGranule)).isSome = true) := by
  and_intros <;> decide +kernel

theorem witness_EngineWork_memories :
    let s := withEng (engOp .nmc (nearBlock 4 0) true [] [])
    MemoryWf s ∧ WritesBack s ∧ (oneCopy 0).going = none := by
  refine ⟨?_, writes_back (by decide +kernel), rfl⟩
  apply memory_form
  all_goals decide +kernel

/-- Two ranks' parts of a reduction of one element. -/
def sumBlock (op : Nat) : List Byte := [BitVec.ofNat 8 op, 0, if op = 1 then 1 else 5, 15, 0, 0, 0, 0] ++ leBytes 8 0x10000 ++ leBytes 8 0x11000 ++
  leBytes 8 1 ++ leBytes 8 0x12000 ++ List.replicate 24 0
def peerPart (op count : Nat) : PeerPart :=
  { rank := 1, op, rop := 0, fmt := if op = 1 then 1 else 5, count, lowexp := 0, root := 0, data := [1, 0, 0, 0] }
def collective (o : EngOp) : State := (withEng o).modPart 0 fun p => { p with groups := updateAt (fun _ => 2 ^ 63 + 2 * 2 ^ 16) p.groups 15 }
/-- The same with that page in a peer's memory, and a tag for the peer. -/
def remote (o : EngOp) : State :=
  { (collective o).modPart 0 fun p => { p with tags := updateAt (fun _ => 9) (updateAt (fun _ => 7) p.tags 0) 1 } with
    mem := memWrite paged.mem 0xA000 (entryTo (3 * 2 ^ 46 + 2 ^ 42) 0x60D) }
/-- A collective with SEND read whose RECV is then written, or whose first packet is sent; neither. -/
def collWorks (s : State) (o : EngOp) (n : Nat) (r : List Byte) : Option Bool :=
  let c := CollDesc.of o.desc
  match s.collRead 0 o c.send n with
  | (s1, own, .done) =>
    let pages := pageSplit c.recv r.length
    (gotten (s1.canWrite (o.agent 0) ((pages ++ [(c.recAt, 16)]).filter fun p => (s1.peerPa (o.agent 0) p.1).isNone))).bind fun t =>
      match whileDone (fun s (w : Nat × Nat × List Byte) => s.collPut 0 o own w.1 w.2)
        (((List.range pages.length).zip (pages.map fun p => (p.1, (r.drop (p.1 - c.recv)).take p.2))).drop o.pos) t.1 with
      | (_, .done) => some true
      | (_, .sent _) => some false
      | _ => none
  | _ => none
theorem witness_Collectives :
    -- of each kind, not yet formed, with a peer whose part agrees and with one whose part does not
    (∀ op ∈ [1, 2, 3, 4],
      let o := engOp .coll (sumBlock op) false [] []
      let c := CollDesc.of o.desc
      (collective o).eng 0 9 = some o ∧ o.kind = .coll ∧ ((collective o).part 0).collGroup c.group = some (0, 2) ∧ c.op = op ∧
      (∀ p ∈ [peerPart op 1, peerPart op 2], p.rank = 1 ∧ p.op = c.op ∧ p.rop = c.rop ∧ p.fmt = c.fmt ∧ p.lowexp = c.lowexp ∧ p.root = c.root) ∧
      (peerPart op 1).count = c.count ∧ (peerPart op 2).count ≠ c.count) ∧
    -- a chunk still to come, failed 0 and 3 times before; every chunk there
    (∀ op ∈ [1, 2, 3, 4], ∀ fails ∈ [0, 3],
      let o := { engOp .coll (sumBlock op) true [] [] with chunks := [(0, fails)], parts := [peerPart op 1] }
      (collective o).eng 0 9 = some o ∧ 0 < (CollDesc.of o.desc).chunks 2 ∧ lookupNat o.chunks 0 0 = fails ∧
      ((collective o).collRecord 0 o 1 0xFFFFFFFF 0 |>.handle 0 o.handle).st = .pending) ∧
    (∀ op ∈ [1, 2, 3, 4],
      let o := { engOp .coll (sumBlock op) true [0] [] with parts := [peerPart op 1] }
      let c := CollDesc.of o.desc
      let s := collective o
      s.eng 0 9 = some o ∧ c.chunks 2 ≤ o.done.length ∧ o.started = true ∧ o.waitRid = none ∧ o.stop = none ∧ o.peer = none ∧
      collWorks s o (c.sendLen 2 * collBytes c.fmt) (c.result 0 [[1, 0, 0, 0], [1, 0, 0, 0]]).1 = some true) ∧
    -- with SEND got from a peer's memory and RECV there
    (let o := { engOp .coll (sumBlock 1) true [0] [] with parts := [peerPart 1 1], got := [1, 0, 0, 0] }
     collWorks (remote o) o 4 [2, 0, 0, 0] = some false ∧
      ((remote o).peerPa (o.agent 0) 0x10000).isSome = true ∧ ((collective o).peerPa (o.agent 0) 0x10000) = none ∧
      -- a partition without the peer's tag
      (match (remote o).reachPa (o.agent 0) 0x10000 true with
        | (s1, .ok pa) => paWin pa && bit pa 46 && (s1.sendPeer 0 pa 4 (some [2, 0, 0, 0])).isSome &&
            ((s1.modPart 0 fun p => { p with tags := List.replicate 16 0 }).sendPeer 0 pa 4 (some [2, 0, 0, 0])).isNone
        | _ => false) = true) ∧
    -- an integer sum of two ranks
    (let c := CollDesc.of (sumBlock 1)
     c.op = 1 ∧ c.rop = 0 ∧ c.fmt = 1 ∧ ∀ d ∈ [[255, 255, 255, 255], [1, 0, 0, 0]], (d : List Byte).length = c.count * 4) := by
  and_intros <;> decide +kernel

/-! Premises of the statements on translation. -/

/-- The page table with other flags in its leaf; a miss of a mapped and of an unmapped address; a walk. -/
def pagedBy (flags : Nat) : State := { paged with mem := memWrite paged.mem 0xA000 (entryTo 0 flags) }
def missOf (va : Nat) (write : Bool) : Miss := ⟨0, va, write, false, false⟩
def walkOf (va : Nat) (write : Bool) (st : WalkState) (trail : List (Nat × Nat)) : Walk := ⟨9, 0, [0], missOf va write, st, trail, 0⟩
def tables (n : Nat) : List (Nat × Nat) := [(0x8000, 0x9003), (0x9000, 0xA003)].take n
def walking (flags : Nat) (w : Walk) : State := { pagedBy flags with walks := [w] }
/-- A fault of partition 0 that its record's reader has yet to resolve, and a lane parked on it. -/
def faultOf : FaultRec := ⟨5, 0, some .fault, 0x200000, 0, 0x10, false, false, false, 0, false, true⟩
def faulting : State :=
  within { base with faults := [faultOf] } (crew { thread [] with st := .parked (.fault 5), miss := some (missOf 0x200000 false) })

theorem witness_WalksAndFaults :
    -- a miss served from the L2 TLB, merged, given a walker, held by the quota
    (let m := missOf 0x1FFFFF false
     let s := pagedBy 0x60D |>.modCore 159 fun c => { c with misses := [m] }
     let e : TlbEntry := { part := 0, va := 0, logSize := 21, pa := 0, gpa := 0, userOk := true, writeOk := true, fetchOk := true }
     let hit (u : State) : Bool := ((u.die 3).l2tlb.find? fun e => e.serves m).isSome
     (s.core 159).misses[0]? = some m ∧ hit s = false ∧ hit (s.modDie 3 fun d => { d with l2tlb := [e] }) = true ∧ s.walks = [] ∧
     ((missOf 0x1FF000 true).page m = true) ∧ (s.part 0).cores.getLsbD 159 = true ∧ 256 * ((List.range 160).filter fun z => z / 40 == 3 && (s.part 0).cores.getLsbD z).length / 40 = 256 ∧
     256 * ((List.range 160).filter fun z => z / 40 == 3 && (({ s.modPart 0 (fun p => { p with cores := 1 }) with walks := [] } : State).part 0).cores.getLsbD z).length / 40 = 0) ∧
    -- a walk that reads its first entry and then another; that reads its leaf, touched before and not; that faults
    (let s := walking 0x60D (walkOf 0 false .read [])
     s.walks.find? (fun w => w.id == 9 && w.die == 0) = some (walkOf 0 false .read []) ∧
     walkAll (walkOf 0 false .read []).entries (s.part 0) (missOf 0 false) = .inl (.need 0x8000 false) ∧
     walkAll (walkOf 0 false .read [(0x8000, s.pte 0x8000)]).entries (s.part 0) (missOf 0 false) = .inl (.need 0x9000 false)) ∧
    (∀ q ∈ [(0x60D, true), (0x00D, false)],
      let s := walking q.1 (walkOf 0 true .read (tables 2))
      walkAll (walkOf 0 true .read (tables 2)).entries (s.part 0) (missOf 0 true) = .inl (.need 0xA000 false) ∧
      (match walkAll (walkOf 0 true .read (tables 2 ++ [(0xA000, s.pte 0xA000)])).entries (s.part 0) (missOf 0 true) with
        | .inr x => x.writes.isEmpty == q.2
        | .inl _ => false) = true) ∧
    (let s := (walking 0x60D (walkOf (2 ^ 56) false .read [])).modPart 0 fun p => { p with faultRing := { base := 0x700000, logN := 6 } }
     let w := walkOf (2 ^ 56) false .read []
     walkAll w.entries (s.part 0) w.miss = .inl (.need 0x8800 false) ∧
     walkAll ({ w with trail := [(0x8800, s.pte 0x8800)] } : Walk).entries (s.part 0) w.miss = .inl (.fault 0x10 0 false) ∧
     (((s.cachePte w 0x8800 false (s.pte 0x8800)).setWalk 9 none).fault w.miss 0 0x10 0 false).2.isSome = true) ∧
    -- a walk that updates a leaf as it read it, and one whose leaf has changed
    (∀ old ∈ [0x00D, 0x40D], ∀ logs ∈ [[], [(0x10000, 0xA000)]],
      let w := walkOf 0 true (.update [(0xA000, old, 0x60D)] logs) (tables 2 ++ [(0xA000, old)])
      let s := walking 0x00D w
      s.walks.find? (fun w => w.id == 9 && w.die == 0) = some w ∧ (s.pte 0xA000 = old ↔ old = 0x00D) ∧
      (match walkAll w.entries (s.part 0) w.miss with | .inr _ => true | .inl _ => false) = true) ∧
    -- a fault to resolve, whose parked lane can trap
    (faulting.findFault 0 .fault 5 = some faultOf ∧ faultOf.part < 9 ∧ (faulting.thread 0 0 0).st = .parked (.fault 5) ∧
      (faulting.thread 0 0 0).handles = true ∧ (faulting.hdrOf 0 0).pair = false) ∧
    -- a HEAD at its limit, with no record that waits for room; the dirty ring's
    ((0xFFFF : Word).toNat < 2 ^ 16 ∧ Ring.fault ≠ .dirty ∧ Ring.hypervisor ≠ .dirty ∧ ∀ f ∈ faulting.faults, f.written = true) := by
  and_intros <;> decide +kernel

/-- Partition 1 with one core, and a second stage that maps one page at GPA 0x10000 with some flags: unified, with host memory behind
it or none. -/
def guest (flags : Nat) (backed : Bool) : State :=
  let s := base.modPart 0 fun p => { p with cores := ~~~(1 <<< 159) }
  { s.modPart 1 (fun p =>
      { p with st := 1, cores := 1 <<< 159, hroot := 0x8000, groot := 0x20000, keys := updateAt (fun _ => 0x81) p.keys 0, backing := if backed then [(0x10000, 0x5000)] else [] })
    with
    keys := (1, base.keyLog.length) :: base.keys, keyLog := base.keyLog ++ [(1, 7)],
    mem := memWrite (memWrite (memWrite (memWrite (memWrite base.mem 0x8000 (entryTo 0x9000 3)) 0x9000 (entryTo 0xA000 3)) 0xA000 (entryTo 0xB000 3))
      0xB000 (entryTo 0xC000 3)) 0xC080 (entryTo 0x10010040000 flags) }
def unifiedFault : FaultRec := ⟨5, 1, none, 0x10000, 0x10000, 0x20, false, false, false, 0, false, true⟩
/-- A first-stage request of partition 1's registers, sent, with some targets left. -/
def regReq (sent : Bool) (left : List InvTarget) : InvReq := ⟨9, false, none, none, true, sent, left, 0, 0⟩
def invalid (q : InvReq) : State := (guest 0x10D true).modPart 1 fun p => { p with invs := [q], inv1 := { p.inv1 with busy := true } }
theorem witness_Invalidations :
    (((guest 0 true).part 1).inv1.busy = false ∧ ((invalid (regReq false [])).part 1).inv1.busy = true) ∧
    -- a request not yet sent; ones with three and two targets left; with one; with cores alone
    (∀ q ∈ [regReq false [], regReq true [.die 3, .core 159, .nearMemory], regReq true [.core 159, .nearMemory], regReq true [.nearMemory], regReq true [.core 159]],
      ((invalid q).part 1).invs = [q] ∧ q.register = true ∧ q.asker = none ∧ (invalid q).nearBusy 1 q = false) ∧
    ((regReq true [.core 159]).left ≠ [] ∧ (∀ t ∈ (regReq true [.core 159]).left, t = .core 159)) ∧
    -- a unified page without a valid leaf, with a fault that waits for it
    (let s := { guest 0x10C true with faults := [unifiedFault] }
     0x10000 % 4096 = 0 ∧ s.faults.filter (fun f => f.part == 1 && f.ring == none && f.gpa / 4096 * 4096 == 0x10000) ≠ [] ∧
     s.pageEntry 1 0x10000 = some (0xC080, 0x1001004010C) ∧ (s.part 1).backed 0x10000 = some 0x5000 ∧ pteV 0x1001004010C = false ∧ (s.part 1).moving = []) := by
  and_intros <;> decide +kernel

/-! Premises of the statements on the mailbox, partitions, power, the host's pages and security. -/

/-- A machine with a mailbox command at hand: operation, partition, and the bytes from 4 on. -/
def mailing (w : State) (op p : Nat) (d : List Byte) : State := { w with mailbox := { w.mailbox with busy := true, cmd := leBytes 1 op ++ leBytes 1 p ++ leBytes 2 0 ++ d ++ List.replicate 200 0 } }
/-- A field of the command. -/
abbrev Asked (s : State) (op p : Nat) (zero : List (Nat × Nat)) : Prop :=
  s.mailbox.busy = true ∧ s.mailbox.arg 0 1 = op ∧ s.mailbox.arg 2 2 = 0 ∧ s.mailbox.arg 1 1 = p ∧ ∀ z ∈ zero, s.mailbox.arg z.1 z.2 = 0
def tdi (st : Nat) : State := (guest 0x10C true).modPart 1 fun p => { p with tdisp := st }
/-- What PT_WRITE makes of the entry, and whether the bytes are allowed. -/
def written (s : State) (off : Nat) (data : List Byte) : Partition :=
  (s.part 1).ofBytes ((s.entryBytes 1).take off ++ data ++ (s.entryBytes 1).drop (off + data.length))
abbrev allowed (s : State) (off : Nat) (data : List Byte) : Prop := ∀ i < data.length, field data i 1 &&& entryRsvd (off + i) = 0 ∧
  (entryRo (off + i) = true → field data i 1 = field (s.entryBytes 1) (off + i) 1)
/-- The machine with eight slots of every class for partition 1. -/
def slotsFor (st : Nat) : State := { tdi st with calendar := Vector.replicate 7 (List.replicate 8 1 ++ List.replicate 248 0) }

theorem witness_MailboxCommands_table :
    -- every operation, for a partition that is not there
    (∀ k ∈ [1, 2, 3, 4, 5, 6, 7, 9, 10], (mailing base k 9 []).mailbox.busy = true ∧ (mailing base k 9 []).mailbox.arg 0 1 = k ∧
      8 < (mailing base k 9 []).mailbox.arg 1 1) ∧
    -- PT_WRITE of an urgent core that the partition has, refused for one it has not, locked; and of its last writable bytes
    (∀ q ∈ [(111, 0x80, 0, false), (111, 0x40, 0, true), (111, 0x80, 2, true), (367, 1, 0, false)],
      let s := mailing (slotsFor q.2.2.1) 1 1 (leBytes 2 q.1 ++ leBytes 2 1 ++ leBytes 1 q.2.1)
      let data := (s.mailbox.cmd.drop 8).take 1
      Asked s 1 1 [] ∧ s.mailbox.arg 4 2 = q.1 ∧ s.mailbox.arg 6 2 = 1 ∧ data = leBytes 1 q.2.1 ∧ allowed s q.1 data ∧
      (s.locked 1 && touchesLocked (s.part 1) (written s q.1 data)) = (q.2.2.1 == 2) ∧
      (q.2.2.1 = 0 → s.refusesEntry 1 (written s q.1 data) = q.2.2.2)) ∧
    -- PT_READ of the last 256 bytes
    (Asked (mailing base 2 8 (leBytes 2 256 ++ leBytes 2 256)) 2 8 [] ∧ 256 + 256 ≤ 512) ∧
    -- LIMIT at its ends and beyond
    (∀ w ∈ [1200, 3000, 1150, 3050, 1201], Asked (mailing base 9 0 (leBytes 2 w)) 9 0 [(6, 2)] ∧ (mailing base 9 0 (leBytes 2 w)).mailbox.arg 4 2 = w) ∧
    (1200 ≤ 1200 ∧ 3000 ≤ 3000 ∧ 1200 % 50 = 0 ∧ 3000 % 50 = 0 ∧ 1150 < 1200 ∧ 3000 < 3050 ∧ 1201 % 50 ≠ 0) := by
  and_intros <;> decide +kernel

theorem witness_MailboxCommands_calendar :
    let held (s : State) (new : List Nat) (q : Nat) : Bool := s.locked q && ((s.table 6).zip new).any fun e => (e.1 == q) != (e.2 == q)
    let short (s : State) (new : List Nat) (q : Nat) : Bool := (q == 0 || (s.part q).st != 0) && decide ((new.filter (· == q)).length < 8)
    -- the last class's second half with eight slots for partition 1; with seven; with partition 1 locked
    (∀ q ∈ [(0, [0x11, 0x11, 0x11, 0x11], false, false), (0, [0x11, 0x11, 0x11, 0x01], false, true), (2, [0x11, 0x11, 0x11, 0x11], true, false)],
      let s := mailing (tdi q.1) 10 0 (leBytes 1 6 ++ leBytes 1 1 ++ leBytes 2 0 ++ q.2.1.map (BitVec.ofNat 8))
      let es := calendarEntries ((s.mailbox.cmd.drop 8).take 64)
      let new := (s.table 6).take 128 ++ es
      Asked s 10 0 [(6, 2)] ∧ s.mailbox.arg 4 1 = 6 ∧ s.mailbox.arg 5 1 = 1 ∧ (∀ e ∈ es, e < 9 ∨ e = 15) ∧
      (List.range 9).any (held s new) = q.2.2.1 ∧ (List.range 9).any (short s new) = q.2.2.2) ∧
    (({ base with calendarNext := Vector.replicate 7 (some (List.replicate 256 0)) } : State).calendarNext[6]'(by decide) = some (List.replicate 256 0)) := by
  and_intros <;> decide +kernel

theorem witness_MailboxCommands_unified :
    let cmd (w : State) (p sub arg gpa n bus : Nat) : State :=
      mailing w 11 p (leBytes 1 sub ++ leBytes 1 arg ++ leBytes 2 0 ++ leBytes 8 gpa ++ leBytes 8 n ++ leBytes 8 bus)
    let page (s : State) : Option (Nat × Nat) := s.pageEntry 1 0x10000
    -- MAP of a page of the last bus page; of partition 0, which has none
    (let s := cmd (guest 0x10C false) 1 0 0 0x10000 4096 (2 ^ 46 - 4096)
     Asked s 11 1 [(6, 2), (5, 1)] ∧ s.mailbox.arg 4 1 = 0 ∧ unifiedPages s.mailbox = some [0x10000] ∧ s.mailbox.arg 24 8 % 4096 = 0 ∧
      s.mailbox.arg 24 8 + s.mailbox.arg 16 8 ≤ 2 ^ 46 ∧ page s = some (0xC080, 0x1001004010C) ∧ pteV 0x1001004010C = false ∧ (s.part 1).backed 0x10000 = none) ∧
    (let s := cmd base 0 0 0 0x10000 4096 0
     Asked s 11 0 [(6, 2), (5, 1)] ∧ unifiedPages s.mailbox = some [0x10000] ∧ s.pageEntry 0 0x10000 = none) ∧
    -- MIGRATE of a bad direction, of a page that is not backed, to where the page is, and back to the host
    (Asked (cmd base 0 1 2 0x10000 4096 0) 11 0 [(6, 2), (24, 8)] ∧ 1 < (cmd base 0 1 2 0x10000 4096 0).mailbox.arg 5 1) ∧
    (let s := cmd (guest 0x10C false) 1 1 0 0x10000 4096 0
     Asked s 11 1 [(6, 2), (24, 8)] ∧ s.mailbox.arg 5 1 = 0 ∧ unifiedPages s.mailbox = some [0x10000] ∧ (s.part 1).backed 0x10000 = none) ∧
    (∀ q ∈ [(0x10C, 0), (0x10D, 1), (0x10D, 0)], let s := cmd (guest q.1 true) 1 1 q.2 0x10000 4096 0
      Asked s 11 1 [(6, 2), (24, 8)] ∧ s.mailbox.arg 5 1 = q.2 ∧ unifiedPages s.mailbox = some [0x10000] ∧
      page s = some (0xC080, 0x10010040000 + q.1) ∧ (s.part 1).backed 0x10000 = some 0x5000 ∧ pteV (0x10010040000 + q.1) = (q.1 == 0x10D) ∧ (s.part 1).moving = []) ∧
    (let s := (cmd (guest 0x10C true) 1 1 0 0x10000 4096 0).modPart 1 fun p => { p with moving := [(0x10000, 5)] }
     Asked s 11 1 [(6, 2), (24, 8)] ∧ s.mailbox.arg 5 1 = 0 ∧ unifiedPages s.mailbox = some [0x10000] ∧ page s = some (0xC080, 0x1001004010C) ∧
      (s.part 1).backed 0x10000 = some 0x5000 ∧ (s.part 1).invalidating 0x10000 = false) ∧
    -- QUERY
    (let s := cmd (guest 0x10D true) 1 2 0 0x10000 4096 0
     Asked s 11 1 [(6, 2), (5, 1), (24, 8)] ∧ s.mailbox.arg 4 1 = 2 ∧ unifiedPages s.mailbox = some [0x10000]) := by
  and_intros <;> decide +kernel

/-- Partition 0, on core 0 alone, in a phase of its suspension, with a mailbox command. -/
def inPhase (ph : Phase) (op : Nat) : State :=
  mailing ((machine (thread [])).modPart 0 fun p => { p with phase := ph, cores := 1, st := if ph = .active then 1 else 2 }) op 0 []
theorem witness_Suspension :
    (∀ op ∈ [3, 4, 5, 6], ∀ ph ∈ [Phase.active, .halting, .saving, .saved, .evacuating, .evacuated, .restoring],
      let s := inPhase ph op
      Asked s op 0 [(4, 4), (8, 8), (16, 8)] ∧ (s.part 0).phase = ph ∧ s.locked 0 = false ∧ (s.part 0).st = (if ph = .active then 1 else 2) ∧
      s.mailbox.arg 8 8 = (s.part 0).imageAt) ∧
    ((List.range 160).filter (fun b => ((inPhase .halting 6).part 0).cores.getLsbD b) = [0] ∧ (inPhase .halting 6).coreHalted 0 = true ∧
      ((inPhase .halting 6).modCore 0 fun c => { c with pend := [pending (some 1) (.load (.glob 0) 4 false .raw true false false)] }).coreHalted 0 = false ∧
      ((inPhase .saving 6).core 0).caldera.length < 2 ∧ (((inPhase .saving 6).modCore 0 fun c => { c with caldera := [1] }).core 0).caldera.length < 2 ∧
      (inPhase .evacuating 6).coreDrained 0 = true ∧ ((inPhase .saved 6).core 0).badCaldera = []) ∧
    -- an image of one core, brought back onto core 159
    (let s := base.modPart 0 fun p => { p with phase := .restoring, image := [⟨0, (machine (thread [])).core 0⟩] }
     (s.part 0).phase = .restoring ∧ s.restorable 0 [159] = true) := by
  and_intros <;> decide +kernel

theorem witness_Resets :
    (∀ p ∈ [0, 1, 8], Asked (mailing base 7 p []) 7 p [] ∧ ((mailing base 7 p []).part p).st ≠ 3) ∧
    (let s := (mailing base 7 1 []).modPart 1 fun p => { p with st := 3 }
     (s.part 1).st = 3 ∧ s.flr = [] ∧ Asked s 7 1 []) ∧
    -- the boot's steps, to READY and to FAILED
    (∀ q ∈ [(0, BootResult.ready), (0, .failed 1), (0, .failed 5), (1, .ready), (1, .failed 5), (2, .ready), (3, .ready), (15, .ready)],
      ({ State.reset with agenda := [Act.boot], boot := q.1, booting := q.2 } : State).agenda = [Act.boot]) ∧
    -- CORE_RESET of a core that is not there, of another partition's, of one with a team, of one without
    (∀ q ∈ [(0, 160, true, true), (1, 0, false, false), (0, 0, true, false), (0, 159, true, true)],
      let s := mailing (machine (thread [])) 8 q.1 (leBytes 4 q.2.1)
      Asked s 8 q.1 [(6, 2)] ∧ s.mailbox.arg 4 2 = q.2.1 ∧ s.mailbox.arg 1 1 ≤ 8 ∧
      (q.2.1 < 160 → (s.part q.1).cores.getLsbD q.2.1 = q.2.2.1 ∧ (s.core q.2.1).teams.isEmpty = q.2.2.2)) := by
  and_intros <;> decide +kernel

theorem witness_PowerStates :
    base.quietPackage = false ∧ State.reset.booted.quietPackage = true ∧
    (let s := { State.reset.booted with asleep := true, agenda := [Act.issue 0 0, .event (.powerGating 0)] }
     s.asleep = true ∧ s.agenda = [Act.issue 0 0, .event (.powerGating 0)] ∧ wakes (.powerGating 0) = false) := by
  and_intros <;> decide +kernel

theorem witness_HostPages :
    (∀ p ∈ [0, 8], ∀ n ∈ [0, 63, 64],
      let s := base.modPart p fun x => { x with h2d := List.replicate n 5, d2h := List.replicate n 6, dbgen := n == 0 }
      s.boot = 3 ∧ (s.part p).h2d.length = n ∧ (s.part p).dbgen = (n == 0)) ∧
    (base.partOf 159 = 0 ∧ (base.part 0).cores.getLsbD 159 = true ∧ base.crew 159 63 = none) ∧
    -- a core with its debug crew and a halted lane
    (let s := (withOther .halted).modCore 0 fun c => { c with debug := true }
     (s.core 0).debug = true ∧ (s.thread 0 62 1).st = .halted) := by
  and_intros <;> decide +kernel

/-- Partition 1 with tag 7, peer tag 9, and the unified page, in HBM4, as its export window. -/
def exporting : State := (guest 0x60D false).modPart 1 fun p => { p with tags := updateAt (fun _ => 9) (updateAt (fun _ => 7) p.tags 0) 1, expBase := 0x10000, expSize := 4096 }
theorem witness_KeysAndFabric :
    (∀ p ∈ [0, 1, 8], base.boot = 3 ∧ (base.part p).keyAt 15 = none) ∧
    ((guest 0 true).part 1).keyAt 0 = some 1 ∧ (guest 0 true).keyLoaded 1 = true ∧
    ({ guest 0 true with keys := [(0, 0)] } : State).keyLoaded 1 = false ∧
    base.exhausted = false ∧ ({ base with exhausted := true } : State).exhausted = true ∧
    ((tdi 0).part 1).tdisp = 0 ∧ ((tdi 1).part 1).tdisp = 1 ∧
    -- a request to no tag, to partition 1 from no peer, from its peer
    (exporting.boot = 3 ∧ (∀ p < 9, (exporting.part p).tags.head? ≠ some 8) ∧ exporting.tagged 7 = some 1 ∧ 8 ∉ (exporting.part 1).tags.drop 1 ∧
      9 ∈ (exporting.part 1).tags.drop 1 ∧ (exporting.part 1).expSize = 4096) ∧
    -- the window's last byte
    (∀ write ∈ [true, false], (gotten (exporting.guestPages 1 (0x10000 + 4095) 1 write)).any (fun r => r.2 == [(0x10010040FFF, 1)] &&
      r.1.keyLoaded (paKey 0x10010040FFF) && !poisonedAt r.1.poison 0x10010040FFF) = true) ∧
    -- beyond what is mapped, a fault; a first write with the dirty log full, a wait
    (let f (s : State) (a : Nat) (write : Bool) : Nat := match (s.guestPages 1 a 1 write).2 with
       | .fault _ => 1
       | .wait _ => 2
       | _ => 0
     (∀ write ∈ [true, false], f exporting 0x20000 write = 1) ∧
       f ((guest 0x20D true).modPart 1 fun p => { p with dirtyRing := { logN := 6, tail := 63 } }) 0x10000 true = 2) ∧
    -- a copy that waits for a peer, to read and to write
    (∀ w ∈ [true, false], let o := { oneCopy 0 with peer := some ⟨0, w, [], 0, 1⟩ }
      let s := working fun c => { c with copies := [o] }
      s.copy 0 9 = some o ∧ o.peer = some ⟨0, w, [], 0, 1⟩) := by
  and_intros <;> decide +kernel

/-! Premises of the statements on the whole machine. -/

/-- What the statement on a step asks for, of a placed word: the words fetched. -/
def issues (s : State) : Option (List Word) :=
  let t : State := { s.tick with agenda := [] }
  match t.crew 0 0 with
  | none => none
  | some c0 =>
    let pair := (t.hdrOf 0 0).pair
    let c := c0.resorted t.cycle
    match c.bundle pair with
    | [0] =>
      let t1 := if (t.core 0).vector.isNone then t else t.modCore 0 fun k => { k with vector := none }
      let u := t1.setCrew 0 0 (some (c.aged pair [0] t.cycle))
      if t.selectCrew 0 0 == some 0 && !c0.bad && t1.issuing 0 0 [0] == [0] && !(t.core 0).badHandles &&
          (u.breakpoint 0 0 [0] (c.thread 0).pc).isNone && (u.fetchFails 0 0 [0]).isNone then
        match u.fetch ⟨0, 0, 0⟩ with
        | .inl ws => some ws
        | .inr _ => none
      else none
    | _ => none
/-- IADD w3, w1, w2; an unassigned opcode; FDIV of class 01 (03 R68). -/
def words3 : List Nat := [0b00000000100000010000110000000000, 0xFF * 4, 0x400000E8]
/-- Two lanes at one IADD, or the second at a BRA behind it. -/
def twoLanes (pc : DWord) : State :=
  { (State.reset.booted.placeProgram (leBytes 4 0x00810C00 ++ leBytes 4 0x00000DC0)).modCrew 0 0 fun c =>
      { c with order := (List.range 30).map (· + 2) ++ [0, 1], threads := Vector.ofFn fun l => if l.val = 0 then thread [] else if l.val = 1 then { thread [] with pc } else {} } with
    agenda := [.dual 0 0] }
theorem witness_StepRunsDecoded :
    (∀ w ∈ words3, (State.reset.withFetchWord 32 w).agenda = [Act.issue 0 0] ∧ (State.reset.withFetchWord 32 w).asleep = false ∧
      issues (State.reset.withFetchWord 32 w) = some [BitVec.ofNat 32 w]) ∧
    decodeWords [0b00000000100000010000110000000000#32] = .ok (.iadd { d := 3, a := 1, b := 2 }) 4 ∧
    decodeWords [0x3FC#32] = .illegalOpcode 0xFF ∧ decodeWords [0x400000E8#32] = .illegalEncoding 7 30 ∧
    ({ State.reset with agenda := [.event (.powerGating 0)] } : State).asleep = false := by
  and_intros <;> decide +kernel
theorem witness_StepRunsDecoded_pairs :
    (let t : State := { (twoLanes 0x10000).tick with agenda := [] }
     t.secondBundle 0 0 = []) ∧
    let t : State := { (twoLanes 0x10004).tick with agenda := [] }
    t.secondBundle 0 0 = [1] ∧ t.selectCrew 0 0 = some 0 ∧ (match runIssued (t.issue 0 0 [1]) with | .next _ => true | _ => false) = true := by
  and_intros <;> decide +kernel

theorem witness_DecodeEncode :
    (Instr.iadd { d := 3, a := 1, b := 2 }).wf = true ∧ encode (.iadd { d := 3, a := 1, b := 2 }) ≠ [] ∧
    decodeWords [0x00082AC2#32, 0#32, 0#32, 7#32] = .ok (.cpyk { form := .ext, d := 10, a := 8 }) 12 := by decide +kernel

/-- That machine with a write of the host next. -/
def aboutToWrite : State := { paged with agenda := [.host 0x2000 [1, 0]] }
theorem witness_MemoryForm : MemoryWf aboutToWrite := by
  apply memory_form
  all_goals decide +kernel
theorem witness_MemoryForm_step : (match step aboutToWrite with | .next u => u.hostMem == [(0x2000, 1)] | _ => false) = true := by decide +kernel

/-! Ill-formed terms, one for each check, are refused (03 R53 to R68, 04 R83; the device steps' places). -/

/-- The sub-code and bit of the first offending field (03 R68). -/
def refusal (opc : Nat) (e : Enc) : Option (Nat × Nat) := (Encoding.lowest (Encoding.fieldErrs opc e)).map fun x => (x.sub, x.bit)
theorem test_wellformed_length : (Instr.movl {}).wf = false ∧ (Instr.cpyk {}).wf = false ∧ (Instr.dhalt { form := .lit }).wf = false ∧
    (Instr.punpk { form := .lit, literal := 5 }).wf = true ∧ (Instr.brx { form := .lit }).wf = false := by decide +kernel
theorem test_wellformed_fields :
    -- D of a pair odd; A unused; B replaced by a literal; WA unused; Q of class 01; GN without GP; C unused; RM, FT, CP, MOD, word 2, literal
    refusal 0x1D { form := .lit, d := 3 } = some (0x02, 10) ∧ refusal 0x75 { a := 1 } = some (0x03, 16) ∧
    refusal 0x00 { form := .lit, b := 1 } = some (0x04, 22) ∧ refusal 0x75 { wa := true } = some (0x05, 28) ∧
    refusal 0x0B { wb := true } = some (0x06, 29) ∧ refusal 0x3A { q := 1 } = some (0x07, 30) ∧
    refusal 0x00 { form := .ext, ft := 1, gn := true } = some (0x08, 32) ∧ refusal 0x00 { form := .ext, ft := 1, c := 1 } = some (0x09, 40) ∧
    refusal 0x00 { form := .ext, ft := 1, wc := true } = some (0x0A, 46) ∧ refusal 0x00 { form := .ext, ft := 1, rm := 1 } = some (0x0B, 47) ∧
    refusal 0x00 { form := .ext, ft := 0x12 } = some (0x0C, 50) ∧ refusal 0x00 { form := .ext, ft := 1, cp := 1 } = some (0x0D, 55) ∧
    refusal 0x00 { form := .ext, ft := 1, mod := 2 } = some (0x0E, 58) ∧ refusal 0x00 { form := .ext, ft := 1, w2 := 4 } = some (0x0F, 66) ∧
    refusal 0x00 { form := .lit, literal := 2 ^ 32 } = some (0x10, 64) := by decide +kernel
theorem test_wellformed_places :
    (Instr.powerGating 159).wf = true ∧ (Instr.powerGating 160).wf = false ∧ (Instr.pcTableSort 0 64).wf = false ∧
    (Instr.barwRecheck 0 0 32).wf = false ∧ (Instr.walkUpdate 4 0).wf = false ∧ (Instr.graphRun 9).wf = false ∧ (Instr.vfFlr 8).wf = true ∧
    (Instr.bankModeChange 0 48).wf = false ∧ (Instr.invalidationAck 0 (.geyser 4)).wf = false ∧ (Instr.calendarTakeEffect 7).wf = false ∧
    (Instr.registerWrite 0 262144 4 0).wf = false ∧ (Instr.registerWrite 0 0 2 0).wf = false ∧ (Instr.keySet 0 128 0).wf = false ∧
    (Instr.spdmMeasurement 0 256).wf = false ∧ (Instr.illegalOpcode 0x00).wf = false ∧ (Instr.illegalOpcode 0x27).wf = true ∧
    (Instr.uncorrectableError (.crewFile 160 0)).wf = false ∧ (Instr.restoreComplete 0 [160]).wf = false ∧
    (Instr.powerArbiterInterval [{ core := 160, milliamps := 0, microjoules := 0 }]).wf = false := by decide +kernel

/-! Words of each family, as the manual prints them or field by field from 03 R54 and R56: Q, WB, WA, B, A, D, OPC, LEN. -/

theorem test_decode_registers :
    -- 03's own example; SHL; SEL; POR; ICMP.N32.lt p1, w2, #2 of 16 as six words of its fields
    decodeTableWord 32 0x00810C00 = some (.iadd { d := 3, a := 1, b := 2 }) ∧
    decodeTableWord 32 0b00_1_0_000100_000010_000001_00010010_00 = some (.shl { d := 1, a := 2, b := 4, wb := true }) ∧
    decodeTableWord 32 0b00_0_0_000100_000010_000001_00011011_00 = some (.sel { d := 1, a := 2, b := 4 }) ∧
    decodeTableWord 32 0b00_0_0_000100_000010_000001_00100001_00 = some (.por { d := 1, a := 2, b := 4 }) ∧
    decodeWords [0b00_0_0_000000_000010_000000_00011111_11#32, 0b0000010_00_00010_000_0_000000_0_0000000#32, 0x1#32, 2#32, 0#32] =
      .ok (.icmp { form := .extLit, a := 2, mod := 2, ft := 2, w2 := 1, literal := 2 }) 20 := by decide +kernel
theorem test_decode_numbers :
    decodeTableWord 32 0b00_0_0_000100_000010_000001_00110000_00 = some (.fadd { d := 1, a := 2, b := 4 }) ∧
    decodeTableWord 32 0b10_0_0_000100_000010_000001_00110010_00 = some (.fmul { q := 2, d := 1, a := 2, b := 4 }) ∧
    decodeTableWord 32 0b00_0_0_000000_000010_000001_01010000_00 = some (.cvt { d := 1, a := 2 }) ∧
    decodeTableWord 32 0b01_0_0_000100_000010_000001_01010111_00 = some (.dot4 { q := 1, d := 1, a := 2, b := 4 }) ∧
    decodeTableWord 32 0b00_0_0_000100_000010_000001_01011001_00 = some (.rng { d := 1, a := 2, b := 4 }) := by decide +kernel
theorem test_decode_lanes_and_control :
    -- SHFL; BRA by 3 words, and back 2 words (OFF18 is <27:10>); JOIN #0xF, EXIT and ?p1 BRA of 16; TESTH p3, w12 and WAITH w8, w12
    decodeTableWord 32 0b00_0_0_000100_000010_000001_01100001_00 = some (.shfl { d := 1, a := 2, b := 4 }) ∧
    decodeTableWord 32 0x00000DC0 = some (.bra { d := 3 }) ∧ decodeTableWord 32 0x0FFFF9C0 = some (.bra { d := 62, a := 63, b := 63 }) ∧
    decodeWords [0x000001D1#32, 0xF#32, 0#32] = .ok (.join { form := .lit, literal := 0xF }) 12 ∧
    decodeTableWord 32 0x000001D4 = some (.exit {}) ∧ decodeTableWord 32 0x40000DC0 = some (.bra { q := 1, d := 3 }) ∧
    decodeTableWord 32 0x000C0DF0 = some (.testh { d := 3, a := 12 }) ∧ decodeTableWord 32 0x000C21EC = some (.waith { d := 8, a := 12 }) := by
  decide +kernel
theorem test_decode_memory_and_engines :
    -- FENCE.ar; ST; a matrix product; CPYK w10, d4
    decodeTableWord 32 0x00000E10 = some (.fenceAr { d := 3 }) ∧
    decodeTableWord 32 0b00_0_0_000100_000110_000000_10000001_00 = some (.st { a := 6, b := 4 }) ∧
    decodeTableWord 96 (0b00_0_0_000000_000010_000001_10100000_10 + 0b0000000_00_01001_000_0_000000_0_0000000 * 2 ^ 32 + (0x210 + 31 * 2 ^ 17) * 2 ^ 64) =
      some (.mma { form := .ext, d := 1, a := 2, ft := 9, w2 := 0x3E0210 }) ∧
    decodeTableWord 96 0x00082AC2 = some (.cpyk { form := .ext, d := 10, a := 8 }) := by decide +kernel
theorem test_decode_barriers_and_system :
    -- BARA; DEPC w3, #5; CLK d8; SREAD w2, LANE of 16; RETT and RETT.kill; TLBI.va d6 and TLBI.gall w3; an unassigned opcode
    decodeTableWord 32 0b00_0_0_000000_000100_000101_11000001_00 = some (.bara { d := 5, a := 4 }) ∧
    decodeTableWord 96 (0x00000F15 + 5 * 2 ^ 32) = some (.depc { form := .lit, d := 3, literal := 5 }) ∧
    decodeTableWord 32 0x00004318 = some (.clk { d := 16 }) ∧ decodeTableWord 32 0x00000B80 = some (.sread { d := 2 }) ∧
    decodeTableWord 32 0x00000388 = some (.rett {}) ∧ decodeTableWord 32 0x00000788 = some (.rettKill { d := 1 }) ∧
    decodeTableWord 32 0x000C038C = some (.tlbiVa { a := 12 }) ∧ decodeTableWord 32 0x00C00F8C = some (.tlbiGall { d := 3, b := 3 }) ∧
    decodeWords [0x00000250#32] = .illegalOpcode 0x94 := by decide +kernel

/-! Single steps, their results from the manual. -/

/-- The thread of lane 0 after an instruction, and its word in a register. -/
def after (i : Instr) (t : Thread) : Option Thread :=
  match exec i (machine t) with
  | .next s => (s.crew 0 0).map fun c => c.thread 0
  | _ => none
def reads (i : Instr) (t : Thread) (r : Nat) (wide : Bool) : Option Nat := (after i t).map fun u => (u.value r wide).toNat
/-- The cause of the trap an instruction takes, its address, and the vector: TVEC + 64 * cause (19 R376). -/
def traps (i : Instr) (t : Thread) : Option (Nat × Nat × Nat) :=
  (after i t).bind fun u => if u.priv then some (u.tcause.toNat % 256, u.tpc.toNat, u.pc.toNat) else none

/-- A sum wraps; so does the most negative number's negation (07 R132). -/
theorem test_iadd_wraps : reads (.iadd { d := 3, a := 1, b := 2 }) (thread [(1, 0xFFFFFFFF, .i32), (2, 2, .i32)]) 3 false = some 1 := by decide +kernel
/-- Division truncates toward zero (07 R134). -/
theorem test_idiv_truncates :
    reads (.idiv { d := 3, a := 1, b := 2 }) (thread [(1, 0xFFFFFFF9, .i32), (2, 2, .i32)]) 3 false = some 0xFFFFFFFD := by decide +kernel
/-- A value of another tag traps FORMAT with the instruction's address (05 R90, 19 R379). -/
theorem test_format_traps :
    traps (.iadd { d := 3, a := 1, b := 2 }) (thread [(1, 1, .f32), (2, 2, .i32)]) = some (0x04, 0x10000, 0x20100) := by decide +kernel
/-- An S-mode instruction in U mode traps PRIV (04 R83, R86). -/
theorem test_rett_traps : traps (.rett {}) (thread []) = some (0x03, 0x10000, 0x200C0) := by decide +kernel
/-- A branch of 3 words (16 R327, R329). -/
theorem test_bra_moves : (after (.bra { d := 3 }) (thread [])).map (·.pc) = some 0x1000C := by decide +kernel
/-- 1 + 2^-24 is a tie and rounds to 1 (08, the example of a tree and a scan). -/
theorem test_fadd_ties_to_even :
    reads (.fadd { d := 3, a := 1, b := 2 }) (thread [(1, 0x3F800000, .f32), (2, 0x33800000, .f32)]) 3 false = some 0x3F800000 := by decide +kernel
/-- Two roundings against one (06): 1.1875 - 2^-12 in E4M3 directly, and by BF16. -/
theorem test_double_rounding :
    (FloatFmt.e4m3.round .rne 0 false (FloatFmt.f32.decode 0x3F97F800)).1 = 0x39 ∧
    (FloatFmt.bf16.round .rne 0 false (FloatFmt.f32.decode 0x3F97F800)).1 = 0x3F98 ∧
    (FloatFmt.e4m3.round .rne 0 false (FloatFmt.bf16.decode 0x3F98)).1 = 0x3A := by decide +kernel
/-- A small addend to a BF16 sum (06): RNE drops it, SR rounds up or not by its 16 random bits. -/
theorem test_stochastic_rounding :
    let v := (Val.add .rne (FloatFmt.bf16.decode 0x3F80) (.fin false 1 (-10))).1
    (FloatFmt.bf16.round .rne 0 false v).1 = 0x3F80 ∧ (FloatFmt.bf16.round .sr 0xE3A1 false v).1 = 0x3F81 ∧
    (FloatFmt.bf16.round .sr 0x5B07 false v).1 = 0x3F80 := by decide +kernel
/-- Two adds to one block, in either order (06 R122, R123). -/
theorem test_block_adds :
    let b : TasBlock := { idx := 0, dbl := false, m := 1 :: 2 ^ 46 :: List.replicate 14 0, x := -40, spec := List.replicate 16 0, grow := 0 }
    let p : List Val := .fin false 1 (-40) :: List.replicate 15 (.zero false)
    let q : List Val := .zero false :: .fin false 1 6 :: List.replicate 14 (.zero false)
    ((bfpAdd (bfpAdd b p) q).x, (bfpAdd (bfpAdd b p) q).m.take 2) = (-39, [1, 2 ^ 46]) ∧
    ((bfpAdd (bfpAdd b q) p).x, (bfpAdd (bfpAdd b q) p).m.take 2) = (-39, [0, 2 ^ 46]) := by decide +kernel

/-- Four lanes that hold 1, 2^-24, 2^-24 and -1 in w11 and the mask 0xF in w12; each lane's w10 after an instruction (08). -/
def four : State :=
  let t (v : Nat) : Thread := thread [(11, v, .f32), (12, 0xF, .n32)]
  let c : Crew := { programCrew 2 0 with threads := Vector.ofFn fun l => match l.val with
    | 0 => t 0x3F800000
    | 1 => t 0x33800000
    | 2 => t 0x33800000
    | 3 => t 0xBF800000
    | _ => {} }
  ({ base with cur := some { bundle with lanes := [0, 1, 2, 3] } } : State).setCrew 0 0 (some c)
def lanesAfter (i : Instr) (s : State) (r : Nat) : List Nat :=
  match exec i s with
  | .next u => (List.range 4).map fun l => ((u.thread 0 0 l).value r false).toNat
  | _ => []
theorem test_redl_tree : lanesAfter (.redl { form := .ext, ft := 5, d := 10, a := 11, b := 12 }) four 10 = List.replicate 4 0x33800000 := by decide +kernel
theorem test_scanl_order :
    lanesAfter (.scanl { form := .ext, ft := 5, d := 10, a := 11, b := 12 }) four 10 = [0x3F800000, 0x3F800000, 0x3F800000, 0] := by decide +kernel

/-- A store's four bytes, little-endian, and that nothing else of the bank changes (09 R174, 11 R208). -/
theorem test_store_bytes :
    (match exec (.st { a := 2, b := 4 }) (machine (thread [(2, ownSpad0 8, .addr), (4, 0x12345678, .raw)])) with
      | .next s => match (s.core 0).pend with
        | [q] => (match exec (.storeRegistration 0 q.id) s with
          | .next u => (u.bank 0 0).mem == [(8, 0x78), (9, 0x56), (10, 0x34), (11, 0x12)]
          | _ => false)
        | _ => (s.bank 0 0).mem == [(8, 0x78), (9, 0x56), (10, 0x34), (11, 0x12)]
      | _ => false) = true := by decide +kernel
/-- STT's addresses (11): element (3, 5) of 64 by 128 in the plain and in the transposed tile. -/
theorem test_stt_addresses : 0x100000000 + (3 * 128 + 5) * 4 = 0x100000614 ∧ 0x100080000 + (5 * 64 + 3) * 4 = 0x10008050C := by decide
/-- A header and its words (03). -/
theorem test_header :
    let d := [0x00000000, 0x00060208, 0x00FF0000, 0x00000803, 0x00000027, 0, 0, 0, 0, 0, 0, 0, 0x00000408, 0, 0, 0].flatMap fun w => leBytes 4 w
    let h := Header.parse d []
    h.widths = [8, 2, 6, 0, 0, 0] ∧ h.exts = [256, 4, 40, 1, 1, 1] ∧ h.teamCrews = 8 ∧ h.bkSp = 8 ∧ h.bkCache = 4 ∧ h.bkFifo = 0 ∧ h.chunkSize = 16 ∧
    h.faults d [] 8 = [] := by decide +kernel
/-- The first step from reset with a word placed runs it: an EXIT leaves the crew's only live lane EXITED (02 R31, 16 R334). -/
theorem test_step_runs_exit :
    (match step (State.reset.withFetchWord 32 0x000001D4) with
      | .next s => (s.thread 0 0 0).st == .exited
      | _ => false) = true := by decide +kernel

end Sys2Proof.Tests
end

/-! No instruction and no step stops the machine (00 R8, 03 R67, 04 R82). -/

namespace Sys2Proof.Machine

/-- The machine goes on: the answer is a next state, neither a fault nor a refusal. -/
def GoesOn (a : Answer) : Prop := ∃ u, a = .next u

theorem goesOn_next (s : State) : GoesOn (.next s) := ⟨s, rfl⟩

theorem goesOn_ite {c : Prop} [Decidable c] {a a' : Answer} (h : GoesOn a) (h' : GoesOn a') : GoesOn (if c then a else a') := by
  split
  · exact h
  · exact h'

/-! Two meanings choose by the mailbox before they answer; every other one is a next state as it stands. -/

theorem State.unified_goesOn (s : State) (sub : Nat) (zero : List (Nat × Nat)) (f : Nat → Mailbox → List Nat → State) :
    GoesOn (s.unified sub zero f) :=
  goesOn_ite (goesOn_next s) (goesOn_next _)

theorem execCoreReset_goesOn (s : State) : GoesOn (execCoreReset s) :=
  goesOn_ite (goesOn_next _) (goesOn_next _)

theorem exec_goesOn (i : Instr) (s : State) : GoesOn (exec i s) := by
  cases i with
  | unifiedMap => exact s.unified_goesOn 0 _ _
  | unifiedMigrate => exact s.unified_goesOn 1 _ _
  | unifiedQuery => exact s.unified_goesOn 2 _ _
  | coreReset => exact execCoreReset_goesOn s
  | _ => exact goesOn_next _

/-! What surrounds an instruction in a step. -/

theorem settled_goesOn {a : Answer} (h : GoesOn a) : GoesOn (settled a) := by
  obtain ⟨u, rfl⟩ := h
  exact goesOn_next _

theorem runIssued_goesOn (i : Issued) : GoesOn (runIssued i) := by
  cases i with
  | nothing s => exact settled_goesOn (goesOn_next _)
  | run s i => exact settled_goesOn (exec_goesOn i s)
  | bad s sub bit => exact settled_goesOn (goesOn_next _)

theorem runDual_goesOn (s : State) (b sl : Nat) : GoesOn (runDual s b sl) := by
  unfold runDual
  cases hsecond : s.secondBundle b sl with
  | nil => exact runIssued_goesOn _
  | cons l ls =>
    obtain ⟨u, hfirst⟩ := runIssued_goesOn (s.issue b sl (l :: ls))
    simp only [hfirst]
    split
    · exact runIssued_goesOn _
    · exact goesOn_next u

theorem runAct_goesOn (s : State) (a : Act) : GoesOn (runAct s a) := by
  cases a with
  | issue b sl => exact goesOn_ite (goesOn_next s) (runIssued_goesOn _)
  | dual b sl => exact goesOn_ite (goesOn_next s) (runDual_goesOn s b sl)
  | event i => exact goesOn_ite (goesOn_next s) (settled_goesOn (exec_goesOn i s))
  | peerCancel b id => exact goesOn_ite (goesOn_next s) (goesOn_next _)
  | vectorError b l mask => exact goesOn_ite (goesOn_next s) (goesOn_next _)
  | stray fn off size v => exact goesOn_ite (goesOn_next s) (goesOn_next _)
  | host | hostBad | read | ring | vf | boot => exact goesOn_next _

theorem step_goesOn (s : State) : GoesOn (step s) := by
  unfold step
  dsimp only
  split
  · exact runAct_goesOn _ _
  · split
    · exact runAct_goesOn _ _
    · exact goesOn_next _

end Sys2Proof.Machine

/-- Settles O60: every instruction's meaning is a next state, and what a step puts around it keeps it one. -/
theorem noStop : Obligations.NoStop :=
  ⟨Sys2Proof.Machine.exec_goesOn, Sys2Proof.Machine.step_goesOn⟩

/-! Updates of crews and cores as the debug page makes them, and folds over the cores of a partition. -/

namespace Sys2Proof.Machine

theorem State.thread_eq (s : State) (b sl l : Nat) : s.thread b sl l = ((s.crew b sl).map fun c => c.thread l).getD {} := by
  unfold State.thread
  cases s.crew b sl <;> rfl

theorem State.part_of_parts_eq {s t : State} (h : s.parts = t.parts) (p : Nat) : s.part p = t.part p := by
  unfold State.part
  simp only [h]

theorem State.core_of_cores_eq {s t : State} (h : s.cores = t.cores) (b : Nat) : s.core b = t.core b := by
  unfold State.core
  simp only [h]

theorem State.core_modCore_ne (s : State) {b b' : Nat} (f : Core → Core) (h : b' ≠ b) : (s.modCore b f).core b' = s.core b' := by
  rw [State.core_modCore, if_neg fun e => h e.1]

/-- A field that an update of a core leaves alone is the same in every core. -/
theorem State.core_modCore_field {α : Type} (g : Core → α) {f : Core → Core} (hf : ∀ c, g (f c) = g c) (s : State) (b b' : Nat) :
    g ((s.modCore b f).core b') = g (s.core b') := by
  rw [State.core_modCore]
  split
  case isTrue e => rw [e.1, hf]
  case isFalse => rfl

theorem State.crew_modCore {f : Core → Core} {sl : Nat} (hf : ∀ c, (f c).crew sl = c.crew sl) (s : State) (b b' : Nat) :
    (s.modCore b f).crew b' sl = s.crew b' sl :=
  s.core_modCore_field (fun c => c.crew sl) hf b b'

theorem State.core_modCrew_ne (s : State) {b b' : Nat} (sl : Nat) (f : Crew → Crew) (h : b' ≠ b) :
    (s.modCrew b sl f).core b' = s.core b' := by
  unfold State.modCrew State.setCrew
  split
  · rfl
  · exact s.core_modCore_ne _ h

theorem State.debug_modCrew (s : State) (b sl b' : Nat) (f : Crew → Crew) : ((s.modCrew b sl f).core b').debug = (s.core b').debug := by
  unfold State.modCrew State.setCrew
  split
  · rfl
  · exact s.core_modCore_field Core.debug (fun c => c.setCrew_debug _ _) b b'

theorem State.crew_modCrew (s : State) (b sl b' sl' : Nat) (f : Crew → Crew) :
    (s.modCrew b sl f).crew b' sl' = if b' = b ∧ sl' = sl then (s.crew b sl).map f else s.crew b' sl' := by
  unfold State.modCrew
  split
  case h_1 h =>
    split
    case isTrue e => rw [e.1, e.2, h]; rfl
    case isFalse => rfl
  case h_2 c h => simp [h, State.crew_lt h]

theorem Core.crew_wakeUnits (c : Core) (sl : Nat) :
    c.wakeUnits.crew sl = (c.crew sl).map fun cr => { cr with threads := cr.threads.map Thread.wakeUnit } := by
  unfold Core.wakeUnits Core.crew
  by_cases h : sl < 64 <;> simp [h]

theorem State.core_wakeAll (s : State) {b : Nat} (h : b < 160) : s.wakeAll.core b = (s.core b).wakeUnits := by
  unfold State.wakeAll State.core
  simp [h]

theorem Thread.wakeUnit_of_runnable {t : Thread} (h : t.st = .runnable) : t.wakeUnit = t := by
  simp [Thread.wakeUnit, h]

theorem State.thread_wakeAll (s : State) {b l : Nat} (sl : Nat) (hb : b < 160) (hl : l < 32) :
    s.wakeAll.thread b sl l = (s.thread b sl l).wakeUnit := by
  rw [State.thread_eq, State.thread_eq, State.crew, State.core_wakeAll s hb, Core.crew_wakeUnits, ← State.crew]
  cases s.crew b sl with
  | none => rfl
  | some c => simp [Crew.thread, hl]

/-- What the step for one element brings about, from what every step keeps, holds after the fold where every step keeps it too. -/
theorem State.foldl_makes {α : Type} {K P : State → Prop} {f : State → α → State} {a : α} (hK : ∀ s x, K s → K (f s x))
    (ha : ∀ s, K s → P (f s a)) (hP : ∀ s x, P s → P (f s x)) {l : List α} (hl : a ∈ l) {s : State} (hs : K s) : P (l.foldl f s) := by
  obtain ⟨l₁, l₂, rfl⟩ := List.append_of_mem hl
  rw [List.foldl_append, List.foldl_cons]
  exact State.foldl_keeps hP l₂ (ha _ (State.foldl_keeps hK l₁ hs))

theorem State.mem_coresOf (s : State) (p b : Nat) : b ∈ s.coresOf p ↔ b < 160 ∧ (s.part p).cores.getLsbD b = true := by
  simp [State.coresOf]

theorem State.cores_part_modPart {f : Partition → Partition} (hf : ∀ x, (f x).cores = x.cores) (s : State) (p q : Nat) :
    ((s.modPart p f).part q).cores = (s.part q).cores := by
  rw [State.part_modPart]
  split
  case isTrue e => rw [e.1, hf]
  case isFalse => rfl

theorem State.coresOf_modPart {f : Partition → Partition} (hf : ∀ x, (f x).cores = x.cores) (s : State) (p q : Nat) :
    (s.modPart p f).coresOf q = s.coresOf q := by
  unfold State.coresOf
  rw [State.cores_part_modPart hf]

theorem State.partOf_modPart {f : Partition → Partition} (hf : ∀ x, (f x).cores = x.cores) (s : State) (p b : Nat) :
    (s.modPart p f).partOf b = s.partOf b := by
  unfold State.partOf
  simp only [State.cores_part_modPart hf]

theorem State.partOf_of_parts_eq {s t : State} (h : s.parts = t.parts) (b : Nat) : s.partOf b = t.partOf b := by
  unfold State.partOf
  simp only [State.part_of_parts_eq h]

/-! DBGEN set (20 R394): the debug crews enter. -/

theorem State.setDbgen_true {s : State} {p : Nat} (h : (s.part p).dbgen = false) :
    s.setDbgen p true =
      (s.coresOf p).foldl State.reserveDebug (s.modPart p fun x => { x with dbgen := true, dbgCode := s.mem, dbgKeys := s.unitKeys }) := by
  simp [State.setDbgen, h]

theorem State.reserveDebug_parts (s : State) (b : Nat) : (s.reserveDebug b).parts = s.parts := by
  unfold State.reserveDebug
  split <;> simp

theorem State.reserveDebug_core_ne (s : State) {b b' : Nat} (h : b' ≠ b) : (s.reserveDebug b).core b' = s.core b' := by
  unfold State.reserveDebug State.setCrew
  split
  · rw [State.core_modCore_ne _ _ h, State.core_modCore_ne _ _ h]
  · rfl

theorem State.reserveDebug_crew_ne (s : State) (b b' : Nat) {sl : Nat} (h : sl ≠ 63) : (s.reserveDebug b).crew b' sl = s.crew b' sl := by
  unfold State.reserveDebug
  split
  · rw [State.crew_modCore, State.crew_setCrew, if_neg fun e => h e.2.1]
    exact fun _ => rfl
  · rfl

/-- A core's slot 63 holds a debug crew, its lanes in S mode at the entry. -/
def State.DebugCrewAt (s : State) (b entry : Nat) : Prop :=
  (s.core b).debug = true ∧ ∃ c, s.crew b 63 = some c ∧ c.team = none ∧
    ∀ l < 32, (c.thread l).st = .runnable ∧ (c.thread l).priv = true ∧ (c.thread l).pc = BitVec.ofNat 64 entry

theorem State.reserveDebug_makes (s : State) {b : Nat} (hb : b < 160) (hd : (s.part (s.partOf b)).dbgen = true) (hc : s.crew b 63 = none) :
    (s.reserveDebug b).DebugCrewAt b (s.part (s.partOf b)).dentry := by
  unfold State.reserveDebug
  rw [if_pos (by simp [hd, hc])]
  refine ⟨?_, s.debugCrew b, ?_, rfl, fun l hl => ?_⟩
  · rw [State.core_modCore, if_pos ⟨rfl, hb⟩]
  · rw [State.crew_modCore, State.crew_setCrew, if_pos ⟨rfl, rfl, hb, by decide⟩]
    exact fun _ => rfl
  · simp [State.debugCrew, Crew.thread, hl]

theorem State.reserveDebug_keeps {s : State} {b entry : Nat} (a : Nat) (h : s.DebugCrewAt b entry) : (s.reserveDebug a).DebugCrewAt b entry := by
  by_cases hab : b = a
  · have ⟨_, c, hc, _⟩ := h
    have hsame : s.reserveDebug a = s := if_neg (by simp [← hab, hc])
    rwa [hsame]
  · unfold State.DebugCrewAt State.crew
    rwa [s.reserveDebug_core_ne hab]

/-- Reserving slot 63 of a list of cores puts a debug crew into each whose slot is free. -/
theorem State.foldl_reserveDebug_makes {s : State} {b : Nat} {l : List Nat} (hl : b ∈ l) (hb : b < 160)
    (hd : (s.part (s.partOf b)).dbgen = true) (hc : s.crew b 63 = none) :
    (l.foldl State.reserveDebug s).DebugCrewAt b (s.part (s.partOf b)).dentry := by
  have makes (u : State) (hu : u.parts = s.parts) (h : u.crew b 63 = none) :
      (u.reserveDebug b).DebugCrewAt b (s.part (s.partOf b)).dentry := by
    have hpart : u.part (u.partOf b) = s.part (s.partOf b) := by rw [State.partOf_of_parts_eq hu, State.part_of_parts_eq hu]
    rw [← hpart]
    exact u.reserveDebug_makes hb (by rw [hpart, hd]) h
  refine State.foldl_makes (P := fun u => u.DebugCrewAt b (s.part (s.partOf b)).dentry)
    (K := fun u => u.parts = s.parts ∧ (u.crew b 63 = none ∨ u.DebugCrewAt b (s.part (s.partOf b)).dentry))
    ?_ ?_ (fun _ a => State.reserveDebug_keeps a) hl ⟨rfl, .inl hc⟩
  · rintro u a ⟨hu, h⟩
    refine ⟨(u.reserveDebug_parts a).trans hu, ?_⟩
    rcases h with h | h
    · by_cases hab : b = a
      · subst hab
        exact .inr (makes u hu h)
      · exact .inl (by rwa [State.crew, u.reserveDebug_core_ne hab])
    · exact .inr (State.reserveDebug_keeps a h)
  · rintro u ⟨hu, h | h⟩
    · exact makes u hu h
    · exact State.reserveDebug_keeps b h

/-! DBGEN cleared (20 R394): the slots are freed and the halted lanes run again. -/

/-- A core's debug crew leaves slot 63. -/
def State.freeDebug (s : State) (b : Nat) : State :=
  if (s.core b).debug then
    (((List.range 32).foldl (fun (s : State) l => s.dropProducers ⟨b, 63, l⟩) s).dropAsk b 63 none).modCore b fun c =>
      { c.setCrew 63 none with debug := false }
  else s

/-- Every halted lane of some slots of a core runs again. -/
def State.unhaltSlots (s : State) (b : Nat) (sls : List Nat) : State :=
  sls.foldl (fun (s : State) sl => s.unhaltLanes b sl (List.range 32) false) s

/-- What DBGEN's fall does to a core. -/
def State.releaseDebug (s : State) (b : Nat) : State := (s.freeDebug b).unhaltSlots b (List.range 63)

theorem State.setDbgen_false {s : State} {p : Nat} (h : (s.part p).dbgen = true) :
    s.setDbgen p false =
      ((s.coresOf p).foldl State.releaseDebug (s.modPart p fun x => { x with dbgen := false })).wakeAll := by
  have hcores : (s.modPart p fun x => { x with dbgen := false }).coresOf p = s.coresOf p := by
    rw [State.coresOf_modPart]
    exact fun _ => rfl
  rw [← hcores]
  simp only [State.setDbgen, h]
  rfl

theorem Thread.unhalt_unhalt (t : Thread) (step : Bool) : (t.unhalt step).unhalt step = t.unhalt step := by
  unfold Thread.unhalt
  by_cases h : t.st = .halted <;> simp [h]

theorem Crew.thread_foldl_unhalt (c : Crew) (step : Bool) (lanes : List Nat) {l : Nat} (hl : l < 32) :
    (lanes.foldl (fun (c : Crew) l => c.modThread l fun t => t.unhalt step) c).thread l =
      if l ∈ lanes then (c.thread l).unhalt step else c.thread l := by
  induction lanes generalizing c with
  | nil => simp
  | cons a lanes ih =>
    rw [List.foldl_cons, ih, Crew.thread_modThread]
    by_cases ha : l = a
    · subst ha
      simp [hl, Thread.unhalt_unhalt]
    · simp [ha]

theorem State.thread_unhaltLanes (s : State) (b sl b' sl' : Nat) (lanes : List Nat) (step : Bool) {l : Nat} (hl : l < 32) :
    (s.unhaltLanes b sl lanes step).thread b' sl' l =
      if b' = b ∧ sl' = sl ∧ l ∈ lanes then (s.thread b' sl' l).unhalt step else s.thread b' sl' l := by
  unfold State.unhaltLanes
  rw [State.thread_eq, State.thread_eq, State.crew_modCrew]
  by_cases e : b' = b ∧ sl' = sl
  · obtain ⟨rfl, rfl⟩ := e
    cases s.crew b' sl' with
    | none => simp [Thread.unhalt]
    | some c => simp [Crew.thread_foldl_unhalt c step lanes hl]
  · rw [if_neg e, if_neg fun h => e ⟨h.1, h.2.1⟩]

theorem State.thread_unhaltSlots (s : State) (b b' sl : Nat) (sls : List Nat) {l : Nat} (hl : l < 32) :
    (s.unhaltSlots b sls).thread b' sl l = if b' = b ∧ sl ∈ sls then (s.thread b' sl l).unhalt false else s.thread b' sl l := by
  unfold State.unhaltSlots
  induction sls generalizing s with
  | nil => simp
  | cons a sls ih =>
    rw [List.foldl_cons, ih, State.thread_unhaltLanes _ _ _ _ _ _ _ hl]
    by_cases hb : b' = b
    · by_cases ha : sl = a
      · simp [hb, ha, hl, Thread.unhalt_unhalt]
      · simp [hb, ha]
    · simp [hb]

theorem State.unhaltSlots_core_ne (s : State) {b b' : Nat} (sls : List Nat) (h : b' ≠ b) : (s.unhaltSlots b sls).core b' = s.core b' :=
  State.foldl_keeps (P := fun u => u.core b' = s.core b') (fun u sl hu => (u.core_modCrew_ne sl _ h).trans hu) sls rfl

theorem State.unhaltSlots_parts (s : State) (b : Nat) (sls : List Nat) : (s.unhaltSlots b sls).parts = s.parts :=
  State.foldl_keeps (P := fun u => u.parts = s.parts) (fun u sl hu => (u.modCrew_parts b sl _).trans hu) sls rfl

theorem State.unhaltSlots_debug (s : State) (b b' : Nat) (sls : List Nat) :
    ((s.unhaltSlots b sls).core b').debug = (s.core b').debug :=
  State.foldl_keeps (P := fun u => (u.core b').debug = (s.core b').debug) (fun u sl hu => (u.debug_modCrew b sl b' _).trans hu) sls rfl

theorem State.unhaltSlots_crew_none {s : State} (b : Nat) {b' sl : Nat} (sls : List Nat) (h : s.crew b' sl = none) :
    (s.unhaltSlots b sls).crew b' sl = none := by
  refine State.foldl_keeps (P := fun u => u.crew b' sl = none) (fun u a hu => ?_) sls h
  rw [State.unhaltLanes, State.crew_modCrew]
  split
  case isTrue e => rw [← e.1, ← e.2, hu]; rfl
  case isFalse => exact hu

theorem State.dropProducers_core_ne (s : State) (x : Lane) {b : Nat} (h : b ≠ x.core) : (s.dropProducers x).core b = s.core b := by
  unfold State.dropProducers State.modThread
  rw [State.core_modCrew_ne _ _ _ h, State.core_modCore_ne _ _ h]

theorem Core.crew_rechanged (c : Core) (sl : Nat) : c.rechanged.crew sl = c.crew sl := by
  unfold Core.rechanged Core.crew
  rfl

theorem State.dropProducers_crew_ne (s : State) (x : Lane) (b : Nat) {sl : Nat} (h : sl ≠ x.slot) :
    (s.dropProducers x).crew b sl = s.crew b sl := by
  unfold State.dropProducers State.modThread
  rw [State.crew_modCrew, if_neg fun e => h e.2, State.crew_modCore]
  exact fun c => Core.crew_rechanged _ sl

theorem State.dropProducers_parts (s : State) (x : Lane) : (s.dropProducers x).parts = s.parts := by
  unfold State.dropProducers
  simp

theorem State.dropAsk_dbgen (s : State) (b sl p : Nat) (lane : Option Nat) : ((s.dropAsk b sl lane).part p).dbgen = (s.part p).dbgen := by
  unfold State.dropAsk State.part
  split <;> simp

theorem State.freeDebug_core_ne (s : State) {b b' : Nat} (h : b' ≠ b) : (s.freeDebug b).core b' = s.core b' := by
  unfold State.freeDebug
  split
  · rw [State.core_modCore_ne _ _ h]
    exact State.foldl_keeps (P := fun u => u.core b' = s.core b') (fun u l hu => (u.dropProducers_core_ne ⟨b, 63, l⟩ h).trans hu) _ rfl
  · rfl

theorem State.freeDebug_crew_ne (s : State) (b b' : Nat) {sl : Nat} (h : sl ≠ 63) : (s.freeDebug b).crew b' sl = s.crew b' sl := by
  unfold State.freeDebug
  split
  · rw [State.crew_modCore]
    case hf => exact fun c => (Core.crew_setCrew c 63 sl none).trans (if_neg fun e => h e.1)
    exact State.foldl_keeps (P := fun u => u.crew b' sl = s.crew b' sl) (fun u l hu => (u.dropProducers_crew_ne ⟨b, 63, l⟩ b' h).trans hu) _ rfl
  · rfl

theorem State.freeDebug_dbgen (s : State) (b p : Nat) : ((s.freeDebug b).part p).dbgen = (s.part p).dbgen := by
  unfold State.freeDebug
  split
  · rw [State.part_of_parts_eq (State.modCore_parts _ b _), State.dropAsk_dbgen]
    exact congrArg Partition.dbgen (State.part_of_parts_eq (State.foldl_keeps (P := fun u => u.parts = s.parts)
      (fun u l hu => (u.dropProducers_parts ⟨b, 63, l⟩).trans hu) _ rfl) p)
  · rfl

theorem State.freeDebug_debug (s : State) {b : Nat} (hb : b < 160) : ((s.freeDebug b).core b).debug = false := by
  unfold State.freeDebug
  split
  case isTrue => rw [State.core_modCore, if_pos ⟨rfl, hb⟩]
  case isFalse h => exact Bool.eq_false_iff.mpr h

theorem State.freeDebug_crew (s : State) {b : Nat} (hb : b < 160) (h : (s.core b).debug = true) : (s.freeDebug b).crew b 63 = none := by
  unfold State.freeDebug State.crew
  rw [if_pos h, State.core_modCore, if_pos ⟨rfl, hb⟩]
  exact (Core.crew_setCrew _ 63 63 none).trans (if_pos ⟨rfl, by decide⟩)

theorem State.releaseDebug_core_ne (s : State) {b b' : Nat} (h : b' ≠ b) : (s.releaseDebug b).core b' = s.core b' :=
  (State.unhaltSlots_core_ne _ _ h).trans (s.freeDebug_core_ne h)

theorem State.releaseDebug_debug (s : State) {b : Nat} (hb : b < 160) : ((s.releaseDebug b).core b).debug = false :=
  (State.unhaltSlots_debug ..).trans (s.freeDebug_debug hb)

theorem State.releaseDebug_crew (s : State) {b : Nat} (hb : b < 160) (h : (s.core b).debug = true ∨ s.crew b 63 = none) :
    (s.releaseDebug b).crew b 63 = none := by
  refine State.unhaltSlots_crew_none b _ ?_
  by_cases hd : (s.core b).debug = true
  · exact s.freeDebug_crew hb hd
  · rw [State.freeDebug, if_neg hd]
    exact h.resolve_left hd

theorem State.releaseDebug_dbgen (s : State) (b p : Nat) : ((s.releaseDebug b).part p).dbgen = (s.part p).dbgen := by
  rw [State.releaseDebug, State.part_of_parts_eq (State.unhaltSlots_parts ..), State.freeDebug_dbgen]

theorem State.releaseDebug_thread (s : State) (b b' : Nat) {sl l : Nat} (hs : sl < 63) (hl : l < 32) :
    (s.releaseDebug b).thread b' sl l = if b' = b then (s.thread b' sl l).unhalt false else s.thread b' sl l := by
  rw [State.releaseDebug, State.thread_unhaltSlots _ _ _ _ _ hl]
  simp only [State.thread_eq, s.freeDebug_crew_ne b b' (Nat.ne_of_lt hs), List.mem_range, hs, and_true]

theorem State.foldl_releaseDebug_dbgen (s : State) (l : List Nat) (p : Nat) :
    ((l.foldl State.releaseDebug s).part p).dbgen = (s.part p).dbgen :=
  State.foldl_keeps (P := fun u => (u.part p).dbgen = (s.part p).dbgen) (fun u b hu => (u.releaseDebug_dbgen b p).trans hu) l rfl

/-- What release keeps of its own core, it keeps of every core. -/
theorem State.releaseDebug_keeps {P : Core → Prop} {b : Nat} (hself : ∀ u : State, P (u.core b) → P ((u.releaseDebug b).core b)) (u : State)
    (a : Nat) (h : P (u.core b)) : P ((u.releaseDebug a).core b) := by
  by_cases hab : b = a
  · exact hab ▸ hself u h
  · rwa [u.releaseDebug_core_ne hab]

/-- Slot 63 of a core whose debug crew was there is free after the fall of DBGEN, and the core has none any more. -/
theorem State.foldl_releaseDebug_frees (s : State) {b : Nat} {l : List Nat} (hl : b ∈ l) (hb : b < 160) :
    ((l.foldl State.releaseDebug s).core b).debug = false ∧ ((s.core b).debug = true → (l.foldl State.releaseDebug s).crew b 63 = none) := by
  constructor
  · exact State.foldl_makes (K := fun _ => True) (P := fun u => (u.core b).debug = false) (fun _ _ => id)
      (fun u _ => u.releaseDebug_debug hb) (State.releaseDebug_keeps (P := fun c => c.debug = false) fun u _ => u.releaseDebug_debug hb) hl trivial
  · intro hd
    exact State.foldl_makes (K := fun u => (u.core b).debug = true ∨ u.crew b 63 = none) (P := fun u => u.crew b 63 = none)
      (State.releaseDebug_keeps (P := fun c => c.debug = true ∨ c.crew 63 = none) fun u h => .inr (u.releaseDebug_crew hb h))
      (fun u h => u.releaseDebug_crew hb h) (State.releaseDebug_keeps (P := fun c => c.crew 63 = none) fun u h => u.releaseDebug_crew hb (.inr h)) hl (.inl hd)

/-- A lane can be issued at an address. -/
def Thread.RunsAt (t : Thread) (pc : DWord) : Prop := t.st = .runnable ∧ t.pc = pc

theorem Thread.unhalt_runsAt {t : Thread} {pc : DWord} (h : t.st = .halted ∧ t.pc = pc ∨ t.RunsAt pc) : (t.unhalt false).RunsAt pc := by
  rcases h with ⟨hst, hpc⟩ | ⟨hst, hpc⟩
  · simp [Thread.RunsAt, Thread.unhalt, hst, hpc]
  · simp [Thread.RunsAt, Thread.unhalt, hst, hpc]

/-- A halted lane runs again after the fall of DBGEN, where it stood. -/
theorem State.foldl_releaseDebug_unhalts {s : State} {b sl l : Nat} {cs : List Nat} (hc : b ∈ cs) (hs : sl < 63) (hl : l < 32)
    (h : (s.thread b sl l).st = .halted) : ((cs.foldl State.releaseDebug s).thread b sl l).RunsAt (s.thread b sl l).pc := by
  generalize hpc : (s.thread b sl l).pc = pc
  refine State.foldl_makes (P := fun u => (u.thread b sl l).RunsAt pc)
    (K := fun u => (u.thread b sl l).st = .halted ∧ (u.thread b sl l).pc = pc ∨ (u.thread b sl l).RunsAt pc) ?_ ?_ ?_ hc (.inl ⟨h, hpc⟩)
  · intro u a hu
    rw [u.releaseDebug_thread a b hs hl]
    split
    · exact .inr (Thread.unhalt_runsAt hu)
    · exact hu
  · intro u hu
    rw [u.releaseDebug_thread b b hs hl, if_pos rfl]
    exact Thread.unhalt_runsAt hu
  · intro u a hu
    rw [u.releaseDebug_thread a b hs hl]
    split
    · exact Thread.unhalt_runsAt (.inr hu)
    · exact hu

end Sys2Proof.Machine

/-! The functions' pages (28 R439): what an access of a register that lies there comes to. -/

namespace Sys2Proof.Machine

/-- What a write records, and no more (28 R440). -/
theorem State.badWrite_part (s : State) {fn : Nat} (hfn : fn ≤ 8) (off : Nat) (rsvd bad : Bool) :
    (s.badWrite fn off rsvd bad).part fn =
      { s.part fn with rsvdWrite := (s.part fn).rsvdWrite || rsvd, badAcc := (s.part fn).badAcc || bad,
                       lastOff := if rsvd || bad then off else (s.part fn).lastOff } := by
  unfold State.badWrite
  split
  case isTrue h => rw [State.part_modPart, if_pos ⟨rfl, Nat.lt_succ_of_le hfn⟩]
  case isFalse h =>
    simp only [Bool.or_eq_true, not_or, Bool.not_eq_true] at h
    simp [h]

theorem State.badWrite_mem (s : State) (fn off : Nat) (rsvd bad : Bool) : (s.badWrite fn off rsvd bad).mem = s.mem := by
  unfold State.badWrite
  split <;> simp

theorem State.badWrite_hostOut (s : State) (fn off : Nat) (rsvd bad : Bool) : (s.badWrite fn off rsvd bad).hostOut = s.hostOut := by
  unfold State.badWrite
  split <;> simp

theorem State.hostReaches_ready {s : State} (h : s.boot = 3) (fn off : Nat) : s.hostReaches fn off = true := by
  simp [State.hostReaches, h]

/-- A register of the debug page. -/
theorem State.regAt_debugPage (s : State) (fn : Nat) {o : Nat} (h : o < 0x1000) : s.regAt fn (0x4000 + o) = s.debugPage fn o := by
  have hpage : (0x4000 + o) / 4096 = 4 := by omega
  have hoff : (0x4000 + o) % 4096 = o := by omega
  unfold State.regAt
  rw [if_neg (by omega)]
  simp only [hpage, hoff]

/-- An access of a size or at an alignment that R439 does not allow. -/
theorem State.pageWrite_unaligned {s : State} (h : s.boot = 3) {fn off size : Nat} (hfn : fn ≤ 8) (ha : accessOk off size = false) (v : Nat) :
    s.pageWrite fn off size v = s.badWrite fn off false true := by
  simp [State.pageWrite, State.hostReaches_ready h, ha, Nat.not_lt.mpr hfn]

/-- A write of 8 bytes where no register lies. -/
theorem State.pageWrite_nowhere {s : State} (h : s.boot = 3) {fn off : Nat} (hfn : fn ≤ 8) (ha : accessOk off 8 = true)
    (hr : s.regAt fn off = none) (v : Nat) : s.pageWrite fn off 8 v = s.badWrite fn off false true := by
  simp [State.pageWrite, State.hostReaches_ready h, ha, hr, Nat.not_lt.mpr hfn]

/-- A write of 8 bytes to a wide register. -/
theorem State.pageWrite_wide {s : State} (h : s.boot = 3) {fn off : Nat} (hfn : fn ≤ 8) (ha : accessOk off 8 = true) {r : PageReg}
    (hr : s.regAt fn off = some r) (hw : r.wide = true) (v : Nat) :
    s.pageWrite fn off 8 v = (r.set (v &&& (2 ^ 64 - 1 - r.rsvd))).badWrite fn off (v &&& r.rsvd != 0) false := by
  simp [State.pageWrite, State.hostReaches_ready h, ha, hr, hw, Nat.not_lt.mpr hfn]

/-- A write of 4 bytes to a register of 32 bits. -/
theorem State.pageWrite_word {s : State} (h : s.boot = 3) {fn off : Nat} (hfn : fn ≤ 8) (ha : accessOk off 4 = true)
    (hstage : off ≠ 0x4010) (hhigh : off ≠ 0x4014) {r : PageReg} (hr : s.regAt fn off = some r) (hw : r.wide = false) {v : Nat} (hv : v < 0x100000000)
    (hrsvd : r.rsvd < 0x100000000) :
    s.pageWrite fn off 4 v = (r.set (v &&& (2 ^ 32 - 1 - r.rsvd))).badWrite fn off (v &&& r.rsvd != 0) false := by
  simp [State.pageWrite, State.writeWord, State.hostReaches_ready h, ha, hr, hw, hstage, hhigh, Nat.not_lt.mpr hfn,
    Nat.mod_eq_of_lt hv, Nat.mod_eq_of_lt hrsvd]

theorem and_mask64 (v : DWord) : v.toNat &&& (2 ^ 64 - 1 - 0) = v.toNat := by
  rw [Nat.sub_zero, Nat.and_two_pow_sub_one_eq_mod, Nat.mod_eq_of_lt v.isLt]

/-! H2D and D2H (20 R393, R456). -/

/-- A wake of cores leaves the partitions, global memory and what the host saw. -/
theorem State.foldl_wakeUnits_frame (s : State) (l : List Nat) :
    (l.foldl State.wakeUnits s).parts = s.parts ∧ (l.foldl State.wakeUnits s).mem = s.mem ∧ (l.foldl State.wakeUnits s).hostOut = s.hostOut :=
  State.foldl_keeps (P := fun u => u.parts = s.parts ∧ u.mem = s.mem ∧ u.hostOut = s.hostOut)
    (fun u b hu => by simpa [State.wakeUnits] using hu) l ⟨rfl, rfl, rfl⟩

theorem State.pushH2d_room {s : State} {p : Nat} (hp : p ≤ 8) (v : DWord) (h : (s.part p).h2d.length < 64) :
    (s.pushH2d p v).part p = { s.part p with staging := 0, h2d := (s.part p).h2d ++ [v] } ∧ (s.pushH2d p v).mem = s.mem ∧
      (s.pushH2d p v).hostOut = s.hostOut := by
  unfold State.pushH2d
  dsimp only
  rw [if_neg (Nat.not_le.mpr h)]
  refine ⟨?_, ?_, ?_⟩
  · rw [State.part_of_parts_eq (State.foldl_wakeUnits_frame ..).1]
    simp [Nat.lt_succ_iff.mpr hp]
  · rw [(State.foldl_wakeUnits_frame ..).2.1, State.modPart_mem, State.modPart_mem]
  · rw [(State.foldl_wakeUnits_frame ..).2.2, State.modPart_hostOut, State.modPart_hostOut]

theorem State.pushH2d_full {s : State} {p : Nat} (hp : p ≤ 8) (v : DWord) (h : 64 ≤ (s.part p).h2d.length) :
    (s.pushH2d p v).part p = { s.part p with staging := 0, h2dLost := true } ∧ (s.pushH2d p v).mem = s.mem ∧
      (s.pushH2d p v).hostOut = s.hostOut := by
  unfold State.pushH2d
  dsimp only
  rw [if_pos h]
  simp [Nat.lt_succ_iff.mpr hp]

theorem exec_h2dWrite {s : State} (h : s.boot = 3) {p : Nat} (hp : p ≤ 8) (v : DWord) :
    exec (.h2dWrite p v) s = .next (s.pushH2d p v) := by
  have hw := State.pageWrite_wide h hp (off := 0x4010) rfl (s.regAt_debugPage p (o := 0x10) (by decide)) rfl v.toNat
  dsimp only at hw
  rw [and_mask64, BitVec.ofNat_toNat, BitVec.setWidth_eq, Nat.and_zero] at hw
  exact congrArg Host.Outcome.next hw

theorem exec_h2dStageWrite {s : State} (h : s.boot = 3) {p : Nat} (hp : p ≤ 8) (v : Word) :
    exec (.h2dStageWrite p v) s = .next (s.modPart p fun x => { x with staging := v }) := by
  have hw : s.pageWrite p 0x4010 4 v.toNat = s.modPart p fun x => { x with staging := v } := by
    simp [State.pageWrite, State.hostReaches_ready h, accessOk, Nat.not_lt.mpr hp]
  exact congrArg Host.Outcome.next hw

theorem exec_h2dHighWrite {s : State} (h : s.boot = 3) {p : Nat} (hp : p ≤ 8) (v : Word) :
    exec (.h2dHighWrite p v) s = .next (s.pushH2d p (v ++ (s.part p).staging)) := by
  have hw : s.pageWrite p 0x4014 4 v.toNat = s.pushH2d p (v ++ (s.part p).staging) := by
    simp [State.pageWrite, State.hostReaches_ready h, accessOk, Nat.not_lt.mpr hp]
  exact congrArg Host.Outcome.next hw

/-- The register of D2H reads its oldest message. -/
theorem State.regAt_d2h (s : State) (p : Nat) : s.regAt p 0x4018 = s.ro64 (((s.part p).d2h.head?).getD 0).toNat 0 :=
  s.regAt_debugPage p (o := 0x18) (by decide)

theorem State.readWord_d2h (s : State) (p : Nat) : s.readWord p 0x4018 = some ((((s.part p).d2h.head?).getD 0).toNat % 2 ^ 32) := by
  rw [State.readWord, State.regAt_d2h]
  rfl

theorem State.readWord_d2hHigh (s : State) (p : Nat) : s.readWord p 0x401C = some ((((s.part p).d2h.head?).getD 0).toNat / 2 ^ 32) := by
  have hnone : s.regAt p 0x401C = none := s.regAt_debugPage p (o := 0x1C) (by decide)
  have hlow : s.regAt p (0x401C - 4) = _ := s.regAt_d2h p
  rw [State.readWord, hnone]
  dsimp only
  rw [if_neg (by decide), hlow]
  rfl

theorem exec_d2hRead {s : State} (h : s.boot = 3) {p : Nat} (hp : p ≤ 8) :
    exec (.d2hRead p) s = .next { s.popD2h p with hostOut := s.hostOut ++ [.read p 0x4018 (((s.part p).d2h.head?).getD 0)] } := by
  have halves (v : DWord) : BitVec.ofNat 64 (v.toNat % 0x100000000 + v.toNat / 0x100000000 * 0x100000000) = v := by
    rw [Nat.mul_comm, Nat.mod_add_div, BitVec.ofNat_toNat, BitVec.setWidth_eq]
  have hr : s.pageRead p 0x4018 8 = { s.popD2h p with hostOut := s.hostOut ++ [.read p 0x4018 (((s.part p).d2h.head?).getD 0)] } := by
    simp [State.pageRead, State.hostReaches_ready h, accessOk, Nat.not_lt.mpr hp, State.readWord_d2h, State.readWord_d2hHigh, State.popD2h,
      halves]
  exact congrArg Host.Outcome.next hr

theorem exec_d2hHighRead {s : State} (h : s.boot = 3) {p : Nat} (hp : p ≤ 8) :
    exec (.d2hHighRead p) s = .next { s.popD2h p with hostOut := s.hostOut ++ [.read p 0x401C (((s.part p).d2h.head?).getD 0 >>> 32)] } := by
  have high (v : DWord) : BitVec.ofNat 64 (v.toNat / 0x100000000) = v >>> 32 := by
    apply BitVec.eq_of_toNat_eq
    rw [BitVec.toNat_ofNat, BitVec.toNat_ushiftRight, Nat.shiftRight_eq_div_pow]
    exact Nat.mod_eq_of_lt (Nat.lt_of_le_of_lt (Nat.div_le_self ..) v.isLt)
  have hr : s.pageRead p 0x401C 4 = { s.popD2h p with hostOut := s.hostOut ++ [.read p 0x401C (((s.part p).d2h.head?).getD 0 >>> 32)] } := by
    simp [State.pageRead, State.hostReaches_ready h, accessOk, Nat.not_lt.mpr hp, State.readWord_d2hHigh, State.popD2h, high]
  exact congrArg Host.Outcome.next hr

/-! DBGEN (20 R394). -/

theorem exec_dbgenWrite {s : State} (h : s.boot = 3) {p : Nat} (hp : p ≤ 8) {v : Word} (hv : v.toNat &&& 0xFFFFFFFE = 0) :
    exec (.dbgenWrite p v) s = .next (s.setDbgen p (bit v.toNat 0)) := by
  have hw := State.pageWrite_word h hp (off := 0x4008) rfl (by decide) (by decide) (s.regAt_debugPage p (o := 0x08) (by decide)) rfl v.isLt
    (show 0xFFFFFFFE < 0x100000000 by decide)
  have hbit : bit (v.toNat &&& (2 ^ 32 - 1 - 0xFFFFFFFE)) 0 = bit v.toNat 0 := by simp [bit]
  dsimp only at hw
  rw [hbit, hv] at hw
  exact congrArg Host.Outcome.next hw

/-- DBGEN set: the snapshot of the code, and a debug crew in every free slot 63 of the partition's cores. -/
theorem State.setDbgen_true_spec {s : State} {p : Nat} (hp : p ≤ 8) (h : (s.part p).dbgen = false) :
    ((s.setDbgen p true).part p).dbgen = true ∧ ((s.setDbgen p true).part p).dbgCode = s.mem ∧
      ((s.setDbgen p true).part p).dbgKeys = s.unitKeys ∧
      ∀ b < 160, (s.partOf b = p → (s.part p).cores.getLsbD b = true → s.crew b 63 = none →
          (s.setDbgen p true).DebugCrewAt b (s.part p).dentry) ∧
        ∀ sl < 63, (s.setDbgen p true).crew b sl = s.crew b sl := by
  rw [State.setDbgen_true h]
  generalize ht : (s.modPart p fun x => { x with dbgen := true, dbgCode := s.mem, dbgKeys := s.unitKeys }) = t
  have hpart : t.part p = { s.part p with dbgen := true, dbgCode := s.mem, dbgKeys := s.unitKeys } := by
    rw [← ht, State.part_modPart, if_pos ⟨rfl, Nat.lt_succ_of_le hp⟩]
  have hcrew (b sl : Nat) : t.crew b sl = s.crew b sl := by
    rw [← ht]
    exact congrArg (fun c => c.crew sl) (State.core_of_cores_eq (State.modPart_cores ..) b)
  have hpartOf (b : Nat) : t.partOf b = s.partOf b := by
    rw [← ht, State.partOf_modPart]
    exact fun _ => rfl
  have hparts : ((s.coresOf p).foldl State.reserveDebug t).part p = t.part p :=
    State.part_of_parts_eq (State.foldl_keeps (P := fun u => u.parts = t.parts) (fun u b hu => (u.reserveDebug_parts b).trans hu) _ rfl) p
  rw [hparts, hpart]
  refine ⟨rfl, rfl, rfl, fun b hb => ⟨fun howner hcore hfree => ?_, fun sl hsl => ?_⟩⟩
  · have hown : t.part (t.partOf b) = t.part p := by rw [hpartOf, howner]
    have := State.foldl_reserveDebug_makes ((s.mem_coresOf p b).mpr ⟨hb, hcore⟩) hb (by rw [hown, hpart]) ((hcrew b 63).trans hfree)
    rwa [hown, hpart] at this
  · rw [← hcrew b sl]
    exact State.foldl_keeps (P := fun u => u.crew b sl = t.crew b sl) (fun u a hu => (u.reserveDebug_crew_ne a b (Nat.ne_of_lt hsl)).trans hu) _ rfl

/-- DBGEN cleared: the partition's cores have no debug crew any more, and their halted lanes run again where they stood. -/
theorem State.setDbgen_false_spec {s : State} {p : Nat} (hp : p ≤ 8) (h : (s.part p).dbgen = true) :
    ((s.setDbgen p false).part p).dbgen = false ∧
      ∀ b < 160, (s.part p).cores.getLsbD b = true →
        ((s.setDbgen p false).core b).debug = false ∧ ((s.core b).debug = true → (s.setDbgen p false).crew b 63 = none) ∧
        ∀ sl < 63, ∀ l < 32, (s.thread b sl l).st = .halted →
          ((s.setDbgen p false).thread b sl l).st = .runnable ∧ ((s.setDbgen p false).thread b sl l).pc = (s.thread b sl l).pc := by
  rw [State.setDbgen_false h]
  generalize ht : (s.modPart p fun x => { x with dbgen := false }) = t
  have hcore (b : Nat) : t.core b = s.core b := by
    rw [← ht]
    exact State.core_of_cores_eq (State.modPart_cores ..) b
  have hthread (b sl l : Nat) : t.thread b sl l = s.thread b sl l := by
    rw [State.thread_eq, State.thread_eq, State.crew, State.crew, hcore]
  refine ⟨?_, fun b hb hown => ?_⟩
  · refine (State.foldl_releaseDebug_dbgen t (s.coresOf p) p).trans ?_
    rw [← ht, State.part_modPart, if_pos ⟨rfl, Nat.lt_succ_of_le hp⟩]
  · have hmem := (s.mem_coresOf p b).mpr ⟨hb, hown⟩
    obtain ⟨hdebug, hfree⟩ := t.foldl_releaseDebug_frees hmem hb
    refine ⟨?_, fun hd => ?_, fun sl hsl l hl hst => ?_⟩
    · rw [State.core_wakeAll _ hb]
      exact hdebug
    · rw [State.crew, State.core_wakeAll _ hb, Core.crew_wakeUnits, ← State.crew, hfree (by rwa [hcore])]
      rfl
    · obtain ⟨hrun, hpc⟩ := State.foldl_releaseDebug_unhalts hmem hsl hl ((congrArg Thread.st (hthread b sl l)).trans hst)
      rw [State.thread_wakeAll _ sl hb hl, Thread.wakeUnit_of_runnable hrun]
      exact ⟨hrun, hpc.trans (congrArg Thread.pc (hthread b sl l))⟩

/-! CLEAR (18 R371). -/

/-- CLEAR of a partition in the PF's view of its telemetry page. -/
theorem State.regAt_clear (s : State) {p : Nat} (hp : p ≤ 8) :
    s.regAt 0 (teleOffset p + 0xA0) =
      some { wide := true, get := 0, rsvd := 0xFFFFFFFFFFFFFFFE, set := fun v => if bit v 0 then s.clearTelemetry p else s } := by
  by_cases h0 : p = 0
  · subst h0
    rfl
  · have hoff : teleOffset p + 0xA0 = 0xB0A0 + 0x4000 * (p - 1) := by
      rw [teleOffset, if_neg h0]
      omega
    have hpart : (0xB0A0 + 0x4000 * (p - 1) - 0x8000) / 0x4000 + 1 = p := by omega
    have hpage : (0xB0A0 + 0x4000 * (p - 1) - 0x8000) / 4096 % 4 = 3 := by omega
    have hreg : (0xB0A0 + 0x4000 * (p - 1)) % 4096 = 0xA0 := by omega
    rw [hoff, State.regAt, if_pos ⟨rfl, by omega⟩]
    dsimp only
    rw [hpart, if_neg (by omega), hpage, hreg]
    rfl

theorem exec_telemetryClear {s : State} (h : s.boot = 3) {p : Nat} (hp : p ≤ 8) :
    exec (.telemetryClear p) s = .next (s.clearTelemetry p) := by
  have hsize : accessOk (teleOffset p + 0xA0) 8 = true := by
    have : (teleOffset p + 0xA0) % 8 = 0 := by
      unfold teleOffset
      split <;> omega
    simp [accessOk, this]
  have hw := State.pageWrite_wide h (Nat.zero_le 8) hsize (s.regAt_clear hp) rfl 1
  have hwritten : 1 &&& (2 ^ 64 - 1 - 0xFFFFFFFFFFFFFFFE) = 1 := by decide
  have hrsvd : 1 &&& 0xFFFFFFFFFFFFFFFE = 0 := by decide
  dsimp only at hw
  rw [hwritten, hrsvd] at hw
  exact congrArg Host.Outcome.next ((if_pos hp).trans hw)

/-! Registers as they are written (00 R5, R6, 28 R439). -/

/-- The bits of DENTRY that are not reserved are a 4-byte aligned address of 57 bits. -/
theorem and_dentryMask (x : Nat) : x &&& 0x01FFFFFFFFFFFFFC = x % 2 ^ 57 / 4 * 4 := by
  have hshift : x &&& (2 ^ 55 - 1) <<< 2 = ((x >>> 2) &&& (2 ^ 55 - 1)) <<< 2 := by
    apply Nat.eq_of_testBit_eq
    intro i
    simp only [Nat.testBit_and, Nat.testBit_shiftLeft, Nat.testBit_shiftRight]
    by_cases hi : 2 ≤ i
    · simp [hi]
    · simp [hi]
  rw [Nat.and_two_pow_sub_one_eq_mod, Nat.shiftRight_eq_div_pow] at hshift
  have hmask : (0x01FFFFFFFFFFFFFC : Nat) = (2 ^ 55 - 1) <<< 2 := by decide
  rw [hmask, hshift, Nat.shiftLeft_eq]
  omega

theorem toNat_and_ne_zero (v m : DWord) : (v.toNat &&& m.toNat != 0) = (v &&& m != 0) := by
  rw [Bool.eq_iff_iff, bne_iff_ne, bne_iff_ne, ← BitVec.toNat_and, ne_eq, ne_eq, ← BitVec.toNat_inj]
  rfl

theorem exec_dentryWrite {s : State} (h : s.boot = 3) {p : Nat} (hp : p ≤ 8) (v : DWord) :
    exec (.registerWrite p 0x4000 8 v) s =
      .next ((s.modPart p fun x => { x with dentry := v.toNat % 2 ^ 57 / 4 * 4 }).badWrite p 0x4000 (v &&& 0xFE00000000000003 != 0) false) := by
  have hw := State.pageWrite_wide h hp (off := 0x4000) rfl (s.regAt_debugPage p (o := 0) (by decide)) rfl v.toNat
  dsimp only at hw
  have hrsvd := toNat_and_ne_zero v 0xFE00000000000003
  rw [show 2 ^ 64 - 1 - 0xFE00000000000003 = 0x01FFFFFFFFFFFFFC from rfl, and_dentryMask,
    show (0xFE00000000000003 : Nat) = (0xFE00000000000003 : DWord).toNat from rfl, hrsvd] at hw
  exact congrArg Host.Outcome.next hw

theorem exec_dbgenSet {s : State} (h : s.boot = 3) {p : Nat} (hp : p ≤ 8) : exec (.dbgenWrite p 1) s = .next (s.setDbgen p true) :=
  exec_dbgenWrite h hp (v := 1) (by decide)

theorem exec_dbgenClear {s : State} (h : s.boot = 3) {p : Nat} (hp : p ≤ 8) : exec (.dbgenWrite p 0) s = .next (s.setDbgen p false) :=
  exec_dbgenWrite h hp (v := 0) (by decide)

theorem State.clearTelemetry_part (s : State) {p : Nat} (hp : p ≤ 8) : (s.clearTelemetry p).part p = (s.part p).clearCounters := by
  rw [State.clearTelemetry, State.part_modPart, if_pos ⟨rfl, Nat.lt_succ_of_le hp⟩]

/-- A write of DENTRY: the address, and the reserved bits recorded. -/
theorem State.dentryWrite_part (s : State) {p : Nat} (hp : p ≤ 8) (v : DWord) :
    ((s.modPart p fun x => { x with dentry := v.toNat % 2 ^ 57 / 4 * 4 }).badWrite p 0x4000 (v &&& 0xFE00000000000003 != 0) false).part p =
      { s.part p with dentry := v.toNat % 2 ^ 57 / 4 * 4, rsvdWrite := (s.part p).rsvdWrite || (v &&& 0xFE00000000000003 != 0),
                      lastOff := if v &&& 0xFE00000000000003 = 0 then (s.part p).lastOff else 0x4000 } := by
  rw [State.badWrite_part _ hp, State.part_modPart, if_pos ⟨rfl, Nat.lt_succ_of_le hp⟩]
  simp

theorem State.badAccess_part (s : State) {p : Nat} (hp : p ≤ 8) (off : Nat) :
    (s.badWrite p off false true).part p = { s.part p with badAcc := true, lastOff := off } := by
  rw [State.badWrite_part _ hp]
  simp

end Sys2Proof.Machine

section

open Sys2Proof.Machine

/-- Settles O52: each access is brought to the register it reaches (`exec_…`), and what that register does to the partition and
to its cores is read off its own lemma. -/
theorem hostPages : Obligations.HostPages := by
  intro s p hp hboot
  refine ⟨fun v => ⟨fun h => ?_, fun h => ?_⟩, fun v => ⟨exec_h2dStageWrite hboot hp v, fun h => ?_, fun h => ?_⟩,
    exec_d2hRead hboot hp, exec_d2hHighRead hboot hp, fun h => ?_, fun h => ?_, ?_, fun v => ?_, fun v => ?_, fun v => ?_⟩
  · exact ⟨_, exec_h2dWrite hboot hp v, State.pushH2d_room hp v h⟩
  · exact ⟨_, exec_h2dWrite hboot hp v, State.pushH2d_full hp v h⟩
  · exact ⟨_, exec_h2dHighWrite hboot hp v, State.pushH2d_room hp _ h⟩
  · exact ⟨_, exec_h2dHighWrite hboot hp v, State.pushH2d_full hp _ h⟩
  · exact ⟨_, exec_dbgenSet hboot hp, State.setDbgen_true_spec hp h⟩
  · exact ⟨_, exec_dbgenClear hboot hp, State.setDbgen_false_spec hp h⟩
  · refine ⟨_, exec_telemetryClear hboot hp, ?_⟩
    rw [s.clearTelemetry_part hp]
    exact ⟨rfl, rfl, rfl, rfl, rfl, State.modPart_mem .., State.modPart_cores ..⟩
  · exact ⟨_, exec_dentryWrite hboot hp v, s.dentryWrite_part hp v, (State.badWrite_mem ..).trans (State.modPart_mem ..),
      (State.badWrite_hostOut ..).trans (State.modPart_hostOut ..)⟩
  · have hnone : s.regAt p 0x20 = none := by
      unfold State.regAt
      rw [if_neg (by omega)]
      rfl
    exact ⟨_, congrArg Host.Outcome.next (State.pageWrite_nowhere hboot hp rfl hnone v.toNat), s.badAccess_part hp 0x20,
      State.badWrite_mem .., State.badWrite_hostOut ..⟩
  · exact ⟨_, congrArg Host.Outcome.next (State.pageWrite_unaligned hboot hp rfl v.toNat), s.badAccess_part hp 0x4004,
      State.badWrite_mem .., State.badWrite_hostOut ..⟩

end

/-! The machine after reset and after its boot (19 R392, 29 R450). -/

namespace Sys2Proof.Machine

theorem State.reset_part {p : Nat} (h : p < 9) : State.reset.part p = {} :=
  (dif_pos h).trans (Vector.getElem_replicate ..)

theorem State.reset_core {b : Nat} (h : b < 160) : State.reset.core b = {} :=
  (dif_pos h).trans (Vector.getElem_replicate ..)

theorem State.reset_calendar {cls : Nat} (h : cls < 7) : State.reset.calendar[cls] = List.replicate 256 15 :=
  Vector.getElem_replicate (a := List.replicate 256 15) h

theorem State.reset_calendarNext {cls : Nat} (h : cls < 7) : State.reset.calendarNext[cls] = none :=
  Vector.getElem_replicate ..

theorem Core.default_crew (sl : Nat) : ({} : Core).crew sl = none := by
  unfold Core.crew
  split
  · exact Vector.getElem_replicate ..
  · rfl

theorem Core.default_handle (k : Nat) : ({} : Core).handle k = {} := by
  unfold Core.handle
  split
  · exact Vector.getElem_replicate ..
  · rfl

theorem Core.default_bank (k : Nat) : ({} : Core).bank k = {} := by
  unfold Core.bank
  split
  · exact Vector.getElem_replicate ..
  · rfl

theorem State.reset_bootSteps : State.reset.bootStep.bootStep.bootStep = State.reset.booted := rfl

theorem State.booted_part_zero (s : State) : s.booted.part 0 = { s.part 0 with st := 1, cores := BitVec.allOnes 160 } :=
  Vector.getElem_set_self (by decide)

theorem State.booted_part_tenant (s : State) {p : Nat} (h : 1 ≤ p) : s.booted.part p = s.part p := by
  unfold State.part
  split
  case isTrue hp => exact Vector.getElem_set_ne (by decide) hp (Nat.ne_of_lt h)
  case isFalse => rfl

theorem State.booted_calendar (s : State) {cls : Nat} (h : cls < 7) : s.booted.calendar[cls] = List.replicate 256 0 :=
  Vector.getElem_replicate ..

/-- The boot loads a key under key ID 0 and no other. -/
theorem State.booted_keyLoaded (s : State) (k : Nat) : s.booted.keyLoaded k = true ↔ k = 0 := by
  show ((0 == k) || false) = true ↔ k = 0
  rw [Bool.or_false, beq_iff_eq, eq_comm]

end Sys2Proof.Machine

section

open Sys2Proof.Machine

/-- Settles O54: every field is read off the state after reset, and off the defaults that the boot puts into it. -/
theorem resetState : Obligations.ResetState := by
  refine ⟨⟨rfl, fun p hp => ?_, fun cls h e he => ?_, fun k => rfl⟩, ?_, rfl, rfl, rfl, rfl, rfl, fun p hp => ?_, fun b hb => ?_, fun a => rfl⟩
  · rw [State.reset_part hp]
    exact ⟨rfl, rfl⟩
  · rw [State.reset_calendar h] at he
    exact (List.mem_replicate.mp he).2
  · rw [State.reset_bootSteps]
    refine ⟨rfl, rfl, rfl, fun b hb => ?_, fun p h1 h8 => ?_, rfl, rfl,
      fun cls h => ⟨State.booted_calendar _ h, State.reset_calendarNext h⟩, State.booted_keyLoaded _⟩
    · rw [State.booted_part_zero, BitVec.getLsbD_allOnes, decide_eq_true_iff]
      exact hb
    · rw [State.booted_part_tenant _ h1, State.reset_part (Nat.lt_succ_of_le h8)]
      exact ⟨rfl, rfl⟩
  · rw [State.reset_part hp]
    exact ⟨rfl, rfl, rfl, rfl, rfl, rfl, rfl⟩
  · dsimp only [State.crew, State.handle]
    rw [State.reset_core hb]
    exact ⟨rfl, fun sl _ => Core.default_crew sl, fun h _ => ⟨congrArg Handle.st (Core.default_handle h), congrArg Handle.gen (Core.default_handle h)⟩,
      rfl, rfl, fun k _ => congrArg Bank.mode (Core.default_bank k), rfl, rfl⟩

end

/-! Low power (01 R20) and the power arbiter (01 R22 to R24, 18 R373). -/

namespace Sys2Proof.Machine

theorem step_of_agenda {s : State} {a : Act} {r : List Act} (h : s.agenda = a :: r) : step s = runAct { s.tick with agenda := r } a := by
  have ht : s.tick.agenda = a :: r := h
  unfold step
  dsimp only
  rw [ht]

/-- A package asleep does nothing with a crew's slot, a step of the device, a peer's cancel or a lane's error. -/
theorem runAct_asleep {t : State} {a : Act} (hasleep : t.asleep = true) (hevent : ∀ i, a = .event i → wakes i = false)
    (hhost : ∀ x d, a ≠ .host x d) (hbad : ∀ k b, a ≠ .hostBad k b) (hread : ∀ f o n, a ≠ .read f o n) (hring : ∀ p o v, a ≠ .ring p o v)
    (hvf : ∀ f o d, a ≠ .vf f o d) (hboot : a ≠ .boot) (hstray : ∀ f o n d, a ≠ .stray f o n d) : runAct t a = .next t := by
  cases a with
  | issue b sl => exact if_pos hasleep
  | dual b sl => exact if_pos hasleep
  | event i => exact if_pos (by rw [hasleep, hevent i rfl]; rfl)
  | peerCancel b id => exact if_pos hasleep
  | vectorError b l mask => exact if_pos hasleep
  | host x d => exact absurd rfl (hhost x d)
  | hostBad k b => exact absurd rfl (hbad k b)
  | read f o n => exact absurd rfl (hread f o n)
  | ring p o v => exact absurd rfl (hring p o v)
  | vf f o d => exact absurd rfl (hvf f o d)
  | boot => exact absurd rfl hboot
  | stray f o n d => exact absurd rfl (hstray f o n d)

/-! The arbiter's interval. -/

/-- The floor of the shares, which is every core's share (log entry 36). -/
def State.arbiterFloor (s : State) : Nat := (s.limitNext * 1000 - Config.guardedNeed s.fresh) / 160

/-- What an interval makes of a core: its mask and its charge, and the raise that is left. -/
def Core.arbitrated (c : Core) (r : RailReading) (floor free : Nat) : Core :=
  { c with masked := if floor < c.draws r + c.charged then 1 + Config.freeNat free % 15 else 0, charged := c.surplus r,
           rail := { c.rail with extra := c.rail.raised.getD c.rail.v - c.rail.v } }

/-- The limit in force and the power pages of every partition. -/
def State.powerPages (s : State) (l : List RailReading) : State :=
  (List.range 9).foldl (fun (s' : State) p => s'.powerPage l s.arbiterFloor p) { s with limit := s.limitNext }

/-- An interval of the arbiter. -/
def State.arbitrated (s : State) (l : List RailReading) : State :=
  (List.range 160).foldl (fun (s' : State) b => s'.modCore b fun c => c.arbitrated (readingOf l b) s.arbiterFloor (s'.fresh + b)) (s.powerPages l)

theorem exec_powerArbiterInterval (l : List RailReading) (s : State) : exec (.powerArbiterInterval l) s = .next (s.arbitrated l) := rfl

theorem State.arbiterFloor_le (s : State) : s.arbiterFloor * 160 ≤ s.limitNext * 1000 :=
  Nat.le_trans (Nat.div_mul_le_self ..) (Nat.sub_le ..)

/-- A core is masked by at most 15 sixteenths, and not at all where it draws no more than its share. -/
theorem Core.arbitrated_masked (c : Core) (r : RailReading) (floor free : Nat) :
    (c.arbitrated r floor free).masked < 16 ∧ (c.draws r + c.charged ≤ floor → (c.arbitrated r floor free).masked = 0) := by
  refine ⟨?_, fun h => if_neg (Nat.not_lt.mpr h)⟩
  show (if _ then _ else _) < 16
  split
  · exact Nat.add_lt_add_left (Nat.mod_lt _ (by decide)) 1
  · decide

/-- An update of each of some cores, that depends on the number of the step, reaches each of them once. -/
theorem State.core_foldl_modCore (g : Nat → Nat → Core → Core) (s : State) {cs : List Nat} (hcs : cs.Nodup) {b : Nat} (hb : b < 160) :
    (cs.foldl (fun (s : State) a => s.modCore a (g s.fresh a)) s).core b = if b ∈ cs then g s.fresh b (s.core b) else s.core b := by
  induction cs generalizing s with
  | nil => rfl
  | cons a cs ih =>
    obtain ⟨ha, hcs⟩ := List.nodup_cons.mp hcs
    rw [List.foldl_cons, ih _ hcs, State.modCore_fresh]
    by_cases hab : b = a
    · subst hab
      rw [if_neg ha, if_pos List.mem_cons_self, State.core_modCore, if_pos ⟨rfl, hb⟩]
    · rw [State.core_modCore_ne _ _ hab]
      simp only [List.mem_cons, hab, false_or]

theorem State.foldl_modCore_frame (g : Nat → Nat → Core → Core) (s : State) (cs : List Nat) :
    (cs.foldl (fun (s : State) a => s.modCore a (g s.fresh a)) s).parts = s.parts ∧
      (cs.foldl (fun (s : State) a => s.modCore a (g s.fresh a)) s).limit = s.limit :=
  State.foldl_keeps (P := fun u => u.parts = s.parts ∧ u.limit = s.limit)
    (fun u a hu => ⟨(u.modCore_parts a _).trans hu.1, (u.modCore_limit a _).trans hu.2⟩) cs ⟨rfl, rfl⟩

/-- The power page of a partition at the end of an interval (18 R373): the energy of its cores is added, its queue and launches stay. -/
theorem State.powerPage_part (s : State) (l : List RailReading) (floor : Nat) {p : Nat} (hp : p < 9) :
    ((s.powerPage l floor p).part p).energy =
        min ((s.part p).energy + ((s.coresOf p).map fun b => (readingOf l b).microjoules).sum) (2 ^ 64 - 1) ∧
      ((s.powerPage l floor p).part p).queue = (s.part p).queue ∧ ((s.powerPage l floor p).part p).launches = (s.part p).launches := by
  unfold State.powerPage
  rw [State.part_modPart, if_pos ⟨rfl, hp⟩, List.sum_eq_foldl]
  exact ⟨rfl, rfl, rfl⟩

theorem State.powerPage_frame (s : State) (l : List RailReading) (floor p : Nat) :
    (s.powerPage l floor p).cores = s.cores ∧ (s.powerPage l floor p).fresh = s.fresh ∧ (s.powerPage l floor p).limit = s.limit :=
  ⟨s.modPart_cores .., s.modPart_fresh .., s.modPart_limit ..⟩

/-- A partition's page depends on that partition and on the cores alone. -/
theorem State.powerPage_part_congr {s t : State} {p : Nat} (hpart : s.part p = t.part p) (hcores : s.cores = t.cores) (l : List RailReading)
    (floor : Nat) : (s.powerPage l floor p).part p = (t.powerPage l floor p).part p := by
  have hcore : s.core = t.core := funext (State.core_of_cores_eq hcores)
  unfold State.powerPage State.coresOf
  rw [State.part_modPart, State.part_modPart, hpart, hcore]

theorem State.powerPage_part_ne (s : State) (l : List RailReading) (floor : Nat) {p q : Nat} (h : p ≠ q) :
    (s.powerPage l floor q).part p = s.part p := by
  rw [State.powerPage, State.part_modPart, if_neg fun e => h e.1]

theorem State.foldl_powerPage_part_ne (s : State) (l : List RailReading) (floor : Nat) {ps : List Nat} {p : Nat} (hp : p ∉ ps) :
    (ps.foldl (fun (s : State) q => s.powerPage l floor q) s).part p = s.part p :=
  List.foldlRecOn (motive := fun (u : State) => u.part p = s.part p) ps _ rfl fun u hu _ hq =>
    (u.powerPage_part_ne l floor (ne_of_mem_of_not_mem hq hp).symm).trans hu

/-- Each page is written once, from the partition as it was. -/
theorem State.foldl_powerPage_part (s : State) (l : List RailReading) (floor : Nat) {ps : List Nat} (hps : ps.Nodup) {p : Nat} (hp : p ∈ ps) :
    (ps.foldl (fun (s : State) q => s.powerPage l floor q) s).part p = (s.powerPage l floor p).part p := by
  induction ps generalizing s with
  | nil => exact absurd hp List.not_mem_nil
  | cons q qs ih =>
    obtain ⟨hq, hqs⟩ := List.nodup_cons.mp hps
    rw [List.foldl_cons]
    by_cases hpq : p = q
    · subst hpq
      exact State.foldl_powerPage_part_ne _ l floor hq
    · rw [ih _ hqs (List.mem_of_ne_of_mem hpq hp)]
      exact State.powerPage_part_congr (s.powerPage_part_ne l floor hpq) (s.powerPage_frame l floor q).1 l floor

theorem State.powerPages_frame (s : State) (l : List RailReading) :
    (s.powerPages l).cores = s.cores ∧ (s.powerPages l).fresh = s.fresh ∧ (s.powerPages l).limit = s.limitNext :=
  State.foldl_keeps (P := fun u => u.cores = s.cores ∧ u.fresh = s.fresh ∧ u.limit = s.limitNext)
    (fun u p ⟨hcores, hfresh, hlimit⟩ =>
      have ⟨pcores, pfresh, plimit⟩ := u.powerPage_frame l s.arbiterFloor p
      ⟨pcores.trans hcores, pfresh.trans hfresh, plimit.trans hlimit⟩) _ ⟨rfl, rfl, rfl⟩

theorem State.arbitrated_core (s : State) (l : List RailReading) {b : Nat} (hb : b < 160) :
    (s.arbitrated l).core b = (s.core b).arbitrated (readingOf l b) s.arbiterFloor (s.fresh + b) := by
  obtain ⟨hcores, hfresh, -⟩ := s.powerPages_frame l
  refine ((s.powerPages l).core_foldl_modCore (fun n b c => c.arbitrated (readingOf l b) s.arbiterFloor (n + b)) List.nodup_range hb).trans ?_
  rw [if_pos (List.mem_range.mpr hb), hfresh, State.core_of_cores_eq hcores]

theorem State.arbitrated_part (s : State) (l : List RailReading) {p : Nat} (hp : p < 9) :
    (s.arbitrated l).part p = (s.powerPage l s.arbiterFloor p).part p := by
  have hparts := ((s.powerPages l).foldl_modCore_frame (fun n b c => c.arbitrated (readingOf l b) s.arbiterFloor (n + b)) (List.range 160)).1
  refine (State.part_of_parts_eq hparts p).trans ?_
  refine (State.foldl_powerPage_part { s with limit := s.limitNext } l s.arbiterFloor List.nodup_range (List.mem_range.mpr hp)).trans ?_
  apply State.powerPage_part_congr <;> rfl

theorem State.arbitrated_limit (s : State) (l : List RailReading) : (s.arbitrated l).limit = s.limitNext :=
  ((s.powerPages l).foldl_modCore_frame (fun n b c => c.arbitrated (readingOf l b) s.arbiterFloor (n + b)) (List.range 160)).2.trans
    (s.powerPages_frame l).2.2

end Sys2Proof.Machine

section

open Sys2Proof.Machine

/-- Settles O51: a step of a sleeping package takes no move that does not wake it, and an interval of the arbiter is an update of each
core and of each power page. -/
theorem powerStates : Obligations.PowerStates := by
  intro s
  refine ⟨fun h => congrArg Host.Outcome.next (if_pos h), rfl, ?_, fun l => ⟨s.arbitrated l, s.arbiterFloor, exec_powerArbiterInterval l s,
    s.arbitrated_limit l, s.arbiterFloor_le, fun b hb => ?_, fun p hp => ?_⟩⟩
  · intro a r hasleep hagenda hevent hhost hbad hread hring hvf hboot hstray
    rw [step_of_agenda hagenda]
    exact runAct_asleep (t := { s.tick with agenda := r }) hasleep hevent hhost hbad hread hring hvf hboot hstray
  · obtain ⟨hlt, hfree⟩ := (s.core b).arbitrated_masked (readingOf l b) s.arbiterFloor (s.fresh + b)
    exact ⟨_, s.arbitrated_core l hb, hlt, hfree⟩
  · rw [s.arbitrated_part l hp]
    exact s.powerPage_part l s.arbiterFloor hp

end

/-! What a write of global memory by the MP, and the resolving of faults, leave alone: everything but memory at its home with its lines
and keys, the cores, the faults and the partitions' telemetry. -/

namespace Sys2Proof.Machine

def Partition.sansTele (x : Partition) : Partition := { x with tele := Vector.replicate 12 0 }

/-- The state but for memory at its home, the cores, the faults and the telemetry. -/
def State.sansHome (s : State) : State :=
  { s with mem := [], unitKeys := [], codeCells := [], l2 := [], revokes := [], poison := [], faults := [], cores := Vector.replicate 160 {},
           parts := s.parts.map Partition.sansTele }

theorem State.part_sansTele {s t : State} (h : t.sansHome = s.sansHome) (p : Nat) : (t.part p).sansTele = (s.part p).sansTele := by
  have hparts : t.parts.map Partition.sansTele = s.parts.map Partition.sansTele := congrArg State.parts h
  unfold State.part
  split
  case isTrue hp =>
    have := congrArg (fun v => v[p]) hparts
    simpa using this
  case isFalse => rfl

theorem State.mailbox_of_sansHome {s t : State} (h : t.sansHome = s.sansHome) : t.mailbox = s.mailbox := by
  have hfield := congrArg State.mailbox h
  exact hfield

theorem State.hostMem_of_sansHome {s t : State} (h : t.sansHome = s.sansHome) : t.hostMem = s.hostMem := by
  have hfield := congrArg State.hostMem h
  exact hfield

theorem State.nextId_of_sansHome {s t : State} (h : t.sansHome = s.sansHome) : t.nextId = s.nextId := by
  have hfield := congrArg State.nextId h
  exact hfield

theorem State.foldl_sansHome {α : Type} {f : State → α → State} (hf : ∀ s a, (f s a).sansHome = s.sansHome) (s : State) (l : List α) :
    (l.foldl f s).sansHome = s.sansHome :=
  State.foldl_keeps (P := fun u => u.sansHome = s.sansHome) (fun u a hu => (hf u a).trans hu) l rfl

theorem State.modCore_sansHome (s : State) (b : Nat) (f : Core → Core) : (s.modCore b f).sansHome = s.sansHome := by
  unfold State.modCore State.setCore
  split <;> rfl

theorem State.modPart_sansHome (s : State) (p : Nat) {f : Partition → Partition} (hf : ∀ x, (f x).sansTele = x.sansTele) :
    (s.modPart p f).sansHome = s.sansHome := by
  unfold State.modPart State.setPart
  split
  case isTrue hp =>
    have hparts : (s.parts.set p (f (s.part p))).map Partition.sansTele = s.parts.map Partition.sansTele := by
      ext i hi
      rw [Vector.getElem_map, Vector.getElem_map, Vector.getElem_set]
      split
      case isTrue e => rw [hf, State.part, dif_pos hp]; simp [e]
      case isFalse => rfl
    unfold State.sansHome
    rw [hparts]
  case isFalse => rfl

theorem State.count_sansHome (s : State) (p k n : Nat) : (s.count p k n).sansHome = s.sansHome := by
  refine s.modPart_sansHome p fun x => ?_
  split <;> rfl

theorem State.disown_sansHome (s : State) (ln : Nat) : (s.disown ln).sansHome = s.sansHome :=
  State.foldl_sansHome (fun s d => s.modCore_sansHome d _) s _

theorem State.writeBack_sansHome (s : State) (o : L2Line) : (s.writeBack o).sansHome = s.sansHome := by
  unfold State.writeBack
  split
  · rfl
  · split <;> rfl

theorem State.leaveL2_sansHome (s : State) (ln : Nat) : (s.leaveL2 ln).sansHome = s.sansHome :=
  (State.disown_sansHome _ ln).trans (State.foldl_sansHome State.writeBack_sansHome s _)

theorem State.l2Fill_sansHome (s : State) (key ln : Nat) : (s.l2Fill key ln).sansHome = s.sansHome := by
  unfold State.l2Fill
  dsimp only
  split
  · rfl
  · refine Eq.trans ?_ (s.leaveL2_sansHome ln)
    split
    · rfl
    · split
      · exact State.leaveL2_sansHome ..
      · rfl

theorem State.homePut_sansHome (s : State) (part pa : Nat) (data : List Byte) : (s.homePut part pa data).sansHome = s.sansHome := by
  unfold State.homePut
  dsimp only
  split
  · exact s.count_sansHome ..
  · refine State.foldl_sansHome (fun s u => ?_) s _
    generalize (List.range 128).map _ = d
    split <;> rfl

theorem State.modL2_sansHome (s : State) (ln : Nat) (f : L2Line → L2Line) : (s.modL2 ln f).sansHome = s.sansHome := rfl

theorem State.l2Put_sansHome (s : State) (part pa : Nat) (data : List Byte) : (s.l2Put part pa data).sansHome = s.sansHome := by
  unfold State.l2Put
  refine (State.homePut_sansHome ..).trans ?_
  split
  · exact State.foldl_sansHome (fun s ln => (State.modL2_sansHome ..).trans (s.l2Fill_sansHome _ ln)) s _
  · rfl

theorem State.mpPut_sansHome (s : State) (part pa : Nat) (data : List Byte) : (s.mpPut part pa data).sansHome = s.sansHome :=
  (State.l2Put_sansHome ..).trans (State.foldl_sansHome
    (fun s ln => (State.modL2_sansHome ..).trans (s.disown_sansHome ln)) (s.freeCode pa data.length) _)

/-- A table entry written by the MP. -/
theorem State.setPte_sansHome (s : State) (addr v : Nat) : (s.setPte addr v).sansHome = s.sansHome := s.mpPut_sansHome ..

theorem State.homeRead_sansHome (s : State) (part pa n : Nat) : (s.homeRead part pa n).1.sansHome = s.sansHome := by
  unfold State.homeRead
  dsimp only
  split
  · exact s.count_sansHome ..
  · rfl

theorem State.l2Read_sansHome (s : State) (part pa n : Nat) : (s.l2Read part pa n).1.sansHome = s.sansHome := by
  unfold State.l2Read
  refine (State.homeRead_sansHome ..).trans ?_
  split
  · exact State.foldl_sansHome (fun s ln => s.l2Fill_sansHome _ ln) s _
  · rfl

/-! Faults resolved so that their lanes and engines retry. -/

theorem State.unpark_sansHome (s : State) (rid : Nat) : (s.unpark rid).sansHome = s.sansHome :=
  State.foldl_sansHome (fun s b => s.modCore_sansHome b _) s _

theorem State.unpark_mem (s : State) (rid : Nat) : (s.unpark rid).mem = s.mem :=
  State.foldl_keeps (P := fun u => u.mem = s.mem) (fun u b hu => (u.modCore_mem b _).trans hu) _ rfl

theorem State.unwait_sansHome (s : State) (rid : Nat) (stop : Option (Nat × Nat)) : (s.unwait rid stop).sansHome = s.sansHome := rfl

theorem State.resolve_sansHome (s : State) (f : FaultRec) : (s.resolve f none).sansHome = s.sansHome := by
  unfold State.resolve
  dsimp only
  rw [State.unwait_sansHome, State.unpark_sansHome]
  rfl

theorem State.resolveFaults_sansHome (s : State) (fs : List FaultRec) : (s.resolveFaults fs fun _ => none).sansHome = s.sansHome :=
  State.foldl_sansHome State.resolve_sansHome s fs

/-! The entry of the partition table (17 R356): what it holds of a partition, and what leaves it alone. -/

/-- The fields that a partition's entry holds. -/
def Partition.entry (x : Partition) : Partition :=
  { st := x.st, flags := x.flags, cores := x.cores, urgent := x.urgent, hroot := x.hroot, groot := x.groot, tvec := x.tvec,
    stackBase := x.stackBase, stackSize := x.stackSize, copyAp := x.copyAp, templ := x.templ, keys := x.keys, tags := x.tags,
    groups := x.groups, cmdBase := x.cmdBase, cmdSize := x.cmdSize }

/-- The entries of two states are the same. -/
structure State.SameEntries (s t : State) : Prop where
  entry : ∀ p, (t.part p).entry = (s.part p).entry

theorem State.SameEntries.refl (s : State) : s.SameEntries s := ⟨fun _ => rfl⟩
theorem State.SameEntries.trans {s t u : State} (h : s.SameEntries t) (g : t.SameEntries u) : s.SameEntries u :=
  ⟨fun p => (g.entry p).trans (h.entry p)⟩
theorem State.SameEntries.of_parts {s t : State} (h : t.parts = s.parts) : s.SameEntries t :=
  ⟨fun p => congrArg Partition.entry (State.part_of_parts_eq h p)⟩

theorem State.foldl_sameEntries {α : Type} {f : State → α → State} (hf : ∀ (s : State) (a : α), s.SameEntries (f s a)) (s : State) (l : List α) :
    s.SameEntries (l.foldl f s) :=
  State.foldl_keeps (P := fun u => s.SameEntries u) (fun u a hu => hu.trans (hf u a)) l (.refl s)

/-- What an update of a partition leaves alone is the same in every partition. -/
theorem State.part_modPart_field {α : Type} (g : Partition → α) {f : Partition → Partition} (hf : ∀ x, g (f x) = g x) (s : State) (p q : Nat) :
    g ((s.modPart p f).part q) = g (s.part q) := by
  rw [State.part_modPart]
  split
  case isTrue e => rw [e.1, hf]
  case isFalse => rfl

theorem State.modPart_sameEntries (s : State) (p : Nat) {f : Partition → Partition} (hf : ∀ x, (f x).entry = x.entry) :
    s.SameEntries (s.modPart p f) := ⟨State.part_modPart_field Partition.entry hf s p⟩

theorem State.count_sameEntries (s : State) (p k n : Nat) : s.SameEntries (s.count p k n) := by
  refine s.modPart_sameEntries p fun x => ?_
  split <;> rfl

theorem State.dropAsk_sameEntries (s : State) (b sl : Nat) (lane : Option Nat) : s.SameEntries (s.dropAsk b sl lane) := by
  refine ⟨fun p => ?_⟩
  unfold State.dropAsk State.part
  split
  · rw [Vector.getElem_map]
    rfl
  · rfl

theorem State.askInv_sameEntries (s : State) (p : Nat) (stage2 : Bool) (page : Option Nat) (asker : Option (Nat × Nat × Nat)) (register : Bool)
    (next : DWord) : s.SameEntries (s.askInv p stage2 page asker register next) := by
  refine .trans (t := s.newId.2) (.of_parts rfl) ?_
  unfold State.askInv
  exact State.modPart_sameEntries _ p fun _ => rfl

theorem State.countMma_sameEntries (s : State) (o : ArrayOp) (b outcome : Nat) : s.SameEntries (s.countMma o b outcome) :=
  (((s.count_sameEntries ..).trans (State.count_sameEntries ..)).trans (State.count_sameEntries ..)).trans (State.count_sameEntries ..)

theorem State.endHandle_parts (s : State) (b k outcome detail : Nat) (fail : Option (Nat × DWord)) :
    (s.endHandle b k outcome detail fail).parts = s.parts := State.modHandle_parts ..

theorem State.endArray_sameEntries (s : State) (o : ArrayOp) (outcome addr : Nat) : s.SameEntries (s.endArray o outcome addr) := by
  unfold State.endArray
  split
  · exact .refl s
  · refine State.SameEntries.trans ?_ (.of_parts (State.endHandle_parts ..))
    split
    · exact .of_parts rfl
    · refine State.SameEntries.trans (.of_parts ?_) (State.countMma_sameEntries ..)
      refine State.foldl_keeps (P := fun u => u.parts = s.parts) (fun u k hu => (u.modCore_parts k _).trans hu) _ ?_
      rw [State.modCore_parts, State.modCrew_parts]

theorem State.memberAdds_parts (s : State) (o : ArrayOp) (n : Nat) (m : Nat × Nat) : (s.memberAdds o n m).parts = s.parts := by
  unfold State.memberAdds
  split
  · rfl
  · exact s.modCore_parts ..

theorem State.addDone_sameEntries (s : State) (o : ArrayOp) : s.SameEntries (s.addDone o) := by
  refine State.SameEntries.trans (State.foldl_sameEntries (fun s m => .of_parts ?_) s _) (State.endArray_sameEntries ..)
  dsimp only
  split
  · rw [State.modCore_parts, State.memberAdds_parts]
  · rw [State.tune, State.modCore_parts, State.modCore_parts, State.memberAdds_parts]

theorem State.forgetCore_sameEntries (s : State) (b : Nat) : s.SameEntries (s.forgetCore b) := by
  have hasks : s.SameEntries ((List.range 64).foldl (fun (s : State) sl => s.dropAsk b sl none) s) :=
    State.foldl_sameEntries (fun s sl => s.dropAsk_sameEntries b sl none) s _
  refine hasks.trans (State.SameEntries.trans (State.foldl_sameEntries (fun s a => ?_) _ _) (.of_parts (State.modCore_parts ..)))
  split
  · exact .refl s
  · split
    · exact s.addDone_sameEntries a
    · exact s.endArray_sameEntries ..

/-- A core that changes partition leaves every entry as it is. -/
theorem State.moveCore_sameEntries (s : State) (b : Nat) : s.SameEntries (s.moveCore b) := by
  refine (s.forgetCore_sameEntries b).trans (.of_parts ?_)
  unfold State.moveCore State.scrub
  rw [State.reserveDebug_parts, State.modCore_parts, State.modCore_parts]

/-- An accepted change makes the entry the one given, and a partition that was FREE ACTIVE once it has a core (R357, R452). -/
theorem State.setEntry_entry (s : State) {p : Nat} (hp : p ≤ 8) {y : Partition} (hst : y.st = (s.part p).st) :
    ((s.setEntry p y).part p).entry = { y.entry with st := if (s.part p).st = 0 ∧ y.cores ≠ 0 then 1 else (s.part p).st } := by
  have hset (x : Partition) : (s.setPart p x).part p = x := by
    rw [State.part_setPart, if_pos ⟨rfl, Nat.lt_succ_of_le hp⟩]
  have hafter (x : Partition) : (s.setPart p x).SameEntries (
      let u := (movedCores (s.part p) y).foldl State.moveCore (s.setPart p x)
      if (s.part p).cores ≠ y.cores ∨ (s.part p).keys ≠ y.keys ∨ (s.part p).hroot ≠ y.hroot then u.askInv p true none none false else u) := by
    refine (State.foldl_sameEntries State.moveCore_sameEntries (s.setPart p x) (movedCores (s.part p) y)).trans ?_
    dsimp only
    split
    · exact State.askInv_sameEntries ..
    · exact .refl _
  refine ((hafter _).entry p).trans ?_
  rw [hset]
  by_cases hfresh : (s.part p).st = 0 ∧ y.cores ≠ 0
  · rw [if_pos hfresh, if_pos (by simpa using hfresh)]
    rfl
  · rw [if_neg hfresh, if_neg (by simpa using hfresh), ← hst]
    rfl

end Sys2Proof.Machine

/-! How a mailbox command is answered (28 R442, R455). -/

namespace Sys2Proof.Machine

/-! What an interrupt and the end of a command change. -/

@[simp] theorem State.msix_mem (s : State) (fn v : Nat) : (s.msix fn v).mem = s.mem := by
  unfold State.msix; dsimp only; split <;> simp
@[simp] theorem State.msix_hostMem (s : State) (fn v : Nat) : (s.msix fn v).hostMem = s.hostMem := by
  unfold State.msix; dsimp only; split <;> simp
@[simp] theorem State.msix_cores (s : State) (fn v : Nat) : (s.msix fn v).cores = s.cores := by
  unfold State.msix; dsimp only; split <;> simp
@[simp] theorem State.msix_calendar (s : State) (fn v : Nat) : (s.msix fn v).calendar = s.calendar := by
  unfold State.msix; dsimp only; split <;> simp
@[simp] theorem State.msix_calendarNext (s : State) (fn v : Nat) : (s.msix fn v).calendarNext = s.calendarNext := by
  unfold State.msix; dsimp only; split <;> simp
@[simp] theorem State.msix_limit (s : State) (fn v : Nat) : (s.msix fn v).limit = s.limit := by
  unfold State.msix; dsimp only; split <;> simp
@[simp] theorem State.msix_limitNext (s : State) (fn v : Nat) : (s.msix fn v).limitNext = s.limitNext := by
  unfold State.msix; dsimp only; split <;> simp
@[simp] theorem State.msix_mailbox (s : State) (fn v : Nat) : (s.msix fn v).mailbox = s.mailbox := by
  unfold State.msix; dsimp only; split <;> simp

/-- An interrupt changes no more of a partition than its pending vectors. -/
theorem State.part_msix_field {α : Type} (g : Partition → α) (hg : ∀ x n, g { x with msixPend := n } = g x) (s : State) (fn v p : Nat) :
    g ((s.msix fn v).part p) = g (s.part p) := by
  unfold State.msix
  dsimp only
  split
  · exact State.part_modPart_field g (f := fun x => { x with msixPend := x.msixPend ||| 2 ^ v }) (fun x => hg x _) s fn p
  · rfl

@[simp] theorem State.mailDone_mem (s : State) (code : Nat) : (s.mailDone code).mem = s.mem := State.msix_mem ..
@[simp] theorem State.mailDone_hostMem (s : State) (code : Nat) : (s.mailDone code).hostMem = s.hostMem := State.msix_hostMem ..
@[simp] theorem State.mailDone_cores (s : State) (code : Nat) : (s.mailDone code).cores = s.cores := State.msix_cores ..
@[simp] theorem State.mailDone_calendar (s : State) (code : Nat) : (s.mailDone code).calendar = s.calendar := State.msix_calendar ..
@[simp] theorem State.mailDone_calendarNext (s : State) (code : Nat) : (s.mailDone code).calendarNext = s.calendarNext := State.msix_calendarNext ..
@[simp] theorem State.mailDone_limit (s : State) (code : Nat) : (s.mailDone code).limit = s.limit := State.msix_limit ..
@[simp] theorem State.mailDone_limitNext (s : State) (code : Nat) : (s.mailDone code).limitNext = s.limitNext := State.msix_limitNext ..
@[simp] theorem State.mailDone_mailbox (s : State) (code : Nat) :
    (s.mailDone code).mailbox = { s.mailbox with code, busy := false, cmd := [] } := State.msix_mailbox ..

theorem State.part_mailDone_field {α : Type} (g : Partition → α) (hg : ∀ x n, g { x with msixPend := n } = g x) (s : State) (code p : Nat) :
    g ((s.mailDone code).part p) = g (s.part p) :=
  State.part_msix_field g hg { s with mailbox := { s.mailbox with code, busy := false, cmd := [] } } 0 3 p

/-! Answers. -/

/-- The command at hand is one of an operation, for a partition that there is and with its reserved bytes zero. -/
def Mailbox.Asks (m : Mailbox) (op : Nat) (zero : List (Nat × Nat)) : Prop :=
  m.arg 0 1 = op ∧ m.arg 2 2 = 0 ∧ m.arg 1 1 ≤ 8 ∧ ∀ z ∈ zero, m.arg z.1 z.2 = 0

/-- An instruction ends the command with a CODE, in a state of which something holds. -/
def State.Answers (s : State) (i : Instr) (code : Nat) (holds : State → Prop) : Prop :=
  ∃ u, exec i s = .next u ∧ u.mailbox.busy = false ∧ u.mailbox.code = code ∧ holds u

/-- A command had no effect on memory, the cores, the calendar or the limit. -/
def State.SameAs (s u : State) : Prop :=
  u.mem = s.mem ∧ u.cores = s.cores ∧ u.calendarNext = s.calendarNext ∧ u.limitNext = s.limitNext

theorem State.answers_mailDone {s t : State} {i : Instr} {code : Nat} {holds : State → Prop} (hexec : exec i s = .next (t.mailDone code))
    (h : holds (t.mailDone code)) : s.Answers i code holds :=
  ⟨_, hexec, congrArg Mailbox.busy (t.mailDone_mailbox code), congrArg Mailbox.code (t.mailDone_mailbox code), h⟩

theorem State.answers_mailDone_wakeAll {s t : State} {i : Instr} {code : Nat} {holds : State → Prop}
    (hexec : exec i s = .next (t.mailDone code).wakeAll) (h : holds (t.mailDone code).wakeAll) : s.Answers i code holds :=
  ⟨_, hexec, congrArg Mailbox.busy (t.mailDone_mailbox code), congrArg Mailbox.code (t.mailDone_mailbox code), h⟩

theorem State.mailDone_sameAs (s : State) (code : Nat) : s.SameAs (s.mailDone code) := by
  simp [State.SameAs]

/-- A command that does nothing but end. -/
theorem State.answers_same {s : State} {i : Instr} {code : Nat} (hexec : exec i s = .next (s.mailDone code)) : s.Answers i code s.SameAs :=
  State.answers_mailDone hexec (s.mailDone_sameAs code)

/-- A command that a locked TDI forbids has no other effect than that on the TDI (28 R446). -/
theorem State.refuseLocked_sameAs (s : State) (ps : List Nat) : s.SameAs (s.refuseLocked ps) := by
  have hfold : s.SameAs (ps.foldl (fun (s : State) p => s.modPart p fun x => { x with tdisp := 3 }) s) :=
    State.foldl_keeps (P := s.SameAs) (fun u p hu => by simpa [State.SameAs] using hu) ps ⟨rfl, rfl, rfl, rfl⟩
  unfold State.refuseLocked
  simpa [State.SameAs] using hfold

theorem State.mail_of_asks {s : State} {op : Nat} {zero : List (Nat × Nat)} (hbusy : s.mailbox.busy = true) (h : s.mailbox.Asks op zero)
    (f : Nat → Mailbox → State) : s.mail op zero f = .next (f (s.mailbox.arg 1 1) s.mailbox) := by
  obtain ⟨hop, hreserved, hpart, hzero⟩ := h
  have hany : zero.any (fun z => s.mailbox.arg z.1 z.2 != 0) = false := by simpa using hzero
  simp [State.mail, hbusy, hop, hreserved, hany, Nat.not_lt.mpr hpart]

theorem State.mail_malformed {s : State} {op : Nat} {zero : List (Nat × Nat)} (hbusy : s.mailbox.busy = true) (hop : s.mailbox.arg 0 1 = op)
    (h : 8 < s.mailbox.arg 1 1 ∨ s.mailbox.arg 2 2 ≠ 0) (f : Nat → Mailbox → State) : s.mail op zero f = .next (s.mailDone codeBadCmd) := by
  simp [State.mail, hbusy, hop, h.symm]

/-- The operations whose requests the mailbox itself checks first. -/
def mailboxOps : List (Instr × Nat) :=
  [(.ptWrite, 1), (.ptRead, 2), (.suspend, 3), (.evacuate, 4), (.restore, 5), (.resume, 6), (.reset, 7), (.limit, 9), (.calendar, 10)]

theorem exec_mailboxOps (s : State) {i : Instr} {k : Nat} (hi : (i, k) ∈ mailboxOps) : ∃ zero f, exec i s = s.mail k zero f := by
  simp only [mailboxOps, List.mem_cons, Prod.mk.injEq, List.not_mem_nil, or_false] at hi
  rcases hi with ⟨rfl, rfl⟩ | ⟨rfl, rfl⟩ | ⟨rfl, rfl⟩ | ⟨rfl, rfl⟩ | ⟨rfl, rfl⟩ | ⟨rfl, rfl⟩ | ⟨rfl, rfl⟩ | ⟨rfl, rfl⟩ | ⟨rfl, rfl⟩
  · exact ⟨_, _, (rfl : execPtWrite s = _)⟩
  · exact ⟨_, _, (rfl : execPtRead s = _)⟩
  · exact ⟨_, _, (rfl : execSuspend s = _)⟩
  · exact ⟨_, _, (rfl : execEvacuate s = _)⟩
  · exact ⟨_, _, (rfl : execRestore s = _)⟩
  · exact ⟨_, _, (rfl : execResume s = _)⟩
  · exact ⟨_, _, (rfl : execReset s = _)⟩
  · exact ⟨_, _, (rfl : execLimit s = _)⟩
  · exact ⟨_, _, (rfl : execCalendar s = _)⟩

theorem mailboxOps_badCmd {s : State} (hbusy : s.mailbox.busy = true) (i : Instr) (k : Nat) (hi : (i, k) ∈ mailboxOps)
    (hop : s.mailbox.arg 0 1 = k) (h : 8 < s.mailbox.arg 1 1 ∨ s.mailbox.arg 2 2 ≠ 0) : s.Answers i 3 s.SameAs := by
  obtain ⟨zero, f, hexec⟩ := exec_mailboxOps s hi
  exact State.answers_same (hexec.trans (State.mail_malformed hbusy hop h f))

/-! The limit (01 R22). -/

theorem exec_limit {s : State} (hbusy : s.mailbox.busy = true) (h : s.mailbox.Asks 9 [(6, 2)]) : exec .limit s =
    .next (if s.mailbox.arg 4 2 < 1200 ∨ 3000 < s.mailbox.arg 4 2 ∨ s.mailbox.arg 4 2 % 50 ≠ 0 then s.mailDone codeBadCmd
      else { s with limitNext := s.mailbox.arg 4 2 }.mailDone codeOk) := by
  show execLimit s = _
  exact State.mail_of_asks hbusy h _

theorem limit_ok {s : State} (hbusy : s.mailbox.busy = true) (h : s.mailbox.Asks 9 [(6, 2)]) (hlow : 1200 ≤ s.mailbox.arg 4 2)
    (hhigh : s.mailbox.arg 4 2 ≤ 3000) (hstep : s.mailbox.arg 4 2 % 50 = 0) :
    s.Answers .limit 1 fun u => u.limitNext = s.mailbox.arg 4 2 ∧ u.limit = s.limit := by
  refine State.answers_mailDone ((exec_limit hbusy h).trans (congrArg _ (if_neg ?_))) ⟨State.mailDone_limitNext .., State.mailDone_limit ..⟩
  omega

theorem limit_badCmd {s : State} (hbusy : s.mailbox.busy = true) (h : s.mailbox.Asks 9 [(6, 2)])
    (hbad : s.mailbox.arg 4 2 < 1200 ∨ 3000 < s.mailbox.arg 4 2 ∨ s.mailbox.arg 4 2 % 50 ≠ 0) : s.Answers .limit 3 s.SameAs :=
  State.answers_same ((exec_limit hbusy h).trans (congrArg _ (if_pos hbad)))

/-! The partition table (17 R356, R357). -/

theorem leBytes_length (n x : Nat) : (leBytes n x).length = n := by
  induction n generalizing x with
  | zero => rfl
  | succ n ih => rw [leBytes, List.length_cons, ih]

theorem flatMap_leBytes_length (k n : Nat) (g : Nat → Nat) : ((List.range n).flatMap fun i => leBytes k (g i)).length = n * k := by
  simp [List.length_flatMap, leBytes_length]

theorem State.entryBytes_length (s : State) (p : Nat) : (s.entryBytes p).length = 512 := by
  simp only [State.entryBytes, List.length_append, leBytes_length, flatMap_leBytes_length]

/-- The entry as PT_WRITE asks for it. -/
def State.askedEntry (s : State) : Partition :=
  let m := s.mailbox
  let p := m.arg 1 1
  let off := m.arg 4 2
  let n := m.arg 6 2
  (s.part p).ofBytes ((s.entryBytes p).take off ++ (m.cmd.drop 8).take n ++ (s.entryBytes p).drop (off + n))

/-- The bytes of PT_WRITE are as many as may be, reserved bits are zero, and RO fields as they were. -/
def State.EntryAllowed (s : State) : Prop :=
  let m := s.mailbox
  let off := m.arg 4 2
  let n := m.arg 6 2
  let data := (m.cmd.drop 8).take n
  1 ≤ n ∧ n ≤ 128 ∧ off + n ≤ 512 ∧ ∀ i < n, field data i 1 &&& entryRsvd (off + i) = 0 ∧
    (entryRo (off + i) = true → field data i 1 = field (s.entryBytes (m.arg 1 1)) (off + i) 1)

/-- An allowed PT_WRITE: LOCKED before REFUSED (log entry 61), else the entry is set. -/
theorem exec_ptWrite {s : State} (hbusy : s.mailbox.busy = true) (h : s.mailbox.Asks 1 []) (hallowed : s.EntryAllowed) : exec .ptWrite s =
    .next (if s.locked (s.mailbox.arg 1 1) && touchesLocked (s.part (s.mailbox.arg 1 1)) s.askedEntry then s.refuseLocked [s.mailbox.arg 1 1]
      else if s.refusesEntry (s.mailbox.arg 1 1) s.askedEntry then s.mailDone codeRefused
      else ((s.setEntry (s.mailbox.arg 1 1) s.askedEntry).mailDone codeOk).wakeAll) := by
  obtain ⟨hmin, hmax, hend, hbits⟩ := hallowed
  show execPtWrite s = _
  rw [execPtWrite, State.mail_of_asks hbusy h]
  refine congrArg Host.Outcome.next (if_neg ?_)
  rintro (hn | hn | hn | hbad)
  · omega
  · omega
  · omega
  · obtain ⟨i, hi, hb⟩ := List.any_eq_true.mp hbad
    obtain ⟨hrsvd, hro⟩ := hbits i (List.mem_range.mp hi)
    rcases Bool.or_eq_true_iff.mp hb with hb | hb
    · exact bne_iff_ne.mp hb hrsvd
    · obtain ⟨hb, hne⟩ := Bool.and_eq_true_iff.mp hb
      exact bne_iff_ne.mp hne (hro hb)

theorem ptWrite_locked {s : State} (hbusy : s.mailbox.busy = true) (h : s.mailbox.Asks 1 []) (hallowed : s.EntryAllowed)
    (hlocked : (s.locked (s.mailbox.arg 1 1) && touchesLocked (s.part (s.mailbox.arg 1 1)) s.askedEntry) = true) :
    s.Answers .ptWrite 4 fun u => s.SameAs u ∧ (u.part (s.mailbox.arg 1 1)).tdisp = 3 := by
  have hexec := exec_ptWrite hbusy h hallowed
  rw [if_pos hlocked] at hexec
  refine State.answers_mailDone hexec ⟨s.refuseLocked_sameAs _, ?_⟩
  rw [State.part_mailDone_field Partition.tdisp (fun _ _ => rfl), List.foldl_cons, List.foldl_nil, State.part_modPart,
    if_pos ⟨rfl, Nat.lt_succ_of_le h.2.2.1⟩]

theorem ptWrite_refused {s : State} (hbusy : s.mailbox.busy = true) (h : s.mailbox.Asks 1 []) (hallowed : s.EntryAllowed)
    (hlocked : (s.locked (s.mailbox.arg 1 1) && touchesLocked (s.part (s.mailbox.arg 1 1)) s.askedEntry) = false)
    (hrefused : s.refusesEntry (s.mailbox.arg 1 1) s.askedEntry = true) : s.Answers .ptWrite 2 s.SameAs := by
  have hexec := exec_ptWrite hbusy h hallowed
  rw [hlocked, if_neg (by decide), if_pos hrefused] at hexec
  exact State.answers_same hexec

theorem ptWrite_ok {s : State} (hbusy : s.mailbox.busy = true) (h : s.mailbox.Asks 1 []) (hallowed : s.EntryAllowed)
    (hlocked : (s.locked (s.mailbox.arg 1 1) && touchesLocked (s.part (s.mailbox.arg 1 1)) s.askedEntry) = false)
    (hrefused : s.refusesEntry (s.mailbox.arg 1 1) s.askedEntry = false) : s.Answers .ptWrite 1 fun u =>
      (u.part (s.mailbox.arg 1 1)).entry = { s.askedEntry.entry with
        st := if (s.part (s.mailbox.arg 1 1)).st = 0 ∧ s.askedEntry.cores ≠ 0 then 1 else (s.part (s.mailbox.arg 1 1)).st } := by
  have hexec := exec_ptWrite hbusy h hallowed
  rw [hlocked, hrefused, if_neg (by decide), if_neg (by decide)] at hexec
  refine State.answers_mailDone_wakeAll hexec ?_
  exact (State.part_mailDone_field Partition.entry (fun _ _ => rfl) _ codeOk _).trans (s.setEntry_entry h.2.2.1 rfl)

theorem State.mailReply_resp (s : State) (data : List Byte) :
    (s.mailReply data).mailbox.resp = data ++ s.mailbox.resp.drop data.length :=
  congrArg Mailbox.resp (State.mailDone_mailbox { s with mailbox := { s.mailbox with resp := data ++ s.mailbox.resp.drop data.length } } codeOk)

theorem State.mailReply_sameAs (s : State) (data : List Byte) : s.SameAs (s.mailReply data) :=
  State.mailDone_sameAs { s with mailbox := { s.mailbox with resp := data ++ s.mailbox.resp.drop data.length } } codeOk

theorem ptRead_ok {s : State} (hbusy : s.mailbox.busy = true) (h : s.mailbox.Asks 2 []) (hmin : 1 ≤ s.mailbox.arg 6 2)
    (hmax : s.mailbox.arg 6 2 ≤ 256) (hend : s.mailbox.arg 4 2 + s.mailbox.arg 6 2 ≤ 512) : s.Answers .ptRead 1 fun u => s.SameAs u ∧
      u.mailbox.resp.take (s.mailbox.arg 6 2) = ((s.entryBytes (s.mailbox.arg 1 1)).drop (s.mailbox.arg 4 2)).take (s.mailbox.arg 6 2) := by
  have hlength : (((s.entryBytes (s.mailbox.arg 1 1)).drop (s.mailbox.arg 4 2)).take (s.mailbox.arg 6 2)).length = s.mailbox.arg 6 2 := by
    rw [List.length_take, List.length_drop, s.entryBytes_length]
    omega
  have hexec : exec .ptRead s =
      .next (s.mailReply (((s.entryBytes (s.mailbox.arg 1 1)).drop (s.mailbox.arg 4 2)).take (s.mailbox.arg 6 2))) := by
    show execPtRead s = _
    rw [execPtRead, State.mail_of_asks hbusy h]
    exact congrArg Host.Outcome.next (if_neg (by omega))
  refine State.answers_mailDone hexec ⟨s.mailReply_sameAs _, ?_⟩
  · exact (congrArg _ (State.mailReply_resp s _)).trans (List.take_left' hlength)

/-! The calendar (14 R282, R286). -/

/-- The table of a class as CALENDAR asks for it. -/
def State.askedTable (s : State) : List Nat :=
  let m := s.mailbox
  let es := calendarEntries ((m.cmd.drop 8).take 64)
  if m.arg 5 1 = 0 then es ++ (s.table (m.arg 4 1)).drop 128 else (s.table (m.arg 4 1)).take 128 ++ es

/-- A request of CALENDAR that is well formed. -/
def Mailbox.AsksTable (m : Mailbox) : Prop :=
  m.arg 4 1 ≤ 6 ∧ m.arg 5 1 ≤ 1 ∧ ∀ e ∈ calendarEntries ((m.cmd.drop 8).take 64), e < 9 ∨ e = 15

/-- The change moves slots of a partition whose TDI is locked. -/
def State.TableHeld (s : State) (q : Nat) : Prop :=
  s.locked q = true ∧ ∃ e ∈ (s.table (s.mailbox.arg 4 1)).zip s.askedTable, (e.1 = q) ≠ (e.2 = q)

/-- The change leaves a partition in use too few slots. -/
def State.TableShort (s : State) (q : Nat) : Prop := (q = 0 ∨ (s.part q).st ≠ 0) ∧ (s.askedTable.filter (· == q)).length < 8

/-- A class's next table set. -/
def State.setTable (s : State) (cls : Nat) (t : List Nat) : State := { s with calendarNext := s.calendarNext.setIfInBounds cls (some t) }

theorem State.table_setTable (s : State) {cls : Nat} (h : cls < 7) (t : List Nat) : (s.setTable cls t).table cls = t := by
  simp [State.table, State.setTable, h]

/-- The partitions whose locked slots the change moves, as CALENDAR finds them. -/
def State.tableHeld (s : State) : List Nat :=
  (List.range 9).filter fun q => s.locked q && ((s.table (s.mailbox.arg 4 1)).zip s.askedTable).any fun e => (e.1 == q) != (e.2 == q)

theorem State.mem_tableHeld (s : State) (q : Nat) : q ∈ s.tableHeld ↔ q < 9 ∧ s.TableHeld q := by
  have hne (a b : Nat) : ((a == q) != (b == q)) = true ↔ (a = q) ≠ (b = q) := by
    rw [bne_iff_ne, ne_eq, ne_eq, Bool.eq_iff_iff, beq_iff_eq, beq_iff_eq, eq_iff_iff]
  simp only [State.tableHeld, State.TableHeld, List.mem_filter, List.mem_range, Bool.and_eq_true, List.any_eq_true, hne]

theorem exec_calendar {s : State} (hbusy : s.mailbox.busy = true) (h : s.mailbox.Asks 10 [(6, 2)]) (ht : s.mailbox.AsksTable) :
    exec .calendar s = .next (if !s.tableHeld.isEmpty then s.refuseLocked s.tableHeld
      else if (List.range 9).any fun q => (q == 0 || (s.part q).st != 0) &&
        decide ((s.setTable (s.mailbox.arg 4 1) s.askedTable).slots q (s.mailbox.arg 4 1) < 8) then s.mailDone codeRefused
      else (s.setTable (s.mailbox.arg 4 1) s.askedTable).mailDone codeOk) := by
  obtain ⟨hcls, hhalf, hes⟩ := ht
  show execCalendar s = _
  rw [execCalendar, State.mail_of_asks hbusy h]
  refine congrArg Host.Outcome.next (if_neg ?_)
  rintro (hn | hn | hbad)
  · omega
  · omega
  · obtain ⟨e, he, hb⟩ := List.any_eq_true.mp hbad
    obtain ⟨hlow, hhigh⟩ := Bool.and_eq_true_iff.mp hb
    have := hes e he
    have := of_decide_eq_true hlow
    have := of_decide_eq_true hhigh
    omega

theorem State.tableHeld_isEmpty (s : State) : s.tableHeld.isEmpty = true ↔ ∀ q < 9, ¬ s.TableHeld q := by
  rw [List.isEmpty_iff, List.eq_nil_iff_forall_not_mem]
  simp only [State.mem_tableHeld, not_and]

/-- What CALENDAR computes of the slots that are left. -/
theorem State.tableShort_iff {s : State} (hcls : s.mailbox.arg 4 1 ≤ 6) : ((List.range 9).any fun q => (q == 0 || (s.part q).st != 0) &&
    decide ((s.setTable (s.mailbox.arg 4 1) s.askedTable).slots q (s.mailbox.arg 4 1) < 8)) = true ↔ ∃ q < 9, s.TableShort q := by
  simp only [State.slots, s.table_setTable (Nat.lt_succ_of_le hcls), State.TableShort, List.any_eq_true, List.mem_range, Bool.and_eq_true,
    Bool.or_eq_true, beq_iff_eq, bne_iff_ne, decide_eq_true_eq]

theorem calendar_locked {s : State} (hbusy : s.mailbox.busy = true) (h : s.mailbox.Asks 10 [(6, 2)]) (ht : s.mailbox.AsksTable)
    (hheld : ∃ q < 9, s.TableHeld q) : s.Answers .calendar 4 s.SameAs := by
  have hsome : (!s.tableHeld.isEmpty) = true := by
    obtain ⟨q, hq, hheld⟩ := hheld
    rw [Bool.not_eq_true', Bool.eq_false_iff, ne_eq, s.tableHeld_isEmpty]
    exact fun hnone => hnone q hq hheld
  have hexec := exec_calendar hbusy h ht
  rw [if_pos hsome] at hexec
  exact State.answers_mailDone hexec (s.refuseLocked_sameAs _)

theorem calendar_refused {s : State} (hbusy : s.mailbox.busy = true) (h : s.mailbox.Asks 10 [(6, 2)]) (ht : s.mailbox.AsksTable)
    (hheld : ∀ q < 9, ¬ s.TableHeld q) (hshort : ∃ q < 9, s.TableShort q) : s.Answers .calendar 2 s.SameAs := by
  have hexec := exec_calendar hbusy h ht
  rw [s.tableHeld_isEmpty.mpr hheld, if_neg (by decide), if_pos ((State.tableShort_iff ht.1).mpr hshort)] at hexec
  exact State.answers_same hexec

theorem calendar_ok {s : State} (hbusy : s.mailbox.busy = true) (h : s.mailbox.Asks 10 [(6, 2)]) (ht : s.mailbox.AsksTable)
    (hfree : ∀ q < 9, ¬ s.TableHeld q ∧ ¬ s.TableShort q) :
    s.Answers .calendar 1 fun u => u.calendar = s.calendar ∧ u.table (s.mailbox.arg 4 1) = s.askedTable := by
  have hheld : s.tableHeld.isEmpty = true := s.tableHeld_isEmpty.mpr fun q hq => (hfree q hq).1
  have hshort : ¬ ∃ q < 9, s.TableShort q := fun ⟨q, hq, hs⟩ => (hfree q hq).2 hs
  have hexec := exec_calendar hbusy h ht
  rw [hheld, if_neg (by decide), if_neg (mt (State.tableShort_iff ht.1).mp hshort)] at hexec
  refine State.answers_mailDone hexec ⟨State.mailDone_calendar .., ?_⟩
  have htable (u : State) (c : Nat) : (u.mailDone codeOk).table c = u.table c := by
    unfold State.table
    simp only [State.mailDone_calendar, State.mailDone_calendarNext]
  exact (htable _ _).trans (s.table_setTable (Nat.lt_succ_of_le ht.1) _)

/-- A class's new table takes effect, and no other (14 R286). -/
theorem exec_calendarTakeEffect {s : State} {cls : Nat} {t : List Nat} (h : cls < 7) (ht : s.calendarNext[cls] = some t) :
    exec (.calendarTakeEffect cls) s = .next { s with calendar := s.calendar.set cls t, calendarNext := s.calendarNext.set cls none } := by
  show execCalendarTakeEffect cls s = _
  unfold execCalendarTakeEffect
  rw [dif_pos h, ht]

theorem calendarTakeEffect_spec (s : State) (cls : Nat) (t : List Nat) (h : cls < 7) (ht : s.calendarNext[cls] = some t) :
    ∃ u, exec (.calendarTakeEffect cls) s = .next u ∧ u.calendar[cls] = t ∧ u.calendarNext[cls] = none ∧
      ∀ k (h : k < 7), k ≠ cls → u.calendar[k] = s.calendar[k] :=
  ⟨_, exec_calendarTakeEffect h ht, Vector.getElem_set_self h, Vector.getElem_set_self h, fun _ hk hne => Vector.getElem_set_ne h hk hne.symm⟩

end Sys2Proof.Machine

/-! The UNIFIED commands (17 R355, 28 R442, R455). -/

namespace Sys2Proof.Machine

/-! Bytes. -/

theorem leNat_leBytes (n x : Nat) : leNat (leBytes n x) = x % 256 ^ n := by
  induction n generalizing x with
  | zero => simp [leBytes, leNat, Nat.mod_one]
  | succ n ih =>
    have hpow : 256 ^ (n + 1) = 256 * 256 ^ n := Nat.pow_succ'
    rw [leBytes, leNat, ih, hpow, Nat.mod_mul (x := x)]
    rfl

/-! Pages and what is behind them. -/

theorem Partition.backed_put (x : Partition) (g g' b : Nat) :
    ({ x with backing := (g, b) :: x.backing.filter fun c => c.1 != g } : Partition).backed g' = if g' = g then some b else x.backed g' := by
  unfold Partition.backed
  by_cases hg : g' = g
  · simp [hg]
  · have hfind : (x.backing.filter fun c => c.1 != g).find? (fun e => e.1 == g') = x.backing.find? fun e => e.1 == g' := by
      rw [List.find?_filter]
      congr 1
      funext e
      by_cases he : e.1 = g' <;> simp [he, hg]
    simp [hfind, hg, Ne.symm hg]

/-- Of a table entry that is reached, the leaf of the page is the entry. -/
theorem leafOf_of_leafSlot {rd : Nat → Nat} {gpa fuel level table a e : Nat} (h : leafSlot rd gpa fuel level table = some (a, e)) :
    leafOf rd gpa fuel level table = some e := by
  induction fuel generalizing level table with
  | zero => exact absurd h (by simp [leafSlot])
  | succ fuel ih =>
    unfold leafSlot at h
    unfold leafOf
    dsimp only at h ⊢
    split
    case isTrue hlevel =>
      rw [if_pos hlevel] at h
      exact congrArg (Option.map Prod.snd) h
    case isFalse hlevel =>
      rw [if_neg hlevel] at h
      split at h
      case isTrue hnext =>
        obtain ⟨⟨hv, ht⟩, hm⟩ : (pteV _ = true ∧ pteT _ = true) ∧ _ := by simpa only [Bool.and_eq_true] using hnext
        rw [hv, hm, ht, if_pos rfl, if_pos (by decide)]
        exact ih h
      case isFalse => exact absurd h (by simp)

theorem State.leafOf_of_pageEntry {s : State} {p g a e : Nat} (h : s.pageEntry p g = some (a, e)) :
    p ≠ 0 ∧ leafOf s.pte g 5 1 (s.part p).hroot = some e := by
  unfold State.pageEntry at h
  split at h
  · exact absurd h (by simp)
  · exact ⟨by assumption, leafOf_of_leafSlot h⟩

/-- A page whose level-1 entry is not valid has no leaf. -/
theorem leafOf_invalid {rd : Nat → Nat} {gpa table : Nat} (h : pteV (rd (table + 8 * ptIndex 1 gpa)) = false) : leafOf rd gpa 5 1 table = none := by
  unfold leafOf
  dsimp only
  rw [if_neg (by decide), h]
  rfl

/-- The pages of a request: the first, and others. -/
theorem unifiedPages_cons {m : Mailbox} {ps : List Nat} (h : unifiedPages m = some ps) :
    4096 ≤ m.arg 16 8 ∧ ∃ rest, ps = m.arg 8 8 :: rest ∧ m.arg 8 8 ∉ rest := by
  unfold unifiedPages at h
  dsimp only at h
  split at h
  · exact absurd h (by simp)
  · rename_i hwf
    obtain ⟨k, hk⟩ : ∃ k, m.arg 16 8 / 4096 = k + 1 := ⟨m.arg 16 8 / 4096 - 1, by omega⟩
    rw [hk, List.range_succ_eq_map, List.map_cons, Option.some.injEq] at h
    refine ⟨by omega, _, h.symm, fun hmem => ?_⟩
    obtain ⟨j, hj, he⟩ := List.mem_map.mp hmem
    obtain ⟨i, -, rfl⟩ := List.mem_map.mp hj
    omega

theorem hostPa_of_aligned {bus n : Nat} (haligned : bus % 4096 = 0) (hn : 4096 ≤ n) (hend : bus + n ≤ 2 ^ 46) :
    hostPa bus = (2 ^ 47 + bus) / 4096 * 4096 := by
  unfold hostPa
  omega

theorem pteV_eq (e : Nat) : pteV e = decide (e % 2 = 1) := by
  unfold pteV bit
  rw [Nat.testBit_zero]

/-! A UNIFIED command that is well formed. -/

theorem State.unified_of_asks {s : State} {sub : Nat} {zero : List (Nat × Nat)} {ps : List Nat} (hbusy : s.mailbox.busy = true)
    (h : s.mailbox.Asks 11 ((6, 2) :: zero)) (hsub : s.mailbox.arg 4 1 = sub) (hps : unifiedPages s.mailbox = some ps)
    (f : Nat → Mailbox → List Nat → State) : s.unified sub zero f = .next (f (s.mailbox.arg 1 1) s.mailbox ps) := by
  unfold State.unified
  rw [if_neg (not_not_intro hsub), State.mail_of_asks hbusy h, hps]

/-! MAP. -/

/-- MAP of one page, the n-th, to host memory. -/
def State.mapPage (s : State) (p bus : Nat) (x : Nat × Nat) : State :=
  match s.pageEntry p x.2 with
  | some (addr, _) =>
    let b := bus + 4096 * x.1
    (s.setPte addr (hostPa b + 2 ^ 8 + 12)).modPart p fun y => { y with backing := (x.2, b) :: y.backing.filter fun c => c.1 != x.2 }
  | none => s

/-- A page can be mapped: its level-5 entry is empty, or the hypervisor left it for a page that nothing is behind. -/
def State.mappable (s : State) (p g : Nat) : Bool :=
  match s.pageEntry p g with
  | some (_, e) => !pteV e && !(pteUni e && ((s.part p).backed g).isSome)
  | none => false

theorem State.mappable_iff (s : State) (p g : Nat) : s.mappable p g = true ↔
    ∃ a e, s.pageEntry p g = some (a, e) ∧ pteV e = false ∧ (pteUni e = false ∨ (s.part p).backed g = none) := by
  unfold State.mappable
  cases h : s.pageEntry p g with
  | none => simp
  | some x =>
    obtain ⟨a, e⟩ := x
    cases (s.part p).backed g <;> simp

theorem exec_unifiedMap {s : State} {ps : List Nat} (hbusy : s.mailbox.busy = true) (h : s.mailbox.Asks 11 [(6, 2), (5, 1)])
    (hsub : s.mailbox.arg 4 1 = 0) (hps : unifiedPages s.mailbox = some ps) (haligned : s.mailbox.arg 24 8 % 4096 = 0)
    (hend : s.mailbox.arg 24 8 + s.mailbox.arg 16 8 ≤ 2 ^ 46) : exec .unifiedMap s =
    .next (if !ps.all (s.mappable (s.mailbox.arg 1 1)) then s.mailDone codeRefused
      else (((List.range ps.length).zip ps).foldl (fun (s' : State) x => s'.mapPage (s.mailbox.arg 1 1) (s.mailbox.arg 24 8) x) s).mailDone codeOk) := by
  show execUnifiedMap s = _
  rw [execUnifiedMap, State.unified_of_asks hbusy h hsub hps]
  exact congrArg Host.Outcome.next (if_neg (by omega))

theorem unifiedMap_refused {s : State} {ps : List Nat} (hbusy : s.mailbox.busy = true) (h : s.mailbox.Asks 11 [(6, 2), (5, 1)])
    (hsub : s.mailbox.arg 4 1 = 0) (hps : unifiedPages s.mailbox = some ps) (haligned : s.mailbox.arg 24 8 % 4096 = 0)
    (hend : s.mailbox.arg 24 8 + s.mailbox.arg 16 8 ≤ 2 ^ 46) (hnone : ∃ g ∈ ps, s.pageEntry (s.mailbox.arg 1 1) g = none) :
    s.Answers .unifiedMap 2 s.SameAs := by
  obtain ⟨g, hg, hnone⟩ := hnone
  have hnot : (!ps.all (s.mappable (s.mailbox.arg 1 1))) = true := by
    rw [Bool.not_eq_true', List.all_eq_false]
    refine ⟨g, hg, fun hm => ?_⟩
    obtain ⟨a, e, he, -⟩ := (s.mappable_iff _ g).mp hm
    exact absurd (hnone.symm.trans he) (by simp)
  have hexec := exec_unifiedMap hbusy h hsub hps haligned hend
  rw [if_pos hnot] at hexec
  exact State.answers_same hexec

theorem State.part_setPte_field {α : Type} (g : Partition → α) (hg : ∀ x, g x.sansTele = g x) (s : State) (addr v p : Nat) :
    g ((s.setPte addr v).part p) = g (s.part p) := by
  rw [← hg, State.part_sansTele (s.setPte_sansHome addr v), hg]

theorem State.mapPage_of_entry {s : State} {p bus : Nat} {x : Nat × Nat} {a e : Nat} (h : s.pageEntry p x.2 = some (a, e)) :
    s.mapPage p bus x = (s.setPte a (hostPa (bus + 4096 * x.1) + 2 ^ 8 + 12)).modPart p fun y =>
      { y with backing := (x.2, bus + 4096 * x.1) :: y.backing.filter fun c => c.1 != x.2 } := by
  unfold State.mapPage
  rw [h]

/-- What is behind the pages of a partition after one of them is mapped. -/
theorem State.mapPage_backed {s : State} {p bus : Nat} (hp : p ≤ 8) {x : Nat × Nat} {a e : Nat} (h : s.pageEntry p x.2 = some (a, e)) (g : Nat) :
    ((s.mapPage p bus x).part p).backed g = if g = x.2 then some (bus + 4096 * x.1) else (s.part p).backed g := by
  rw [State.mapPage_of_entry h, State.part_modPart, if_pos ⟨rfl, Nat.lt_succ_of_le hp⟩, Partition.backed_put]
  exact ite_congr rfl (fun _ => rfl) fun _ => s.part_setPte_field (fun x => x.backed g) (fun _ => rfl) ..

/-- Mapping a page leaves what is behind another. -/
theorem State.mapPage_backed_ne {s : State} {p bus g : Nat} (hp : p ≤ 8) {x : Nat × Nat} (hx : x.2 ≠ g) :
    ((s.mapPage p bus x).part p).backed g = (s.part p).backed g := by
  cases h : s.pageEntry p x.2 with
  | none => rw [State.mapPage, h]
  | some y => rw [State.mapPage_backed hp h, if_neg hx.symm]

theorem unifiedMap_ok {s : State} {ps : List Nat} (hbusy : s.mailbox.busy = true) (h : s.mailbox.Asks 11 [(6, 2), (5, 1)])
    (hsub : s.mailbox.arg 4 1 = 0) (hps : unifiedPages s.mailbox = some ps) (haligned : s.mailbox.arg 24 8 % 4096 = 0)
    (hend : s.mailbox.arg 24 8 + s.mailbox.arg 16 8 ≤ 2 ^ 46)
    (hfree : ∀ g ∈ ps, ∃ a e, s.pageEntry (s.mailbox.arg 1 1) g = some (a, e) ∧ pteV e = false ∧
      (pteUni e = false ∨ (s.part (s.mailbox.arg 1 1)).backed g = none)) :
    s.Answers .unifiedMap 1 fun u => (u.part (s.mailbox.arg 1 1)).backed (ps.headD 0) = some (s.mailbox.arg 24 8) ∧
      ∀ g a e, ps = [g] → s.pageEntry (s.mailbox.arg 1 1) g = some (a, e) →
        u.mem = (s.setPte a ((2 ^ 47 + s.mailbox.arg 24 8) / 4096 * 4096 + 2 ^ 8 + 12)).mem := by
  have hp := h.2.2.1
  generalize hpart : s.mailbox.arg 1 1 = p at *
  generalize hbus : s.mailbox.arg 24 8 = bus at *
  obtain ⟨hlen, rest, hcons, hfirst⟩ := unifiedPages_cons hps
  have hall : (!ps.all (s.mappable p)) = false := by
    rw [Bool.not_eq_false', List.all_eq_true]
    exact fun g hg => (s.mappable_iff p g).mpr (hfree g hg)
  have hexec := exec_unifiedMap hbusy h hsub hps (hbus ▸ haligned) (hbus ▸ hend)
  rw [hpart, hbus, hall, if_neg (by decide)] at hexec
  refine State.answers_mailDone hexec ⟨?_, fun g a e hone he => ?_⟩
  · obtain ⟨a, e, he, -⟩ := hfree (s.mailbox.arg 8 8) (hcons ▸ List.mem_cons_self)
    refine (State.part_mailDone_field (fun x => x.backed (ps.headD 0)) (fun _ _ => rfl) _ codeOk p).trans ?_
    rw [hcons, List.length_cons, List.range_succ_eq_map, List.zip_cons_cons, List.foldl_cons, List.headD_cons]
    refine List.foldlRecOn (motive := fun (u : State) => (u.part p).backed (s.mailbox.arg 8 8) = some bus) _ _ ?_ fun u hu x hx => ?_
    · rw [State.mapPage_backed (x := (0, s.mailbox.arg 8 8)) hp he, if_pos rfl, Nat.mul_zero, Nat.add_zero]
    · have hne : x.2 ≠ s.mailbox.arg 8 8 := fun heq => hfirst (heq ▸ (List.of_mem_zip hx).2)
      rw [State.mapPage_backed_ne hp hne, hu]
  · rw [State.mailDone_mem]
    subst hone
    simp only [List.length_singleton, List.range_one, List.zip_cons_cons, List.zip_nil_left, List.foldl_cons, List.foldl_nil]
    rw [State.mapPage_of_entry (x := (0, g)) he, State.modPart_mem, Nat.mul_zero, Nat.add_zero bus, hostPa_of_aligned haligned hlen hend]

/-! MIGRATE. -/

/-- A page of a range that goes to HBM4, unless it is there or on its way. -/
def State.bringIn (s : State) (p g : Nat) : State :=
  match s.pageEntry p g, (s.part p).backed g with
  | some (addr, e), some bus =>
    if pteV e || (s.part p).moving.any (fun m => m.1 == g) then s else { (s.pageIn p g bus addr e) with fresh := s.fresh + 1 }
  | _, _ => s

/-- A page's leaf is valid: the page is in HBM4. -/
def State.pageValid (s : State) (p g : Nat) : Bool := ((s.pageEntry p g).map fun e => pteV e.2).getD false

/-- A page of a range that starts on its way to host memory. -/
def State.startOut (s : State) (p g : Nat) : State :=
  match s.pageEntry p g with
  | some (addr, e) => s.pageLeave p g addr e
  | none => s

/-- A page of a range that ends its way to host memory. -/
def State.endOut (s : State) (p g : Nat) : State :=
  match s.pageEntry p g, (s.part p).backed g with
  | some (addr, e), some bus => if (s.part p).moving.any fun m => m.1 == g then s.pageOut p g bus addr e else s
  | _, _ => s

/-- A page that a MIGRATE can name. -/
def State.unifiedPage (s : State) (p g : Nat) : Bool := (s.pageEntry p g).isSome && ((s.part p).backed g).isSome

/-- MIGRATE of a range. -/
def State.migrate (s : State) (p target : Nat) (ps : List Nat) : State :=
  if 1 < target then s.mailDone codeBadCmd
  else if !ps.all (s.unifiedPage p) then s.mailDone codeRefused
  else if target = 1 then ((ps.foldl (fun (s : State) g => s.bringIn p g) s).mailDone codeOk).wakeAll
  else if !(ps.filter (s.pageValid p)).isEmpty then (ps.filter (s.pageValid p)).foldl (fun (s : State) g => s.startOut p g) s
  else if ps.any (s.part p).invalidating then s
  else ((ps.foldl (fun (s : State) g => s.endOut p g) s).mailDone codeOk).wakeAll

theorem exec_unifiedMigrate {s : State} {ps : List Nat} (hbusy : s.mailbox.busy = true) (h : s.mailbox.Asks 11 [(6, 2), (24, 8)])
    (hsub : s.mailbox.arg 4 1 = 1) (hps : unifiedPages s.mailbox = some ps) :
    exec .unifiedMigrate s = .next (s.migrate (s.mailbox.arg 1 1) (s.mailbox.arg 5 1) ps) := by
  show execUnifiedMigrate s = _
  rw [execUnifiedMigrate, State.unified_of_asks hbusy h hsub hps]
  rfl

theorem State.unifiedPage_iff (s : State) (p g : Nat) :
    s.unifiedPage p g = true ↔ ∃ a e bus, s.pageEntry p g = some (a, e) ∧ (s.part p).backed g = some bus := by
  simp [State.unifiedPage, Option.isSome_iff_exists]

theorem State.pageValid_of_entry {s : State} {p g a e : Nat} (h : s.pageEntry p g = some (a, e)) : s.pageValid p g = pteV e := by
  rw [State.pageValid, h]
  rfl

/-- A page that is in HBM4 is not brought there. -/
theorem State.bringIn_of_valid {s : State} {p g a e : Nat} (h : s.pageEntry p g = some (a, e)) (hv : pteV e = true) : s.bringIn p g = s := by
  unfold State.bringIn
  rw [h]
  cases (s.part p).backed g with
  | none => rfl
  | some bus => exact if_pos (by rw [hv]; rfl)

/-- A page that is not on its way to host memory does not arrive there. -/
theorem State.endOut_of_still {s : State} {p g : Nat} (h : ∀ z ∈ (s.part p).moving, z.1 ≠ g) : s.endOut p g = s := by
  have hany : (s.part p).moving.any (fun m => m.1 == g) = false := by simpa using h
  unfold State.endOut
  rw [hany]
  split <;> rfl

theorem Partition.invalidating_of_still {x : Partition} {g : Nat} (h : ∀ z ∈ x.moving, z.1 ≠ g) : x.invalidating g = false := by
  unfold Partition.invalidating
  rw [List.any_eq_false]
  intro z hz
  simp [h z hz]

/-- What leaves the state as it is for every element of a list, leaves it so for the list. -/
theorem State.foldl_fixed {α : Type} {f : State → α → State} {s : State} {l : List α} (h : ∀ a ∈ l, f s a = s) : l.foldl f s = s :=
  List.foldlRecOn (motive := fun (u : State) => u = s) l f rfl fun _ hu a ha => by rw [hu, h a ha]

theorem unifiedMigrate_badCmd {s : State} {ps : List Nat} (hbusy : s.mailbox.busy = true) (h : s.mailbox.Asks 11 [(6, 2), (24, 8)])
    (hsub : s.mailbox.arg 4 1 = 1) (hps : unifiedPages s.mailbox = some ps) (ht : 1 < s.mailbox.arg 5 1) :
    s.Answers .unifiedMigrate 3 s.SameAs :=
  State.answers_same ((exec_unifiedMigrate hbusy h hsub hps).trans (congrArg _ (if_pos ht)))

theorem unifiedMigrate_refused {s : State} {ps : List Nat} (hbusy : s.mailbox.busy = true) (h : s.mailbox.Asks 11 [(6, 2), (24, 8)])
    (hsub : s.mailbox.arg 4 1 = 1) (hps : unifiedPages s.mailbox = some ps) (ht : s.mailbox.arg 5 1 ≤ 1)
    (hnone : ∃ g ∈ ps, s.pageEntry (s.mailbox.arg 1 1) g = none ∨ (s.part (s.mailbox.arg 1 1)).backed g = none) :
    s.Answers .unifiedMigrate 2 s.SameAs := by
  obtain ⟨g, hg, hnone⟩ := hnone
  have hnot : (!ps.all (s.unifiedPage (s.mailbox.arg 1 1))) = true := by
    rw [Bool.not_eq_true', List.all_eq_false]
    refine ⟨g, hg, ?_⟩
    rcases hnone with hnone | hnone <;> simp [State.unifiedPage, hnone]
  have hexec := exec_unifiedMigrate hbusy h hsub hps
  rw [State.migrate, if_neg (Nat.not_lt.mpr ht), if_pos hnot] at hexec
  exact State.answers_same hexec

/-- MIGRATE of pages that are where it would take them. -/
theorem unifiedMigrate_ok {s : State} {ps : List Nat} (hbusy : s.mailbox.busy = true) (h : s.mailbox.Asks 11 [(6, 2), (24, 8)])
    (hsub : s.mailbox.arg 4 1 = 1) (hps : unifiedPages s.mailbox = some ps) (ht : s.mailbox.arg 5 1 ≤ 1)
    (hthere : ∀ g ∈ ps, (∀ z ∈ (s.part (s.mailbox.arg 1 1)).moving, z.1 ≠ g) ∧ ∃ a e bus, s.pageEntry (s.mailbox.arg 1 1) g = some (a, e) ∧
      (s.part (s.mailbox.arg 1 1)).backed g = some bus ∧ (pteV e = true ↔ s.mailbox.arg 5 1 = 1)) :
    s.Answers .unifiedMigrate 1 fun u => u.mem = s.mem ∧ u.hostMem = s.hostMem := by
  have hexec := exec_unifiedMigrate hbusy h hsub hps
  generalize s.mailbox.arg 1 1 = p at *
  have hall : (!ps.all (s.unifiedPage p)) = false := by
    rw [Bool.not_eq_false', List.all_eq_true]
    intro g hg
    obtain ⟨-, a, e, bus, he, hbus, -⟩ := hthere g hg
    exact (s.unifiedPage_iff p g).mpr ⟨a, e, bus, he, hbus⟩
  suffices hstays : s.migrate p (s.mailbox.arg 5 1) ps = (s.mailDone codeOk).wakeAll from
    State.answers_mailDone_wakeAll (hexec.trans (congrArg _ hstays)) ⟨s.mailDone_mem _, s.mailDone_hostMem _⟩
  rw [State.migrate, if_neg (Nat.not_lt.mpr ht), hall, if_neg (by decide)]
  by_cases hin : s.mailbox.arg 5 1 = 1
  · have hfold : ps.foldl (fun (s : State) g => s.bringIn p g) s = s := State.foldl_fixed fun g hg => by
      obtain ⟨-, a, e, bus, he, -, hv⟩ := hthere g hg
      exact State.bringIn_of_valid he (hv.mpr hin)
    rw [if_pos hin, hfold]
  · have hnone : ps.filter (s.pageValid p) = [] := List.filter_eq_nil_iff.mpr fun g hg => by
      obtain ⟨-, a, e, bus, he, -, hv⟩ := hthere g hg
      rw [State.pageValid_of_entry he]
      exact mt hv.mp hin
    have hstill : ps.any (s.part p).invalidating = false := List.any_eq_false.mpr fun g hg => by
      rw [Partition.invalidating_of_still (hthere g hg).1]
      decide
    have hfold : ps.foldl (fun (s : State) g => s.endOut p g) s = s :=
      State.foldl_fixed fun g hg => State.endOut_of_still (hthere g hg).1
    rw [if_neg hin, hnone, if_neg (by decide), hstill, if_neg (by decide), hfold]

/-- The request for the invalidation of a page that leaves HBM4. -/
def leaveRequest (id g : Nat) : InvReq :=
  { id, stage2 := true, page := some g, asker := none, register := false, sent := false, left := [], quar := 0, next := 0 }

theorem State.setPte_nextId (s : State) (addr v : Nat) : (s.setPte addr v).nextId = s.nextId :=
  State.nextId_of_sansHome (s.setPte_sansHome addr v)

theorem State.setPte_mailbox (s : State) (addr v : Nat) : (s.setPte addr v).mailbox = s.mailbox :=
  State.mailbox_of_sansHome (s.setPte_sansHome addr v)

theorem State.setPte_hostMem (s : State) (addr v : Nat) : (s.setPte addr v).hostMem = s.hostMem :=
  State.hostMem_of_sansHome (s.setPte_sansHome addr v)

theorem State.pageLeave_eq (s : State) (p g addr e : Nat) : s.pageLeave p g addr e =
    (({ s.setPte addr (e - e % 2) with nextId := (s.setPte addr (e - e % 2)).nextId + 1 } : State).modPart p fun x =>
      { x with invs := x.invs ++ [leaveRequest (s.setPte addr (e - e % 2)).nextId g] }).modPart p fun x =>
        { x with moving := x.moving ++ [(g, s.nextId)] } := rfl

theorem State.pageLeave_frame (s : State) (p g addr e : Nat) : (s.pageLeave p g addr e).mailbox = s.mailbox ∧
    (s.pageLeave p g addr e).hostMem = s.hostMem ∧ (s.pageLeave p g addr e).mem = (s.setPte addr (e - e % 2)).mem := by
  rw [State.pageLeave_eq]
  exact ⟨(State.modPart_mailbox ..).trans ((State.modPart_mailbox ..).trans (s.setPte_mailbox ..)),
    (State.modPart_hostMem ..).trans ((State.modPart_hostMem ..).trans (s.setPte_hostMem ..)), (State.modPart_mem ..).trans (State.modPart_mem ..)⟩

theorem State.pageLeave_part (s : State) {p : Nat} (hp : p ≤ 8) (g addr e : Nat) :
    ((s.pageLeave p g addr e).part p).invs = (s.part p).invs ++ [leaveRequest s.nextId g] ∧
      ((s.pageLeave p g addr e).part p).moving = (s.part p).moving ++ [(g, s.nextId)] := by
  have hinvs := s.part_setPte_field Partition.invs (fun _ => rfl) addr (e - e % 2) p
  have hmoving := s.part_setPte_field Partition.moving (fun _ => rfl) addr (e - e % 2) p
  rw [State.pageLeave_eq, State.part_modPart, if_pos ⟨rfl, Nat.lt_succ_of_le hp⟩, State.part_modPart, if_pos ⟨rfl, Nat.lt_succ_of_le hp⟩,
    State.setPte_nextId, ← hinvs, ← hmoving]
  exact ⟨rfl, rfl⟩

/-- MIGRATE to host memory of a page that is in HBM4: the leaf is made invalid, and the translations' invalidation is asked for. -/
theorem unifiedMigrate_leave {s : State} (hbusy : s.mailbox.busy = true) (h : s.mailbox.Asks 11 [(6, 2), (24, 8)])
    (hsub : s.mailbox.arg 4 1 = 1) {g a e bus : Nat} (hps : unifiedPages s.mailbox = some [g]) (ht : s.mailbox.arg 5 1 = 0)
    (he : s.pageEntry (s.mailbox.arg 1 1) g = some (a, e)) (hbus : (s.part (s.mailbox.arg 1 1)).backed g = some bus) (hv : pteV e = true) :
    ∃ u q, exec .unifiedMigrate s = .next u ∧ u.mailbox = s.mailbox ∧ u.hostMem = s.hostMem ∧ u.mem = (s.setPte a (e - 1)).mem ∧
      (u.part (s.mailbox.arg 1 1)).invs = (s.part (s.mailbox.arg 1 1)).invs ++ [q] ∧ q.stage2 = true ∧ q.page = some g ∧ q.sent = false ∧
      (u.part (s.mailbox.arg 1 1)).moving = (s.part (s.mailbox.arg 1 1)).moving ++ [(g, q.id)] := by
  have hexec := exec_unifiedMigrate hbusy h hsub hps
  have hp := h.2.2.1
  generalize s.mailbox.arg 1 1 = p at *
  have hpage : s.unifiedPage p g = true := (s.unifiedPage_iff p g).mpr ⟨a, e, bus, he, hbus⟩
  have hvalid : [g].filter (s.pageValid p) = [g] := List.filter_cons_of_pos ((State.pageValid_of_entry he).trans hv)
  have hmigrate : s.migrate p 0 [g] = s.pageLeave p g a e := by
    rw [State.migrate, if_neg (by decide), List.all_cons, hpage, List.all_nil, if_neg (by decide), if_neg (by decide), hvalid,
      List.isEmpty_cons, if_pos (by decide), List.foldl_cons, List.foldl_nil, State.startOut, he]
  have hbit : e - e % 2 = e - 1 := by
    rw [pteV_eq, decide_eq_true_iff] at hv
    rw [hv]
  obtain ⟨hmailbox, hhost, hmem⟩ := s.pageLeave_frame p g a e
  obtain ⟨hinvs, hmoving⟩ := s.pageLeave_part hp g a e
  rw [ht, hmigrate] at hexec
  exact ⟨_, leaveRequest s.nextId g, hexec, hmailbox, hhost, hbit ▸ hmem, hinvs, rfl, rfl, rfl, hmoving⟩

/-- The host memory that a page has left for. -/
theorem State.pageOut_hostMem (s : State) (p g bus addr e : Nat) :
    (s.pageOut p g bus addr e).hostMem = memWrite s.hostMem bus (s.l2Read p (pteOa e % 2 ^ 48) 4096).2.1 := by
  have hread : (s.l2Read p (pteOa e % 2 ^ 48) 4096).1.hostMem = s.hostMem := 
    State.hostMem_of_sansHome (s.l2Read_sansHome ..)
  rw [← hread]
  unfold State.pageOut
  dsimp only
  exact (State.hostMem_of_sansHome (State.resolveFaults_sansHome ..)).trans
    ((State.modPart_hostMem ..).trans (State.setPte_hostMem ..))

/-- A page that has left is on its way no more. -/
theorem State.pageOut_moving (s : State) {p : Nat} (hp : p ≤ 8) (g bus addr e : Nat) : ∀ z ∈ ((s.pageOut p g bus addr e).part p).moving, z.1 ≠ g := by
  unfold State.pageOut
  dsimp only
  intro z hz
  rw [← show ∀ x : Partition, x.sansTele.moving = x.moving from fun _ => rfl, State.part_sansTele (State.resolveFaults_sansHome ..),
    State.part_modPart, if_pos ⟨rfl, Nat.lt_succ_of_le hp⟩] at hz
  exact bne_iff_ne.mp (List.mem_filter.mp hz).2

/-- MIGRATE to host memory of a page whose invalidation is done: its data are in host memory, and it is on its way no more. -/
theorem unifiedMigrate_arrive {s : State} (hbusy : s.mailbox.busy = true) (h : s.mailbox.Asks 11 [(6, 2), (24, 8)])
    (hsub : s.mailbox.arg 4 1 = 1) {g a e bus : Nat} (hps : unifiedPages s.mailbox = some [g]) (ht : s.mailbox.arg 5 1 = 0)
    (he : s.pageEntry (s.mailbox.arg 1 1) g = some (a, e)) (hbus : (s.part (s.mailbox.arg 1 1)).backed g = some bus) (hv : pteV e = false)
    (hmoving : ∃ z ∈ (s.part (s.mailbox.arg 1 1)).moving, z.1 = g) (hdone : (s.part (s.mailbox.arg 1 1)).invalidating g = false) :
    s.Answers .unifiedMigrate 1 fun u =>
      u.hostMem = memWrite s.hostMem bus (s.l2Read (s.mailbox.arg 1 1) (pteOa e % 2 ^ 48) 4096).2.1 ∧
        ∀ z ∈ (u.part (s.mailbox.arg 1 1)).moving, z.1 ≠ g := by
  have hexec := exec_unifiedMigrate hbusy h hsub hps
  have hp := h.2.2.1
  generalize s.mailbox.arg 1 1 = p at *
  have hpage : s.unifiedPage p g = true := (s.unifiedPage_iff p g).mpr ⟨a, e, bus, he, hbus⟩
  have hinvalid : [g].filter (s.pageValid p) = [] := List.filter_cons_of_neg (by rw [State.pageValid_of_entry he, hv]; decide)
  have hany : (s.part p).moving.any (fun m => m.1 == g) = true := by simpa using hmoving
  have hmigrate : s.migrate p 0 [g] = ((s.pageOut p g bus a e).mailDone codeOk).wakeAll := by
    rw [State.migrate, if_neg (by decide), List.all_cons, hpage, List.all_nil, if_neg (by decide), if_neg (by decide), hinvalid,
      if_neg (by decide), List.any_cons, hdone, List.any_nil, if_neg (by decide), List.foldl_cons, List.foldl_nil, State.endOut, he, hbus]
    dsimp only
    rw [if_pos hany]
  rw [ht, hmigrate] at hexec
  refine State.answers_mailDone_wakeAll hexec ⟨(State.mailDone_hostMem ..).trans (s.pageOut_hostMem ..), ?_⟩
  intro z hz
  have hfield := State.part_mailDone_field Partition.moving (fun _ _ => rfl) (s.pageOut p g bus a e) codeOk p
  exact s.pageOut_moving hp g bus a e z (hfield ▸ hz)

/-! QUERY. -/

theorem unifiedQuery_ok {s : State} {ps : List Nat} (hbusy : s.mailbox.busy = true) (h : s.mailbox.Asks 11 [(6, 2), (5, 1), (24, 8)])
    (hsub : s.mailbox.arg 4 1 = 2) (hps : unifiedPages s.mailbox = some ps) : s.Answers .unifiedQuery 1 fun u => s.SameAs u ∧
      leNat (u.mailbox.resp.take 8) = (if s.mailbox.arg 1 1 = 0 then 0
        else (leafOf s.pte (ps.headD 0) 5 1 (s.part (s.mailbox.arg 1 1)).hroot).getD 0) % 2 ^ 64 ∧
      (∀ a e, s.pageEntry (s.mailbox.arg 1 1) (ps.headD 0) = some (a, e) → leNat (u.mailbox.resp.take 8) = e % 2 ^ 64) ∧
      (1 ≤ s.mailbox.arg 1 1 → pteV (s.pte ((s.part (s.mailbox.arg 1 1)).hroot + 8 * ptIndex 1 (ps.headD 0))) = false →
        leNat (u.mailbox.resp.take 8) = 0) := by
  have hexec : exec .unifiedQuery s = .next (s.mailReply (leBytes 8 (if s.mailbox.arg 1 1 = 0 then 0
      else (leafOf s.pte (ps.headD 0) 5 1 (s.part (s.mailbox.arg 1 1)).hroot).getD 0))) := by
    show execUnifiedQuery s = _
    rw [execUnifiedQuery, State.unified_of_asks hbusy h hsub hps]
  generalize s.mailbox.arg 1 1 = p at *
  generalize hleaf : (if p = 0 then 0 else (leafOf s.pte (ps.headD 0) 5 1 (s.part p).hroot).getD 0) = v at *
  have hresp : leNat ((s.mailReply (leBytes 8 v)).mailbox.resp.take 8) = v % 2 ^ 64 := by
    rw [State.mailReply_resp, List.take_left' (leBytes_length 8 v), leNat_leBytes]
    rfl
  refine State.answers_mailDone hexec ⟨s.mailReply_sameAs _, hresp, fun a e he => hresp.trans ?_, fun hp htop => hresp.trans ?_⟩
  · obtain ⟨hp, he⟩ := State.leafOf_of_pageEntry he
    rw [← hleaf, if_neg hp, he]
    rfl
  · rw [← hleaf, if_neg (Nat.ne_of_gt hp), leafOf_invalid htop]
    rfl

end Sys2Proof.Machine

section

open Sys2Proof.Machine

/-- Settles O48: each command is brought to its meaning (`exec_…`), and its answers are read off that, case by case of its own checks. -/
theorem mailboxCommands : Obligations.MailboxCommands := by
  refine ⟨fun s hbusy => ?_, calendarTakeEffect_spec⟩
  intro m p op answers same off n
  refine ⟨mailboxOps_badCmd hbusy, ?ptWrite, ptRead_ok hbusy, fun h => ⟨limit_ok hbusy h, limit_badCmd hbusy h⟩, ?calendar,
    fun ps hps => ⟨?map, ?migrate, fun h hsub => unifiedQuery_ok hbusy h hsub hps⟩⟩
  case ptWrite =>
    intro h hmin hmax hend data old y hbits locked
    have hallowed : s.EntryAllowed := ⟨hmin, hmax, hend, hbits⟩
    refine ⟨ptWrite_locked hbusy h hallowed, ptWrite_refused hbusy h hallowed, fun hlocked hrefused => ?_⟩
    obtain ⟨u, hexec, hdone, hcode, hentry⟩ := ptWrite_ok hbusy h hallowed hlocked hrefused
    refine ⟨u, hexec, hdone, hcode, ?_⟩
    have field {α : Type} (g : Partition → α) : g (u.part p).entry = g _ := congrArg g hentry
    exact ⟨field Partition.flags, field Partition.cores, field Partition.urgent, field Partition.hroot, field Partition.groot,
      field Partition.tvec, field Partition.stackBase, field Partition.stackSize, field Partition.copyAp, field Partition.templ,
      field Partition.keys, field Partition.tags, field Partition.groups, field Partition.cmdBase, field Partition.cmdSize, field Partition.st⟩
  case calendar =>
    intro h cls half es new held short hcls hhalf hes
    have ht : s.mailbox.AsksTable := ⟨hcls, hhalf, hes⟩
    exact ⟨calendar_locked hbusy h ht, calendar_refused hbusy h ht, calendar_ok hbusy h ht⟩
  case map =>
    intro h hsub bus haligned hend
    exact ⟨unifiedMap_refused hbusy h hsub hps haligned hend, unifiedMap_ok hbusy h hsub hps haligned hend⟩
  case migrate =>
    intro h hsub
    refine ⟨unifiedMigrate_badCmd hbusy h hsub hps, unifiedMigrate_refused hbusy h hsub hps, unifiedMigrate_ok hbusy h hsub hps, ?_⟩
    intro g a e bus ht hone he hbus
    subst hone
    exact ⟨unifiedMigrate_leave hbusy h hsub hps ht he hbus, unifiedMigrate_arrive hbusy h hsub hps ht he hbus⟩

end

/-! Instructions beyond the lane, over the lanes of a bundle (03 R67, 02 R48, 16 R318): each lane that acts receives its change and goes
on, its shadow with it. -/

namespace Sys2Proof.Machine

theorem Core.setCrew_setCrew (c : Core) (sl : Nat) (x y : Option Crew) : (c.setCrew sl x).setCrew sl y = c.setCrew sl y := by
  unfold Core.setCrew
  split
  · simp
  · rfl

theorem State.modCore_modCore (s : State) (b : Nat) (f g : Core → Core) : (s.modCore b f).modCore b g = s.modCore b fun c => g (f c) := by
  unfold State.modCore
  by_cases h : b < 160
  · simp [State.setCore, State.core, h]
  · simp [State.setCore, h]

theorem State.setCrew_setCrew (s : State) (b sl : Nat) (x y : Option Crew) : (s.setCrew b sl x).setCrew b sl y = s.setCrew b sl y := by
  unfold State.setCrew
  rw [State.modCore_modCore]
  simp only [Core.setCrew_setCrew]

theorem Core.setCrew_crew (c : Core) (sl : Nat) : c.setCrew sl (c.crew sl) = c := by
  unfold Core.setCrew Core.crew
  split <;> simp

theorem State.setCrew_crew {s : State} {b sl : Nat} {x : Option Crew} (h : s.crew b sl = x) : s.setCrew b sl x = s := by
  subst h
  unfold State.setCrew State.modCore State.crew
  simp only [Core.setCrew_crew]
  unfold State.setCore State.core
  split <;> simp

theorem State.modThread_of_crew {s : State} {b sl : Nat} {c : Crew} (h : s.crew b sl = some c) (l : Nat) (f : Thread → Thread) :
    s.modThread b sl l f = s.setCrew b sl (some (c.modThread l f)) := by
  unfold State.modThread State.modCrew
  rw [h]

theorem State.laneThread_of_crew {s : State} {x : Lane} {c : Crew} (h : s.crew x.core x.slot = some c) : s.laneThread x = c.thread x.lane := by
  rw [State.laneThread, State.thread_eq, h]
  rfl

theorem State.crew_setCrew_self {s : State} {b sl : Nat} {c : Crew} (h : s.crew b sl = some c) (x : Option Crew) :
    (s.setCrew b sl x).crew b sl = x := by
  rw [State.crew_setCrew, if_pos ⟨rfl, rfl, State.crew_lt h⟩]

/-- A crew that differs from another in its threads alone. -/
def Crew.Alike (c c' : Crew) : Prop := c' = { c with threads := c'.threads }

theorem Crew.Alike.refl (c : Crew) : c.Alike c := rfl
theorem Crew.Alike.trans {c d e : Crew} (h : c.Alike d) (g : d.Alike e) : c.Alike e := by
  unfold Crew.Alike at *
  rw [g, h]
theorem Crew.Alike.team {c c' : Crew} (h : c.Alike c') : c'.team = c.team := by
  rw [h]

theorem Crew.modThread_alike (c : Crew) (l : Nat) (f : Thread → Thread) : c.Alike (c.modThread l f) := by
  unfold Crew.Alike Crew.modThread Crew.setThread
  split <;> rfl

theorem State.teams_setCrew (s : State) (b sl b' : Nat) (x : Option Crew) : ((s.setCrew b sl x).core b').teams = (s.core b').teams :=
  s.core_modCore_field Core.teams (fun k => k.setCrew_teams sl x) b b'

/-- Who a slot's crew is does not depend on its threads. -/
theorem State.hdrOf_setCrew {s : State} {b sl : Nat} {c c' : Crew} (h : s.crew b sl = some c) (ha : c.Alike c') :
    (s.setCrew b sl (some c')).hdrOf b sl = s.hdrOf b sl := by
  have hteam : (s.setCrew b sl (some c')).teamOf b sl = s.teamOf b sl := by
    unfold State.teamOf
    rw [State.crew_setCrew_self h, h]
    dsimp only
    rw [ha.team]
    unfold Core.team
    rw [State.teams_setCrew]
  have hlaunch (p id : Nat) : (s.setCrew b sl (some c')).launch p id = s.launch p id := by
    unfold State.launch
    rw [State.part_of_parts_eq (State.setCrew_parts ..)]
  unfold State.hdrOf
  rw [hteam]
  simp only [hlaunch]

theorem Crew.Alike.ext {c d e : Crew} (hd : c.Alike d) (he : c.Alike e) (h : ∀ k < 32, d.thread k = e.thread k) : d = e := by
  have hthreads : d.threads = e.threads := by
    ext1 k hk
    simpa [Crew.thread, hk] using h k hk
  rw [hd, he, hthreads]

/-- A lane has received a change and goes on at an address; in paired-lane mode its shadow receives the same change and stands where the
lane does (02 R48). -/
def Crew.sendOn (c : Crew) (pair : Bool) (l : Nat) (f : Thread → Thread) (pc : DWord) : Crew :=
  let v := (f (c.thread l)).goto pc
  let c := c.setThread l v
  if pair then c.modThread (l + 1) fun u => { (f u).goto pc with regionPc := v.regionPc, miss := v.miss } else c

theorem Crew.sendOn_alike (c : Crew) (pair : Bool) (l : Nat) (f : Thread → Thread) (pc : DWord) : c.Alike (c.sendOn pair l f pc) := by
  unfold Crew.sendOn
  have h := c.modThread_alike l fun t => (f t).goto pc
  split
  · exact h.trans (Crew.modThread_alike ..)
  · exact h

theorem Crew.thread_sendOn (c : Crew) (pair : Bool) {l k : Nat} (f : Thread → Thread) (pc : DWord) (hl : l < 32)
    (hs : pair = true → l % 2 = 0) :
    (c.sendOn pair l f pc).thread k =
      if k = l then (f (c.thread l)).goto pc
      else if pair = true ∧ k = l + 1 then
        { (f (c.thread k)).goto pc with regionPc := (f (c.thread l)).regionPc, miss := (f (c.thread l)).miss }
      else c.thread k := by
  unfold Crew.sendOn
  cases pair
  · simp [hl]
  · have hodd : l + 1 < 32 := by have := hs rfl; omega
    by_cases hk : k = l
    · simp [hk, hl]
    · by_cases hk' : k = l + 1
      · simp [hk', hl, hodd]
      · simp [hk, hk']

/-- A lane that is done and jumps, as its crew stands after it. -/
theorem State.leave_both {s : State} {x : Lane} {c : Crew} (h : s.crew x.core x.slot = some c) (next : DWord) (f : Thread → Thread)
    (pc : DWord) (hl : x.lane < 32) (hs : (s.hdrOf x.core x.slot).pair = true → x.lane % 2 = 0) :
    (s.both x f).leave x next (.jump pc) = (s.setCrew x.core x.slot (some (c.sendOn (s.hdrOf x.core x.slot).pair x.lane f pc)), false) := by
  have hdr {d : Crew} (hd : c.Alike d) := State.hdrOf_setCrew h hd
  have mod (d : Crew) := State.modThread_of_crew (State.crew_setCrew_self h (some d))
  have hlane := c.modThread_alike x.lane f
  unfold State.leave State.both State.laneThread
  rw [State.modThread_of_crew h]
  cases hp : (s.hdrOf x.core x.slot).pair
  · simp only [hdr hlane, hp, mod, State.setCrew_setCrew, hdr (hlane.trans (Crew.modThread_alike ..)), Bool.false_eq_true, ↓reduceIte]
    congr 3
    refine (hlane.trans (Crew.modThread_alike ..)).ext (c.sendOn_alike ..) fun k _ => ?_
    rw [Crew.thread_sendOn _ _ _ _ hl (by simp)]
    by_cases hk : k = x.lane <;> simp [hk, hl]
  · have heven := hs hp
    have hshadow := hlane.trans (Crew.modThread_alike (l := x.lane + 1) (f := f) ..)
    simp only [hdr hlane, hdr (hshadow.trans (Crew.modThread_alike ..)), hp, mod, State.setCrew_setCrew, State.thread_eq,
      State.crew_setCrew_self h, ↓reduceIte]
    congr 3
    refine ((hshadow.trans (Crew.modThread_alike ..)).trans (Crew.modThread_alike ..)).ext (c.sendOn_alike ..) fun k _ => ?_
    rw [Crew.thread_sendOn _ _ _ _ hl (fun _ => heven)]
    have : x.lane + 1 < 32 := by omega
    by_cases hk : k = x.lane
    · simp [hk, hl]
    · by_cases hk' : k = x.lane + 1
      · simp [hk', hl, this, Thread.goto]
      · simp [hk, hk']

theorem State.leave_next (s : State) (x : Lane) (next : DWord) : s.leave x next .next = s.leave x next (.jump next) := rfl

/-- A lane whose guard is false goes on at the next instruction. -/
theorem State.leave_same {s : State} {x : Lane} {c : Crew} (h : s.crew x.core x.slot = some c) (next : DWord) (hl : x.lane < 32)
    (hs : (s.hdrOf x.core x.slot).pair = true → x.lane % 2 = 0) :
    s.leave x next .next = (s.setCrew x.core x.slot (some (c.sendOn (s.hdrOf x.core x.slot).pair x.lane id next)), false) := by
  have hid : s.both x id = s := by
    have hmod (l : Nat) : s.modThread x.core x.slot l id = s := by
      rw [State.modThread_of_crew h]
      refine State.setCrew_crew (h.trans (congrArg some ((Crew.Alike.refl c).ext (c.modThread_alike l id) fun k _ => ?_)))
      rw [Crew.thread_modThread]
      split
      case isTrue e => rw [e.1]; rfl
      case isFalse => rfl
    unfold State.both
    simp only [hmod, ite_self]
  rw [State.leave_next]
  conv_lhs => rw [← hid]
  exact State.leave_both h next id next hl hs

/-- A crew whose lanes of a list have gone on one after another, each with its change and to its address. -/
def Crew.sendAll (c : Crew) (pair : Bool) (lanes : List Nat) (f : Nat → Thread → Thread) (pc : Nat → DWord) : Crew :=
  lanes.foldl (fun c l => c.sendOn pair l (f l) (pc l)) c

theorem Crew.sendAll_alike (c : Crew) (pair : Bool) (lanes : List Nat) (f : Nat → Thread → Thread) (pc : Nat → DWord) :
    c.Alike (c.sendAll pair lanes f pc) := by
  unfold Crew.sendAll
  induction lanes generalizing c with
  | nil => exact .refl c
  | cons l lanes ih => exact (c.sendOn_alike ..).trans (ih _)

/-- The lanes of a bundle: each once, and in paired-lane mode visible lanes alone. -/
structure LanesOk (pair : Bool) (lanes : List Nat) : Prop where
  lt : ∀ l ∈ lanes, l < 32
  nodup : lanes.Nodup
  even : pair = true → ∀ l ∈ lanes, l % 2 = 0

theorem LanesOk.tail {pair : Bool} {l : Nat} {lanes : List Nat} (h : LanesOk pair (l :: lanes)) : LanesOk pair lanes where
  lt k hk := h.lt k (List.mem_cons_of_mem l hk)
  nodup := (List.nodup_cons.mp h.nodup).2
  even hp k hk := h.even hp k (List.mem_cons_of_mem l hk)

/-- A lane that is neither the first nor its shadow is as it was. -/
theorem Crew.thread_sendOn_other (c : Crew) {pair : Bool} {l k : Nat} (f : Thread → Thread) (pc : DWord) (hl : l < 32)
    (hs : pair = true → l % 2 = 0) (hk : ¬ TakesPart pair [l] k) : (c.sendOn pair l f pc).thread k = c.thread k := by
  rw [Crew.thread_sendOn c pair f pc hl hs, if_neg, if_neg]
  · rintro ⟨hp, rfl⟩
    have := hs hp
    exact hk (.inr ⟨hp, by omega, by simp⟩)
  · rintro rfl
    exact hk (.inl (by simp))

theorem Crew.thread_sendAll (c : Crew) {pair : Bool} {lanes : List Nat} (h : LanesOk pair lanes) (f : Nat → Thread → Thread)
    (pc : Nat → DWord) (k : Nat) :
    (k ∈ lanes → (c.sendAll pair lanes f pc).thread k = (f k (c.thread k)).goto (pc k)) ∧
    (k ∉ lanes → pair = true ∧ k % 2 = 1 ∧ k - 1 ∈ lanes → (c.sendAll pair lanes f pc).thread k =
      { (f (k - 1) (c.thread k)).goto (pc (k - 1)) with
        regionPc := (f (k - 1) (c.thread (k - 1))).regionPc, miss := (f (k - 1) (c.thread (k - 1))).miss }) ∧
    (¬ TakesPart pair lanes k → (c.sendAll pair lanes f pc).thread k = c.thread k) := by
  induction lanes generalizing c with
  | nil => simp [Crew.sendAll]
  | cons l lanes ih =>
    obtain ⟨ihLane, ihShadow, ihOther⟩ := ih (c.sendOn pair l (f l) (pc l)) h.tail
    have hl := h.lt l (by simp)
    have heven (hp : pair = true) : l % 2 = 0 := h.even hp l (by simp)
    have hnot : l ∉ lanes := (List.nodup_cons.mp h.nodup).1
    have other {j : Nat} (hj : ¬ TakesPart pair [l] j) := c.thread_sendOn_other (f l) (pc l) hl heven hj
    show (_ → ((c.sendOn pair l (f l) (pc l)).sendAll pair lanes f pc).thread k = _) ∧ (_ → _ → (Crew.sendAll _ pair lanes f pc).thread k = _) ∧
      (_ → (Crew.sendAll _ pair lanes f pc).thread k = _)
    refine ⟨fun hk => ?_, fun hk ⟨hp, hodd, hv⟩ => ?_, fun hk => ?_⟩
    · rcases List.mem_cons.mp hk with rfl | hk
      · rw [ihOther, Crew.thread_sendOn _ _ _ _ hl heven, if_pos rfl]
        rintro (hmem | ⟨hp, hodd, -⟩)
        · exact hnot hmem
        · have := heven hp
          omega
      · rw [ihLane hk, other]
        rintro (hmem | ⟨hp, hodd, -⟩)
        · exact hnot (List.mem_singleton.mp hmem ▸ hk)
        · have := h.even hp k (List.mem_cons_of_mem l hk)
          omega
    · have hkl : k ≠ l := fun e => hk (by simp [e])
      rcases List.mem_cons.mp hv with rfl | hv
      · rw [ihOther, Crew.thread_sendOn _ _ _ _ hl heven, if_neg hkl, if_pos ⟨hp, by omega⟩]
        rintro (hmem | ⟨-, -, hmem⟩)
        · exact hk (List.mem_cons_of_mem _ hmem)
        · exact hnot hmem
      · have hvl : k - 1 ≠ l := fun e => hnot (e ▸ hv)
        rw [ihShadow (fun hmem => hk (List.mem_cons_of_mem l hmem)) ⟨hp, hodd, hv⟩, other, other]
        · rintro (hmem | ⟨-, hodd', -⟩)
          · exact hvl (List.mem_singleton.mp hmem)
          · omega
        · rintro (hmem | ⟨-, -, hmem⟩)
          · exact hkl (List.mem_singleton.mp hmem)
          · exact hvl (List.mem_singleton.mp hmem)
    · have hkl : k ≠ l := fun e => hk (.inl (by simp [e]))
      rw [ihOther, other]
      · rintro (hmem | ⟨hp, hodd, hmem⟩)
        · exact hkl (List.mem_singleton.mp hmem)
        · exact hk (.inr ⟨hp, hodd, by simp [List.mem_singleton.mp hmem]⟩)
      · rintro (hmem | ⟨hp, hodd, hmem⟩)
        · exact hk (.inl (List.mem_cons_of_mem l hmem))
        · exact hk (.inr ⟨hp, hodd, List.mem_cons_of_mem l hmem⟩)

/-- A lane instruction at work in a bundle: in every state that differs from `s` in other lanes' threads alone, a lane that acts has
received its change and jumps, and one that passes goes on. -/
def LaneForm.SendsOn (f : LaneForm) (o : Enc) (s : State) (cur : Cur) (c : Crew) (act : Nat → Thread → Thread) (dest : Nat → DWord) : Prop :=
  ∀ l ∈ cur.lanes, ∀ c' : Crew, c.Alike c' → c'.thread l = c.thread l →
    let u := s.setCrew cur.core cur.slot (some c')
    let x : Lane := ⟨cur.core, cur.slot, l⟩
    if o.guard f.short (c.thread l) then f.lane o u x = (u.both x (act l), .jump (dest l)) else f.lane o u x = (u, .next)

section
variable {f : LaneForm} {o : Enc} {s : State} {cur : Cur} {c : Crew} {act : Nat → Thread → Thread} {dest : Nat → DWord}

/-- What a lane of the bundle receives, and where it goes on. -/
def LaneForm.change (f : LaneForm) (o : Enc) (c : Crew) (act : Nat → Thread → Thread) (l : Nat) : Thread → Thread :=
  if o.guard f.short (c.thread l) then act l else id
def LaneForm.goal (f : LaneForm) (o : Enc) (cur : Cur) (c : Crew) (dest : Nat → DWord) (l : Nat) : DWord :=
  if o.guard f.short (c.thread l) then dest l else cur.pc + BitVec.ofNat 64 o.bytes

theorem LaneForm.step_sendsOn (hcrew : s.crew cur.core cur.slot = some c) (hf : f.SendsOn o s cur c act dest) {l : Nat} (hl : l ∈ cur.lanes)
    (hlt : l < 32) (heven : (s.hdrOf cur.core cur.slot).pair = true → l % 2 = 0) {c' : Crew} (ha : c.Alike c')
    (hsame : c'.thread l = c.thread l) {a : Bundle} (hs : a.s = s.setCrew cur.core cur.slot (some c')) :
    f.step o cur a l = { a with s := s.setCrew cur.core cur.slot (some (c'.sendOn (s.hdrOf cur.core cur.slot).pair l
      (f.change o c act l) (f.goal o cur c dest l))) } := by
  have hcrew' := State.crew_setCrew_self hcrew (some c')
  have hhdr := State.hdrOf_setCrew hcrew ha
  have hlane := hf l hl c' ha hsame
  unfold LaneForm.step LaneForm.change LaneForm.goal
  rw [hs]
  dsimp only at hlane ⊢
  by_cases hg : o.guard f.short (c.thread l) = true
  · rw [if_pos hg] at hlane
    rw [hlane, if_pos hg, if_pos hg]
    dsimp only
    rw [State.leave_both (x := ⟨cur.core, cur.slot, l⟩) hcrew' _ _ _ hlt (by rwa [hhdr])]
    simp [hhdr, State.setCrew_setCrew]
  · rw [if_neg hg] at hlane
    rw [hlane, if_neg hg, if_neg hg]
    dsimp only
    rw [State.leave_same (x := ⟨cur.core, cur.slot, l⟩) hcrew' _ hlt (by rwa [hhdr])]
    simp [hhdr, State.setCrew_setCrew]

theorem LaneForm.foldl_step_sendsOn (hcrew : s.crew cur.core cur.slot = some c) (hf : f.SendsOn o s cur c act dest)
    {lanes : List Nat} (hlanes : LanesOk (s.hdrOf cur.core cur.slot).pair lanes) (hsub : ∀ l ∈ lanes, l ∈ cur.lanes) {c' : Crew}
    (ha : c.Alike c') (hsame : ∀ l ∈ lanes, c'.thread l = c.thread l) {a : Bundle} (hs : a.s = s.setCrew cur.core cur.slot (some c')) :
    lanes.foldl (f.step o cur) a = { a with s := s.setCrew cur.core cur.slot (some (c'.sendAll (s.hdrOf cur.core cur.slot).pair lanes
      (f.change o c act) (f.goal o cur c dest))) } := by
  induction lanes generalizing c' a with
  | nil => rw [List.foldl_nil, Crew.sendAll, List.foldl_nil, ← hs]
  | cons l lanes ih =>
    have hlt := hlanes.lt l (by simp)
    have heven (hp : (s.hdrOf cur.core cur.slot).pair = true) : l % 2 = 0 := hlanes.even hp l (by simp)
    rw [List.foldl_cons, LaneForm.step_sendsOn hcrew hf (hsub l (by simp)) hlt heven ha (hsame l (by simp)) hs]
    refine ih hlanes.tail (fun k hk => hsub k (List.mem_cons_of_mem l hk)) (ha.trans (Crew.sendOn_alike ..)) (fun k hk => ?_) rfl
    rw [c'.thread_sendOn_other _ _ hlt heven, hsame k (List.mem_cons_of_mem l hk)]
    rintro (hmem | ⟨hp, hodd, -⟩)
    · exact (List.nodup_cons.mp hlanes.nodup).1 (List.mem_singleton.mp hmem ▸ hk)
    · have := hlanes.even hp k (List.mem_cons_of_mem l hk)
      omega

/-- After the lanes of a bundle that lost no team and touched no watched byte, none of them marked. -/
theorem Bundle.close_unmarked {a : Bundle} (hlost : a.lost = false) (hhits : a.hits = [])
    (h : ∀ l ∈ cur.lanes, (a.s.thread cur.core cur.slot l).haltMark = false ∧ (a.s.thread cur.core cur.slot l).stepMark = false) :
    a.close cur = a.s.settle cur.core cur.slot := by
  unfold Bundle.close State.watchHits
  simp only [hlost, hhits, Bool.false_eq_true, ↓reduceIte, List.isEmpty_nil]
  rw [State.afterLanes_unmarked _ _ _ _ h]

/-- The bundle's lanes have all gone on. -/
theorem State.laneInstr_sendsOn (hat : AtHand s cur c) (hlanes : LanesOk (s.hdrOf cur.core cur.slot).pair cur.lanes)
    (hf : f.SendsOn o s cur c act dest)
    (hmark : ∀ l t, (act l t).haltMark = t.haltMark ∧ (act l t).stepMark = t.stepMark) :
    s.laneInstr o f = (s.setCrew cur.core cur.slot (some (c.sendAll (s.hdrOf cur.core cur.slot).pair cur.lanes (f.change o c act)
      (f.goal o cur c dest)))).settle cur.core cur.slot := by
  obtain ⟨hcur, hcrew, hready⟩ := hat
  unfold State.laneInstr
  rw [hcur]
  dsimp only
  rw [LaneForm.foldl_step_sendsOn hcrew hf hlanes (fun _ => id) (.refl c) (fun _ _ => rfl) (State.setCrew_crew hcrew).symm,
    Bundle.close_unmarked rfl rfl]
  intro l hl
  obtain ⟨-, hhalt, hstep, -⟩ := hready l hl
  dsimp only
  rw [State.thread_eq, State.crew_setCrew_self hcrew, Option.map_some, Option.getD_some, (c.thread_sendAll hlanes _ _ l).1 hl,
    Thread.goto_haltMark, Thread.goto_stepMark]
  unfold LaneForm.change
  split
  · rw [(hmark l _).1, (hmark l _).2]
    exact ⟨hhalt, hstep⟩
  · exact ⟨hhalt, hstep⟩
end

/-- A form whose body changes the lane's thread and its shadow's alike, by `act`, and jumps, lets every lane go on. -/
theorem lanesGoOn_of_body (i : Instr) (o : Enc) (f : LaneForm) (can : State → Lane → Thread → Prop) (act eff : State → Lane → Thread → Thread)
    (dest : State → Lane → Thread → DWord) (he : ∀ s, exec i s = .next (s.laneInstr o f)) (hpass : f.pass = fun s _ => (s, .next))
    (hmark : ∀ s x t, (act s x t).haltMark = t.haltMark ∧ (act s x t).stepMark = t.stepMark)
    (heff : ∀ s x t pc, (act s x t).goto pc = (eff s x t).goto pc)
    (hbody : ∀ (s : State) (x : Lane) (c c' : Crew), s.crew x.core x.slot = some c → c.Alike c' → c'.thread x.lane = c.thread x.lane →
      can s x (c.thread x.lane) → let u := s.setCrew x.core x.slot (some c')
      f.body u x = (u.both x (act s x), .jump (dest s x (c.thread x.lane)))) :
    LanesGoOn i o f.sOnly.isSome f.short f.srcs f.dst f.preds can eff dest := by
  intro s cur c hat hnodup heven hop
  have ⟨hcur, hcrew, hready⟩ := hat
  have hlanes : LanesOk (s.hdrOf cur.core cur.slot).pair cur.lanes := ⟨fun l hl => (hready l hl).1, hnodup, heven⟩
  have hsends : f.SendsOn o s cur c (fun l => act s ⟨cur.core, cur.slot, l⟩) (fun l => dest s ⟨cur.core, cur.slot, l⟩ (c.thread l)) := by
    intro l hl c' ha hsame
    obtain ⟨⟨hguard, hfate⟩, hpriv, hcan⟩ := hop l hl
    have hthread : (s.setCrew cur.core cur.slot (some c')).laneThread ⟨cur.core, cur.slot, l⟩ = c.thread l :=
      (State.laneThread_of_crew (State.crew_setCrew_self hcrew _)).trans hsame
    have hwait : ((o.guardPreds f.short).any fun p => (c.thread l).predWait.contains p) = false := by
      simpa using hguard
    have hsOnly : (f.sOnly.isSome && !(c.thread l).priv) = false := by
      cases h : f.sOnly.isSome <;> simp [h, hpriv]
    unfold LaneForm.lane
    simp only [hthread, hwait, hsOnly, hpass, Bool.false_eq_true, ↓reduceIte]
    cases hg : o.guard f.short (c.thread l)
    · rfl
    · simp only [hfate hg, Bool.not_true, Bool.false_eq_true, ↓reduceIte]
      exact hbody s ⟨cur.core, cur.slot, l⟩ c c' hcrew ha hsame (hcan hg)
  refine ⟨_, (he s).trans (congrArg Host.Outcome.next (State.laneInstr_sendsOn hat hlanes hsends fun l => hmark s _)), c.sendAll_alike .., fun l hl => ?_⟩
  have hthreads := c.thread_sendAll hlanes (f.change o c fun l => act s ⟨cur.core, cur.slot, l⟩)
    (f.goal o cur c fun l => dest s ⟨cur.core, cur.slot, l⟩ (c.thread l))
  obtain ⟨hlane, hshadow, hother⟩ := hthreads l
  refine ⟨fun hl => ?_, fun hl hpair => ?_, fun hl hpair => hother (not_or.mpr ⟨hl, hpair⟩)⟩
  · rw [hlane hl]
    unfold LaneForm.change LaneForm.goal
    split
    · exact heff ..
    · rfl
  · rw [hshadow hl hpair, (hthreads (l - 1)).1 hpair.2.2]
    unfold LaneForm.change LaneForm.goal
    split
    · have hregion := fun t => congrArg Thread.regionPc (heff s ⟨cur.core, cur.slot, l - 1⟩ t 0)
      have hmiss := fun t => congrArg Thread.miss (heff s ⟨cur.core, cur.slot, l - 1⟩ t 0)
      simp only [Thread.goto_regionPc, Thread.goto_miss] at hregion hmiss
      rw [heff, heff, hregion, hmiss]
      rfl
    · rfl

/-! One lane that traps. -/

/-- A lane that traps with a handler, outside paired-lane mode. -/
theorem State.takeTrap_single {s : State} {x : Lane} {c : Crew} (h : s.crew x.core x.slot = some c) (hp : (s.hdrOf x.core x.slot).pair = false)
    (hh : (c.thread x.lane).handles = true) (r : Trap) (next : DWord) :
    s.takeTrap x r next = s.onThread x fun t => t.enterTrap r (if r.next then next else t.pc) := by
  have hthread := State.laneThread_of_crew h
  have hset (t : Thread) : s.setThread x.core x.slot x.lane t = s.setCrew x.core x.slot (some (c.setThread x.lane t)) := by
    unfold State.setThread State.modCrew
    rw [h]
  unfold State.takeTrap State.onThread
  rw [State.modThread_of_crew h]
  have ha : c.Alike (c.setThread x.lane ((c.thread x.lane).enterTrap r (if r.next then next else (c.thread x.lane).pc))) :=
    c.modThread_alike x.lane fun t => t.enterTrap r (if r.next then next else t.pc)
  simp only [hthread, hh, hset, State.hdrOf_setCrew h ha, hp, Bool.not_true, Bool.false_eq_true, ↓reduceIte]
  rfl

/-- A bundle of one lane. -/
theorem State.laneInstr_alone {s : State} {cur : Cur} {l : Nat} (hcur : s.cur = some cur) (hl : cur.lanes = [l]) (o : Enc) (f : LaneForm) :
    s.laneInstr o f = (f.step o cur { s, lost := false, hits := [], start := s.nextId } l).close cur := by
  unfold State.laneInstr
  simp only [hcur, hl, List.foldl_cons, List.foldl_nil]

/-- A bundle of one lane whose instruction traps, the trap finding a handler (19 R375). -/
theorem State.laneInstr_traps {s : State} {cur : Cur} {c : Crew} {l : Nat} {o : Enc} {f : LaneForm} {r : Trap} (hat : AtHand s cur c)
    (hl : cur.lanes = [l]) (hp : (s.hdrOf cur.core cur.slot).pair = false) (hh : (c.thread l).handles = true)
    (hf : f.lane o s ⟨cur.core, cur.slot, l⟩ = (s, .trap r)) :
    s.laneInstr o f = (s.onThread ⟨cur.core, cur.slot, l⟩ fun t =>
      t.enterTrap r (if r.next then cur.pc + BitVec.ofNat 64 o.bytes else cur.pc)).settle cur.core cur.slot := by
  obtain ⟨hcur, hcrew, hready⟩ := hat
  obtain ⟨hlt, hhalt, hmark, hpc, -⟩ := hready l (by simp [hl])
  have hthread : s.laneThread ⟨cur.core, cur.slot, l⟩ = c.thread l := State.laneThread_of_crew hcrew
  have hleave : s.leave ⟨cur.core, cur.slot, l⟩ (cur.pc + BitVec.ofNat 64 o.bytes) (.trap r) =
      (s.onThread ⟨cur.core, cur.slot, l⟩ fun t => t.enterTrap r (if r.next then cur.pc + BitVec.ofNat 64 o.bytes else cur.pc), false) := by
    unfold State.leave
    dsimp only
    rw [hthread, hh, State.takeTrap_single (x := ⟨cur.core, cur.slot, l⟩) hcrew hp hh, State.onThread, State.onThread,
      State.modThread_of_crew hcrew, State.modThread_of_crew hcrew, Crew.modThread, Crew.modThread, hpc]
    rfl
  rw [State.laneInstr_alone hcur hl, LaneForm.step]
  simp only [hf, hleave]
  refine Bundle.close_unmarked rfl rfl fun k hk => ?_
  rw [hl, List.mem_singleton] at hk
  subst hk
  dsimp only [State.onThread]
  rw [State.modThread_of_crew hcrew, State.thread_eq, State.crew_setCrew_self hcrew, Option.map_some, Option.getD_some, Crew.thread_modThread,
    if_pos ⟨rfl, hlt⟩]
  exact ⟨hhalt, hmark⟩

/-- An instruction of S mode alone, in U mode (19 R379). -/
theorem State.laneInstr_priv {s : State} {cur : Cur} {c : Crew} {l : Nat} {o : Enc} {f : LaneForm} {n : Nat} (hat : AtHand s cur c)
    (hl : cur.lanes = [l]) (hp : (s.hdrOf cur.core cur.slot).pair = false) (hh : (c.thread l).handles = true) (hf : f.sOnly = some n) :
    s.laneInstr o f = (s.onThread ⟨cur.core, cur.slot, l⟩ fun t =>
      t.enterTrap { cause := cPriv, info := n, addr := cur.pc } cur.pc).settle cur.core cur.slot := by
  refine State.laneInstr_traps hat hl hp hh ?_
  obtain ⟨-, hcrew, hready⟩ := hat
  obtain ⟨-, -, -, hpc, -⟩ := hready l (by simp [hl])
  have hthread : s.laneThread ⟨cur.core, cur.slot, l⟩ = c.thread l := State.laneThread_of_crew hcrew
  have hpriv : (c.thread l).priv = false := by
    unfold Thread.handles at hh
    simp_all
  unfold LaneForm.lane
  simp [hthread, hf, hpriv, hpc]

end Sys2Proof.Machine

/-! What a team leaves when it is killed (19 R377, 02 R43): its threads have exited, and the cancels that follow leave them so. -/

namespace Sys2Proof.Machine

/-- A thread has ended: it has exited, and none of its registers waits for a producer. -/
def Thread.Ended (t : Thread) : Prop := t.st = .exited ∧ ∀ r < 64, (t.reg r).full = true

/-- Every thread of a crew has ended and it has nothing open across lanes. -/
def Crew.Ended (c : Crew) : Prop := c.xl = [] ∧ ∀ l < 32, (c.thread l).Ended

/-- What a slot holds, if it holds a crew, has ended. -/
def State.SlotEnded (s : State) (b sl : Nat) : Prop := ∀ c, s.crew b sl = some c → c.Ended

/-- Teams stay as they are, and ended crews ended. -/
structure State.KeepsEnded (s t : State) : Prop where
  teams : ∀ b, (t.core b).teams = (s.core b).teams
  ended : ∀ b sl, s.SlotEnded b sl → t.SlotEnded b sl

theorem State.KeepsEnded.refl (s : State) : s.KeepsEnded s := ⟨fun _ => rfl, fun _ _ h => h⟩
theorem State.KeepsEnded.trans {s t u : State} (h : s.KeepsEnded t) (g : t.KeepsEnded u) : s.KeepsEnded u :=
  ⟨fun b => (g.teams b).trans (h.teams b), fun b sl hs => g.ended b sl (h.ended b sl hs)⟩
theorem State.KeepsEnded.of_cores {s t : State} (h : t.cores = s.cores) : s.KeepsEnded t := by
  refine ⟨fun b => ?_, fun b sl hs => ?_⟩
  · rw [State.core_of_cores_eq h]
  · unfold State.SlotEnded State.crew
    rwa [State.core_of_cores_eq h]

theorem State.foldl_keepsEnded {α : Type} {f : State → α → State} (hf : ∀ (s : State) (a : α), s.KeepsEnded (f s a)) (s : State) (l : List α) :
    s.KeepsEnded (l.foldl f s) :=
  State.foldl_keeps (P := fun u => s.KeepsEnded u) (fun u a hu => hu.trans (hf u a)) l (.refl s)

/-- An update of a core that leaves its teams and crews alone. -/
theorem State.modCore_keepsEnded (s : State) (b : Nat) {f : Core → Core} (ht : ∀ c, (f c).teams = c.teams := by exact fun _ => rfl)
    (hc : ∀ c, (f c).crews = c.crews := by exact fun _ => rfl) : s.KeepsEnded (s.modCore b f) := by
  refine ⟨fun b' => s.core_modCore_field Core.teams ht b b', fun b' sl hs => ?_⟩
  unfold State.SlotEnded
  rwa [State.crew_modCore fun c => by unfold Core.crew; rw [hc]]

/-- An update of a crew that leaves ended crews ended. -/
theorem State.modCrew_keepsEnded (s : State) (b sl : Nat) {f : Crew → Crew} (hf : ∀ c : Crew, c.Ended → (f c).Ended) :
    s.KeepsEnded (s.modCrew b sl f) := by
  refine ⟨fun b' => ?_, fun b' sl' hs => ?_⟩
  · unfold State.modCrew
    split
    · rfl
    · exact State.teams_setCrew ..
  · unfold State.SlotEnded
    rw [State.crew_modCrew]
    split
    case isTrue e =>
      obtain ⟨rfl, rfl⟩ := e
      rintro c hc
      obtain ⟨d, hd, rfl⟩ := Option.map_eq_some_iff.mp hc
      exact hf d (hs d hd)
    case isFalse => exact hs

/-- An update of every thread of the package, as wakes are. -/
def State.mapThreads (s : State) (g : Thread → Thread) : State :=
  { s with cores := s.cores.map fun c => { c with crews := c.crews.map fun o => o.map fun cr => { cr with threads := cr.threads.map g } } }

theorem State.core_mapThreads (s : State) (g : Thread → Thread) {b : Nat} (hb : b < 160) : (s.mapThreads g).core b =
    { s.core b with crews := (s.core b).crews.map fun o => o.map fun cr => { cr with threads := cr.threads.map g } } := by
  unfold State.mapThreads State.core
  simp [hb]

theorem State.core_ge (s : State) {b : Nat} (hb : ¬ b < 160) : s.core b = {} := dif_neg hb

theorem State.crew_mapThreads (s : State) (g : Thread → Thread) (b sl : Nat) :
    (s.mapThreads g).crew b sl = (s.crew b sl).map fun cr => { cr with threads := cr.threads.map g } := by
  unfold State.crew
  by_cases hb : b < 160
  · rw [State.core_mapThreads s g hb]
    unfold Core.crew
    split <;> simp
  · rw [State.core_ge _ hb, State.core_ge _ hb, Core.default_crew]
    rfl

theorem State.core_mapThreads_field {α : Type} (p : Core → α) (hp : ∀ (c : Core) x, p { c with crews := x } = p c) (s : State)
    (g : Thread → Thread) (b : Nat) : p ((s.mapThreads g).core b) = p (s.core b) := by
  by_cases hb : b < 160
  · rw [State.core_mapThreads s g hb, hp]
  · rw [State.core_ge _ hb, State.core_ge _ hb]

theorem Crew.thread_map (c : Crew) (g : Thread → Thread) {l : Nat} (hl : l < 32) :
    ({ c with threads := c.threads.map g } : Crew).thread l = g (c.thread l) := by
  simp [Crew.thread, hl]

theorem State.mapThreads_keepsEnded (s : State) {g : Thread → Thread} (hg : ∀ t : Thread, t.Ended → (g t).Ended) : s.KeepsEnded (s.mapThreads g) := by
  refine ⟨s.core_mapThreads_field Core.teams (fun _ _ => rfl) g, fun b sl hs c hc => ?_⟩
  rw [State.crew_mapThreads] at hc
  obtain ⟨d, hd, rfl⟩ := Option.map_eq_some_iff.mp hc
  refine ⟨(hs d hd).1, fun l hl => ?_⟩
  rw [Crew.thread_map d g hl]
  exact hg _ ((hs d hd).2 l hl)

theorem State.wakeAll_keepsEnded (s : State) : s.KeepsEnded s.wakeAll := by
  refine s.mapThreads_keepsEnded (g := Thread.wakeUnit) fun t ht => ?_
  unfold Thread.wakeUnit
  rw [if_neg (by simp [ht.1])]
  exact ht

theorem State.wakeParked_keepsEnded (s : State) (p : Nat → Nat → Nat → Bool) : s.KeepsEnded (s.wakeParked p) := by
  refine s.mapThreads_keepsEnded fun t ht => ?_
  rw [ht.1]
  exact ht

/-! Steps of a cancel. -/

theorem State.modHandle_keepsEnded (s : State) (b k : Nat) (f : Handle → Handle) : s.KeepsEnded (s.modHandle b k f) := by
  refine s.modCore_keepsEnded b (fun c => ?_) fun c => ?_ <;> split <;> rfl

theorem State.endHandle_keepsEnded (s : State) (b k outcome detail : Nat) (fail : Option (Nat × DWord)) :
    s.KeepsEnded (s.endHandle b k outcome detail fail) := by
  unfold State.endHandle
  exact .trans (t := s.newId.2) (.of_cores rfl) (State.modHandle_keepsEnded ..)

theorem State.modBank_keepsEnded (s : State) (b k : Nat) (f : Bank → Bank) : s.KeepsEnded (s.modBank b k f) := by
  refine s.modCore_keepsEnded b (fun c => ?_) fun c => ?_ <;> unfold Core.setBank <;> split <;> rfl

theorem State.lowerLine_keepsEnded (s : State) (b k line : Nat) : s.KeepsEnded (s.lowerLine b k line) := by
  unfold State.lowerLine
  dsimp only
  split
  · exact (s.modBank_keepsEnded ..).trans (State.wakeParked_keepsEnded ..)
  · exact s.modBank_keepsEnded ..

theorem State.releaseCounts_keepsEnded (s : State) (o : CopyOp) : s.KeepsEnded (s.releaseCounts o) := by
  unfold State.releaseCounts
  split
  · exact .refl s
  · refine State.foldl_keepsEnded (fun s n => State.foldl_keepsEnded (fun s d => State.foldl_keepsEnded (fun s ln => ?_) s _) s _) s _
    split
    · exact .refl s
    · split
      · exact .refl s
      · exact s.lowerLine_keepsEnded ..

theorem State.dropOp_keepsEnded (s : State) (b id : Nat) : s.KeepsEnded (s.dropOp b id) :=
  s.modCore_keepsEnded b

theorem State.endCopy_keepsEnded (s : State) (b : Nat) (o : CopyOp) (outcome addr : Nat) : s.KeepsEnded (s.endCopy b o outcome addr) := by
  have hrelease : s.KeepsEnded (if outcome = outcomeRetired then s else s.releaseCounts o) := by
    split
    · exact .refl s
    · exact s.releaseCounts_keepsEnded o
  unfold State.endCopy
  dsimp only
  generalize (if outcome = outcomeRetired then s else s.releaseCounts o) = r at hrelease ⊢
  have hkeep := hrelease.trans (r.dropOp_keepsEnded b o.id)
  split
  case h_1 h =>
    simp only [h, Option.isNone_none, ↓reduceIte]
    exact hkeep.trans (State.modCore_keepsEnded _ b)
  case h_2 k h =>
    simp only [h, Option.isNone_some, Bool.false_eq_true, ↓reduceIte]
    exact (hkeep.trans (State.modCore_keepsEnded _ b)).trans (State.endHandle_keepsEnded ..)

theorem State.cancelCopy_keepsEnded (s : State) (b : Nat) (o : CopyOp) : s.KeepsEnded (s.cancelCopy b o) := by
  unfold State.cancelCopy
  split
  · exact s.modCore_keepsEnded b
  · exact s.endCopy_keepsEnded ..

theorem State.nmRecord_keepsEnded (s : State) (b : Nat) (o : EngOp) (outcome : Nat) : s.KeepsEnded (s.nmRecord b o outcome) := by
  unfold State.nmRecord
  dsimp only
  split
  · exact s.modBank_keepsEnded ..
  · exact .refl s

theorem State.endEng_keepsEnded (s : State) (b : Nat) (o : EngOp) (outcome detail addr : Nat) : s.KeepsEnded (s.endEng b o outcome detail addr) := by
  unfold State.endEng
  refine .trans ?_ ((State.dropOp_keepsEnded ..).trans (State.endHandle_keepsEnded ..))
  split
  · exact s.nmRecord_keepsEnded ..
  · exact .refl s

theorem State.count_keepsEnded (s : State) (p k n : Nat) : s.KeepsEnded (s.count p k n) := .of_cores (s.count_cores p k n)

theorem State.countMma_keepsEnded (s : State) (o : ArrayOp) (b outcome : Nat) : s.KeepsEnded (s.countMma o b outcome) :=
  .of_cores (by simp [State.countMma])

theorem State.endArray_keepsEnded (s : State) (o : ArrayOp) (outcome addr : Nat) : s.KeepsEnded (s.endArray o outcome addr) := by
  unfold State.endArray
  split
  · exact .refl s
  · refine State.KeepsEnded.trans ?_ (State.endHandle_keepsEnded ..)
    split
    · exact .of_cores rfl
    · refine State.KeepsEnded.trans ?_ (State.countMma_keepsEnded ..)
      · refine State.KeepsEnded.trans ?_ (State.foldl_keepsEnded (fun s k => s.modCore_keepsEnded k) _ _)
        refine State.KeepsEnded.trans ?_ (State.modCore_keepsEnded _ _)
        refine .trans ?_ (State.modCrew_keepsEnded _ _ _ fun c hc => ?_)
        · exact .of_cores rfl
        · split
          · unfold Crew.setRec
            split <;> exact hc
          · exact hc

theorem State.cancel_keepsEnded (s : State) (b k : Nat) : s.KeepsEnded (s.cancel b k) := by
  unfold State.cancel
  dsimp only
  split
  · exact .refl s
  · split
    · split
      · split
        · exact .refl s
        · exact s.endArray_keepsEnded ..
      · exact .refl s
    · split
      · exact s.cancelCopy_keepsEnded ..
      · exact .refl s
    · split
      · refine State.foldl_keepsEnded (fun s b' => State.foldl_keepsEnded (fun s o' => ?_) s _) s _
        split
        · exact s.endEng_keepsEnded ..
        · exact .refl s
      · exact .refl s
    · split
      · exact s.endEng_keepsEnded ..
      · exact .refl s

/-! The kill itself. -/

/-- A thread whose producers are dropped (05 R91). -/
def Thread.forgo (t : Thread) : Thread :=
  { t with regs := t.regs.map fun r => if r.full then r else { val := 0, tag := .raw, full := true }, predWait := [] }

theorem Thread.forgo_full (t : Thread) {r : Nat} (hr : r < 64) : (t.forgo.reg r).full = true := by
  unfold Thread.forgo Thread.reg
  simp only [hr, ↓reduceDIte, Vector.getElem_map]
  split
  case isTrue h => exact h
  case isFalse => rfl

theorem State.crew_dropProducers (s : State) (x : Lane) (b sl : Nat) : (s.dropProducers x).crew b sl =
    if b = x.core ∧ sl = x.slot then (s.crew b sl).map fun c => c.modThread x.lane Thread.forgo else s.crew b sl := by
  have hpend (b sl : Nat) : (s.modCore x.core fun c => { c with pend := c.pend.filterMap fun (p : Pend) => Pend.without p x }.rechanged).crew b sl =
      s.crew b sl := by
    rw [State.crew_modCore]
    exact fun c => Core.crew_rechanged _ sl
  unfold State.dropProducers State.modThread
  rw [State.crew_modCrew, hpend, hpend]
  split
  case isTrue e => rw [e.1, e.2]; rfl
  case isFalse => rfl

theorem Core.rechanged_teams (c : Core) : c.rechanged.teams = c.teams := by
  unfold Core.rechanged
  rfl
theorem Core.rechanged_crews (c : Core) : c.rechanged.crews = c.crews := by
  unfold Core.rechanged
  rfl

theorem Thread.forgo_ended {t : Thread} (h : t.Ended) : t.forgo.Ended := ⟨h.1, fun _ hr => t.forgo_full hr⟩

theorem Crew.modThread_ended {c : Crew} (h : c.Ended) (l : Nat) {f : Thread → Thread} (hf : ∀ t : Thread, t.Ended → (f t).Ended) :
    (c.modThread l f).Ended := by
  refine ⟨?_, fun k hk => ?_⟩
  · rw [c.modThread_alike l f]
    exact h.1
  · rw [Crew.thread_modThread]
    split
    case isTrue e => exact hf _ (h.2 l e.2)
    case isFalse => exact h.2 k hk

theorem State.dropProducers_keepsEnded (s : State) (x : Lane) : s.KeepsEnded (s.dropProducers x) := by
  unfold State.dropProducers State.modThread
  refine .trans (State.modCore_keepsEnded s x.core ?_ ?_) (State.modCrew_keepsEnded _ _ _ fun c hc => c.modThread_ended hc x.lane fun t => t.forgo_ended)
  · exact fun c => Core.rechanged_teams _
  · exact fun c => Core.rechanged_crews _

theorem State.dropAsk_keepsEnded (s : State) (b sl : Nat) (lane : Option Nat) : s.KeepsEnded (s.dropAsk b sl lane) := .of_cores rfl

/-- Every thread of a crew exits, and what is open across lanes is dropped. -/
def Crew.exited (c : Crew) : Crew :=
  { c with xl := [], threads := c.threads.map fun th => { th with st := .exited, age := 0, regionPc := 0 } }

theorem Crew.exited_ended {c : Crew} (h : ∀ l < 32, ∀ r < 64, ((c.thread l).reg r).full = true) : c.exited.Ended := by
  refine ⟨rfl, fun l hl => ?_⟩
  have hthread := Crew.thread_map { c with xl := [] } (fun th => { th with st := .exited, age := 0, regionPc := 0 }) hl
  unfold Crew.exited
  rw [hthread]
  exact ⟨rfl, h l hl⟩

/-- What the kill of a team does to a slot of it. -/
def State.killSlot (s : State) (b sl : Nat) : State :=
  (((List.range 32).foldl (fun (s : State) l => s.dropProducers ⟨b, sl, l⟩) s).dropAsk b sl none).modCrew b sl Crew.exited

theorem State.killSlot_keepsEnded (s : State) (b sl : Nat) : s.KeepsEnded (s.killSlot b sl) :=
  ((State.foldl_keepsEnded (fun s l => s.dropProducers_keepsEnded ⟨b, sl, l⟩) s _).trans (State.dropAsk_keepsEnded ..)).trans
    (State.modCrew_keepsEnded _ _ _ fun _ hc => Crew.exited_ended fun l hl => (hc.2 l hl).2)

/-- A lane of a slot waits for no producer. -/
def State.LaneFull (s : State) (b sl l : Nat) : Prop := ∀ c, s.crew b sl = some c → ∀ r < 64, ((c.thread l).reg r).full = true

theorem State.dropProducers_laneFull (s : State) (b sl l : Nat) {k : Nat} (hk : k < 32) (h : k = l ∨ s.LaneFull b sl k) :
    (s.dropProducers ⟨b, sl, l⟩).LaneFull b sl k := by
  intro c hc r hr
  rw [State.crew_dropProducers, if_pos ⟨rfl, rfl⟩] at hc
  obtain ⟨d, hd, rfl⟩ := Option.map_eq_some_iff.mp hc
  rw [Crew.thread_modThread]
  split
  case isTrue => exact Thread.forgo_full _ hr
  case isFalse hne => exact h.resolve_left (fun e => hne ⟨e, e ▸ hk⟩) d hd r hr

theorem State.killSlot_ends (s : State) (b sl : Nat) : (s.killSlot b sl).SlotEnded b sl := by
  intro c hc
  unfold State.killSlot at hc
  rw [State.crew_modCrew, if_pos ⟨rfl, rfl⟩] at hc
  obtain ⟨d, hd, rfl⟩ := Option.map_eq_some_iff.mp hc
  refine Crew.exited_ended fun l hl => ?_
  exact State.foldl_makes (f := fun s l => s.dropProducers ⟨b, sl, l⟩) (K := fun _ => True) (P := fun u => u.LaneFull b sl l) (fun _ _ _ => trivial)
    (fun u _ => u.dropProducers_laneFull b sl l hl (.inl rfl)) (fun u k hu => u.dropProducers_laneFull b sl k hl (.inr hu))
    (List.mem_range.mpr hl) trivial d hd

theorem State.team_modTeam {s : State} {b id : Nat} {t : Team} {f : Team → Team} (hb : b < 160) (hf : ∀ u, (f u).id = u.id)
    (h : (s.core b).team id = some t) : ((s.modTeam b id f).core b).team id = some (f t) := by
  have hid : t.id = id := by simpa using List.find?_some h
  have hsame : ((fun u : Team => u.id == id) ∘ fun u => if u.id = id then f u else u) = fun u => u.id == id := by
    funext u
    dsimp only [Function.comp]
    split
    · rw [hf]
    · rfl
  unfold State.modTeam Core.team
  unfold Core.team at h
  rw [State.core_modCore, if_pos ⟨rfl, hb⟩, List.find?_map, hsame, h, Option.map_some, if_pos hid]

/-- What a team has running is abandoned (15 R295, 12 R239). -/
def State.abandonAll (s : State) (b id : Nat) : State :=
  let s := ((s.core b).slotsWhere fun h => h.team == id && h.st == .pending).foldl (fun (s : State) k => s.cancel b k) s
  s.arrays.foldl (fun (s : State) a =>
    if a.span.any (fun m => m.1 == b && m.2 == id) && a.st != .add then s.endArray a outcomeAbandoned 0 else s) s

theorem State.abandonAll_keepsEnded (s : State) (b id : Nat) : s.KeepsEnded (s.abandonAll b id) := by
  refine .trans (State.foldl_keepsEnded (fun s k => s.cancel_keepsEnded b k) s _) (State.foldl_keepsEnded (fun s a => ?_) _ _)
  split
  · exact s.endArray_keepsEnded ..
  · exact .refl s

/-- The kill of a team: marked, its slots emptied of work, its operations abandoned, its launch told. -/
theorem State.killTeam_eq {s : State} {b id : Nat} {t : Team} (h : (s.core b).team id = some t) :
    s.killTeam b id = (((t.slots.foldl (fun s sl => s.killSlot b sl) (s.modTeam b id fun t => { t with killed := true })).abandonAll b id).modLaunch
      t.part t.launch fun ln => { ln with killed := if ln.killed.contains t.l then ln.killed else ln.killed ++ [t.l] }).wakeAll := by
  unfold State.killTeam
  rw [h]
  rfl

theorem State.killTeam_ends {s : State} {b id : Nat} {t : Team} (hb : b < 160) (h : (s.core b).team id = some t) :
    (((s.killTeam b id).core b).team id).map Team.killed = some true ∧ ∀ sl ∈ t.slots, (s.killTeam b id).SlotEnded b sl := by
  have hmark := State.team_modTeam (f := fun t => { t with killed := true }) hb (fun _ => rfl) h
  have hslots := State.foldl_keepsEnded (fun s sl => s.killSlot_keepsEnded b sl) (s.modTeam b id fun t => { t with killed := true }) t.slots
  have hrest (u : State) (g : Launch → Launch) : u.KeepsEnded ((u.abandonAll b id).modLaunch t.part t.launch g).wakeAll :=
    ((u.abandonAll_keepsEnded b id).trans (.of_cores (State.modLaunch_cores ..))).trans (State.wakeAll_keepsEnded _)
  rw [State.killTeam_eq h]
  refine ⟨?_, fun sl hsl => (hrest _ _).ended b sl ?_⟩
  · unfold Core.team at hmark ⊢
    rw [(hrest _ _).teams, hslots.teams, hmark]
    rfl
  · exact State.foldl_makes (f := fun s sl => s.killSlot b sl) (K := fun _ => True) (P := fun u => u.SlotEnded b sl) (fun _ _ _ => trivial)
      (fun u _ => u.killSlot_ends b sl) (fun u k hu => (u.killSlot_keepsEnded b k).ended b sl hu) hsl trivial

end Sys2Proof.Machine

/-! RETT and RETT.kill (19 R377, R381). -/

namespace Sys2Proof.Machine

theorem State.thread_of_slotEnded {s : State} {b sl l : Nat} (h : s.SlotEnded b sl) (hl : l < 32) : (s.thread b sl l).st = .exited := by
  rw [State.thread_eq]
  cases hc : s.crew b sl with
  | none => rfl
  | some c => exact ((h c hc).2 l hl).1

/-- Lanes that have exited halt nowhere. -/
theorem State.afterLanes_exited {s : State} {b sl : Nat} {lanes : List Nat} (h : ∀ l ∈ lanes, (s.thread b sl l).st = .exited) :
    s.afterLanes b sl lanes = s := by
  have hnone : (lanes.filter fun l => ((s.thread b sl l).stepMark || (s.core b).debug && (s.thread b sl l).haltMark) &&
      (s.thread b sl l).st == .runnable) = [] := by
    rw [List.filter_eq_nil_iff]
    intro l hl
    simp [h l hl]
  unfold State.afterLanes
  simp only [hnone]
  rfl

/-- A crew with nothing open across lanes has nothing to look at. -/
theorem State.settle_ended {s : State} {b sl : Nat} (h : s.SlotEnded b sl) : s.settle b sl = s := by
  unfold State.settle
  split
  case h_1 => rfl
  case h_2 c hc => rw [(h c hc).1]; rfl

/-- The team of a slot's crew is one of its core's. -/
theorem State.team_of_teamOf {s : State} {b sl : Nat} {tm : Team} (h : s.teamOf b sl = some tm) : (s.core b).team tm.id = some tm := by
  unfold State.teamOf at h
  split at h
  · cases h
  · split at h
    · cases h
    · rename_i id _
      have hid : tm.id = id := by simpa using List.find?_some h
      rwa [hid]

/-- RETT.kill in S mode kills the team, and nothing follows. -/
theorem exec_rettKill {s : State} {cur : Cur} {c : Crew} {l : Nat} {o : Enc} {tm : Team} (h : Alone s cur c l o true [] none [])
    (hpriv : (c.thread l).priv = true) (ht : s.teamOf cur.core cur.slot = some tm) (hslot : cur.slot ∈ tm.slots) :
    exec (.rettKill o) s = .next (s.killTeam cur.core tm.id) := by
  obtain ⟨⟨hcur, hcrew, hready⟩, hl, hp, hguard, hwait, hfate⟩ := h
  obtain ⟨hlt, -⟩ := hready l (by simp [hl])
  have hthread : s.laneThread ⟨cur.core, cur.slot, l⟩ = c.thread l := State.laneThread_of_crew hcrew
  have hlane : rettKillForm.lane o s ⟨cur.core, cur.slot, l⟩ = (s, .kill) := by
    unfold LaneForm.lane rettKillForm
    simpa [hthread, hpriv, hguard, hfate] using hwait
  obtain ⟨-, hended⟩ := State.killTeam_ends (State.crew_lt hcrew).1 (State.team_of_teamOf ht)
  have hslotEnded := hended cur.slot hslot
  refine congrArg Host.Outcome.next ?_
  rw [State.laneInstr_alone hcur hl]
  unfold LaneForm.step Bundle.close State.unhandled State.watchHits
  simp only [hlane, State.leave, ht, Bool.or_true, ↓reduceIte, List.isEmpty_nil]
  rw [State.afterLanes_exited, State.settle_ended hslotEnded]
  intro k hk
  rw [hl, List.mem_singleton] at hk
  exact State.thread_of_slotEnded hslotEnded (hk ▸ hlt)

end Sys2Proof.Machine

section

open Sys2Proof.Machine

/-- Settles O17: RETT is a form whose body is the return; RETT.kill leaves the bundle to the kill of its team, which every cancel after it
keeps; in U mode both forms trap before their body. -/
theorem trapReturns : Obligations.TrapReturns := by
  refine fun o => ⟨?_, fun s cur c l h => ⟨fun hpriv tm ht hslot => ?_, fun hh i hi => ?_⟩⟩
  · refine lanesGoOn_of_body (.rett o) o rettForm _ (fun _ _ => Thread.return_) _ _ (fun _ => rfl) rfl (fun _ _ _ => ⟨rfl, rfl⟩) (fun _ _ _ _ => rfl) ?_
    rintro s x c c' hc ha hsame ⟨halign, hdet⟩ u
    have hthread : u.laneThread x = c.thread x.lane := (State.laneThread_of_crew (State.crew_setCrew_self hc _)).trans hsame
    have hhdr : u.hdrOf x.core x.slot = s.hdrOf x.core x.slot := State.hdrOf_setCrew hc ha
    unfold rettForm
    simp only [hthread, hhdr]
    rw [if_neg (by simpa using hdet), if_neg (not_not.mpr halign)]
  · obtain ⟨hkilled, hended⟩ := State.killTeam_ends (State.crew_lt h.1.2.1).1 (State.team_of_teamOf ht)
    refine ⟨_, exec_rettKill h hpriv ht hslot, hkilled, fun sl hsl k hk hsome => ?_⟩
    obtain ⟨d, hd⟩ := Option.isSome_iff_exists.mp hsome
    rw [State.thread_eq, hd]
    exact (hended sl hsl d hd).2 k hk
  · simp only [List.mem_cons, List.not_mem_nil, or_false] at hi
    obtain ⟨hat, hl, hp, -⟩ := h
    rcases hi with rfl | rfl
    · exact congrArg Host.Outcome.next (State.laneInstr_priv (f := rettForm) hat hl hp hh rfl)
    · exact congrArg Host.Outcome.next (State.laneInstr_priv (f := rettKillForm) hat hl hp hh rfl)

end

/-! Chunks enter the work queues and leave them (02 R33, R36, 14 R280, R281). -/

namespace Sys2Proof.Machine

theorem State.launches_modLaunch (s : State) {p : Nat} (hp : p < 9) (id : Nat) (f : Launch → Launch) :
    ((s.modLaunch p id f).part p).launches = (s.part p).launches.map fun l => if l.id = id then f l else l := by
  unfold State.modLaunch
  rw [State.part_modPart, if_pos ⟨rfl, hp⟩]

section
variable {s : State} {p : Nat} {urgent : Bool} {ln : Launch}

/-- The oldest launch of a queue that has not appended its last chunk. -/
def State.Appends (s : State) (p : Nat) (urgent : Bool) (ln : Launch) : Prop :=
  (s.part p).launches.find? (fun l => l.hdr.urg == urgent && !l.unplaceable && decide (l.next < l.total)) = some ln

theorem chunkAppend_unplaceable (h : s.Appends p urgent ln) (hs : ln.started = false) (hu : s.unplaceable ln = true) :
    exec (.chunkAppend p urgent) s = .next (s.modLaunch p ln.id fun l => { l with unplaceable := true, started := true }) := by
  show execChunkAppend p urgent s = _
  unfold execChunkAppend
  rw [h]
  simp [hs, hu]

theorem chunkAppend_starts (h : s.Appends p urgent ln) (hs : ln.started = false) (hu : s.unplaceable ln = false) (hstack : ln.hdr.stack = 0)
    (hcor : ln.hdr.cor = false) :
    exec (.chunkAppend p urgent) s = .next (s.modLaunch p ln.id fun l => { l with started := true, stackBase := 0, stackSize := 0 }) := by
  show execChunkAppend p urgent s = _
  unfold execChunkAppend
  rw [h]
  simp [hs, hu, hstack, hcor]

theorem chunkAppend_full (h : s.Appends p urgent ln) (hs : ln.started = true) (hq : 512 ≤ ((s.part p).queueOf urgent).length) :
    exec (.chunkAppend p urgent) s = .next s := by
  show execChunkAppend p urgent s = _
  unfold execChunkAppend
  rw [h]
  simp [hs, hq]

/-- The last team of the next chunk (02 R33). -/
def Launch.lastOfChunk (ln : Launch) : Nat := min (ln.next + ln.hdr.chunkSize) ln.total - 1

theorem chunkAppend_room (h : s.Appends p urgent ln) (hs : ln.started = true) (hq : ((s.part p).queueOf urgent).length < 512) :
    exec (.chunkAppend p urgent) s = .next ((s.setQueueOf p urgent ((s.part p).queueOf urgent ++ [⟨ln.id, ln.next, ln.lastOfChunk⟩])).modLaunch
      p ln.id fun l => { l with next := ln.lastOfChunk + 1 }) := by
  show execChunkAppend p urgent s = _
  unfold execChunkAppend
  rw [h]
  simp [hs, Nat.not_le.mpr hq, Launch.lastOfChunk]

theorem State.part_setQueueOf (s : State) {p : Nat} (hp : p < 9) (urgent : Bool) (q : List Chunk) :
    (s.setQueueOf p urgent q).part p = if urgent then { s.part p with urgentq := q } else { s.part p with workq := q } := by
  unfold State.setQueueOf
  rw [State.part_modPart, if_pos ⟨rfl, hp⟩]

/-- The queue and the launches after a chunk has entered. -/
theorem State.chunkAppended (s : State) {p : Nat} (hp : p < 9) (urgent : Bool) (q : List Chunk) (id : Nat) (f : Launch → Launch) :
    let u := (s.setQueueOf p urgent q).modLaunch p id f
    (u.part p).launches = ((s.part p).launches.map fun l => if l.id = id then f l else l) ∧ (u.part p).queueOf urgent = q := by
  dsimp only
  rw [State.launches_modLaunch _ hp, State.modLaunch, State.part_modPart, if_pos ⟨rfl, hp⟩, State.part_setQueueOf _ hp]
  cases urgent <;> exact ⟨rfl, rfl⟩

/-- The chunk at the head of a queue, its launch in progress in an active partition, is given to a dispatcher. -/
theorem dispatchPull_places {die : Nat} {ch : Chunk} {rest : List Chunk} {s1 : State} {left : Option Chunk}
    (hq : (s.part p).queueOf urgent = ch :: rest) (hln : s.launch p ch.launch = some ln) (hphase : (s.part p).phase = .active)
    (hst : (s.part p).st = 1) (hplace : s.placeGangs ln die (ch.last + 1) ch = (s1, left)) :
    (left = none → exec (.dispatchPull die p urgent) s = .next (s1.setQueueOf p urgent rest)) ∧
    ∀ ch', left = some ch' → (ch'.l ≠ ch.l → exec (.dispatchPull die p urgent) s = .next (s1.setQueueOf p urgent (ch' :: rest))) ∧
      (ch'.l = ch.l → exec (.dispatchPull die p urgent) s = .next s) := by
  have hexec : exec (.dispatchPull die p urgent) s = execDispatchPull die p urgent s := rfl
  rw [hexec]
  unfold execDispatchPull
  rw [hq]
  cases left <;> simp +contextual [hln, hphase, hst, hplace]

end

/-! A run ends, and a launch is complete (02 R42, 14 R274, R279). -/

theorem launchComplete_done {s s1 : State} {p : Nat} {ln : Launch} {t : Task} (hln : s.launch p ln.id = some ln)
    (hend : ln.unplaceable = true ∨ ln.retired = ln.total) (ht : (s.part p).task ln.task = some t)
    (hrec : s.writeRecord p t.node (if ln.unplaceable then 3 else if ln.killed = [] then 1 else 2) ln.total ln.killed.length
      (leBytes (ceilDiv ln.total 8) (maskOf ln.killed)) = .inl s1) :
    exec (.launchComplete p ln.id) s = .next (t.succ.foldl (fun (s : State) i => (s.decrement p i).1)
      (((s1.endCode ln.id).modPart p fun x => { x with launches := x.launches.filter fun l => l.id != ln.id }).modTask p t.idx
        fun t => { t with st := .done })) := by
  have hstatus : (if ln.killed.isEmpty then 1 else 2) = if ln.killed = [] then 1 else 2 := by
    cases ln.killed <;> rfl
  show execLaunchComplete p ln.id s = _
  unfold execLaunchComplete Launch.bitmap
  rw [hln]
  simp only [ht, hstatus, hrec]
  rw [if_neg]
  rcases hend with h | h <;> simp [h]

/-- RUN_END at a task of the graph: the record of a skipped one (14 R279). -/
def State.skipRecord (p : Nat) (acc : State × Bool) (t : Task) : State × Bool :=
  if acc.2 || t.st != .waiting then acc
  else match acc.1.writeRecord p t.node 4 t.hdr.teams 0 (leBytes (ceilDiv t.hdr.teams 8) 0) with
    | .inr s => (s, true)
    | .inl s => (s, false)

/-- The tasks of a run's graph. -/
def Run.tasksIn (r : Run) (x : Partition) : List Task := x.tasks.filter fun t => t.gslot == r.gslot

/-- The result of a run: its first record that failed, or how many nodes were not completed (14 R274). -/
def Run.outcome (r : Run) : Nat × Nat :=
  match r.fail with
  | some st => (st, 4)
  | none => (if r.bad = [] then 1 else 2, r.bad.length)

/-- What a run's end leaves once the records are written. -/
def State.closeRun (s : State) (p : Nat) (r : Run) : State :=
  let ts := r.tasksIn (s.part p)
  let gone := ts.map Task.idx
  let s := s.filterKept fun k => !(k.part == p && gone.contains k.task)
  let r := ((s.part p).run).getD r
  (s.modPart p fun x => { x with run := none, tasks := x.tasks.map fun t => if t.gslot = r.gslot then { t with st := .idle } else t }).result p
    r.outcome.1 r.outcome.2 [(60, leBytes 4 (ts.filter fun t => t.st == .waiting).length), (56, leBytes 4 r.discards)]

theorem exec_runEnd {s : State} {p : Nat} {r : Run} {u : State × Bool} (hr : (s.part p).run = some r)
    (hidle : ∀ t ∈ (s.part p).tasks, t.gslot = r.gslot → t.st ≠ .running) (hu : (r.tasksIn (s.part p)).foldl (State.skipRecord p) (s, false) = u) :
    exec (.runEnd p) s = .next (if u.2 then u.1 else u.1.closeRun p r) := by
  subst hu
  have hnone : ¬ ((r.tasksIn (s.part p)).any fun t => t.st == .running) = true := by
    simpa [Run.tasksIn] using hidle
  have hend (v : State) (q : Run) (out : List (Nat × List Byte)) : (match q.fail with
      | some st => v.result p st 4 out
      | none => v.result p (if q.bad.isEmpty then 1 else 2) q.bad.length out) = v.result p q.outcome.1 q.outcome.2 out := by
    unfold Run.outcome
    cases q.fail with
    | some st => rfl
    | none => cases q.bad <;> rfl
  show execRunEnd p s = _
  unfold execRunEnd
  rw [hr]
  refine congrArg Host.Outcome.next (Eq.trans (if_neg hnone) ?_)
  show (if ((r.tasksIn (s.part p)).foldl (State.skipRecord p) (s, false)).2 then _ else _) = _
  refine if_congr Iff.rfl rfl ?_
  exact hend ..

/-- The records of the skipped tasks, one after another, where each can be written. -/
def State.recordsSkipped (s : State) (p : Nat) (ts : List Task) : Option State :=
  ts.foldl (fun (acc : Option State) t =>
    acc.bind fun s => (s.writeRecord p t.node 4 t.hdr.teams 0 (leBytes (ceilDiv t.hdr.teams 8) 0)).getLeft?) (some s)

theorem State.recordsSkipped_cons (s : State) (p : Nat) (t : Task) (ts : List Task) :
    s.recordsSkipped p (t :: ts) =
      ((s.writeRecord p t.node 4 t.hdr.teams 0 (leBytes (ceilDiv t.hdr.teams 8) 0)).getLeft?).bind fun s => s.recordsSkipped p ts := by
  unfold State.recordsSkipped
  rw [List.foldl_cons, Option.bind_some]
  cases (s.writeRecord p t.node 4 t.hdr.teams 0 (leBytes (ceilDiv t.hdr.teams 8) 0)).getLeft? with
  | some u => rfl
  | none =>
    induction ts with
    | nil => rfl
    | cons t ts ih => exact ih

theorem State.foldl_skipRecord {s s1 : State} {p : Nat} {ts : List Task}
    (h : s.recordsSkipped p (ts.filter fun t => t.st == .waiting) = some s1) : ts.foldl (State.skipRecord p) (s, false) = (s1, false) := by
  induction ts generalizing s with
  | nil => exact congrArg (·, false) (Option.some.inj h)
  | cons t ts ih =>
    rw [List.foldl_cons]
    by_cases hw : t.st = .waiting
    · rw [List.filter_cons_of_pos (by simp [hw]), State.recordsSkipped_cons] at h
      obtain ⟨u, hu, hrest⟩ := Option.bind_eq_some_iff.mp h
      have hstep : State.skipRecord p (s, false) t = (u, false) := by
        rw [Sum.getLeft?_eq_some_iff] at hu
        unfold State.skipRecord
        rw [if_neg (by simp [hw]), hu]
      rw [hstep]
      exact ih hrest
    · rw [List.filter_cons_of_neg (by simp [hw])] at h
      have hstep : State.skipRecord p (s, false) t = (s, false) := by
        unfold State.skipRecord
        rw [if_pos (by simp [hw])]
      rw [hstep]
      exact ih h

theorem State.part_filterKept_field {α : Type} (g : Partition → α) (hg : ∀ (x : Partition) i, g { x with image := i } = g x) (s : State)
    (f : Kept → Bool) (p : Nat) : g ((s.filterKept f).part p) = g (s.part p) := by
  unfold State.filterKept State.part
  split
  · simp [hg]
  · rfl

/-- A partition after its run has ended. -/
theorem State.closeRun_part (s : State) {p : Nat} (hp : p < 9) {r r1 : Run} (hr1 : (s.part p).run = some r1) :
    ((s.closeRun p r).part p).run = none ∧
    ((s.closeRun p r).part p).tasks = ((s.part p).tasks.map fun t => if t.gslot = r1.gslot then { t with st := .idle } else t) ∧
    ((s.closeRun p r).part p).cmd = (s.part p).cmd.map fun c => { c with
      result := some r1.outcome,
      fields := [(60, leBytes 4 ((r.tasksIn (s.part p)).filter fun t => t.st == .waiting).length), (56, leBytes 4 r1.discards)] } := by
  have hkept {α : Type} (g : Partition → α) (hg : ∀ (x : Partition) i, g { x with image := i } = g x) := s.part_filterKept_field g hg
  have hrun (f : Kept → Bool) : (((s.filterKept f).part p).run).getD r = r1 := by
    rw [hkept Partition.run (fun _ _ => rfl), hr1]
    rfl
  unfold State.closeRun State.result
  simp only [hrun, State.part_modPart, hp, and_self, ↓reduceIte]
  rw [hkept Partition.tasks (fun _ _ => rfl), hkept Partition.cmd (fun _ _ => rfl)]
  exact ⟨trivial, rfl, rfl⟩

end Sys2Proof.Machine

/-! A team that is done gives up what it holds (02 R40). -/

namespace Sys2Proof.Machine

theorem Core.mem_slotsWhere (c : Core) (p : Handle → Bool) (k : Nat) : k ∈ c.slotsWhere p ↔ k < 1024 ∧ p (c.handle k) = true := by
  unfold Core.slotsWhere
  simp only [List.mem_map, List.mem_filter, Prod.exists, List.mk_mem_zipIdx_iff_getElem?]
  constructor
  · rintro ⟨h, i, ⟨hget, hp⟩, rfl⟩
    obtain ⟨hi, rfl⟩ := List.getElem?_eq_some_iff.mp hget
    have hi' : i < 1024 := by simpa using hi
    refine ⟨hi', ?_⟩
    unfold Core.handle
    rw [dif_pos hi']
    simpa using hp
  · rintro ⟨hk, hp⟩
    refine ⟨c.handle k, k, ⟨?_, hp⟩, rfl⟩
    simp [Core.handle, hk]

theorem State.handle_modHandle (s : State) {b k : Nat} (hb : b < 160) (hk : k < 1024) (k' : Nat) (f : Handle → Handle) :
    (s.modHandle b k f).handle b k' = if k' = k then f (s.handle b k) else s.handle b k' := by
  unfold State.modHandle State.handle
  rw [State.core_modCore, if_pos ⟨rfl, hb⟩, dif_pos hk]
  unfold Core.handle
  by_cases h : k' = k
  · subst h
    simp [hk]
  · by_cases hk' : k' < 1024
    · simp [hk', h, Ne.symm h]
    · simp [hk', h]

/-- What `f` leaves alone of a core's handles is the same. -/
theorem State.handle_modCore {f : Core → Core} (hf : ∀ c, (f c).handles = c.handles) (s : State) (b b' k : Nat) :
    (s.modCore b f).handle b' k = s.handle b' k :=
  s.core_modCore_field (fun c => c.handle k) (fun c => by unfold Core.handle; simp only [hf]) b b'

theorem State.freeSlot_frees (s : State) {b k : Nat} (hb : b < 160) (hk : k < 1024) : ((s.freeSlot b k).handle b k).st = .free := by
  unfold State.freeSlot
  dsimp only
  rw [State.handle_modHandle _ hb hk, if_pos rfl]

theorem State.freeSlot_keepsFree {s : State} {b k : Nat} (hb : b < 160) (j : Nat) (h : (s.handle b k).st = .free) :
    ((s.freeSlot b j).handle b k).st = .free := by
  by_cases hj : j < 1024
  · by_cases hkj : k = j
    · subst hkj
      exact s.freeSlot_frees hb hj
    · unfold State.freeSlot
      dsimp only
      rw [State.handle_modHandle _ hb hj, if_neg hkj]
      exact h
  · unfold State.freeSlot State.modHandle
    simp only [hj, ↓reduceDIte]
    rw [State.handle_modCore (fun _ => rfl)]
    exact h

theorem State.freeSlot_core_field {α : Type} (g : Core → α) (hg : ∀ (c : Core) x, g { c with handles := x } = g c) (s : State) (b k b' : Nat) :
    g ((s.freeSlot b k).core b') = g (s.core b') := by
  refine (State.core_modCore_field g (fun c => ?_) s.newId.2 b b').trans rfl
  split
  · exact hg ..
  · rfl

theorem State.freeSlot_parts (s : State) (b k : Nat) : (s.freeSlot b k).parts = s.parts :=
  State.modHandle_parts s.newId.2 b k _

/-- The slots of a team's crews are emptied and its handles freed. -/
def State.vacate (s : State) (b : Nat) (t : Team) : State :=
  let s := t.slots.foldl (fun (s : State) sl => s.setCrew b sl none) s
  ((s.core b).slotsWhere fun h => h.team == t.id && h.st != .free).foldl (fun (s : State) k => s.freeSlot b k) s

/-- The tiles that a team keeps for its chain successor (02 R41). -/
def State.keepTiles (s : State) (b : Nat) (t : Team) : State :=
  match (s.launch t.part t.launch).bind fun ln => (s.part t.part).task ln.task |>.map fun k => (ln, k) with
  | some (ln, k) => if ln.hdr.keepTas && ln.hdr.tasN != 0 then
      match k.chain with
      | some succ => s.modCore b fun c => { c with kept := c.kept ++ [{ part := t.part, task := succ, l := t.l, tas64 := ln.hdr.tas64, units := t.units }] }
      | none => s
    else s
  | none => s

/-- A team leaves its core's list, and the ended copies kept for it go. -/
def Core.withoutTeam (c : Core) (id : Nat) : Core :=
  { c with teams := c.teams.filter fun u => u.id != id, oldCopies := c.oldCopies.filter fun o => o.team != id }

theorem State.retireTeam_eq (s : State) (b : Nat) (t : Team) : s.retireTeam b t =
    (((((s.keepTiles b t).vacate b t).modCore b fun c => c.withoutTeam t.id).modLaunch t.part t.launch
      fun ln => { ln with retired := ln.retired + 1 }).reserveDebug b).wakeUnits b := rfl

theorem State.keepTiles_eq (s : State) (b : Nat) (t : Team) :
    s.keepTiles b t = s ∨ ∃ k, s.keepTiles b t = s.modCore b fun c => { c with kept := c.kept ++ k } := by
  unfold State.keepTiles
  split
  · split
    · split
      · exact .inr ⟨_, rfl⟩
      · exact .inl rfl
    · exact .inl rfl
  · exact .inl rfl

theorem State.keepTiles_core_field {α : Type} (g : Core → α) (hg : ∀ (c : Core) x, g { c with kept := x } = g c) (s : State) (b : Nat) (t : Team)
    (b' : Nat) : g ((s.keepTiles b t).core b') = g (s.core b') := by
  rcases s.keepTiles_eq b t with h | ⟨k, h⟩
  · rw [h]
  · rw [h]
    exact State.core_modCore_field g (fun c => hg ..) s b b'

theorem State.keepTiles_parts (s : State) (b : Nat) (t : Team) : (s.keepTiles b t).parts = s.parts := by
  rcases s.keepTiles_eq b t with h | ⟨k, h⟩
  · rw [h]
  · rw [h, State.modCore_parts]

theorem State.crew_setCrew_none {s : State} {b sl : Nat} (sl' : Nat) (h : s.crew b sl = none ∨ sl' = sl) : (s.setCrew b sl' none).crew b sl = none := by
  rw [State.crew_setCrew]
  split
  · rfl
  case isFalse hne =>
    rcases h with h | rfl
    · exact h
    · by_contra hc
      obtain ⟨c, hc⟩ := Option.ne_none_iff_exists'.mp hc
      exact hne ⟨rfl, rfl, State.crew_lt hc⟩

theorem State.handle_setCrew (s : State) (b sl b' k : Nat) (x : Option Crew) : (s.setCrew b sl x).handle b' k = s.handle b' k :=
  State.handle_modCore (fun c => c.setCrew_handles sl x) s b b' k

theorem State.vacate_core_field {α : Type} (g : Core → α) (hc : ∀ (c : Core) sl, g (c.setCrew sl none) = g c)
    (hh : ∀ (c : Core) x, g { c with handles := x } = g c) (s : State) (b : Nat) (t : Team) (b' : Nat) :
    g ((s.vacate b t).core b') = g (s.core b') := by
  unfold State.vacate
  refine State.foldl_keeps (P := fun u => g (u.core b') = g (s.core b')) (fun u k hu => (u.freeSlot_core_field g hh b k b').trans hu) _ ?_
  exact State.foldl_keeps (P := fun u => g (u.core b') = g (s.core b'))
    (fun u sl hu => (State.core_modCore_field g (fun c => hc c sl) u b b').trans hu) _ rfl

theorem State.vacate_parts (s : State) (b : Nat) (t : Team) : (s.vacate b t).parts = s.parts := by
  unfold State.vacate
  refine State.foldl_keeps (P := fun u => u.parts = s.parts) (fun u k hu => (u.freeSlot_parts b k).trans hu) _ ?_
  exact State.foldl_keeps (P := fun u => u.parts = s.parts) (fun u sl hu => (u.setCrew_parts b sl none).trans hu) _ rfl

theorem State.vacate_crew (s : State) (b : Nat) {t : Team} {sl : Nat} (h : sl ∈ t.slots) : (s.vacate b t).crew b sl = none := by
  unfold State.vacate
  refine State.foldl_keeps (P := fun u => u.crew b sl = none)
    (fun u k hu => (u.freeSlot_core_field (fun c => c.crew sl) (fun _ _ => rfl) b k b).trans hu) _ ?_
  exact State.foldl_makes (f := fun s sl => s.setCrew b sl none) (K := fun _ => True) (P := fun u => u.crew b sl = none) (fun _ _ _ => trivial)
    (fun u _ => State.crew_setCrew_none sl (.inr rfl)) (fun u k hu => State.crew_setCrew_none k (.inl hu)) h trivial

theorem State.vacate_handle (s : State) {b k : Nat} {t : Team} (hb : b < 160) (hk : k < 1024) (h : (s.handle b k).team = t.id) :
    ((s.vacate b t).handle b k).st = .free := by
  unfold State.vacate
  dsimp only
  generalize hu : t.slots.foldl (fun (s : State) sl => s.setCrew b sl none) s = u
  have hsame : u.handle b k = s.handle b k := by
    rw [← hu]
    exact State.foldl_keeps (P := fun u => u.handle b k = s.handle b k) (fun u sl hu => (u.handle_setCrew b sl b k none).trans hu) _ rfl
  have hkeep (v : State) (j : Nat) := v.freeSlot_keepsFree (k := k) hb j
  by_cases hfree : (u.handle b k).st = .free
  · exact State.foldl_keeps (P := fun v => (v.handle b k).st = .free) hkeep _ hfree
  · refine State.foldl_makes (f := fun s k => s.freeSlot b k) (K := fun _ => True) (P := fun v => (v.handle b k).st = .free) (fun _ _ _ => trivial)
      (fun v _ => v.freeSlot_frees hb hk) hkeep ?_ trivial
    rw [Core.mem_slotsWhere]
    refine ⟨hk, ?_⟩
    have hteam : ((u.core b).handle k).team = t.id := by rw [← h, ← hsame]; rfl
    simp only [hteam, beq_self_eq_true, Bool.true_and, bne_iff_ne, ne_eq]
    exact hfree

theorem Core.wakeUnits_crew_none {c : Core} {sl : Nat} (h : c.crew sl = none) : c.wakeUnits.crew sl = none := by
  rw [Core.crew_wakeUnits, h]
  rfl

theorem State.reserveDebug_core_field {α : Type} (g : Core → α) (hc : ∀ (c : Core) x y z, g { c.setCrew 63 x with debug := y, gated := z } = g c)
    (s : State) (b b' : Nat) : g ((s.reserveDebug b).core b') = g (s.core b') := by
  unfold State.reserveDebug State.setCrew
  split
  · rw [State.modCore_modCore]
    exact State.core_modCore_field g (fun c => hc ..) s b b'
  · rfl

theorem State.retireTeam_teams (s : State) {b : Nat} (hb : b < 160) (t : Team) :
    ((s.retireTeam b t).core b).teams = (s.core b).teams.filter fun x => x.id != t.id := by
  rw [State.retireTeam_eq]
  unfold State.wakeUnits
  rw [State.core_modCore_field Core.teams (f := Core.wakeUnits) (fun _ => rfl), State.reserveDebug_core_field Core.teams (fun c x _ _ => c.setCrew_teams 63 x),
    State.core_of_cores_eq (State.modLaunch_cores ..), State.core_modCore, if_pos ⟨rfl, hb⟩, Core.withoutTeam]
  dsimp only
  rw [State.vacate_core_field Core.teams (fun c sl => c.setCrew_teams sl none) (fun _ _ => rfl), State.keepTiles_core_field Core.teams (fun _ _ => rfl)]

theorem State.retireTeam_crew (s : State) (b : Nat) {t : Team} {sl : Nat} (h : sl ∈ t.slots) (hsl : sl < 63) :
    (s.retireTeam b t).crew b sl = none := by
  have hcore {u v : State} (h : u.cores = v.cores) : u.crew b sl = v.crew b sl := congrArg (Core.crew · sl) (State.core_of_cores_eq h b)
  rw [State.retireTeam_eq]
  have hwoken {u : State} (hu : u.crew b sl = none) : (u.wakeUnits b).crew b sl = none := by
    unfold State.wakeUnits State.crew
    rw [State.core_modCore]
    split
    · exact Core.wakeUnits_crew_none hu
    · exact hu
  apply hwoken
  rw [State.reserveDebug_crew_ne _ _ _ (Nat.ne_of_lt hsl), hcore (State.modLaunch_cores ..), State.crew_modCore]
  · exact State.vacate_crew _ _ h
  · exact fun _ => rfl

theorem State.retireTeam_handle (s : State) {b k : Nat} {t : Team} (hb : b < 160) (hk : k < 1024) (h : (s.handle b k).team = t.id) :
    ((s.retireTeam b t).handle b k).st = .free := by
  have hcore {u v : State} (h : u.cores = v.cores) : u.handle b k = v.handle b k := congrArg (Core.handle · k) (State.core_of_cores_eq h b)
  have hdebug (u : State) : (u.reserveDebug b).handle b k = u.handle b k :=
    State.reserveDebug_core_field (fun c => c.handle k) (fun c x _ _ => by unfold Core.handle; rw [Core.setCrew_handles]) u b b
  rw [State.retireTeam_eq]
  unfold State.wakeUnits
  rw [State.handle_modCore (f := Core.wakeUnits) (fun _ => rfl), hdebug, hcore (State.modLaunch_cores ..),
    State.handle_modCore (f := fun c => c.withoutTeam t.id) (fun _ => rfl)]
  refine State.vacate_handle _ hb hk (Eq.trans ?_ h)
  exact congrArg Handle.team (s.keepTiles_core_field (fun c => c.handle k) (fun _ _ => rfl) b t b)

theorem State.retireTeam_launches (s : State) (b : Nat) {t : Team} (hp : t.part < 9) :
    ((s.retireTeam b t).part t.part).launches =
      (s.part t.part).launches.map fun ln => if ln.id = t.launch then { ln with retired := ln.retired + 1 } else ln := by
  have hparts {u v : State} (h : u.parts = v.parts) := State.part_of_parts_eq h t.part
  rw [State.retireTeam_eq]
  unfold State.wakeUnits
  rw [hparts (State.modCore_parts ..), hparts (State.reserveDebug_parts ..), State.launches_modLaunch _ hp, hparts (State.modCore_parts ..),
    hparts (State.vacate_parts ..), hparts (State.keepTiles_parts ..)]

theorem exec_teamRetire {s : State} {b : Nat} {t : Team} (ht : (s.core b).team t.id = some t) (hm : s.mayRetire b t = true) :
    exec (.teamRetire b t.id) s = .next (s.retireTeam b t) := by
  show execTeamRetire b t.id s = _
  unfold execTeamRetire
  simp [ht, hm]

end Sys2Proof.Machine

/-! A team is placed (02 R34, R31, 05 R100, 09 R175, R188). -/

namespace Sys2Proof.Machine

/-- A thread that does not wait for an absent line: where it is parked, it is for a fault (16 R317, R325). -/
def Thread.OffLine (t : Thread) : Prop := ∀ w, t.st = .parked w → ∃ rid, w = .fault rid

/-- No thread of a slot waits for an absent line. -/
def State.OffLine (s : State) (b sl : Nat) : Prop := ∀ c, s.crew b sl = some c → ∀ j < 32, (c.thread j).OffLine

/-- Nothing that a placement has made ready is seen by work on hand: partitions, teams, kept tiles and crews that wait for no line are as
they were. -/
structure State.SameWork (s t : State) : Prop where
  parts : t.parts = s.parts
  teams : ∀ b, (t.core b).teams = (s.core b).teams
  kept : ∀ b, (t.core b).kept = (s.core b).kept
  crew : ∀ b sl, s.OffLine b sl → t.crew b sl = s.crew b sl

theorem State.SameWork.refl (s : State) : s.SameWork s := ⟨rfl, fun _ => rfl, fun _ => rfl, fun _ _ _ => rfl⟩

theorem State.SameWork.trans {s t u : State} (h : s.SameWork t) (g : t.SameWork u) : s.SameWork u where
  parts := g.parts.trans h.parts
  teams b := (g.teams b).trans (h.teams b)
  kept b := (g.kept b).trans (h.kept b)
  crew b sl hs := by
    have hcrew := h.crew b sl hs
    have ht : t.OffLine b sl := by
      unfold State.OffLine
      rwa [hcrew]
    exact (g.crew b sl ht).trans hcrew

theorem State.foldl_sameWork {α : Type} {f : State → α → State} (hf : ∀ (s : State) (a : α), s.SameWork (f s a)) (s : State) (l : List α) :
    s.SameWork (l.foldl f s) :=
  State.foldl_keeps (P := fun u => s.SameWork u) (fun u a hu => hu.trans (hf u a)) l (.refl s)

theorem State.modCore_sameWork (s : State) (b : Nat) {f : Core → Core} (ht : ∀ c, (f c).teams = c.teams := by exact fun _ => rfl)
    (hk : ∀ c, (f c).kept = c.kept := by exact fun _ => rfl) (hc : ∀ c, (f c).crews = c.crews := by exact fun _ => rfl) :
    s.SameWork (s.modCore b f) where
  parts := s.modCore_parts b f
  teams b' := s.core_modCore_field Core.teams ht b b'
  kept b' := s.core_modCore_field Core.kept hk b b'
  crew b' sl _ := State.crew_modCore (fun c => by unfold Core.crew; rw [hc]) s b b'

theorem State.modBank_sameWork (s : State) (b k : Nat) (f : Bank → Bank) : s.SameWork (s.modBank b k f) := by
  refine s.modCore_sameWork b (fun c => ?_) (fun c => ?_) fun c => ?_ <;> unfold Core.setBank <;> split <;> rfl

/-- A wake of the lanes parked on lines is an update of threads that leaves the others alone. -/
theorem State.wakeParked_eq (s : State) (p : Nat → Nat → Nat → Bool) : ∃ g : Thread → Thread, s.wakeParked p = s.mapThreads g ∧
    ∀ t : Thread, t.OffLine → g t = t := by
  refine ⟨_, rfl, fun t ht => ?_⟩
  split
  case h_1 b k l dst wide h =>
    obtain ⟨rid, hrid⟩ := ht _ h
    cases hrid
  case h_2 => rfl

theorem State.wakeParked_sameWork (s : State) (p : Nat → Nat → Nat → Bool) : s.SameWork (s.wakeParked p) := by
  obtain ⟨g, hg, hsame⟩ := s.wakeParked_eq p
  rw [hg]
  refine ⟨rfl, s.core_mapThreads_field Core.teams (fun _ _ => rfl) g, s.core_mapThreads_field Core.kept (fun _ _ => rfl) g, fun b sl hs => ?_⟩
  rw [State.crew_mapThreads]
  cases hc : s.crew b sl with
  | none => rfl
  | some c =>
    refine congrArg some (Crew.Alike.ext (c := c) rfl (.refl c) fun j hj => ?_)
    rw [Crew.thread_map c g hj, hsame _ (hs c hc j hj)]

theorem State.changeBank_sameWork (s : State) (b k : Nat) (m : BankMode) : s.SameWork (s.changeBank b k m) := by
  unfold State.changeBank
  dsimp only
  refine .trans ?_ (State.modBank_sameWork ..)
  have hcache (u : State) (g : Core → List CacheLine) : u.SameWork (u.modCore b fun c => { c with cache := g c }) := u.modCore_sameWork b
  have hwake := s.wakeParked_sameWork fun b' k' _ => b' == b && k' == k
  generalize hv : (if _ = BankMode.cache then _ else _ : State) = v
  have hkeep : s.SameWork v := by
    rw [← hv]
    split
    · exact hwake.trans (hcache _ _)
    · exact hwake
  split
  · exact hkeep.trans (v.modCore_sameWork b)
  · exact hkeep

theorem State.takeBank_sameWork (s : State) (b : Nat) (m : BankMode) (k : Nat) : s.SameWork (s.takeBank b m k) := by
  unfold State.takeBank
  split
  · exact (s.wakeParked_sameWork _).trans (State.modBank_sameWork ..)
  · exact s.changeBank_sameWork ..

theorem State.SameWork.launch {s t : State} (h : s.SameWork t) (p id : Nat) : t.launch p id = s.launch p id := by
  unfold State.launch
  rw [State.part_of_parts_eq h.parts]
theorem State.SameWork.bound {s t : State} (h : s.SameWork t) (b p task l : Nat) : t.bound b p task l = s.bound b p task l := by
  unfold State.bound
  rw [h.kept]
theorem State.SameWork.usedUnits {s t : State} (h : s.SameWork t) (b : Nat) : t.usedUnits b = s.usedUnits b := by
  unfold State.usedUnits
  simp only [h.teams, h.kept, h.launch]

/-- The banks of a team taken. -/
def State.takeBanksFor (s : State) (b : Nat) (h : Header) : State := (s.banksFor b h).foldl (fun (s : State) k => s.takeBank b k.2 k.1) s

theorem State.banksTaken_sameWork (s : State) (b : Nat) (h : Header) : s.SameWork (s.newId.2.takeBanksFor b h) :=
  .trans (t := s.newId.2) ⟨rfl, fun _ => rfl, fun _ => rfl, fun _ _ _ => rfl⟩ (State.foldl_sameWork (fun s _ => s.takeBank_sameWork ..) _ _)

/-- The units of a team: those kept for it, or free ones. -/
def State.unitsFor (s : State) (ln : Launch) (l b : Nat) : List Nat :=
  match s.bound b ln.part ln.task l with
  | some k => k.units
  | none => (pickUnits (s.usedUnits b) ln.hdr.tas64 ln.hdr.tasN).getD []

/-- Units not kept for the team take their reset values. -/
def State.clearUnits (s : State) (ln : Launch) (l b : Nat) : State :=
  if (s.bound b ln.part ln.task l).isSome then s
  else (s.unitsFor ln l b).foldl (fun (s : State) u => s.modCore b fun c => c.clearTile u ln.hdr.tas64) s

theorem State.clearUnits_sameWork (s : State) (ln : Launch) (l b : Nat) : s.SameWork (s.clearUnits ln l b) := by
  unfold State.clearUnits
  split
  · exact .refl s
  · exact State.foldl_sameWork (fun s _ => s.modCore_sameWork b) s _

/-- The core as a team finds it: its banks taken, its units clear. -/
def State.readied (s : State) (ln : Launch) (l b : Nat) : State := ((s.newId.2.takeBanksFor b ln.hdr).clearUnits ln l b)

theorem State.readied_sameWork (s : State) (ln : Launch) (l b : Nat) : s.SameWork (s.readied ln l b) :=
  (s.banksTaken_sameWork ..).trans (State.clearUnits_sameWork ..)

/-- The team that is placed. -/
def State.newTeam (s : State) (ln : Launch) (l b : Nat) : Team :=
  { id := s.nextId, part := ln.part, launch := ln.id, l, slots := (s.freeSlots b).take ln.hdr.teamCrews,
    banks := (s.banksFor b ln.hdr).map (·.1), units := (s.newId.2.takeBanksFor b ln.hdr).unitsFor ln l b }

/-- Crews at their start, by slot and logical index. -/
def State.startCrews (s : State) (ln : Launch) (team b tvec : Nat) (l : List (Nat × Nat)) : State :=
  l.foldl (fun (s : State) x => s.setCrew b x.1 (some (newCrew ln team x.2 tvec s.cycle))) s

/-- A team enters a core, which is then in use; tiles kept for it are its own. -/
def Core.withTeam (c : Core) (t : Team) (task : Nat) : Core :=
  { c with teams := c.teams ++ [t], gated := false, kept := c.kept.filter fun k => !(k.part == t.part && k.task == task && k.l == t.l) }

theorem State.placeTeam_eq (s : State) (ln : Launch) (l b : Nat) : s.placeTeam ln l b =
    (((((s.readied ln l b).modCore b fun c => c.withTeam (s.newTeam ln l b) ln.task).startCrews ln s.nextId b ((s.readied ln l b).part ln.part).tvec
      ((s.newTeam ln l b).slots.zip (List.range (s.newTeam ln l b).slots.length))).modLaunch ln.part ln.id
        fun y => { y with claimed := y.claimed.filter fun c => c.1 != l }).acquire b) := by
  rfl

/-! What the team holds. -/

theorem State.freeSlots_lt {s : State} {b sl : Nat} (h : sl ∈ s.freeSlots b) : sl < 64 := by
  unfold State.freeSlots at h
  have hlt := List.mem_range.mp (List.mem_filter.mp h).1
  split at hlt <;> omega

theorem State.freeSlots_nodup (s : State) (b : Nat) : (s.freeSlots b).Nodup := List.nodup_range.filter _

theorem pickUnits_length {used : List Nat} {tas64 : Bool} {n : Nat} {l : List Nat} (h : pickUnits used tas64 n = some l) : l.length = n := by
  unfold pickUnits at h
  dsimp only at h
  generalize (if tas64 = true then _ else _ : List Nat) = free at h
  split at h
  case isTrue hn => rw [← Option.some.inj h, List.length_take, Nat.min_eq_left hn]
  case isFalse => cases h

/-- What room for a team means for its slots, its banks and its units (02 R34). -/
theorem State.hasRoom_holds {s : State} {ln : Launch} {l b : Nat} (h : s.hasRoom ln l b = true) :
    ln.hdr.banks ≤ (s.core b).freeBanks.length ∧
    (s.bound b ln.part ln.task l = none → (pickUnits (s.usedUnits b) ln.hdr.tas64 ln.hdr.tasN).isSome = true) := by
  unfold State.hasRoom at h
  simp only [Bool.and_eq_true, decide_eq_true_eq] at h
  obtain ⟨⟨⟨⟨-, hbanks⟩, htiles⟩, -⟩, -⟩ := h
  refine ⟨Nat.le_trans (Nat.le_add_right ..) hbanks, fun hb => ?_⟩
  rwa [hb] at htiles

theorem State.takeBanks_zero (s : State) (b : Nat) (m : BankMode) (avoid : List Nat) : s.takeBanks b m 0 avoid = [] := by
  unfold State.takeBanks
  exact List.take_zero

theorem State.takeBanks_length (s : State) (b : Nat) (m : BankMode) {n : Nat} (h : n ≤ (s.core b).freeBanks.length) :
    (s.takeBanks b m n []).length = n := by
  have hall : ((s.core b).freeBanks.filter fun k => !([] : List Nat).contains k) = (s.core b).freeBanks :=
    List.filter_eq_self.mpr fun _ _ => rfl
  unfold State.takeBanks
  rw [hall, List.length_take, List.length_append]
  have hsplit := List.length_eq_length_filter_add (l := (s.core b).freeBanks) fun k => (s.bank b k).mode == m
  simp only [bne]
  omega

/-- A team that asks for no cache or FIFO banks takes its scratchpad banks. -/
theorem State.newTeam_banks {s : State} {ln : Launch} {l b : Nat} (h : s.hasRoom ln l b = true) (hc : ln.hdr.bkCache = 0) (hf : ln.hdr.bkFifo = 0) :
    (s.newTeam ln l b).banks.length = ln.hdr.bkSp := by
  obtain ⟨hbanks, -⟩ := State.hasRoom_holds h
  unfold Header.banks at hbanks
  unfold State.newTeam State.banksFor
  simp only [hc, hf, State.takeBanks_zero, List.map_nil, List.append_nil, List.length_map]
  exact s.takeBanks_length b .spad (by omega)

theorem State.newTeam_units {s : State} {ln : Launch} {l b : Nat} (h : s.hasRoom ln l b = true) :
    (s.newTeam ln l b).units.length = match s.bound b ln.part ln.task l with
      | some k => k.units.length
      | none => ln.hdr.tasN := by
  have hsame := s.banksTaken_sameWork b ln.hdr
  obtain ⟨-, hunits⟩ := State.hasRoom_holds h
  unfold State.newTeam State.unitsFor
  dsimp only
  rw [hsame.bound, hsame.usedUnits]
  split
  case h_1 => rfl
  case h_2 hnone =>
    obtain ⟨us, hus⟩ := Option.isSome_iff_exists.mp (hunits hnone)
    rw [hus]
    exact pickUnits_length hus

/-! Its crews. -/

theorem State.startCrews_core_field {α : Type} (g : Core → α) (hg : ∀ (c : Core) sl x, g (c.setCrew sl x) = g c) (s : State) (ln : Launch)
    (team b tvec : Nat) (l : List (Nat × Nat)) (b' : Nat) : g ((s.startCrews ln team b tvec l).core b') = g (s.core b') :=
  State.foldl_keeps (P := fun u => g (u.core b') = g (s.core b')) (fun u _ hu => (State.core_modCore_field g (fun c => hg c _ _) u b b').trans hu)
    l rfl

theorem State.startCrews_crew_ne (s : State) (ln : Launch) (team b tvec : Nat) {l : List (Nat × Nat)} {sl : Nat} (h : sl ∉ l.map Prod.fst) :
    (s.startCrews ln team b tvec l).crew b sl = s.crew b sl := by
  unfold State.startCrews
  induction l generalizing s with
  | nil => rfl
  | cons x l ih =>
    rw [List.map_cons, List.mem_cons, not_or] at h
    rw [List.foldl_cons, ih _ h.2, State.crew_setCrew, if_neg fun e => h.1 e.2.1]

theorem State.startCrews_crew (s : State) (ln : Launch) (team tvec : Nat) {b : Nat} (hb : b < 160) {l : List (Nat × Nat)}
    (hnodup : (l.map Prod.fst).Nodup) {x : Nat × Nat} (hx : x ∈ l) (hsl : x.1 < 64) :
    ∃ cycle, (s.startCrews ln team b tvec l).crew b x.1 = some (newCrew ln team x.2 tvec cycle) := by
  induction l generalizing s with
  | nil => cases hx
  | cons y l ih =>
    rw [List.map_cons, List.nodup_cons] at hnodup
    rcases List.mem_cons.mp hx with rfl | hx
    · refine ⟨s.cycle, (State.startCrews_crew_ne _ ln team b tvec hnodup.1).trans ?_⟩
      rw [State.crew_setCrew, if_pos ⟨rfl, rfl, hb, hsl⟩]
    · exact ih _ hnodup.2 hx

/-- A thread of a crew at its start: it has work where its index lies below E0 (02 R31, R32). -/
theorem newCrew_thread (ln : Launch) (team idx tvec cycle : Nat) {j : Nat} (hj : j < 32) :
    let t := (newCrew ln team idx tvec cycle).thread j
    t.regs = Vector.replicate 64 {} ∧ t.preds = 1 ∧ t.priv = false ∧ t.tvec = BitVec.ofNat 64 tvec ∧ t.pc = BitVec.ofNat 64 ln.entryVa ∧
      t.st = if (if ln.hdr.pair then idx * 16 + j / 2 else idx * 32 + j) < ln.hdr.ext 0 then .runnable else .exited := by
  have hf0 : idx * nlane ln.hdr.pair + visible ln.hdr.pair j = if ln.hdr.pair then idx * 16 + j / 2 else idx * 32 + j := by
    unfold nlane visible
    split <;> rfl
  unfold newCrew
  simp only [Crew.thread, hj, ↓reduceDIte, Vector.getElem_ofFn, hf0]
  generalize (if ln.hdr.pair = true then idx * 16 + j / 2 else idx * 32 + j) = f0
  split <;> exact ⟨rfl, rfl, rfl, rfl, rfl, rfl⟩

/-! The core after the placement. -/

theorem State.placeTeam_core_field {α : Type} (g : Core → α) (hcache : ∀ (c : Core) x, g { c with cache := x } = g c)
    (hcrew : ∀ (c : Core) sl x, g (c.setCrew sl x) = g c) (s : State) (ln : Launch) (l : Nat) {b : Nat} (hb : b < 160) :
    g ((s.placeTeam ln l b).core b) = g (((s.readied ln l b).core b).withTeam (s.newTeam ln l b) ln.task) := by
  rw [State.placeTeam_eq]
  unfold State.acquire
  rw [State.core_modCore_field g (fun c => hcache ..), State.core_of_cores_eq (State.modLaunch_cores ..), State.startCrews_core_field g hcrew,
    State.core_modCore, if_pos ⟨rfl, hb⟩]

theorem State.placeTeam_teams (s : State) (ln : Launch) (l : Nat) {b : Nat} (hb : b < 160) :
    ((s.placeTeam ln l b).core b).teams = (s.core b).teams ++ [s.newTeam ln l b] := by
  rw [State.placeTeam_core_field Core.teams (fun _ _ => rfl) (fun c sl x => c.setCrew_teams sl x) s ln l hb, ← (s.readied_sameWork ln l b).teams]
  rfl

theorem State.placeTeam_crew (s : State) (ln : Launch) (l : Nat) (b sl : Nat) :
    (s.placeTeam ln l b).crew b sl = (((s.readied ln l b).modCore b fun c => c.withTeam (s.newTeam ln l b) ln.task).startCrews ln s.nextId b
      ((s.readied ln l b).part ln.part).tvec ((s.newTeam ln l b).slots.zip (List.range (s.newTeam ln l b).slots.length))).crew b sl := by
  rw [State.placeTeam_eq]
  unfold State.acquire
  rw [State.crew_modCore]
  case hf => exact fun _ => rfl
  exact congrArg (Core.crew · sl) (State.core_of_cores_eq (State.modLaunch_cores ..) b)

theorem zip_range_fst (l : List Nat) : (l.zip (List.range l.length)).map Prod.fst = l :=
  List.map_fst_zip (by rw [List.length_range])

theorem State.newTeam_slots (s : State) (ln : Launch) (l b : Nat) :
    (s.newTeam ln l b).slots.Nodup ∧ ∀ sl ∈ (s.newTeam ln l b).slots, sl < 64 :=
  ⟨(s.freeSlots_nodup b).sublist (List.take_sublist ..), fun _ h => State.freeSlots_lt (List.mem_of_mem_take h)⟩

/-- Other crews of the core stay as they are. -/
theorem State.placeTeam_crew_other {s : State} {ln : Launch} {l b sl : Nat} (h : sl ∉ (s.newTeam ln l b).slots) (hoff : s.OffLine b sl) :
    (s.placeTeam ln l b).crew b sl = s.crew b sl := by
  rw [State.placeTeam_crew, State.startCrews_crew_ne _ _ _ _ _ (by rwa [zip_range_fst]), State.crew_modCore]
  · exact (s.readied_sameWork ln l b).crew b sl hoff
  · exact fun _ => rfl

/-- Each slot of the team holds a crew at its start. -/
theorem State.placeTeam_crew_new (s : State) (ln : Launch) (l : Nat) {b i : Nat} (hb : b < 160) (hi : i < (s.newTeam ln l b).slots.length) :
    ∃ cycle, (s.placeTeam ln l b).crew b (s.newTeam ln l b).slots[i] = some (newCrew ln s.nextId i (s.part ln.part).tvec cycle) := by
  obtain ⟨hnodup, hlt⟩ := s.newTeam_slots ln l b
  rw [← State.part_of_parts_eq (s.readied_sameWork ln l b).parts, State.placeTeam_crew]
  refine State.startCrews_crew _ ln s.nextId _ hb (by rwa [zip_range_fst]) (x := ((s.newTeam ln l b).slots[i], i)) ?_ (hlt _ (List.getElem_mem hi))
  refine List.mem_iff_getElem.mpr ⟨i, by simpa using hi, ?_⟩
  simp

end Sys2Proof.Machine

section

open Sys2Proof.Machine

/-- Settles O42: each step is brought to its case (`chunkAppend_…`, `dispatchPull_places`, `exec_teamRetire`, `launchComplete_done`,
`exec_runEnd`), and what it leaves is read off the lemmas about placement, retirement and the end of a run. -/
theorem launchLife : Obligations.LaunchLife := by
  refine fun s p hp => ⟨?append, ?pull, ?place, ?retire, ?complete, ?runEnd⟩
  case append =>
    intro urgent ln hln q now
    have hq : (s.part p).queueOf urgent = q := rfl
    refine ⟨fun hs hu => ⟨_, chunkAppend_unplaceable hln hs hu, s.launches_modLaunch hp ..⟩,
      fun hs hu hstack hcor => ⟨_, chunkAppend_starts hln hs hu hstack hcor, s.launches_modLaunch hp ..⟩,
      fun hs hfull => chunkAppend_full hln hs hfull, fun hs hroom => ⟨_, chunkAppend_room hln hs hroom, ?_⟩⟩
    exact s.chunkAppended hp urgent ..
  case pull =>
    intro die urgent ch rest ln s1 left hq hln hphase hst hplace keeps
    exact dispatchPull_places hq hln hphase hst hplace
  case place =>
    intro ln l b hb hroom hcache hfifo u
    refine ⟨s.newTeam ln l b, s.placeTeam_teams ln l hb, rfl, rfl, rfl, rfl, rfl, rfl, State.newTeam_banks hroom hcache hfifo,
      State.newTeam_units hroom, fun sl _ hsl hoff => State.placeTeam_crew_other hsl hoff, fun i hi => ?_⟩
    obtain ⟨cycle, hcrew⟩ := s.placeTeam_crew_new ln l hb hi
    refine ⟨_, hcrew, rfl, rfl, fun j hj => ?_⟩
    exact newCrew_thread ln s.nextId i (s.part ln.part).tvec cycle hj
  case retire =>
    rintro b t hb rfl ht hm
    exact ⟨_, exec_teamRetire ht hm, s.retireTeam_teams hb t, fun sl hsl hlt => s.retireTeam_crew b hsl hlt,
      fun k hk hteam => s.retireTeam_handle hb hk hteam, s.retireTeam_launches b hp⟩
  case complete =>
    intro ln t s1 hln hend ht hrec
    exact launchComplete_done hln hend ht hrec
  case runEnd =>
    intro r s1 hr _ hidle waiting hrecords htasks r1 hr1 hslot result
    have hwaiting : waiting = (r.tasksIn (s.part p)).filter fun t => t.st == .waiting := by
      have hfilter := List.filter_filter (p := fun t : Task => t.st == .waiting) (q := fun t => t.gslot == r.gslot) (l := (s.part p).tasks)
      simp only [Bool.and_comm (_ == TaskState.waiting)] at hfilter
      exact hfilter.symm
    have hskip : s.recordsSkipped p ((r.tasksIn (s.part p)).filter fun t => t.st == .waiting) = some s1 := by
      rw [← hwaiting]
      refine (List.foldl_ext _ _ _ fun acc t _ => congrArg acc.bind (funext fun v => ?_)).trans hrecords
      cases v.writeRecord p t.node 4 t.hdr.teams 0 (Sys2Proof.leBytes (Sys2Proof.ceilDiv t.hdr.teams 8) 0) <;> rfl
    obtain ⟨hrun, htasks', hcmd⟩ := s1.closeRun_part hp hr1 (r := r)
    refine ⟨_, exec_runEnd hr hidle (State.foldl_skipRecord hskip), hrun, ?_, ?_⟩
    · rw [htasks, hslot] at htasks'
      exact htasks'
    · have htasksIn : r.tasksIn (s1.part p) = r.tasksIn (s.part p) := by
        unfold Run.tasksIn
        rw [htasks]
      rw [htasksIn, ← hwaiting] at hcmd
      exact hcmd

end

/-! Packing and unpacking the words of an instruction (03 R53 to R56). -/

namespace Sys2Proof

@[simp] theorem opcodeOf_packWord0 (opc : BitVec 8) (e : Enc) : opcodeOf (packWord0 opc e) = opc := by
  simp [opcodeOf, packWord0, BitVec.extractLsb'_append_eq_ite, -Nat.reduceAdd]

@[simp] theorem Form.ofLen_packWord0 (opc : BitVec 8) (e : Enc) : Form.ofLen (packWord0 opc e) = e.form := by
  cases h : e.form <;>
    simp [Form.ofLen, packWord0, h, Form.lenBits, BitVec.getLsbD_append, -Nat.reduceAdd, -BitVec.getLsbD_eq_getElem]

@[simp] theorem unpack0_packWord0 (opc : BitVec 8) (e e' : Enc) :
    unpack0 (packWord0 opc e) e' = { e' with q := e.q, wb := e.wb, wa := e.wa, b := e.b, a := e.a, d := e.d } := by
  simp [unpack0, packWord0, BitVec.extractLsb'_append_eq_ite, BitVec.getLsbD_append, -Nat.reduceAdd, -BitVec.getLsbD_eq_getElem]

@[simp] theorem unpack1_packWord1 (e e' : Enc) :
    unpack1 (packWord1 e) e' =
      { e' with mod := e.mod, cp := e.cp, ft := e.ft, rm := e.rm, wc := e.wc, c := e.c, gn := e.gn, gp := e.gp } := by
  simp [unpack1, packWord1, BitVec.extractLsb'_append_eq_ite, BitVec.getLsbD_append, -Nat.reduceAdd, -BitVec.getLsbD_eq_getElem]

theorem ofBool_getLsbD {w : Nat} (x : BitVec w) (i : Nat) : BitVec.ofBool (x.getLsbD i) = x.extractLsb' i 1 := by
  ext j hj
  simp [show j = 0 by omega]

theorem Form.lenBits_ofLen (w0 : Word) : (Form.ofLen w0).lenBits = w0.extractLsb' 0 2 := by
  rw [← BitVec.extractLsb'_append_extractLsb'_eq_extractLsb' (start₁ := 0) (start₂ := 1) (len₁ := 1) (len₂ := 1) rfl,
    ← ofBool_getLsbD, ← ofBool_getLsbD]
  unfold Form.ofLen
  cases w0.getLsbD 0 <;> cases w0.getLsbD 1 <;> rfl

/-- The fields of word 0 cover it. -/
theorem packWord0_unpack0 {w0 : Word} {e : Enc} (h : Form.ofLen w0 = e.form) : packWord0 (opcodeOf w0) (unpack0 w0 e) = w0 := by
  simp (disch := rfl) only [packWord0, unpack0, opcodeOf, ← h, Form.lenBits_ofLen, ofBool_getLsbD,
    BitVec.extractLsb'_append_extractLsb'_eq_extractLsb']
  exact BitVec.extractLsb'_eq_self

/-- The fields of word 1 cover it. -/
theorem packWord1_unpack1 (w1 : Word) (e : Enc) : packWord1 (unpack1 w1 e) = w1 := by
  simp (disch := rfl) only [packWord1, unpack1, ofBool_getLsbD, BitVec.extractLsb'_append_extractLsb'_eq_extractLsb']
  exact BitVec.extractLsb'_eq_self

theorem literal_halves (x : DWord) : x.extractLsb' 32 32 ++ x.extractLsb' 0 32 = x := by
  rw [BitVec.extractLsb'_append_extractLsb'_eq_extractLsb' (start₁ := 0) (start₂ := 32) rfl]
  exact BitVec.extractLsb'_eq_self

theorem literal_low (h l : Word) : (h ++ l : DWord).extractLsb' 0 32 = l := BitVec.extractLsb'_append_eq_right

theorem literal_high (h l : Word) : (h ++ l : DWord).extractLsb' 32 32 = h := BitVec.extractLsb'_append_eq_left

namespace Encoding

@[simp] theorem err_eq_nil {c : Bool} {sub bit : Nat} : err c sub bit = [] ↔ c = false := by
  cases c <;> simp [err]

/-- An error is reported exactly when there is one (R68). -/
@[simp] theorem lowest_eq_none {l : List Err} : lowest l = none ↔ l = [] := by
  cases l with
  | nil => simp [lowest]
  | cons x xs =>
    simp only [lowest, reduceCtorEq, iff_false]
    split
    · simp
    · split <;> simp

theorem absentErrs_nil_of_fieldErrs {opc : Nat} {e : Enc} (h : fieldErrs opc e = []) : absentErrs e = [] := by
  simp only [fieldErrs, List.append_eq_nil_iff] at h
  tauto

/-- The rows of the map keep the opcode and the fields they were read from. -/
theorem opcOf_of_ofOpc {opc : Nat} {e : Enc} {i : Instr} (h : ofOpc opc e = some i) : opcOf i = some (opc, e) := by
  unfold ofOpc at h
  split at h
  case h_14 => cases h
  all_goals
    simp only [ofOpc0, ofOpc1, ofOpc2, ofOpc3, ofOpc4, ofOpc5, ofOpc6, ofOpc7, ofOpc8, ofOpcA, ofOpcB, ofOpcC, ofOpcE] at h
    repeat' split at h
    all_goals cases h
    all_goals rfl

theorem lt_of_lenSet {opc : Nat} {ls : LenSet} (h : lenSet opc = some ls) : opc < 256 := by
  by_contra hbig
  have hnone : lenSet opc = none := by
    unfold lenSet
    repeat rw [if_neg (by omega)]
  simp [hnone] at h

end Encoding

/-- The LEN field is the form's alone. -/
theorem Enc.len_congr {e e' : Enc} (h : e.form = e'.form) : e.len = e'.len := by
  unfold Enc.len
  rw [h]

theorem length_packWords (opc : BitVec 8) (e : Enc) : 4 * (packWords opc e).length = e.bytes := by
  unfold packWords Enc.bytes
  cases e.form <;> rfl

/-- What the absent words would hold is zero, so that the words present give every field back. -/
theorem unpack_packWords (opc : BitVec 8) {e : Enc} (h : Encoding.absentErrs e = []) : unpack (packWords opc e) = some e := by
  obtain ⟨form, q, wb, wa, b, a, d, mod, cp, ft, rm, wc, c, gn, gp, w2, literal⟩ := e
  cases form <;>
    simp [Encoding.absentErrs, Enc.isExt, Enc.hasLit] at h <;>
    simp [packWords, unpack, literal_halves, h]

@[simp] theorem unpack0_form (w0 : Word) (e : Enc) : (unpack0 w0 e).form = e.form := rfl
@[simp] theorem unpack0_w2 (w0 : Word) (e : Enc) : (unpack0 w0 e).w2 = e.w2 := rfl
@[simp] theorem unpack0_literal (w0 : Word) (e : Enc) : (unpack0 w0 e).literal = e.literal := rfl
@[simp] theorem unpack1_form (w1 : Word) (e : Enc) : (unpack1 w1 e).form = e.form := rfl
@[simp] theorem unpack1_w2 (w1 : Word) (e : Enc) : (unpack1 w1 e).w2 = e.w2 := rfl
@[simp] theorem unpack1_literal (w1 : Word) (e : Enc) : (unpack1 w1 e).literal = e.literal := rfl
@[simp] theorem packWord1_unpack0 (w0 : Word) (e : Enc) : packWord1 (unpack0 w0 e) = packWord1 e := rfl

/-- The words that an instruction's fields were read from are those it packs to: no bit is dropped (R53 to R56). -/
theorem packWords_of_unpack {w0 : Word} {ws : List Word} {e : Enc} (h : unpack (w0 :: ws) = some e) :
    e.form = Form.ofLen w0 ∧ packWords (opcodeOf w0) e <+: w0 :: ws := by
  simp only [unpack] at h
  split at h
  case h_5 => cases h
  all_goals
    next hform =>
      cases h
      refine ⟨hform.symm, ?_⟩
      simp only [packWords, unpack0_form, unpack0_w2, unpack0_literal, unpack1_form, unpack1_w2, unpack1_literal, packWord1_unpack0,
        packWord1_unpack1, literal_low, literal_high]
      rw [packWord0_unpack0 hform]
      simp

/-- What the decoder asks of words that it reads as an instruction (R67). -/
theorem decodeWords_eq_ok {w0 : Word} {ws : List Word} {i : Instr} {n : Nat} :
    decodeWords (w0 :: ws) = .ok i n ↔ ∃ e, unpack (w0 :: ws) = some e ∧ WellFormed.fieldsOk (opcodeOf w0).toNat e = true ∧
      Encoding.ofOpc (opcodeOf w0).toNat e = some i ∧ n = e.bytes := by
  have hlen : ∀ {e : Enc}, unpack (w0 :: ws) = some e → ({ form := Form.ofLen w0 } : Enc).len = e.len :=
    fun he => Enc.len_congr (packWords_of_unpack he).1.symm
  simp only [decodeWords, WellFormed.fieldsOk]
  generalize ({ form := Form.ofLen w0 } : Enc).len = len at hlen
  cases Encoding.lenSet (opcodeOf w0).toNat with
  | none => simp
  | some ls =>
    cases he : unpack (w0 :: ws) with
    | none => cases hls : ls.allows len <;> simp [hls]
    | some e =>
      obtain rfl := hlen he
      cases hls : ls.allows e.len with
      | false => simp [hls]
      | true =>
        cases hlow : Encoding.lowest (Encoding.fieldErrs (opcodeOf w0).toNat e) with
        | none =>
          have hnil := Encoding.lowest_eq_none.mp hlow
          cases hi : Encoding.ofOpc (opcodeOf w0).toNat e <;> simp [hls, hnil, hi, Encoding.lowest, @eq_comm _ n]
        | some x =>
          have herrs : ¬ Encoding.fieldErrs (opcodeOf w0).toNat e = [] := by
            rw [← Encoding.lowest_eq_none, hlow]
            simp
          simp [hls, hlow, herrs]

theorem wordsOf_flatMap_wordBytes (ws : List Word) : wordsOf (ws.flatMap wordBytes) = ws := by
  induction ws with
  | nil => rfl
  | cons w ws ih =>
    have hw : w.extractLsb' 24 8 ++ w.extractLsb' 16 8 ++ w.extractLsb' 8 8 ++ w.extractLsb' 0 8 = w := by
      simp (disch := rfl) only [BitVec.extractLsb'_append_extractLsb'_eq_extractLsb']
      exact BitVec.extractLsb'_eq_self
    simp only [List.flatMap_cons, wordBytes, List.cons_append, List.nil_append, wordsOf, ih]
    exact congrArg (· :: ws) hw

/-- The decoder reads an instruction back from its bytes. -/
theorem decodeBytes_encodeBytes (i : Instr) : decodeBytes (encodeBytes i) = decodeWords (encode i) := by
  rw [decodeBytes, encodeBytes, wordsOf_flatMap_wordBytes]

theorem fieldsOk_absentErrs {opc : Nat} {e : Enc} (h : WellFormed.fieldsOk opc e = true) : Encoding.absentErrs e = [] := by
  simp only [WellFormed.fieldsOk, Bool.and_eq_true, List.isEmpty_iff] at h
  exact Encoding.absentErrs_nil_of_fieldErrs h.2

theorem fieldsOk_lt {opc : Nat} {e : Enc} (h : WellFormed.fieldsOk opc e = true) : opc < 256 := by
  cases hls : Encoding.lenSet opc with
  | none => simp [WellFormed.fieldsOk, hls] at h
  | some ls => exact Encoding.lt_of_lenSet hls

theorem wf_iff_of_opcOf {i : Instr} {opc : Nat} {e : Enc} (h : Encoding.opcOf i = some (opc, e)) :
    i.wf = true ↔ WellFormed.fieldsOk opc e = true ∧ Encoding.ofOpc opc e = some i := by
  simp [Instr.wf, h]

theorem decodeWords_packWords {opc : BitVec 8} {e : Enc} {i : Instr} (hok : WellFormed.fieldsOk opc.toNat e = true)
    (hi : Encoding.ofOpc opc.toNat e = some i) : decodeWords (packWords opc e) = .ok i e.bytes := by
  obtain ⟨ws, hws⟩ : ∃ ws, packWords opc e = packWord0 opc e :: ws := by
    unfold packWords
    cases e.form <;> exact ⟨_, rfl⟩
  have hun := unpack_packWords opc (fieldsOk_absentErrs hok)
  rw [hws] at hun ⊢
  rw [decodeWords_eq_ok, opcodeOf_packWord0]
  exact ⟨e, hun, hok, hi, rfl⟩

/-- Decoding the words of a well-formed instruction gives it back. -/
theorem decodeWords_encode {i : Instr} (hwf : i.wf = true) (hne : encode i ≠ []) :
    decodeWords (encode i) = .ok i (4 * (encode i).length) := by
  cases h : Encoding.opcOf i with
  | none => simp [encode, h] at hne
  | some x =>
    obtain ⟨opc, e⟩ := x
    obtain ⟨hok, hi⟩ := (wf_iff_of_opcOf h).mp hwf
    have hopc : (BitVec.ofNat 8 opc).toNat = opc := Nat.mod_eq_of_lt (fieldsOk_lt hok)
    simp only [encode, h, length_packWords]
    exact decodeWords_packWords (hopc.symm ▸ hok) (hopc.symm ▸ hi)

/-- An instruction that words decode to is well-formed, and those are its words. -/
theorem decodeWords_ok_inv {ws : List Word} {i : Instr} {n : Nat} (h : decodeWords ws = .ok i n) :
    i.wf = true ∧ n = 4 * (encode i).length ∧ encode i <+: ws := by
  cases ws with
  | nil => cases h
  | cons w0 ws =>
    obtain ⟨e, hun, hok, hi, rfl⟩ := decodeWords_eq_ok.mp h
    have hopc := Encoding.opcOf_of_ofOpc hi
    have henc : encode i = packWords (opcodeOf w0) e := by simp [encode, hopc]
    rw [henc, length_packWords]
    exact ⟨(wf_iff_of_opcOf hopc).mpr ⟨hok, hi⟩, rfl, (packWords_of_unpack hun).2⟩

end Sys2Proof

/-- Settles O57: the fields that pass the checks are those that the words hold, and the rows of the map keep opcode and fields. -/
theorem decodeEncode : Obligations.DecodeEncode :=
  ⟨fun i hwf hne => (Sys2Proof.decodeBytes_encodeBytes i).trans (Sys2Proof.decodeWords_encode hwf hne),
    fun _ _ _ h => Sys2Proof.decodeWords_ok_inv h⟩

/-! Fetch (03 R53, R69): the words at a PC are the code's bytes, little-endian. -/

namespace Sys2Proof.Machine

theorem extractLsb'_leNat (f : Nat → Byte) {k : Nat} (hk : k < 4) :
    (BitVec.ofNat 32 (leNat ((List.range 4).map f))).extractLsb' (8 * k) 8 = f k := by
  have hle : leNat ((List.range 4).map f) = (f 0).toNat + 256 * ((f 1).toNat + 256 * ((f 2).toNat + 256 * (f 3).toNat)) := rfl
  have h0 := (f 0).isLt
  have h1 := (f 1).isLt
  have h2 := (f 2).isLt
  have h3 := (f 3).isLt
  apply BitVec.eq_of_toNat_eq
  rw [BitVec.extractLsb'_toNat, BitVec.toNat_ofNat, hle, Nat.shiftRight_eq_div_pow]
  interval_cases k <;> omega

theorem State.fetchWord_inl {s : State} {x : Lane} {va : Nat} {w : Word} (h : s.fetchWord x va = .inl w) :
    ∃ pa, s.translate x va va { align := 4, write := false, fetch := true } = .mem (.glob pa) ∧
      ∀ k < 4, w.extractLsb' (8 * k) 8 = s.codeByte x (pa + k) := by
  unfold State.fetchWord at h
  split at h
  · cases h
  split at h
  · cases h
  split at h <;> cases h
  next pa hpa => exact ⟨pa, hpa, fun k hk => extractLsb'_leNat (fun i => s.codeByte x (pa + i)) hk⟩

theorem State.fetchWords_inl {s : State} {x : Lane} {n va : Nat} {ws : List Word} (hva : va < 2 ^ 64) (h : s.fetchWords x va n = .inl ws) :
    ws.length = n ∧ ∀ j (hj : j < ws.length), s.fetchWord x ((va + 4 * j) % 2 ^ 64) = .inl ws[j] := by
  induction n generalizing va ws with
  | zero =>
    cases h
    exact ⟨rfl, fun j hj => absurd hj (Nat.not_lt_zero j)⟩
  | succ n ih =>
    unfold State.fetchWords at h
    split at h
    · cases h
    next w hw =>
      split at h
      · cases h
      next rest hrest =>
        cases h
        obtain ⟨hlen, hwords⟩ := ih (Nat.mod_lt _ (by decide)) hrest
        refine ⟨congrArg Nat.succ hlen, fun j hj => ?_⟩
        cases j with
        | zero => rwa [Nat.mul_zero, Nat.add_zero, Nat.mod_eq_of_lt hva]
        | succ j =>
          have haddr : (va + 4 * (j + 1)) % 2 ^ 64 = ((va + 4) % 2 ^ 64 + 4 * j) % 2 ^ 64 := by omega
          rw [haddr]
          exact hwords j (Nat.lt_of_succ_lt_succ hj)

/-- The words at a lane's PC: as many as the first asks for, one after another. -/
theorem State.fetch_inl {s : State} {x : Lane} {ws : List Word} (h : s.fetch x = .inl ws) :
    ws.length = headBytes (ws.headD 0) / 4 - 1 + 1 ∧
    ∀ j (hj : j < ws.length), s.fetchWord x (((s.laneThread x).pc.toNat + 4 * j) % 2 ^ 64) = .inl ws[j] := by
  unfold State.fetch at h
  dsimp only at h
  split at h
  · cases h
  next w hw =>
    split at h
    · cases h
    next rest hrest =>
      cases h
      have hall : s.fetchWords x (s.laneThread x).pc.toNat (headBytes w / 4 - 1 + 1) = .inl (w :: rest) := by
        unfold State.fetchWords
        simp only [hw, hrest]
      exact State.fetchWords_inl (s.laneThread x).pc.isLt hall

/-- A byte of the code of a launch, as it was when the launch started. -/
theorem State.codeByte_of_launch {s : State} {x : Lane} {pa : Nat} {t : Team} {ln : Launch} (ht : s.teamOf x.core x.slot = some t)
    (hln : s.launch t.part t.launch = some ln) (hkey : s.keyLoaded (paKey pa) = true)
    (hsame : lookupNat ln.codeOld (paAddr pa) (lookupNat ln.codeKeys (paAddr pa / 128) 0) = s.keyOf (paKey pa)) :
    s.codeByte x pa = memGet ln.code (paAddr pa) := by
  unfold State.codeByte State.readAs
  simp [ht, hln, hkey, hsame]

/-! The bundle of a crew (16 R318, R321). -/

theorem mem_of_mem_ite_filter {α : Type} {b : Bool} {l : List α} {p : α → Bool} {a : α} (h : a ∈ if b then l else l.filter p) : a ∈ l := by
  split at h
  · exact h
  · exact List.mem_of_mem_filter h

/-- The lanes that issue together are runnable, at one PC. -/
theorem Crew.bundle_together {c : Crew} {pair : Bool} {l : Nat} {ls : List Nat} (h : c.bundle pair = l :: ls) :
    ∀ j ∈ l :: ls, (c.thread j).st = .runnable ∧ (c.thread j).pc = (c.thread l).pc := by
  unfold Crew.bundle at h
  dsimp only at h
  split at h
  · cases h
  next k _ =>
    have hmem : ∀ j ∈ l :: ls, (c.thread j).st = .runnable ∧ (c.thread j).pc = (c.thread k).pc := by
      intro j hj
      rw [← h, List.mem_filter] at hj
      have hready := List.of_mem_filter (mem_of_mem_ite_filter (mem_of_mem_ite_filter hj.1))
      simp only [Bool.and_eq_true, beq_iff_eq] at hready hj
      exact ⟨hready.1, hj.2⟩
    intro j hj
    exact ⟨(hmem j hj).1, (hmem j hj).2.trans (hmem l (List.mem_cons_self ..)).2.symm⟩

theorem Crew.resorted_eq (c : Crew) (cycle : Nat) :
    c.resorted cycle = if cycle < c.sortedAt + 4 then c else { c with order := c.sorted, sortedAt := cycle } := by
  unfold Crew.resorted
  by_cases h : cycle < c.sortedAt + 4
  · simp [h]
  · by_cases ho : c.order = c.sorted
    · simp [h, ← ho]
    · simp [h, ho]

theorem Crew.aged_pc (c : Crew) (pair : Bool) (lanes : List Nat) (cycle l : Nat) :
    ((c.aged pair lanes cycle).thread l).pc = (c.thread l).pc := by
  unfold Crew.aged
  dsimp only
  refine List.foldlRecOn (motive := fun d : Crew => (d.thread l).pc = (c.thread l).pc) _ _ ?_ fun d hd k _ => ?_
  · by_cases hl : l < 32 <;> simp [Crew.thread, hl]
  · have hmod {f : Thread → Thread} (hf : ∀ t, (f t).pc = t.pc) : ((d.modThread k f).thread l).pc = (c.thread l).pc := by
      rw [Crew.thread_modThread]
      split
      case isTrue e => rw [hf, ← e.1, hd]
      case isFalse => exact hd
    cases pair
    all_goals
      simp only [Bool.false_eq_true, ↓reduceIte]
      split
      · exact hmod fun _ => rfl
      split
      · exact hmod fun _ => rfl
      · exact hd

/-! What an issue slot comes to. -/

/-- Reading a word under a key that is not loaded is counted, and nothing else. -/
theorem State.fetched_cores (s : State) (x : Lane) (va n : Nat) : (s.fetched x va n).cores = s.cores := by
  unfold State.fetched State.keyless
  split
  · split
    · rfl
    · exact State.count_cores ..
  · rfl

theorem State.facing_cores (s : State) (b sl : Nat) (lanes : List Nat) (pc : DWord) (ws : List Word) :
    (s.facing b sl lanes pc ws).cores = s.cores := by
  unfold State.facing
  dsimp only
  split <;> rfl

/-- The bundle at hand is the one that issues. -/
theorem State.facing_cur (s : State) (b sl : Nat) (lanes : List Nat) (pc : DWord) (ws : List Word) :
    ∃ vec dst, (s.facing b sl lanes pc ws).cur = some { core := b, slot := sl, lanes, pc, vec, dst } := by
  unfold State.facing
  dsimp only
  split <;> exact ⟨_, _, rfl⟩

/-- What an issue slot comes to by what its words decode to, where no handle table errs. -/
def Issued.ofDecoded (w : State) : Decoded → Issued
  | .ok i _ => .run w i
  | .illegalOpcode opc => .run w (.illegalOpcode opc)
  | .illegalEncoding sub bit => .bad w sub bit
  | .truncated => .nothing w

/-- A bundle that meets no breakpoint and fetches its words runs what they decode to. -/
theorem State.issueLanes_decoded {u : State} {b sl l : Nat} {ls : List Nat} {pc : DWord} {ws : List Word} (hpc : (u.thread b sl l).pc = pc)
    (hbp : u.breakpoint b sl (l :: ls) pc = none) (hfails : u.fetchFails b sl (l :: ls) = none) (hws : u.fetch ⟨b, sl, l⟩ = .inl ws)
    (hbad : ∀ i n, decodeWords ws = .ok i n → (u.core b).badHandles = false ∨ readsHandles (opcodeOf (ws.headD 0)).toNat = false) :
    u.issueLanes b sl (l :: ls) =
      Issued.ofDecoded ((u.fetched ⟨b, sl, l⟩ pc.toNat ws.length).facing b sl (l :: ls) pc ws) (decodeWords ws) := by
  have hcores : ((u.fetched ⟨b, sl, l⟩ pc.toNat ws.length).facing b sl (l :: ls) pc ws).core b = u.core b :=
    State.core_of_cores_eq ((State.facing_cores ..).trans (State.fetched_cores ..)) b
  unfold State.issueLanes
  simp only [hpc, hbp, hfails, hws]
  cases hdec : decodeWords ws with
  | ok i n =>
    have hoff : ((u.core b).badHandles && readsHandles (opcodeOf (ws.headD 0)).toNat) = false := by
      rcases hbad i n hdec with h | h <;> simp only [h, Bool.false_and, Bool.and_false]
    simp only [hcores, hoff, Issued.ofDecoded, Bool.false_eq_true, ↓reduceIte]
  | illegalOpcode | illegalEncoding | truncated => rfl

/-- The crew as it stands in the slot that its port gave it. -/
theorem State.issue_issueLanes {t : State} {b sl : Nat} {c0 : Crew} {second : List Nat} (hcrew : t.crew b sl = some c0)
    (hsel : t.selectCrew b (sl % 4) = some sl) (hbad : c0.bad = false) :
    let pair := (t.hdrOf b sl).pair
    let c := c0.resorted t.cycle
    let t1 := if (t.core b).vector.isNone then t else t.modCore b fun k => { k with vector := none }
    t.issue b sl second = (t1.setCrew b sl (some (c.aged pair (t1.issuing b sl (c.bundle pair) ++ t1.issuing b sl second) t.cycle))).issueLanes
      b sl (c.bundle pair) := by
  have hcycle : (if (t.core b).vector.isNone then t else t.modCore b fun k => { k with vector := none }).cycle = t.cycle := by
    split <;> simp
  have hbad' : (c0.resorted t.cycle).bad = false := hbad
  unfold State.issue
  simp only [hcrew, hsel, hcycle, hbad', ne_eq, not_true_eq_false, Bool.false_eq_true, ↓reduceIte]

theorem step_issue {s : State} {b sl : Nat} {rest : List Act} (h : s.agenda = .issue b sl :: rest) (hawake : s.asleep = false) :
    step s = runIssued (({ s.tick with agenda := rest } : State).issue b sl) := by
  rw [step_of_agenda h]
  exact if_neg (Bool.eq_false_iff.mp hawake)

theorem step_dual {s : State} {b sl : Nat} {rest : List Act} (h : s.agenda = .dual b sl :: rest) (hawake : s.asleep = false) :
    step s = runDual { s.tick with agenda := rest } b sl := by
  rw [step_of_agenda h]
  exact if_neg (Bool.eq_false_iff.mp hawake)

theorem runDual_nil {s : State} {b sl : Nat} (h : s.secondBundle b sl = []) : runDual s b sl = runIssued (s.issue b sl) := by
  unfold runDual
  simp only [h]

theorem runDual_second {s s' : State} {b sl l : Nat} {ls : List Nat} (h : s.secondBundle b sl = l :: ls)
    (hsel : s.selectCrew b (sl % 4) = some sl) (hfirst : runIssued (s.issue b sl (l :: ls)) = .next s') :
    runDual s b sl = runIssued (s'.issueSecond b sl (l :: ls) (s.thread b sl l).pc) := by
  unfold runDual
  simp only [h, hfirst, hsel, ↓reduceIte]

end Sys2Proof.Machine

section
open Sys2Proof Sys2Proof.Machine

/-- Settles O55: a slot's bundle is brought to what its words decode to (`State.issue_issueLanes`, `State.issueLanes_decoded`), and the
words to the code's bytes (`State.fetch_inl`, `State.codeByte_of_launch`). -/
theorem stepRunsDecoded : Obligations.StepRunsDecoded := by
  refine ⟨?step, fun s x ws hws => ?fetch, ?code⟩
  case step =>
    intro s a rest hagenda hasleep t
    refine ⟨?event, ?issue, ?dual⟩
    case event =>
      rintro i rfl
      rw [step_of_agenda hagenda]
      exact if_neg (by simp [show s.tick.asleep = false from hasleep])
    case issue =>
      rintro b sl c0 l ls rfl hcrew hsel hbad pair c pc t1 hbundle hissuing
      refine ⟨Crew.bundle_together hbundle, fun hbp hfails ws hws => ?_⟩
      have hlane : ((t1.setCrew b sl (some (c.aged pair (l :: ls) t.cycle))).thread b sl l).pc = pc := by
        rw [State.thread_eq, State.crew_setCrew, if_pos ⟨rfl, rfl, State.crew_lt hcrew⟩]
        exact Crew.aged_pc ..
      have hstep : step s = runIssued ((t1.setCrew b sl (some (c.aged pair (l :: ls) t.cycle))).issueLanes b sl (l :: ls)) := by
        have hc : c0.resorted t.cycle = c := Crew.resorted_eq ..
        have hissuing' : t1.issuing b sl (l :: ls) ++ t1.issuing b sl [] = l :: ls := by
          rw [hissuing]
          exact List.append_nil _
        rw [step_issue hagenda hasleep, State.issue_issueLanes hcrew hsel hbad, hc, hbundle, hissuing']
      have hbadHandles : ((t1.setCrew b sl (some (c.aged pair (l :: ls) t.cycle))).core b).badHandles = (t.core b).badHandles := by
        refine (State.core_modCore_field Core.badHandles (fun k => k.setCrew_badHandles sl _) t1 b b).trans ?_
        unfold t1
        split
        · rfl
        · refine State.core_modCore_field Core.badHandles ?_ t b b
          exact fun _ => rfl
      intro w
      have hrun (hoff : ∀ i n, decodeWords ws = .ok i n →
          (t.core b).badHandles = false ∨ readsHandles (opcodeOf (ws.headD 0)).toNat = false) :
          step s = runIssued (.ofDecoded w (decodeWords ws)) := by
        rw [hstep, State.issueLanes_decoded hlane hbp hfails hws (by rwa [hbadHandles])]
      refine ⟨State.facing_cur .., fun i n hdec hoff => ?_, fun opc hdec => ?_, fun sub bit hdec => ?_⟩
      · rw [hrun fun _ _ _ => hoff, hdec]
        rfl
      · rw [hrun (by simp [hdec]), hdec]
        rfl
      · rw [hrun (by simp [hdec]), hdec]
        rfl
    case dual =>
      rintro b sl rfl
      rw [step_dual hagenda hasleep]
      refine ⟨fun hnone => ?_, fun l ls s' hsecond hsel hfirst => runDual_second hsecond hsel hfirst⟩
      rw [runDual_nil hnone]
      exact (step_issue (s := { s with agenda := .issue b sl :: rest }) rfl hasleep).symm
  case fetch =>
    obtain ⟨hlen, hwords⟩ := State.fetch_inl hws
    exact ⟨hlen, fun j hj => State.fetchWord_inl (hwords j hj)⟩
  case code =>
    intro s x pa t ln
    exact State.codeByte_of_launch

/-- Settles O56: the decoder is run on each of the words. -/
theorem decodingRight : Obligations.DecodingRight := by
  unfold Obligations.DecodingRight
  and_intros <;> decide

end

/-! What stands between a lane and its instruction (03 R64, R90), once for every list of sources. -/

namespace Sys2Proof.Machine

/-- A register of an operand whose mode bit has it trap where it is empty (R64). -/
def Opnd.TrapsAt (x : Opnd) (r : Nat) : Prop := ∃ code a wide want, x = .reg code a wide true want ∧ r ∈ x.regs

/-- An empty register, of a source or of the destination, or a predicate still to be written. -/
def Thread.Blocked (t : Thread) (srcs : List Opnd) (dst : Option (Nat × Bool)) (preds : List Nat) : Prop :=
  (∃ x ∈ srcs, ∃ r ∈ x.regs, (t.reg r).full = false) ∨ (∃ r ∈ dstRegs dst, (t.reg r).full = false) ∨ ∃ p ∈ preds, p ∈ t.predWait

/-- A source whose tag the instruction does not take (R90). -/
def Opnd.Strange (t : Thread) : Opnd → Prop
  | .reg _ r wide _ want => want.ok (t.tag r wide) = false
  | .lit _ _ want => want.ok .raw = false

theorem Opnd.mem_empties {x : Opnd} {t : Thread} {r : Nat} : r ∈ x.empties t ↔ r ∈ x.regs ∧ (t.reg r).full = false := by
  simp [Opnd.empties]

theorem Opnd.emptyTrap_eq_none {x : Opnd} {t : Thread} : x.emptyTrap t = none ↔ ∀ r, x.TrapsAt r → ¬ (t.reg r).full = false := by
  cases x with
  | lit => simp [Opnd.emptyTrap, Opnd.TrapsAt]
  | reg code a wide mode want =>
    cases mode
    · simp [Opnd.emptyTrap, Opnd.TrapsAt]
    · simp [Opnd.emptyTrap, Opnd.TrapsAt, Opnd.empties]

theorem Opnd.emptyTrap_cause {x : Opnd} {t : Thread} {q : Trap} (h : x.emptyTrap t = some q) : ∃ n, q = { cause := 0x05, info := n } := by
  unfold Opnd.emptyTrap at h
  split at h
  · obtain ⟨r, -, rfl⟩ := Option.map_eq_some_iff.mp h
    exact ⟨_, rfl⟩
  · cases h

theorem Opnd.tagTrap_eq_none {x : Opnd} {t : Thread} : x.tagTrap t = none ↔ ¬ x.Strange t := by
  cases x with
  | reg _ r wide _ want => cases h : want.ok (t.tag r wide) <;> simp [Opnd.tagTrap, Opnd.Strange, Opnd.tag, h]
  | lit _ _ want => cases h : want.ok .raw <;> simp [Opnd.tagTrap, Opnd.Strange, h]

theorem Opnd.tagTrap_cause {x : Opnd} {t : Thread} {q : Trap} (h : x.tagTrap t = some q) : ∃ n, q = { cause := cFormat, info := n } := by
  unfold Opnd.tagTrap at h
  split at h <;> split at h <;> cases h <;> exact ⟨_, rfl⟩

/-- A register that traps where it is empty blocks the lane. -/
theorem Thread.blocked_of_trapsAt {t : Thread} {srcs : List Opnd} {dst : Option (Nat × Bool)} {preds : List Nat}
    (h : ∃ x ∈ srcs, ∃ r, x.TrapsAt r ∧ (t.reg r).full = false) : t.Blocked srcs dst preds := by
  obtain ⟨x, hx, r, ⟨-, -, -, -, -, hr⟩, hempty⟩ := h
  exact .inl ⟨x, hx, r, hr, hempty⟩

/-- The waits of `operandFate`, empty where nothing blocks the lane. -/
theorem Thread.blocked_iff {t : Thread} {srcs : List Opnd} {dst : Option (Nat × Bool)} {preds : List Nat} :
    (!(srcs.flatMap (fun o => o.empties t) ++ (dstRegs dst).filter fun r => !(t.reg r).full).isEmpty ||
      !(preds.filter t.predWait.contains).isEmpty) = true ↔ t.Blocked srcs dst preds := by
  simp only [Thread.Blocked, Bool.or_eq_true, Bool.not_eq_true', List.isEmpty_eq_false_iff_exists_mem, List.mem_append, List.mem_flatMap,
    List.mem_filter, Opnd.mem_empties, List.contains_iff_mem, exists_or, or_assoc]
  refine or_congr ⟨?_, ?_⟩ Iff.rfl
  · rintro ⟨r, x, hx, hr⟩
    exact ⟨x, hx, r, hr⟩
  · rintro ⟨x, hx, r, hr⟩
    exact ⟨r, x, hx, hr⟩

/-- The checks in the manual's order: which of the four fates a lane has (R64, R67 step 4, R90). -/
theorem operandFate_cases (t : Thread) (srcs : List Opnd) (dst : Option (Nat × Bool)) (preds : List Nat) :
    (∃ x ∈ srcs, ∃ r, x.TrapsAt r ∧ (t.reg r).full = false) ∧ (∃ n, operandFate t srcs dst preds = .trap { cause := 0x05, info := n }) ∨
    (¬ ∃ x ∈ srcs, ∃ r, x.TrapsAt r ∧ (t.reg r).full = false) ∧
      (t.Blocked srcs dst preds ∧ (∃ ns, operandFate t srcs dst preds = .wait ns) ∨
        ¬ t.Blocked srcs dst preds ∧ ((∃ x ∈ srcs, x.Strange t) ∧ (∃ n, operandFate t srcs dst preds = .trap { cause := cFormat, info := n }) ∨
          (¬ ∃ x ∈ srcs, x.Strange t) ∧ operandFate t srcs dst preds = .ready)) := by
  unfold operandFate
  cases hempty : srcs.findSome? fun o => o.emptyTrap t with
  | some q =>
    obtain ⟨x, hx, hq⟩ := List.exists_of_findSome?_eq_some hempty
    obtain ⟨n, rfl⟩ := Opnd.emptyTrap_cause hq
    have hnot : ¬ x.emptyTrap t = none := by simp [hq]
    rw [Opnd.emptyTrap_eq_none] at hnot
    push Not at hnot
    exact .inl ⟨⟨x, hx, hnot⟩, n, rfl⟩
  | none =>
    refine .inr ⟨fun ⟨x, hx, r, hr, hreg⟩ => Opnd.emptyTrap_eq_none.mp (List.findSome?_eq_none_iff.mp hempty x hx) r hr hreg, ?_⟩
    dsimp only
    by_cases hb : t.Blocked srcs dst preds
    · rw [if_pos (Thread.blocked_iff.mpr hb)]
      exact .inl ⟨hb, _, rfl⟩
    · rw [if_neg (mt Thread.blocked_iff.mp hb)]
      refine .inr ⟨hb, ?_⟩
      cases htag : srcs.findSome? fun o => o.tagTrap t with
      | some q =>
        obtain ⟨x, hx, hq⟩ := List.exists_of_findSome?_eq_some htag
        obtain ⟨n, rfl⟩ := Opnd.tagTrap_cause hq
        have hstrange : ¬ ¬ x.Strange t := by simp [← Opnd.tagTrap_eq_none, hq]
        exact .inl ⟨⟨x, hx, not_not.mp hstrange⟩, n, rfl⟩
      | none => exact .inr ⟨fun ⟨x, hx, hs⟩ => Opnd.tagTrap_eq_none.mp (List.findSome?_eq_none_iff.mp htag x hx) hs, rfl⟩

/-- Each fate with its condition. -/
theorem operandFate_iff (t : Thread) (srcs : List Opnd) (dst : Option (Nat × Bool)) (preds : List Nat) :
    ((∃ n, operandFate t srcs dst preds = .trap { cause := 0x05, info := n }) ↔ ∃ x ∈ srcs, ∃ r, x.TrapsAt r ∧ (t.reg r).full = false) ∧
    ((∃ ns, operandFate t srcs dst preds = .wait ns) ↔
      t.Blocked srcs dst preds ∧ ∀ x ∈ srcs, ∀ r, x.TrapsAt r → ¬ (t.reg r).full = false) ∧
    ((∃ n, operandFate t srcs dst preds = .trap { cause := cFormat, info := n }) ↔ ¬ t.Blocked srcs dst preds ∧ ∃ x ∈ srcs, x.Strange t) ∧
    (operandFate t srcs dst preds = .ready ↔ ¬ t.Blocked srcs dst preds ∧ ∀ x ∈ srcs, ¬ x.Strange t) := by
  have hempty : (∀ x ∈ srcs, ∀ r, x.TrapsAt r → ¬ (t.reg r).full = false) ↔ ¬ ∃ x ∈ srcs, ∃ r, x.TrapsAt r ∧ (t.reg r).full = false := by
    simp only [not_exists, not_and]
  have hstrange : (∀ x ∈ srcs, ¬ x.Strange t) ↔ ¬ ∃ x ∈ srcs, x.Strange t := by
    simp only [not_exists, not_and]
  have hblocked := t.blocked_of_trapsAt (srcs := srcs) (dst := dst) (preds := preds)
  rw [hempty, hstrange]
  rcases operandFate_cases t srcs dst preds with ⟨he, n, h⟩ | ⟨he, ⟨hb, ns, h⟩ | ⟨hb, ⟨hs, n, h⟩ | ⟨hs, h⟩⟩⟩
  · simp only [h, he, hblocked he]
    simp [cFormat]
  · simp only [h, he, hb]
    simp
  · simp only [h, he, hb, hs]
    simp [cFormat]
  · simp only [h, he, hb, hs]
    simp

/-! One lane that traps on registers: it writes nothing and stands at its handler (19 R375). -/

section
variable {o : Enc} {f : RegForm} {t : Thread} {l : Nat}

theorem RegForm.lane_trap_operands {r : Trap} (hwait : ∀ p ∈ o.guardPreds f.short, p ∉ t.predWait) (hg : o.guard f.short t = true)
    (h : operandFate t (f.more t ++ f.srcs) f.dst f.preds = .trap r) : f.lane o l t = .trap r := by
  unfold RegForm.lane
  rw [if_neg (by simpa using hwait), if_neg (by simp [hg]), h]

theorem RegForm.lane_trap_body {r : Trap} (hwait : ∀ p ∈ o.guardPreds f.short, p ∉ t.predWait) (hg : o.guard f.short t = true)
    (h : operandFate t (f.more t ++ f.srcs) f.dst f.preds = .ready) (hbody : f.body l t = .inr r) : f.lane o l t = .trap r := by
  unfold RegForm.lane
  rw [if_neg (by simpa using hwait), if_neg (by simp [hg]), h, hbody]

/-- A bundle of one lane whose register instruction traps, the trap finding a handler. -/
theorem State.regInstr_traps {s : State} {cur : Cur} {c : Crew} {r : Trap} (hat : AtHand s cur c)
    (hl : cur.lanes = [l]) (hp : (s.hdrOf cur.core cur.slot).pair = false) (hh : (c.thread l).handles = true)
    (hf : f.lane o l (c.thread l) = .trap r) (hn : r.next = false) :
    s.regInstr o f = s.setCrew cur.core cur.slot (some (c.setThread l ((c.thread l).enterTrap r cur.pc))) := by
  obtain ⟨hcur, hcrew, hready⟩ := hat
  obtain ⟨hlt, hhalt, hstep, hpc, -⟩ := hready l (by simp [hl])
  have hcrew' : c.regBundle false [l] (cur.pc + BitVec.ofNat 64 o.bytes) (f.lane o) = c.setThread l ((c.thread l).enterTrap r cur.pc) := by
    have halike : c.Alike (c.regBundle false [l] (cur.pc + BitVec.ofNat 64 o.bytes) (f.lane o)) := rfl
    refine halike.ext (c.modThread_alike l fun t => t.enterTrap r cur.pc) fun k hk => ?_
    rw [Crew.thread_regBundle _ _ _ _ _ _ hk]
    by_cases hkl : k = l
    · subst hkl
      simp [hf, Thread.afterReg, hh, hn, hpc, hlt]
    · simp [hkl]
  unfold State.regInstr
  simp only [hcur, hcrew, hl, hp, hcrew', List.any_cons, List.any_nil, hf, hh, Bool.not_true, Bool.or_self, Bool.false_eq_true, ↓reduceIte]
  refine State.afterLanes_unmarked _ _ _ _ fun k hk => ?_
  obtain rfl := List.mem_singleton.mp hk
  rw [State.thread_eq, State.crew_setCrew_self hcrew]
  simp [hlt, hhalt, hstep]

end

end Sys2Proof.Machine

/-! TINFO of ARITH (07 R148). -/

namespace Sys2Proof

/-- A format has at most eight elements (06 R106). -/
theorem Tag.count_le (f : Tag) : f.count ≤ 8 := by
  cases f <;> decide

theorem Exc.toNat_eq_bit (a : Exc) :
    a.toNat = Nat.bit a.inexact (Nat.bit a.underflow (Nat.bit a.overflow (Nat.bit a.divZero (Nat.bit a.invalid 0)))) := by
  simp only [Exc.toNat, Nat.bit_val]
  omega

theorem Exc.toNat_or (a b : Exc) : (a.or b).toNat = a.toNat ||| b.toNat := by
  simp [Exc.toNat_eq_bit, Nat.lor_bit, Exc.or]

theorem Exc.toNat_lt (a : Exc) : a.toNat < 32 := by
  have := a.invalid.toNat_le
  have := a.divZero.toNat_le
  have := a.overflow.toNat_le
  have := a.underflow.toNat_le
  have := a.inexact.toNat_le
  unfold Exc.toNat
  omega

theorem Exc.testBit_foldl_or (es : List Exc) (z : Exc) (i : Nat) :
    (es.foldl Exc.or z).toNat.testBit i = (z.toNat.testBit i || es.any fun e => e.toNat.testBit i) := by
  induction es generalizing z with
  | nil => simp
  | cons e es ih => rw [List.foldl_cons, ih, Exc.toNat_or, Nat.testBit_lor, List.any_cons, Bool.or_assoc]

/-- An enabled exception of an element is one of the union. -/
theorem excUnion_and_ne_zero {es : List Exc} {en : Nat} (h : es.any (fun e => e.toNat &&& en != 0) = true) : (excUnion es).toNat &&& en ≠ 0 := by
  obtain ⟨e, he, hand⟩ := List.any_eq_true.mp h
  obtain ⟨i, hi⟩ := Nat.exists_testBit_of_ne_zero (by simpa using hand)
  rw [Nat.testBit_land, Bool.and_eq_true] at hi
  intro hzero
  have hbit : ((excUnion es).toNat &&& en).testBit i = true := by
    rw [Nat.testBit_land, excUnion, Exc.testBit_foldl_or, hi.2, Bool.and_true, Bool.or_eq_true]
    exact .inr (List.any_eq_true.mpr ⟨e, he, hi.1⟩)
  rw [hzero, Nat.zero_testBit] at hbit
  cases hbit

theorem testBit_maskOf (ks : List Nat) (i : Nat) : (maskOf ks).testBit i = decide (i ∈ ks) := by
  have hfold (m : Nat) : (ks.foldl (fun m i => m ||| 2 ^ i) m).testBit i = (m.testBit i || decide (i ∈ ks)) := by
    induction ks generalizing m with
    | nil => simp
    | cons k ks ih =>
      rw [List.foldl_cons, ih, Nat.testBit_lor, Nat.testBit_two_pow]
      by_cases hk : k = i <;> simp [hk, @eq_comm _ i]
  rw [maskOf, hfold, Nat.zero_testBit, Bool.false_or]

/-- TINFO of ARITH holds the union of the exceptions and the elements that signalled an enabled one. -/
theorem arithInfo_signalled {rnd : Word} {es : List Exc} (hlen : es.length ≤ 8)
    (h : es.any (fun e => e.toNat &&& bits rnd.toNat 12 8 != 0) = true) :
    ∃ info < 2 ^ 16, arithInfo rnd es = some info ∧ info % 256 = (es.foldl Exc.or {}).toNat ∧
      ∀ k < 8, info.testBit (8 + k) = es[k]?.any fun e => e.toNat &&& bits rnd.toNat 12 8 != 0 := by
  have hmask (i : Nat) : (maskOf ((List.range es.length).filter fun k => ((es[k]?).getD {}).toNat &&& bits rnd.toNat 12 8 != 0)).testBit i =
      es[i]?.any fun e => e.toNat &&& bits rnd.toNat 12 8 != 0 := by
    rw [testBit_maskOf]
    by_cases hi : i < es.length <;> simp [hi, bne, beq_eq_decide]
  have hlt := (excUnion es).toNat_lt
  unfold arithInfo
  simp only [if_neg (excUnion_and_ne_zero h)]
  generalize maskOf _ = mask at hmask ⊢
  have hmlt : mask < 2 ^ 8 := by
    refine Nat.lt_pow_two_of_testBit _ fun i hi => ?_
    rw [hmask, List.getElem?_eq_none (hlen.trans hi)]
    rfl
  refine ⟨_, ?_, rfl, ?_, fun k hk => ?_⟩
  · omega
  · show _ = (excUnion es).toNat
    omega
  · have hsplit : (excUnion es).toNat + mask * 256 = 2 ^ 8 * mask + (excUnion es).toNat := by omega
    rw [hsplit, Nat.testBit_two_pow_mul_add _ (by omega), if_neg (by omega), Nat.add_sub_cancel_left, hmask]

end Sys2Proof

/-! FADD and FDIV of one lane (07 R142, R146). -/

namespace Sys2Proof.Machine

theorem finishElems_signalled {o : Enc} {f : Tag} {t : Thread} {rs : List (Nat × Exc)} {n : Nat} (h : arithInfo t.rnd (rs.map (·.2)) = some n) :
    finishElems o f t rs = .inr { cause := 0x0E, info := n } := by
  unfold finishElems
  rw [h]
  rfl

/-- Without SR the third source is not read. -/
theorem fpBinForm_srcs {o : Enc} (h : o.rm ≠ 5) (short : Bool) (g : FloatFmt → Rm → Val → Val → Val × Bool) (t : Thread) :
    (fpBinForm o short g).more t ++ (fpBinForm o short g).srcs = opsAB o (o.fmt .f32) t := by
  have hsr : (o.isExt && o.rm == 5) = false := by
    rw [beq_false_of_ne h, Bool.and_false]
  simp only [fpBinForm, hsr, Bool.false_eq_true, ↓reduceIte, List.nil_append]

theorem fdivForm_srcs (o : Enc) (t : Thread) : (fdivForm o).more t ++ (fdivForm o).srcs = opsAB o (o.fmt .f32) t := rfl

/-- What the elements of FADD come to. -/
def faddElems (o : Enc) (t : Thread) : List (Nat × Exc) :=
  let f := o.fmt .f32
  let g := floatOf f
  (List.range f.count).map fun k => roundWith g (roundOf o t) (bits (valC o false t) (16 * k + 15) (16 * k)) false
    (fpAdd (roundOf o t) (g.decode (elem f.elemBits (valA o f.wide t) k)) (g.decode (elem f.elemBits (valB o f.wide t) k)))

theorem fadd_body (o : Enc) (l : Nat) (t : Thread) :
    (fpBinForm o true fun _ rm a b => fpAdd rm a b).body l t = finishElems o (o.fmt .f32) t (faddElems o t) := by
  simp only [fpBinForm, faddElems, regA_value, litB_value, regC_value, rand16]

/-- What FDIV comes to. -/
def fdivElem (o : Enc) (t : Thread) : Nat × Exc :=
  let f := o.fmt .f32
  let g := floatOf f
  roundSpecial g (roundOf o t) (fpDiv (o.q == 2) g.p (g.decode (valA o f.wide t)) (g.decode (valB o f.wide t)))

theorem fdiv_body (o : Enc) (l : Nat) (t : Thread) : (fdivForm o).body l t = finishElems o (o.fmt .f32) t [fdivElem o t] := by
  simp only [fdivForm, fdivElem, regA_value, litB_value]

end Sys2Proof.Machine

section
open Sys2Proof Sys2Proof.Machine

/-- Settles O11: the operands' fate is one of four, each with its condition (`operandFate_cases`); a lane that traps stands at its
handler (`State.regInstr_traps`), with the TINFO of `arithInfo_signalled`. -/
theorem operandChecksAndLaneTraps : Obligations.OperandChecksAndLaneTraps := by
  refine ⟨fun t srcs dst preds => ?fate, fun o s cur c l _ hrm hat hl hp => ?lane⟩
  case fate =>
    exact operandFate_iff t srcs dst preds
  case lane =>
    intro t f g val sums quotient enabled entered arith hh hwait
    have htraps {i : Instr} {form : RegForm} {r : Trap} (hexec : exec i s = .next (s.regInstr o form)) (hlane : form.lane o l t = .trap r)
        (hn : r.next = false) : exec i s = .next (entered r) :=
      hexec.trans (congrArg Host.Outcome.next (State.regInstr_traps hat hl hp hh hlane hn))
    have hsums : (faddElems o t).map (·.2) = sums := List.map_map ..
    have harith {i : Instr} {form : RegForm} {rs : List (Nat × Exc)} (hexec : exec i s = .next (s.regInstr o form))
        (hg : o.guard form.short t = true) (hready : operandFate t (form.more t ++ form.srcs) form.dst form.preds = .ready)
        (hbody : form.body l t = finishElems o f t rs) (hlen : (rs.map (·.2)).length ≤ 8) : arith i (rs.map (·.2)) := by
      intro hes
      obtain ⟨info, hlt, hinfo, hunion, hbits⟩ := arithInfo_signalled (rnd := t.rnd) hlen hes
      refine ⟨info, hlt, htraps hexec (RegForm.lane_trap_body (hwait _) hg hready (hbody.trans (finishElems_signalled hinfo))) rfl, hunion,
        fun k hk => ?_⟩
      rw [hbits k hk]
      cases (rs.map (·.2))[k]? <;> rfl
    have hsums : sums = (faddElems o t).map (·.2) := (List.map_map ..).symm
    have hquotient : quotient = [fdivElem o t].map (·.2) := rfl
    refine ⟨fun hg => ⟨fun r hfate hn => ?_, fun hready => ?_⟩, fun hg _ hready => ?_⟩
    · refine htraps rfl (RegForm.lane_trap_operands (hwait true) hg ?_) hn
      rwa [fpBinForm_srcs hrm]
    · rw [hsums]
      exact harith rfl hg (by rwa [fpBinForm_srcs hrm]) (fadd_body o l t) (by simpa [faddElems] using Tag.count_le f)
    · rw [hquotient]
      exact harith rfl hg (by rwa [fdivForm_srcs]) (fdiv_body o l t) (by simp)
end

/-! What goes on in a core without an instruction (09 R182, R187, 16 R318, R323, 17 R346, 19 R382, 20 R396). -/

namespace Sys2Proof.Machine

/-! The PC table, sorted (16 R318). -/

/-- Lane `i` stands before lane `j` in the PC table. -/
def Crew.Before (c : Crew) (i j : Nat) : Prop := (c.thread i).pc < (c.thread j).pc ∨ ((c.thread i).pc = (c.thread j).pc ∧ i < j)

theorem Crew.Before.trans {c : Crew} {i j k : Nat} (h : c.Before i j) (g : c.Before j k) : c.Before i k := by
  unfold Crew.Before at *
  bv_omega

theorem Crew.before_of_not {c : Crew} {i j : Nat} (hne : i ≠ j) (h : ¬ c.Before i j) : c.Before j i := by
  unfold Crew.Before at *
  bv_omega

theorem insertLane_cons_before {c : Crew} {l k : Nat} (h : c.Before l k) (r : List Nat) : insertLane c l (k :: r) = l :: k :: r := by
  rw [insertLane, if_pos (by simpa [Crew.Before] using h)]

theorem insertLane_cons_after {c : Crew} {l k : Nat} (h : ¬ c.Before l k) (r : List Nat) : insertLane c l (k :: r) = k :: insertLane c l r := by
  rw [insertLane, if_neg (by simpa [Crew.Before] using h)]

theorem insertLane_perm (c : Crew) (l : Nat) (r : List Nat) : (insertLane c l r).Perm (l :: r) := by
  induction r with
  | nil => exact .refl _
  | cons k r ih =>
    by_cases h : c.Before l k
    · rw [insertLane_cons_before h]
    · rw [insertLane_cons_after h]
      exact (ih.cons k).trans (.swap l k r)

theorem insertLane_pairwise {c : Crew} {l : Nat} {r : List Nat} (hl : l ∉ r) (hr : r.Pairwise c.Before) : (insertLane c l r).Pairwise c.Before := by
  induction r with
  | nil => exact List.pairwise_singleton ..
  | cons k r ih =>
    obtain ⟨hk, htail⟩ := List.pairwise_cons.mp hr
    obtain ⟨hlk, hlr⟩ := not_or.mp (mt List.mem_cons.mpr hl)
    by_cases h : c.Before l k
    · rw [insertLane_cons_before h]
      refine List.pairwise_cons.mpr ⟨fun j hj => ?_, hr⟩
      rcases List.mem_cons.mp hj with rfl | hj
      · exact h
      · exact h.trans (hk j hj)
    · rw [insertLane_cons_after h]
      refine List.pairwise_cons.mpr ⟨fun j hj => ?_, ih hlr htail⟩
      rcases List.mem_cons.mp ((insertLane_perm c l r).mem_iff.mp hj) with rfl | hj
      · exact Crew.before_of_not hlk h
      · exact hk j hj

theorem foldr_insertLane (c : Crew) {ls : List Nat} (h : ls.Nodup) :
    (ls.foldr (insertLane c) []).Perm ls ∧ (ls.foldr (insertLane c) []).Pairwise c.Before := by
  induction ls with
  | nil => exact ⟨.refl _, .nil⟩
  | cons l ls ih =>
    obtain ⟨hl, hls⟩ := List.nodup_cons.mp h
    obtain ⟨hperm, hsorted⟩ := ih hls
    exact ⟨(insertLane_perm c l _).trans (hperm.cons l), insertLane_pairwise (fun hmem => hl (hperm.mem_iff.mp hmem)) hsorted⟩

/-- Every lane is in the sorted table once, in its order. -/
theorem Crew.sorted_spec (c : Crew) : c.sorted.Perm (List.range 32) ∧ c.sorted.Pairwise c.Before := foldr_insertLane c List.nodup_range

/-! Updates of a core and of a crew. -/

theorem State.modCore_congr {s : State} {b : Nat} {f g : Core → Core} (h : f (s.core b) = g (s.core b)) : s.modCore b f = s.modCore b g := by
  unfold State.modCore
  rw [h]

theorem State.modBank_congr {s : State} {b k : Nat} {f g : Bank → Bank} (h : f ((s.core b).bank k) = g ((s.core b).bank k)) :
    s.modBank b k f = s.modBank b k g :=
  State.modCore_congr (by rw [h])

theorem State.modCrew_of_crew {s : State} {b sl : Nat} {c : Crew} (h : s.crew b sl = some c) (f : Crew → Crew) :
    s.modCrew b sl f = s.setCrew b sl (some (f c)) := by
  unfold State.modCrew
  rw [h]

/-- A change of the walks and one of a core do not meet. -/
theorem State.modCore_walks_comm (s : State) (ws : List Walk) (b : Nat) (f : Core → Core) :
    ({ s with walks := ws } : State).modCore b f = { s.modCore b f with walks := ws } := by
  unfold State.modCore State.setCore
  split <;> rfl

theorem State.thread_onThread {s : State} {x : Lane} {c : Crew} (h : s.crew x.core x.slot = some c) (hl : x.lane < 32) (f : Thread → Thread) :
    (s.onThread x f).thread x.core x.slot x.lane = f (c.thread x.lane) := by
  rw [State.onThread, State.modThread_of_crew h, State.thread_eq, State.crew_setCrew_self h]
  simp [hl]

/-- The header that a slot's crew runs under depends on its team alone. -/
theorem State.hdrOf_setCrew_of_team {s : State} {b sl : Nat} {c c' : Crew} (h : s.crew b sl = some c) (ht : c'.team = c.team) :
    (s.setCrew b sl (some c')).hdrOf b sl = s.hdrOf b sl := by
  simp only [State.hdrOf, State.teamOf, State.launch, Core.team, State.crew_setCrew_self h, h, ht, State.teams_setCrew,
    State.part_of_parts_eq (State.setCrew_parts s b sl _)]

/-! A bundle of one lane that leaves it without executing (03 R68, 17 R325). -/

/-- The bundle of one lane after the lane has left it. -/
def State.leftAlone (s : State) (cur : Cur) (l : Nat) (o : LaneOut) : State :=
  let r := s.leave ⟨cur.core, cur.slot, l⟩ cur.pc o
  Bundle.close { s := r.1, lost := r.2, hits := [] } cur

theorem exec_illegalOpcode {s : State} {cur : Cur} {l : Nat} (hcur : s.cur = some cur) (hl : cur.lanes = [l]) (opc : BitVec 8) :
    exec (.illegalOpcode opc) s = .next (s.leftAlone cur l (.trap { cause := 0x01, info := opc.toNat, addr := cur.pc })) := by
  change execIllegalOpcode opc s = _
  unfold execIllegalOpcode State.trapBundle
  simp only [hcur, hl, List.foldl_cons, List.foldl_nil, Bool.false_or]
  rfl

theorem exec_instructionFetchFault {s : State} {cur : Cur} {l : Nat} {va : DWord} {o : LaneOut} (hcur : s.cur = some cur) (hl : cur.lanes = [l])
    (ho : s.fetchWord ⟨cur.core, cur.slot, l⟩ va.toNat = .inr o) : exec (.instructionFetchFault va) s = .next (s.leftAlone cur l o) := by
  change execInstructionFetchFault va s = _
  unfold execInstructionFetchFault
  simp only [hcur, hl, List.foldl_cons, List.foldl_nil, ho, Bool.false_or]
  rfl

section
variable {s : State} {cur : Cur} {c : Crew} {l : Nat}

/-- The lane that has left is unmarked where what it underwent leaves the marks alone: nothing is left but to look at the instances. -/
theorem AtHand.close_alone (hat : AtHand s cur c) (hl : cur.lanes = [l]) {a : Bundle} (hlost : a.lost = false) (hhits : a.hits = []) {t : Thread}
    (hthread : a.s.thread cur.core cur.slot l = t) (hhalt : t.haltMark = (c.thread l).haltMark) (hstep : t.stepMark = (c.thread l).stepMark) :
    a.close cur = a.s.settle cur.core cur.slot := by
  obtain ⟨-, -, hready⟩ := hat
  obtain ⟨-, hh, hs, -⟩ := hready l (by simp [hl])
  refine Bundle.close_unmarked hlost hhits fun k hk => ?_
  rw [hl, List.mem_singleton] at hk
  rw [hk, hthread, hhalt, hstep]
  exact ⟨hh, hs⟩

theorem State.leftAlone_trap (hat : AtHand s cur c) (hl : cur.lanes = [l]) (hp : (s.hdrOf cur.core cur.slot).pair = false)
    (hh : (c.thread l).handles = true) {r : Trap} (hn : r.next = false) :
    s.leftAlone cur l (.trap r) = (s.onThread ⟨cur.core, cur.slot, l⟩ fun t => t.enterTrap r cur.pc).settle cur.core cur.slot := by
  have ⟨_, hcrew, hready⟩ := hat
  obtain ⟨hlt, -, -, hpc, -⟩ := hready l (by simp [hl])
  have hleave : s.leave ⟨cur.core, cur.slot, l⟩ cur.pc (.trap r) =
      (s.onThread ⟨cur.core, cur.slot, l⟩ fun t => t.enterTrap r cur.pc, false) := by
    have hthread : s.laneThread ⟨cur.core, cur.slot, l⟩ = c.thread l := State.laneThread_of_crew hcrew
    unfold State.leave
    dsimp only
    rw [hthread, hh, State.takeTrap_single (x := ⟨cur.core, cur.slot, l⟩) hcrew hp hh, hn, State.onThread, State.onThread,
      State.modThread_of_crew hcrew, State.modThread_of_crew hcrew, Crew.modThread, Crew.modThread, hpc]
    rfl
  unfold State.leftAlone
  rw [hleave]
  exact hat.close_alone hl rfl rfl (State.thread_onThread (x := ⟨cur.core, cur.slot, l⟩) hcrew hlt _) rfl rfl

theorem State.leave_miss (hcrew : s.crew cur.core cur.slot = some c) (hp : (s.hdrOf cur.core cur.slot).pair = false) (next : DWord) (m : Miss) :
    s.leave ⟨cur.core, cur.slot, l⟩ next (.miss m) =
      ((s.onThread ⟨cur.core, cur.slot, l⟩ fun t => { t with st := .waitUnit, age := 0, miss := some m }).modCore cur.core fun w =>
        { w with misses := if m ∈ w.misses then w.misses else w.misses ++ [m] }, false) := by
  have hpair (f : Thread → Thread) : ((s.modThread cur.core cur.slot l f).hdrOf cur.core cur.slot).pair = false := by
    rw [State.modThread_of_crew hcrew, State.hdrOf_setCrew hcrew (c.modThread_alike ..), hp]
  have hmisses (w : Core) : (if w.misses.contains m then w else { w with misses := w.misses ++ [m] }) =
      { w with misses := if m ∈ w.misses then w.misses else w.misses ++ [m] } := by
    by_cases h : m ∈ w.misses <;> simp [h]
  unfold State.leave State.onThread
  simp only [hpair, hmisses, Bool.false_eq_true, ↓reduceIte]

theorem State.leftAlone_miss (hat : AtHand s cur c) (hl : cur.lanes = [l]) (hp : (s.hdrOf cur.core cur.slot).pair = false) (m : Miss) :
    s.leftAlone cur l (.miss m) =
      ((s.onThread ⟨cur.core, cur.slot, l⟩ fun t => { t with st := .waitUnit, age := 0, miss := some m }).modCore cur.core fun w =>
        { w with misses := if m ∈ w.misses then w.misses else w.misses ++ [m] }).settle cur.core cur.slot := by
  have ⟨_, hcrew, hready⟩ := hat
  unfold State.leftAlone
  rw [State.leave_miss hcrew hp]
  refine hat.close_alone hl rfl rfl (t := { c.thread l with st := .waitUnit, age := 0, miss := some m }) ?_ rfl rfl
  dsimp only
  rw [State.thread_eq, State.crew_modCore, ← State.thread_eq]
  · exact State.thread_onThread (x := ⟨cur.core, cur.slot, l⟩) hcrew (hready l (by simp [hl])).1 _
  · exact fun _ => rfl

end

/-! Power gating (17 R346) and the event queue (20 R396). -/

/-- A walk goes on for the cores that are left, and ends where none is. -/
theorem walks_left (b : Nat) (ws : List Walk) :
    (ws.flatMap fun w => let cs := w.cores.filter (· != b); if cs.isEmpty then [] else [{ w with cores := cs }]) =
      (ws.map fun w => { w with cores := w.cores.filter (· != b) }).filter fun w => !w.cores.isEmpty := by
  induction ws with
  | nil => rfl
  | cons w ws ih =>
    rw [List.flatMap_cons, ih, List.map_cons, List.filter_cons]
    cases h : (w.cores.filter (· != b)).isEmpty <;> simp [h]

theorem exec_powerGating {s : State} {b : Nat} (ht : (s.core b).teams = []) (hd : (s.core b).debug = false) :
    exec (.powerGating b) s = .next
      { s.modCore b (fun w => { w with misses := [], gated := true, tlb := [] }) with
        walks := (s.walks.map fun w => { w with cores := w.cores.filter (· != b) }).filter fun w => !w.cores.isEmpty } := by
  change execPowerGating b s = _
  unfold execPowerGating State.leaveWalks
  simp only [ht, hd, List.isEmpty_nil, Bool.not_false, Bool.and_self, ↓reduceIte, walks_left, State.modCore_walks_comm, State.modCore_modCore]

/-- The debug crew's start changes nothing of its core but the crew. -/
theorem State.restartDebug_core_field {α : Type} (g : Core → α) (hg : ∀ (c : Core) x, g (c.setCrew 63 x) = g c) (s : State) (b b' : Nat) :
    g ((s.restartDebug b).core b') = g (s.core b') := by
  unfold State.restartDebug State.setCrew
  split
  · split
    · exact State.core_modCore_field g (fun c => hg c _) s b b'
    · rfl
  · rfl

theorem exec_debugRecordAppend {s : State} {b : Nat} {r : DWord} {rest : List DWord} (hb : b < 160) (hw : (s.core b).eventsWaiting = r :: rest)
    (hroom : (s.core b).events.length < 8) :
    ∃ u, exec (.debugRecordAppend b) s = .next u ∧ (u.core b).events = (s.core b).events ++ [r] ∧ (u.core b).eventsWaiting = rest := by
  refine ⟨((s.modCore b fun c => { c with events := c.events ++ [r], eventsWaiting := rest }).wakeUnits b).restartDebug b, ?_, ?_, ?_⟩
  · change execDebugRecordAppend b s = _
    unfold execDebugRecordAppend
    rw [hw]
    dsimp only
    rw [if_neg (by omega)]
  · rw [State.restartDebug_core_field Core.events (fun c x => c.setCrew_events 63 x), State.wakeUnits,
      State.core_modCore_field Core.events (f := Core.wakeUnits) (fun _ => rfl), State.core_modCore, if_pos ⟨rfl, hb⟩]
  · rw [State.restartDebug_core_field Core.eventsWaiting (fun c x => c.setCrew_eventsWaiting 63 x), State.wakeUnits,
      State.core_modCore_field Core.eventsWaiting (f := Core.wakeUnits) (fun _ => rfl), State.core_modCore, if_pos ⟨rfl, hb⟩]

/-! Uncorrectable errors (09 R187, 19 R382). -/

/-- A sector that errs is poisoned whole, and every other stays as it was. -/
theorem poisonedAt_addPoison (l : List (Nat × Nat)) (k a : Nat) : poisonedAt (addPoison l k) a = (a / 32 == k || poisonedAt l a) := by
  unfold poisonedAt addPoison
  by_cases h : a / 32 = k
  · simp [h]
  · have hother (e : Nat × Nat) : (e.1 != k && (e.1 == a / 32 && !e.2.testBit (a % 32))) = (e.1 == a / 32 && !e.2.testBit (a % 32)) := by
      by_cases he : e.1 = a / 32 <;> simp [he, h]
    rw [List.any_cons, List.any_filter, beq_false_of_ne h, beq_false_of_ne (Ne.symm h)]
    simp only [hother, Bool.false_and, Bool.false_or]

theorem Bank.strike_of_ne_fifo {x : Bank} (h : x.mode ≠ .fifo) (k : Nat) : x.strike k = { x with poison := addPoison x.poison k } := if_neg h

theorem Bank.strike_of_fifo {x : Bank} (h : x.mode = .fifo) (k : Nat) :
    x.strike k = { x with fifo := x.fifo.zipIdx.map fun e => (e.1.1, e.1.2 || e.2 / 4 == k) } := by
  have hentry (e : (DWord × Bool) × Nat) : (if e.2 / 4 = k then (e.1.1, true) else e.1) = (e.1.1, e.1.2 || e.2 / 4 == k) := by
    by_cases he : e.2 / 4 = k
    · simp [he]
    · rw [if_neg he, beq_false_of_ne he, Bool.or_false]
  unfold Bank.strike
  simp only [h, hentry, ↓reduceIte]

theorem exec_spadSector {s : State} {b k : Nat} (h : k % 2048 * 32 < s.spcap b) :
    exec (.uncorrectableError (.spadSector b k)) s = .next (s.modBank b (k / 2048) fun x => x.strike (k % 2048)) :=
  congrArg Host.Outcome.next (if_pos h)

theorem bitList_two_pow {l : Nat} (h : l < 32) : bitList (BitVec.ofNat 32 (2 ^ l)).toNat 32 = [l] := by
  revert l
  decide

/-- Where the event leaves the first lane a way on, it comes to the others after it. -/
theorem State.eachLane_cons {s : State} {b sl l : Nat} {lost : Thread → Bool} (hst : (s.thread b sl l).st ≠ .exited)
    (hlost : lost (s.thread b sl l) = false) (ls : List Nat) (f : State → Lane → State) :
    s.eachLane b sl (l :: ls) lost f = (f s ⟨b, sl, l⟩).eachLane b sl ls lost f := by
  unfold State.eachLane
  simp [hst, hlost]

theorem State.eachLane_singleton {s : State} {b sl l : Nat} (hst : (s.thread b sl l).st ≠ .exited) (lost : Thread → Bool)
    (f : State → Lane → State) : s.eachLane b sl [l] lost f = f s ⟨b, sl, l⟩ := by
  unfold State.eachLane
  simp [hst]

theorem exec_datapath {s : State} {b sl l : Nat} (hl : l < 32) (hp : (s.hdrOf b sl).pair = false) (hst : (s.thread b sl l).st ≠ .exited) :
    exec (.uncorrectableError (.datapath b sl (BitVec.ofNat 32 (2 ^ l)))) s = .next (s.consume ⟨b, sl, l⟩ none false 0) := by
  refine congrArg Host.Outcome.next ?_
  dsimp only
  rw [bitList_two_pow hl, hp]
  exact State.eachLane_singleton hst ..

/-! Deadlock at a rendezvous (08 R160, 16 R331). -/

/-- A lane that waits at a rendezvous. -/
def Thread.Meeting (t : Thread) : Prop := t.st = .waitXl ∨ t.st = .waitJoin

theorem Crew.leaveInstance_none {c : Crew} (h : c.xl = []) (pc : DWord) (l : Nat) (pair : Bool) : c.leaveInstance pc l pair = c := by
  obtain ⟨⟩ := c
  subst h
  rfl

section
variable {s : State} {b sl : Nat} {c : Crew}

/-- A lane that waits at a rendezvous, its crew's all dropped, and traps with a handler. -/
theorem State.trapNow_meeting {l : Nat} (h : s.crew b sl = some c) (hxl : c.xl = []) (hp : (s.hdrOf b sl).pair = false)
    (hm : (c.thread l).Meeting) (hh : (c.thread l).handles = true) {r : Trap} (hn : r.next = false) (next : DWord) :
    s.trapNow ⟨b, sl, l⟩ r next = s.setCrew b sl (some (c.modThread l fun t => t.enterTrap r t.pc)) := by
  have hthread : s.laneThread ⟨b, sl, l⟩ = c.thread l := State.laneThread_of_crew h
  have hleave : s.leaveWait ⟨b, sl, l⟩ = s := by
    have hstay (pc : DWord) : s.modCrew b sl (fun c => c.leaveInstance pc l false) = s := by
      rw [State.modCrew_of_crew h, Crew.leaveInstance_none hxl, State.setCrew_crew h]
    unfold State.leaveWait
    rw [hthread]
    rcases hm with hst | hst
    all_goals
      rw [hst]
      dsimp only
      rw [hp, hstay]
  unfold State.trapNow
  rw [hthread, if_pos hh, hleave, State.takeTrap_single (x := ⟨b, sl, l⟩) h hp hh, hn, State.onThread, State.modThread_of_crew h]
  rfl

/-- Lanes that wait at rendezvous, their crew's all dropped, trap one after another, each at its own PC. -/
theorem State.trapEach_meeting {r : Nat → Trap} (hn : ∀ l, (r l).next = false) {ls : List Nat} (hnodup : ls.Nodup) (h : s.crew b sl = some c)
    (hxl : c.xl = []) (hp : (s.hdrOf b sl).pair = false) (hls : ∀ l ∈ ls, l < 32 ∧ (c.thread l).Meeting ∧ (c.thread l).handles = true) :
    ∃ c', s.trapEach b sl ls r = s.setCrew b sl (some c') ∧ ∀ k,
      c'.thread k = if k ∈ ls then (c.thread k).enterTrap (r k) (c.thread k).pc else c.thread k := by
  induction ls generalizing s c with
  | nil => exact ⟨c, (State.setCrew_crew h).symm, fun k => by simp⟩
  | cons l ls ih =>
    obtain ⟨hl, hnodup⟩ := List.nodup_cons.mp hnodup
    obtain ⟨hlt, hm, hh⟩ := hls l (by simp)
    have hthread : s.thread b sl l = c.thread l := by rw [State.thread_eq, h]; rfl
    have ha := c.modThread_alike l fun t => t.enterTrap (r l) t.pc
    have hlive : (s.thread b sl l).st ≠ .exited := by
      rw [hthread]
      rcases hm with hst | hst <;> simp [hst]
    have hother (k : Nat) (hk : k ∈ ls) : (c.modThread l fun t => t.enterTrap (r l) t.pc).thread k = c.thread k := by
      rw [Crew.thread_modThread, if_neg fun e : k = l ∧ l < 32 => hl (e.1 ▸ hk)]
    obtain ⟨c', hc', hthreads⟩ := ih (s := s.setCrew b sl (some (c.modThread l fun t => t.enterTrap (r l) t.pc))) hnodup
      (State.crew_setCrew_self h _) (by rw [ha]; exact hxl) (by rw [State.hdrOf_setCrew h ha, hp]) fun k hk => by
        rw [hother k hk]
        exact hls k (List.mem_cons_of_mem l hk)
    refine ⟨c', ?_, fun k => ?_⟩
    · rw [State.setCrew_setCrew] at hc'
      rw [← hc']
      unfold State.trapEach
      rw [State.eachLane_cons hlive (by rw [hthread, hh]; rfl), State.trapNow_meeting h hxl hp hm hh (hn l)]
    · rw [hthreads, Crew.thread_modThread]
      by_cases hkl : k = l
      · subst hkl
        simp [hl, hlt]
      · simp [hkl]
end

theorem Crew.forgoOwed_none {c : Crew} (h : ∀ i ∈ c.xl, i.owed = []) (pair : Bool) : c.forgoOwed pair = c := by
  unfold Crew.forgoOwed
  refine List.foldlRecOn (motive := fun d => d = c) c.xl _ rfl fun d hd i hi => ?_
  rw [h i hi]
  exact hd

theorem find_map_key {α : Type} (g : Nat → α) {ls : List Nat} {l : Nat} (h : l ∈ ls) :
    ((ls.map fun l => (l, g l)).find? fun z => z.1 == l).map (·.2) = some (g l) := by
  induction ls with
  | nil => exact absurd h List.not_mem_nil
  | cons k ls ih =>
    by_cases hk : k = l
    · simp [hk]
    · rw [List.map_cons, List.find?_cons_of_neg (by simpa using hk)]
      exact ih ((List.mem_cons.mp h).resolve_left (Ne.symm hk))

theorem testBit_foldl_mask (as : List Arrival) (m j : Nat) :
    (as.foldl (fun m a => m ||| a.mask.toNat) m).testBit j = (m.testBit j || as.any fun a => a.mask.getLsbD j) := by
  induction as generalizing m with
  | nil => simp
  | cons a as ih => rw [List.foldl_cons, ih, Nat.testBit_or, List.any_cons, Bool.or_assoc, BitVec.getLsbD]

/-- The lanes that a rendezvous misses (08 R157). -/
theorem Instance.mem_awaited {i : Instance} {c : Crew} {j : Nat} :
    j ∈ i.awaited c false ↔ j < 32 ∧ (c.thread j).st ≠ .exited ∧ (∃ a ∈ i.arrivals, a.contrib = true ∧ a.mask.getLsbD j = true) ∧
      ∀ a ∈ i.arrivals, a.lane ≠ j := by
  have hnamed : (((i.arrivals.filter fun (a : Arrival) => a.contrib).foldl (fun (m : Nat) (a : Arrival) => m ||| a.mask.toNat) 0).testBit j = true) ↔
      ∃ a ∈ i.arrivals, a.contrib = true ∧ a.mask.getLsbD j = true := by
    simp [testBit_foldl_mask]
  have habsent : (!(i.arrivals.any fun a => a.vis false == j)) = true ↔ ∀ a ∈ i.arrivals, a.lane ≠ j := by
    simp [Arrival.vis, visible]
  unfold Instance.awaited bitList
  rw [List.mem_filter, List.mem_filter, List.mem_range, hnamed, Bool.and_eq_true, habsent, bne_iff_ne, and_assoc]
  exact and_congr_right fun _ => ⟨fun ⟨hn, ha, he⟩ => ⟨he, hn, ha⟩, fun ⟨he, hn, ha⟩ => ⟨hn, ha, he⟩⟩

/-- Outside paired-lane mode every live lane is a visible one. -/
theorem Crew.live_unpaired (c : Crew) : (c.live.filter fun l => !false || l % 2 == 0) = c.live := List.filter_eq_self.mpr fun _ _ => rfl

theorem Crew.meeting_of_deadlocked {c : Crew} (h : c.deadlocked false = true) {l : Nat} (hl : l ∈ c.live) : (c.thread l).Meeting := by
  unfold Crew.deadlocked at h
  rw [c.live_unpaired] at h
  simpa [Thread.Meeting] using List.all_eq_true.mp (Bool.and_eq_true_iff.mp h).2 l hl

/-- What a deadlock comes to outside paired-lane mode where no lane is owed a result: every live lane traps with the lanes that its
rendezvous misses. -/
theorem State.deadlock_traps {s : State} {b sl : Nat} {c : Crew} (h : s.crew b sl = some c) (hd : c.deadlocked false = true)
    (hp : (s.hdrOf b sl).pair = false)
    (hlive : ∀ l ∈ c.live, (c.thread l).handles = true ∧ (c.thread l).haltMark = false ∧ (c.thread l).stepMark = false)
    (howed : ∀ i ∈ c.xl, i.owed = []) {l : Nat} (hl : l ∈ c.live) {i : Instance}
    (hi : c.xl.find? (fun i => i.pc == (c.thread l).pc && !i.shadow) = some i) :
    (s.deadlock b sl).thread b sl l = (c.thread l).enterTrap { cause := 0x0D, info := maskOf (i.awaited c false) } (c.thread l).pc := by
  have hlt (k : Nat) (hk : k ∈ c.live) : k < 32 := List.mem_range.mp (List.mem_filter.mp hk).1
  unfold State.deadlock
  simp only [h, hp, hd, c.live_unpaired, State.modCrew_of_crew h, Crew.forgoOwed_none howed, Bool.not_true, Bool.false_eq_true, ↓reduceIte]
  generalize hr : (fun l => ({ cause := cDeadlock, info := _ } : Trap)) = r
  obtain ⟨c', hc', hthreads⟩ := State.trapEach_meeting (s := s.setCrew b sl (some { c with xl := [] })) (r := r) (ls := c.live)
    (fun k => by rw [← hr]) (List.nodup_range.filter _) (State.crew_setCrew_self h _) rfl
    (by rw [State.hdrOf_setCrew_of_team (c' := { c with xl := [] }) h rfl, hp]) fun k hk => ⟨hlt k hk, Crew.meeting_of_deadlocked hd hk, (hlive k hk).1⟩
  have hthread (k : Nat) (hk : k ∈ c.live) : (s.setCrew b sl (some c')).thread b sl k = (c.thread k).enterTrap (r k) (c.thread k).pc := by
    rw [State.thread_eq, State.crew_setCrew_self h, Option.map_some, Option.getD_some, hthreads, if_pos hk]
    rfl
  rw [hc', State.setCrew_setCrew, State.afterLanes_unmarked, hthread l hl, ← hr]
  · dsimp only
    rw [find_map_key _ hl, hi]
    rfl
  · intro k hk
    rw [hthread k hk]
    exact (hlive k hk).2

end Sys2Proof.Machine

section
open Sys2Proof Sys2Proof.Machine

/-- Settles O43: a bundle of one lane leaves as its trap or miss says (`State.leftAlone_trap`, `State.leftAlone_miss`), the PC table is an
insertion sort (`Crew.sorted_spec`), an error strikes one sector (`poisonedAt_addPoison`, `Bank.strike_of_fifo`), and a deadlock traps each
live lane with the lanes that its rendezvous awaits (`State.deadlock_traps`, `Instance.mem_awaited`). -/
theorem coreEvents : Obligations.CoreEvents := by
  refine ⟨fun s cur c l hat hl hp => ⟨fun hh => ⟨fun opc => ?illegal, fun va r hr hn => ?fault⟩, fun va m hm => ?miss⟩, fun s b hb =>
    ⟨fun sl c hc => ⟨c.sorted, ?sort, c.sorted_spec⟩, rfl, fun line hline => ?revoke, exec_powerGating,
      fun r rest => exec_debugRecordAppend hb, fun k hk => ?memory, fun k hk hcap => ⟨fun hmode => ?spad, fun hmode => ?fifo⟩,
      fun k hk => ?tas, fun _ => rfl, rfl, fun k hk => ?caldera, fun sl l => exec_datapath, fun sl c hc hd hp hlive howed => ?deadlock⟩⟩
  case illegal =>
    exact (exec_illegalOpcode hat.1 hl opc).trans (congrArg Host.Outcome.next (State.leftAlone_trap hat hl hp hh rfl))
  case fault =>
    exact (exec_instructionFetchFault hat.1 hl hr).trans (congrArg Host.Outcome.next (State.leftAlone_trap hat hl hp hh hn))
  case miss =>
    rw [exec_instructionFetchFault hat.1 hl hm, State.leftAlone_miss hat hl hp]
  case sort =>
    exact congrArg Host.Outcome.next (State.modCrew_of_crew hc _)
  case revoke =>
    exact congrArg Host.Outcome.next (if_pos (List.contains_iff_mem.mpr hline))
  case memory =>
    refine ⟨addPoison s.poison k, congrArg Host.Outcome.next (if_pos hk), fun a ha => ?_, fun a ha => ?_⟩
    · simp [poisonedAt_addPoison, ha]
    · simp [poisonedAt_addPoison, ha]
  case spad =>
    refine ⟨_, (exec_spadSector hcap).trans (congrArg Host.Outcome.next (State.modBank_congr (Bank.strike_of_ne_fifo hmode _))), fun a ha => ?_⟩
    simp [poisonedAt_addPoison, ha]
  case fifo =>
    refine ⟨_, (exec_spadSector hcap).trans (congrArg Host.Outcome.next (State.modBank_congr (Bank.strike_of_fifo hmode _))), ?_, fun i hi => ?_⟩
    · exact List.ext_getElem (by simp) (by simp)
    · simp [List.getElem?_eq_getElem hi]
  case tas =>
    refine ⟨_, congrArg Host.Outcome.next (if_pos hk), fun j => ?_⟩
    rw [State.core_modCore, if_pos ⟨rfl, hb⟩]
    by_cases hj : j = k <;> simp [hj]
  case caldera =>
    exact congrArg Host.Outcome.next (State.modCore_congr (if_neg (by simpa using hk)))
  case deadlock =>
    refine ⟨_, rfl, fun l hl i hi => ⟨_, State.deadlock_traps hc hd hp hlive howed hl hi, fun j => ?_⟩⟩
    rw [testBit_maskOf, decide_eq_true_iff, Instance.mem_awaited]
end

namespace Sys2Proof.Machine
open Encoding

/-! A bundle whose lanes go on to the next instruction (03 R67): the same as if each had jumped there. -/

theorem State.both_cur (s : State) (x : Lane) (f : Thread → Thread) : (s.both x f).cur = s.cur := by
  unfold State.both
  dsimp only
  split <;> simp

theorem State.takeTrap_cur (s : State) (x : Lane) (r : Trap) (next : DWord) : (s.takeTrap x r next).cur = s.cur := by
  unfold State.takeTrap
  dsimp only
  simp only [apply_ite State.cur, State.setThread_cur, ite_self]

/-- No lane that leaves moves the bundle at hand. -/
theorem State.leave_cur (s : State) (x : Lane) (next : DWord) (o : LaneOut) : (s.leave x next o).1.cur = s.cur := by
  unfold State.leave
  cases o with
  | trap r => exact s.takeTrap_cur ..
  | kill => rfl
  | gone => rfl
  | next | watch | jump | hold | exit | miss =>
    dsimp only
    split <;> simp

/-- Where the bundle at hand goes on. -/
def State.nextAddr (s : State) (o : Enc) : DWord :=
  match s.cur with
  | some cur => cur.pc + BitVec.ofNat 64 o.bytes
  | none => 0

/-- A way out of an instruction that jumps to an address where it went on to the next one. -/
def LaneOut.jumping (a : DWord) : LaneOut → LaneOut
  | .next => .jump a
  | r => r

/-- The form whose lanes jump to the next instruction where `f`'s go on to it. -/
def LaneForm.jumping (f : LaneForm) (o : Enc) : LaneForm :=
  { f with body := fun s x => ((f.body s x).1, (f.body s x).2.jumping (s.nextAddr o)) }

section
variable {f : LaneForm} {o : Enc}

/-- A lane that does not come to the body leaves as it did. -/
theorem LaneForm.lane_jumping (s : State) (x : Lane) :
    (f.jumping o).lane o s x = f.lane o s x ∨ (f.jumping o).lane o s x = ((f.lane o s x).1, (f.lane o s x).2.jumping (s.nextAddr o)) := by
  unfold LaneForm.lane LaneForm.jumping
  dsimp only
  repeat' split
  case h_3 => exact .inr rfl
  all_goals exact .inl rfl

theorem State.leave_jumping (s : State) (x : Lane) (next : DWord) (out : LaneOut) : s.leave x next (out.jumping next) = s.leave x next out := by
  cases out <;> rfl

theorem LaneForm.step_jumping {cur : Cur} {a : Bundle} (hs : a.s.cur = some cur) (l : Nat) : (f.jumping o).step o cur a l = f.step o cur a l := by
  have haddr : a.s.nextAddr o = cur.pc + BitVec.ofNat 64 o.bytes := by rw [State.nextAddr, hs]
  unfold LaneForm.step
  dsimp only
  rcases f.lane_jumping (o := o) a.s ⟨cur.core, cur.slot, l⟩ with h | h
  · rw [h]
  · rw [h, haddr]
    dsimp only
    rw [State.leave_jumping]
    cases (f.lane o a.s ⟨cur.core, cur.slot, l⟩).2 <;> rfl

theorem LaneForm.lane_cur (hpass : f.pass = fun s _ => (s, .next)) (hcur : ∀ s x, (f.body s x).1.cur = s.cur) (s : State) (x : Lane) :
    (f.lane o s x).1.cur = s.cur := by
  unfold LaneForm.lane
  rw [hpass]
  dsimp only
  repeat' split
  case h_3 => exact hcur s x
  all_goals rfl

theorem State.laneInstr_jumping (hpass : f.pass = fun s _ => (s, .next)) (hcur : ∀ s x, (f.body s x).1.cur = s.cur) (s : State) :
    s.laneInstr o (f.jumping o) = s.laneInstr o f := by
  have hfold (cur : Cur) (ls : List Nat) (a : Bundle) (ha : a.s.cur = some cur) :
      ls.foldl ((f.jumping o).step o cur) a = ls.foldl (f.step o cur) a := by
    induction ls generalizing a with
    | nil => rfl
    | cons l ls ih =>
      rw [List.foldl_cons, List.foldl_cons, LaneForm.step_jumping ha]
      exact ih _ ((State.leave_cur ..).trans ((LaneForm.lane_cur hpass hcur ..).trans ha))
  unfold State.laneInstr
  cases h : s.cur with
  | none => rfl
  | some cur => exact congrArg (fun a => Bundle.close a cur) (hfold cur cur.lanes _ h)
end

/-- A form whose body changes the lane's thread and its shadow's alike, by `act`, and goes on, lets every lane go on. -/
theorem lanesGoOn_of_next (i : Instr) (o : Enc) (f : LaneForm) (can : State → Lane → Thread → Prop) (act : State → Lane → Thread → Thread)
    (he : ∀ s, exec i s = .next (s.laneInstr o f)) (hpass : f.pass = fun s _ => (s, .next)) (hcur : ∀ s x, (f.body s x).1.cur = s.cur)
    (hmark : ∀ s x t, (act s x t).haltMark = t.haltMark ∧ (act s x t).stepMark = t.stepMark)
    (hbody : ∀ (s : State) (x : Lane) (c c' : Crew), s.crew x.core x.slot = some c → c.Alike c' → c'.thread x.lane = c.thread x.lane →
      can s x (c.thread x.lane) → let u := s.setCrew x.core x.slot (some c')
      f.body u x = (u.both x (act s x), .next)) :
    LanesGoOn i o f.sOnly.isSome f.short f.srcs f.dst f.preds can act fun _ _ t => t.pc + BitVec.ofNat 64 o.bytes := by
  have hjump := lanesGoOn_of_body i o (f.jumping o) (fun s x t => can s x t ∧ s.nextAddr o = t.pc + BitVec.ofNat 64 o.bytes) act act
    (fun _ _ t => t.pc + BitVec.ofNat 64 o.bytes) (fun s => by rw [he, State.laneInstr_jumping hpass hcur]) hpass hmark (fun _ _ _ _ => rfl) ?_
  · intro s cur c hat hnodup heven hop
    refine hjump s cur c hat hnodup heven fun l hl => ?_
    obtain ⟨hoperable, hpriv, hcan⟩ := hop l hl
    obtain ⟨hs, -, hready⟩ := hat
    obtain ⟨-, -, -, hpc, -⟩ := hready l hl
    exact ⟨hoperable, hpriv, fun hg => ⟨hcan hg, by rw [State.nextAddr, hs, hpc]⟩⟩
  · rintro s x c c' hc ha hsame ⟨hcan, haddr⟩ u
    have hu : u.nextAddr o = s.nextAddr o := by unfold State.nextAddr; rw [State.setCrew_cur]
    unfold LaneForm.jumping
    dsimp only
    rw [hbody s x c c' hc ha hsame hcan, hu, haddr]
    rfl


/-! One lane alone in its bundle, whose guard is true and whose operands are ready (03 R67). -/

section
variable {s : State} {cur : Cur} {c : Crew} {l : Nat} {o : Enc} {f : LaneForm}

/-- Such a lane comes to the body of its instruction. -/
theorem Alone.lane_body (h : Alone s cur c l o f.short f.srcs f.dst f.preds) (hpriv : f.sOnly.isSome = true → (c.thread l).priv = true) :
    f.lane o s ⟨cur.core, cur.slot, l⟩ = f.body s ⟨cur.core, cur.slot, l⟩ := by
  obtain ⟨⟨-, hcrew, -⟩, -, -, hguard, hwait, hfate⟩ := h
  have hthread : s.laneThread ⟨cur.core, cur.slot, l⟩ = c.thread l := State.laneThread_of_crew hcrew
  have hs : ¬ (f.sOnly.isSome && !(c.thread l).priv) = true := by
    cases hp : f.sOnly.isSome <;> simp [hp, hpriv]
  unfold LaneForm.lane
  simp only [hthread, hguard, hfate]
  rw [if_neg hs, if_neg (by simpa using hwait)]
  rfl

/-- The bundle of one lane, where the lane leaves by a change of its thread that keeps the marks of the debugger. -/
theorem State.laneInstr_leaves (hat : AtHand s cur c) (hl : cur.lanes = [l]) {u : State} {out : LaneOut}
    (hlane : f.lane o s ⟨cur.core, cur.slot, l⟩ = (u, out)) (hhits : ∀ n a, out ≠ .watch n a) {g : Thread → Thread}
    (hleave : u.leave ⟨cur.core, cur.slot, l⟩ (cur.pc + BitVec.ofNat 64 o.bytes) out = (u.onThread ⟨cur.core, cur.slot, l⟩ g, false))
    {c' : Crew} (hu : u.crew cur.core cur.slot = some c') (hmarks : (g (c'.thread l)).haltMark = (c.thread l).haltMark ∧
      (g (c'.thread l)).stepMark = (c.thread l).stepMark) :
    s.laneInstr o f = (u.onThread ⟨cur.core, cur.slot, l⟩ g).settle cur.core cur.slot := by
  have ⟨hcur, _, hready⟩ := hat
  rw [State.laneInstr_alone hcur hl, LaneForm.step]
  simp only [hlane, hleave]
  exact hat.close_alone hl rfl rfl (State.thread_onThread (x := ⟨cur.core, cur.slot, l⟩) hu (hready l (by simp [hl])).1 g) hmarks.1 hmarks.2

/-- Outside paired-lane mode a lane that goes on is the only one to move. -/
theorem State.leave_next_single {u : State} {x : Lane} {c' : Crew} (hu : u.crew x.core x.slot = some c') (hp : (u.hdrOf x.core x.slot).pair = false)
    (next : DWord) : u.leave x next .next = (u.onThread x fun t => t.goto next, false) := by
  have hpair : ((u.modThread x.core x.slot x.lane fun t => t.goto next).hdrOf x.core x.slot).pair = false := by
    rw [State.modThread_of_crew hu, State.hdrOf_setCrew hu (c'.modThread_alike ..), hp]
  unfold State.leave State.onThread
  simp only [hpair, Bool.false_eq_true, ↓reduceIte]

theorem State.leave_hold_single {u : State} {x : Lane} {c' : Crew} (hu : u.crew x.core x.slot = some c') (hp : (u.hdrOf x.core x.slot).pair = false)
    (next : DWord) (st : LaneState) : u.leave x next (.hold st) = (u.onThread x fun t => { t with st, age := 0, miss := none }, false) := by
  have hpair : ((u.modThread x.core x.slot x.lane fun t => { t with st, age := 0, miss := none }).hdrOf x.core x.slot).pair = false := by
    rw [State.modThread_of_crew hu, State.hdrOf_setCrew hu (c'.modThread_alike ..), hp]
  unfold State.leave State.onThread
  simp only [hpair, Bool.false_eq_true, ↓reduceIte]

/-- The lane goes on, what its instruction has done standing. -/
theorem State.laneInstr_goesOn (hat : AtHand s cur c) (hl : cur.lanes = [l]) {u : State}
    (hlane : f.lane o s ⟨cur.core, cur.slot, l⟩ = (u, .next)) {c' : Crew} (hu : u.crew cur.core cur.slot = some c')
    (hp : (u.hdrOf cur.core cur.slot).pair = false) (hmarks : (c'.thread l).haltMark = (c.thread l).haltMark ∧
      (c'.thread l).stepMark = (c.thread l).stepMark) :
    s.laneInstr o f = u.onward ⟨cur.core, cur.slot, l⟩ (cur.pc + BitVec.ofNat 64 o.bytes) :=
  State.laneInstr_leaves hat hl hlane (fun _ _ => nofun) (State.leave_next_single (x := ⟨cur.core, cur.slot, l⟩) hu hp _) hu hmarks

end

/-! Special registers (05 R95 to R99): what a read gives depends on the lane's thread, its crew but for the threads, its core and its
partition. -/

section
variable {s : State} {b sl : Nat} {c c' : Crew}

theorem State.teamOf_setCrew (h : s.crew b sl = some c) (ha : c.Alike c') : (s.setCrew b sl (some c')).teamOf b sl = s.teamOf b sl := by
  simp only [State.teamOf, State.crew_setCrew_self h, h, ha.team, Core.team, State.teams_setCrew]

theorem State.launch_setCrew (s : State) (b sl : Nat) (x : Option Crew) (p id : Nat) : (s.setCrew b sl x).launch p id = s.launch p id := by
  rw [State.launch, State.part_of_parts_eq (State.setCrew_parts ..), State.launch]

theorem State.spcap_setCrew (s : State) (b sl : Nat) (x : Option Crew) (b' : Nat) : (s.setCrew b sl x).spcap b' = s.spcap b' := by
  simp only [State.spcap, State.die, State.setCrew_dies]
  rfl

theorem State.core_setCrew_field {α : Type} (g : Core → α) (hg : ∀ (k : Core) y, g (k.setCrew sl y) = g k) (s : State) (b b' : Nat) (x : Option Crew) :
    g ((s.setCrew b sl x).core b') = g (s.core b') :=
  s.core_modCore_field g (fun k => hg k x) b b'

theorem State.srRead_setCrew {x : Lane} (h : s.crew x.core x.slot = some c) (ha : c.Alike c') (hsame : c'.thread x.lane = c.thread x.lane)
    (m : Bool) (r : Nat) : (s.setCrew x.core x.slot (some c')).srRead x m r = s.srRead x m r := by
  have hself := State.crew_setCrew_self h (some c')
  have hthread : (s.setCrew x.core x.slot (some c')).laneThread x = s.laneThread x := by
    rw [State.laneThread_of_crew hself, hsame, State.laneThread_of_crew h]
  have hidx : c'.idx = c.idx := by rw [ha]
  have htile (k : Nat) : c'.tile k = c.tile k := by rw [ha]; rfl
  have hf0 : (s.setCrew x.core x.slot (some c')).f0 x = s.f0 x := by
    simp only [State.f0, State.hdrOf_setCrew h ha, hself, h, hidx]
  have hplace : (s.setCrew x.core x.slot (some c')).placeReg x r = s.placeReg x r := by
    simp only [State.placeReg, State.teamOf_setCrew h ha, State.launch_setCrew, hf0, hself, h, Option.map_some, hidx]
  have htarget := State.core_setCrew_field Core.crTarget (sl := x.slot) (fun k y => k.setCrew_crTarget x.slot y) s x.core x.core (some c')
  have hcount := State.core_setCrew_field Core.crCount (sl := x.slot) (fun k y => k.setCrew_crCount x.slot y) s x.core x.core (some c')
  have hfinj := State.core_setCrew_field Core.finj (sl := x.slot) (fun k y => k.setCrew_finj x.slot y) s x.core x.core (some c')
  have hpart (p : Nat) := State.part_of_parts_eq (State.setCrew_parts s x.core x.slot (some c')) p
  unfold State.srRead
  simp only [hthread, State.hdrOf_setCrew h ha, hplace, State.teamOf_setCrew h ha, State.launch_setCrew, hpart,
    State.partOf_of_parts_eq (State.setCrew_parts s x.core x.slot (some c')), State.spcap_setCrew, State.setCrew_cycle, htarget, hcount, hfinj,
    hself, h, htile]

end

/-! SREAD, CLK and SWRITE as forms that go on (05 R98, R99, 18 R369). -/

theorem State.put_eq_both (s : State) (x : Lane) (d : Nat) (wide : Bool) (v : DWord) (g : Tag) :
    s.put x d wide v g = s.both x fun t => t.write d wide v g := rfl

theorem sread_goesOn (o : Enc) :
    LanesGoOn (.sread o) o false true [] (some (o.d.toNat, srWide (srnRead o))) [] (fun _ _ _ => True)
      (fun s x u => u.write o.d.toNat (srWide (srnRead o)) (s.srRead x (s.laneThread x).priv (srnRead o)) (srTag (srnRead o)))
      fun _ _ t => t.pc + BitVec.ofNat 64 o.bytes := by
  refine lanesGoOn_of_next (.sread o) o (sreadForm o) _ _ (fun _ => rfl) rfl (fun _ _ => State.both_cur ..) (fun _ _ _ => by simp) ?_
  intro s x c c' hc ha hsame _ u
  have hpriv : u.laneThread x = s.laneThread x := by
    rw [State.laneThread_of_crew (State.crew_setCrew_self hc _), hsame, State.laneThread_of_crew hc]
  unfold sreadForm
  simp only [State.put_eq_both, hpriv]
  rw [State.srRead_setCrew hc ha hsame]

theorem clkForm_body_cur (o : Enc) (s : State) (x : Lane) : ((clkForm o).body s x).1.cur = s.cur := by
  unfold clkForm
  dsimp only
  split
  · exact State.both_cur ..
  · rfl

theorem clk_goesOn (o : Enc) :
    LanesGoOn (.clk o) o false true [] none [] (fun _ _ t => (∀ q < 64, (t.reg q).full = true) ∧ t.predWait = [])
      (fun s _ u => u.write o.d.toNat true (BitVec.ofNat 64 s.cycle) .n64) fun _ _ t => t.pc + BitVec.ofNat 64 o.bytes := by
  refine lanesGoOn_of_next (.clk o) o (clkForm o) _ _ (fun _ => rfl) rfl (clkForm_body_cur o) (fun _ _ _ => by simp) ?_
  rintro s x c c' hc - hsame ⟨hfull, hwait⟩ u
  have hthread : u.laneThread x = c.thread x.lane := (State.laneThread_of_crew (State.crew_setCrew_self hc _)).trans hsame
  have hempty : ((List.range 64).filter fun r => !((c.thread x.lane).reg r).full) = [] := by
    simpa [List.filter_eq_nil_iff] using hfull
  unfold clkForm
  simp only [hthread, hempty, hwait, State.put_eq_both]
  simp [u]

/-- Without .one the form does not depend on the bundle. -/
theorem swriteForm_all {o : Enc} (h : o.modBit 0 = false) (one : Option Nat) : swriteForm o one = swriteForm o none := by
  unfold swriteForm
  simp only [h, Bool.false_and]

theorem swriteForm_sOnly (o : Enc) (one : Option Nat) :
    (swriteForm o one).sOnly.isSome = (srInfo (srnWrite o)).any fun i => i.access == .rwS := by
  unfold swriteForm
  cases h : (srInfo (srnWrite o)).any fun i => i.access == .rwS <;> simp [h]

/-- The operand of SWRITE, and its value. -/
def swriteOpnd (o : Enc) : Opnd := o.litA (srWide (srnWrite o)) (.only (srTag (srnWrite o)))
def swriteVal (o : Enc) (t : Thread) : DWord := if o.hasLit then o.litVal (srWide (srnWrite o)) else t.value o.a.toNat (srWide (srnWrite o))

theorem swriteOpnd_value (o : Enc) (t : Thread) : (swriteOpnd o).value t = swriteVal o t := by
  unfold swriteOpnd swriteVal Enc.litA
  split <;> rfl

/-- The lane's operand is there and sets no reserved field (05 R99). -/
def SwriteTakes (o : Enc) (t : Thread) : Prop :=
  operandFate t [swriteOpnd o] none [] = .ready ∧ srBad (srnWrite o) (swriteVal o t).toNat = none

theorem swriteForm_body {o : Enc} {s : State} {x : Lane} {one : Option Nat} (hone : (o.modBit 0 && one != some x.lane) = false)
    (h : SwriteTakes o (s.laneThread x)) :
    (swriteForm o one).body s x = (s.srWrite x (s.both x) (srnWrite o) (swriteVal o (s.laneThread x)), .next) := by
  obtain ⟨hfate, hgood⟩ := h
  rw [← swriteOpnd_value] at hgood ⊢
  unfold swriteOpnd at hfate hgood ⊢
  unfold swriteForm
  simp only [hone, hfate, hgood]
  rfl

theorem State.srWrite_cur (s : State) (x : Lane) {upd : (Thread → Thread) → State} (h : ∀ f, (upd f).cur = s.cur) (r : Nat) (v : DWord) :
    (s.srWrite x upd r v).cur = s.cur := by
  unfold State.srWrite
  simp only [apply_ite State.cur, h, State.modCore_cur, State.modCrew_cur, ite_self]

theorem swriteForm_body_cur (o : Enc) (one : Option Nat) (s : State) (x : Lane) : ((swriteForm o one).body s x).1.cur = s.cur := by
  unfold swriteForm
  dsimp only
  split
  · rfl
  · split
    case h_3 =>
      split
      · rfl
      · exact State.srWrite_cur s x (s.both_cur x) ..
    all_goals rfl

/-- SWRITE of a register of the thread: the one that `g` replaces. -/
theorem swrite_goesOn {o : Enc} {r : Nat} {g : DWord → Thread → Thread} (hr : srnWrite o = r) (hall : o.modBit 0 = false)
    (hg : ∀ (s : State) (x : Lane) (upd : (Thread → Thread) → State) (v : DWord), s.srWrite x upd r v = upd (g v))
    (hmark : ∀ v t, (g v t).haltMark = t.haltMark ∧ (g v t).stepMark = t.stepMark) :
    LanesGoOn (.swrite o) o ((srInfo (srnWrite o)).any fun i => i.access == .rwS) true [] none [] (fun _ _ t => SwriteTakes o t)
      (fun s x u => g (swriteVal o (s.laneThread x)) u) fun _ _ t => t.pc + BitVec.ofNat 64 o.bytes := by
  rw [← swriteForm_sOnly o none]
  refine lanesGoOn_of_next (.swrite o) o (swriteForm o none) _ _ (fun s => ?_) rfl (swriteForm_body_cur o none) (fun _ _ => hmark _) ?_
  · exact congrArg (fun f => Host.Outcome.next (s.laneInstr o f)) (swriteForm_all hall _)
  · intro s x c c' hc ha hsame htakes u
    have hthread : u.laneThread x = c.thread x.lane := (State.laneThread_of_crew (State.crew_setCrew_self hc _)).trans hsame
    rw [swriteForm_body (by rw [hall]; rfl) (by rwa [hthread]), hr, hg, hthread, State.laneThread_of_crew hc]


/-! SWRITE by one lane (05 R98): of a register of its core, of a word of its crew's tile registers. -/

section
variable {s : State} {cur : Cur} {c : Crew} {l : Nat} {o : Enc} {srcs : List Opnd} {dst : Option (Nat × Bool)} {preds : List Nat}

theorem Alone.lowestTrue (h : Alone s cur c l o true srcs dst preds) : s.lowestTrue true o = some l := by
  obtain ⟨⟨hcur, hcrew, -⟩, hl, -, hguard, hwait, -⟩ := h
  have hholds : o.guardHolds true (s.thread cur.core cur.slot l) = true := by
    have hthread : s.thread cur.core cur.slot l = c.thread l := State.laneThread_of_crew (x := ⟨cur.core, cur.slot, l⟩) hcrew
    have hempty : o.guardWait true (c.thread l) = [] := by
      simpa [Enc.guardWait, List.filter_eq_nil_iff] using hwait
    rw [hthread, Enc.guardHolds, hempty, hguard]
    rfl
  unfold State.lowestTrue
  simp [hcur, hl, hholds]

/-- A write that leaves the lane's thread and its header alone. -/
theorem exec_swrite_goesOn (h : Alone s cur c l o true [] none [])
    (hpriv : ((srInfo (srnWrite o)).any fun i => i.access == .rwS) = true → (c.thread l).priv = true) (htakes : SwriteTakes o (c.thread l))
    {u : State} (hu : s.srWrite ⟨cur.core, cur.slot, l⟩ (s.both ⟨cur.core, cur.slot, l⟩) (srnWrite o) (swriteVal o (c.thread l)) = u)
    {c' : Crew} (hcrew : u.crew cur.core cur.slot = some c') (hhdr : u.hdrOf cur.core cur.slot = s.hdrOf cur.core cur.slot)
    (hthread : c'.thread l = c.thread l) :
    exec (.swrite o) s = .next (u.onward ⟨cur.core, cur.slot, l⟩ (cur.pc + BitVec.ofNat 64 o.bytes)) := by
  have ⟨hat, hl, hp, _⟩ := h
  have hself : s.laneThread ⟨cur.core, cur.slot, l⟩ = c.thread l := State.laneThread_of_crew hat.2.1
  refine congrArg Host.Outcome.next (State.laneInstr_goesOn hat hl ?_ hcrew (by rw [hhdr, hp]) (by rw [hthread]; exact ⟨rfl, rfl⟩))
  rw [Alone.lane_body (f := swriteForm o (s.lowestTrue true o)) h (by rwa [swriteForm_sOnly]), swriteForm_body, hself, hu]
  · simp [h.lowestTrue]
  · rwa [hself]

end

/-- An update of a core that leaves teams and crews alone leaves every slot's header. -/
theorem State.hdrOf_modCore {f : Core → Core} (ht : ∀ c, (f c).teams = c.teams) (hc : ∀ c sl, (f c).crew sl = c.crew sl) (s : State)
    (b b' sl : Nat) : (s.modCore b f).hdrOf b' sl = s.hdrOf b' sl := by
  simp only [State.hdrOf, State.teamOf, State.launch, Core.team, State.crew_modCore fun k => hc k sl,
    s.core_modCore_field Core.teams ht, State.part_of_parts_eq (State.modCore_parts s b f)]

/-- A write of a register of the core. -/
theorem exec_swrite_core {s : State} {cur : Cur} {c : Crew} {l : Nat} {o : Enc} (h : Alone s cur c l o true [] none [])
    (hpriv : ((srInfo (srnWrite o)).any fun i => i.access == .rwS) = true → (c.thread l).priv = true) (htakes : SwriteTakes o (c.thread l))
    (f : Core → Core) (ht : ∀ k, (f k).teams = k.teams) (hc : ∀ k sl, (f k).crew sl = k.crew sl)
    (hu : s.srWrite ⟨cur.core, cur.slot, l⟩ (s.both ⟨cur.core, cur.slot, l⟩) (srnWrite o) (swriteVal o (c.thread l)) = s.modCore cur.core f) :
    exec (.swrite o) s = .next ((s.modCore cur.core f).onward ⟨cur.core, cur.slot, l⟩ (cur.pc + BitVec.ofNat 64 o.bytes)) :=
  exec_swrite_goesOn h hpriv htakes hu ((State.crew_modCore (fun k => hc k cur.slot) s cur.core cur.core).trans h.1.2.1)
    (State.hdrOf_modCore ht hc s cur.core cur.core cur.slot) rfl

/-! A word of a tile register (13 R244). -/

/-- `setBits` as it stands: what lies above the field, the field, and what lies below. -/
theorem setBits_eq (x lo n v : Nat) :
    setBits x (lo + n) lo v = 2 ^ lo * (2 ^ (n + 1) * (x / 2 ^ lo / 2 ^ (n + 1)) + v % 2 ^ (n + 1)) + x % 2 ^ lo := by
  have hlow := Nat.div_add_mod x (2 ^ lo)
  have hmid := Nat.div_add_mod (x / 2 ^ lo) (2 ^ (n + 1))
  have hw : lo + n + 1 - lo = n + 1 := by omega
  unfold setBits bits
  simp only [hw, Nat.shiftRight_eq_div_pow]
  generalize x % 2 ^ lo = r at *
  generalize x / 2 ^ lo = q at *
  generalize q % 2 ^ (n + 1) = m at *
  generalize 2 ^ (n + 1) * (q / 2 ^ (n + 1)) = h at *
  generalize v % 2 ^ (n + 1) = u at *
  subst hmid
  rw [← hlow, Nat.mul_add, Nat.mul_add, Nat.mul_comm m, Nat.mul_comm u]
  omega

theorem testBit_setBits (x lo n v j : Nat) :
    (setBits x (lo + n) lo v).testBit j = if lo ≤ j ∧ j ≤ lo + n then v.testBit (j - lo) else x.testBit j := by
  have hx : x = 2 ^ lo * (2 ^ (n + 1) * (x / 2 ^ lo / 2 ^ (n + 1)) + x / 2 ^ lo % 2 ^ (n + 1)) + x % 2 ^ lo := by
    rw [Nat.div_add_mod, Nat.div_add_mod]
  have hbits (m : Nat) : (2 ^ lo * (2 ^ (n + 1) * (x / 2 ^ lo / 2 ^ (n + 1)) + m % 2 ^ (n + 1)) + x % 2 ^ lo).testBit j =
      if j < lo then (x % 2 ^ lo).testBit j else if j - lo < n + 1 then (m % 2 ^ (n + 1)).testBit (j - lo)
        else (x / 2 ^ lo / 2 ^ (n + 1)).testBit (j - lo - (n + 1)) := by
    rw [Nat.testBit_two_pow_mul_add _ (Nat.mod_lt _ (Nat.two_pow_pos _)), Nat.testBit_two_pow_mul_add _ (Nat.mod_lt _ (Nat.two_pow_pos _))]
  rw [setBits_eq, hbits]
  by_cases hfield : lo ≤ j ∧ j ≤ lo + n
  · rw [if_neg (by omega), if_pos (by omega), if_pos hfield, Nat.testBit_mod_two_pow, decide_eq_true (by omega), Bool.true_and]
  · rw [if_neg hfield]
    conv_rhs => rw [hx, hbits]
    by_cases hlow : j < lo
    · rw [if_pos hlow, if_pos hlow]
    · rw [if_neg hlow, if_neg hlow, if_neg (by omega), if_neg (by omega)]

theorem testBit_word (x i k : Nat) : (x / 2 ^ (32 * i) % 2 ^ 32).testBit k = (decide (k < 32) && x.testBit (32 * i + k)) := by
  rw [Nat.testBit_mod_two_pow, Nat.testBit_div_two_pow, Nat.add_comm]

/-- Of the words of 32 bits, the one that is set changes and no other. -/
theorem setBits_word (x v i j : Nat) : setBits x (32 * i + 31) (32 * i) v / 2 ^ (32 * j) % 2 ^ 32 =
    if j = i then v % 2 ^ 32 else x / 2 ^ (32 * j) % 2 ^ 32 := by
  refine Nat.eq_of_testBit_eq fun k => ?_
  rw [testBit_word, testBit_setBits]
  by_cases hk : k < 32
  · by_cases hj : j = i
    · subst hj
      rw [if_pos ⟨by omega, by omega⟩, if_pos rfl, Nat.testBit_mod_two_pow, Nat.add_sub_cancel_left]
    · rw [if_neg (by omega), if_neg hj, testBit_word]
  · rw [decide_eq_false hk, Bool.false_and]
    split
    · rw [Nat.testBit_mod_two_pow, decide_eq_false hk, Bool.false_and]
    · rw [testBit_word, decide_eq_false hk, Bool.false_and]

theorem setBits_lt {x n i v : Nat} (hx : x < 2 ^ (32 * n)) (hi : i < n) : setBits x (32 * i + 31) (32 * i) v < 2 ^ (32 * n) := by
  refine Nat.lt_pow_two_of_testBit _ fun j hj => ?_
  rw [testBit_setBits, if_neg (by omega)]
  exact Nat.testBit_lt_two_pow (hx.trans_le (Nat.pow_le_pow_right (by omega) hj))

/-- Word `j` of tile register `k` after word `i` of tile register `q` has been set. -/
theorem Crew.tile_setWord (c : Crew) {q i : Nat} (hi : i < 4) (w : Nat) {k j : Nat} (hk : k < 16) :
    ((c.setTile q (BitVec.ofNat 128 (setBits (c.tile q).toNat (32 * i + 31) (32 * i) w))).tile k).toNat / 2 ^ (32 * j) % 2 ^ 32 =
      if k = q ∧ j = i then w % 2 ^ 32 else (c.tile k).toNat / 2 ^ (32 * j) % 2 ^ 32 := by
  by_cases hkq : k = q
  · subst hkq
    have hlt : setBits (c.tile k).toNat (32 * i + 31) (32 * i) w < 2 ^ 128 := setBits_lt (n := 4) (c.tile k).isLt hi
    have htile (v : BitVec 128) : (c.setTile k v).tile k = v := by simp [Crew.setTile, Crew.tile, hk]
    rw [htile, BitVec.toNat_ofNat, Nat.mod_eq_of_lt hlt, setBits_word]
    simp
  · have htile (v : BitVec 128) : (c.setTile q v).tile k = c.tile k := by
      unfold Crew.setTile Crew.tile
      by_cases hq : q < 16
      · simp [hq, hk, Vector.getElem_set_ne _ _ (Ne.symm hkq)]
      · simp [hq]
    rw [htile, if_neg fun h => hkq h.1]


theorem Crew.setTile_eq (c : Crew) (k : Nat) (v : BitVec 128) : c.setTile k v = { c with tiles := (c.setTile k v).tiles } := by
  unfold Crew.setTile
  split <;> rfl

/-- SWRITE of a word of a tile register. -/
theorem State.srWrite_tile {s : State} {x : Lane} {c : Crew} (hc : s.crew x.core x.slot = some c) (upd : (Thread → Thread) → State) {r : Nat}
    (hr : 0x100 ≤ r) (v : DWord) : s.srWrite x upd r v = s.setCrew x.core x.slot (some (c.setTile ((r - 0x100) / 4)
      (BitVec.ofNat 128 (setBits (c.tile ((r - 0x100) / 4)).toNat (32 * ((r - 0x100) % 4) + 31) (32 * ((r - 0x100) % 4)) (v.setWidth 32).toNat)))) := by
  unfold State.srWrite
  rw [if_neg (by omega), if_neg (by omega), if_neg (by omega), if_neg (by omega), if_neg (by omega), if_neg (by omega), if_neg (by omega),
    if_neg (by omega), if_pos hr]
  exact State.modCrew_of_crew hc _

/-! What SREAD gives (05 R95). -/

section
variable {s : State} {x : Lane} {c : Crew}

theorem State.srRead_tile (hc : s.crew x.core x.slot = some c) (m : Bool) (k : Nat) {i : Nat} (hi : i < 4) :
    s.srRead x m (0x100 + 4 * k + i) = BitVec.ofNat 64 ((c.tile k).toNat / 2 ^ (32 * i) % 2 ^ 32) := by
  have hk : (0x100 + 4 * k + i - 0x100) / 4 = k := by omega
  have hi : (0x100 + 4 * k + i - 0x100) % 4 = i := by omega
  unfold State.srRead
  iterate 18 rw [if_neg (by omega)]
  have hw : 32 * i + 31 + 1 - 32 * i = 32 := by omega
  simp only [hc, hk, hi, bits, Nat.shiftRight_eq_div_pow, hw]

/-- A register that names the lane's place in its launch. -/
theorem State.srRead_place {tm : Team} {ln : Launch} (ht : s.teamOf x.core x.slot = some tm) (hl : s.launch tm.part tm.launch = some ln)
    (hc : s.crew x.core x.slot = some c) (m : Bool) :
    s.srRead x m 0x001 = BitVec.ofNat 64 c.idx ∧ s.srRead x m 0x003 = BitVec.ofNat 64 (ln.hdr.wid (s.f0 x) tm.l % 2 ^ 32) ∧
    s.srRead x m 0x004 = BitVec.ofNat 64 (ln.hdr.wid (s.f0 x) tm.l / 2 ^ 32) ∧
    s.srRead x m 0x008 = BitVec.ofNat 64 (s.f0 x) ∧
    (∀ k < 5, s.srRead x m (0x009 + k) = BitVec.ofNat 64 ((ln.hdr.fields tm.l).getD k 0)) ∧ s.srRead x m 0x00E = BitVec.ofNat 64 ln.patch ∧
    s.srRead x m 0x010 = BitVec.ofNat 64 ln.coreCnt ∧ ∀ k < 16, s.srRead x m (0x050 + k) = BitVec.ofNat 64 (ln.hdr.splits.getD k 0) := by
  have hplace {r v : Nat} (h : r ≤ 0x00E ∨ (0x50 ≤ r ∧ r ≤ 0x5F)) (h0 : r ≠ 0x000) (h2 : r ≠ 0x002) (hv : s.placeReg x r = some v) :
      s.srRead x m r = BitVec.ofNat 64 v := by
    unfold State.srRead
    rw [if_neg h0, if_neg h2, if_pos h, hv]
  refine ⟨hplace (by omega) (by omega) (by omega) ?_, hplace (by omega) (by omega) (by omega) ?_, hplace (by omega) (by omega) (by omega) ?_,
    hplace (by omega) (by omega) (by omega) ?_, fun k hk => hplace (by omega) (by omega) (by omega) ?_, hplace (by omega) (by omega) (by omega) ?_,
    ?_, fun k hk => hplace (by omega) (by omega) (by omega) ?_⟩
  · simp [State.placeReg, ht, hl, hc]
  · simp [State.placeReg, ht, hl]
  · simp [State.placeReg, ht, hl]
  · simp [State.placeReg, ht, hl]
  · have hsub : 9 + k - 8 = k + 1 := by omega
    simp only [State.placeReg, ht, hl, hsub]
    rw [if_neg (by omega), if_neg (by omega), if_neg (by omega), if_pos (by omega), List.getElem?_cons_succ, List.getD_eq_getElem?_getD]
  · simp [State.placeReg, ht, hl]
  · simp [State.srRead, ht, hl]
  · simp only [State.placeReg, ht, hl, Nat.add_sub_cancel_left]
    rw [if_neg (by omega), if_neg (by omega), if_neg (by omega), if_neg (by omega), if_neg (by omega), List.getD_eq_getElem?_getD]

/-- The others, one by one. -/
theorem State.srRead_own (hc : s.crew x.core x.slot = some c) (m : Bool) :
    let t := c.thread x.lane
    let h := s.hdrOf x.core x.slot
    let n (v : Nat) : DWord := BitVec.ofNat 64 v
    let rd := s.srRead x m
    rd 0x000 = n (if h.pair then x.lane / 2 else x.lane) ∧ rd 0x002 = n (if h.pair then 16 else 32) ∧
    rd 0x011 = n (if (s.die (x.core / 40)).sram then 65536 else 32768) ∧ rd 0x012 = n (s.partOf x.core) ∧ rd 0x018 = n s.cycle ∧
    rd 0x020 = n (t.region.toNat + 16 * t.priv.toNat + 32 * h.det.toNat + 64 * h.pair.toNat + 128 * h.thr.toNat) ∧
    rd 0x021 = t.rnd.setWidth 64 ∧ rd 0x022 = t.regionPc ∧ rd 0x030 = t.tcause.setWidth 64 ∧ rd 0x031 = t.tpc ∧ rd 0x032 = t.taddr ∧
    rd 0x033 = t.tinfo.setWidth 64 ∧ rd 0x034 = t.tvec ∧ rd 0x040 = (s.core x.core).crTarget.setWidth 64 ∧
    rd 0x041 = (s.core x.core).crCount.setWidth 64 ∧ rd 0x042 = (if m then (s.core x.core).finj.setWidth 64 else 0) := by
  have hthread : s.laneThread x = c.thread x.lane := State.laneThread_of_crew hc
  have hmode : modeWord (c.thread x.lane) (s.hdrOf x.core x.slot) = (c.thread x.lane).region.toNat + 16 * (c.thread x.lane).priv.toNat +
      32 * (s.hdrOf x.core x.slot).det.toNat + 64 * (s.hdrOf x.core x.slot).pair.toNat + 128 * (s.hdrOf x.core x.slot).thr.toNat := by
    unfold modeWord
    omega
  and_intros <;> simp [State.srRead, hthread, hmode, State.spcap, visible, nlane]

theorem State.srWrite_crTarget (s : State) (x : Lane) (upd : (Thread → Thread) → State) (v : DWord) :
    s.srWrite x upd 0x040 v = s.modCore x.core fun c => { c with crTarget := v.setWidth 32 } := by
  simp [State.srWrite]

theorem State.srWrite_finj (s : State) (x : Lane) (upd : (Thread → Thread) → State) (v : DWord) :
    s.srWrite x upd 0x042 v = s.modCore x.core fun c => { c with finj := v.setWidth 32 } := by
  simp [State.srWrite]

end
end Sys2Proof.Machine

section
open Sys2Proof Sys2Proof.Machine

/-- Settles O16: SREAD, CLK and SWRITE of a thread's register are forms that go on (`sread_goesOn`, `clk_goesOn`, `swrite_goesOn`); a
write of the core's registers or of a tile register leaves the lane's thread and header alone (`exec_swrite_goesOn`). -/
theorem specialRegisters : Obligations.SpecialRegisters := by
  refine ⟨fun o => ⟨sread_goesOn o, clk_goesOn o,
    fun hw hall => swrite_goesOn (g := fun v t => { t with rnd := v.setWidth 32 }) hw hall ?_ fun _ _ => ⟨rfl, rfl⟩,
    fun hw hall => swrite_goesOn (g := fun v t => { t with tcause := v.setWidth 32 }) hw hall ?_ fun _ _ => ⟨rfl, rfl⟩,
    fun hw hall => swrite_goesOn (g := fun v t => { t with tpc := v }) hw hall ?_ fun _ _ => ⟨rfl, rfl⟩,
    fun hw hall => swrite_goesOn (g := fun v t => { t with taddr := v }) hw hall ?_ fun _ _ => ⟨rfl, rfl⟩,
    fun hw hall => swrite_goesOn (g := fun v t => { t with tinfo := v.setWidth 32 }) hw hall ?_ fun _ _ => ⟨rfl, rfl⟩,
    fun hw hall => swrite_goesOn (g := fun v t => { t with tvec := v }) hw hall ?_ fun _ _ => ⟨rfl, rfl⟩,
    fun s cur c l h => ⟨fun hs _ hh => ?priv, fun hpriv hfate hgood => ⟨fun hw => ?target, fun hw => ?finj, fun hlo hhi => ?tile⟩⟩⟩,
    fun s x c m hc => ?reads⟩
  case priv =>
    exact congrArg Host.Outcome.next (State.laneInstr_priv h.1 h.2.1 h.2.2.1 hh (if_pos hs))
  case target =>
    exact exec_swrite_core h hpriv ⟨hfate, hgood⟩ (fun k => { k with crTarget := (swriteVal o (c.thread l)).setWidth 32 }) (fun _ => rfl)
      (fun _ _ => rfl) (by rw [hw, State.srWrite_crTarget])
  case finj =>
    exact exec_swrite_core h hpriv ⟨hfate, hgood⟩ (fun k => { k with finj := (swriteVal o (c.thread l)).setWidth 32 }) (fun _ => rfl)
      (fun _ _ => rfl) (by rw [hw, State.srWrite_finj])
  case tile =>
    have hset := State.srWrite_tile (x := ⟨cur.core, cur.slot, l⟩) h.1.2.1 (s.both ⟨cur.core, cur.slot, l⟩) hlo (swriteVal o (c.thread l))
    rw [Crew.setTile_eq] at hset
    refine ⟨_, exec_swrite_goesOn h hpriv ⟨hfate, hgood⟩ hset (State.crew_setCrew_self h.1.2.1 _) (State.hdrOf_setCrew_of_team h.1.2.1 rfl) rfl,
      fun k hk j hj => ?_⟩
    rw [← Crew.setTile_eq, Crew.tile_setWord c (by omega) _ hk, BitVec.toNat_setWidth, Nat.mod_mod]
    refine if_congr ?_ rfl rfl
    omega
  case reads =>
    obtain ⟨lane, crew, spcap, part, cycle, mode, rnd, regionPc, tcause, tpc, taddr, tinfo, tvec, target, count, finj⟩ := State.srRead_own hc m
    exact ⟨lane, crew, spcap, part, cycle, mode, rnd, regionPc, tcause, tpc, taddr, tinfo, tvec, target, count, finj,
      fun k _ i hi => State.srRead_tile hc m k hi, fun tm ln ht hl => State.srRead_place ht hl hc m⟩
  all_goals
    intro s x upd v
    simp [State.srWrite]
end

namespace Sys2Proof.Machine
open Encoding

/-! A load issues (11 R211): its destination is marked empty and its access is the lane's next. -/

theorem Crew.modThread_modThread (c : Crew) (l : Nat) (f g : Thread → Thread) :
    (c.modThread l f).modThread l g = c.modThread l fun t => g (f t) :=
  ((c.modThread_alike l f).trans (Crew.modThread_alike ..)).ext (c.modThread_alike ..) fun k _ => by
    simp only [Crew.thread_modThread]
    by_cases hk : k = l ∧ l < 32 <;> simp [hk]

section
variable {s : State} {x : Lane} {c : Crew}

theorem State.onThread_onThread (h : s.crew x.core x.slot = some c) (f g : Thread → Thread) :
    (s.onThread x f).onThread x g = s.onThread x fun t => g (f t) := by
  unfold State.onThread
  rw [State.modThread_of_crew h, State.modThread_of_crew (State.crew_setCrew_self h _), State.modThread_of_crew h, State.setCrew_setCrew,
    Crew.modThread_modThread]

theorem State.crew_onThread (h : s.crew x.core x.slot = some c) (f : Thread → Thread) :
    (s.onThread x f).crew x.core x.slot = some (c.modThread x.lane f) := by
  rw [State.onThread, State.modThread_of_crew h, State.crew_setCrew_self h]

theorem State.hdrOf_onThread (h : s.crew x.core x.slot = some c) (f : Thread → Thread) :
    (s.onThread x f).hdrOf x.core x.slot = s.hdrOf x.core x.slot := by
  rw [State.onThread, State.modThread_of_crew h, State.hdrOf_setCrew h (c.modThread_alike ..)]

/-- Outside paired-lane mode there is no shadow, and a destination is marked empty in the lane alone. -/
theorem State.shadowOf_unpaired (hp : (s.hdrOf x.core x.slot).pair = false) : s.shadowOf x = none := by
  unfold State.shadowOf
  rw [hp]
  rfl

theorem State.empty_unpaired (h : s.crew x.core x.slot = some c) (hp : (s.hdrOf x.core x.slot).pair = false) (d : Nat) (wide : Bool) :
    s.empty x d wide = s.onThread x fun t => t.markEmpty d wide := by
  have hpair := (congrArg Header.pair (State.hdrOf_onThread h fun t => t.markEmpty d wide)).trans hp
  exact if_neg (by rw [← State.onThread, hpair]; decide)

/-- An entry of the core for the access or the value that a destination waits for. -/
def State.entered (s : State) (x : Lane) (f : Thread → Thread) (p : Pend) : State :=
  (({ s with nextId := s.nextId + 1 } : State).onThread x f).modCore x.core fun k => { k with pend := k.pend ++ [p] }

theorem State.crew_entered (h : s.crew x.core x.slot = some c) (f : Thread → Thread) (p : Pend) :
    (s.entered x f p).crew x.core x.slot = some (c.modThread x.lane f) := by
  unfold State.entered
  rw [State.crew_modCore]
  · exact State.crew_onThread (s := { s with nextId := s.nextId + 1 }) h f
  · exact fun _ => rfl

theorem State.hdrOf_entered (h : s.crew x.core x.slot = some c) (f : Thread → Thread) (p : Pend) :
    (s.entered x f p).hdrOf x.core x.slot = s.hdrOf x.core x.slot := by
  unfold State.entered
  rw [State.hdrOf_modCore]
  · exact State.hdrOf_onThread (s := { s with nextId := s.nextId + 1 }) h f
  · exact fun _ => rfl
  · exact fun _ _ => rfl

theorem State.accessed_unpaired (h : s.crew x.core x.slot = some c) (hp : (s.hdrOf x.core x.slot).pair = false) (hl : x.lane < 32) (d : Nat)
    (wide : Bool) (va : DWord) (kind : PendKind) :
    s.accessed x 0 (some d) wide va none kind = s.entered x (fun t => ({ t with seq := t.seq + 1 } : Thread).markEmpty d wide)
      { id := s.nextId, slot := x.slot, lane := x.lane, seq := (c.thread x.lane).seq + 1, fence := 0, dst := some d, wide, va, twin := none,
        permit := s.permitted x.core x.slot, step := s.fresh, kind } := by
  let u : State := { s with nextId := s.nextId + 1 }
  have hu : u.crew x.core x.slot = some c := h
  have hpair : ((u.onThread x fun t => { t with seq := t.seq + 1 }).hdrOf x.core x.slot).pair = false := by
    rw [State.hdrOf_onThread hu]
    exact hp
  have hseq : ((u.onThread x fun t => { t with seq := t.seq + 1 }).laneThread x).seq = (c.thread x.lane).seq + 1 :=
    congrArg Thread.seq (State.thread_onThread hu hl _)
  have hfresh : (u.onThread x fun t => { t with seq := t.seq + 1 }).fresh = s.fresh := State.modThread_fresh ..
  unfold State.accessed State.newId State.pendAdd State.entered
  dsimp only
  rw [← State.onThread, State.empty_unpaired (State.crew_onThread hu _) hpair, State.onThread_onThread hu, hseq, hfresh]

theorem State.producer_unpaired (h : s.crew x.core x.slot = some c) (hp : (s.hdrOf x.core x.slot).pair = false) (d : Nat) (wide : Bool)
    (kind : PendKind) (va : DWord) :
    s.producer x (some d) wide kind va none = s.entered x (fun t => t.markEmpty d wide)
      { id := s.nextId, slot := x.slot, lane := x.lane, seq := (c.thread x.lane).seq, fence := 0, dst := some d, wide, va, twinVal := none,
        step := s.fresh, kind } := by
  let u : State := { s with nextId := s.nextId + 1 }
  have hu : u.crew x.core x.slot = some c := h
  have hseq : u.laneThread x = c.thread x.lane := State.laneThread_of_crew hu
  unfold State.producer State.newId State.pendAdd State.entered
  dsimp only
  rw [hseq, State.empty_unpaired hu hp]

end

/-! The body of LD outside paired-lane mode. -/

section
variable {s : State} {x : Lane} {c : Crew} {o : Enc}

theorem baseOrLit_value (o : Enc) (t : Thread) : (baseOrLit o).value t = if o.hasLit then o.litVal true else t.value o.a.toNat true := by
  unfold baseOrLit Enc.litA
  split <;> rfl

/-- The address of LD. -/
def ldAddr (o : Enc) (t : Thread) : DWord :=
  (if o.hasLit then o.litVal true else t.value o.a.toNat true) + (if o.isExt then o.w2.signExtend 64 else 0)

theorem ea_baseOrLit (o : Enc) (t : Thread) : ea o (baseOrLit o) t = ldAddr o t := by
  unfold ea ldAddr
  rw [baseOrLit_value]

/-- What LD asks of the steering. -/
abbrev ldOp (o : Enc) : AccessOp := { align := szBytes (o.modBits 2 0), write := false, isLoad := true }

theorem ldForm_body (hp : (s.hdrOf x.core x.slot).pair = false) : (ldForm o).body s x = loadBody o s x := by
  unfold ldForm LaneForm.paired
  simp only [State.shadowOf_unpaired hp]

/-- A load of memory. -/
theorem loadBody_mem (hc : s.crew x.core x.slot = some c) (hp : (s.hdrOf x.core x.slot).pair = false)
    (ha : (s.core x.core).acquiring x.slot x.lane = false) {loc : Loc}
    (hsteer : s.steerAp x (ldAddr o (c.thread x.lane)).toNat (ldOp o) = .mem loc) :
    loadBody o s x = loadMemory o s x (szBytes (o.modBits 2 0)) (ldAddr o (c.thread x.lane)) loc none none none
      (leaveAccess (s.watched x (ldAddr o (c.thread x.lane)).toNat loc (szBytes (o.modBits 2 0)) true false)) := by
  unfold loadBody
  simp only [State.laneThread_of_crew hc, ea_baseOrLit, ha, hsteer, State.shadowOf_unpaired hp, steerOut]
  rfl

/-- A load of the TAS window. -/
theorem loadBody_tas (hc : s.crew x.core x.slot = some c) (hp : (s.hdrOf x.core x.slot).pair = false)
    (ha : (s.core x.core).acquiring x.slot x.lane = false) {off : Nat}
    (hsteer : s.steerAp x (ldAddr o (c.thread x.lane)).toNat (ldOp o) = .tas off)
    (hgood : (s.tasWindow x.core off (szBytes (o.modBits 2 0))).2 = false) :
    loadBody o s x =
      let u := s.producer x (some o.d.toNat) (o.modBits 2 0 == 1)
        (.value (loadValue (s.tasWindow x.core off (szBytes (o.modBits 2 0))).1 (o.modBits 2 0 == 3 || o.modBits 2 0 == 5)) (o.fmt .raw)) 0 none
      (if o.modBit 3 then u.acquire x.core else u, .next) := by
  unfold loadBody
  simp only [State.laneThread_of_crew hc, ea_baseOrLit, ha, hsteer, State.shadowOf_unpaired hp, steerOut, hgood]
  simp

end

/-! LD by one lane (11 R211). -/

theorem Crew.modThread_marks (c : Crew) (l : Nat) {f : Thread → Thread} (hf : ∀ t, (f t).haltMark = t.haltMark ∧ (f t).stepMark = t.stepMark) :
    ((c.modThread l f).thread l).haltMark = (c.thread l).haltMark ∧ ((c.modThread l f).thread l).stepMark = (c.thread l).stepMark := by
  rw [Crew.thread_modThread]
  split
  · exact hf _
  · exact ⟨rfl, rfl⟩

theorem State.crew_acquire (s : State) (b b' sl : Nat) : (s.acquire b).crew b' sl = s.crew b' sl := by
  unfold State.acquire
  rw [State.crew_modCore]
  exact fun _ => rfl

theorem State.hdrOf_acquire (s : State) (b b' sl : Nat) : (s.acquire b).hdrOf b' sl = s.hdrOf b' sl := by
  unfold State.acquire
  rw [State.hdrOf_modCore]
  · exact fun _ => rfl
  · exact fun _ _ => rfl

section
variable {s : State} {cur : Cur} {c : Crew} {l : Nat} {o : Enc}

/-- A lane that has entered an access and goes on, having invalidated its cache or not. -/
theorem State.laneInstr_enters {form : LaneForm} (hat : AtHand s cur c) (hl : cur.lanes = [l]) (hp : (s.hdrOf cur.core cur.slot).pair = false)
    {f : Thread → Thread} (hf : ∀ t, (f t).haltMark = t.haltMark ∧ (f t).stepMark = t.stepMark) {p : Pend} (acq : Bool)
    (hlane : form.lane o s ⟨cur.core, cur.slot, l⟩ =
      (if acq then (s.entered ⟨cur.core, cur.slot, l⟩ f p).acquire cur.core else s.entered ⟨cur.core, cur.slot, l⟩ f p, .next)) :
    s.laneInstr o form = (if acq then (s.entered ⟨cur.core, cur.slot, l⟩ f p).acquire cur.core else
      s.entered ⟨cur.core, cur.slot, l⟩ f p).onward ⟨cur.core, cur.slot, l⟩ (cur.pc + BitVec.ofNat 64 o.bytes) := by
  have hcrew : (s.entered ⟨cur.core, cur.slot, l⟩ f p).crew cur.core cur.slot = some (c.modThread l f) :=
    State.crew_entered (x := ⟨cur.core, cur.slot, l⟩) hat.2.1 f p
  have hhdr : (s.entered ⟨cur.core, cur.slot, l⟩ f p).hdrOf cur.core cur.slot = s.hdrOf cur.core cur.slot :=
    State.hdrOf_entered (x := ⟨cur.core, cur.slot, l⟩) hat.2.1 f p
  refine State.laneInstr_goesOn hat hl hlane (c' := c.modThread l f) ?_ ?_ (c.modThread_marks l hf)
  · cases acq
    · exact hcrew
    · exact (State.crew_acquire ..).trans hcrew
  · cases acq
    · exact (congrArg Header.pair hhdr).trans hp
    · exact (congrArg Header.pair ((State.hdrOf_acquire ..).trans hhdr)).trans hp

/-- The premises of a load that comes to its body. -/
abbrev LoadsAlone (s : State) (cur : Cur) (c : Crew) (l : Nat) (o : Enc) : Prop :=
  Alone s cur c l o true [o.litA true (.only .addr)] (some (o.d.toNat, o.modBits 2 0 == 1)) [] ∧
  (s.core cur.core).acquiring cur.slot l = false

theorem LoadsAlone.lane (h : LoadsAlone s cur c l o) : (ldForm o).lane o s ⟨cur.core, cur.slot, l⟩ = loadBody o s ⟨cur.core, cur.slot, l⟩ :=
  (Alone.lane_body (f := ldForm o) h.1 nofun).trans (ldForm_body h.1.2.2.1)

theorem exec_ld (o : Enc) (s : State) : exec (.ld o) s = .next (s.laneInstr o (ldForm o)) := rfl

/-- The entry of a load. -/
def loadEntry (s : State) (x : Lane) (o : Enc) (t : Thread) (loc : Loc) : Pend :=
  { id := s.nextId, slot := x.slot, lane := x.lane, seq := t.seq + 1, fence := 0, dst := some o.d.toNat, wide := o.modBits 2 0 == 1,
    va := ldAddr o t, twin := none, permit := s.permitted x.core x.slot, step := s.fresh,
    kind := .load loc (szBytes (o.modBits 2 0)) (o.modBits 2 0 == 3 || o.modBits 2 0 == 5) (o.fmt .raw) (o.modBit 3 || o.cp == 1) (o.cp == 2)
      (o.modBit 3) }

theorem exec_ld_issues (h : LoadsAlone s cur c l o) {loc : Loc}
    (hsteer : s.steerAp ⟨cur.core, cur.slot, l⟩ (ldAddr o (c.thread l)).toNat (ldOp o) = .mem loc) (hthere : s.absent loc = false)
    (hw : s.watched ⟨cur.core, cur.slot, l⟩ (ldAddr o (c.thread l)).toNat loc (szBytes (o.modBits 2 0)) true false = none) :
    exec (.ld o) s = .next ((s.entered ⟨cur.core, cur.slot, l⟩
      (fun t => ({ t with seq := t.seq + 1 } : Thread).markEmpty o.d.toNat (o.modBits 2 0 == 1))
      (loadEntry s ⟨cur.core, cur.slot, l⟩ o (c.thread l) loc)).onward ⟨cur.core, cur.slot, l⟩ (cur.pc + BitVec.ofNat 64 o.bytes)) := by
  have ⟨⟨hat, hl, hp, _⟩, hacq⟩ := h
  have hlt := (hat.2.2 l (by simp [hl])).1
  have hlane : (ldForm o).lane o s ⟨cur.core, cur.slot, l⟩ = (s.entered ⟨cur.core, cur.slot, l⟩
      (fun t => ({ t with seq := t.seq + 1 } : Thread).markEmpty o.d.toNat (o.modBits 2 0 == 1))
      (loadEntry s ⟨cur.core, cur.slot, l⟩ o (c.thread l) loc), .next) := by
    rw [h.lane, loadBody_mem (x := ⟨cur.core, cur.slot, l⟩) hat.2.1 hp hacq hsteer, hw, loadMemory]
    simp only [Option.toList, List.find?_cons, List.find?_nil, hthere]
    rw [State.accessed_unpaired (x := ⟨cur.core, cur.slot, l⟩) hat.2.1 hp hlt]
    rfl
  rw [exec_ld, State.laneInstr_enters hat hl hp (fun t => by simp) false hlane]
  rfl

theorem exec_ld_parks (h : LoadsAlone s cur c l o) {b k off : Nat}
    (hsteer : s.steerAp ⟨cur.core, cur.slot, l⟩ (ldAddr o (c.thread l)).toNat (ldOp o) = .mem (.spad b k off))
    (hn : s.lineCount b k (off / 128) ≠ 0) :
    exec (.ld o) s = .next ((s.onThread ⟨cur.core, cur.slot, l⟩ fun t =>
      { t.markEmpty o.d.toNat (o.modBits 2 0 == 1) with
        st := .parked (.line b k (off / 128) (some o.d.toNat) (o.modBits 2 0 == 1)), age := 0, miss := none }).settle cur.core cur.slot) := by
  have ⟨⟨hat, hl, hp, _⟩, hacq⟩ := h
  have habsent : s.absent (.spad b k off) = true := by simpa [State.absent] using hn
  have hempty := State.crew_onThread (x := ⟨cur.core, cur.slot, l⟩) hat.2.1 fun t => t.markEmpty o.d.toNat (o.modBits 2 0 == 1)
  have hpair := (congrArg Header.pair (State.hdrOf_onThread (x := ⟨cur.core, cur.slot, l⟩) hat.2.1
    fun t => t.markEmpty o.d.toNat (o.modBits 2 0 == 1))).trans hp
  have hlane : (ldForm o).lane o s ⟨cur.core, cur.slot, l⟩ =
      (s.onThread ⟨cur.core, cur.slot, l⟩ fun t => t.markEmpty o.d.toNat (o.modBits 2 0 == 1),
        .hold (.parked (.line b k (off / 128) (some o.d.toNat) (o.modBits 2 0 == 1)))) := by
    rw [h.lane, loadBody_mem (x := ⟨cur.core, cur.slot, l⟩) hat.2.1 hp hacq hsteer, loadMemory]
    simp only [Option.toList, List.find?_cons, habsent]
    rw [State.empty_unpaired (x := ⟨cur.core, cur.slot, l⟩) hat.2.1 hp]
  have hleaves := State.laneInstr_leaves hat hl hlane (fun _ _ h => LaneOut.noConfusion h)
    (State.leave_hold_single (x := ⟨cur.core, cur.slot, l⟩) hempty hpair _ _) hempty (c.modThread_marks l fun t => by simp)
  rw [State.onThread_onThread (x := ⟨cur.core, cur.slot, l⟩) hat.2.1] at hleaves
  rw [exec_ld, hleaves]

/-- The entry of a load of the TAS window, holding what it has taken. -/
def windowEntry (s : State) (x : Lane) (o : Enc) (t : Thread) (off : Nat) : Pend :=
  { id := s.nextId, slot := x.slot, lane := x.lane, seq := t.seq, fence := 0, dst := some o.d.toNat, wide := o.modBits 2 0 == 1, va := 0,
    twinVal := none, step := s.fresh,
    kind := .value (loadValue (s.tasWindow x.core off (szBytes (o.modBits 2 0))).1 (o.modBits 2 0 == 3 || o.modBits 2 0 == 5)) (o.fmt .raw) }

theorem exec_ld_window (h : LoadsAlone s cur c l o) {off : Nat}
    (hsteer : s.steerAp ⟨cur.core, cur.slot, l⟩ (ldAddr o (c.thread l)).toNat (ldOp o) = .tas off)
    (hgood : (s.tasWindow cur.core off (szBytes (o.modBits 2 0))).2 = false) :
    let u := s.entered ⟨cur.core, cur.slot, l⟩ (fun t => t.markEmpty o.d.toNat (o.modBits 2 0 == 1))
      (windowEntry s ⟨cur.core, cur.slot, l⟩ o (c.thread l) off)
    exec (.ld o) s = .next ((if o.modBit 3 then u.acquire cur.core else u).onward ⟨cur.core, cur.slot, l⟩ (cur.pc + BitVec.ofNat 64 o.bytes)) := by
  have ⟨⟨hat, hl, hp, _⟩, hacq⟩ := h
  intro u
  have hlane : (ldForm o).lane o s ⟨cur.core, cur.slot, l⟩ = (if o.modBit 3 then u.acquire cur.core else u, .next) := by
    rw [h.lane, loadBody_tas (x := ⟨cur.core, cur.slot, l⟩) hat.2.1 hp hacq hsteer hgood,
      State.producer_unpaired (x := ⟨cur.core, cur.slot, l⟩) hat.2.1 hp]
    rfl
  rw [exec_ld, State.laneInstr_enters hat hl hp (fun t => by simp) (o.modBit 3) hlane]

end
end Sys2Proof.Machine

namespace Sys2Proof.Machine

/-! What a destination holds once it is written (05 R88, R91). -/

theorem low_word (v : DWord) : (v.setWidth 32).setWidth 64 = v &&& 0xFFFFFFFF := by
  apply BitVec.eq_of_toNat_eq
  have h : (0xFFFFFFFF : DWord).toNat = 2 ^ 32 - 1 := rfl
  have hv := v.isLt
  rw [BitVec.toNat_and, h, Nat.and_two_pow_sub_one_eq_mod, BitVec.toNat_setWidth, BitVec.toNat_setWidth]
  omega

theorem two_words (v : DWord) : (v >>> 32).setWidth 32 ++ v.setWidth 32 = v := by
  apply BitVec.eq_of_toNat_eq
  have hv := v.isLt
  rw [BitVec.toNat_append, BitVec.toNat_setWidth, BitVec.toNat_setWidth, BitVec.toNat_ushiftRight,
    ← Nat.shiftLeft_add_eq_or_of_lt (Nat.mod_lt _ (by decide)), Nat.shiftRight_eq_div_pow, Nat.shiftLeft_eq]
  omega

theorem Thread.reg_write (t : Thread) (d : Nat) (wide : Bool) (v : DWord) (g : Tag) (r : Nat) :
    (t.write d wide v g).reg r =
      if wide = true ∧ r = d + 1 ∧ r < 64 then { val := (v >>> 32).setWidth 32, tag := g, full := true }
      else if r = d ∧ r < 64 then { val := v.setWidth 32, tag := g, full := true } else t.reg r := by
  unfold Thread.write
  cases wide
  · by_cases hr : r = d <;> simp [hr]
  · by_cases hr : r = d + 1
    · by_cases h : d + 1 < 64 <;> simp [hr, h]
    · by_cases hd : r = d <;> simp [hr, hd]

/-- Two threads have the same registers and predicates. -/
def Thread.SameRegs (t u : Thread) : Prop := u.regs = t.regs ∧ u.preds = t.preds

theorem Thread.SameRegs.trans {t u v : Thread} (h : t.SameRegs u) (g : u.SameRegs v) : t.SameRegs v := ⟨g.1.trans h.1, g.2.trans h.2⟩

/-- A thread that has the registers and predicates of one whose destination is written. -/
theorem Thread.SameRegs.written {t u : Thread} {d : Nat} {wide : Bool} {v : DWord} {g : Tag} (h : (t.write d wide v g).SameRegs u)
    (hd : d + wide.toNat < 64) :
    u.value d wide = (v &&& if wide then BitVec.allOnes 64 else 0xFFFFFFFF) ∧ u.tag d wide = g ∧ (u.reg d).full = true ∧ OtherRegs t u d wide := by
  obtain ⟨hregs, hpreds⟩ := h
  have hreg (r : Nat) : u.reg r = (t.write d wide v g).reg r := by
    unfold Thread.reg
    rw [hregs]
  have hlow : (t.write d wide v g).reg d = { val := v.setWidth 32, tag := g, full := true } := by
    rw [Thread.reg_write, if_neg (by omega), if_pos ⟨rfl, by omega⟩]
  have hhigh (hw : wide = true) : (t.write d wide v g).reg (d + 1) = { val := (v >>> 32).setWidth 32, tag := g, full := true } := by
    subst hw
    exact (Thread.reg_write ..).trans (if_pos ⟨rfl, rfl, hd⟩)
  refine ⟨?_, ?_, by rw [hreg, hlow], hpreds.trans (Thread.write_preds ..), fun r _ hrd hrw => ?_⟩
  · unfold Thread.value
    rw [hreg, hreg, hlow]
    cases wide
    · exact low_word v
    · rw [hhigh rfl, if_pos rfl, if_pos rfl, BitVec.and_allOnes]
      exact two_words v
  · unfold Thread.tag
    rw [hreg, hreg, hlow]
    cases wide
    · rfl
    · rw [hhigh rfl]
      simp
  · rw [hreg, Thread.reg_write, if_neg fun h => hrw ⟨h.1, h.2.1⟩, if_neg fun h => hrd h.1]

/-! A long-latency value arrives (05 R91): the lane's destination is written and no byte of memory moves. -/

/-- No byte of memory and no access under way moves. -/
structure State.KeepsBytes (s u : State) : Prop where
  mem : u.mem = s.mem
  hostMem : u.hostMem = s.hostMem
  banks : ∀ b k, (u.bank b k).mem = (s.bank b k).mem
  pend : ∀ b, (u.core b).pend = (s.core b).pend

theorem State.KeepsBytes.refl (s : State) : s.KeepsBytes s := ⟨rfl, rfl, fun _ _ => rfl, fun _ => rfl⟩
theorem State.KeepsBytes.trans {s t u : State} (h : s.KeepsBytes t) (g : t.KeepsBytes u) : s.KeepsBytes u where
  mem := g.mem.trans h.mem
  hostMem := g.hostMem.trans h.hostMem
  banks b k := (g.banks b k).trans (h.banks b k)
  pend b := (g.pend b).trans (h.pend b)

/-- An update of a core that leaves what its banks hold and its accesses. -/
theorem State.modCore_keepsBytes (s : State) (b : Nat) {f : Core → Core} (hb : ∀ c k, ((f c).bank k).mem = (c.bank k).mem)
    (hp : ∀ c, (f c).pend = c.pend) : s.KeepsBytes (s.modCore b f) where
  mem := s.modCore_mem b f
  hostMem := s.modCore_hostMem b f
  banks b' k := s.core_modCore_field (fun c => (c.bank k).mem) (fun c => hb c k) b b'
  pend b' := s.core_modCore_field Core.pend hp b b'

theorem State.modCrew_keepsBytes (s : State) (b sl : Nat) (f : Crew → Crew) : s.KeepsBytes (s.modCrew b sl f) := by
  unfold State.modCrew
  split
  · exact .refl s
  · refine s.modCore_keepsBytes b (fun c k => ?_) fun c => c.setCrew_pend sl _
    unfold Core.bank
    rw [Core.setCrew_banks]

theorem State.modThread_keepsBytes (s : State) (b sl l : Nat) (f : Thread → Thread) : s.KeepsBytes (s.modThread b sl l f) := s.modCrew_keepsBytes ..

theorem State.wakeUnits_keepsBytes (s : State) (b : Nat) : s.KeepsBytes (s.wakeUnits b) :=
  s.modCore_keepsBytes b (fun _ _ => rfl) fun _ => rfl

theorem State.put_keepsBytes (s : State) (x : Lane) (d : Nat) (wide : Bool) (v : DWord) (g : Tag) : s.KeepsBytes (s.put x d wide v g) := by
  unfold State.put
  dsimp only
  split
  · exact (s.modThread_keepsBytes ..).trans (State.modThread_keepsBytes ..)
  · exact s.modThread_keepsBytes ..

theorem State.freed_keepsBytes (s : State) (b sl l : Nat) : s.KeepsBytes (s.freed b sl l) := by
  unfold State.freed
  dsimp only
  refine State.KeepsBytes.trans ?_ (State.wakeUnits_keepsBytes ..)
  split
  · exact (s.modThread_keepsBytes ..).trans (State.modThread_keepsBytes ..)
  · exact s.modThread_keepsBytes ..

theorem State.openRegion_keepsBytes (s : State) (x : Lane) : s.KeepsBytes (s.openRegion x) := by
  unfold State.openRegion
  split
  · exact .refl s
  · split
    · exact .refl s
    · exact s.modThread_keepsBytes ..

theorem State.fill_keepsBytes (s : State) (x : Lane) (d : Nat) (wide : Bool) (v : DWord) (g : Tag) : s.KeepsBytes (s.fill x d wide v g) :=
  ((s.put_keepsBytes ..).trans (State.freed_keepsBytes ..)).trans (State.openRegion_keepsBytes ..)

/-- The lane's crew is there, and the lane has the registers and predicates of a thread. -/
def State.LaneHas (s : State) (x : Lane) (t : Thread) : Prop := ∃ c, s.crew x.core x.slot = some c ∧ t.SameRegs (c.thread x.lane)

section
variable {s : State} {x : Lane} {t : Thread}

theorem State.LaneHas.modThread (h : s.LaneHas x t) (l : Nat) {f : Thread → Thread} {t' : Thread}
    (hf : l = x.lane → x.lane < 32 → ∀ u, t.SameRegs u → t'.SameRegs (f u)) (hother : l ≠ x.lane ∨ ¬ x.lane < 32 → t' = t) :
    (s.modThread x.core x.slot l f).LaneHas x t' := by
  obtain ⟨c, hc, ht⟩ := h
  refine ⟨c.modThread l f, by rw [State.modThread_of_crew hc, State.crew_setCrew_self hc], ?_⟩
  rw [Crew.thread_modThread]
  split
  case isTrue e => exact hf e.1.symm (e.1 ▸ e.2) _ (e.1 ▸ ht)
  case isFalse e =>
    rw [hother]
    · exact ht
    · by_contra hboth
      obtain ⟨hl, hlt⟩ := not_or.mp hboth
      exact e ⟨(not_not.mp hl).symm, by rw [not_not.mp hl]; exact not_not.mp hlt⟩

/-- A change of a thread that leaves registers and predicates. -/
theorem State.LaneHas.modThread_same (h : s.LaneHas x t) (l : Nat) {f : Thread → Thread} (hf : ∀ u : Thread, u.SameRegs (f u)) :
    (s.modThread x.core x.slot l f).LaneHas x t :=
  h.modThread l (fun _ _ u hu => hu.trans (hf u)) fun _ => rfl

end

section
variable {s : State} {x : Lane} {t : Thread}

theorem Thread.SameRegs.write {t u : Thread} (h : t.SameRegs u) (d : Nat) (wide : Bool) (v : DWord) (g : Tag) :
    (t.write d wide v g).SameRegs (u.write d wide v g) := by
  obtain ⟨hregs, hpreds⟩ := h
  have hset {a b : Thread} (hab : b.regs = a.regs) (r : Nat) (y : Reg) : (b.setReg r y).regs = (a.setReg r y).regs := by
    unfold Thread.setReg
    split
    · simp only [hab]
    · exact hab
  refine ⟨?_, by rw [Thread.write_preds, Thread.write_preds, hpreds]⟩
  unfold Thread.write
  dsimp only
  split
  · exact hset (hset hregs ..) ..
  · exact hset hregs ..

theorem State.LaneHas.put (h : s.LaneHas x t) (hx : x.lane < 32) (d : Nat) (wide : Bool) (v : DWord) (g : Tag) :
    (s.put x d wide v g).LaneHas x (t.write d wide v g) := by
  have hlane := h.modThread x.lane (f := fun u => u.write d wide v g) (t' := t.write d wide v g) (fun _ _ u hu => hu.write d wide v g)
    fun e => absurd e (by simp [hx])
  unfold State.put
  dsimp only
  split
  · exact hlane.modThread (x.lane + 1) (fun e => absurd e (by omega)) fun _ => rfl
  · exact hlane

theorem Thread.wakeRegs_sameRegs (u : Thread) : u.SameRegs u.wakeRegs := by
  unfold Thread.wakeRegs
  split
  · split <;> exact ⟨rfl, rfl⟩
  · exact ⟨rfl, rfl⟩

theorem Thread.wakeUnit_sameRegs (u : Thread) : u.SameRegs u.wakeUnit := by
  unfold Thread.wakeUnit
  split <;> exact ⟨rfl, rfl⟩

theorem State.LaneHas.wakeUnits (h : s.LaneHas x t) (hx : x.lane < 32) : (s.wakeUnits x.core).LaneHas x t := by
  obtain ⟨c, hc, ht⟩ := h
  refine ⟨{ c with threads := c.threads.map Thread.wakeUnit }, ?_, ?_⟩
  · rw [State.crew, State.wakeUnits, State.core_modCore, if_pos ⟨rfl, (State.crew_lt hc).1⟩, Core.crew_wakeUnits, ← State.crew, hc]
    rfl
  · rw [Crew.thread_map c Thread.wakeUnit hx]
    exact ht.trans (Thread.wakeUnit_sameRegs _)

theorem State.LaneHas.freed (h : s.LaneHas x t) (hx : x.lane < 32) : (s.freed x.core x.slot x.lane).LaneHas x t := by
  unfold State.freed
  dsimp only
  refine State.LaneHas.wakeUnits ?_ hx
  split
  · exact (h.modThread_same x.lane Thread.wakeRegs_sameRegs).modThread_same (x.lane + 1) fun _ => ⟨rfl, rfl⟩
  · exact h.modThread_same x.lane Thread.wakeRegs_sameRegs

theorem State.LaneHas.openRegion (h : s.LaneHas x t) : (s.openRegion x).LaneHas x t := by
  unfold State.openRegion
  split
  · exact h
  · split
    · exact h
    · exact h.modThread_same x.lane fun _ => ⟨rfl, rfl⟩

theorem State.LaneHas.fill (h : s.LaneHas x t) (hx : x.lane < 32) (d : Nat) (wide : Bool) (v : DWord) (g : Tag) :
    (s.fill x d wide v g).LaneHas x (t.write d wide v g) :=
  ((h.put hx d wide v g).freed hx).openRegion

end

/-! LONG_LATENCY_FILL (05 R91). -/

/-- Nothing in memory differs where no byte moves. -/
theorem State.KeepsBytes.memorySame {s u : State} (h : s.KeepsBytes u) : MemorySame s u :=
  ⟨fun b k a _ => by rw [State.spadByte, h.banks, State.spadByte], fun a => by rw [State.globByte, h.mem, State.globByte], h.hostMem⟩

theorem MemorySame.trans {s t u : State} (h : MemorySame s t) (g : MemorySame t u) : MemorySame s u := by
  obtain ⟨hspad, hglob, hhost⟩ := h
  obtain ⟨hspad', hglob', hhost'⟩ := g
  exact ⟨fun b k a ha => (hspad' b k a ha).trans (hspad b k a ha), fun a => (hglob' a).trans (hglob a), hhost'.trans hhost⟩

/-- The access `p` of a core has filled its destination, `v` being what it gives, and nothing else of its lane's registers has moved. -/
def State.Filled (s u : State) (core : Nat) (p : Pend) (d : Nat) (v : DWord) (tag : Tag) (c : Crew) : Prop :=
  MemorySame s u ∧ (u.core core).pend = (s.core core).pend.filter (fun q => q.id != p.id) ∧
  let t := u.thread core p.slot p.lane
  t.value d p.wide = (v &&& if p.wide then BitVec.allOnes 64 else 0xFFFFFFFF) ∧ t.tag d p.wide = tag ∧ (t.reg d).full = true ∧
  OtherRegs (c.thread p.lane) t d p.wide

/-- A state whose accesses are those left, filled. -/
theorem State.fill_filled {s u : State} {core : Nat} {p : Pend} {d : Nat} {c : Crew} (hmem : MemorySame s u)
    (hpend : (u.core core).pend = (s.core core).pend.filter fun q => q.id != p.id) (hc : u.crew core p.slot = some c) (hlane : p.lane < 32)
    (hd : d + p.wide.toNat < 64) (v : DWord) (tag : Tag) : s.Filled (u.fill ⟨core, p.slot, p.lane⟩ d p.wide v tag) core p d v tag c := by
  have hkeep := u.fill_keepsBytes ⟨core, p.slot, p.lane⟩ d p.wide v tag
  have hhas : u.LaneHas ⟨core, p.slot, p.lane⟩ (c.thread p.lane) := ⟨c, hc, rfl, rfl⟩
  obtain ⟨c', hc', hregs⟩ := hhas.fill hlane d p.wide v tag
  have hthread : (u.fill ⟨core, p.slot, p.lane⟩ d p.wide v tag).thread core p.slot p.lane = c'.thread p.lane :=
    State.laneThread_of_crew (x := ⟨core, p.slot, p.lane⟩) hc'
  refine ⟨hmem.trans hkeep.memorySame,
    (hkeep.pend core).trans hpend, ?_⟩
  rw [hthread]
  exact hregs.written hd

theorem State.dropPend_pend (s : State) {core : Nat} (id : Nat) {p : Pend} (h : (s.core core).pend.find? (fun q => q.id == id) = some p) :
    ((s.dropPend core p.id).core core).pend = (s.core core).pend.filter fun q => q.id != p.id := by
  have hcore : core < 160 := by
    by_contra hge
    rw [State.core_ge s hge] at h
    cases h
  rw [State.dropPend, State.core_modCore, if_pos ⟨rfl, hcore⟩]

theorem State.dropPend_crew (s : State) (core id b sl : Nat) : (s.dropPend core id).crew b sl = s.crew b sl := by
  unfold State.dropPend
  rw [State.crew_modCore]
  exact fun _ => rfl

theorem State.dropPend_memorySame (s : State) (core id : Nat) : MemorySame s (s.dropPend core id) := by
  unfold State.dropPend
  refine ⟨fun b k a _ => ?_, fun a => ?_, State.modCore_hostMem ..⟩
  · unfold State.spadByte State.bank
    rw [State.core_modCore_field (fun c => c.bank k)]
    exact fun _ => rfl
  · rw [State.globByte, State.modCore_mem, State.globByte]

/-- A value that a lane waits for is given. -/
theorem exec_fill_value {s : State} {core id : Nat} {p : Pend} {d : Nat} {v : DWord} {tag : Tag} {c : Crew}
    (h : (s.core core).pend.find? (fun q => q.id == id) = some p) (hk : p.kind = .value v tag) (hdst : p.dst = some d) (hd : d + p.wide.toNat < 64)
    (htwin : p.twinVal = none) (hlane : p.lane < 32) (hc : s.crew core p.slot = some c) :
    ∃ u, exec (.longLatencyFill core id) s = .next u ∧ s.Filled u core p d v tag c := by
  refine ⟨(s.dropPend core p.id).fill ⟨core, p.slot, p.lane⟩ d p.wide v tag, ?_, State.fill_filled (s.dropPend_memorySame core p.id)
    (s.dropPend_pend id h) ((s.dropPend_crew ..).trans hc) hlane hd v tag⟩
  change execLongLatencyFill core id s = _
  unfold execLongLatencyFill
  simp only [h, hk, htwin, hdst, Option.getD_some]


/-! Lines of L2 come and go (09 R182, R183, R190) where every write in them can be written back: no byte, key or poison of the home moves, and
the caches of the cores lose owned bits alone. -/

/-- A line of a cache but for its owned bits. -/
def CacheLine.disowned (l : CacheLine) : CacheLine := { l with owned := 0 }

/-- Cores that differ in owned bits alone. -/
def Core.SameButOwned (c k : Core) : Prop := k = { c with cache := k.cache } ∧ k.cache.map CacheLine.disowned = c.cache.map CacheLine.disowned

theorem Core.SameButOwned.refl (c : Core) : c.SameButOwned c := ⟨rfl, rfl⟩
theorem Core.SameButOwned.trans {c d e : Core} (h : c.SameButOwned d) (g : d.SameButOwned e) : c.SameButOwned e :=
  ⟨by rw [g.1, h.1], g.2.trans h.2⟩

/-- Everything that a read at the home depends on stays: memory, poison, keys, the keys of the data units, and no line of L2 has taken a
write. The cores differ as `R` says. -/
structure State.HomeStays (R : Core → Core → Prop) (s u : State) : Prop where
  mem : u.mem = s.mem
  hostMem : u.hostMem = s.hostMem
  poison : u.poison = s.poison
  keys : u.keys = s.keys
  keyLog : u.keyLog = s.keyLog
  dies : u.dies = s.dies
  units : ∀ a, lookupNat u.unitKeys a 0 = lookupNat s.unitKeys a 0
  l2 : ∀ o ∈ u.l2, o.back.isSome = true → o ∈ s.l2
  cores : ∀ b, R (s.core b) (u.core b)

section
variable {R : Core → Core → Prop} {s t u : State}

theorem State.HomeStays.trans (hR : ∀ {c d e}, R c d → R d e → R c e) (h : State.HomeStays R s t) (g : State.HomeStays R t u) :
    State.HomeStays R s u where
  mem := g.mem.trans h.mem
  hostMem := g.hostMem.trans h.hostMem
  poison := g.poison.trans h.poison
  keys := g.keys.trans h.keys
  keyLog := g.keyLog.trans h.keyLog
  dies := g.dies.trans h.dies
  units a := (g.units a).trans (h.units a)
  l2 o ho hb := h.l2 o (g.l2 o ho hb) hb
  cores b := hR (h.cores b) (g.cores b)

theorem State.HomeStays.mono {R' : Core → Core → Prop} (hR : ∀ c d, R c d → R' c d) (h : State.HomeStays R s u) : State.HomeStays R' s u :=
  { h with cores := fun b => hR _ _ (h.cores b) }

/-- An update of a core alone. -/
theorem State.modCore_homeStays (s : State) (b : Nat) {f : Core → Core} (hrefl : ∀ c, R c c) (h : R (s.core b) (f (s.core b))) :
    State.HomeStays R s (s.modCore b f) where
  mem := s.modCore_mem b f
  hostMem := s.modCore_hostMem b f
  poison := s.modCore_poison b f
  keys := s.modCore_keys b f
  keyLog := s.modCore_keyLog b f
  dies := s.modCore_dies b f
  units a := by rw [State.modCore_unitKeys]
  l2 o ho _ := by rwa [State.modCore_l2] at ho
  cores b' := by
    rw [State.core_modCore]
    split
    case isTrue e => rw [e.1]; exact h
    case isFalse => exact hrefl _

theorem State.HomeStays.keyLoaded (h : State.HomeStays R s u) (k : Nat) : u.keyLoaded k = s.keyLoaded k := by
  unfold State.keyLoaded
  rw [h.keys]

theorem State.HomeStays.keyOf (h : State.HomeStays R s u) (k : Nat) : u.keyOf k = s.keyOf k := by
  unfold State.keyOf
  rw [h.keys]

theorem State.HomeStays.homeByte (h : State.HomeStays R s u) (k a : Nat) : u.homeByte k a = s.homeByte k a := by
  unfold State.homeByte State.readAs State.keyBits
  rw [h.keyLoaded, h.keyOf, h.units, h.mem, h.keyLog]

theorem State.HomeStays.writesBack (h : State.HomeStays R s u) (hs : WritesBack s) : WritesBack u := by
  intro o ho hb
  obtain ⟨hkey, hunit⟩ := hs o (h.l2 o ho hb) hb
  exact ⟨(h.keyLoaded o.key).trans hkey, by rw [h.units, h.keyOf, hunit]⟩

theorem State.HomeStays.spcap (h : State.HomeStays R s u) (b : Nat) : u.spcap b = s.spcap b := by
  unfold State.spcap State.die
  rw [h.dies]

end

/-- Lines of L2 have moved. -/
abbrev State.L2Moves (s u : State) : Prop := State.HomeStays Core.SameButOwned s u

theorem State.L2Moves.refl (s : State) : s.L2Moves s := ⟨rfl, rfl, rfl, rfl, rfl, rfl, fun _ => rfl, fun _ h _ => h, fun _ => .refl _⟩
theorem State.L2Moves.trans {s t u : State} (h : s.L2Moves t) (g : t.L2Moves u) : s.L2Moves u := State.HomeStays.trans Core.SameButOwned.trans h g

section
variable {s u : State}

theorem lookupNat_putNat (l : List (Nat × Nat)) (k v a : Nat) : lookupNat (putNat l k v 0) a 0 = if a = k then v else lookupNat l a 0 := by
  have hrest : lookupNat (l.filter fun e => e.1 != k) a 0 = if a = k then 0 else lookupNat l a 0 := by
    unfold lookupNat
    rw [List.find?_filter]
    by_cases ha : a = k
    · rw [if_pos ha, List.find?_eq_none.mpr]
      · rfl
      · intro e _
        by_cases he : e.1 = k <;> simp [he, ha, Ne.symm]
    · rw [if_neg ha]
      congr 4
      funext e
      by_cases he : e.1 = a <;> simp [he, ha]
  unfold putNat
  dsimp only
  split
  case isTrue h => rw [hrest, h]
  case isFalse h =>
    by_cases ha : a = k
    · simp [lookupNat, ha]
    · rw [if_neg ha] at hrest
      rw [← hrest]
      simp [lookupNat, Ne.symm ha, ha]

/-- A core whose lines lose owned bits. -/
theorem State.clearOwned_l2Moves (s : State) (b ln : Nat) : s.L2Moves (s.clearOwned b ln) := by
  refine s.modCore_homeStays b Core.SameButOwned.refl ⟨rfl, ?_⟩
  simp only [List.map_map]
  refine List.map_congr_left fun l _ => ?_
  dsimp only [Function.comp]
  split <;> rfl

theorem State.disown_l2Moves (s : State) (ln : Nat) : s.L2Moves (s.disown ln) := by
  have hfold (l : List Nat) : s.L2Moves (l.foldl (fun s d => s.clearOwned d ln) s) :=
    State.foldl_keeps (P := fun u => s.L2Moves u) (fun u d hu => hu.trans (u.clearOwned_l2Moves d ln)) l (.refl s)
  unfold State.disown
  dsimp only
  generalize (s.l2.filterMap _ ++ _) = owners
  obtain ⟨mem, hostMem, poison, keys, keyLog, dies, units, l2, cores⟩ := hfold owners
  exact ⟨mem, hostMem, poison, keys, keyLog, dies, units, l2, cores⟩

/-- A write-back that stands changes nothing that is read. -/
theorem State.writeBack_l2Moves (s : State) {o : L2Line}
    (h : o.back.isSome = true → s.keyLoaded o.key = true ∧ lookupNat s.unitKeys o.line 0 = s.keyOf o.key) : s.L2Moves (s.writeBack o) := by
  unfold State.writeBack
  cases hb : o.back with
  | none => exact .refl s
  | some v =>
    obtain ⟨hkey, hunit⟩ := h (by rw [hb]; rfl)
    dsimp only
    rw [if_pos hkey]
    refine ⟨rfl, rfl, rfl, rfl, rfl, rfl, fun a => ?_, fun _ ho _ => ho, fun _ => .refl _⟩
    rw [lookupNat_putNat]
    split
    case isTrue ha => rw [ha, hunit]
    case isFalse => rfl

theorem State.leaveL2_l2Moves (hs : WritesBack s) (ln : Nat) : s.L2Moves (s.leaveL2 ln) := by
  have hfold : s.L2Moves ((s.l2.filter fun o => o.line == ln).foldl State.writeBack s) := by
    refine List.foldlRecOn (motive := fun u => s.L2Moves u) _ _ (.refl s) fun u hu o ho => hu.trans (u.writeBack_l2Moves fun hb => ?_)
    obtain ⟨hkey, hunit⟩ := hs o (List.mem_filter.mp ho).1 hb
    exact ⟨(hu.keyLoaded o.key).trans hkey, by rw [hu.units, hu.keyOf, hunit]⟩
  unfold State.leaveL2
  dsimp only
  generalize List.foldl State.writeBack s _ = t at hfold
  obtain ⟨mem, hostMem, poison, keys, keyLog, dies, units, l2, cores⟩ := hfold.trans (t.disown_l2Moves ln)
  exact ⟨mem, hostMem, poison, keys, keyLog, dies, units, fun o ho hb => hfold.l2 o (List.mem_filter.mp ho).1 hb, cores⟩

theorem State.l2Fill_l2Moves (hs : WritesBack s) (key ln : Nat) : s.L2Moves (s.l2Fill key ln) := by
  have hnew {t : State} (h : s.L2Moves t) : s.L2Moves { t with l2 := { line := ln, key } :: t.l2 } := by
    obtain ⟨mem, hostMem, poison, keys, keyLog, dies, units, l2, cores⟩ := h
    refine ⟨mem, hostMem, poison, keys, keyLog, dies, units, fun o ho hb => ?_, cores⟩
    rcases List.mem_cons.mp ho with rfl | ho
    · cases hb
    · exact l2 o ho hb
  have hleave := State.leaveL2_l2Moves hs ln
  unfold State.l2Fill
  dsimp only
  split
  · exact .refl s
  · refine hnew ?_
    split
    · exact hleave
    · split
      · exact hleave.trans (State.leaveL2_l2Moves (hleave.writesBack hs) _)
      · exact hleave

/-- A read at the home gives the bytes that stand there under the key (10 R194). -/
theorem State.l2Read_home (hs : WritesBack s) (part : Nat) {pa : Nat} (hkey : s.keyLoaded (paKey pa) = true) (n : Nat) :
    ∃ u, s.L2Moves u ∧ s.l2Read part pa n = (u, (List.range n).map fun i => s.homeByte (paKey pa) (paAddr pa + i),
      (List.range n).any fun i => poisonedAt s.poison (paAddr pa + i)) := by
  have hfold : s.L2Moves ((linesOf (paAddr pa) n).foldl (fun s ln => s.l2Fill (paKey pa) ln) s) :=
    State.foldl_keeps (P := fun u => s.L2Moves u) (fun u ln hu => hu.trans (State.l2Fill_l2Moves (hu.writesBack hs) _ ln)) _ (.refl s)
  unfold State.l2Read
  rw [if_pos hkey]
  generalize List.foldl _ s _ = u at hfold
  refine ⟨u, hfold, ?_⟩
  unfold State.homeRead
  simp only [hfold.keyLoaded, hkey, hfold.homeByte, hfold.poison, Bool.not_true, Bool.false_eq_true, ↓reduceIte]

end

/-! The cache of a core (09 R180, R181): what a line answers, and where insertions leave it. -/

theorem getLsbD_wordMask (a n : Nat) {w : Nat} (hw : w < 32) : (wordMask a n).getLsbD w = true ↔ ∃ i < n, (a + i) % 128 / 4 = w := by
  rw [wordMask, BitVec.getLsbD_ofNat, testBit_maskOf]
  simp [hw]

/-- Every word that `n` bytes at `a` touch is valid. -/
def CacheLine.Covers (l : CacheLine) (a n : Nat) : Prop := ∀ i < n, l.valid.getLsbD ((a + i) % 128 / 4) = true

theorem CacheLine.covers_iff (l : CacheLine) (a n : Nat) : l.valid &&& wordMask a n = wordMask a n ↔ l.Covers a n := by
  have hlt (i : Nat) : (a + i) % 128 / 4 < 32 := by omega
  refine ⟨fun h i hi => ?_, fun h => ?_⟩
  · have hbit := congrArg (fun m => m.getLsbD ((a + i) % 128 / 4)) h
    simpa [(getLsbD_wordMask a n (hlt i)).mpr ⟨i, hi, rfl⟩] using hbit
  · refine BitVec.eq_of_getLsbD_eq fun w hw => ?_
    rw [BitVec.getLsbD_and]
    cases hm : (wordMask a n).getLsbD w
    · exact Bool.and_false _
    · obtain ⟨i, hi, rfl⟩ := (getLsbD_wordMask a n hw).mp hm
      rw [h i hi, Bool.and_true]

/-- The bytes that a line holds of a place within it. -/
def CacheLine.bytes (l : CacheLine) (a n : Nat) : List Byte := (List.range n).map fun i => l.byte (a % 128 + i)

section
variable {c : Core} {pa n : Nat}

theorem Core.cacheHit_of_covers {l : CacheLine} (h : c.cacheLine (paKey pa) (paAddr pa / 128) = some l) (hv : l.Covers (paAddr pa) n) :
    c.cacheHit pa n = some (l.bytes (paAddr pa) n) := by
  unfold Core.cacheHit
  rw [h]
  exact if_pos ((l.covers_iff _ _).mpr hv)

theorem Core.covers_of_cacheHit {d : List Byte} (h : c.cacheHit pa n = some d) :
    ∃ l, c.cacheLine (paKey pa) (paAddr pa / 128) = some l ∧ l.Covers (paAddr pa) n ∧ d = l.bytes (paAddr pa) n := by
  unfold Core.cacheHit at h
  split at h
  case h_1 => cases h
  case h_2 l hl =>
    dsimp only at h
    split at h
    case isTrue hv => exact ⟨l, hl, (l.covers_iff _ _).mp hv, (Option.some.inj h).symm⟩
    case isFalse => cases h

end

/-- An update of a line is found in its place. -/
theorem Core.cacheLine_modLine (c : Core) (key ln : Nat) {f : CacheLine → CacheLine} (hf : ∀ l, (f l).key = l.key ∧ (f l).line = l.line) :
    (c.modLine key ln f).cacheLine key ln = (c.cacheLine key ln).map f := by
  have hsame : ((fun l : CacheLine => l.key == key && l.line == ln) ∘ fun l => if l.key == key && l.line == ln then f l else l) =
      fun l => l.key == key && l.line == ln := by
    funext l
    dsimp only [Function.comp]
    split
    · rw [(hf l).1, (hf l).2]
    · rfl
  unfold Core.modLine Core.cacheLine
  rw [List.find?_map, hsame]
  cases h : c.cache.find? fun l => l.key == key && l.line == ln with
  | none => rfl
  | some l =>
    have hl := List.find?_some h
    simp only [Option.map_some, hl, ↓reduceIte]

/-- A core's accesses and crews are as they were, and its banks hold the same bytes. -/
def Core.SameBytes (c k : Core) : Prop := k.pend = c.pend ∧ k.crews = c.crews ∧ ∀ j, (k.bank j).mem = (c.bank j).mem

theorem Core.SameBytes.refl (c : Core) : c.SameBytes c := ⟨rfl, rfl, fun _ => rfl⟩
theorem Core.SameBytes.trans {c d e : Core} (h : c.SameBytes d) (g : d.SameBytes e) : c.SameBytes e :=
  ⟨g.1.trans h.1, g.2.1.trans h.2.1, fun j => (g.2.2 j).trans (h.2.2 j)⟩

theorem Core.SameButOwned.sameBytes {c k : Core} (h : c.SameButOwned k) : c.SameBytes k := by
  rw [h.1]
  exact ⟨rfl, rfl, fun _ => rfl⟩

theorem Core.freshWay_sameBytes (c : Core) (bank set : Nat) : c.SameBytes (c.freshWay bank set) := by
  refine ⟨Core.setBank_pend .., Core.setBank_crews .., fun j => ?_⟩
  unfold Core.freshWay
  rw [Core.bank_setBank]
  split
  case isTrue e => rw [e.1]
  case isFalse => rfl

theorem Core.insertLine_sameBytes (c : Core) (spcap key ln : Nat) (at_ : Place) : c.SameBytes (c.insertLine spcap key ln at_) := by
  have hput (d : Core) (bank set : Nat) (cache : List CacheLine) (hd : c.SameBytes d) :
      c.SameBytes { d.freshWay bank set with cache } := hd.trans (d.freshWay_sameBytes bank set)
  unfold Core.insertLine
  split
  · dsimp only
    split
    · exact .refl c
    · exact ⟨rfl, rfl, fun _ => rfl⟩
  · dsimp only
    split
    · exact hput c _ _ _ (.refl c)
    · split
      · exact .refl c
      · exact hput _ _ _ _ ⟨rfl, rfl, fun _ => rfl⟩

theorem poisonedAt_filter_set (l : List (Nat × Nat)) (set : Nat) {j : Nat} (hj : j < 128) :
    poisonedAt (l.filter fun e => e.1 / 4 != set) (set * 128 + j) = false := by
  rw [poisonedAt, List.any_filter, List.any_eq_false]
  rintro e -
  by_cases he : e.1 = (set * 128 + j) / 32
  · have : e.1 / 4 = set := by omega
    simp [this]
  · simp [he]

/-- A way that takes a new line is clean in that line's set (09 R187). -/
theorem Core.freshWay_clean (c : Core) (bank set : Nat) {j : Nat} (hj : j < 128) :
    poisonedAt ((c.freshWay bank set).bank bank).poison (set * 128 + j) = false := by
  unfold Core.freshWay
  rw [Core.bank_setBank]
  split
  case isTrue => exact poisonedAt_filter_set _ _ hj
  case isFalse h =>
    have hbank : c.bank bank = {} := dif_neg fun hk => h ⟨rfl, hk⟩
    rw [hbank]
    rfl

/-- A line as it enters a core's cache (09 R181). -/
def newLine (bank key line : Nat) (at_ : Place) : CacheLine :=
  { bank, key, line, valid := 0, owned := 0, data := Vector.replicate 32 0, first := at_ == .first }

/-- A line inserted behind `pre`, which holds no line of that name, is the one found there. -/
theorem find?_inserted (bank : Nat) {key ln : Nat} (at_ : Place) {pre : List CacheLine}
    (hpre : pre.find? (fun l => l.key == key && l.line == ln) = none) (post : List CacheLine) :
    (pre ++ newLine bank key ln at_ :: post).find? (fun l => l.key == key && l.line == ln) = some (newLine bank key ln at_) := by
  rw [List.find?_append, hpre, Option.none_or, List.find?_cons_of_pos]
  simp [newLine]

/-- The bytes `a … a + n - 1` of a line have no valid word in the cache, and its bank is without poison there. -/
structure CacheLine.Blank (l : CacheLine) (c : Core) (spcap a n : Nat) : Prop where
  invalid : ∀ i < n, l.valid.getLsbD ((a + i) % 128 / 4) = false
  clean : ∀ i < n, poisonedAt (c.bank l.bank).poison (cacheSet spcap l.line * 128 + (a + i) % 128) = false

/-- The line of a place, if the cache has it, is blank at the place. -/
def Core.Blank (c : Core) (spcap pa n : Nat) : Prop :=
  ∀ l, c.cacheLine (paKey pa) (paAddr pa / 128) = some l → l.Blank c spcap (paAddr pa) n

theorem Core.hitPoisoned_eq_false_iff (c : Core) (spcap pa n : Nat) : c.hitPoisoned spcap pa n = false ↔
    ∀ l, c.cacheLine (paKey pa) (paAddr pa / 128) = some l →
      ∀ i < n, poisonedAt (c.bank l.bank).poison (cacheSet spcap l.line * 128 + (paAddr pa + i) % 128) = false := by
  unfold Core.hitPoisoned
  split
  next h => simp [h]
  next l h => simp [h]

/-- A way that takes a line brings it in blank. -/
theorem CacheLine.blank_freshWay (c : Core) (cache : List CacheLine) {new : CacheLine} (hv : new.valid = 0) (spcap a n : Nat) :
    new.Blank { c.freshWay new.bank (cacheSet spcap new.line) with cache } spcap a n :=
  ⟨fun _ _ => by rw [hv]; exact BitVec.getLsbD_zero, fun _ _ => c.freshWay_clean _ _ (Nat.mod_lt _ (by decide))⟩

/-- A way that has taken the line of a place holds it blank. -/
theorem Core.blank_freshWay (c : Core) {cache : List CacheLine} {spcap pa n : Nat} {new : CacheLine} (hln : new.line = paAddr pa / 128)
    (hv : new.valid = 0) (hfind : cache.find? (fun l => l.key == paKey pa && l.line == paAddr pa / 128) = some new) :
    Core.Blank { c.freshWay new.bank (cacheSet spcap (paAddr pa / 128)) with cache } spcap pa n := by
  intro l hl
  obtain rfl : new = l := Option.some.inj (hfind.symm.trans hl)
  rw [← hln]
  exact CacheLine.blank_freshWay c cache hv spcap (paAddr pa) n

/-- An insertion finds its line as it is, or brings a new one in, if it does. -/
theorem Core.Blank.insertLine {c : Core} {spcap pa n : Nat} (h : c.Blank spcap pa n) (at_ : Place) :
    (c.insertLine spcap (paKey pa) (paAddr pa / 128) at_).Blank spcap pa n := by
  have hplaced {cache : List CacheLine} (hnone : cache.find? (fun l => l.key == paKey pa && l.line == paAddr pa / 128) = none) (bank : Nat) :
      (match at_ with
        | .first => newLine bank (paKey pa) (paAddr pa / 128) at_ :: cache
        | .next => cache.takeWhile CacheLine.first ++ newLine bank (paKey pa) (paAddr pa / 128) at_ :: cache.dropWhile CacheLine.first
        | .last => cache ++ [newLine bank (paKey pa) (paAddr pa / 128) at_]).find?
        (fun l => l.key == paKey pa && l.line == paAddr pa / 128) = some (newLine bank (paKey pa) (paAddr pa / 128) at_) := by
    cases at_ with
    | first => exact find?_inserted bank .first (pre := []) rfl cache
    | next =>
      refine find?_inserted bank .next (List.find?_eq_none.mpr fun l hl => ?_) _
      exact List.find?_eq_none.mp hnone l (List.takeWhile_subset _ hl)
    | last => exact find?_inserted bank .last hnone []
  unfold Core.insertLine
  split
  case h_1 l hline =>
    have hsame : (l.key == paKey pa && l.line == paAddr pa / 128) = true :=
      List.find?_some (p := fun l : CacheLine => l.key == paKey pa && l.line == paAddr pa / 128) hline
    dsimp only
    split
    · exact h
    · intro l' hl'
      have hfind : some l = some l' :=
        (List.find?_cons_of_pos (p := fun l : CacheLine => l.key == paKey pa && l.line == paAddr pa / 128) hsame).symm.trans hl'
      obtain rfl : l = l' := Option.some.inj hfind
      obtain ⟨hinvalid, hclean⟩ := h l hline
      exact ⟨hinvalid, hclean⟩
  case h_2 hline =>
    dsimp only
    split
    · exact Core.blank_freshWay c (new := newLine _ (paKey pa) (paAddr pa / 128) at_) rfl rfl (hplaced hline _)
    · split
      · exact h
      · refine Core.blank_freshWay _ (new := newLine _ (paKey pa) (paAddr pa / 128) at_) rfl rfl (hplaced ?_ _)
        exact List.find?_eq_none.mpr fun l hl => List.find?_eq_none.mp hline l (List.mem_filter.mp hl).1

/-- The words of a line that read from the home without poison come in, where no word stands and none is on its way out (09 R181). -/
def CacheLine.merge (held bad : Nat → Bool) (v : Nat → Word) (l : CacheLine) : CacheLine :=
  (List.range 32).foldl (fun l w => if l.valid.getLsbD w || held w || bad w then l
    else { l with valid := l.valid ||| (1#32 <<< w), data := l.data.setIfInBounds w (v w) }) l

/-- What a merged line keeps, and the value of each word that has come in. -/
structure CacheLine.Merged (v : Nat → Word) (l m : CacheLine) : Prop where
  key : m.key = l.key
  line : m.line = l.line
  bank : m.bank = l.bank
  word : ∀ w, (hw : w < 32) → l.valid.getLsbD w = false → m.valid.getLsbD w = true → m.data[w] = v w

theorem CacheLine.merge_merged (held bad : Nat → Bool) (v : Nat → Word) (l : CacheLine) : l.Merged v (l.merge held bad v) := by
  have hstart : l.Merged v l := ⟨rfl, rfl, rfl, fun w _ hno hyes => by rw [hno] at hyes; cases hyes⟩
  refine List.foldlRecOn (motive := fun m => l.Merged v m) _ _ hstart fun m hm w _ => ?_
  obtain ⟨hkey, hline, hbank, hword⟩ := hm
  split
  · exact ⟨hkey, hline, hbank, hword⟩
  · refine ⟨hkey, hline, hbank, fun j hj hno hyes => ?_⟩
    rw [Vector.getElem_setIfInBounds]
    split
    case isTrue e => rw [e]
    case isFalse e =>
      rw [BitVec.getLsbD_or, Bool.or_eq_true] at hyes
      refine hword j hj hno (hyes.resolve_right fun hbit => e ?_)
      simp only [BitVec.getLsbD_shiftLeft, BitVec.getLsbD_one, Bool.and_eq_true, decide_eq_true_eq, Bool.not_eq_true',
        decide_eq_false_iff_not] at hbit
      omega


/-! What the cache of a core answers to a load that may have to fetch its line (09 R181, 10 R194). -/

theorem Core.modLine_sameBytes (c : Core) (key ln : Nat) (f : CacheLine → CacheLine) : c.SameBytes (c.modLine key ln f) := ⟨rfl, rfl, fun _ => rfl⟩

/-- The line found after an update of it is the updated one. -/
theorem Core.exists_of_cacheLine_modLine {c : Core} {key ln : Nat} {f : CacheLine → CacheLine} (hf : ∀ l, (f l).key = l.key ∧ (f l).line = l.line)
    {m : CacheLine} (h : (c.modLine key ln f).cacheLine key ln = some m) : ∃ l, c.cacheLine key ln = some l ∧ m = f l := by
  rw [Core.cacheLine_modLine c key ln hf, Option.map_eq_some_iff] at h
  obtain ⟨l, hl, hm⟩ := h
  exact ⟨l, hl, hm.symm⟩

/-- A line without the words of a mask, neither valid nor owned. -/
def CacheLine.without (m : Word) (l : CacheLine) : CacheLine := { l with valid := l.valid &&& ~~~m, owned := l.owned &&& ~~~m }

/-- What a drop leaves of a line that met no poison is blank. -/
theorem Core.blank_drop {c : Core} {spcap pa n : Nat} (h : c.hitPoisoned spcap pa n = false) :
    (c.modLine (paKey pa) (paAddr pa / 128) (CacheLine.without (wordMask (paAddr pa) n))).Blank spcap pa n := by
  intro m hm
  obtain ⟨l, hl, rfl⟩ := Core.exists_of_cacheLine_modLine (f := CacheLine.without _) (fun _ => ⟨rfl, rfl⟩) hm
  refine ⟨fun i hi => ?_, (Core.hitPoisoned_eq_false_iff ..).mp h l hl⟩
  have hlt : (paAddr pa + i) % 128 / 4 < 32 := by omega
  have hbit := (getLsbD_wordMask (paAddr pa) n hlt).mpr ⟨i, hi, rfl⟩
  rw [CacheLine.without, BitVec.getLsbD_and, BitVec.getLsbD_not, hbit, Bool.not_true, Bool.and_false, Bool.and_false]

theorem Core.SameButOwned.cacheLine {c k : Core} (h : c.SameButOwned k) (key ln : Nat) :
    (k.cacheLine key ln).map CacheLine.disowned = (c.cacheLine key ln).map CacheLine.disowned := by
  have hfind (l : List CacheLine) : (l.find? fun l => l.key == key && l.line == ln).map CacheLine.disowned =
      (l.map CacheLine.disowned).find? fun l => l.key == key && l.line == ln := by
    rw [List.find?_map]
    rfl
  unfold Core.cacheLine
  rw [hfind, hfind, h.2]

/-- Owned bits are not read. -/
theorem Core.Blank.of_sameButOwned {c k : Core} {spcap pa n : Nat} (h : c.Blank spcap pa n) (hk : c.SameButOwned k) : k.Blank spcap pa n := by
  intro l hl
  have hmap := hk.cacheLine (paKey pa) (paAddr pa / 128)
  rw [hl, Option.map_some, eq_comm, Option.map_eq_some_iff] at hmap
  obtain ⟨l₀, hl₀, hdis⟩ := hmap
  obtain ⟨hinvalid, hclean⟩ := h l₀ hl₀
  have hvalid : l₀.valid = l.valid := congrArg CacheLine.valid (a₁ := l₀.disowned) (a₂ := l.disowned) hdis
  have hbank : l₀.bank = l.bank := congrArg CacheLine.bank (a₁ := l₀.disowned) (a₂ := l.disowned) hdis
  have hline : l₀.line = l.line := congrArg CacheLine.line (a₁ := l₀.disowned) (a₂ := l.disowned) hdis
  have hbanks (j : Nat) : k.bank j = c.bank j := by rw [hk.1]; rfl
  rw [hvalid] at hinvalid
  rw [hline, hbank, ← hbanks] at hclean
  exact ⟨hinvalid, hclean⟩

/-- A byte of a word that came as four bytes. -/
theorem CacheLine.byte_of_word {l : CacheLine} {w k : Nat} (hw : w < 32) (hk : k < 4) {f : Nat → Byte}
    (h : l.data[w] = BitVec.ofNat 32 (leNat ((List.range 4).map f))) : l.byte (4 * w + k) = f k := by
  have hdiv : (4 * w + k) / 4 = w := by omega
  have hmod : (4 * w + k) % 4 = k := by omega
  unfold CacheLine.byte
  simp only [hdiv, hmod, hw, ↓reduceDIte, h]
  exact extractLsb'_leNat f hk

/-- A line that held nothing of a place answers, once words have come in, what came. -/
theorem CacheLine.Merged.bytes {l m : CacheLine} {f : Nat → Byte} {a n : Nat}
    (h : l.Merged (fun w => BitVec.ofNat 32 (leNat ((List.range 4).map fun k => f (4 * w + k)))) m)
    (hblank : ∀ i < n, l.valid.getLsbD ((a + i) % 128 / 4) = false) (hin : a % 128 + n ≤ 128) (hv : m.Covers a n) :
    m.bytes a n = (List.range n).map fun i => f (a % 128 + i) := by
  refine List.map_congr_left fun i hi => ?_
  have hi := List.mem_range.mp hi
  have hpos : (a + i) % 128 = a % 128 + i := by omega
  have hw : (a % 128 + i) / 4 < 32 := by omega
  have hinvalid := hblank i hi
  have hvalid := hv i hi
  rw [hpos] at hinvalid hvalid
  have hbyte := CacheLine.byte_of_word hw (Nat.mod_lt (a % 128 + i) (by decide)) (h.word _ hw hinvalid hvalid)
  rwa [Nat.div_add_mod] at hbyte

/-- The fill of the line of a place, `f` being the bytes that the line has at the home. -/
def Core.fillWith (c : Core) (spcap pa : Nat) (at_ : Place) (held bad : Nat → Bool) (f : Nat → Byte) : Core :=
  (c.insertLine spcap (paKey pa) (paAddr pa / 128) at_).modLine (paKey pa) (paAddr pa / 128)
    (CacheLine.merge held bad fun w => BitVec.ofNat 32 (leNat ((List.range 4).map fun k => f (4 * w + k))))

theorem Core.fillWith_sameBytes (c : Core) (spcap pa : Nat) (at_ : Place) (held bad : Nat → Bool) (f : Nat → Byte) :
    c.SameBytes (c.fillWith spcap pa at_ held bad f) := (c.insertLine_sameBytes ..).trans (Core.modLine_sameBytes ..)

/-- A cache that held a place blank answers, once the line has been filled, the bytes of the home, and no poison. -/
theorem Core.Blank.fillWith {c : Core} {spcap pa n : Nat} (h : c.Blank spcap pa n) (hin : paAddr pa % 128 + n ≤ 128) (at_ : Place)
    (held bad : Nat → Bool) (f : Nat → Byte) {d : List Byte} (hhit : (c.fillWith spcap pa at_ held bad f).cacheHit pa n = some d) :
    d = ((List.range n).map fun i => f (paAddr pa % 128 + i)) ∧ (c.fillWith spcap pa at_ held bad f).hitPoisoned spcap pa n = false := by
  have hmerged := CacheLine.merge_merged held bad fun w => BitVec.ofNat 32 (leNat ((List.range 4).map fun k => f (4 * w + k)))
  have hname (l : CacheLine) := And.intro (hmerged l).key (hmerged l).line
  refine ⟨?_, (Core.hitPoisoned_eq_false_iff ..).mpr fun m hm => ?_⟩
  · obtain ⟨m, hm, hcovers, rfl⟩ := Core.covers_of_cacheHit hhit
    obtain ⟨l, hl, rfl⟩ := Core.exists_of_cacheLine_modLine hname hm
    exact (hmerged l).bytes (h.insertLine at_ l hl).invalid hin hcovers
  · obtain ⟨l, hl, rfl⟩ := Core.exists_of_cacheLine_modLine hname hm
    rw [(hmerged l).bank, (hmerged l).line]
    exact (h.insertLine at_ l hl).clean

section
variable {s : State} {b pa n : Nat}

theorem State.cacheDrop_homeStays (s : State) (b pa n : Nat) : State.HomeStays Core.SameBytes s (s.cacheDrop b pa n) :=
  s.modCore_homeStays b (f := fun c => c.modLine (paKey pa) (paAddr pa / 128) (CacheLine.without (wordMask (paAddr pa) n)))
    Core.SameBytes.refl (Core.modLine_sameBytes ..)

/-- The four bytes of word `w` of a line read whole. -/
theorem word_of_line {α : Type} (f : Nat → α) {w : Nat} (hw : w < 32) :
    ((((List.range 128).map f).drop (4 * w)).take 4) = (List.range 4).map fun k => f (4 * w + k) := by
  refine List.ext_getElem (by simp; omega) fun i h₁ h₂ => ?_
  simp

/-- A fill reads the line at the home and merges it (09 R181). -/
theorem State.fillLine_eq (hs : WritesBack s) (hkey : s.keyLoaded (paKey pa) = true) (part : Nat) (at_ : Place) :
    ∃ t, s.L2Moves t ∧ s.fillLine part b pa at_ = t.modCore b fun c => c.fillWith (t.spcap b) pa at_
      (fun w => (c.unregistered (paKey pa) (paAddr pa / 128)).getLsbD w)
      (fun w => (List.range 4).any fun i => poisonedAt t.poison (paAddr pa / 128 * 128 + 4 * w + i))
      fun j => s.homeByte (paKey pa) (paAddr pa / 128 * 128 + j) := by
  have hlinekey : paKey (paKey pa * 2 ^ 40 + paAddr pa / 128 * 128) = paKey pa := by
    unfold paKey paAddr
    omega
  have hlineaddr : paAddr (paKey pa * 2 ^ 40 + paAddr pa / 128 * 128) = paAddr pa / 128 * 128 := by
    unfold paKey paAddr
    omega
  obtain ⟨t, hmoves, hread⟩ := State.l2Read_home hs part (pa := paKey pa * 2 ^ 40 + paAddr pa / 128 * 128) (hlinekey ▸ hkey) 128
  rw [hlinekey, hlineaddr] at hread
  refine ⟨t, hmoves, ?_⟩
  unfold State.fillLine
  simp only [hkey, hread, Bool.not_true, Bool.false_eq_true, ↓reduceIte]
  refine congrArg (t.modCore b) (funext fun c => congrArg (Core.modLine _ _ _) (funext fun l => ?_))
  refine List.foldl_ext _ _ _ fun l w hw => ?_
  rw [word_of_line _ (List.mem_range.mp hw)]

/-- A fill changes no byte, and what the cache then answers of a place it held blank is what stands at the home. -/
theorem State.fillLine_serves (hb : b < 160) (hs : WritesBack s) (hkey : s.keyLoaded (paKey pa) = true)
    (hblank : (s.core b).Blank (s.spcap b) pa n) (hin : paAddr pa % 128 + n ≤ 128) (part : Nat) (at_ : Place) :
    State.HomeStays Core.SameBytes s (s.fillLine part b pa at_) ∧
    ∀ d, ((s.fillLine part b pa at_).core b).cacheHit pa n = some d →
      d = ((List.range n).map fun i => s.homeByte (paKey pa) (paAddr pa + i)) ∧
      ((s.fillLine part b pa at_).core b).hitPoisoned (s.spcap b) pa n = false := by
  obtain ⟨t, hmoves, hfill⟩ := State.fillLine_eq (b := b) hs hkey part at_
  rw [hfill, hmoves.spcap]
  refine ⟨(hmoves.mono fun _ _ h => h.sameBytes).trans Core.SameBytes.trans
    (t.modCore_homeStays b Core.SameBytes.refl (Core.fillWith_sameBytes ..)), fun d hd => ?_⟩
  rw [State.core_modCore, if_pos ⟨rfl, hb⟩] at hd ⊢
  obtain ⟨hdata, hclean⟩ := (hblank.of_sameButOwned (hmoves.cores b)).fillWith hin at_ _ _ _ hd
  refine ⟨hdata.trans (List.map_congr_left fun i _ => ?_), hclean⟩
  rw [← Nat.add_assoc, Nat.div_add_mod']

/-- A read at the home that meets no poison. -/
theorem State.l2Read_clean (hs : WritesBack s) (hkey : s.keyLoaded (paKey pa) = true) (hclean : ∀ i < n, poisonedAt s.poison (paAddr pa + i) = false)
    (part : Nat) : ∃ u, State.HomeStays Core.SameBytes s u ∧
      s.l2Read part pa n = (u, (List.range n).map fun i => s.homeByte (paKey pa) (paAddr pa + i), false) := by
  obtain ⟨u, hmoves, hread⟩ := State.l2Read_home hs part hkey n
  have hnone : ((List.range n).any fun i => poisonedAt s.poison (paAddr pa + i)) = false := by
    simpa [List.any_eq_false] using hclean
  exact ⟨u, hmoves.mono fun _ _ h => h.sameBytes, by rw [hread, hnone]⟩

/-- A load that its form or the core's mode sends to the home (10 R194). -/
theorem State.loadBytes_home (hs : WritesBack s) (hkey : s.keyLoaded (paKey pa) = true) {l2 : Bool} (hl2 : (l2 || !(s.core b).cacheOn) = true)
    (hclean : ∀ i < n, poisonedAt s.poison (paAddr pa + i) = false) (at_ : Place) :
    ∃ u, State.HomeStays Core.SameBytes s u ∧
      s.loadBytes b (.glob pa) n l2 at_ = (u, (List.range n).map fun i => s.homeByte (paKey pa) (paAddr pa + i), false) := by
  obtain ⟨u, hstays, hread⟩ := State.l2Read_clean hs hkey hclean (s.partOf b)
  exact ⟨u, hstays, (if_pos hl2).trans hread⟩

/-- A load that the cache answers. -/
theorem State.loadBytes_hit (hon : (s.core b).cacheOn = true) {d : List Byte} (hhit : (s.core b).cacheHit pa n = some d)
    (hclean : (s.core b).hitPoisoned (s.spcap b) pa n = false) (at_ : Place) :
    ∃ u, State.HomeStays Core.SameBytes s u ∧ s.loadBytes b (.glob pa) n false at_ = (u, d, false) := by
  refine ⟨s.modCore b fun c => c.insertLine (s.spcap b) (paKey pa) (paAddr pa / 128) at_,
    s.modCore_homeStays b Core.SameBytes.refl (Core.insertLine_sameBytes ..), ?_⟩
  unfold State.loadBytes
  simp only [hon, hhit, hclean, Bool.not_true, Bool.or_self, Bool.false_eq_true, ↓reduceIte]

/-- A load that misses: its line is filled, and its bytes are those of the home, whether it then hits or not (log entry 89). -/
theorem State.loadBytes_miss (hb : b < 160) (hs : WritesBack s) (hkey : s.keyLoaded (paKey pa) = true) (hin : paAddr pa % 128 + n ≤ 128)
    (hon : (s.core b).cacheOn = true) (hmiss : (s.core b).cacheHit pa n = none) (hclean : ∀ i < n, poisonedAt s.poison (paAddr pa + i) = false)
    (hline : (s.core b).hitPoisoned (s.spcap b) pa n = false) (at_ : Place) :
    ∃ u, State.HomeStays Core.SameBytes s u ∧
      s.loadBytes b (.glob pa) n false at_ = (u, (List.range n).map fun i => s.homeByte (paKey pa) (paAddr pa + i), false) := by
  have hdrop := s.cacheDrop_homeStays b pa n
  have hblank : ((s.cacheDrop b pa n).core b).Blank ((s.cacheDrop b pa n).spcap b) pa n := by
    rw [hdrop.spcap, State.cacheDrop, State.core_modCore, if_pos ⟨rfl, hb⟩]
    exact Core.blank_drop hline
  obtain ⟨hfill, hserves⟩ := State.fillLine_serves hb (hdrop.writesBack hs) ((hdrop.keyLoaded _).trans hkey) hblank hin (s.partOf b) at_
  have hstays : State.HomeStays Core.SameBytes s ((s.cacheDrop b pa n).fillLine (s.partOf b) b pa at_) := hdrop.trans Core.SameBytes.trans hfill
  unfold State.loadBytes
  simp only [hon, hmiss, Bool.not_true, Bool.or_self, Bool.false_eq_true, ↓reduceIte]
  generalize (s.cacheDrop b pa n).fillLine (s.partOf b) b pa at_ = t at hfill hserves hstays
  cases hhit : (t.core b).cacheHit pa n with
  | some d =>
    obtain ⟨hd, hpoison⟩ := hserves d hhit
    simp only [hdrop.homeByte] at hd
    rw [← hfill.spcap] at hpoison
    exact ⟨t, hstays, by simp only [hd, hpoison]⟩
  | none =>
    obtain ⟨u, hread, heq⟩ := State.l2Read_clean (hstays.writesBack hs) ((hstays.keyLoaded _).trans hkey) (by rwa [hstays.poison]) (s.partOf b)
    simp only [hstays.homeByte] at heq
    exact ⟨u, hstays.trans Core.SameBytes.trans hread, heq⟩

/-- A load of global memory reads what the cache answers, where it is asked and answers, and the home otherwise. -/
theorem State.loadBytes_glob (hb : b < 160) (hs : WritesBack s) (hkey : s.keyLoaded (paKey pa) = true) (hin : paAddr pa % 128 + n ≤ 128)
    {l2 : Bool} {data : List Byte} (hhit : l2 = false → (s.core b).cacheOn = true → ∀ d, (s.core b).cacheHit pa n = some d → data = d)
    (hmiss : (!l2 && (s.core b).cacheOn && ((s.core b).cacheHit pa n).isSome) = false →
      data = ((List.range n).map fun i => s.homeByte (paKey pa) (paAddr pa + i)) ∧ ∀ i < n, poisonedAt s.poison (paAddr pa + i) = false)
    (hline : l2 = false → (s.core b).hitPoisoned (s.spcap b) pa n = false) (at_ : Place) :
    ∃ u, State.HomeStays Core.SameBytes s u ∧ s.loadBytes b (.glob pa) n l2 at_ = (u, data, false) := by
  by_cases hask : (l2 || !(s.core b).cacheOn) = true
  · obtain ⟨rfl, hclean⟩ := hmiss (by grind)
    exact State.loadBytes_home hs hkey hask hclean at_
  · obtain ⟨rfl, hon⟩ : l2 = false ∧ (s.core b).cacheOn = true := by simpa using hask
    cases h : (s.core b).cacheHit pa n with
    | some d =>
      rw [hhit rfl hon d h]
      exact State.loadBytes_hit hon h (hline rfl) at_
    | none =>
      obtain ⟨rfl, hclean⟩ := hmiss (by rw [h]; simp)
      exact State.loadBytes_miss hb hs hkey hin hon h hclean (hline rfl) at_

end

theorem State.HomeStays.memorySame {R : Core → Core → Prop} {s u : State} (hR : ∀ c k, R c k → ∀ j, (k.bank j).mem = (c.bank j).mem)
    (h : State.HomeStays R s u) : MemorySame s u := by
  refine ⟨fun b k a _ => ?_, fun a => ?_, h.hostMem⟩
  · unfold State.spadByte State.bank
    rw [hR _ _ (h.cores b)]
  · rw [State.globByte, h.mem, State.globByte]


/-! LONG_LATENCY_FILL of a load (05 R91, 10 R194). -/

/-- Cores that differ in their accesses and in the score of R254 alone. -/
def Core.SameButPend (c k : Core) : Prop := k = { c with pend := k.pend, score := k.score }

theorem Core.SameButPend.refl (c : Core) : c.SameButPend c := rfl
theorem Core.SameButPend.trans {c d e : Core} (h : c.SameButPend d) (g : d.SameButPend e) : c.SameButPend e := by
  unfold Core.SameButPend at *
  rw [g, h]

theorem Core.SameButPend.bank {c k : Core} (h : c.SameButPend k) (j : Nat) : k.bank j = c.bank j := by
  rw [h]
  rfl

/-- Neither accesses nor the score show in what the cache answers. -/
theorem Core.SameButPend.cache {c k : Core} (h : c.SameButPend k) (spcap pa n : Nat) :
    k.cacheOn = c.cacheOn ∧ k.cacheHit pa n = c.cacheHit pa n ∧ k.hitPoisoned spcap pa n = c.hitPoisoned spcap pa n := by
  rw [h]
  exact ⟨rfl, rfl, rfl⟩

/-- The state in which a load that is performed reads: its miss counted, the access gone from its core. -/
def State.loadStart (s : State) (core : Nat) (p : Pend) (loc : Loc) (n : Nat) (l2 : Bool) : State :=
  (if l2 then s else s.scoreMiss core p.slot loc n p.permit).dropPend core p.id

section
variable {s : State} {core id : Nat} {p : Pend} {loc : Loc} {n d : Nat} {sext : Bool} {tag : Tag} {l2 stream acq : Bool} {c : Crew}

/-- A miss that counts moves the score alone. -/
theorem State.scoreMiss_cases (s : State) (core slot : Nat) (loc : Loc) (n : Nat) (permit : Bool) :
    s.scoreMiss core slot loc n permit = s ∨
    s.scoreMiss core slot loc n permit = s.modCore core fun c => { c with score := min 63 (c.score + 1) } := by
  unfold State.scoreMiss
  split
  · exact .inl rfl
  · split
    · exact .inr rfl
    · exact .inl rfl

theorem State.loadStart_homeStays (s : State) (core : Nat) (p : Pend) (loc : Loc) (n : Nat) (l2 : Bool) :
    State.HomeStays Core.SameButPend s (s.loadStart core p loc n l2) := by
  have hdrop (t : State) : State.HomeStays Core.SameButPend t (t.dropPend core p.id) :=
    t.modCore_homeStays core Core.SameButPend.refl rfl
  unfold State.loadStart
  split
  · exact hdrop s
  · rcases s.scoreMiss_cases core p.slot loc n p.permit with h | h
    · rw [h]
      exact hdrop s
    · rw [h]
      exact State.HomeStays.trans Core.SameButPend.trans (s.modCore_homeStays core (f := fun c => { c with score := min 63 (c.score + 1) })
        Core.SameButPend.refl rfl) (hdrop _)

theorem State.loadStart_pend (h : (s.core core).pend.find? (fun q => q.id == id) = some p) (loc : Loc) (n : Nat) (l2 : Bool) :
    ((s.loadStart core p loc n l2).core core).pend = (s.core core).pend.filter fun q => q.id != p.id := by
  unfold State.loadStart
  split
  · exact s.dropPend_pend id h
  · rcases s.scoreMiss_cases core p.slot loc n p.permit with hs | hs
    · rw [hs]
      exact s.dropPend_pend id h
    · have hpend : ((s.scoreMiss core p.slot loc n p.permit).core core).pend = (s.core core).pend := by
        rw [hs, State.core_modCore_field (fun c => c.pend)]
        exact fun _ => rfl
      rw [State.dropPend_pend _ id (hpend ▸ h), hpend]

theorem State.loadStart_crew (s : State) (core : Nat) (p : Pend) (loc : Loc) (n : Nat) (l2 : Bool) (b sl : Nat) :
    (s.loadStart core p loc n l2).crew b sl = s.crew b sl := by
  have hcore : (s.loadStart core p loc n l2).core b = _ := (s.loadStart_homeStays core p loc n l2).cores b
  unfold State.crew
  rw [hcore]
  rfl

theorem State.acquire_homeStays (s : State) (b : Nat) : State.HomeStays Core.SameBytes s (s.acquire b) :=
  s.modCore_homeStays b (f := fun c => { c with cache := c.cache.map fun l => { l with valid := l.valid &&& l.owned } })
    Core.SameBytes.refl ⟨rfl, rfl, fun _ => rfl⟩

/-- A load that reads without poison fills its destination. -/
theorem exec_fill_load (h : (s.core core).pend.find? (fun q => q.id == id) = some p) (hk : p.kind = .load loc n sext tag l2 stream acq)
    (hdst : p.dst = some d) (hd : d + p.wide.toNat < 64) (htwin : p.twin = none) (htwinVal : p.twinVal = none) (hown : p.own = none)
    (hlane : p.lane < 32) (hc : s.crew core p.slot = some c) (hmay : s.mayPerform core p = true) {data : List Byte}
    (hread : ∀ at_, ∃ u, State.HomeStays Core.SameBytes (s.loadStart core p loc n l2) u ∧
      (s.loadStart core p loc n l2).loadBytes core loc n l2 at_ = (u, data, false)) :
    ∃ u, exec (.longLatencyFill core id) s = .next u ∧ s.Filled u core p d (loadValue data sext) tag c := by
  obtain ⟨t, hstays, hbytes⟩ := hread ((s.loadStart core p loc n l2).placeOf core p.slot stream)
  have hacquired : State.HomeStays Core.SameBytes (s.loadStart core p loc n l2) (if acq then t.acquire core else t) := by
    cases acq
    · exact hstays
    · exact hstays.trans Core.SameBytes.trans (t.acquire_homeStays core)
  have hstart : MemorySame s (s.loadStart core p loc n l2) :=
    (s.loadStart_homeStays core p loc n l2).memorySame fun _ _ h j => by rw [h.bank]
  obtain ⟨hpend, hcrews, -⟩ := hacquired.cores core
  have hcrew : (if acq then t.acquire core else t).crew core p.slot = some c := by
    rw [State.crew, Core.crew, hcrews, ← Core.crew, ← State.crew, State.loadStart_crew, hc]
  refine ⟨_, ?_, State.fill_filled (hstart.trans (hacquired.memorySame fun _ _ h => h.2.2))
    (hpend.trans (State.loadStart_pend h loc n l2)) hcrew hlane hd (loadValue data sext) tag⟩
  change execLongLatencyFill core id s = _
  unfold execLongLatencyFill
  simp only [h, hk, hmay, ↓reduceIte]
  unfold State.performLoad
  unfold State.loadStart at hbytes
  simp only [hk, hbytes, htwin, hown, hdst, Pend.paired, htwinVal, Option.isNone_none, Option.isSome_none, Bool.and_true, Bool.or_self,
    Bool.false_eq_true, ↓reduceIte, Option.getD_some, Option.getD_none]

/-- What a load of a scratchpad bank reads, without poison. -/
theorem State.loadStart_spad (s : State) (core : Nat) (p : Pend) {b k off : Nat} {n : Nat} (l2 : Bool)
    (hclean : ∀ i < n, poisonedAt (s.bank b k).poison (off + i) = false) (at_ : Place) :
    ∃ u, State.HomeStays Core.SameBytes (s.loadStart core p (.spad b k off) n l2) u ∧
      (s.loadStart core p (.spad b k off) n l2).loadBytes core (.spad b k off) n l2 at_ = (u, memRead (s.bank b k).mem off n, false) := by
  have hbank : (s.loadStart core p (.spad b k off) n l2).bank b k = s.bank b k := ((s.loadStart_homeStays core p _ n l2).cores b).bank k
  have hnone : ((List.range n).any fun i => poisonedAt (s.bank b k).poison (off + i)) = false := by simpa [List.any_eq_false] using hclean
  refine ⟨_, (State.L2Moves.refl _).mono fun _ _ h => h.sameBytes, ?_⟩
  unfold State.loadBytes State.spadRead
  simp only [hbank, hnone]

/-- What a load of global memory reads, without poison (10 R194, log entry 89). -/
theorem State.loadStart_glob {pa : Nat} (hcore : core < 160) (p : Pend) (hs : WritesBack s) (hkey : s.keyLoaded (paKey pa) = true)
    (hin : paAddr pa % 128 + n ≤ 128) {data : List Byte}
    (hhit : l2 = false → (s.core core).cacheOn = true → ∀ d, (s.core core).cacheHit pa n = some d → data = d)
    (hmiss : (!l2 && (s.core core).cacheOn && ((s.core core).cacheHit pa n).isSome) = false →
      data = ((List.range n).map fun i => s.homeByte (paKey pa) (paAddr pa + i)) ∧ ∀ i < n, poisonedAt s.poison (paAddr pa + i) = false)
    (hline : l2 = false → (s.core core).hitPoisoned (s.spcap core) pa n = false) (at_ : Place) :
    ∃ u, State.HomeStays Core.SameBytes (s.loadStart core p (.glob pa) n l2) u ∧
      (s.loadStart core p (.glob pa) n l2).loadBytes core (.glob pa) n l2 at_ = (u, data, false) := by
  have hstart := s.loadStart_homeStays core p (.glob pa) n l2
  obtain ⟨hon, hanswer, hpoison⟩ := (hstart.cores core).cache (s.spcap core) pa n
  refine State.loadBytes_glob hcore (hstart.writesBack hs) ((hstart.keyLoaded _).trans hkey) hin ?_ ?_ ?_ at_
  · rwa [hon, hanswer]
  · rw [hon, hanswer, hstart.poison]
    simpa only [hstart.homeByte] using hmiss
  · rwa [hstart.spcap, hpoison]

end

/-- The valid words that a hit asks for, as the cache tests them. -/
theorem Core.any_valid_eq (c : Core) (pa n : Nat) :
    ((c.cacheLine (paKey pa) (paAddr pa / 128)).any fun w => (List.range n).all fun i => w.valid.getLsbD ((paAddr pa + i) % 128 / 4)) =
      (c.cacheHit pa n).isSome := by
  have hcovers (l : CacheLine) : ((List.range n).all fun i => l.valid.getLsbD ((paAddr pa + i) % 128 / 4)) = true ↔ l.Covers (paAddr pa) n := by
    simp [CacheLine.Covers]
  rw [Bool.eq_iff_iff, Option.any_eq_true, Option.isSome_iff_exists]
  constructor
  · rintro ⟨l, hl, hall⟩
    exact ⟨_, Core.cacheHit_of_covers hl ((hcovers l).mp hall)⟩
  · rintro ⟨d, hd⟩
    obtain ⟨l, hl, hv, -⟩ := Core.covers_of_cacheHit hd
    exact ⟨l, hl, (hcovers l).mpr hv⟩

/-- Within a line, the bytes of a hit by their place in it. -/
theorem CacheLine.bytes_eq (l : CacheLine) {a n : Nat} (hin : a % 128 + n ≤ 128) :
    l.bytes a n = (List.range n).map fun i => l.byte ((a + i) % 128) := by
  refine List.map_congr_left fun i hi => ?_
  have hi := List.mem_range.mp hi
  rw [show (a + i) % 128 = a % 128 + i by omega]

theorem State.core_lt_of_pend {s : State} {core id : Nat} {p : Pend} (h : (s.core core).pend.find? (fun q => q.id == id) = some p) : core < 160 := by
  by_contra hge
  rw [State.core_ge s hge] at h
  cases h

/-- The size of an access, value by value of SZ. -/
theorem szBytes_eq : ∀ sz : Nat, szBytes sz = match sz with | 0 => 4 | 1 => 8 | 2 | 3 => 1 | _ => 2
  | 0 | 1 | 2 | 3 => rfl
  | sz + 4 => by simp [szBytes]

end Sys2Proof.Machine

section
open Sys2Proof Sys2Proof.Machine

/-- Settles O19: a load by its four outcomes at issue and at its fill; the fill of a miss by following its line from the home into the cache. -/
theorem loads : Obligations.Loads := by
  unfold Obligations.Loads
  refine ⟨?issue, ?window, ?value, ?fill⟩
  case issue =>
    intro o s cur c l sz wide d n x t next va halone hacq loc hsteer
    have hn : szBytes (o.modBits 2 0) = n := szBytes_eq (o.modBits 2 0)
    clear_value n
    subst hn
    refine ⟨fun hthere hw => exec_ld_issues ⟨halone, hacq⟩ hsteer hthere hw, ?_⟩
    rintro b k off rfl hcount
    exact exec_ld_parks ⟨halone, hacq⟩ hsteer hcount
  case window =>
    intro o s cur c l off n wide x t va halone hacq hsteer hgood
    have hn : szBytes (o.modBits 2 0) = n := szBytes_eq (o.modBits 2 0)
    clear_value n
    subst hn
    exact exec_ld_window ⟨halone, hacq⟩ hsteer hgood
  case value =>
    intro s core id p d v tag c h hk hdst hd htwin hlane hc
    exact exec_fill_value h hk hdst hd htwin hlane hc
  case fill =>
    intro s core id p loc n d sext tag l2 stream acq c h hk hdst hd htwin htwinVal hown hlane hc hmay data hdata
    refine exec_fill_load h hk hdst hd htwin htwinVal hown hlane hc hmay fun at_ => ?_
    cases loc with
    | spad b k off =>
      obtain ⟨rfl, hclean⟩ := hdata
      exact s.loadStart_spad core p l2 hclean at_
    | glob pa =>
      obtain ⟨hkey, hin, hs, hdata, hclean, hline⟩ := hdata
      rw [Core.any_valid_eq] at hdata hclean
      refine State.loadStart_glob (State.core_lt_of_pend h) p hs hkey hin (fun hl2 hon bytes hbytes => ?_) (fun hno => ⟨?_, hclean hno⟩) hline at_
      · obtain ⟨w, hw, -, rfl⟩ := Core.covers_of_cacheHit hbytes
        rw [hdata, hbytes, hw, hl2, hon, w.bytes_eq hin]
        rfl
      · rw [hdata, hno]
end

/-! Random numbers (06 R118, 07 R154, R155), and the codes of a floating-point format (06 R103, R104, R108). -/

namespace Sys2Proof

/-! kmix on 64-bit blocks. -/

/-- The four rounds' step on a block of 64 bits. -/
def kmixStep (key : BitVec 64) (i : Nat) (x : BitVec 64) : BitVec 64 :=
  let first : BitVec 32 := (x.setWidth 32 ^^^ key.setWidth 32 ^^^ BitVec.ofNat 32 (i * 0x7A3B5C1D)) * 0xB5E194C7#32
  x.setWidth 32 ++ ((x >>> 32).setWidth 32 ^^^ (((first ^^^ (first >>> 13)) * 0x2D6FA389#32) ^^^ (key >>> 32).setWidth 32))

theorem toNat_high (x : BitVec 64) : ((x >>> 32).setWidth 32).toNat = x.toNat / 2 ^ 32 := by
  rw [BitVec.toNat_setWidth, BitVec.toNat_ushiftRight, Nat.shiftRight_eq_div_pow, Nat.mod_eq_of_lt]
  have := x.isLt
  omega

theorem toNat_append_words (a b : BitVec 32) : (a ++ b).toNat = a.toNat * 2 ^ 32 + b.toNat := by
  rw [BitVec.toNat_append, ← Nat.shiftLeft_add_eq_or_of_lt b.isLt, Nat.shiftLeft_eq]

theorem kmixRound_toNat (key : BitVec 64) (i : Nat) (x : BitVec 64) : kmixRound key.toNat i x.toNat = (kmixStep key i x).toNat := by
  have hkey : key.toNat >>> 32 = ((key >>> 32).setWidth 32).toNat := by rw [toNat_high, Nat.shiftRight_eq_div_pow]
  have hmul (a b : BitVec 32) : (a * b).toNat = a.toNat * b.toNat % 2 ^ 32 := BitVec.toNat_mul a b
  simp only [kmixRound, kmixStep, toNat_append_words, BitVec.toNat_xor, hmul, BitVec.toNat_ushiftRight, BitVec.toNat_setWidth 32 x,
    BitVec.toNat_setWidth 32 key, BitVec.toNat_ofNat, hkey, toNat_high x, Nat.reducePow, Nat.reduceMod]

theorem kmix_toNat (key ctr : BitVec 64) (stream : BitVec 16) :
    kmix key.toNat ctr.toNat stream.toNat =
      let x := kmixStep key 3 (kmixStep key 2 (kmixStep key 1 (kmixStep key 0 (ctr ^^^ (stream.setWidth 64 <<< 48)))))
      (x.setWidth 32 ^^^ (x >>> 32).setWidth 32).toNat := by
  have hstream : stream.toNat <<< 48 = (stream.setWidth 64 <<< 48 : BitVec 64).toNat := by
    have := stream.isLt
    rw [BitVec.toNat_shiftLeft, BitVec.toNat_setWidth, Nat.shiftLeft_eq, Nat.shiftLeft_eq]
    omega
  simp only [kmix, hstream, ← BitVec.toNat_xor, kmixRound_toNat]
  rw [BitVec.toNat_xor, toNat_high, BitVec.toNat_setWidth]

theorem kmix_lt {key ctr stream : Nat} (hk : key < 2 ^ 64) (hc : ctr < 2 ^ 64) (hs : stream < 2 ^ 16) : kmix key ctr stream < 2 ^ 32 := by
  have h := kmix_toNat (BitVec.ofNat 64 key) (BitVec.ofNat 64 ctr) (BitVec.ofNat 16 stream)
  rw [BitVec.toNat_ofNat, BitVec.toNat_ofNat, BitVec.toNat_ofNat, Nat.mod_eq_of_lt hk, Nat.mod_eq_of_lt hc, Nat.mod_eq_of_lt hs] at h
  rw [h]
  exact BitVec.isLt _

/-! The code of a sign, an exponent field and a fraction. -/

namespace FloatFmt

/-- The formats of R103: at least two bits of precision and two of exponent, with the bias in the middle. -/
structure Usual (f : FloatFmt) : Prop where
  precise : 2 ≤ f.p
  bias : 2 * f.bias + 2 = 2 ^ f.ebits

/-- The largest number's code holds the largest exponent field below the infinities, or but for the NaN the largest code. -/
theorem usual_of_mem {f : FloatFmt} (h : f ∈ [f64, f32, f16, bf16, e4m3, e5m2, e2m1]) : f.Usual := by
  simp only [List.mem_cons, List.not_mem_nil, or_false] at h
  rcases h with rfl | rfl | rfl | rfl | rfl | rfl | rfl <;> exact ⟨by decide, by decide⟩

/-- Sign, exponent field and fraction, as they stand in a code. -/
def code (f : FloatFmt) (neg : Bool) (ex frac : Nat) : Nat := f.signBit neg + (ex * 2 ^ (f.p - 1) + frac)

variable {f : FloatFmt}

theorem width_sub_one (hf : f.Usual) : f.width - 1 = f.p - 1 + f.ebits := by
  have := hf.precise
  unfold width
  omega

theorem fields_lt (hf : f.Usual) {ex frac : Nat} (hex : ex < 2 ^ f.ebits) (hfrac : frac < 2 ^ (f.p - 1)) :
    ex * 2 ^ (f.p - 1) + frac < 2 ^ (f.width - 1) := by
  rw [width_sub_one hf, Nat.pow_add]
  nlinarith

theorem exists_code (hf : f.Usual) {x : Nat} (hx : x < 2 ^ f.width) :
    ∃ neg ex frac, ex < 2 ^ f.ebits ∧ frac < 2 ^ (f.p - 1) ∧ x = f.code neg ex frac := by
  have hp := hf.precise
  have hw : f.width = f.width - 1 + 1 := by unfold width; omega
  have hmod : x % 2 ^ (f.width - 1) / 2 ^ (f.p - 1) < 2 ^ f.ebits := by
    rw [Nat.div_lt_iff_lt_mul (by positivity), Nat.mul_comm, ← Nat.pow_add, ← width_sub_one hf]
    exact Nat.mod_lt _ (by positivity)
  refine ⟨decide (2 ^ (f.width - 1) ≤ x), x % 2 ^ (f.width - 1) / 2 ^ (f.p - 1), x % 2 ^ (f.width - 1) % 2 ^ (f.p - 1), hmod,
    Nat.mod_lt _ (by positivity), ?_⟩
  rw [code, Nat.div_add_mod']
  rw [hw, Nat.pow_succ] at hx
  by_cases h : 2 ^ (f.width - 1) ≤ x
  · rw [Nat.mod_eq_sub_mod h, Nat.mod_eq_of_lt (by omega), signBit, if_pos (by simpa using h)]
    omega
  · rw [Nat.mod_eq_of_lt (by omega), signBit, if_neg (by simpa using h), Nat.zero_add]

/-- A code's fields are read back. -/
theorem fields_code (hf : f.Usual) (neg : Bool) {ex frac : Nat} (hex : ex < 2 ^ f.ebits) (hfrac : frac < 2 ^ (f.p - 1)) :
    (f.code neg ex frac).testBit (f.width - 1) = neg ∧ bits (f.code neg ex frac) (f.p - 2) 0 = frac ∧
      bits (f.code neg ex frac) (f.width - 2) (f.p - 1) = ex := by
  have hlow := fields_lt hf hex hfrac
  have hp := hf.precise
  have hfp : f.p - 2 + 1 - 0 = f.p - 1 := by omega
  have hw : f.width - 2 + 1 - (f.p - 1) = f.ebits := by
    have : 0 < f.ebits := by
      by_contra h0
      have := hf.bias
      simp [show f.ebits = 0 by omega] at this
    unfold width
    omega
  have hdiv : (ex * 2 ^ (f.p - 1) + frac) / 2 ^ (f.p - 1) = ex := by
    rw [Nat.mul_comm, Nat.mul_add_div (by positivity), Nat.div_eq_of_lt hfrac, Nat.add_zero]
  have hsign : f.signBit neg = 2 ^ (f.p - 1) * (2 ^ f.ebits * neg.toNat) := by
    rw [← Nat.mul_assoc, ← Nat.pow_add, ← width_sub_one hf]
    cases neg <;> simp [signBit]
  refine ⟨?_, ?_, ?_⟩
  · rw [code, Nat.testBit_eq_decide_div_mod_eq]
    cases neg
    · simp [signBit, Nat.div_eq_of_lt hlow]
    · rw [signBit, if_pos rfl, Nat.add_div_left _ (by positivity), Nat.div_eq_of_lt hlow]
      rfl
  · rw [bits, hfp, code, hsign, Nat.shiftRight_zero, Nat.mul_add_mod, Nat.mul_comm ex, Nat.mul_add_mod, Nat.mod_eq_of_lt hfrac]
  · rw [bits, hw, code, hsign, Nat.shiftRight_eq_div_pow, Nat.mul_add_div (by positivity), hdiv, Nat.mul_add_mod, Nat.mod_eq_of_lt hex]

end FloatFmt

end Sys2Proof

namespace Sys2Proof
namespace FloatFmt
variable {f : FloatFmt}

/-- A number's exponent field: below the top one, or the top one of a format whose NaN does not stand there. -/
def Finite (f : FloatFmt) (ex frac : Nat) : Prop :=
  ¬ (f.hasInf = true ∧ ex = 2 ^ f.ebits - 1) ∧ ¬ (f.hasNaN = true ∧ f.hasInf = false ∧ ex = 2 ^ f.ebits - 1 ∧ frac = 7)

/-- A code decoded: what the top exponent field holds, and the numbers. -/
theorem decode_code (hf : f.Usual) (neg : Bool) {ex frac : Nat} (hex : ex < 2 ^ f.ebits) (hfrac : frac < 2 ^ (f.p - 1)) :
    f.decode (f.code neg ex frac) =
      if f.hasInf = true ∧ ex = 2 ^ f.ebits - 1 then
        if frac = 0 then .inf neg else .nan neg (!frac.testBit (f.p - 2)) ((frac % 2 ^ (f.p - 2)) * 2 ^ (51 - (f.p - 2)))
      else if f.hasNaN = true ∧ f.hasInf = false ∧ ex = 2 ^ f.ebits - 1 ∧ frac = 7 then .nan neg false (3 * 2 ^ 49)
      else if ex = 0 then Val.mk neg frac (f.emin - (f.p - 1 : Nat))
      else .fin neg (2 ^ (f.p - 1) + frac) ((ex : Int) - f.bias - (f.p - 1 : Nat)) := by
  obtain ⟨hsign, hlow, hhigh⟩ := fields_code hf neg hex hfrac
  simp only [decode, hsign, hlow, hhigh, Bool.and_eq_true, beq_iff_eq, Bool.not_eq_true', and_assoc]

theorem decode_normal (hf : f.Usual) (neg : Bool) {ex frac : Nat} (hpos : 0 < ex) (hex : ex < 2 ^ f.ebits) (hfrac : frac < 2 ^ (f.p - 1))
    (hfin : f.Finite ex frac) :
    f.decode (f.code neg ex frac) = .fin neg (2 ^ (f.p - 1) + frac) ((ex : Int) - f.bias - (f.p - 1 : Nat)) := by
  rw [decode_code hf neg hex hfrac, if_neg hfin.1, if_neg hfin.2, if_neg hpos.ne']

theorem liftTiny_of_le {m : Nat} {e low : Int} (h : low ≤ (Nat.log2 m : Int) + e) : liftTiny m e low = (m, e) := if_neg (by omega)

/-- A value on the format's grid and within its range is rounded to its own code, and nothing is signalled (R108). -/
theorem roundFin_exact {rm : Rm} {rand16 : Nat} {sat neg : Bool} {m : Nat} {e : Int} (hlow : f.emin - f.p - 40 ≤ (Nat.log2 m : Int) + e)
    (htop : (Nat.log2 m : Int) + e ≤ f.bias + 1) (q : Int) (hq : q = max ((Nat.log2 m : Int) + e) f.emin - (f.p - 1 : Nat)) (hgrid : q ≤ e)
    (hmax : f.codeOf (m <<< (e - q).toNat) q ≤ f.maxCode) :
    f.roundFin rm rand16 sat neg m e = (f.signBit neg + f.codeOf (m <<< (e - q).toNat) q, {}) := by
  have hround : roundGrid rm rand16 neg m e q = (m <<< (e - q).toNat, false) := if_pos hgrid
  simp only [roundFin, liftTiny_of_le hlow, ← hq, hround, if_neg (not_lt.mpr htop), if_neg (not_lt.mpr hmax), Bool.and_false]

theorem log2_two_pow_add {k r : Nat} (h : r < 2 ^ k) : Nat.log2 (2 ^ k + r) = k := by
  rw [Nat.log2_eq_iff (by positivity), Nat.pow_succ]
  omega

/-- The largest number's code is the largest code of a number. -/
theorem fields_le_maxCode (hf : f.Usual) (hmem : f ∈ [f64, f32, f16, bf16, e4m3, e5m2, e2m1]) {ex frac : Nat} (hex : ex < 2 ^ f.ebits)
    (hfrac : frac < 2 ^ (f.p - 1)) (hfin : f.Finite ex frac) : ex * 2 ^ (f.p - 1) + frac ≤ f.maxCode := by
  simp only [List.mem_cons, List.not_mem_nil, or_false] at hmem
  rcases hmem with rfl | rfl | rfl | rfl | rfl | rfl | rfl <;>
    simp [maxCode, Finite, f64, f32, f16, bf16, e4m3, e5m2, e2m1, width] at * <;> omega

/-- A number of the format is its own rounding (R108). -/
theorem round_decode_code (hmem : f ∈ [f64, f32, f16, bf16, e4m3, e5m2, e2m1]) (rm : Rm) (rand16 : Nat) (sat neg : Bool) {ex frac : Nat}
    (hex : ex < 2 ^ f.ebits) (hfrac : frac < 2 ^ (f.p - 1)) (hnan : (f.decode (f.code neg ex frac)).isNaN = false) :
    f.round rm rand16 sat (f.decode (f.code neg ex frac)) = (f.code neg ex frac, {}) := by
  have hf := usual_of_mem hmem
  have hp := hf.precise
  have hbias := hf.bias
  rw [decode_code hf neg hex hfrac] at hnan ⊢
  split_ifs at hnan ⊢ with hinf h0 hnum hsub
  · simp [round, hinf, code, h0, infCode]
  · cases hnan
  · cases hnan
  · subst hsub
    unfold Val.mk
    split_ifs with hzero
    · simp [round, code, hzero]
    · have hlog : Nat.log2 frac < f.p - 1 := (Nat.log2_lt hzero).mpr hfrac
      have hself : f.codeOf (frac <<< (f.emin - (f.p - 1 : Nat) - (f.emin - (f.p - 1 : Nat))).toNat) (f.emin - (f.p - 1 : Nat)) =
          0 * 2 ^ (f.p - 1) + frac := by
        simp [codeOf, hfrac]
      rw [round, roundFin_exact (q := f.emin - (f.p - 1 : Nat)), hself, code]
      · omega
      · unfold emin; omega
      · omega
      · exact le_rfl
      · rw [hself]; exact fields_le_maxCode hf hmem hex hfrac ⟨hinf, hnum⟩
  · have hself : f.codeOf ((2 ^ (f.p - 1) + frac) <<< ((ex : Int) - f.bias - (f.p - 1 : Nat) - ((ex : Int) - f.bias - (f.p - 1 : Nat))).toNat)
        ((ex : Int) - f.bias - (f.p - 1 : Nat)) = ex * 2 ^ (f.p - 1) + frac := by
      have hexp : ((ex : Int) - f.bias - f.emin + 1).toNat = ex := by unfold emin; omega
      simp [codeOf, hexp]
    have hlog := log2_two_pow_add hfrac
    rw [round, roundFin_exact (q := (ex : Int) - f.bias - (f.p - 1 : Nat)), hself, code]
    · rw [hlog]; unfold emin; omega
    · rw [hlog]; omega
    · rw [hlog]; unfold emin; omega
    · exact le_rfl
    · rw [hself]; exact fields_le_maxCode hf hmem hex hfrac ⟨hinf, hnum⟩

theorem round_decode (hmem : f ∈ [f64, f32, f16, bf16, e4m3, e5m2, e2m1]) {x : Nat} (hx : x < 2 ^ f.width) (rm : Rm) (rand16 : Nat) (sat : Bool)
    (hnan : (f.decode x).isNaN = false) : f.round rm rand16 sat (f.decode x) = (x, {}) := by
  obtain ⟨neg, ex, frac, hex, hfrac, rfl⟩ := exists_code (usual_of_mem hmem) hx
  exact round_decode_code hmem rm rand16 sat neg hex hfrac hnan

/-! The numbers of RNGU (07 R154). -/

theorem usual_f32 : f32.Usual := usual_of_mem (by decide)

theorem code_f32 (ex frac : Nat) : f32.code false ex frac = ex * 2 ^ 23 + frac := Nat.zero_add _

/-- n × 2^−24 is a number of F32 for n below 2^24. -/
theorem round_f32_unit {n : Nat} (h0 : 0 < n) (h : n < 2 ^ 24) :
    ∃ ex frac, (f32.round .rne 0 false (.fin false n (-24))).1 = f32.code false ex frac ∧ ex = Nat.log2 n + 103 ∧ ex < 127 ∧
      frac < 2 ^ 23 ∧ 2 ^ 23 + frac = n * 2 ^ (23 - Nat.log2 n) := by
  have hlog : Nat.log2 n < 24 := (Nat.log2_lt h0.ne').mpr h
  have hlow : 2 ^ 23 ≤ n * 2 ^ (23 - Nat.log2 n) := by
    calc 2 ^ 23 = 2 ^ Nat.log2 n * 2 ^ (23 - Nat.log2 n) := by rw [← Nat.pow_add]; congr 1; omega
      _ ≤ _ := Nat.mul_le_mul_right _ (Nat.log2_self_le h0.ne')
  have hhigh : n * 2 ^ (23 - Nat.log2 n) < 2 ^ 24 := by
    calc _ < 2 ^ (Nat.log2 n + 1) * 2 ^ (23 - Nat.log2 n) := Nat.mul_lt_mul_of_pos_right Nat.lt_log2_self (by positivity)
      _ = 2 ^ 24 := by rw [← Nat.pow_add]; congr 1; omega
  have hshift : n <<< ((-24 : Int) - ((Nat.log2 n : Int) - 47)).toNat = n * 2 ^ (23 - Nat.log2 n) := by
    rw [Nat.shiftLeft_eq, show ((-24 : Int) - ((Nat.log2 n : Int) - 47)).toNat = 23 - Nat.log2 n by omega]
  have hcode : f32.codeOf (n * 2 ^ (23 - Nat.log2 n)) ((Nat.log2 n : Int) - 47) =
      (Nat.log2 n + 103) * 2 ^ 23 + (n * 2 ^ (23 - Nat.log2 n) - 2 ^ 23) := by
    have hexp : ((Nat.log2 n : Int) - 47 + (23 : Nat) - (1 - (127 : Nat)) + 1).toNat = Nat.log2 n + 103 := by omega
    simp only [codeOf, f32, emin, Nat.reduceSub, if_neg (not_lt.mpr hlow), hexp]
  have hmax : f32.maxCode = 255 * 2 ^ 23 - 1 := by decide
  have hemin : f32.emin = -126 := rfl
  have hp : f32.p = 24 := rfl
  have hbias : f32.bias = 127 := rfl
  refine ⟨Nat.log2 n + 103, n * 2 ^ (23 - Nat.log2 n) - 2 ^ 23, ?_, rfl, by omega, by omega, by omega⟩
  rw [round, roundFin_exact (q := (Nat.log2 n : Int) - 47), hshift, hcode, code, hp]
  · rw [hemin, hp]; omega
  · rw [hbias]; omega
  · rw [hemin, hp]; omega
  · omega
  · rw [hshift, hcode, hmax]
    omega

/-- What RNGU writes is n × 2^−24 exactly. -/
theorem round_unit_exact {n : Nat} (h : n < 2 ^ 24) :
    let v := (f32.round .rne 0 false (Val.ofInt (n : Nat) (-24))).1
    v < 2 ^ 31 ∧ (f32.decode v).mantAt (-149) = ((n * 2 ^ 125 : Nat) : Int) := by
  rcases Nat.eq_zero_or_pos n with rfl | h0
  · decide
  · have hval : Val.ofInt (n : Int) (-24) = .fin false n (-24) := by
      simp [Val.ofInt, Val.mk, h0.ne']
    obtain ⟨ex, frac, hcode, hex, hlt, hfrac, hsum⟩ := round_f32_unit h0 h
    have hlog : Nat.log2 n < 24 := (Nat.log2_lt h0.ne').mpr h
    simp only [hval, hcode]
    rw [decode_normal usual_f32 false (by omega) (hlt.trans (by decide)) hfrac ⟨fun hc => absurd hc.2 (by simp [f32]; omega), by simp [f32]⟩, code_f32]
    refine ⟨by omega, ?_⟩
    have hexp : ((ex : Int) - f32.bias - (f32.p - 1 : Nat) - -149).toNat = Nat.log2 n + 102 := by simp only [f32]; omega
    have hmant : (2 ^ (f32.p - 1) + frac) * 2 ^ (Nat.log2 n + 102) = n * 2 ^ 125 := by
      rw [show 2 ^ (f32.p - 1) = 2 ^ 23 from rfl, hsum, Nat.mul_assoc, ← Nat.pow_add]
      congr 2
      omega
    simp only [Val.mantAt, hexp, Nat.shiftLeft_eq, hmant]
    rfl

end FloatFmt
end Sys2Proof

namespace Sys2Proof.Machine

/-- The spec of an instruction whose form writes D of one tag from key, counter and stream. -/
theorem rngForm_runs (i : Instr) (o : Enc) (g : Tag) (val : Nat → Nat) (res : Nat → Thread → Thread → Prop)
    (he : ∀ s, exec i s = .next (s.regInstr o (rngForm o g val)))
    (hr : ∀ l t, res l t (t.write o.d.toNat false (BitVec.ofNat 64 (val (kmix (valA o true t) (valB o true t) (o.w2Bits 15 0)))) g)) :
    RunsOnRegisters i o true (fun _ => [o.regA true (.oneOf [.n64, .i64]), o.litB true (.oneOf [.n64, .i64])]) (some (o.d.toNat, false)) []
      always res :=
  regInstr_writes i o (rngForm o g val) _ _ _ _ res he (fun _ _ => rfl) fun l t _ => by
    simpa only [regA_value, litB_value] using hr l t

theorem w2Bits_lt (o : Enc) (hi lo : Nat) : o.w2Bits hi lo < 2 ^ (hi + 1 - lo) := Nat.mod_lt _ (by positivity)

theorem kmix_val_lt (o : Enc) (t : Thread) : kmix (valA o true t) (valB o true t) (o.w2Bits 15 0) < 2 ^ 32 :=
  kmix_lt (valA_lt o true t) (valB_lt o true t) (w2Bits_lt o 15 0)

end Sys2Proof.Machine

section
open Sys2Proof Sys2Proof.Machine

/-- Settles O9: kmix is followed on blocks of 64 bits (`kmix_toNat`); RNGU's number is exact (`FloatFmt.round_unit_exact`). -/
theorem randomNumbers : Obligations.RandomNumbers := by
  refine ⟨fun o => ⟨?rng, ?rngu, ?rmask⟩, fun key ctr stream => kmix_toNat key ctr stream⟩
  case rng => exact rngForm_runs _ o _ _ _ (fun _ => rfl) fun _ _ => rfl
  case rngu =>
    refine rngForm_runs _ o _ _ _ (fun _ => rfl) fun _ t => ?_
    have h := FloatFmt.round_unit_exact (n := kmix (valA o true t) (valB o true t) (o.w2Bits 15 0) / 256)
      (by have := kmix_val_lt o t; omega)
    exact ⟨_, rfl, h⟩
  case rmask =>
    refine regInstr_writes _ o (rmaskForm o) _ _ _ _ _ (fun _ => rfl) (fun _ _ => rfl) fun _ t _ => ⟨_, ?_, rfl, fun j hj => ?_⟩
    · refine Nat.lt_pow_two_of_testBit _ fun i hi => ?_
      rw [testBit_maskOf, decide_eq_false_iff_not, List.mem_filter, List.mem_range]
      omega
    · rw [testBit_maskOf]
      simp [hj]
end

/-! Rounding to a grid (06 R108), and the special results of the functions (07 R146). -/

namespace Sys2Proof

/-- The mode's choice between the multiples lo and lo + 1 of 2^s, r above the lower one (R108). -/
def Rm.goesUp (rm : Rm) (random : Nat) (neg : Bool) (lo r s : Nat) : Bool :=
  match rm with
  | .rne => decide (2 ^ s < 2 * r) || (decide (2 * r = 2 ^ s) && decide (lo % 2 = 1))
  | .rna => decide (2 ^ s ≤ 2 * r)
  | .rtz => false
  | .rdn => neg
  | .rup => !neg
  | .rto => decide (lo % 2 = 0)
  | .sr => decide (65536 ≤ r * 65536 / 2 ^ s + random % 65536)

/-- Rounding to a coarser grid: s bits are dropped, and they decide. -/
theorem roundGrid_coarse (rm : Rm) (random : Nat) (neg : Bool) (m : Nat) (e : Int) {s : Nat} (hs : 0 < s) :
    roundGrid rm random neg m e (e + s) =
      if m % 2 ^ s = 0 then (m / 2 ^ s, false)
      else (if rm.goesUp random neg (m / 2 ^ s) (m % 2 ^ s) s = true then m / 2 ^ s + 1 else m / 2 ^ s, true) := by
  obtain ⟨k, rfl⟩ : ∃ k, s = k + 1 := ⟨s - 1, by omega⟩
  have hto : (e + (k + 1 : Nat) - e).toNat = k + 1 := by omega
  have hhalf : (2 : Nat) ^ (k + 1) = 2 * 2 ^ k := by rw [Nat.pow_succ, Nat.mul_comm]
  have hlt : 2 ^ k < m % 2 ^ (k + 1) ↔ 2 ^ (k + 1) < 2 * (m % 2 ^ (k + 1)) := by omega
  have heq : m % 2 ^ (k + 1) = 2 ^ k ↔ 2 * (m % 2 ^ (k + 1)) = 2 ^ (k + 1) := by omega
  have hle : 2 ^ k ≤ m % 2 ^ (k + 1) ↔ 2 ^ (k + 1) ≤ 2 * (m % 2 ^ (k + 1)) := by omega
  unfold roundGrid
  rw [if_neg (by omega)]
  simp only [hto, Nat.add_sub_cancel, Nat.shiftRight_eq_div_pow, Nat.shiftLeft_eq, hlt, hle, beq_eq_decide, heq]
  split
  · rfl
  · cases rm <;> rfl

theorem firstNaN_none {l : List Val} (h : ∀ v ∈ l, v.isNaN = false) : firstNaN l = none := by
  induction l with
  | nil => rfl
  | cons v vs ih =>
    rw [firstNaN, if_neg (by simp [h v]), ih fun w hw => h w (List.mem_cons_of_mem _ hw)]

theorem firstNaN_head {v : Val} (h : v.isNaN = true) (vs : List Val) : firstNaN (v :: vs) = some v := if_pos h

theorem firstNaN_tail {v : Val} (h : v.isNaN = false) (vs : List Val) : firstNaN (v :: vs) = firstNaN vs := by
  rw [firstNaN, h, if_neg Bool.false_ne_true]

theorem Val.isSig_of_not_nan {v : Val} (h : v.isNaN = false) : v.isSig = false := by
  cases v with
  | nan => cases h
  | _ => rfl

end Sys2Proof

namespace Sys2Proof.Machine

/-- A NaN operand of a division is its result (06 R111). -/
theorem fpDiv_nan (log : Bool) (p : Nat) {u v w : Val} (h : firstNaN [u, v] = some w) :
    fpDiv log p u v = (w, { invalid := u.isSig || v.isSig }) := by
  unfold fpDiv
  rw [h]
  rfl

theorem log2Sticky_two_pow (p k : Nat) (e : Int) : log2Sticky p (2 ^ k) e = Val.ofInt (k + e) := by
  unfold log2Sticky
  rw [Nat.log2_two_pow]
  exact if_pos rfl

theorem log2Log_one : log2Log 1 0 = .zero false := rfl

theorem fpLog2_one (log : Bool) (p : Nat) : fpLog2 log p (.fin false 1 0) = (.zero false, {}) := by
  cases log
  · exact congrArg (fun v => (v, ({} : Exc))) (log2Sticky_two_pow p 0 0)
  · exact congrArg (fun v => (v, ({} : Exc))) log2Log_one

theorem specialResults (log : Bool) (p : Nat) : SpecialResults log p := by
  refine ⟨fun n n' m e _ => ?numbers, fun u v => ⟨fun hu => ?left, fun hu hv => ?right⟩, fun fn hfn n q y => ?nan⟩
  case numbers =>
    refine ⟨rfl, rfl, rfl, rfl, rfl, rfl, rfl, rfl, ?_, ?_, rfl, rfl, ?_, rfl, rfl, rfl, ?_, rfl, rfl, rfl, rfl, rfl, rfl, fpLog2_one log p,
      ?_, rfl⟩
    · cases n <;> rfl
    · cases n <;> rfl
    all_goals rintro rfl; rfl
  case left => exact fpDiv_nan log p (firstNaN_head hu _)
  case right =>
    rw [fpDiv_nan log p ((firstNaN_tail hu _).trans (firstNaN_head hv _)), Val.isSig_of_not_nan hu, Bool.false_or]
  case nan =>
    simp only [List.mem_cons, List.not_mem_nil, or_false] at hfn
    rcases hfn with rfl | rfl | rfl | rfl | rfl
    · exact fpDiv_nan log p rfl
    all_goals rfl

end Sys2Proof.Machine

section
open Sys2Proof Sys2Proof.Machine

/-- Settles O7: a coarser grid is reached by the mode's choice between two multiples (`roundGrid_coarse`); a number's code is taken
apart into its fields, which its rounding puts together again (`FloatFmt.round_decode`). -/
theorem rounding : Obligations.Rounding := by
  refine ⟨specialResults, fun random neg m s e hs => ?grid, fun g hg x random rm sat hx hnan => FloatFmt.round_decode hg hx rm random sat hnan⟩
  case grid =>
    intro lo r got
    have hexact (h0 : r = 0) (rm : Rm) : roundGrid rm random neg m e (e + s) = (lo, false) := by
      rw [roundGrid_coarse rm random neg m e hs, if_pos h0]
    have hchoice (h0 : r ≠ 0) (rm : Rm) :
        roundGrid rm random neg m e (e + s) = (if rm.goesUp random neg lo r s = true then lo + 1 else lo, true) := by
      rw [roundGrid_coarse rm random neg m e hs, if_neg h0]
    have hgot (h0 : r ≠ 0) (rm : Rm) : got rm = if rm.goesUp random neg lo r s = true then lo + 1 else lo := by
      simp only [got, hchoice h0]
    refine ⟨fun rm => ?_, fun h0 => ?_⟩
    · by_cases h0 : r = 0
      · simp [got, hexact h0, h0]
      · refine ⟨by simp [hchoice h0, h0], fun h => absurd h h0, ?_⟩
        rw [hgot h0]
        split
        · exact .inr rfl
        · exact .inl rfl
    · simp only [hgot h0, Rm.goesUp]
      clear_value lo r
      refine ⟨rfl, rfl, ?_, ?_, ?_, ?_, ?_, ?_, ?_⟩
      · cases neg <;> rfl
      · by_cases hodd : lo % 2 = 0 <;> simp [hodd] <;> omega
      · by_cases hlow : 2 * r < 2 ^ s <;> simp [hlow]
      · intro hlow; simp; omega
      · intro hhigh; simp [hhigh]
      · intro htie; by_cases hodd : lo % 2 = 1 <;> simp [htie, hodd] <;> omega
      · simp
end

/-! Elements of floating-point instructions (07 R141, R143 to R145, R148). -/

namespace Sys2Proof

theorem testBit_elem {w i : Nat} (x k : Nat) (hi : i < w) : (elem w x k).testBit i = x.testBit (w * k + i) := by
  simp [elem, Nat.testBit_mod_two_pow, hi]

/-- Bit j of packed elements. -/
theorem testBit_packElems {w : Nat} (l : List Nat) {j : Nat} (hw : 0 < w) (hj : j / w < l.length) :
    (packElems w l).testBit j = l[j / w].testBit (j % w) := by
  have hmod := Nat.mod_lt j hw
  have hbit := testBit_elem (packElems w l) (j / w) hmod
  rw [Nat.div_add_mod, elem_packElems _ _ _ hj, Nat.testBit_mod_two_pow] at hbit
  simpa [hmod] using hbit.symm

theorem Exc.and_foldl_or_eq_zero {es : List Exc} {en : Nat} (h : ∀ e ∈ es, e.toNat &&& en = 0) : (excUnion es).toNat &&& en = 0 := by
  refine Nat.eq_of_testBit_eq fun i => ?_
  rw [Nat.zero_testBit, Nat.testBit_land, excUnion, Exc.testBit_foldl_or, Bool.and_eq_false_iff]
  by_cases hen : en.testBit i = true
  · refine .inl (Bool.or_eq_false_iff.mpr ⟨Nat.zero_testBit i, List.any_eq_false.mpr fun e he hbit => ?_⟩)
    have hzero := congrArg (Nat.testBit · i) (h e he)
    simp [hbit, hen] at hzero
  · exact .inr (Bool.not_eq_true _ ▸ hen)

/-- With no enabled exception among those signalled there is no ARITH. -/
theorem arithInfo_quiet {rnd : Word} {es : List Exc} (h : ∀ e ∈ es, e.toNat &&& bits rnd.toNat 12 8 = 0) : arithInfo rnd es = none :=
  if_pos (Exc.and_foldl_or_eq_zero h)

/-! Order of values. -/

theorem Val.lt_asymm (a b : Val) (h : a.lt b = true) : b.lt a = false := by
  cases a with
  | fin n m e =>
    cases b with
    | fin n' m' e' =>
      simp only [Val.lt, decide_eq_true_eq, decide_eq_false_iff_not, min_comm e' e] at h ⊢
      omega
    | _ => simp_all [Val.lt, Val.neg]
  | _ => cases b <;> simp_all [Val.lt, Val.neg]

theorem Val.ltMin_eq (a b : Val) : a.ltMin b = (a.lt b || (a.isZero && b.isZero && a.neg && !b.neg)) := rfl

end Sys2Proof

namespace Sys2Proof.Machine

/-- The result of FMIN or FMAX by its NaN operands (R143). -/
theorem fminmax_eq (isMax prop : Bool) (a b : Val) :
    fminmax isMax prop a b =
      (if (a.isNaN && b.isNaN) = true then a
        else if a.isNaN = true then (if prop = true then a else b)
        else if b.isNaN = true then (if prop = true then b else a)
        else if isMax = true then (if a.ltMin b = true then b else a) else (if b.ltMin a = true then b else a),
        a.isSig || b.isSig) := by
  unfold fminmax
  cases ha : a.isNaN <;> cases hb : b.isNaN <;> rfl

theorem finishElems_quiet {o : Enc} {f : Tag} {t : Thread} {rs : List (Nat × Exc)} (h : Quiet t (rs.map (·.2))) :
    finishElems o f t rs = .inl (t.write o.d.toNat f.wide (BitVec.ofNat 64 (packElems f.elemBits (rs.map (·.1)))) f) := by
  unfold finishElems
  rw [arithInfo_quiet h]

/-- Packed elements in D. -/
theorem writesElems_pack (o : Enc) (f : Tag) (g : Nat → Nat) (t : Thread) :
    WritesElems o f (fun k => g k % 2 ^ f.elemBits) t
      (t.write o.d.toNat f.wide (BitVec.ofNat 64 (packElems f.elemBits ((List.range f.count).map g))) f) := by
  refine ⟨_, rfl, packElems_range_lt _ _ g, fun k hk => ?_⟩
  rw [elem_packElems _ _ _ (by simpa using hk)]
  simp

/-- The spec of an instruction that rounds each element once: with no enabled exception signalled it writes the elements. -/
theorem fpElems_runs (i : Instr) (o : Enc) (f : Tag) (form : RegForm) (r : Thread → Nat → Nat × Exc) (he : ∀ s, exec i s = .next (s.regInstr o form))
    (hbody : ∀ l t, form.body l t = finishElems o f t ((List.range f.count).map (r t))) :
    RunsOnRegisters i o form.short (fun t => form.more t ++ form.srcs) form.dst form.preds (Calm f r) (WritesRounded o f r) := by
  refine regInstr_runs i o form _ _ he fun l t hcalm _ => ⟨_, ?_, writesElems_pack o f (fun k => (r t k).1) t, by simp, by simp⟩
  rw [hbody, finishElems_quiet (by rwa [List.map_map]), List.map_map]
  rfl

/-- The spec of a two-operand form under the statement's own operands; with SR the third gives the random numbers (R141). -/
theorem fpBinForm_runs (i : Instr) (o : Enc) (short : Bool) (g : FloatFmt → Rm → Val → Val → Val × Bool)
    (he : ∀ s, exec i s = .next (s.regInstr o (fpBinForm o short g))) :
    let f := o.fmt .f32
    let ff := floatOf f
    let r (t : Thread) (k : Nat) := roundWith ff (roundOf o t) (bits (valC o false t) (16 * k + 15) (16 * k)) false
      (g ff (roundOf o t) (ff.decode (elem f.elemBits (valA o f.wide t) k)) (ff.decode (elem f.elemBits (valB o f.wide t) k)))
    RunsOnRegisters i o short (fun _ =>
      if (o.isExt && o.rm == 5) = true then [o.regA f.wide (.only f), o.litB f.wide (.only f), o.regC false (.only .n32)]
      else [o.regA f.wide (.only f), o.litB f.wide (.only f)]) (dstD o f) [] (Calm f r) (WritesRounded o f r) :=
  fpElems_runs i o (o.fmt .f32) (fpBinForm o short g) _ he fun l t => by
    simp only [fpBinForm, regA_value, litB_value, regC_value, rand16]

theorem ffma_runs (o : Enc) :
    let f := o.fmt .f32
    let ff := floatOf f
    let r (t : Thread) (k : Nat) := roundWith ff (roundOf o t) 0 false (fpFma (scalarClass o ff.p) (roundOf o t)
      (ff.decode (elem f.elemBits (valA o f.wide t) k)) (ff.decode (elem f.elemBits (valB o f.wide t) k))
      (ff.decode (elem f.elemBits (valC o f.wide t) k)))
    RunsOnRegisters (.ffma o) o false (opsABC o f) (dstD o f) [] (Calm f r) (WritesRounded o f r) :=
  fpElems_runs (.ffma o) o (o.fmt .f32) (ffmaForm o) _ (fun _ => rfl) fun l t => by
    simp only [ffmaForm, regA_value, litB_value, regC_value]

theorem minMaxForm_runs (i : Instr) (o : Enc) (isMax : Bool) (he : ∀ s, exec i s = .next (s.regInstr o (minMaxForm o isMax))) :
    let f := o.fmt .f32
    let ff := floatOf f
    let r (t : Thread) (k : Nat) : Nat × Exc :=
      let v := fminmax isMax (o.modBit 0) (ff.decode (elem f.elemBits (valA o f.wide t) k)) (ff.decode (elem f.elemBits (valB o f.wide t) k))
      ((ff.round .rne 0 false v.1).1, { invalid := v.2 })
    RunsOnRegisters i o true (opsAB o f) (dstD o f) [] (Calm f r) (WritesRounded o f r) :=
  fpElems_runs i o (o.fmt .f32) (minMaxForm o isMax) _ he fun l t => by
    simp only [minMaxForm, regA_value, litB_value]

/-- FABS and FNEG work bit by bit (R144). -/
theorem signForm_runs (i : Instr) (o : Enc) (g : Nat → Nat → Nat) (b : Bool → Bool → Bool)
    (he : ∀ s, exec i s = .next (s.regInstr o (signForm o g)))
    (hg : ∀ w x j, j < w → (g w x).testBit j = b (x.testBit j) (j == w - 1)) (hw : 0 < (o.fmt .f32).elemBits) :
    let f := o.fmt .f32
    RunsOnRegisters i o true (opsA o f) (dstD o f) [] always (fun _ t => WritesBits o f (f.elemBits * f.count)
      (fun j => b ((valLitA o f.wide t).testBit j) (j % f.elemBits == f.elemBits - 1)) t) := by
  refine unForm_runs i o .f32 _ _ he fun _ t => ⟨_, rfl, packElems_range_lt _ _ _, fun j hj => ?_⟩
  have hmod := Nat.mod_lt j hw
  have hdiv : j / (o.fmt .f32).elemBits < (o.fmt .f32).count := Nat.div_lt_of_lt_mul hj
  rw [testBit_packElems _ hw (by simpa using hdiv), List.getElem_map, List.getElem_range, hg _ _ _ hmod, testBit_elem _ _ hmod, Nat.div_add_mod]

/-- The class of a code stands below 16 (R144). -/
theorem classBit_lt (f : FloatFmt) (x : Nat) : f.classBit x < 16 := by
  unfold FloatFmt.classBit
  split <;> split_ifs <;> decide

theorem packElems_two_pow {k c : Nat} (h : c < 16) : packElems 16 [2 ^ c] = 2 ^ c ∧ (k < 16 → packElems 16 [2 ^ c, 2 ^ k] = 2 ^ c + 2 ^ (16 + k)) := by
  have hlt {j : Nat} (hj : j < 16) : 2 ^ j % 2 ^ 16 = 2 ^ j := Nat.mod_eq_of_lt (Nat.pow_lt_pow_right (by decide) hj)
  refine ⟨by simp only [packElems, hlt h, Nat.mul_zero, Nat.add_zero], fun hk => ?_⟩
  simp only [packElems, hlt h, hlt hk, Nat.mul_zero, Nat.add_zero, Nat.pow_add]

/-- The condition of FCMP by its code (R145). -/
def fcmpHolds (code : Nat) (a b : Val) : Bool :=
  let unordered := a.isNaN || b.isNaN
  let equal := !unordered && !a.lt b && !b.lt a
  match code with
  | 0 => equal
  | 1 => !equal
  | 2 => !unordered && a.lt b
  | 3 => !unordered && !b.lt a
  | 4 => !unordered && b.lt a
  | 5 => !unordered && !a.lt b
  | 6 => unordered
  | _ => !unordered

theorem fcmpCond_eq {code : Nat} (h : code < 8) (a b : Val) :
    fcmpCond code a b = (fcmpHolds code a b, if 2 ≤ code ∧ code ≤ 5 then a.isNaN || b.isNaN else a.isSig || b.isSig) := by
  have hasymm := Val.lt_asymm a b
  unfold fcmpCond fcmpHolds condOf Val.sameAs
  cases a.isNaN
  case true => interval_cases code <;> rfl
  case false =>
    cases b.isNaN
    case true => interval_cases code <;> rfl
    case false =>
      cases hab : a.lt b
      case false => cases b.lt a <;> interval_cases code <;> rfl
      case true => simp only [hasymm hab]; interval_cases code <;> rfl

theorem cond_lt (o : Enc) : Enc.cond o < 8 := by
  unfold Enc.cond
  split
  · exact Nat.mod_lt _ (by decide)
  · decide

theorem combine_eq (comb : Nat) (c pb : Bool) : combine comb c pb = match comb with
    | 0 => c
    | 1 => c && pb
    | 2 => c || pb
    | _ => c != pb := rfl

/-- The formats FS of 07 R128 have one element or two. -/
theorem setFS_count {f : Tag} (h : f ∈ Encoding.setFS) : f.count = 1 ∨ f.count = 2 := by
  simp only [Encoding.setFS, List.mem_cons, List.not_mem_nil, or_false] at h
  rcases h with rfl | rfl | rfl | rfl <;> decide

theorem setFS_elemBits {f : Tag} (h : f ∈ Encoding.setFS) : 0 < f.elemBits := by
  simp only [Encoding.setFS, List.mem_cons, List.not_mem_nil, or_false] at h
  rcases h with rfl | rfl | rfl | rfl <;> decide

/-- FCMP writes its condition, and that of element 1 or its complement (R145). -/
theorem fcmp_runs (o : Enc) (hf : o.fmt .f32 ∈ Encoding.setFS) :
    let f := o.fmt .f32
    let a (t : Thread) (k : Nat) : Val := (floatOf f).decode (elem f.elemBits (valA o f.wide t) k)
    let b (t : Thread) (k : Nat) : Val := (floatOf f).decode (elem f.elemBits (valB o f.wide t) k)
    let holds (t : Thread) (k : Nat) : Bool := fcmpHolds (Enc.cond o) (a t k) (b t k)
    let invalid (t : Thread) (k : Nat) : Exc :=
      { invalid := if 2 ≤ Enc.cond o ∧ Enc.cond o ≤ 5 then (a t k).isNaN || (b t k).isNaN else (a t k).isSig || (b t k).isSig }
    RunsOnRegisters (.fcmp o) o true (opsAB o f) none (Enc.cmpPreds o) (fun t => Quiet t ((List.range f.count).map (invalid t))) (fun _ t u =>
      u = t.compared o (holds t 0) (if f.count = 1 then !holds t 0 else holds t 1)) := by
  intro f a b holds invalid
  have hbody (l : Nat) (t : Thread) (hquiet : Quiet t ((List.range f.count).map (invalid t))) :
      (fcmpForm o).body l t = .inl (t.compared o (holds t 0) (if f.count = 1 then !holds t 0 else holds t 1)) := by
    have hexc : (List.range f.count).map (fun k => ({ invalid := (fcmpCond (Enc.cond o) (a t k) (b t k)).2 } : Exc)) =
        (List.range f.count).map (invalid t) := by
      simp only [fcmpCond_eq (cond_lt o), invalid]
    simp only [fcmpForm, regA_value, litB_value, List.map_map, Function.comp_def]
    rw [show arithInfo t.rnd _ = none from (congrArg (arithInfo t.rnd) hexc).trans (arithInfo_quiet hquiet)]
    rcases setFS_count hf with hc | hc
    · simp [f, hc, fcmpCond_eq (cond_lt o), holds, a, b]
    · simp [f, hc, fcmpCond_eq (cond_lt o), holds, a, b, List.range_succ]
  refine regInstr_runs (.fcmp o) o (fcmpForm o) _ _ (fun _ => rfl) fun l t hquiet _ => ⟨_, hbody l t hquiet, rfl, ?_⟩
  unfold Thread.compared
  split <;> simp

/-- FCLASS writes one bit for each element, 16 bits apart (R144). -/
theorem fclass_runs (o : Enc) (hf : o.fmt .f32 ∈ Encoding.setFS) :
    let f := o.fmt .f32
    let cls (t : Thread) (k : Nat) : Nat := (floatOf f).classBit (elem f.elemBits (valLitA o f.wide t) k)
    RunsOnRegisters (.fclass o) o true (opsA o f) (some (o.d.toNat, false)) [] always (fun _ t u =>
      u = t.write o.d.toNat false (BitVec.ofNat 64 (if f.count = 1 then 2 ^ cls t 0 else 2 ^ cls t 0 + 2 ^ (16 + cls t 1))) .n32) := by
  intro f cls
  refine regInstr_writes (.fclass o) o (fclassForm o) _ _ _ _ _ (fun _ => rfl) (fun _ _ => rfl) fun _ t _ => ?_
  have hcls (k : Nat) : cls t k < 16 := classBit_lt _ _
  simp only [litA_value]
  rcases setFS_count hf with hc | hc
  · rw [if_pos hc, hc]
    exact congrArg (fun v => t.write o.d.toNat false (BitVec.ofNat 64 v) .n32) (packElems_two_pow (k := 0) (hcls 0)).1
  · rw [if_neg (hc.trans_ne (by decide)), hc]
    exact congrArg (fun v => t.write o.d.toNat false (BitVec.ofNat 64 v) .n32) ((packElems_two_pow (hcls 0)).2 (hcls 1))

end Sys2Proof.Machine

/-! Sums and products of values as real numbers (06 R110, R111, R114 to R116). -/

namespace Sys2Proof

theorem realOf_neg (n : Bool) (m : Nat) (e : Int) : realOf (!n) m e = -realOf n m e := by
  cases n <;> simp [realOf]

theorem realOf_zero (n : Bool) (e : Int) : realOf n 0 e = 0 := by simp [realOf]

/-- A magnitude on a finer grid. -/
theorem realOf_mul_two_pow (n : Bool) (m k : Nat) (e : Int) : realOf n (m * 2 ^ k) e = realOf n m (e + k) := by
  simp only [realOf, Nat.cast_mul, Nat.cast_pow, Nat.cast_ofNat, zpow_add₀ (two_ne_zero' ℝ), zpow_natCast]
  ring

theorem realOf_mul (n n' : Bool) (m m' : Nat) (e e' : Int) : realOf n m e * realOf n' m' e' = realOf (n ^^ n') (m * m') (e + e') := by
  have hsign : (if (n ^^ n') = true then (-1 : ℝ) else 1) = (if n = true then -1 else 1) * (if n' = true then -1 else 1) := by
    cases n <;> cases n' <;> norm_num
  simp only [realOf, hsign, Nat.cast_mul, zpow_add₀ (two_ne_zero' ℝ)]
  ring

theorem realOf_pos (m : Nat) (e : Int) (h : 0 < m) : 0 < realOf false m e := by
  simp only [realOf, Bool.false_eq_true, ↓reduceIte, one_mul]
  positivity

theorem realOf_ne_zero (n : Bool) {m : Nat} (e : Int) (h : 0 < m) : realOf n m e ≠ 0 := by
  have := (realOf_pos m e h).ne'
  cases n
  · exact this
  · rwa [← Bool.not_false, realOf_neg, neg_ne_zero]

namespace Val

theorem mk_zero (n : Bool) (e : Int) : Val.mk n 0 e = .zero n := rfl
theorem mk_pos (n : Bool) {m : Nat} (e : Int) (h : 0 < m) : Val.mk n m e = .fin n m e := if_neg h.ne'

theorem is_zero {n : Bool} {x : ℝ} : (Val.zero n).Is x ↔ x = 0 := Iff.rfl
theorem is_fin {n : Bool} {m : Nat} {e : Int} {x : ℝ} : (Val.fin n m e).Is x ↔ 0 < m ∧ x = realOf n m e := Iff.rfl

theorem is_mk (n : Bool) (m : Nat) (e : Int) : (Val.mk n m e).Is (realOf n m e) := by
  rcases Nat.eq_zero_or_pos m with rfl | h
  · exact realOf_zero n e
  · rw [mk_pos n e h]
    exact ⟨h, rfl⟩

theorem neg_mk (n : Bool) (m : Nat) (e : Int) : (Val.mk n m e).neg = n := by
  unfold Val.mk
  split <;> rfl

theorem isNaN_mk (n : Bool) (m : Nat) (e : Int) : (Val.mk n m e).isNaN = false := by
  unfold Val.mk
  split <;> rfl

theorem is_ofInt (x : Int) (e : Int) : (Val.ofInt x e).Is (x * 2 ^ e) := by
  have h := is_mk (decide (x < 0)) x.natAbs e
  have hx : (x : ℝ) * 2 ^ e = realOf (decide (x < 0)) x.natAbs e := by
    simp only [realOf, decide_eq_true_eq, Nat.cast_natAbs, Int.cast_abs]
    split
    · rw [abs_of_neg (by exact_mod_cast ‹x < 0›)]; ring
    · rw [abs_of_nonneg (by exact_mod_cast not_lt.mp ‹¬x < 0›)]; ring
  rwa [hx]

/-- The mantissa of a number on a grid that holds it. -/
theorem mantAt_mul (n : Bool) (m : Nat) {e q : Int} (h : q ≤ e) : ((Val.fin n m e).mantAt q : ℝ) * 2 ^ q = realOf n m e := by
  have hgrid : realOf n m e = realOf n (m * 2 ^ (e - q).toNat) q := by
    rw [realOf_mul_two_pow]
    congr 1
    omega
  rw [hgrid]
  cases n <;> simp [mantAt, realOf, Nat.shiftLeft_eq]

/-- The sum of two numbers is exact (R110). -/
theorem add_fin (rm : Rm) (n n' : Bool) (m m' : Nat) (e e' : Int) :
    let r := Val.add rm (.fin n m e) (.fin n' m' e')
    r.1.Is (realOf n m e + realOf n' m' e') ∧ r.2 = false ∧ (realOf n m e + realOf n' m' e' = 0 → r.1 = .zero (rm == .rdn)) := by
  let q := min e e'
  let s := (Val.fin n m e).mantAt q + (Val.fin n' m' e').mantAt q
  have hsum : (s : ℝ) * 2 ^ q = realOf n m e + realOf n' m' e' := by
    rw [Int.cast_add, add_mul, mantAt_mul n m (min_le_left e e'), mantAt_mul n' m' (min_le_right e e')]
  have hadd : Val.add rm (.fin n m e) (.fin n' m' e') = (if s = 0 then .zero (rm == .rdn) else Val.ofInt s q, false) := rfl
  rw [hadd, ← hsum]
  refine ⟨?_, rfl, fun h0 => if_pos ?_⟩
  · dsimp only
    split
    · simp [is_zero, ‹s = 0›]
    · exact is_ofInt s q
  · exact_mod_cast (mul_eq_zero_iff_right (by positivity)).mp h0

theorem add_snd_of_nan (rm : Rm) {u v : Val} (h : u.isNaN = true ∨ v.isNaN = true) : (Val.add rm u v).2 = false := by
  rcases h with h | h
  · cases u with
    | nan => cases v <;> rfl
    | _ => cases h
  · cases v with
    | nan => cases u <;> rfl
    | _ => cases h

theorem mul_snd_of_nan (c : AccClass) {u v : Val} (h : u.isNaN = true ∨ v.isNaN = true) : (Val.mul c u v).2 = false := by
  rcases h with h | h
  · cases u with
    | nan => cases v <;> rfl
    | _ => cases h
  · cases v with
    | nan => cases u <;> rfl
    | _ => cases h

/-- A product of operands that are not NaN is NaN only as 0 × ∞. -/
theorem mul_cases (c : AccClass) {u v : Val} (hu : u.isNaN = false) (hv : v.isNaN = false) :
    Val.mul c u v = (Val.defaultNaN, true) ∨ ((Val.mul c u v).1.isNaN = false ∧ (Val.mul c u v).2 = false) := by
  cases u with
  | nan => cases hu
  | inf n => cases v with
    | nan => cases hv
    | zero => exact .inl rfl
    | _ => exact .inr ⟨rfl, rfl⟩
  | zero n => cases v with
    | nan => cases hv
    | inf => exact .inl rfl
    | _ => exact .inr ⟨rfl, rfl⟩
  | fin n m e => cases v with
    | nan => cases hv
    | fin n' m' e' => exact .inr ⟨isNaN_mk _ _ _, rfl⟩
    | _ => exact .inr ⟨rfl, rfl⟩

theorem isNaN_negate (v : Val) : v.negate.isNaN = v.isNaN := by cases v <;> rfl

end Val

/-- Mitchell's product, as the sum of the logarithms' linear parts says it (R116). -/
theorem mitchell_cast {a b : Nat} (ha : 0 < a) (hb : 0 < b) :
    let sum : ℝ := ((a : ℝ) / 2 ^ Nat.log2 a - 1) + ((b : ℝ) / 2 ^ Nat.log2 b - 1)
    (mitchell a b : ℝ) = if sum < 1 then 2 ^ (Nat.log2 a + Nat.log2 b) * (1 + sum) else 2 ^ (Nat.log2 a + Nat.log2 b + 1) * sum := by
  intro sum
  have hka := Nat.log2_self_le ha.ne'
  have hkb := Nat.log2_self_le hb.ne'
  let s := (a - 2 ^ Nat.log2 a) * 2 ^ Nat.log2 b + (b - 2 ^ Nat.log2 b) * 2 ^ Nat.log2 a
  have hs : (s : ℝ) = 2 ^ (Nat.log2 a + Nat.log2 b) * sum := by
    simp only [s, sum, Nat.cast_add, Nat.cast_mul, Nat.cast_sub hka, Nat.cast_sub hkb, Nat.cast_pow, Nat.cast_ofNat, pow_add]
    field_simp
  have hlt : s < 2 ^ (Nat.log2 a + Nat.log2 b) ↔ sum < 1 := by
    rw [← Nat.cast_lt (α := ℝ), hs, Nat.cast_pow, Nat.cast_ofNat, mul_lt_iff_lt_one_right (by positivity)]
  have hdef : mitchell a b = if s < 2 ^ (Nat.log2 a + Nat.log2 b) then 2 ^ (Nat.log2 a + Nat.log2 b) + s else 2 * s := rfl
  rw [hdef]
  split
  · rw [if_pos (hlt.mp ‹_›), Nat.cast_add, hs, Nat.cast_pow, Nat.cast_ofNat]
    ring
  · rw [if_neg (mt hlt.mpr ‹_›), Nat.cast_mul, hs, Nat.cast_ofNat, pow_succ]
    ring

/-- The product of two numbers in a class (R114 to R116). -/
theorem Val.mul_fin (cls : AccClass) (n n' : Bool) {m m' : Nat} (e e' : Int) (hm : 0 < m) (hm' : 0 < m') :
    (Val.mul cls (.fin n m e) (.fin n' m' e')).1.Is (match cls with
      | .exact => realOf n m e * realOf n' m' e'
      | .trunc p h => realOf n m e * realOf n' (m' - m' % 2 ^ (p - h)) e'
      | .log =>
        let ex : Int := Nat.log2 m + e
        let ey : Int := Nat.log2 m' + e'
        let sum : ℝ := ((m : ℝ) / 2 ^ Nat.log2 m - 1) + ((m' : ℝ) / 2 ^ Nat.log2 m' - 1)
        (if n != n' then -1 else 1) * (if sum < 1 then 2 ^ (ex + ey) * (1 + sum) else 2 ^ (ex + ey + 1) * sum)) := by
  have hmk := Val.is_mk (n ^^ n') (cls.mul m m') (e + e')
  cases cls with
  | exact =>
    rw [realOf_mul]
    exact hmk
  | trunc p h => rwa [AccClass.mul, ← realOf_mul] at hmk
  | log =>
    refine (congrArg (Val.Is _) ?_).mp hmk
    simp only [AccClass.mul, realOf, mitchell_cast hm hm']
    have hexp : (2 : ℝ) ^ ((Nat.log2 m : Int) + e + (Nat.log2 m' + e')) = 2 ^ (Nat.log2 m + Nat.log2 m') * 2 ^ (e + e') := by
      rw [← zpow_natCast, ← zpow_add₀ (two_ne_zero' ℝ)]
      congr 1
      push_cast
      ring
    rw [zpow_add_one₀ (two_ne_zero' ℝ), hexp, pow_succ]
    split_ifs <;> ring

end Sys2Proof

namespace Sys2Proof.Machine

/-! The NaN rules of the four operations (R110, R111). -/

theorem withNaN_of_none {ops : List Val} (h : firstNaN ops = none) (r : Val × Bool) : withNaN ops r = r := by
  unfold withNaN
  rw [h]

theorem withNaN_left {u : Val} (h : u.isNaN = true) (v : Val) {r : Val × Bool} (hr : r.2 = false) :
    withNaN [u, v] r = (u, u.isSig || v.isSig) := by
  simp [withNaN, firstNaN_head h, hr]

theorem withNaN_right {u v : Val} (hu : u.isNaN = false) (hv : v.isNaN = true) {r : Val × Bool} (hr : r.2 = false) :
    withNaN [u, v] r = (v, v.isSig) := by
  simp [withNaN, firstNaN_tail hu, firstNaN_head hv, hr, Val.isSig_of_not_nan hu]

/-- A NaN operand is passed on, the first of two (R111). -/
theorem nan_passes (rm : Rm) (cls : AccClass) (u v : Val) (op : Val → Val → Val × Bool) (hop : op ∈ [fpAdd rm, fpSub rm, fpMul cls]) :
    (u.isNaN = true → op u v = (u, u.isSig || v.isSig)) ∧ (u.isNaN = false → v.isNaN = true → op u v = (v, v.isSig)) := by
  have hnan : ∃ r : Val × Bool, op u v = withNaN [u, v] r ∧ (u.isNaN = true ∨ v.isNaN = true → r.2 = false) := by
    simp only [List.mem_cons, List.not_mem_nil, or_false] at hop
    rcases hop with rfl | rfl | rfl
    · exact ⟨_, rfl, Val.add_snd_of_nan rm⟩
    · exact ⟨_, rfl, fun h => Val.add_snd_of_nan rm (by rwa [Val.isNaN_negate])⟩
    · exact ⟨_, rfl, Val.mul_snd_of_nan cls⟩
  obtain ⟨r, hr, hsnd⟩ := hnan
  rw [hr]
  exact ⟨fun hu => withNaN_left hu v (hsnd (.inl hu)), fun hu hv => withNaN_right hu hv (hsnd (.inr hv))⟩

theorem fpFma_nan (cls : AccClass) (rm : Rm) (u v w : Val) {z : Val} (h : firstNaN [u, v, w] = some z) :
    fpFma cls rm u v w = (z, u.isSig || v.isSig || w.isSig || (!u.isNaN && !v.isNaN && (fpMul cls u v).2)) := by
  have hbad : (!u.isNaN && !v.isNaN && (Val.mul cls u v).2) = (!u.isNaN && !v.isNaN && (fpMul cls u v).2) := by
    cases hu : u.isNaN
    · cases hv : v.isNaN
      · rw [fpMul, withNaN_of_none (by rw [firstNaN_tail hu, firstNaN_tail hv]; rfl)]
      · rfl
    · rfl
  simp only [fpFma, h, hbad, List.any_cons, List.any_nil, Bool.or_false, Bool.or_assoc]

theorem isNaN_of_firstNaN_none {l : List Val} (h : firstNaN l = none) : ∀ v ∈ l, v.isNaN = false := by
  induction l with
  | nil => simp
  | cons v vs ih =>
    cases hv : v.isNaN
    · rw [firstNaN_tail hv] at h
      simpa [hv] using ih h
    · rw [firstNaN_head hv] at h
      cases h

theorem fpFma_numbers (cls : AccClass) (rm : Rm) {u v w : Val} (h : firstNaN [u, v, w] = none) :
    fpFma cls rm u v w = if (fpMul cls u v).2 = true then (Val.defaultNaN, true) else fpAdd rm (fpMul cls u v).1 w := by
  have hnan := isNaN_of_firstNaN_none h
  have hu := hnan u (by simp)
  have hv := hnan v (by simp)
  have hw := hnan w (by simp)
  have hmul : fpMul cls u v = Val.mul cls u v := withNaN_of_none (firstNaN_none (by simp [hu, hv])) _
  rw [hmul]
  simp only [fpFma, h]
  rcases Val.mul_cases cls hu hv with hbad | ⟨hnum, hok⟩
  · rw [hbad]; rfl
  · rw [hok, fpAdd, withNaN_of_none (firstNaN_none (by simp [hnum, hw]))]
    rfl

end Sys2Proof.Machine

section
open Sys2Proof Sys2Proof.Machine

/-- Settles O5: each instruction follows from its form's spec (`fpElems_runs`); sums are exact on the finer of two grids
(`Val.add_fin`), products in their class (`Val.mul_fin`). -/
theorem floatArithmeticAndSelection : Obligations.FloatArithmeticAndSelection := by
  refine ⟨fun o _ => ⟨?fadd, ?fsub, ?fmul, ?ffma⟩, fun o hf => ⟨?fmin, ?fmax, ?fabs, ?fneg, ?fcmp, ?fclass⟩, ?values, ?nans⟩
  case fadd => exact fpBinForm_runs (.fadd o) o true _ fun _ => rfl
  case fsub => exact fpBinForm_runs (.fsub o) o true _ fun _ => rfl
  case fmul => exact fpBinForm_runs (.fmul o) o false _ fun _ => rfl
  case ffma => exact ffma_runs o
  case fmin =>
    have h := minMaxForm_runs (.fmin o) o false fun _ => rfl
    simp only [fminmax_eq] at h
    exact h
  case fmax =>
    have h := minMaxForm_runs (.fmax o) o true fun _ => rfl
    simp only [fminmax_eq] at h
    exact h
  case fabs =>
    exact signForm_runs (.fabs o) o _ (fun x top => x && !top) (fun _ => rfl) (fun w x j hj => by
      rw [Nat.testBit_mod_two_pow]
      by_cases hj : j = w - 1
      · simp [hj]
      · have : j < w - 1 := by omega
        simp [hj, this]) (setFS_elemBits hf)
  case fneg =>
    exact signForm_runs (.fneg o) o _ (fun x top => x != top) (fun _ => rfl) (fun w x j hj => by
      simp [Nat.testBit_xor, Nat.testBit_two_pow, eq_comm, beq_eq_decide]) (setFS_elemBits hf)
  case fcmp => exact fcmp_runs o hf
  case fclass => exact fclass_runs o hf
  case values =>
    intro rm cls n n' m m' e e' hm hm' x y rx ry
    refine ⟨Val.add_fin rm n n' m m' e e', ?_, rfl, rfl, rfl, rfl, rfl, ?_, rfl, ?_, ?_, ⟨rfl, ?_, ?_⟩, ?_, ?_, rfl, rfl⟩
    · have h := Val.add_fin rm n (!n') m m' e e'
      rw [realOf_neg, ← sub_eq_add_neg] at h
      exact h
    · cases n <;> cases n' <;> rfl
    · cases n <;> cases n' <;> rfl
    · simp [y, fpAdd, fpSub, withNaN, firstNaN, Val.add, Val.negate, Val.isNaN]
    · exact Val.neg_mk _ _ _
    · exact Val.mul_fin cls n n' e e' hm hm'
    · simp [y, fpMul, withNaN, firstNaN, Val.mul, Val.neg, Val.isNaN]
    · simp [y, fpMul, withNaN, firstNaN, Val.mul, Val.neg, Val.isNaN]
  case nans =>
    exact fun rm cls u v w => ⟨nan_passes rm cls u v, fun z hz => fpFma_nan cls rm u v w hz, fun h => fpFma_numbers cls rm h⟩
end

/-! Correct rounding (06 R114): a value that lies as the real number does to every number of p + 2 bits. -/

namespace Sys2Proof

/-- Between a and b there is no number of p + 2 bits. -/
def Bare (p : Nat) (a b : ℝ) : Prop := ∀ c j : ℤ, |c| < 2 ^ (p + 2) → |j| ≤ 2000 → (c * 2 ^ j : ℝ) ≤ a ∨ b ≤ c * 2 ^ j

theorem Bare.neg {p : Nat} {a b : ℝ} (h : Bare p a b) : Bare p (-b) (-a) := by
  intro c j hc hj
  rcases h (-c) j (by rwa [abs_neg]) hj with h | h
  · right; push_cast at h; linarith
  · left; push_cast at h; linarith

theorem Val.roundsAs_of_bare {v : Val} {p : Nat} {x y a b : ℝ} (h : Bare p a b) (hv : v.Is y) (hy : a < y ∧ y < b) (hx : a < x ∧ x < b) :
    v.RoundsAs p x := by
  refine ⟨y, hv, fun c j hc hj => ?_⟩
  rcases h c j hc hj with h | h
  · exact ⟨iff_of_false (by linarith) (by linarith), iff_of_false (by linarith) (by linarith)⟩
  · exact ⟨iff_of_true (by linarith) (by linarith), iff_of_false (by linarith) (by linarith)⟩

theorem Val.roundsAs_of_is {v : Val} {x : ℝ} (p : Nat) (h : v.Is x) : v.RoundsAs p x := ⟨x, h, fun _ _ _ _ => ⟨Iff.rfl, Iff.rfl⟩⟩

/-- Neighbours on a grid, the lower one of more than p + 1 bits. -/
theorem bare_grid {p m : Nat} (e : Int) (h : 2 ^ (p + 1) ≤ m) : Bare p (m * 2 ^ e) ((m + 1) * 2 ^ e) := by
  intro c j hc _
  have he : (0 : ℝ) < 2 ^ e := by positivity
  rcases le_or_gt e j with hj | hj
  · obtain ⟨i, rfl⟩ : ∃ i : Nat, j = e + i := ⟨(j - e).toNat, by omega⟩
    have hgrid : (c * 2 ^ (e + (i : Int)) : ℝ) = ((c * 2 ^ i : Int) : ℝ) * 2 ^ e := by
      rw [zpow_add₀ (two_ne_zero' ℝ)]
      push_cast
      rw [zpow_natCast]
      ring
    rw [hgrid]
    rcases le_or_gt (c * 2 ^ i) (m : Int) with hle | hgt
    · left
      gcongr
      exact_mod_cast hle
    · right
      gcongr
      exact_mod_cast hgt
  · left
    have hc' : (c : ℝ) ≤ 2 ^ (p + 2) := by exact_mod_cast (le_abs_self c).trans hc.le
    have hm : (2 : ℝ) ^ (p + 1) ≤ m := by exact_mod_cast h
    calc (c * 2 ^ j : ℝ) ≤ 2 ^ (p + 2) * 2 ^ (e - 1) := by
          gcongr
          · norm_num
          · omega
      _ = 2 ^ (p + 1) * 2 ^ e := by rw [zpow_sub_one₀ (two_ne_zero' ℝ), pow_succ _ (p + 1)]; ring
      _ ≤ _ := by gcongr

/-- Above every number of p + 2 bits. -/
theorem bare_large {p : Nat} (h : p ≤ 53) (b : ℝ) : Bare p (2 ^ 2055) b := by
  intro c j hc hj
  left
  have hc' : (c : ℝ) ≤ 2 ^ (p + 2) := by exact_mod_cast (le_abs_self c).trans hc.le
  have hj' : j ≤ 2000 := (le_abs_self j).trans hj
  calc (c * 2 ^ j : ℝ) ≤ 2 ^ (53 + 2) * 2 ^ (2000 : Int) := by
        gcongr
        · exact hc'.trans (by gcongr; norm_num)
        · norm_num
    _ = 2 ^ 2055 := by rw [← zpow_natCast, ← zpow_natCast, ← zpow_add₀ (two_ne_zero' ℝ)]; norm_num

/-- Between 0 and every positive number of p + 2 bits. -/
theorem bare_small (p : Nat) : Bare p 0 (2 ^ (-2000 : Int)) := by
  intro c j _ hj
  rcases le_or_gt c 0 with hc | hc
  · left
    exact mul_nonpos_of_nonpos_of_nonneg (by exact_mod_cast hc) (by positivity)
  · right
    have hc' : (1 : ℝ) ≤ c := by exact_mod_cast hc
    have hj' : -2000 ≤ j := (abs_le.mp hj).1
    calc (2 : ℝ) ^ (-2000 : Int) ≤ 1 * 2 ^ j := by rw [one_mul]; gcongr; norm_num
      _ ≤ _ := by gcongr

/-- A magnitude with a bit set below stands in the middle of its neighbours. -/
theorem Val.is_sticky_true (n : Bool) (m : Nat) (e : Int) : (sticky n m true e).Is ((if n then -1 else 1) * ((m + 1 / 2) * 2 ^ e)) := by
  have h := Val.is_mk n (2 * m + 1) (e - 1)
  refine (congrArg (Val.Is _) ?_).mp h
  simp only [realOf, zpow_sub_one₀ (two_ne_zero' ℝ)]
  push_cast
  ring

theorem Val.is_sticky_false (n : Bool) (m : Nat) (e : Int) : (sticky n m false e).Is (realOf n m e) := by
  have h := Val.is_mk n (2 * m + 0) (e - 1)
  refine (congrArg (Val.Is _) ?_).mp h
  simp only [realOf, zpow_sub_one₀ (two_ne_zero' ℝ)]
  push_cast
  ring

/-- A magnitude of enough bits, with a bit below for what is left, rounds as the number does. -/
theorem Val.sticky_roundsAs {p m : Nat} (n : Bool) (more : Bool) (e : Int) {x : ℝ} (hm : 2 ^ (p + 1) ≤ m)
    (hfalse : more = false → x = m * 2 ^ e) (htrue : more = true → m * 2 ^ e < x ∧ x < (m + 1) * 2 ^ e) :
    (sticky n m more e).RoundsAs p ((if n then -1 else 1) * x) := by
  have he : (0 : ℝ) < 2 ^ e := by positivity
  cases more with
  | false =>
    rw [hfalse rfl, ← mul_assoc]
    exact Val.roundsAs_of_is p (Val.is_sticky_false n m e)
  | true =>
    obtain ⟨hlow, hhigh⟩ := htrue rfl
    have hmid : (m : ℝ) * 2 ^ e < (m + 1 / 2) * 2 ^ e ∧ ((m : ℝ) + 1 / 2) * 2 ^ e < (m + 1) * 2 ^ e := by
      constructor <;> gcongr <;> linarith
    obtain ⟨hmlow, hmhigh⟩ := hmid
    have hbare := bare_grid (p := p) e hm
    have his := Val.is_sticky_true n m e
    cases n with
    | false =>
      simp only [Bool.false_eq_true, ↓reduceIte, one_mul] at his ⊢
      exact Val.roundsAs_of_bare hbare his ⟨hmlow, hmhigh⟩ ⟨hlow, hhigh⟩
    | true =>
      simp only [↓reduceIte] at his ⊢
      exact Val.roundsAs_of_bare hbare.neg his ⟨by linarith, by linarith⟩ ⟨by linarith, by linarith⟩

/-! Division. -/

theorem log2_bounds {m : Nat} (h : 0 < m) : 2 ^ Nat.log2 m ≤ m ∧ m < 2 ^ (Nat.log2 m + 1) := ⟨Nat.log2_self_le h.ne', Nat.lt_log2_self⟩

/-- A quotient is its whole part where nothing remains, and otherwise lies above it. -/
theorem div_neighbours (n : Nat) {b : Nat} (hb : 0 < b) :
    ((n % b != 0) = false → (n : ℝ) / b = (n / b : Nat)) ∧ ((n % b != 0) = true → ((n / b : Nat) : ℝ) < n / b ∧ (n : ℝ) / b < (n / b : Nat) + 1) := by
  have hb' : (0 : ℝ) < b := by exact_mod_cast hb
  have hsplit : (n : ℝ) / b = (n / b : Nat) + (n % b : Nat) / b := by
    have h : ((b * (n / b) + n % b : Nat) : ℝ) = n := by rw [Nat.div_add_mod]
    rw [← h]
    push_cast
    field_simp
  have hlt : ((n % b : Nat) : ℝ) / b < 1 := by
    rw [div_lt_one hb']
    exact_mod_cast Nat.mod_lt n hb
  rw [hsplit]
  constructor
  · intro h
    rw [show n % b = 0 by simpa using h]
    simp
  · intro h
    have hpos : 0 < n % b := Nat.pos_of_ne_zero (by simpa using h)
    have : (0 : ℝ) < (n % b : Nat) / b := by positivity
    constructor <;> linarith

theorem realOf_div (n n' : Bool) (m m' : Nat) (e e' : Int) :
    realOf n m e / realOf n' m' e' = (if (n != n') = true then -1 else 1) * ((m : ℝ) / m' * 2 ^ (e - e')) := by
  have hsign : (if (n != n') = true then (-1 : ℝ) else 1) = (if n = true then -1 else 1) / (if n' = true then -1 else 1) := by
    cases n <;> cases n' <;> norm_num
  simp only [realOf, hsign, zpow_sub₀ (two_ne_zero' ℝ)]
  rw [mul_div_mul_comm, mul_div_mul_comm]
  ring

theorem divSticky_roundsAs (p : Nat) (n n' : Bool) {m m' : Nat} (e e' : Int) (hm : 0 < m) (hm' : 0 < m') :
    (divSticky p (n != n') m e m' e').RoundsAs p (realOf n m e / realOf n' m' e') := by
  obtain ⟨hlow, -⟩ := log2_bounds hm
  obtain ⟨-, hhigh⟩ := log2_bounds hm'
  let k := p + 4 + Nat.log2 m' - Nat.log2 m
  have hn : (m <<< k : Nat) = m * 2 ^ k := Nat.shiftLeft_eq _ _
  have hquot : 2 ^ (p + 1) ≤ m * 2 ^ k / m' := by
    rw [Nat.le_div_iff_mul_le hm']
    calc 2 ^ (p + 1) * m' ≤ 2 ^ (p + 1) * 2 ^ (Nat.log2 m' + 1) := Nat.mul_le_mul_left _ hhigh.le
      _ ≤ 2 ^ Nat.log2 m * 2 ^ k := by
        rw [← Nat.pow_add, ← Nat.pow_add]
        exact Nat.pow_le_pow_right (by decide) (by omega)
      _ ≤ _ := Nat.mul_le_mul_right _ hlow
  have hscale : (m : ℝ) / m' * 2 ^ (e - e') = ((m * 2 ^ k : Nat) : ℝ) / m' * 2 ^ (e - e' - k) := by
    rw [zpow_sub₀ (two_ne_zero' ℝ) (e - e') k, zpow_natCast]
    push_cast
    field_simp
  obtain ⟨hexact, hmore⟩ := div_neighbours (m * 2 ^ k) hm'
  have hpow : (0 : ℝ) < 2 ^ (e - e' - (k : Int)) := by positivity
  rw [realOf_div, divSticky, hscale]
  simp only [show p + 4 + Nat.log2 m' - Nat.log2 m = k from rfl, hn]
  refine Val.sticky_roundsAs _ _ _ hquot (fun h => by rw [hexact h]) fun h => ?_
  obtain ⟨h1, h2⟩ := hmore h
  exact ⟨by gcongr, by gcongr⟩

/-! Roots. -/

theorem isqrtFrom_bounds (n : Nat) : ∀ (k acc : Nat), acc * acc ≤ n → n < (acc + 2 ^ k) * (acc + 2 ^ k) →
    isqrtFrom n acc k * isqrtFrom n acc k ≤ n ∧ n < (isqrtFrom n acc k + 1) * (isqrtFrom n acc k + 1)
  | 0, acc, hlow, hhigh => ⟨hlow, hhigh⟩
  | k + 1, acc, hlow, hhigh => by
    rw [isqrtFrom]
    split
    · refine isqrtFrom_bounds n k _ ‹_› ?_
      rwa [Nat.add_assoc, ← Nat.two_mul, ← Nat.pow_succ']
    · exact isqrtFrom_bounds n k _ hlow (by omega)

theorem isqrt_eq_sqrt (n : Nat) : isqrt n = Nat.sqrt n := by
  have hhigh : n < (0 + 2 ^ (Nat.log2 n / 2 + 1)) * (0 + 2 ^ (Nat.log2 n / 2 + 1)) := by
    rw [Nat.zero_add, ← Nat.pow_add]
    exact Nat.lt_log2_self.trans_le (Nat.pow_le_pow_right (by decide) (by omega))
  exact Nat.eq_sqrt.mpr (isqrtFrom_bounds n _ 0 (Nat.zero_le _) hhigh)

/-- The whole part of a root of x, where r × r is not above it and (r + 1)² is. -/
theorem sqrt_neighbours {r : Nat} {x : ℝ} (hlow : (r : ℝ) * r ≤ x) (hhigh : x < ((r : ℝ) + 1) * (r + 1)) :
    ((r : ℝ) * r = x → Real.sqrt x = r) ∧ ((r : ℝ) * r ≠ x → (r : ℝ) < Real.sqrt x ∧ Real.sqrt x < r + 1) := by
  have hr : (0 : ℝ) ≤ r := by positivity
  refine ⟨fun h => ?_, fun h => ⟨?_, ?_⟩⟩
  · rw [← h, Real.sqrt_mul_self hr]
  · rw [Real.lt_sqrt hr, pow_two]
    exact lt_of_le_of_ne hlow h
  · rw [Real.sqrt_lt' (by positivity), pow_two]
    exact hhigh

/-- A root of a number of which an even power of 2 is split off. -/
theorem sqrt_mul_zpow (x : ℝ) {e : Int} (h : e % 2 = 0) : Real.sqrt (x * 2 ^ e) = Real.sqrt x * 2 ^ (e / 2) := by
  have hsq : (2 : ℝ) ^ e = 2 ^ (e / 2) * 2 ^ (e / 2) := by
    rw [← zpow_add₀ (two_ne_zero' ℝ)]
    congr 1
    omega
  rw [hsq, Real.sqrt_mul' _ (by positivity), Real.sqrt_mul_self (by positivity)]

theorem two_pow_le_sqrt {p n : Nat} (h : 2 ^ (2 * p) ≤ n) : 2 ^ p ≤ Nat.sqrt n := by
  rw [Nat.le_sqrt, ← Nat.pow_add]
  rwa [Nat.two_mul] at h

/-- The whole part of a root, with a bit below where it is not the root itself, rounds as the root does. -/
theorem Val.sticky_sqrt_roundsAs {p r : Nat} {x : ℝ} (more : Bool) (e : Int) (hr : 2 ^ (p + 1) ≤ r) (hlow : (r : ℝ) * r ≤ x)
    (hhigh : x < ((r : ℝ) + 1) * (r + 1)) (hmore : more = false ↔ (r : ℝ) * r = x) : (sticky false r more e).RoundsAs p (Real.sqrt x * 2 ^ e) := by
  have hpow : (0 : ℝ) < 2 ^ e := by positivity
  obtain ⟨hexact, hbetween⟩ := sqrt_neighbours hlow hhigh
  have h := Val.sticky_roundsAs (x := Real.sqrt x * 2 ^ e) false more e hr (fun h => by rw [hexact (hmore.mp h)]) fun h => by
    obtain ⟨h1, h2⟩ := hbetween fun heq => by
      rw [hmore.mpr heq] at h
      cases h
    exact ⟨by gcongr, by gcongr⟩
  simpa using h

theorem sqrtSticky_roundsAs (p : Nat) {m : Nat} (e : Int) (hm : 0 < m) : (sqrtSticky p m e).RoundsAs p (Real.sqrt (realOf false m e)) := by
  obtain ⟨k, hk, hk0, heven⟩ : ∃ k : Nat, (if (e - (2 * p + 8 : Nat)) % 2 = 0 then 2 * p + 8 else 2 * p + 8 + 1) = k ∧ 2 * p + 8 ≤ k ∧
      (e - k) % 2 = 0 := by
    split
    · exact ⟨_, rfl, le_rfl, ‹_›⟩
    · exact ⟨_, rfl, Nat.le_succ _, by omega⟩
  have hscale : realOf false m e = ((m * 2 ^ k : Nat) : ℝ) * 2 ^ (e - k) := by
    rw [zpow_sub₀ (two_ne_zero' ℝ), zpow_natCast, realOf]
    push_cast
    field_simp
  have hbig : 2 ^ (p + 1) ≤ Nat.sqrt (m * 2 ^ k) :=
    two_pow_le_sqrt ((Nat.pow_le_pow_right (by decide) (by omega)).trans (Nat.le_mul_of_pos_left (2 ^ k) hm))
  rw [hscale, sqrt_mul_zpow _ heven, sqrtSticky]
  simp only [hk, Nat.shiftLeft_eq, isqrt_eq_sqrt]
  refine Val.sticky_sqrt_roundsAs _ _ hbig (by exact_mod_cast Nat.sqrt_le _) (by exact_mod_cast Nat.lt_succ_sqrt _) ?_
  rw [bne_eq_false_iff_eq]
  norm_cast

theorem rsqrtSticky_roundsAs (p : Nat) {m : Nat} (e : Int) (hm : 0 < m) : (rsqrtSticky p m e).RoundsAs p (1 / Real.sqrt (realOf false m e)) := by
  obtain ⟨k, hk, hk0, heven⟩ : ∃ k : Nat, (if (-e - (Nat.log2 m + 2 * p + 8 : Nat)) % 2 = 0 then Nat.log2 m + 2 * p + 8 else Nat.log2 m + 2 * p + 8 + 1) = k ∧
      Nat.log2 m + 2 * p + 8 ≤ k ∧ (-e - k) % 2 = 0 := by
    split
    · exact ⟨_, rfl, le_rfl, ‹_›⟩
    · exact ⟨_, rfl, Nat.le_succ _, by omega⟩
  have hm' : (0 : ℝ) < m := by exact_mod_cast hm
  have hscale : 1 / Real.sqrt (realOf false m e) = Real.sqrt ((2 ^ k : Nat) / (m : ℝ)) * 2 ^ ((-e - k) / 2) := by
    rw [← sqrt_mul_zpow _ heven, one_div, ← Real.sqrt_inv]
    congr 1
    rw [zpow_sub₀ (two_ne_zero' ℝ), zpow_neg, zpow_natCast, realOf]
    push_cast
    field_simp
  let r := Nat.sqrt (2 ^ k / m)
  have hlow : r * r * m ≤ 2 ^ k := (Nat.le_div_iff_mul_le hm).mp (Nat.sqrt_le _)
  have hhigh : 2 ^ k < (r + 1) * (r + 1) * m := (Nat.div_lt_iff_lt_mul hm).mp (Nat.lt_succ_sqrt _)
  have hbig : 2 ^ (p + 1) ≤ r := by
    refine two_pow_le_sqrt ((Nat.le_div_iff_mul_le hm).mpr ?_)
    calc 2 ^ (2 * (p + 1)) * m ≤ 2 ^ (2 * (p + 1)) * 2 ^ (Nat.log2 m + 1) := Nat.mul_le_mul_left _ (log2_bounds hm).2.le
      _ ≤ 2 ^ k := by
        rw [← Nat.pow_add]
        exact Nat.pow_le_pow_right (by decide) (by omega)
  rw [hscale, rsqrtSticky]
  simp only [hk, isqrt_eq_sqrt]
  refine Val.sticky_sqrt_roundsAs _ _ hbig ?_ ?_ ?_
  · rw [le_div_iff₀ hm']
    exact_mod_cast hlow
  · rw [div_lt_iff₀ hm']
    exact_mod_cast hhigh
  · rw [bne_eq_false_iff_eq, eq_div_iff hm'.ne']
    norm_cast

end Sys2Proof

/-! The exponential (06 R114): bounds by square roots of 2, and the exact root where they disagree. -/

namespace Sys2Proof

/-- lo and hi bound x in units of 2^−n. -/
def Encloses (n : Nat) (b : Nat × Nat) (x : ℝ) : Prop := (b.1 : ℝ) ≤ 2 ^ n * x ∧ 2 ^ n * x ≤ b.2

theorem encloses_sqrt {n : Nat} {b : Nat × Nat} {x : ℝ} (h : Encloses n b x) :
    Encloses n (isqrt (b.1 <<< n), isqrt (b.2 <<< n) + 1) (Real.sqrt x) := by
  obtain ⟨hlow, hhigh⟩ := h
  have hpow : (0 : ℝ) < 2 ^ n := by positivity
  have hroot : (2 : ℝ) ^ n * Real.sqrt x = Real.sqrt (2 ^ n * x * 2 ^ n) := by
    rw [show (2 : ℝ) ^ n * x * 2 ^ n = 2 ^ n * 2 ^ n * x by ring, Real.sqrt_mul (by positivity), Real.sqrt_mul_self hpow.le]
  simp only [Encloses, hroot, isqrt_eq_sqrt, Nat.shiftLeft_eq]
  constructor
  · refine Real.le_sqrt_of_sq_le ?_
    calc ((Nat.sqrt (b.1 * 2 ^ n) : Nat) : ℝ) ^ 2 ≤ (b.1 * 2 ^ n : Nat) := by rw [pow_two]; exact_mod_cast Nat.sqrt_le _
      _ = b.1 * 2 ^ n := by push_cast; ring
      _ ≤ _ := by gcongr
  · refine Real.sqrt_le_iff.mpr ⟨by positivity, ?_⟩
    calc 2 ^ n * x * 2 ^ n ≤ b.2 * 2 ^ n := by gcongr
      _ = (b.2 * 2 ^ n : Nat) := by push_cast; ring
      _ ≤ _ := by rw [pow_two]; exact_mod_cast (Nat.lt_succ_sqrt _).le

theorem div_two_pow_le (a n : Nat) : ((a >>> n : Nat) : ℝ) ≤ a / 2 ^ n := by
  rw [Nat.shiftRight_eq_div_pow]
  exact_mod_cast Nat.cast_div_le (α := ℝ) (m := a) (n := 2 ^ n)

theorem lt_div_two_pow_succ (a n : Nat) : (a : ℝ) / 2 ^ n < (a >>> n : Nat) + 1 := by
  rw [Nat.shiftRight_eq_div_pow, div_lt_iff₀ (by positivity)]
  exact_mod_cast Nat.lt_mul_of_div_lt (Nat.lt_succ_self _) (by positivity : 0 < 2 ^ n)

theorem encloses_mul {n : Nat} {b c : Nat × Nat} {x y : ℝ} (hx0 : 0 ≤ x) (hb : Encloses n b x) (hc : Encloses n c y) :
    Encloses n ((b.1 * c.1) >>> n, (b.2 * c.2) >>> n + 1) (x * y) := by
  obtain ⟨hb1, hb2⟩ := hb
  obtain ⟨hc1, hc2⟩ := hc
  have hpow : (0 : ℝ) < 2 ^ n := by positivity
  have hy : 0 ≤ 2 ^ n * y := (Nat.cast_nonneg c.1).trans hc1
  have hprod : (2 : ℝ) ^ n * (x * y) = 2 ^ n * x * (2 ^ n * y) / 2 ^ n := by field_simp
  rw [Encloses, hprod]
  constructor
  · refine (div_two_pow_le _ n).trans ?_
    push_cast
    gcongr
  · have h := (lt_div_two_pow_succ (b.2 * c.2) n).le
    push_cast at h ⊢
    refine le_trans ?_ h
    gcongr

/-- The bounds of 2 to the bits of j below 2^k taken as a fraction of w, as far as the iterations go. -/
theorem exp2Bounds_encloses (n j : Nat) : ∀ (i k : Nat) (root acc : Nat × Nat) (w A : ℝ), 1 ≤ k → 0 ≤ w → 0 ≤ A → Encloses n root (2 ^ w) →
    Encloses n acc A → ∃ x : ℝ, Encloses n (exp2Bounds n j i k root acc) (A * 2 ^ x) ∧ w * ((j % 2 ^ k : Nat) / 2 ^ k) - w / 2 ^ i ≤ x ∧
      x ≤ w * ((j % 2 ^ k : Nat) / 2 ^ k) ∧ (k ≤ i → x = w * ((j % 2 ^ k : Nat) / 2 ^ k))
  | 0, k, root, acc, w, A, hk, hw, hA, hroot, hacc => by
    have hfrac : ((j % 2 ^ k : Nat) : ℝ) / 2 ^ k ≤ 1 := by
      rw [div_le_one (by positivity)]
      exact_mod_cast (Nat.mod_lt j (by positivity)).le
    refine ⟨0, by simpa [exp2Bounds] using hacc, ?_, by positivity, fun h => by omega⟩
    have := mul_le_of_le_one_right hw hfrac
    simpa using this
  | i + 1, k + 1, root, acc, w, A, _, hw, hA, hroot, hacc => by
    have hroot' : Encloses n (isqrt (root.1 <<< n), isqrt (root.2 <<< n) + 1) (2 ^ (w / 2)) := by
      have h := encloses_sqrt hroot
      rwa [Real.sqrt_eq_rpow, ← Real.rpow_mul (by norm_num), mul_one_div] at h
    -- the top bit of j's fraction takes the half
    let bit : ℝ := (j.testBit k).toNat
    have hsplit : ((j % 2 ^ (k + 1) : Nat) : ℝ) / 2 ^ (k + 1) = bit / 2 + (j % 2 ^ k : Nat) / 2 ^ k / 2 := by
      simp only [bit, Nat.mod_pow_succ, Nat.toNat_testBit]
      push_cast
      rw [pow_succ]
      field_simp
      ring
    rw [exp2Bounds]
    dsimp only
    rw [Nat.add_sub_cancel]
    have hacc' : Encloses n (if j.testBit k = true then ((acc.1 * isqrt (root.1 <<< n)) >>> n, (acc.2 * (isqrt (root.2 <<< n) + 1)) >>> n + 1)
        else acc) (A * 2 ^ (bit * (w / 2))) := by
      cases hbit : j.testBit k
      · simpa [bit, hbit] using hacc
      · simpa [bit, hbit] using encloses_mul hA hacc hroot'
    generalize (if j.testBit k = true then _ else acc) = acc' at hacc' ⊢
    split
    case isTrue hk =>
      obtain rfl : k = 0 := by omega
      have hx : w * (((j % 2 ^ (0 + 1) : Nat) : ℝ) / 2 ^ (0 + 1)) = bit * (w / 2) := by
        rw [hsplit]
        simp [Nat.mod_one]
        ring
      refine ⟨_, hacc', ?_, ?_, fun _ => ?_⟩
      · rw [hx]; linarith [show 0 ≤ w / 2 ^ (i + 1) by positivity]
      · rw [hx]
      · rw [hx]
    case isFalse hk =>
      obtain ⟨x, hx, hlow, hhigh, hall⟩ := exp2Bounds_encloses n j i k _ acc' (w / 2) _ (by omega) (by positivity) (by positivity) hroot' hacc'
      rw [mul_assoc, ← Real.rpow_add (by norm_num)] at hx
      have hsum : w * (((j % 2 ^ (k + 1) : Nat) : ℝ) / 2 ^ (k + 1)) = bit * (w / 2) + w / 2 * ((j % 2 ^ k : Nat) / 2 ^ k) := by
        rw [hsplit]; ring
      have hstep : w / 2 ^ (i + 1) = w / 2 / 2 ^ i := by rw [pow_succ]; field_simp
      refine ⟨_, hx, ?_, ?_, fun h => ?_⟩
      · rw [hsum, hstep]; linarith
      · rw [hsum]; linarith
      · rw [hsum, hall (by omega)]

/-- r is the whole part of x. -/
def WholePart (r : Nat) (x : ℝ) : Prop := (r : ℝ) ≤ x ∧ x < r + 1

theorem wholePart_of_enclosed {n s a lo hi : Nat} {x : ℝ} (hs : s ≤ n) (h : Encloses n (lo, hi) x) (ha : lo >>> (n - s) = a) (hb : hi >>> (n - s) = a) :
    WholePart a (2 ^ s * x) := by
  obtain ⟨hlow, hhigh⟩ := h
  have hpow : (0 : ℝ) < 2 ^ (n - s) := by positivity
  have hx : 2 ^ s * x = 2 ^ n * x / 2 ^ (n - s) := by
    rw [eq_div_iff hpow.ne', mul_right_comm, ← pow_add, Nat.add_sub_cancel' hs]
  rw [WholePart, hx]
  constructor
  · rw [← ha]
    exact (div_two_pow_le _ _).trans (by gcongr)
  · rw [← hb]
    exact lt_of_le_of_lt (by gcongr) (lt_div_two_pow_succ _ _)

theorem iterSqrt_bounds : ∀ (k n : Nat), iterSqrt k n ^ 2 ^ k ≤ n ∧ n < (iterSqrt k n + 1) ^ 2 ^ k
  | 0, n => by simp [iterSqrt]
  | k + 1, n => by
    obtain ⟨hlow, hhigh⟩ := iterSqrt_bounds k (Nat.sqrt n)
    rw [iterSqrt, isqrt_eq_sqrt, Nat.pow_succ 2, Nat.pow_mul, Nat.pow_mul]
    constructor
    · exact (Nat.pow_le_pow_left hlow 2).trans (Nat.sqrt_le' n)
    · exact (Nat.lt_succ_sqrt' n).trans_le (Nat.pow_le_pow_left hhigh 2)


theorem rpow_fraction_le {d : ℝ} (h0 : 0 ≤ d) (h1 : d ≤ 1) : (2 : ℝ) ^ d ≤ 1 + d := by
  have h := rpow_one_add_le_one_add_mul_self (s := 1) (by norm_num) h0 h1
  rwa [one_add_one_eq_two, mul_one] at h

/-- The bounds that one precision gives of 2^(j/2^k). -/
def exp2Try (n j k : Nat) : Nat × Nat :=
  let b := exp2Bounds n j n k (2 * 2 ^ n, 2 * 2 ^ n) (2 ^ n, 2 ^ n)
  (b.1, if k > n then (b.2 * (2 ^ n + 1)) >>> n + 1 else b.2)

theorem exp2Try_encloses (n : Nat) {j k : Nat} (hk : 1 ≤ k) (hj : j < 2 ^ k) : Encloses n (exp2Try n j k) (2 ^ ((j : ℝ) / 2 ^ k)) := by
  have hroot : Encloses n (2 * 2 ^ n, 2 * 2 ^ n) (2 ^ (1 : ℝ)) := by
    constructor <;> simp [mul_comm]
  have hacc : Encloses n (2 ^ n, 2 ^ n) 1 := by constructor <;> simp
  obtain ⟨x, hx, hlow, hhigh, hall⟩ := exp2Bounds_encloses n j n k _ _ 1 1 hk zero_le_one zero_le_one hroot hacc
  simp only [Nat.mod_eq_of_lt hj, one_mul] at hx hlow hhigh hall
  unfold exp2Try
  dsimp only
  split
  case isFalse h =>
    rw [← hall (by omega)]
    exact hx
  case isTrue h =>
    let d := (j : ℝ) / 2 ^ k - x
    have hd : 2 ^ d ≤ 1 + 1 / (2 : ℝ) ^ n := by
      have hd1 : d ≤ 1 / 2 ^ n := by simp only [d]; linarith
      have hone : 1 / (2 : ℝ) ^ n ≤ 1 := by rw [div_le_one (by positivity)]; exact one_le_pow₀ (by norm_num)
      exact (rpow_fraction_le (by simp only [d]; linarith) (hd1.trans hone)).trans (by linarith)
    have hsplit : (2 : ℝ) ^ ((j : ℝ) / 2 ^ k) = 2 ^ x * 2 ^ d := by
      rw [← Real.rpow_add (by norm_num)]
      congr 1
      simp only [d]
      ring
    have hrest : Encloses n (2 ^ n, 2 ^ n + 1) (2 ^ d) := by
      constructor
      · push_cast
        have : (1 : ℝ) ≤ 2 ^ d := Real.one_le_rpow (by norm_num) (by simp only [d]; linarith)
        nlinarith [show (0 : ℝ) < 2 ^ n by positivity]
      · push_cast
        calc (2 : ℝ) ^ n * 2 ^ d ≤ 2 ^ n * (1 + 1 / 2 ^ n) := by gcongr
          _ = _ := by field_simp
    rw [hsplit]
    have h := encloses_mul (by positivity) hx hrest
    rwa [Nat.shiftRight_eq_div_pow, Nat.mul_div_cancel _ (by positivity)] at h

/-- The exact root's whole part. -/
theorem wholePart_iterSqrt (s j k : Nat) : WholePart (iterSqrt k (2 ^ (s * 2 ^ k + j))) (2 ^ s * 2 ^ ((j : ℝ) / 2 ^ k)) := by
  obtain ⟨hlow, hhigh⟩ := iterSqrt_bounds k (2 ^ (s * 2 ^ k + j))
  have hpow : ((2 : ℝ) ^ s * 2 ^ ((j : ℝ) / 2 ^ k)) ^ 2 ^ k = ((2 ^ (s * 2 ^ k + j) : Nat) : ℝ) := by
    rw [mul_pow, ← pow_mul, ← Real.rpow_natCast (2 ^ _) (2 ^ k), ← Real.rpow_mul (by norm_num)]
    push_cast
    rw [div_mul_cancel₀ _ (by positivity), Real.rpow_natCast, pow_add]
  have hbase : (0 : ℝ) ≤ 2 ^ s * 2 ^ ((j : ℝ) / 2 ^ k) := by positivity
  have hne : 2 ^ k ≠ 0 := by positivity
  constructor
  · rw [← pow_le_pow_iff_left₀ (by positivity) hbase hne, hpow]
    exact_mod_cast hlow
  · rw [← pow_lt_pow_iff_left₀ hbase (by positivity) hne, hpow]
    exact_mod_cast hhigh

/-- The whole part that one precision gives, where its bounds agree. -/
def exp2TryAt (s j k n : Nat) : Option Nat :=
  if (exp2Try n j k).1 >>> (n - s) = (exp2Try n j k).2 >>> (n - s) then some ((exp2Try n j k).1 >>> (n - s)) else none

theorem exp2Floor_eq (s j k : Nat) :
    exp2Floor s j k = (exp2TryAt s j k (s + 96)).getD ((exp2TryAt s j k (s + 1024)).getD (iterSqrt k (2 ^ (s * 2 ^ k + j)))) := by
  have hdef : exp2Floor s j k = match exp2TryAt s j k (s + 96) with
    | some a => a
    | none => match exp2TryAt s j k (s + 1024) with
      | some a => a
      | none => iterSqrt k (2 ^ (s * 2 ^ k + j)) := rfl
  rw [hdef]
  cases exp2TryAt s j k (s + 96)
  · cases exp2TryAt s j k (s + 1024) <;> rfl
  · rfl

theorem wholePart_exp2TryAt {s n j k : Nat} (hs : s ≤ n) (hk : 1 ≤ k) (hj : j < 2 ^ k) {r : Nat} (hr : WholePart r (2 ^ s * 2 ^ ((j : ℝ) / 2 ^ k))) :
    WholePart ((exp2TryAt s j k n).getD r) (2 ^ s * 2 ^ ((j : ℝ) / 2 ^ k)) := by
  unfold exp2TryAt
  split
  next h => exact wholePart_of_enclosed hs (exp2Try_encloses n hk hj) rfl h.symm
  next => exact hr

theorem wholePart_exp2Floor (s : Nat) {j k : Nat} (hk : 1 ≤ k) (hj : j < 2 ^ k) : WholePart (exp2Floor s j k) (2 ^ s * 2 ^ ((j : ℝ) / 2 ^ k)) := by
  rw [exp2Floor_eq]
  exact wholePart_exp2TryAt (Nat.le_add_right _ _) hk hj (wholePart_exp2TryAt (Nat.le_add_right _ _) hk hj (wholePart_iterSqrt s j k))

/-- A power of 2 with a fraction in its exponent is no whole number. -/
theorem two_rpow_fraction_ne (s F : Nat) {j k : Nat} (h0 : 0 < j) (hj : j < 2 ^ k) : (F : ℝ) ≠ 2 ^ s * 2 ^ ((j : ℝ) / 2 ^ k) := by
  intro h
  have hpow : F ^ 2 ^ k = 2 ^ (s * 2 ^ k + j) := by
    have h' := congrArg (· ^ 2 ^ k) h
    simp only [mul_pow, ← pow_mul] at h'
    rw [← Real.rpow_natCast (2 ^ _) (2 ^ k), ← Real.rpow_mul (by norm_num)] at h'
    push_cast at h'
    rw [div_mul_cancel₀ _ (by positivity), Real.rpow_natCast, ← pow_add] at h'
    exact_mod_cast h'
  obtain ⟨f, -, rfl⟩ := (Nat.dvd_prime_pow Nat.prime_two).mp (hpow ▸ dvd_pow_self F (by positivity) : F ∣ 2 ^ (s * 2 ^ k + j))
  rw [← pow_mul] at hpow
  have hexp := Nat.pow_right_injective le_rfl hpow
  have hdvd : 2 ^ k ∣ j := (Nat.dvd_add_right (Dvd.intro_left s rfl)).mp (hexp ▸ Dvd.intro_left f rfl)
  exact absurd (Nat.le_of_dvd h0 hdvd) (by omega)

/-- A number's whole and fractional parts in units of 2^−k. -/
theorem fraction_bounds (n : Int) (k : Nat) :
    ((n - (n / 2 ^ k) * 2 ^ k).toNat : Int) = n - (n / 2 ^ k) * 2 ^ k ∧ (n - (n / 2 ^ k) * 2 ^ k).toNat < 2 ^ k := by
  have hpos : (0 : Int) < 2 ^ k := by positivity
  have hmod : n - (n / 2 ^ k) * 2 ^ k = n % 2 ^ k := by
    rw [Int.emod_def, Int.mul_comm]
  have h0 := Int.emod_nonneg n hpos.ne'
  have h1 := Int.emod_lt_of_pos n hpos
  rw [hmod]
  refine ⟨Int.toNat_of_nonneg h0, ?_⟩
  zify
  rwa [Int.toNat_of_nonneg h0]

theorem rpow_floor_add (n : Int) (k : Nat) :
    (2 : ℝ) ^ ((n : ℝ) / 2 ^ k) = 2 ^ (((n - (n / 2 ^ k) * 2 ^ k).toNat : ℝ) / 2 ^ k) * 2 ^ (n / 2 ^ k : Int) := by
  have hcast : ((n - (n / 2 ^ k) * 2 ^ k).toNat : ℝ) = n - (n / 2 ^ k : Int) * 2 ^ k := by
    exact_mod_cast (fraction_bounds n k).1
  rw [← Real.rpow_intCast, ← Real.rpow_add (by norm_num), hcast]
  congr 1
  field_simp
  ring

/-- 2^x rounds as it should, x = n / 2^k. -/
theorem exp2Sticky_fraction (p : Nat) (n : Int) {k : Nat} (hk : 1 ≤ k) :
    let fl := n / 2 ^ k
    let j := (n - fl * 2 ^ k).toNat
    (if j = 0 then Val.fin false 1 fl else sticky false (exp2Floor (p + 4) j k) true (fl - (p + 4 : Nat))).RoundsAs p (2 ^ ((n : ℝ) / 2 ^ k)) := by
  intro fl j
  have hj : j < 2 ^ k := (fraction_bounds n k).2
  have hx : (2 : ℝ) ^ ((n : ℝ) / 2 ^ k) = 2 ^ ((j : ℝ) / 2 ^ k) * 2 ^ fl := rpow_floor_add n k
  rw [hx]
  split
  case isTrue h0 =>
    refine Val.roundsAs_of_is p ⟨one_pos, ?_⟩
    simp [h0, realOf]
  case isFalse h0 =>
    obtain ⟨hlow, hhigh⟩ := wholePart_exp2Floor (p + 4) hk hj
    have hne := two_rpow_fraction_ne (p + 4) (exp2Floor (p + 4) j k) (Nat.pos_of_ne_zero h0) hj
    have hbig : 2 ^ (p + 1) ≤ exp2Floor (p + 4) j k := by
      have hone : (1 : ℝ) ≤ 2 ^ ((j : ℝ) / 2 ^ k) := Real.one_le_rpow (by norm_num) (by positivity)
      have hreal : (2 : ℝ) ^ (p + 4) < exp2Floor (p + 4) j k + 1 := lt_of_le_of_lt (le_mul_of_one_le_right (by positivity) hone) hhigh
      have hnat : 2 ^ (p + 4) < exp2Floor (p + 4) j k + 1 := by exact_mod_cast hreal
      exact (Nat.pow_le_pow_right (by decide) (by omega)).trans (Nat.lt_succ_iff.mp hnat)
    have hscale : (2 : ℝ) ^ ((j : ℝ) / 2 ^ k) * 2 ^ fl = 2 ^ (p + 4) * 2 ^ ((j : ℝ) / 2 ^ k) * 2 ^ (fl - (p + 4 : Nat)) := by
      rw [zpow_sub₀ (two_ne_zero' ℝ), zpow_natCast]
      field_simp
    have hpow : (0 : ℝ) < 2 ^ (fl - (p + 4 : Nat)) := by positivity
    rw [hscale]
    have h := Val.sticky_roundsAs (p := p) false true (fl - (p + 4 : Nat)) (x := 2 ^ (p + 4) * 2 ^ ((j : ℝ) / 2 ^ k) * 2 ^ (fl - (p + 4 : Nat))) hbig
      (fun h => by cases h) fun _ => ⟨by gcongr; exact lt_of_le_of_ne hlow hne, by gcongr⟩
    simpa using h

theorem Val.roundsAs_of_large {v : Val} {p : Nat} (hp : p ≤ 53) {x y : ℝ} (hv : v.Is y) (hy : 2 ^ 2055 < y) (hx : 2 ^ 2055 < x) : v.RoundsAs p x :=
  Val.roundsAs_of_bare (bare_large hp (max x y + 1)) hv ⟨hy, (le_max_right x y).trans_lt (lt_add_one _)⟩
    ⟨hx, (le_max_left x y).trans_lt (lt_add_one _)⟩

theorem Val.roundsAs_of_small {v : Val} (p : Nat) {x y : ℝ} (hv : v.Is y) (hy : 0 < y ∧ y < 2 ^ (-2000 : Int)) (hx : 0 < x ∧ x < 2 ^ (-2000 : Int)) :
    v.RoundsAs p x :=
  Val.roundsAs_of_bare (bare_small p) hv hy hx

theorem realOf_log2_le (m : Nat) (e : Int) (h : 0 < m) : (2 : ℝ) ^ ((Nat.log2 m : Int) + e) ≤ realOf false m e := by
  have hlow : ((2 ^ Nat.log2 m : Nat) : ℝ) ≤ m := by exact_mod_cast (log2_bounds h).1
  rw [zpow_add₀ (two_ne_zero' ℝ), zpow_natCast, realOf]
  push_cast at hlow
  simp only [Bool.false_eq_true, ↓reduceIte, one_mul]
  gcongr

/-- An exponent beyond 2^20 stands for any other such one, for a function that lies between powers of 2. -/
theorem Val.huge_roundsAs {p : Nat} (hp : p ≤ 53) (n : Bool) {m : Nat} {e : Int} (hm : 0 < m) (h : (Nat.log2 m : Int) + e > 20) {z : ℝ}
    (hup : ∀ i : Int, (i : ℝ) ≤ realOf n m e → (2 : ℝ) ^ i ≤ z) (hdown : ∀ i : Int, realOf n m e < i → z < 2 ^ i) (hpos : 0 < z) :
    (Val.fin false 1 (if n then -(2 ^ 20) else 2 ^ 20)).RoundsAs p z := by
  have hbig : (2 ^ 20 : ℝ) ≤ realOf false m e := by
    refine le_trans ?_ (realOf_log2_le m e hm)
    rw [← zpow_natCast]
    exact zpow_le_zpow_right₀ (by norm_num) (by omega)
  have his (k : Int) : (Val.fin false 1 k).Is (2 ^ k) := ⟨one_pos, by simp [realOf]⟩
  cases n with
  | false =>
    refine Val.roundsAs_of_large hp (his _) ?_ (lt_of_lt_of_le ?_ (hup 2056 (le_trans (by norm_num) hbig)))
    · rw [← zpow_natCast]
      exact zpow_lt_zpow_right₀ (by norm_num) (by norm_num)
    · rw [← zpow_natCast]
      exact zpow_lt_zpow_right₀ (by norm_num) (by norm_num)
  | true =>
    rw [← Bool.not_false, realOf_neg] at hdown
    refine Val.roundsAs_of_small p (his _) ⟨by positivity, ?_⟩ ⟨hpos, hdown (-2000) ?_⟩
    · exact zpow_lt_zpow_right₀ (by norm_num) (by norm_num)
    · push_cast
      linarith

theorem intCast_div_two_pow (n : Bool) (m k : Nat) : realOf n m (-k) = (((if n then -(m : Int) else m : Int)) : ℝ) / 2 ^ k := by
  rw [realOf, zpow_neg, zpow_natCast]
  cases n <;> simp [div_eq_mul_inv]

theorem realOf_of_nonneg (n : Bool) (m k : Nat) : realOf n m k = ((if n then -((m <<< k : Nat) : Int) else (m <<< k : Nat) : Int) : ℝ) := by
  rw [realOf, zpow_natCast, Nat.shiftLeft_eq]
  cases n <;> simp

theorem exp2Sticky_roundsAs {p : Nat} (hp : p ≤ 53) (n : Bool) {m : Nat} (e : Int) (hm : 0 < m) :
    (exp2Sticky p n m e).RoundsAs p ((2 : ℝ) ^ realOf n m e) := by
  unfold exp2Sticky
  split
  case isTrue hbig =>
    refine Val.huge_roundsAs hp n hm hbig (fun i hi => ?_) (fun i hi => ?_) (Real.rpow_pos_of_pos (by norm_num) _)
    · rw [← Real.rpow_intCast]
      exact Real.rpow_le_rpow_of_exponent_le (by norm_num) hi
    · rw [← Real.rpow_intCast]
      exact Real.rpow_lt_rpow_of_exponent_lt (by norm_num) hi
  split
  case isTrue hnonneg =>
    obtain ⟨k, rfl⟩ := Int.eq_ofNat_of_zero_le hnonneg
    refine Val.roundsAs_of_is p ⟨one_pos, ?_⟩
    rw [realOf_of_nonneg, Real.rpow_intCast, Int.toNat_natCast]
    simp [realOf]
  case isFalse hneg =>
    obtain ⟨k, rfl⟩ : ∃ k : Nat, e = -k := ⟨(-e).toNat, by omega⟩
    rw [intCast_div_two_pow]
    have h := exp2Sticky_fraction p (if n then -(m : Int) else m) (k := k) (by omega)
    simpa only [Int.neg_neg, Int.toNat_natCast, Int.shiftRight_eq_div_pow, Nat.cast_pow, Nat.cast_ofNat] using h

end Sys2Proof

/-! The logarithm (06 R114): its bits by repeated squaring between bounds, and the exact power where the bounds disagree. -/

namespace Sys2Proof

theorem encloses_square {n lo hi : Nat} {y : ℝ} (hy : 0 ≤ y) (h : Encloses n (lo, hi) y) :
    Encloses n ((lo * lo) >>> n, (hi * hi) >>> n + 1) (y * y) := encloses_mul hy h h

theorem encloses_half {n lo hi : Nat} {y : ℝ} (h : Encloses n (lo, hi) y) : Encloses n (lo / 2, hi / 2 + 1) (y / 2) := by
  obtain ⟨hlow, hhigh⟩ := h
  have h1 : ((lo / 2 : Nat) : ℝ) ≤ lo / 2 := Nat.cast_div_le
  have h2 : (hi : ℝ) ≤ 2 * ((hi / 2 : Nat) + 1) := by exact_mod_cast (by omega : hi ≤ 2 * (hi / 2 + 1))
  refine ⟨?_, ?_⟩ <;> push_cast at * <;> linarith

/-- The i bits that follow acc, of the logarithm of a number between 1 and 2. -/
theorem log2Bits_wholePart (n : Nat) : ∀ (i acc lo hi a : Nat) (y : ℝ), 1 ≤ y → y < 2 → Encloses n (lo, hi) y → log2Bits n i acc lo hi = some a →
    WholePart a (2 ^ i * (acc + Real.logb 2 y))
  | 0, acc, lo, hi, a, y, h1, h2, _, ha => by
    obtain rfl : acc = a := Option.some.inj ha
    have hlow : 0 ≤ Real.logb 2 y := Real.logb_nonneg (by norm_num) h1
    have hhigh : Real.logb 2 y < 1 := by
      rw [Real.logb_lt_iff_lt_rpow (by norm_num) (by linarith)]
      simpa using h2
    constructor <;> simp <;> assumption
  | i + 1, acc, lo, hi, a, y, h1, h2, henc, ha => by
    have hy : 0 < y := by linarith
    have hsq := encloses_square hy.le henc
    have hlog : Real.logb 2 (y * y) = 2 * Real.logb 2 y := by rw [Real.logb_mul hy.ne' hy.ne']; ring
    have hpow : (0 : ℝ) < 2 ^ n := by positivity
    rw [log2Bits] at ha
    split at ha
    case isTrue hbit =>
      have hge : 2 ≤ y * y := by
        have hcast : ((2 ^ (n + 1) : Nat) : ℝ) ≤ ((lo * lo) >>> n : Nat) := by exact_mod_cast hbit
        have h := hcast.trans hsq.1
        push_cast at h
        rw [pow_succ] at h
        exact le_of_mul_le_mul_left h hpow
      have h := log2Bits_wholePart n i _ _ _ a (y * y / 2) (by linarith) (by nlinarith) (encloses_half hsq) ha
      rw [Real.logb_div (by positivity) (by norm_num), hlog, Real.logb_self_eq_one (by norm_num)] at h
      refine (congrArg (WholePart a) ?_).mp h
      push_cast
      ring
    split at ha
    case isTrue hbit hclear =>
      have hlt : y * y < 2 := by
        have hcast : (((hi * hi) >>> n + 1 : Nat) : ℝ) < (2 ^ (n + 1) : Nat) := by exact_mod_cast hclear
        have h := hsq.2.trans_lt hcast
        push_cast at h
        rw [pow_succ] at h
        exact lt_of_mul_lt_mul_left h hpow.le
      have h := log2Bits_wholePart n i _ _ _ a (y * y) (by nlinarith) hlt hsq ha
      rw [hlog] at h
      refine (congrArg (WholePart a) ?_).mp h
      push_cast
      ring
    case isFalse => cases ha

/-- The bits that one precision gives of log2 (m / 2^k). -/
def log2TryAt (s m k n : Nat) : Option Nat :=
  log2Bits n s 0 ((m <<< n) >>> k) (if (m <<< n) % 2 ^ k = 0 then (m <<< n) >>> k else (m <<< n) >>> k + 1)

theorem log2Floor_eq (s m k : Nat) :
    log2Floor s m k = (log2TryAt s m k (2 * s + 64)).getD ((log2TryAt s m k (2 * s + 2048)).getD (Nat.log2 (m ^ 2 ^ s) - k * 2 ^ s)) := by
  have hdef : log2Floor s m k = match log2TryAt s m k (2 * s + 64) with
    | some a => a
    | none => match log2TryAt s m k (2 * s + 2048) with
      | some a => a
      | none => Nat.log2 (m ^ 2 ^ s) - k * 2 ^ s := rfl
  rw [hdef]
  cases log2TryAt s m k (2 * s + 64)
  · cases log2TryAt s m k (2 * s + 2048) <;> rfl
  · rfl

theorem encloses_quotient (n m k : Nat) :
    Encloses n ((m <<< n) >>> k, if (m <<< n) % 2 ^ k = 0 then (m <<< n) >>> k else (m <<< n) >>> k + 1) ((m : ℝ) / 2 ^ k) := by
  have hx : (2 : ℝ) ^ n * (m / 2 ^ k) = (m <<< n : Nat) / 2 ^ k := by
    rw [Nat.shiftLeft_eq]
    push_cast
    ring
  rw [Encloses, hx]
  refine ⟨div_two_pow_le _ _, ?_⟩
  split
  case isTrue h =>
    have := (div_neighbours (m <<< n) (b := 2 ^ k) (by positivity)).1 (by simpa using h)
    rw [Nat.shiftRight_eq_div_pow]
    push_cast at this
    exact this.le
  case isFalse =>
    push_cast
    exact (lt_div_two_pow_succ _ _).le

/-- The exact power's logarithm gives the whole part. -/
theorem wholePart_log2_pow {s m k : Nat} (hm : 2 ^ k ≤ m) : WholePart (Nat.log2 (m ^ 2 ^ s) - k * 2 ^ s) (2 ^ s * Real.logb 2 ((m : ℝ) / 2 ^ k)) := by
  have hpos : 0 < m := lt_of_lt_of_le (by positivity) hm
  have hm' : (0 : ℝ) < m := by exact_mod_cast hpos
  obtain ⟨hlow, hhigh⟩ := log2_bounds (m := m ^ 2 ^ s) (by positivity)
  have hk : k * 2 ^ s ≤ Nat.log2 (m ^ 2 ^ s) := by
    rw [Nat.le_log2 (by positivity), Nat.pow_mul]
    exact Nat.pow_le_pow_left hm _
  have hx : (2 : ℝ) ^ s * Real.logb 2 (m / 2 ^ k) = Real.logb 2 ((m ^ 2 ^ s : Nat) : ℝ) - (k * 2 ^ s : Nat) := by
    rw [Real.logb_div hm'.ne' (by positivity), Real.logb_pow, Real.logb_self_eq_one (by norm_num)]
    push_cast
    rw [Real.logb_pow]
    push_cast
    ring
  have hposs : (0 : ℝ) < ((m ^ 2 ^ s : Nat) : ℝ) := by exact_mod_cast Nat.pow_pos hpos
  have h1 : (Nat.log2 (m ^ 2 ^ s) : ℝ) ≤ Real.logb 2 ((m ^ 2 ^ s : Nat) : ℝ) := by
    rw [Real.le_logb_iff_rpow_le (by norm_num) hposs, Real.rpow_natCast]
    exact_mod_cast hlow
  have h2 : Real.logb 2 ((m ^ 2 ^ s : Nat) : ℝ) < (Nat.log2 (m ^ 2 ^ s) : ℝ) + 1 := by
    rw [Real.logb_lt_iff_lt_rpow (by norm_num) hposs]
    rw [← Nat.cast_add_one, Real.rpow_natCast]
    exact_mod_cast hhigh
  rw [WholePart, hx, Nat.cast_sub hk]
  constructor <;> linarith

theorem wholePart_log2Floor (s : Nat) {m k : Nat} (hlow : 2 ^ k ≤ m) (hhigh : m < 2 ^ (k + 1)) :
    WholePart (log2Floor s m k) (2 ^ s * Real.logb 2 ((m : ℝ) / 2 ^ k)) := by
  have h1 : (1 : ℝ) ≤ m / 2 ^ k := by
    rw [one_le_div (by positivity)]
    exact_mod_cast hlow
  have h2 : (m : ℝ) / 2 ^ k < 2 := by
    rw [div_lt_iff₀ (by positivity), ← pow_succ']
    exact_mod_cast hhigh
  have htry (n r : Nat) (hr : WholePart r (2 ^ s * Real.logb 2 ((m : ℝ) / 2 ^ k))) :
      WholePart ((log2TryAt s m k n).getD r) (2 ^ s * Real.logb 2 ((m : ℝ) / 2 ^ k)) := by
    cases h : log2TryAt s m k n with
    | none => exact hr
    | some a =>
      have := log2Bits_wholePart n s 0 _ _ a _ h1 h2 (encloses_quotient n m k) h
      rwa [Nat.cast_zero, zero_add] at this
  rw [log2Floor_eq]
  exact htry _ _ (htry _ _ (wholePart_log2_pow hlow))

/-- The logarithm of a number that is no power of 2 is no number of s bits below the point. -/
theorem logb_ne (s F : Nat) {m k : Nat} (hlow : 2 ^ k < m) (hhigh : m < 2 ^ (k + 1)) : (F : ℝ) ≠ 2 ^ s * Real.logb 2 ((m : ℝ) / 2 ^ k) := by
  intro h
  have hm : (0 : ℝ) < m := by exact_mod_cast (lt_trans (by positivity) hlow : 0 < m)
  have hpow : m ^ 2 ^ s = 2 ^ (F + k * 2 ^ s) := by
    have hlog : ((m ^ 2 ^ s : Nat) : ℝ) = 2 ^ ((F + k * 2 ^ s : Nat) : ℝ) := by
      rw [eq_comm, ← Real.logb_eq_iff_rpow_eq (by norm_num) (by norm_num) (by push_cast; positivity)]
      push_cast
      rw [h, Real.logb_div hm.ne' (by positivity), Real.logb_pow, Real.logb_pow, Real.logb_self_eq_one (by norm_num)]
      push_cast
      ring
    rw [Real.rpow_natCast] at hlog
    exact_mod_cast hlog
  obtain ⟨f, -, rfl⟩ := (Nat.dvd_prime_pow Nat.prime_two).mp (hpow ▸ dvd_pow_self m (by positivity) : m ∣ 2 ^ (F + k * 2 ^ s))
  have h1 := (Nat.pow_lt_pow_iff_right (by decide)).mp hlow
  have h2 := (Nat.pow_lt_pow_iff_right (by decide)).mp hhigh
  omega

/-- Neighbours on a grid of p bits below the point and more, away from 0 by 2^(p + 1) of its units. -/
theorem bare_grid_int {p : Nat} {v : Int} (e : Int) (h : 2 ^ (p + 1) ≤ v ∨ v + 1 ≤ -(2 ^ (p + 1))) : Bare p (v * 2 ^ e) ((v + 1) * 2 ^ e) := by
  rcases h with h | h
  · obtain ⟨m, rfl⟩ := Int.eq_ofNat_of_zero_le ((by positivity : (0 : Int) ≤ 2 ^ (p + 1)).trans h)
    exact_mod_cast bare_grid (p := p) (m := m) e (by exact_mod_cast h)
  · obtain ⟨m, hm⟩ := Int.eq_ofNat_of_zero_le (show 0 ≤ -v - 1 by have := (by positivity : (0 : Int) < 2 ^ (p + 1)); omega)
    have hv : v = -(m + 1 : Int) := by omega
    have hbare := (bare_grid (p := p) (m := m) e (by zify; omega)).neg
    subst hv
    push_cast
    refine (congrArg₂ (Bare p) ?_ ?_).mp hbare <;> ring

/-- The linear bounds of log2 between 1 and 2. -/
theorem le_logb_one_add {t : ℝ} (h0 : 0 ≤ t) (h1 : t ≤ 1) : t ≤ Real.logb 2 (1 + t) := by
  rw [Real.le_logb_iff_rpow_le (by norm_num) (by linarith)]
  exact rpow_fraction_le h0 h1

theorem logb_one_sub_le {t : ℝ} (h0 : 0 ≤ t) (h1 : t < 1) : Real.logb 2 (1 - t) ≤ -t := by
  rw [Real.logb_le_iff_le_rpow (by norm_num) (by linarith), Real.rpow_def_of_pos (by norm_num)]
  have hexp := Real.add_one_le_exp (Real.log 2 * -t)
  have hlog : Real.log 2 < 1 := Real.log_two_lt_d9.trans (by norm_num)
  nlinarith

/-- The fraction's logarithm of a number of k + 1 bits that is no power of 2 stands away from 0 and from 1. -/
theorem logb_fraction_away {m k : Nat} (hlow : 2 ^ k < m) (hhigh : m < 2 ^ (k + 1)) :
    1 / 2 ^ k ≤ Real.logb 2 ((m : ℝ) / 2 ^ k) ∧ Real.logb 2 ((m : ℝ) / 2 ^ k) ≤ 1 - 1 / 2 ^ (k + 1) := by
  have hpow : (0 : ℝ) < 2 ^ k := by positivity
  have hle : (2 : ℝ) ^ k + 1 ≤ m := by exact_mod_cast hlow
  have hge : (m : ℝ) + 1 ≤ 2 * 2 ^ k := by rw [← pow_succ']; exact_mod_cast hhigh
  have hm : (0 : ℝ) < m := by linarith
  constructor
  · have hone : (1 : ℝ) / 2 ^ k ≤ 1 := by rw [div_le_one hpow]; exact one_le_pow₀ (by norm_num)
    refine (le_logb_one_add (by positivity) hone).trans (Real.logb_le_logb_of_le (by norm_num) (by positivity) ?_)
    rw [one_add_div hpow.ne']
    gcongr
  · have hsmall : (1 : ℝ) / 2 ^ (k + 1) < 1 := by rw [div_lt_one (by positivity)]; exact one_lt_pow₀ (by norm_num) (by omega)
    have hhalf : (m : ℝ) / 2 ^ k = 2 * (m / 2 ^ (k + 1)) := by rw [pow_succ]; field_simp
    have hle' : (m : ℝ) / 2 ^ (k + 1) ≤ 1 - 1 / 2 ^ (k + 1) := by
      rw [le_sub_iff_add_le, ← add_div, div_le_one (by positivity), pow_succ']
      exact hge
    have h := (Real.logb_le_logb_of_le (b := 2) (by norm_num) (by positivity) hle').trans (logb_one_sub_le (by positivity) hsmall)
    rw [hhalf, Real.logb_mul (by norm_num) (by positivity), Real.logb_self_eq_one (by norm_num)]
    linarith

/-- So the logarithm of a number of p bits stands away from 0, but for that of 1. -/
theorem logb_away {p m k : Nat} (E : Int) (hlow : 2 ^ k < m) (hhigh : m < 2 ^ (k + 1)) (hp : m < 2 ^ p) :
    1 / 2 ^ p ≤ (E : ℝ) + Real.logb 2 ((m : ℝ) / 2 ^ k) ∨ (E : ℝ) + Real.logb 2 ((m : ℝ) / 2 ^ k) ≤ -(1 / 2 ^ p) := by
  obtain ⟨h0, h1⟩ := logb_fraction_away hlow hhigh
  have hk : k + 1 ≤ p := (Nat.pow_lt_pow_iff_right (by decide)).mp (hlow.trans hp)
  rcases le_or_gt 0 E with hE | hE
  · left
    have hE' : (0 : ℝ) ≤ E := by exact_mod_cast hE
    have : (1 : ℝ) / 2 ^ p ≤ 1 / 2 ^ k := one_div_pow_le_one_div_pow_of_le (by norm_num) (by omega)
    linarith
  · right
    have hE' : (E : ℝ) ≤ -1 := by exact_mod_cast (by omega : E ≤ -1)
    have : (1 : ℝ) / 2 ^ p ≤ 1 / 2 ^ (k + 1) := one_div_pow_le_one_div_pow_of_le (by norm_num) hk
    linarith

/-- An integer's sign and magnitude, with a bit set below. -/
theorem Val.is_sticky_int (v e : Int) :
    (if 0 ≤ v then sticky false v.toNat true e else sticky true (-v - 1).toNat true e).Is (((v : ℝ) + 1 / 2) * 2 ^ e) := by
  split
  case isTrue h =>
    have hv : ((v.toNat : Nat) : ℝ) = v := by exact_mod_cast Int.toNat_of_nonneg h
    simpa [hv] using Val.is_sticky_true false v.toNat e
  case isFalse h =>
    have hv : (((-v - 1).toNat : Nat) : ℝ) = -v - 1 := by exact_mod_cast Int.toNat_of_nonneg (show 0 ≤ -v - 1 by omega)
    refine (congrArg (Val.Is _) ?_).mp (Val.is_sticky_true true (-v - 1).toNat e)
    rw [hv]
    simp only [↓reduceIte]
    ring

theorem logb_realOf {m : Nat} (e : Int) (hm : 0 < m) :
    Real.logb 2 (realOf false m e) = ((Nat.log2 m + e : Int) : ℝ) + Real.logb 2 ((m : ℝ) / 2 ^ Nat.log2 m) := by
  have hm' : (0 : ℝ) < m := by exact_mod_cast hm
  rw [realOf, Real.logb_div hm'.ne' (by positivity), Real.logb_pow, Real.logb_self_eq_one (by norm_num)]
  simp only [Bool.false_eq_true, ↓reduceIte, one_mul]
  rw [Real.logb_mul hm'.ne' (by positivity), ← Real.rpow_intCast, Real.logb_rpow (by norm_num) (by norm_num)]
  push_cast
  ring

theorem log2Sticky_roundsAs {p m : Nat} (e : Int) (hm : 0 < m) (hp : m < 2 ^ p) : (log2Sticky p m e).RoundsAs p (Real.logb 2 (realOf false m e)) := by
  obtain ⟨hlow, hhigh⟩ := log2_bounds hm
  rw [logb_realOf e hm]
  unfold log2Sticky
  dsimp only
  split
  case isTrue hpow =>
    refine Val.roundsAs_of_is p ((congrArg (Val.Is _) ?_).mp (Val.is_ofInt _ 0))
    rw [show (m : ℝ) = ((2 ^ Nat.log2 m : Nat) : ℝ) by exact_mod_cast hpow]
    push_cast
    rw [div_self (by positivity)]
    simp
  case isFalse hpow =>
    have hlow' := lt_of_le_of_ne hlow (Ne.symm hpow)
    generalize Nat.log2 m = k at *
    obtain ⟨hF1, hF2⟩ := wholePart_log2Floor (2 * p + 8) hlow hhigh
    have hne := logb_ne (2 * p + 8) (log2Floor (2 * p + 8) m k) hlow' hhigh
    have haway := logb_away (p := p) (k + e) hlow' hhigh hp
    generalize Real.logb 2 ((m : ℝ) / 2 ^ k) = L at *
    generalize log2Floor (2 * p + 8) m k = F at *
    generalize hv : ((k : Int) + e) * 2 ^ (2 * p + 8) + F = v
    have hunit : (0 : ℝ) < 2 ^ (-((2 * p + 8 : Nat) : Int)) := by positivity
    have hx : ((k + e : Int) : ℝ) + L = (((k + e : Int) : ℝ) + L) * 2 ^ (2 * p + 8) * 2 ^ (-((2 * p + 8 : Nat) : Int)) := by
      rw [zpow_neg, zpow_natCast]
      field_simp
    have hvreal : (v : ℝ) = ((k + e : Int) : ℝ) * 2 ^ (2 * p + 8) + F := by rw [← hv]; push_cast; ring
    have hv1 : (v : ℝ) < (((k + e : Int) : ℝ) + L) * 2 ^ (2 * p + 8) := by
      rw [hvreal]
      linarith [lt_of_le_of_ne hF1 hne]
    have hv2 : (((k + e : Int) : ℝ) + L) * 2 ^ (2 * p + 8) < v + 1 := by
      rw [hvreal]
      linarith
    have hfar : 2 ^ (p + 1) ≤ v ∨ v + 1 ≤ -(2 ^ (p + 1)) := by
      have hprod : (1 / 2 ^ p : ℝ) * 2 ^ (2 * p + 8) = 2 ^ (p + 8) := by
        rw [show 2 * p + 8 = p + (p + 8) by omega, pow_add]
        field_simp
      have hint : (2 : Int) ^ (p + 8) = 2 ^ (p + 1) * 2 ^ 7 := by rw [← pow_add]
      have hpos : (0 : Int) < 2 ^ (p + 1) := by positivity
      rcases haway with h | h
      · left
        have h' := mul_le_mul_of_nonneg_right h (by positivity : (0 : ℝ) ≤ 2 ^ (2 * p + 8))
        rw [hprod] at h'
        have hcast : (2 : Int) ^ (p + 8) < v + 1 := by exact_mod_cast h'.trans_lt hv2
        omega
      · right
        have h' := mul_le_mul_of_nonneg_right h (by positivity : (0 : ℝ) ≤ 2 ^ (2 * p + 8))
        rw [neg_mul, hprod] at h'
        have hcast : v < -(2 : Int) ^ (p + 8) := by exact_mod_cast hv1.trans_le h'
        omega
    refine Val.roundsAs_of_bare (bare_grid_int _ hfar) (Val.is_sticky_int v _) ⟨by gcongr; linarith, by gcongr; linarith⟩ ?_
    rw [hx]
    exact ⟨by gcongr, by gcongr⟩

end Sys2Proof

/-! The log-class functions (06 R117), and division, roots, exponential, logarithm and scaling as instructions (07 R146, R147). -/

namespace Sys2Proof

/-- The linear part of a logarithm: m × 2^e = 2^(k + e) (1 + fx), k the top bit's place. -/
noncomputable def logFraction (m : Nat) : ℝ := (m : ℝ) / 2 ^ Nat.log2 m - 1

theorem logParts_fraction {m : Nat} (hm : 0 < m) : ((m - 2 ^ Nat.log2 m : Nat) : ℝ) = logFraction m * 2 ^ Nat.log2 m := by
  rw [Nat.cast_sub (log2_bounds hm).1, logFraction]
  push_cast
  field_simp

/-- The quotient of 2^ex (1 + fa / 2^ka) and 2^ey (1 + fb / 2^kb) as the difference of their logarithms' linear parts. -/
theorem divParts_is (neg : Bool) {fa fb ka kb : Nat} (ex ey : Int) {fx fy : ℝ} (hfx : (fa : ℝ) = fx * 2 ^ ka) (hfy : (fb : ℝ) = fy * 2 ^ kb)
    (hlt : fb < 2 ^ kb) :
    (if fb * 2 ^ ka ≤ fa * 2 ^ kb then Val.fin neg (2 ^ (ka + kb) + (fa * 2 ^ kb - fb * 2 ^ ka)) (ex - ey - (ka + kb : Nat))
      else Val.fin neg (2 * 2 ^ (ka + kb) - (fb * 2 ^ ka - fa * 2 ^ kb)) (ex - ey - 1 - (ka + kb : Nat))).Is
    ((if neg then -1 else 1) * (if fy ≤ fx then 2 ^ (ex - ey) * (1 + (fx - fy)) else 2 ^ (ex - ey - 1) * (2 + (fx - fy)))) := by
  have hn : ((fa * 2 ^ kb : Nat) : ℝ) = fx * 2 ^ (ka + kb) := by push_cast; rw [hfx, pow_add]; ring
  have hd : ((fb * 2 ^ ka : Nat) : ℝ) = fy * 2 ^ (ka + kb) := by push_cast; rw [hfy, pow_add]; ring
  have hiff : fb * 2 ^ ka ≤ fa * 2 ^ kb ↔ fy ≤ fx := by
    rw [← Nat.cast_le (α := ℝ), hn, hd, mul_le_mul_iff_left₀ (by positivity)]
  have hexp (i : Int) : (2 : ℝ) ^ (i - ((ka : Int) + kb)) * 2 ^ (ka + kb) = 2 ^ i := by
    rw [← Nat.cast_add, zpow_sub₀ (two_ne_zero' ℝ), zpow_natCast]
    field_simp
  split
  case isTrue h =>
    rw [if_pos (hiff.mp h)]
    refine ⟨by positivity, ?_⟩
    simp only [realOf, Nat.cast_add, Nat.cast_sub h, hn, hd, Nat.cast_pow, Nat.cast_ofNat]
    rw [← hexp (ex - ey)]
    ring
  case isFalse h =>
    rw [if_neg (mt hiff.mpr h)]
    have hle : fb * 2 ^ ka < 2 ^ (ka + kb) := by
      rw [Nat.add_comm, Nat.pow_add]
      exact Nat.mul_lt_mul_of_pos_right hlt (by positivity)
    have hle' : fb * 2 ^ ka - fa * 2 ^ kb ≤ 2 * 2 ^ (ka + kb) := by omega
    refine ⟨by omega, ?_⟩
    simp only [realOf, Nat.cast_sub hle', Nat.cast_sub (not_le.mp h).le, hn, hd, Nat.cast_add, Nat.cast_mul, Nat.cast_pow, Nat.cast_ofNat]
    rw [← hexp (ex - ey - 1)]
    ring

theorem divLog_is (neg : Bool) {m m' : Nat} (e e' : Int) (hm : 0 < m) (hm' : 0 < m') :
    let ex : Int := Nat.log2 m + e
    let ey : Int := Nat.log2 m' + e'
    (divLog neg m e m' e').Is ((if neg then -1 else 1) * (if logFraction m' ≤ logFraction m then
      2 ^ (ex - ey) * (1 + (logFraction m - logFraction m')) else 2 ^ (ex - ey - 1) * (2 + (logFraction m - logFraction m')))) := by
  have hlt : m' - 2 ^ Nat.log2 m' < 2 ^ Nat.log2 m' := by
    have := log2_bounds hm'
    rw [pow_succ] at this
    omega
  exact divParts_is neg _ _ (logParts_fraction hm) (logParts_fraction hm') hlt

theorem floor_div_two_pow (n : Int) (k : Nat) : ⌊(n : ℝ) / 2 ^ k⌋ = n / 2 ^ k := by
  have hcast : ((2 ^ k : Nat) : ℝ) = 2 ^ k := by push_cast; rfl
  rw [← hcast, Int.floor_div_natCast, Int.floor_intCast]
  push_cast
  rfl

theorem antilog_is (n : Int) (k : Nat) : (antilog n k).Is (antilogOf ((n : ℝ) / 2 ^ k)) := by
  obtain ⟨hrest, -⟩ := fraction_bounds n k
  have hcast : ((n - n / 2 ^ k * 2 ^ k).toNat : ℝ) = n - (n / 2 ^ k : Int) * 2 ^ k := by exact_mod_cast hrest
  have hshift : n >>> k = n / 2 ^ k := by rw [Int.shiftRight_eq_div_pow]; push_cast; rfl
  rw [antilogOf, floor_div_two_pow, antilog, hshift]
  refine ⟨by positivity, ?_⟩
  simp only [realOf, Nat.cast_add, hcast, Nat.cast_pow, Nat.cast_ofNat, zpow_sub₀ (two_ne_zero' ℝ), zpow_natCast, Bool.false_eq_true, ↓reduceIte, one_mul]
  field_simp
  ring

theorem logParts_sum {m : Nat} (e : Int) (hm : 0 < m) :
    ((((Nat.log2 m : Int) + e) * 2 ^ Nat.log2 m + (m - 2 ^ Nat.log2 m : Nat) : Int) : ℝ) = (((Nat.log2 m + e : Int) : ℝ) + logFraction m) * 2 ^ Nat.log2 m := by
  have hfx := logParts_fraction hm
  push_cast
  rw [hfx]
  ring

theorem sqrtLog_is {m : Nat} (e : Int) (hm : 0 < m) : (sqrtLog m e).Is (antilogOf ((((Nat.log2 m + e : Int) : ℝ) + logFraction m) / 2)) := by
  refine (congrArg (Val.Is _) (congrArg antilogOf ?_)).mp (antilog_is _ _)
  rw [logParts_sum e hm, pow_succ]
  field_simp

theorem rsqrtLog_is {m : Nat} (e : Int) (hm : 0 < m) : (rsqrtLog m e).Is (antilogOf (-(((Nat.log2 m + e : Int) : ℝ) + logFraction m) / 2)) := by
  refine (congrArg (Val.Is _) (congrArg antilogOf ?_)).mp (antilog_is _ _)
  rw [Int.cast_neg, logParts_sum e hm, pow_succ]
  field_simp

theorem log2Log_is {m : Nat} (e : Int) (hm : 0 < m) : (log2Log m e).Is (((Nat.log2 m + e : Int) : ℝ) + logFraction m) := by
  refine (congrArg (Val.Is _) ?_).mp (Val.is_ofInt _ _)
  rw [logParts_sum e hm, zpow_neg, zpow_natCast]
  field_simp

/-- An antilogarithm lies between the powers of 2 around it. -/
theorem antilogOf_bounds (x : ℝ) : (2 : ℝ) ^ ⌊x⌋ ≤ antilogOf x ∧ antilogOf x < 2 ^ (⌊x⌋ + 1) := by
  have h0 := Int.floor_le x
  have h1 := Int.lt_floor_add_one x
  have hpow : (0 : ℝ) < 2 ^ ⌊x⌋ := by positivity
  rw [antilogOf, zpow_add_one₀ (two_ne_zero' ℝ)]
  constructor
  · exact le_mul_of_one_le_right hpow.le (by linarith)
  · exact mul_lt_mul_of_pos_left (by linarith) hpow

theorem exp2Log_roundsAs {p : Nat} (hp : p ≤ 53) (n : Bool) {m : Nat} (e : Int) (hm : 0 < m) : (exp2Log n m e).RoundsAs p (antilogOf (realOf n m e)) := by
  unfold exp2Log
  split
  case isTrue hbig =>
    obtain ⟨hlow, hhigh⟩ := antilogOf_bounds (realOf n m e)
    refine Val.huge_roundsAs hp n hm hbig (fun i hi => ?_) (fun i hi => ?_) (lt_of_lt_of_le (by positivity) hlow)
    · exact le_trans (zpow_le_zpow_right₀ (by norm_num) (Int.le_floor.mpr hi)) hlow
    · exact lt_of_lt_of_le hhigh (zpow_le_zpow_right₀ (by norm_num) (Int.floor_lt.mpr hi))
  case isFalse =>
    refine Val.roundsAs_of_is p ?_
    dsimp only
    split
    case isTrue hnonneg =>
      obtain ⟨k, rfl⟩ := Int.eq_ofNat_of_zero_le hnonneg
      refine (congrArg (Val.Is _) (congrArg antilogOf ?_)).mp (antilog_is _ _)
      rw [realOf, Int.toNat_natCast, zpow_natCast]
      cases n <;> simp
    case isFalse hneg =>
      obtain ⟨k, rfl⟩ : ∃ k : Nat, e = -k := ⟨(-e).toNat, by omega⟩
      rw [intCast_div_two_pow, Int.neg_neg, Int.toNat_natCast]
      exact antilog_is _ _

end Sys2Proof

namespace Sys2Proof.Machine

theorem setFX_count {f : Tag} (h : f ∈ Encoding.setFX) : f.count = 1 := by
  simp only [Encoding.setFX, List.mem_cons, List.not_mem_nil, or_false] at h
  rcases h with rfl | rfl <;> rfl

/-- The spec of a function of one operand, in the class of Q (R146). -/
theorem fnForm_runs (i : Instr) (o : Enc) (g : Bool → Nat → Val → Special) (hf : o.fmt .f32 ∈ Encoding.setFX)
    (he : ∀ s, exec i s = .next (s.regInstr o (fnForm o g))) :
    let f := o.fmt .f32
    let ff := floatOf f
    let r (t : Thread) (_ : Nat) : Nat × Exc := roundSpecial ff (roundOf o t) (g (o.q == 2) ff.p (ff.decode (valLitA o f.wide t)))
    RunsOnRegisters i o false (opsA o f) (dstD o f) [] (Calm f r) (WritesRounded o f r) :=
  fpElems_runs i o (o.fmt .f32) (fnForm o g) _ he fun l t => by
    simp only [fnForm, litA_value, setFX_count hf]
    rfl

theorem fdiv_runs (o : Enc) (hf : o.fmt .f32 ∈ Encoding.setFX) :
    let f := o.fmt .f32
    let r (t : Thread) (_ : Nat) : Nat × Exc := fdivElem o t
    RunsOnRegisters (.fdiv o) o false (opsAB o f) (dstD o f) [] (Calm f r) (WritesRounded o f r) :=
  fpElems_runs (.fdiv o) o (o.fmt .f32) (fdivForm o) _ (fun _ => rfl) fun l t => by
    rw [fdiv_body, setFX_count hf]
    rfl

theorem fscalb_runs (o : Enc) :
    let f := o.fmt .f32
    let ff := floatOf f
    let a (t : Thread) (k : Nat) : Val := ff.decode (elem f.elemBits (valA o f.wide t) k)
    let r (t : Thread) (k : Nat) : Nat × Exc :=
      roundWith ff (roundOf o t) 0 false (scaleVal (signed 32 (valB o false t)) (a t k), (a t k).isSig)
    RunsOnRegisters (.fscalb o) o true (fun _ => [o.regA f.wide (.only f), o.litB false (.only .i32)]) (dstD o f) [] (Calm f r)
      (WritesRounded o f r) :=
  fpElems_runs (.fscalb o) o (o.fmt .f32) (fscalbForm o) _ (fun _ => rfl) fun l t => by
    simp only [fscalbForm, regA_value, litB_value]

end Sys2Proof.Machine

section
open Sys2Proof Sys2Proof.Machine

/-- Settles O6: in the exact class each value keeps its neighbours among numbers of p + 2 bits (`Val.sticky_roundsAs`); the exponential
and the logarithm by bounds that close in on them; in the log class each is the formula's own value. -/
theorem floatFunctions : Obligations.FloatFunctions := by
  refine ⟨fun o _ => ⟨fun hf => ?functions, fscalb_runs o⟩, specialResults, fun p n n' m m' e e' hp hm hm' => ?values, fun k n m e => ?scaled⟩
  case functions =>
    exact ⟨fdiv_runs o hf, fnForm_runs (.frcp o) o _ hf fun _ => rfl, fnForm_runs (.fsqrt o) o _ hf fun _ => rfl,
      fnForm_runs (.frsq o) o _ hf fun _ => rfl, fnForm_runs (.fexp2 o) o _ hf fun _ => rfl, fnForm_runs (.flog2 o) o _ hf fun _ => rfl⟩
  case scaled =>
    refine ⟨fun hm => ⟨hm, ?_⟩, rfl, rfl, fun _ _ => rfl⟩
    rw [realOf, realOf, zpow_add₀ (two_ne_zero' ℝ), mul_assoc]
  case values =>
    have hp53 : p ≤ 53 := by
      simp only [List.mem_cons, List.not_mem_nil, or_false] at hp
      omega
    intro x y rounds
    have hrcp : (1 : ℝ) / x = realOf false 1 0 / realOf n m e := by simp [realOf, x]
    refine ⟨⟨rfl, divSticky_roundsAs p n n' e e' hm hm'⟩, ⟨rfl, ?_⟩, ⟨rfl, exp2Sticky_roundsAs hp53 n e hm⟩, ⟨rfl, exp2Log_roundsAs hp53 n e hm⟩,
      ?_, ⟨rfl, divLog_is _ e e' hm hm'⟩, rfl, ?_⟩
    · rw [hrcp]
      exact divSticky_roundsAs p false n 0 e one_pos hm
    · rintro rfl
      exact ⟨⟨rfl, sqrtSticky_roundsAs p e hm⟩, ⟨rfl, rsqrtSticky_roundsAs p e hm⟩, fun hlt => ⟨rfl, log2Sticky_roundsAs e hm hlt⟩⟩
    · rintro rfl
      exact ⟨⟨rfl, sqrtLog_is e hm⟩, ⟨rfl, rsqrtLog_is e hm⟩, ⟨rfl, log2Log_is e hm⟩⟩
end

/-! How an entry of the array queues ends (12 R239, 13 R253): what its end changes of a core, and what its handle holds then. -/

namespace Sys2Proof.Machine

theorem State.core_modCrew_field {α : Type} (g : Core → α) (hg : ∀ (c : Core) sl x, g (c.setCrew sl x) = g c) (s : State) (b sl : Nat)
    (f : Crew → Crew) (b' : Nat) : g ((s.modCrew b sl f).core b') = g (s.core b') := by
  unfold State.modCrew
  split
  · rfl
  · exact s.core_modCore_field g (fun c => hg c _ _) b b'

theorem State.countMma_cores (s : State) (o : ArrayOp) (b outcome : Nat) : (s.countMma o b outcome).cores = s.cores := by
  unfold State.countMma
  simp

theorem State.countMma_arrays (s : State) (o : ArrayOp) (b outcome : Nat) : (s.countMma o b outcome).arrays = s.arrays := by
  unfold State.countMma
  simp

@[simp] theorem State.endHandle_arrays (s : State) (b k outcome detail : Nat) (fail : Option (Nat × DWord)) :
    (s.endHandle b k outcome detail fail).arrays = s.arrays := State.modHandle_arrays ..

@[simp] theorem State.wakeAll_arrays (s : State) : s.wakeAll.arrays = s.arrays := rfl

theorem State.core_wakeAll_field {α : Type} (g : Core → α) (hg : ∀ (c : Core) x, g { c with crews := x } = g c) (s : State) (b : Nat) :
    g (s.wakeAll.core b) = g (s.core b) := s.core_mapThreads_field g hg Thread.wakeUnit b

theorem State.handle_wakeAll (s : State) (b k : Nat) : s.wakeAll.handle b k = s.handle b k :=
  s.core_wakeAll_field (fun c => c.handle k) (fun _ _ => rfl) b

theorem State.core_endHandle_field {α : Type} (g : Core → α) (hg : ∀ (c : Core) x, g { c with handles := x } = g c) (s : State)
    (b k outcome detail : Nat) (fail : Option (Nat × DWord)) (b' : Nat) : g ((s.endHandle b k outcome detail fail).core b') = g (s.core b') := by
  refine (State.core_modCore_field g (fun c => ?_) s.newId.2 b b').trans rfl
  split
  · exact hg ..
  · rfl

/-- An operation's slot after its end (15 R292, R293). -/
theorem State.handle_endHandle {s : State} {b k : Nat} (hb : b < 160) (hk : k < 1024) (h : (s.handle b k).st = .pending) (outcome detail : Nat)
    (fail : Option (Nat × DWord)) : (s.endHandle b k outcome detail fail).handle b k =
      { s.handle b k with st := .ended, word := BitVec.ofNat 32 (outcome * 2 ^ 29 + min detail (2 ^ 24 - 1)), stamp := s.nextId, fail } := by
  unfold State.endHandle
  dsimp only
  have hsame : s.newId.2.handle b k = s.handle b k := rfl
  rw [State.handle_modHandle _ hb hk, if_pos rfl, hsame, if_pos h]
  rfl

/-- What the end of an entry leaves alone of a core: all but its crews, its pending accesses and FINJ. -/
structure Core.OutsideEnd {α : Type} (g : Core → α) : Prop where
  crews : ∀ (c : Core) sl x, g (c.setCrew sl x) = g c
  pend : ∀ (c : Core) x, g { c with pend := x } = g c
  finj : ∀ (c : Core) x, g { c with finj := x } = g c

theorem Core.outsideEnd_handle (k : Nat) : Core.OutsideEnd fun c => c.handle k where
  crews c sl x := by unfold Core.handle; simp only [Core.setCrew_handles]
  pend _ _ := rfl
  finj _ _ := rfl

theorem Core.outsideEnd_tas : Core.OutsideEnd Core.tas where
  crews c sl x := c.setCrew_tas sl x
  pend _ _ := rfl
  finj _ _ := rfl

/-- An entry's end is the end of its handle in a state without the entry. -/
theorem State.endArray_eq (s : State) {o : ArrayOp} {b team : Nat} {rest : List (Nat × Nat)} (hspan : o.span = (b, team) :: rest)
    (outcome addr : Nat) : ∃ u : State, s.endArray o outcome addr = u.endHandle b o.handle outcome 0 (failOf 1 outcome addr) ∧
      u.arrays = s.arrays.filter (fun a => a.id != o.id) ∧
      ∀ {α : Type} (g : Core → α), Core.OutsideEnd g → ∀ b', g (u.core b') = g (s.core b') := by
  unfold State.endArray
  simp only [hspan]
  refine ⟨_, rfl, ?_⟩
  split
  · exact ⟨rfl, fun g hg b' => rfl⟩
  · constructor
    · rw [State.countMma_arrays]
      refine State.foldl_keeps (P := fun u => u.arrays = s.arrays.filter fun a => a.id != o.id)
        (fun u k hu => (u.modCore_arrays k _).trans hu) _ ?_
      rw [State.modCore_arrays, State.modCrew_arrays]
    · intro α g hg b'
      rw [State.core_of_cores_eq (State.countMma_cores ..)]
      refine State.foldl_keeps (P := fun u => g (u.core b') = g (s.core b'))
        (fun u k hu => (u.core_modCore_field g (fun c => hg.finj c _) k b').trans hu) _ ?_
      exact (State.core_modCore_field g (fun c => hg.pend c _) _ b b').trans
        (State.core_modCrew_field g hg.crews { s with arrays := s.arrays.filter fun a => a.id != o.id } b o.slot _ b')

theorem State.endArray_arrays (s : State) {o : ArrayOp} {b team : Nat} {rest : List (Nat × Nat)} (hspan : o.span = (b, team) :: rest)
    (outcome addr : Nat) : (s.endArray o outcome addr).arrays = s.arrays.filter fun a => a.id != o.id := by
  obtain ⟨u, heq, harr, -⟩ := s.endArray_eq hspan outcome addr
  rw [heq, State.endHandle_arrays, harr]

theorem State.handle_endArray (s : State) {o : ArrayOp} {b team : Nat} {rest : List (Nat × Nat)} (hspan : o.span = (b, team) :: rest)
    (hb : b < 160) (hk : o.handle < 1024) (h : (s.handle b o.handle).st = .pending) (outcome addr : Nat) :
    let z := (s.endArray o outcome addr).handle b o.handle
    z.st = .ended ∧ z.word = BitVec.ofNat 32 (outcome * 2 ^ 29) ∧ z.fail = failOf 1 outcome addr := by
  obtain ⟨u, heq, -, hg⟩ := s.endArray_eq hspan outcome addr
  have hu : u.handle b o.handle = s.handle b o.handle := hg (fun c => c.handle o.handle) (Core.outsideEnd_handle o.handle) b
  dsimp only
  rw [heq, State.handle_endHandle hb hk (hu ▸ h)]
  exact ⟨rfl, by rw [Nat.zero_min, Nat.add_zero], rfl⟩

theorem State.endArray_tas (s : State) {o : ArrayOp} {b team : Nat} {rest : List (Nat × Nat)} (hspan : o.span = (b, team) :: rest)
    (outcome addr b' : Nat) : ((s.endArray o outcome addr).core b').tas = (s.core b').tas := by
  obtain ⟨u, heq, -, hg⟩ := s.endArray_eq hspan outcome addr
  rw [heq]
  exact (State.core_endHandle_field Core.tas (fun _ _ => rfl) ..).trans (hg Core.tas Core.outsideEnd_tas b')

end Sys2Proof.Machine

/-! The states of an MMA (12 R239), one lemma for each event. -/

namespace Sys2Proof.Machine

/-- An event of an MMA that is in the state the event belongs to. -/
theorem State.mmaIn_eq {s : State} {id : Nat} {a : ArrayOp} (ha : s.arrays.find? (fun z => z.id == id) = some a) (hmma : a.isMma = true)
    {st : ArrayState} (hst : a.st = st) (f : ArrayOp → State) : s.mmaIn id st f = .next (f a) := by
  unfold State.mmaIn State.array
  simp [ha, hmma, hst]

theorem State.id_of_find {s : State} {id : Nat} {a : ArrayOp} (ha : s.arrays.find? (fun z => z.id == id) = some a) : a.id = id := by
  simpa using List.find?_some ha

@[simp] theorem State.modArray_arrays (s : State) (id : Nat) (f : ArrayOp → ArrayOp) :
    (s.modArray id f).arrays = s.arrays.map fun z => if z.id = id then f z else z := rfl

/-- The entry of an id, once changed in a way that leaves its id. -/
theorem State.find_modArray {s : State} {id : Nat} {a : ArrayOp} (ha : s.arrays.find? (fun z => z.id == id) = some a)
    {f : ArrayOp → ArrayOp} (hf : ∀ z, (f z).id = z.id) : (s.modArray id f).arrays.find? (fun z => z.id == id) = some (f a) := by
  have hid : ∀ z : ArrayOp, (if z.id = id then f z else z).id = z.id := fun z => by split <;> simp [hf]
  rw [State.modArray_arrays, List.find?_map]
  simp only [Function.comp_def, hid, ha, Option.map_some, State.id_of_find ha, if_true]

/-! Steps that leave the array queues alone. -/

theorem State.foldl_arrays {α : Type} {f : State → α → State} (hf : ∀ s x, (f s x).arrays = s.arrays) (s : State) (l : List α) :
    (l.foldl f s).arrays = s.arrays :=
  State.foldl_keeps (P := fun u => u.arrays = s.arrays) (fun u x hu => (hf u x).trans hu) l rfl

@[simp] theorem State.modRail_arrays (s : State) (b : Nat) (f : Rail → Rail) : (s.modRail b f).arrays = s.arrays := s.modCore_arrays b _
@[simp] theorem State.tune_arrays (s : State) (b : Nat) (f : Rail → Rail) : (s.tune b f).arrays = s.arrays := s.modCore_arrays b _
@[simp] theorem State.begunWriting_arrays (s : State) (o : ArrayOp) : (s.begunWriting o).arrays = s.arrays := s.modThread_arrays ..
@[simp] theorem State.memberAdds_arrays (s : State) (o : ArrayOp) (n : Nat) (m : Nat × Nat) : (s.memberAdds o n m).arrays = s.arrays := by
  unfold State.memberAdds
  split
  · rfl
  · exact s.modCore_arrays ..

theorem State.enterAdd_arrays (s : State) (id : Nat) :
    (s.enterAdd id).arrays = s.arrays.map fun z => if z.id = id then { z with st := .add } else z := by
  unfold State.enterAdd
  dsimp only
  split <;> simp

/-! QUEUED, RAIL and COMPUTE. -/

/-- An entry older than which no entry shares a queue with it. -/
theorem State.oldest_of_first {s : State} {a : ArrayOp}
    (h : ∀ z ∈ s.arrays, z.id < a.id → ∀ m ∈ z.span, ∀ n ∈ a.span, m.1 ≠ n.1) : s.oldest a = true := by
  unfold State.oldest
  rw [List.all_eq_true]
  intro z hz
  by_cases hlt : z.id < a.id
  · have hno : (z.span.any fun m => a.span.any fun k => k.1 == m.1) = false := by
      simp only [List.any_eq_false, Bool.not_eq_true, beq_eq_false_iff_ne]
      exact fun m hm n hn => (h z hz hlt m hm n hn).symm
    simp [hno]
  · simp [Nat.le_of_not_lt hlt]

/-- The rails of the span as the attempt wants them (R239, R242). -/
def Rail.raise (log : Bool) (attempt : Nat) (r : Rail) : Rail :=
  { r with raised := if log || attempt != 1 then some (r.attempt log attempt) else none, extra := max r.extra (r.attempt log attempt - r.v) }

/-- The voltage at which a raised rail stands. -/
theorem Rail.raise_volts (log : Bool) (n : Nat) (r : Rail) : ((r.raise log n).raised.getD r.v) =
    if log || n == 4 then 7500 else if n = 1 then r.v else min (r.v + 250 * (n - 1)) 7500 := by
  unfold Rail.raise Rail.attempt
  by_cases hlog : log = true
  · simp [hlog]
  · by_cases h1 : n = 1
    · simp [hlog, h1]
    · simp [hlog, h1]

/-- Raising a rail twice over for one attempt is raising it once. -/
theorem Rail.raise_raised (log : Bool) (n : Nat) (r q : Rail) (hv : q.v = r.v) : (q.raise log n).raised = (r.raise log n).raised := by
  unfold Rail.raise Rail.attempt
  simp only [hv]

/-- Rails of a list of cores raised for an attempt: each keeps its V and stands at the attempt's voltage. -/
theorem State.foldl_raise (log : Bool) (n : Nat) (s : State) (l : List (Nat × Nat)) {m : Nat × Nat} (hm : m ∈ l) (hb : m.1 < 160) :
    let u := l.foldl (fun (s : State) m => s.modRail m.1 (Rail.raise log n)) s
    (u.core m.1).rail.v = (s.core m.1).rail.v ∧ (u.core m.1).rail.raised = ((s.core m.1).rail.raise log n).raised := by
  have hv (u : State) (b : Nat) : ((u.modRail b (Rail.raise log n)).core m.1).rail.v = (u.core m.1).rail.v :=
    State.core_modCore_field (f := fun c => { c with rail := c.rail.raise log n }) (fun c => c.rail.v) (fun _ => rfl) u b m.1
  have hraised (u : State) (hu : (u.core m.1).rail.v = (s.core m.1).rail.v) :
      ((u.modRail m.1 (Rail.raise log n)).core m.1).rail.raised = ((s.core m.1).rail.raise log n).raised := by
    unfold State.modRail
    rw [State.core_modCore, if_pos ⟨rfl, hb⟩]
    exact Rail.raise_raised log n _ _ hu
  refine State.foldl_makes (f := fun s x => s.modRail x.1 (Rail.raise log n)) (K := fun u => (u.core m.1).rail.v = (s.core m.1).rail.v)
    (P := fun u => (u.core m.1).rail.v = (s.core m.1).rail.v ∧ (u.core m.1).rail.raised = ((s.core m.1).rail.raise log n).raised)
    (fun u x hu => (hv u x.1).trans hu) (fun u hu => ⟨(hv u m.1).trans hu, hraised u hu⟩) (fun u x hu => ⟨(hv u x.1).trans hu.1, ?_⟩) hm rfl
  by_cases hx : x.1 = m.1
  · rw [hx]
    exact hraised u hu.1
  · unfold State.modRail
    rw [State.core_modCore_ne _ _ (Ne.symm hx)]
    exact hu.2

/-- With every rail of the span at 0.75 V no cell errs (R238). -/
theorem State.railErrors_of_full {s : State} {a : ArrayOp} (h : ∀ m ∈ a.span, 7500 ≤ (s.core m.1).rail.raised.getD (s.core m.1).rail.v) :
    s.railErrors a = [] := by
  unfold State.railErrors
  refine if_pos (List.all_eq_true.mpr fun n hn => ?_)
  have hlt := List.mem_range.mp hn
  simpa [List.getElem?_eq_getElem hlt] using h _ (List.getElem_mem hlt)

/-- FINJ that is not armed injects nothing (R244). -/
theorem ArrayOp.foldl_unarmed {s : State} {g : ArrayOp → Nat × Nat × Nat → ArrayOp} {l : List (Nat × Nat × Nat)}
    (h : ∀ m ∈ l, (s.core m.2.1).finj.getLsbD 31 = false) (o : ArrayOp) :
    l.foldl (fun (o : ArrayOp) m => if !bit (s.core m.2.1).finj.toNat 31 then o else g o m) o = o := by
  induction l generalizing o with
  | nil => rfl
  | cons m l ih =>
    have hbit : bit (s.core m.2.1).finj.toNat 31 = false := h m List.mem_cons_self
    rw [List.foldl_cons, hbit]
    exact ih (fun x hx => h x (List.mem_cons_of_mem _ hx)) o

end Sys2Proof.Machine

/-! The events of an MMA from QUEUED to its check (12 R232, R238, R239, R242, R244). -/

namespace Sys2Proof.Machine

section
variable {s : State} {id : Nat} {a : ArrayOp}

theorem exec_mmaStart (ha : s.arrays.find? (fun z => z.id == id) = some a) (hmma : a.isMma = true) (hst : a.st = .queued)
    (hfirst : ∀ z ∈ s.arrays, z.id < id → ∀ m ∈ z.span, ∀ n ∈ a.span, m.1 ≠ n.1) :
    exec (.mmaStart id) s = .next (s.modArray id fun z => { z with st := .rail }) := by
  refine (State.mmaIn_eq ha hmma hst _).trans ?_
  rw [if_pos (State.oldest_of_first (State.id_of_find ha ▸ hfirst))]

theorem exec_mmaRailReady (ha : s.arrays.find? (fun z => z.id == id) = some a) (hmma : a.isMma = true) (hst : a.st = .rail) :
    exec (.mmaRailReady id) s = .next ((a.span.foldl (fun (s : State) m => s.modRail m.1 (Rail.raise a.mma.isLog a.attempt)) s).modArray id
      fun z => { z with st := .fetch }) :=
  State.mmaIn_eq ha hmma hst _

theorem exec_mmaLastStep_log (ha : s.arrays.find? (fun z => z.id == id) = some a) (hmma : a.isMma = true) (hst : a.st = .compute)
    (hlog : a.mma.isLog = true) : exec (.mmaLastStep id) s = .next (s.enterAdd id) := by
  refine (State.mmaIn_eq ha hmma hst _).trans ?_
  rw [if_pos hlog]

theorem exec_mmaLastStep_check (ha : s.arrays.find? (fun z => z.id == id) = some a) (hmma : a.isMma = true) (hst : a.st = .compute)
    (hlog : a.mma.isLog = false) (hfinj : ∀ m ∈ a.span, (s.core m.1).finj.getLsbD 31 = false) :
    exec (.mmaLastStep id) s = .next (s.modArray id fun _ => { a with errs := s.railErrors a, st := .check }) := by
  refine (State.mmaIn_eq ha hmma hst _).trans ?_
  rw [if_neg (by simp [hlog])]
  dsimp only
  rw [ArrayOp.foldl_unarmed]
  intro m hm
  exact hfinj m.2 (List.of_mem_zip hm).2

/-- The located elements of a check, as member and position (R238). -/
def ArrayOp.found (a : ArrayOp) : List (Nat × Nat) :=
  (List.range a.span.length).filterMap fun n => match a.verdict n with
    | .located i j => some (n, 128 * i + j)
    | _ => none

theorem ArrayOp.mem_found (a : ArrayOp) (n k : Nat) :
    (n, k) ∈ a.found ↔ n < a.span.length ∧ ∃ i j, a.verdict n = .located i j ∧ 128 * i + j = k := by
  unfold ArrayOp.found
  simp only [List.mem_filterMap, List.mem_range]
  constructor
  · rintro ⟨n', hn', h⟩
    cases hv : a.verdict n' with
    | located i j =>
      simp only [hv, Option.some.injEq, Prod.mk.injEq] at h
      obtain ⟨rfl, rfl⟩ := h
      exact ⟨hn', i, j, hv, rfl⟩
    | pass => simp [hv] at h
    | fail => simp [hv] at h
  · rintro ⟨hn, i, j, hv, rfl⟩
    exact ⟨n, hn, by simp [hv]⟩

theorem ArrayOp.fails_iff (a : ArrayOp) : a.fails = true ↔ ∃ n < a.span.length, a.verdict n = .fail := by
  simp [ArrayOp.fails]

/-- With no block failed and none located every block has passed. -/
theorem ArrayOp.found_isEmpty_iff {a : ArrayOp} (hf : a.fails = false) : a.found.isEmpty = true ↔ ∀ n < a.span.length, a.verdict n = .pass := by
  have hno : ¬ ∃ n < a.span.length, a.verdict n = .fail := by rw [← ArrayOp.fails_iff, hf]; simp
  rw [List.isEmpty_iff]
  constructor
  · intro he n hn
    cases hv : a.verdict n with
    | pass => rfl
    | located i j => exact absurd ((a.mem_found n _).mpr ⟨hn, i, j, hv, rfl⟩) (he ▸ List.not_mem_nil)
    | fail => exact absurd ⟨n, hn, hv⟩ hno
  · intro hp
    refine List.eq_nil_iff_forall_not_mem.mpr fun ⟨n, k⟩ hm => ?_
    obtain ⟨hn, i, j, hv, -⟩ := (a.mem_found n k).mp hm
    simp [hp n hn] at hv

/-- Without injected errors the block is what it would be without injection. -/
theorem ArrayOp.uninjected_eq {a : ArrayOp} (h : ∀ e ∈ a.errs, e.inj = false) : a.uninjected = a := by
  unfold ArrayOp.uninjected
  rw [List.filter_eq_self.mpr fun e he => by simp [h e he]]

/-- What FINJ changed of a correction: the located members whose block would not have been located without it (R245). -/
def ArrayOp.injectedMembers (a : ArrayOp) : List Nat := (a.found.map (·.1)).filter fun n => !a.uninjected.locates n

theorem ArrayOp.injectedMembers_eq_nil {a : ArrayOp} (h : ∀ e ∈ a.errs, e.inj = false) : a.injectedMembers = [] := by
  refine List.filter_eq_nil_iff.mpr fun n hn => ?_
  obtain ⟨⟨n', k⟩, hm, rfl⟩ := List.mem_map.mp hn
  obtain ⟨-, i, j, hv, -⟩ := (a.mem_found n' k).mp hm
  simp [ArrayOp.uninjected_eq h, ArrayOp.locates, hv]

theorem exec_mmaCheckDone_pass (ha : s.arrays.find? (fun z => z.id == id) = some a) (hmma : a.isMma = true) (hst : a.st = .check)
    (hpass : ∀ n < a.span.length, a.verdict n = .pass) : exec (.mmaCheckDone id) s = .next (s.enterAdd id) := by
  have hf : a.fails = false := by
    rw [← Bool.not_eq_true, ArrayOp.fails_iff]
    rintro ⟨n, hn, hv⟩
    simp [hpass n hn] at hv
  refine (State.mmaIn_eq ha hmma hst _).trans ?_
  dsimp only
  rw [if_neg (by simp [hf])]
  exact congrArg _ (if_pos ((ArrayOp.found_isEmpty_iff hf).mpr hpass))

theorem exec_mmaCheckDone_locate (ha : s.arrays.find? (fun z => z.id == id) = some a) (hmma : a.isMma = true) (hst : a.st = .check)
    (hf : a.fails = false) (hnot : ¬ ∀ n < a.span.length, a.verdict n = .pass) :
    exec (.mmaCheckDone id) s = .next (s.modArray id fun z =>
      { z with st := .correct, located := a.found, injected := { z.injected with members := a.injectedMembers } }) := by
  refine (State.mmaIn_eq ha hmma hst _).trans ?_
  dsimp only
  rw [if_neg (by simp [hf])]
  exact congrArg _ (if_neg fun he => hnot ((ArrayOp.found_isEmpty_iff hf).mp he))

/-- The tuner's counts of a check that failed, unless injection made it fail (R243, R245). -/
def State.tuneSpan (s : State) (a : ArrayOp) (f : Rail → Rail) : State :=
  if a.uninjected.fails then a.span.foldl (fun (s : State) m => s.tune m.1 f) s else s

theorem State.tuneSpan_arrays (s : State) (a : ArrayOp) (f : Rail → Rail) : (s.tuneSpan a f).arrays = s.arrays := by
  unfold State.tuneSpan
  split
  · exact State.foldl_arrays (fun u m => u.tune_arrays m.1 f) s a.span
  · rfl

theorem State.handle_tune (s : State) (b' : Nat) (f : Rail → Rail) (b k : Nat) : (s.tune b' f).handle b k = s.handle b k :=
  State.handle_modCore (f := fun c => { c with rail := f (c.rail.step c.crTarget.toNat) }) (fun _ => rfl) s b' b k

theorem State.handle_tuneSpan (s : State) (a : ArrayOp) (f : Rail → Rail) (b k : Nat) : (s.tuneSpan a f).handle b k = s.handle b k := by
  unfold State.tuneSpan
  split
  · refine State.foldl_keeps (P := fun u => u.handle b k = s.handle b k) (fun u m hu => ?_) _ rfl
    rw [State.handle_tune, hu]
  · rfl

theorem exec_mmaCheckDone_again (ha : s.arrays.find? (fun z => z.id == id) = some a) (hmma : a.isMma = true) (hst : a.st = .check)
    (hf : a.fails = true) (hn : a.attempt < 4) : exec (.mmaCheckDone id) s = .next ((s.tuneSpan a fun r => { r with r := r.r + 1 }).modArray id
      fun z => { z with st := .rail, attempt := z.attempt + 1, errs := [], located := [],
                        injected := { z.injected with reissues := z.injected.reissues + (!a.uninjected.fails).toNat } }) := by
  refine (State.mmaIn_eq ha hmma hst _).trans ?_
  dsimp only
  rw [if_pos hf, if_pos hn]
  rfl

/-- The entry as its failure is recorded (R245). -/
def ArrayOp.failed (a : ArrayOp) : ArrayOp := { a with injected := { a.injected with failed := !a.uninjected.fails } }

theorem exec_mmaCheckDone_end (ha : s.arrays.find? (fun z => z.id == id) = some a) (hmma : a.isMma = true) (hst : a.st = .check)
    (hf : a.fails = true) (hn : a.attempt = 4) : exec (.mmaCheckDone id) s =
      .next (((s.tuneSpan a fun r => { r with failed := true }).endArray a.failed outcomeUncorrectable 0).wakeAll) := by
  refine (State.mmaIn_eq ha hmma hst _).trans ?_
  dsimp only
  have hlast : ¬ a.attempt < 4 := by omega
  rw [if_pos hf, if_neg hlast]
  rfl

theorem exec_mmaCorrectDone (ha : s.arrays.find? (fun z => z.id == id) = some a) (hmma : a.isMma = true) (hst : a.st = .correct) :
    exec (.mmaCorrectDone id) s = .next ((s.modArray id fun z =>
      { z with corr := z.located.length, errs := z.errs.filter fun e => !z.located.contains (e.member, 128 * e.row + e.col) }).enterAdd id) :=
  State.mmaIn_eq ha hmma hst _

theorem exec_mmaAddDone (ha : s.arrays.find? (fun z => z.id == id) = some a) (hmma : a.isMma = true) (hst : a.st = .add) :
    exec (.mmaAddDone id) s = .next (s.addDone a).wakeAll :=
  State.mmaIn_eq ha hmma hst _

/-- Malformed metadata ends the entry (R233, R253). -/
theorem exec_mmaOperandsDelivered_malformed (ha : s.arrays.find? (fun z => z.id == id) = some a) (hmma : a.isMma = true) (hst : a.st = .fetch)
    (hseen : s.storesSeen a = true) {u : State} {da md oa ob sa sb : List Byte} {db : List (List Byte)}
    (hgot : s.mmaFetch a a.mma = (u, .ok (da :: md :: oa :: ob :: sa :: sb :: db))) {at_ : Nat}
    (hsums : a.mma.sums a.span.length da md (if a.mma.offsA then some oa else none) db (if a.mma.offsB then some ob else none) = .inr at_) :
    exec (.mmaOperandsDelivered id) s = .next ((s.endArray a outcomeMalformed (ownSpad a.mma.tA.sparse + at_)).wakeAll) := by
  refine (State.mmaIn_eq ha hmma hst _).trans ?_
  simp [hseen, hgot, hsums]

/-- The 32 bits of a tile's scale, 1 where it has none. -/
def scaleBits (d : List Byte) : Nat := if d.isEmpty then 0x3F800000 else leNat d

theorem exec_mmaOperandsDelivered (ha : s.arrays.find? (fun z => z.id == id) = some a) (hmma : a.isMma = true) (hst : a.st = .fetch)
    (hseen : s.storesSeen a = true) {u : State} {da md oa ob sa sb : List Byte} {db : List (List Byte)}
    (hgot : s.mmaFetch a a.mma = (u, .ok (da :: md :: oa :: ob :: sa :: sb :: db))) {r : MmaSums}
    (hsums : a.mma.sums a.span.length da md (if a.mma.offsA then some oa else none) db (if a.mma.offsB then some ob else none) = .inl r) :
    exec (.mmaOperandsDelivered id) s = .next (s.modArray id fun z =>
      { z with st := .compute, emax := r.emax, good := r.good, guardRows := r.rows, guardCols := r.cols,
               scales := [scaleBits sa, scaleBits sb], errs := [] }) := by
  refine (State.mmaIn_eq ha hmma hst _).trans ?_
  simp [hseen, hgot, hsums, scaleBits]

end

end Sys2Proof.Machine

/-! How an MMA ends (12 R239, R240, R246), and the adds of a member to its own TAS (12 R231). -/

namespace Sys2Proof.Machine

/-- One member's part of the end of an MMA: its adds, CRCOUNT and the tuner's counts (R239, R243, R246). -/
def State.memberDone (s : State) (o : ArrayOp) (m : Nat × Nat × Nat) : State :=
  let c := if o.corr = 0 then 0 else (o.located.filter fun l => l.1 == m.1).length
  let own := if o.injected.members.contains m.1 then 0 else c
  let s := s.memberAdds o m.1 m.2
  let s := s.modCore m.2.1 fun x => { x with crCount := x.crCount + BitVec.ofNat 32 c }
  if o.mma.isLog then s else s.tune m.2.1 fun r => { r with retired := r.retired + 1, c := r.c + own }

theorem State.addDone_eq (s : State) (o : ArrayOp) : s.addDone o =
    (((List.range o.span.length).zip o.span).foldl (fun (s : State) m => s.memberDone o m) s).endArray o outcomeRetired 0 := rfl

/-- After its adds a member counts, in CRCOUNT and on its rail. -/
theorem State.memberDone_eq (s : State) (o : ArrayOp) (m : Nat × Nat × Nat) : ∃ (n : Core → BitVec 32) (r : Core → Rail),
    s.memberDone o m = (s.memberAdds o m.1 m.2).modCore m.2.1 fun c => { c with crCount := n c, rail := r c } := by
  unfold State.memberDone State.tune
  dsimp only
  rw [State.modCore_modCore]
  split
  · exact ⟨_, Core.rail, rfl⟩
  · exact ⟨_, _, rfl⟩

theorem State.memberDone_arrays (s : State) (o : ArrayOp) (m : Nat × Nat × Nat) : (s.memberDone o m).arrays = s.arrays := by
  obtain ⟨n, r, h⟩ := s.memberDone_eq o m
  rw [h, State.modCore_arrays, State.memberAdds_arrays]

theorem Core.handle_foldl_addTas (k : Nat) (idx : Nat × Nat → Nat) (dbl : Bool) (vs : Nat × Nat → List Val) (l : List (Nat × Nat)) (c : Core) :
    (l.foldl (fun (c : Core) q => c.addTas (idx q) dbl (vs q)) c).handle k = c.handle k := by
  induction l generalizing c with
  | nil => rfl
  | cons q l ih => exact ih _

theorem State.handle_memberDone (s : State) (o : ArrayOp) (m : Nat × Nat × Nat) (b k : Nat) : (s.memberDone o m).handle b k = s.handle b k := by
  obtain ⟨n, r, h⟩ := s.memberDone_eq o m
  rw [h]
  refine (State.handle_modCore (f := fun c => { c with crCount := n c, rail := r c }) (fun _ => rfl) _ m.2.1 b k).trans ?_
  unfold State.memberAdds
  split
  · rfl
  · exact State.core_modCore_field (fun c => c.handle k) (fun c => Core.handle_foldl_addTas k _ _ _ _ c) s _ b

/-- CRCOUNT and the rail are not the TAS. -/
theorem State.memberDone_tas (s : State) (o : ArrayOp) (m : Nat × Nat × Nat) (b : Nat) :
    ((s.memberDone o m).core b).tas = ((s.memberAdds o m.1 m.2).core b).tas := by
  obtain ⟨n, r, h⟩ := s.memberDone_eq o m
  rw [h]
  exact State.core_modCore_field Core.tas (f := fun c => { c with crCount := n c, rail := r c }) (fun _ => rfl) _ m.2.1 b

/-- What a member adds to a block (R125). -/
def ArrayOp.blockAddends (a : ArrayOp) (n : Nat) (q : Nat × Nat) : List Val :=
  (List.range 16).map fun k => if 16 * q.2 + k < a.mma.cols n then a.addend n q.1 (16 * q.2 + k) else .zero false

theorem State.memberAdds_tas {s : State} {b team : Nat} {tm : Team} (hb : b < 160) (ht : (s.core b).team team = some tm) (a : ArrayOp) (n : Nat) :
    ((s.memberAdds a n (b, team)).core b).tas = ((reachedBlocks a.mma.tD (a.mma.cols n)).foldl (fun (c : Core) q =>
      c.addTas (tm.block (s.teamHdr tm).tas64 a.mma.tD.tasBase q) (s.teamHdr tm).tas64 (a.blockAddends n q)) (s.core b)).tas := by
  unfold State.memberAdds
  simp only [ht]
  rw [State.core_modCore, if_pos ⟨rfl, hb⟩]
  rfl

/-- An MMA has ended with an outcome: it has left the queues, and its handle holds the outcome and the trap it owes (R239, R240, R292). -/
structure State.MmaEnded (s u : State) (id b k outcome : Nat) (fail : Option (Nat × DWord)) : Prop where
  arrays : u.arrays = s.arrays.filter fun z => z.id != id
  st : (u.handle b k).st = .ended
  word : (u.handle b k).word = BitVec.ofNat 32 (outcome * 2 ^ 29)
  fail : (u.handle b k).fail = fail

section
variable {s : State} {id : Nat} {a : ArrayOp} {b team : Nat} {rest : List (Nat × Nat)}

/-- The end of the entry in a state that holds the same entries and the same handle. -/
theorem State.endArray_mmaEnded {v : State} {o : ArrayOp} (hv : v.arrays = s.arrays) (hid : o.id = id) (hspan : o.span = (b, team) :: rest)
    (hb : b < 160) (hk : o.handle < 1024) (hh : v.handle b o.handle = s.handle b o.handle) (hp : (s.handle b o.handle).st = .pending)
    (outcome addr : Nat) : s.MmaEnded (v.endArray o outcome addr).wakeAll id b o.handle outcome (failOf 1 outcome addr) := by
  obtain ⟨hst, hword, hfail⟩ := v.handle_endArray hspan hb hk (hh ▸ hp) outcome addr
  constructor
  · rw [State.wakeAll_arrays, State.endArray_arrays v hspan, hv, hid]
  · rwa [State.handle_wakeAll]
  · rwa [State.handle_wakeAll]
  · rwa [State.handle_wakeAll]

theorem State.addDone_mmaEnded (hid : a.id = id) (hspan : a.span = (b, team) :: rest) (hb : b < 160) (hk : a.handle < 1024)
    (hp : (s.handle b a.handle).st = .pending) : s.MmaEnded (s.addDone a).wakeAll id b a.handle 1 none := by
  rw [State.addDone_eq]
  refine State.endArray_mmaEnded ?_ hid hspan hb hk ?_ hp outcomeRetired 0
  · exact State.foldl_arrays (fun u m => u.memberDone_arrays a m) s _
  · refine State.foldl_keeps (P := fun u => u.handle b a.handle = s.handle b a.handle) (fun u m hu => ?_) _ rfl
    rw [State.handle_memberDone, hu]

theorem State.addDone_tas {tm : Team} (hspan : a.span = [(b, team)]) (hb : b < 160) (ht : (s.core b).team team = some tm) :
    ((s.addDone a).wakeAll.core b).tas = ((reachedBlocks a.mma.tD (a.mma.cols 0)).foldl (fun (c : Core) q =>
      c.addTas (tm.block (s.teamHdr tm).tas64 a.mma.tD.tasBase q) (s.teamHdr tm).tas64 (a.blockAddends 0 q)) (s.core b)).tas := by
  rw [State.core_wakeAll_field Core.tas (fun _ _ => rfl), State.addDone_eq, State.endArray_tas _ hspan, hspan]
  exact (s.memberDone_tas a (0, b, team) b).trans (State.memberAdds_tas hb ht a 0)

end

end Sys2Proof.Machine

/-! Finite values as real numbers (06 R103), and what an element of an MMA adds to its accumulator (06 R125, R126). -/

namespace Sys2Proof

/-- No significand is 0: what the formats decode to (06 R103). -/
def Val.Proper (v : Val) : Prop := ∀ n m e, v = .fin n m e → 0 < m

theorem Val.proper_fin (n : Bool) {m : Nat} (e : Int) (h : 0 < m) : (Val.fin n m e).Proper := by
  intro n' m' e' heq
  cases heq
  exact h

theorem Val.proper_zero (n : Bool) : (Val.zero n).Proper := fun _ _ _ h => nomatch h
theorem Val.proper_inf (n : Bool) : (Val.inf n).Proper := fun _ _ _ h => nomatch h
theorem Val.proper_nan (n q : Bool) (y : Nat) : (Val.nan n q y).Proper := fun _ _ _ h => nomatch h

theorem Val.proper_mk (n : Bool) (m : Nat) (e : Int) : (Val.mk n m e).Proper := by
  rcases Nat.eq_zero_or_pos m with rfl | hm
  · exact Val.proper_zero n
  · rw [Val.mk_pos n e hm]
    exact Val.proper_fin n e hm

theorem FloatFmt.proper_decode (f : FloatFmt) (x : Nat) : (f.decode x).Proper := by
  unfold FloatFmt.decode
  dsimp only
  split
  · split
    · exact Val.proper_inf _
    · exact Val.proper_nan _ _ _
  · split
    · exact Val.proper_nan _ _ _
    · split
      · exact Val.proper_mk _ _ _
      · exact Val.proper_fin _ _ (Nat.add_pos_left (Nat.two_pow_pos _) _)

theorem ElemFmt.proper_decode (f : ElemFmt) (x : Nat) : (f.decode x).Proper := by
  cases f with
  | float g => exact g.proper_decode x
  | int s w => exact Val.proper_mk _ _ _
  | e8m0 =>
    show (if x % 256 = 255 then Val.defaultNaN else .fin false 1 ((x % 256 : Nat) - 127)).Proper
    split
    · exact Val.proper_nan _ _ _
    · exact Val.proper_fin _ _ Nat.one_pos
  | other w => exact Val.proper_mk _ _ _

namespace Val

theorem Is.real_eq {v : Val} {x : ℝ} (h : v.Is x) : v.real = x := by
  cases v with
  | zero n => exact h.symm
  | fin n m e => exact h.2.symm
  | nan => exact h.elim
  | inf => exact h.elim

theorem Is.finite {v : Val} {x : ℝ} (h : v.Is x) : v.finite = true := by
  cases v with
  | zero n => rfl
  | fin n m e => rfl
  | nan => exact h.elim
  | inf => exact h.elim

theorem Is.isNaN {v : Val} {x : ℝ} (h : v.Is x) : v.isNaN = false := by
  have hf := h.finite
  unfold Val.finite at hf
  simpa using (Bool.and_eq_true_iff.mp hf).1

theorem Proper.is_real {v : Val} (hp : v.Proper) (hf : v.finite = true) : v.Is v.real := by
  cases v with
  | zero n => rfl
  | fin n m e => exact ⟨hp n m e rfl, rfl⟩
  | nan => cases hf
  | inf => cases hf

/-- A value that is 0 is one of the zeros. -/
theorem Is.eq_zero {v : Val} (h : v.Is 0) : ∃ n, v = .zero n := by
  cases v with
  | zero n => exact ⟨n, rfl⟩
  | fin n m e => exact absurd h.2.symm (realOf_ne_zero n e h.1)
  | nan => exact h.elim
  | inf => exact h.elim

/-- A value that is not 0 has a significand. -/
theorem Is.eq_fin {v : Val} {x : ℝ} (h : v.Is x) (hx : x ≠ 0) : ∃ n m e, v = .fin n m e := by
  cases v with
  | zero n => exact absurd h hx
  | fin n m e => exact ⟨n, m, e, rfl⟩
  | nan => exact h.elim
  | inf => exact h.elim

/-- The exact product of finite values, and its sign. -/
theorem Is.mul {u v : Val} {x y : ℝ} (hu : u.Is x) (hv : v.Is y) :
    (Val.mul .exact u v).1.Is (x * y) ∧ (Val.mul .exact u v).1.neg = (u.neg ^^ v.neg) := by
  cases u with
  | zero n =>
    obtain rfl : x = 0 := hu
    rw [zero_mul]
    cases v with
    | zero n' => exact ⟨rfl, rfl⟩
    | fin n' m' e' => exact ⟨rfl, rfl⟩
    | nan => exact hv.elim
    | inf => exact hv.elim
  | fin n m e =>
    obtain ⟨hm, rfl⟩ := hu
    cases v with
    | zero n' =>
      obtain rfl : y = 0 := hv
      rw [mul_zero]
      exact ⟨rfl, rfl⟩
    | fin n' m' e' =>
      obtain ⟨hm', rfl⟩ := hv
      exact ⟨Val.mul_fin .exact n n' e e' hm hm', Val.neg_mk ..⟩
    | nan => exact hv.elim
    | inf => exact hv.elim
  | nan => exact hu.elim
  | inf => exact hu.elim

end Val

theorem firstNaN_of_mem {ops : List Val} {v : Val} (hv : v ∈ ops) (hn : v.isNaN = true) : ∃ u, firstNaN ops = some u ∧ u.isNaN = true := by
  induction ops with
  | nil => cases hv
  | cons w ws ih =>
    by_cases hw : w.isNaN = true
    · exact ⟨w, firstNaN_head hw _, hw⟩
    · rw [firstNaN_tail (Bool.not_eq_true _ ▸ hw)]
      rcases List.mem_cons.mp hv with rfl | hv
      · exact absurd hn hw
      · exact ih hv

/-- A NaN operand makes the result NaN (06 R111). -/
theorem isNaN_withNaN {ops : List Val} {v : Val} (hv : v ∈ ops) (hn : v.isNaN = true) (r : Val × Bool) : (withNaN ops r).1.isNaN = true := by
  obtain ⟨u, hu, hun⟩ := firstNaN_of_mem hv hn
  unfold withNaN
  rw [hu]
  exact hun

/-- Without a NaN among its operands the result is the computed one. -/
theorem withNaN_pair {u v : Val} (hu : u.isNaN = false) (hv : v.isNaN = false) (r : Val × Bool) : withNaN [u, v] r = r :=
  Machine.withNaN_of_none (firstNaN_none (by simp [hu, hv])) r

namespace Machine

/-- A cell's value: its sum on the grid, or its special value (R126). -/
def cellVal (spec : Nat) (p : Int) (q : Int) : Val :=
  match spec with
  | 0 => Val.ofInt p q
  | 1 => .inf false
  | 2 => .inf true
  | _ => Val.defaultNaN

/-- The product of the tile scales (R125). -/
def scaleProduct (sa sb : Val) : Val := (withNaN [sa, sb] (Val.mul .exact sa sb)).1

theorem scaleProduct_is {sa sb : Val} (ha : sa.Proper) (hb : sb.Proper) (hfa : sa.finite = true) (hfb : sb.finite = true) :
    (scaleProduct sa sb).Is (sa.real * sb.real) ∧ (scaleProduct sa sb).neg = (sa.neg ^^ sb.neg) := by
  have hra := ha.is_real hfa
  have hrb := hb.is_real hfb
  unfold scaleProduct
  rw [withNaN_pair hra.isNaN hrb.isNaN]
  exact hra.mul hrb

/-- What a cell adds to its accumulator (R125, R126). -/
def scaledCell (v s : Val) : Val := (withNaN [v, s] (Val.mul .exact v s)).1

theorem ArrayOp.addend_eq {a : ArrayOp} {n i j : Nat} {cell : CellSum} (h : (a.good.getD n [])[i * a.mma.cols n + j]? = some cell) :
    a.addend n i j = scaledCell (cellVal cell.spec (a.cell n i j) (a.emax - 85))
      (scaleProduct (FloatFmt.f32.decode (a.scales.getD 0 0x3F800000)) (FloatFmt.f32.decode (a.scales.getD 1 0x3F800000))) := by
  have hspec : ((((a.good[n]?).getD [])[i * a.mma.cols n + j]?).map CellSum.spec).getD 0 = cell.spec := by
    rw [← List.getD_eq_getElem?_getD, h]
    rfl
  unfold ArrayOp.addend scaledCell cellVal scaleProduct
  dsimp only
  rw [hspec]
  simp only [List.getD_eq_getElem?_getD] <;> rfl

theorem scaledCell_is {v s : Val} {x y : ℝ} (hv : v.Is x) (hs : s.Is y) : (scaledCell v s).Is (x * y) := by
  unfold scaledCell
  rw [withNaN_pair hv.isNaN hs.isNaN]
  exact (hv.mul hs).1

/-- An infinite cell times 0 is NaN. -/
theorem scaledCell_inf_zero (neg n : Bool) : (scaledCell (.inf neg) (.zero n)).isNaN = true := rfl

theorem scaledCell_inf_fin (neg n : Bool) (m : Nat) (e : Int) : scaledCell (.inf neg) (.fin n m e) = .inf (neg ^^ n) := rfl

/-- The adds of a cell by its state and the scales (R125, R126). -/
theorem ArrayOp.addend_cases {a : ArrayOp} {n i j : Nat} {cell : CellSum} (h : (a.good.getD n [])[i * a.mma.cols n + j]? = some cell) :
    let sa := FloatFmt.f32.decode (a.scales.getD 0 0x3F800000)
    let sb := FloatFmt.f32.decode (a.scales.getD 1 0x3F800000)
    let got := a.addend n i j
    (cell.spec = 0 → sa.finite = true → sb.finite = true → got.Is ((a.cell n i j : ℝ) * 2 ^ (a.emax - 85) * (sa.real * sb.real))) ∧
    (cell.spec = 3 ∨ sa.isNaN = true ∨ sb.isNaN = true → got.isNaN = true) ∧
    (∀ neg : Bool, cell.spec = (if neg then 2 else 1) → sa.finite = true → sb.finite = true →
      if sa.real * sb.real = 0 then got.isNaN = true else got = .inf (neg != (sa.neg != sb.neg))) := by
  intro sa sb got
  have hgot : got = scaledCell (cellVal cell.spec (a.cell n i j) (a.emax - 85)) (scaleProduct sa sb) := ArrayOp.addend_eq h
  have hpa : sa.Proper := FloatFmt.proper_decode _ _
  have hpb : sb.Proper := FloatFmt.proper_decode _ _
  refine ⟨fun hspec hfa hfb => ?_, fun hnan => ?_, fun neg hspec hfa hfb => ?_⟩
  · rw [hgot, hspec]
    exact scaledCell_is (Val.is_ofInt ..) (scaleProduct_is hpa hpb hfa hfb).1
  · rw [hgot]
    rcases hnan with hspec | hsa | hsb
    · rw [hspec]
      rfl
    · have hs : (scaleProduct sa sb).isNaN = true := isNaN_withNaN (by simp) hsa _
      exact isNaN_withNaN (by simp) hs _
    · have hs : (scaleProduct sa sb).isNaN = true := isNaN_withNaN (List.mem_cons_of_mem _ (List.mem_singleton_self _)) hsb _
      exact isNaN_withNaN (List.mem_cons_of_mem _ (List.mem_singleton_self _)) hs _
  · obtain ⟨his, hneg⟩ := scaleProduct_is hpa hpb hfa hfb
    have hcell : cellVal cell.spec (a.cell n i j) (a.emax - 85) = .inf neg := by
      rw [hspec]
      cases neg <;> rfl
    rw [hgot, hcell]
    split
    · rename_i hzero
      obtain ⟨n', hz⟩ := (hzero ▸ his).eq_zero
      rw [hz]
      exact scaledCell_inf_zero neg n'
    · rename_i hne
      obtain ⟨n', m', e', hfin⟩ := his.eq_fin hne
      have hn' : n' = (sa.neg ^^ sb.neg) := by rw [← hneg, hfin]; rfl
      rw [hfin, scaledCell_inf_fin, hn', Bool.bne_eq_xor]

end Machine

end Sys2Proof

/-! The obligation on MMAs: their states, their ends, their adds. -/

namespace Sys2Proof.Machine

section
variable {s : State} {id : Nat} {a : ArrayOp} (ha : s.arrays.find? (fun z => z.id == id) = some a) (hmma : a.isMma = true)
include ha hmma

theorem mmaRailReady_effect (hst : a.st = .rail) :
    ∃ u, exec (.mmaRailReady id) s = .next u ∧ u.arrays = (s.arrays.map fun z => if z.id = id then { z with st := .fetch } else z) ∧
      ∀ m ∈ a.span, m.1 < 160 → (u.core m.1).rail.v = (s.core m.1).rail.v ∧ (u.core m.1).rail.raised.getD (s.core m.1).rail.v =
        if a.mma.isLog || a.attempt == 4 then 7500 else if a.attempt = 1 then (s.core m.1).rail.v
          else min ((s.core m.1).rail.v + 250 * (a.attempt - 1)) 7500 := by
  refine ⟨_, exec_mmaRailReady ha hmma hst, ?_, fun m hm hb => ?_⟩
  · rw [State.modArray_arrays]
    exact congrArg _ (State.foldl_arrays (fun u m => u.modRail_arrays m.1 _) s a.span)
  · obtain ⟨hv, hraised⟩ := s.foldl_raise a.mma.isLog a.attempt a.span hm hb
    exact ⟨hv, (congrArg (Option.getD · _) hraised).trans (Rail.raise_volts ..)⟩

theorem mmaCheckDone_locates (hst : a.st = .check) (hno : ¬ ∃ n < a.span.length, a.verdict n = .fail)
    (hnot : ¬ ∀ n < a.span.length, a.verdict n = .pass) :
    ∃ found ms, exec (.mmaCheckDone id) s = .next { s with arrays := s.arrays.map fun z => if z.id = id then
          { z with st := .correct, located := found, injected := { z.injected with members := ms } } else z } ∧
      ((∀ e ∈ a.errs, e.inj = false) → ms = []) ∧
      ∀ n i j, (n, 128 * i + j) ∈ found ↔ n < a.span.length ∧ ∃ i' j', a.verdict n = .located i' j' ∧ 128 * i' + j' = 128 * i + j :=
  ⟨a.found, a.injectedMembers, exec_mmaCheckDone_locate ha hmma hst (Bool.eq_false_iff.mpr fun hf => hno ((ArrayOp.fails_iff a).mp hf)) hnot,
    ArrayOp.injectedMembers_eq_nil, fun n _ _ => a.mem_found n _⟩

theorem mmaCheckDone_tries_again (hst : a.st = .check) (hfail : ∃ n < a.span.length, a.verdict n = .fail) (hn : a.attempt < 4) :
    ∃ u again, exec (.mmaCheckDone id) s = .next u ∧ ((∀ e ∈ a.errs, e.inj = false) → again = 0) ∧
      u.arrays = s.arrays.map fun z => if z.id = id then
        { z with st := .rail, attempt := z.attempt + 1, errs := [], located := [],
                 injected := { z.injected with reissues := z.injected.reissues + again } } else z := by
  have hf : a.fails = true := (ArrayOp.fails_iff a).mpr hfail
  refine ⟨_, (!a.uninjected.fails).toNat, exec_mmaCheckDone_again ha hmma hst hf hn, fun hinj => ?_, ?_⟩
  · rw [ArrayOp.uninjected_eq hinj, hf]
    rfl
  · rw [State.modArray_arrays, State.tuneSpan_arrays]

theorem mmaCorrectDone_effect (hst : a.st = .correct) : ∃ u, exec (.mmaCorrectDone id) s = .next u ∧
    u.arrays = s.arrays.map fun z => if z.id = id then
      { z with st := .add, corr := z.located.length, errs := z.errs.filter fun e => !z.located.contains (e.member, 128 * e.row + e.col) } else z := by
  refine ⟨_, exec_mmaCorrectDone ha hmma hst, ?_⟩
  rw [State.enterAdd_arrays, State.modArray_arrays, List.map_map]
  refine List.map_congr_left fun z _ => ?_
  by_cases hz : z.id = id <;> simp [hz]

theorem mmaCheckDone_uncorrectable {b team : Nat} {rest : List (Nat × Nat)} (hspan : a.span = (b, team) :: rest) (hb : b < 160)
    (hk : a.handle < 1024) (hp : (s.handle b a.handle).st = .pending) (hst : a.st = .check) (hn : a.attempt = 4)
    (hfail : ∃ n < a.span.length, a.verdict n = .fail) :
    ∃ u, exec (.mmaCheckDone id) s = .next u ∧ s.MmaEnded u id b a.handle 2 (some (0x12, 0)) :=
  ⟨_, exec_mmaCheckDone_end ha hmma hst ((ArrayOp.fails_iff a).mpr hfail) hn,
    State.endArray_mmaEnded (o := a.failed) (s.tuneSpan_arrays a _) (State.id_of_find (a := a) ha) hspan hb hk (s.handle_tuneSpan a _ b _) hp
      outcomeUncorrectable 0⟩

end

end Sys2Proof.Machine

section
open Sys2Proof Sys2Proof.Machine

/-- Settles O31, event by event; an end is the removal of the entry and the end of its handle, after steps that leave both alone. -/
theorem mmaLife : Obligations.MmaLife := by
  unfold Obligations.MmaLife
  refine ⟨fun s id a ha hmma => ?states, fun s id b team rest a ha hmma hspan hb hk hp => ?ends, fun a n i j cell h => a.addend_cases h⟩
  case states =>
    refine ⟨?queued, ?rail, ?log, ?check, ?pass, ?located, ?again, ?correct⟩
    case queued => exact fun hst hfirst => exec_mmaStart ha hmma hst hfirst
    case rail => exact fun hst => mmaRailReady_effect ha hmma hst
    case log => exact fun hst hlog => ⟨_, exec_mmaLastStep_log ha hmma hst hlog, s.enterAdd_arrays id⟩
    case check => exact fun hst hlog hfinj => ⟨exec_mmaLastStep_check ha hmma hst hlog hfinj, State.railErrors_of_full⟩
    case pass => exact fun hst hpass => ⟨_, exec_mmaCheckDone_pass ha hmma hst hpass, s.enterAdd_arrays id⟩
    case located => exact fun hst hno hnot => mmaCheckDone_locates ha hmma hst hno hnot
    case again => exact fun hst hfail hn => mmaCheckDone_tries_again ha hmma hst hfail hn
    case correct => exact fun hst => mmaCorrectDone_effect ha hmma hst
  case ends =>
    have hid := State.id_of_find ha
    refine ⟨fun hst => ?added, fun hst hn hfail => ?failed, fun hst hseen u0 da md oa ob sa sb db hgot =>
      ⟨fun at_ hr => ?malformed, fun q hr => ?fetched⟩⟩
    case added =>
      obtain ⟨h1, h2, h3, h4⟩ := State.addDone_mmaEnded hid hspan hb hk hp
      refine ⟨_, exec_mmaAddDone ha hmma hst, ⟨h1, h2, h3, h4⟩, fun tm hrest ht => ?_⟩
      exact State.addDone_tas (hrest ▸ hspan) hb ht
    case failed =>
      obtain ⟨u, hu, h1, h2, h3, h4⟩ := mmaCheckDone_uncorrectable ha hmma hspan hb hk hp hst hn hfail
      exact ⟨u, hu, h1, h2, h3, h4⟩
    case malformed =>
      obtain ⟨h1, h2, h3, h4⟩ := State.endArray_mmaEnded (v := s) rfl hid hspan hb hk rfl hp outcomeMalformed (ownSpad a.mma.tA.sparse + at_)
      exact ⟨_, exec_mmaOperandsDelivered_malformed ha hmma hst hseen hgot hr, h1, h2, h3, h4⟩
    case fetched =>
      refine ⟨_, exec_mmaOperandsDelivered ha hmma hst hseen hgot hr, _, State.find_modArray ha fun _ => rfl, rfl, rfl, rfl, rfl, rfl, rfl⟩

end

/-! TCHK (13 R258), the rail tuner (12 R243) and the return of a raised rail (12 R242). -/

namespace Sys2Proof.Machine

section
variable {s : State} {cur : Cur} {c : Crew} {l : Nat} {o : Enc} {srcs : List Opnd} {dst : Option (Nat × Bool)} {preds : List Nat}

/-- The bundle's only lane is the issuing one (R247). -/
theorem Alone.issuer (h : Alone s cur c l o false srcs dst preds) : s.issuer o = some l := by
  obtain ⟨⟨hcur, hcrew, -⟩, hl, -, hguard, hwait, -⟩ := h
  have hholds : o.guardHolds false (s.thread cur.core cur.slot l) = true := by
    have hthread : s.thread cur.core cur.slot l = c.thread l := State.laneThread_of_crew (x := ⟨cur.core, cur.slot, l⟩) hcrew
    have hempty : o.guardWait false (c.thread l) = [] := by
      simpa [Enc.guardWait, List.filter_eq_nil_iff] using hwait
    rw [hthread, Enc.guardHolds, hempty, hguard]
    rfl
  unfold State.issuer State.lowestTrue
  simp [hcur, hl, hholds]

/-- With no failure to deliver and its operands ready the issuing lane acts. -/
theorem Alone.onceForm_lane {group : List Nat} {act : State → Lane → State × LaneOut} (h : Alone s cur c l o false srcs dst [])
    (hfail : s.failureOf ⟨cur.core, cur.slot, l⟩ group = none) :
    (onceForm (s.issuer o) group srcs dst act).lane o s ⟨cur.core, cur.slot, l⟩ = act s ⟨cur.core, cur.slot, l⟩ := by
  have ⟨hat, hl, hp, hguard, hwait, hfate⟩ := h
  have hthread : s.laneThread ⟨cur.core, cur.slot, l⟩ = c.thread l := State.laneThread_of_crew hat.2.1
  refine (Alone.lane_body (f := onceForm (s.issuer o) group srcs dst act) ⟨hat, hl, hp, hguard, hwait, rfl⟩ nofun).trans ?_
  unfold onceForm
  simp only [h.issuer, hfail, hthread, hfate]
  rw [if_neg (by simp)]

/-- TCHK: D waits for the record, or has it (R258). -/
theorem exec_tchk (h : Alone s cur c l o false [] (some (o.d.toNat, false)) []) (hfail : s.failureOf ⟨cur.core, cur.slot, l⟩ [1] = none) :
    exec (.tchk o) s = .next ((s.producer ⟨cur.core, cur.slot, l⟩ (some o.d.toNat) false
      (match (c.record (o.w2Bits 3 0)).op with
        | some id => .tchk id
        | none => .value ((c.record (o.w2Bits 3 0)).word.setWidth 64) .n32)).onward ⟨cur.core, cur.slot, l⟩
          (cur.pc + BitVec.ofNat 64 o.bytes)) := by
  have ⟨hat, hl, hp, _⟩ := h
  have hcrew : s.crew cur.core cur.slot = some c := hat.2.1
  have hlt := (hat.2.2 l (by simp [hl])).1
  refine congrArg Host.Outcome.next ?_
  refine State.laneInstr_goesOn hat hl (c' := c.modThread l fun t => t.markEmpty o.d.toNat false) (h.onceForm_lane hfail |>.trans ?_) ?_ ?_ ?_
  · simp only [hcrew] <;> rfl
  · rw [State.producer_unpaired (x := ⟨cur.core, cur.slot, l⟩) hcrew hp]
    exact State.crew_entered (x := ⟨cur.core, cur.slot, l⟩) hcrew ..
  · rw [State.producer_unpaired (x := ⟨cur.core, cur.slot, l⟩) hcrew hp, ← hp]
    exact congrArg Header.pair (State.hdrOf_entered (x := ⟨cur.core, cur.slot, l⟩) hcrew ..)
  · rw [Crew.thread_modThread, if_pos ⟨rfl, hlt⟩]
    simp

end

/-- An update that leaves a core as it stands. -/
theorem State.modCore_of_fixed {s : State} {b : Nat} {f : Core → Core} (h : f (s.core b) = s.core b) : s.modCore b f = s := by
  unfold State.modCore State.setCore
  rw [h]
  split
  · simp [State.core, *]
  · rfl

/-- The tuner's step in a window that is not full, and at the end of one (R243). -/
theorem Rail.step_cases (r : Rail) (target : Nat) :
    (r.retired < 2 ^ 16 → r.step target = r) ∧ (2 ^ 16 ≤ r.retired → r.step target =
      { r with v := if target = 0 then 7500 else if 0 < r.r ∨ r.failed = true ∨ target < 16 * r.c then min (r.v + 25) 7500
                 else if 16 * r.c < target then max (r.v - 25) 5000 else r.v,
               c := 0, r := 0, failed := false, retired := 0 }) := by
  unfold Rail.step tunerWindow
  exact ⟨fun h => if_pos h, fun h => if_neg (Nat.not_lt.mpr h)⟩

theorem exec_railTunerStep (s : State) (b : Nat) : exec (.railTunerStep b) s =
    .next (s.modCore b fun c => { c with rail := c.rail.step c.crTarget.toNat }) := rfl

theorem exec_logRailReturn {s : State} {b : Nat} (h : ∀ z ∈ s.arrays, z.st ≠ .queued → ∀ m ∈ z.span, m.1 ≠ b) :
    exec (.logRailReturn b) s = .next (s.modCore b fun c => { c with rail := { c.rail with raised := none } }) := by
  have hidle : (s.arrays.any fun a => a.st != .queued && a.span.any fun m => m.1 == b) = false := by
    simp only [List.any_eq_false, Bool.and_eq_true, bne_iff_ne, List.any_eq_true, beq_iff_eq, not_and, not_exists]
    exact fun z hz hst m hm => h z hz hst m hm
  refine congrArg Host.Outcome.next ?_
  rw [hidle]
  rfl

end Sys2Proof.Machine

/-! The guard's verdict on a block (12 R237, R238): the sums of a row or column differ from its guard by what erred there. -/

namespace Sys2Proof.Machine

/-- What has erred in a cell. -/
def ArrayOp.errAt (a : ArrayOp) (n i j : Nat) : Int :=
  (a.errs.filter fun e => e.member == n && e.row == i && e.col == j).foldl (fun x e => x + e.d) 0

/-- Beyond the tolerance of the guard. -/
def Mma.beyond (i : Mma) (x : Int) : Bool := decide (129 * (i.keff : Int) < x) || decide (x < -(129 * (i.keff : Int)))

theorem Mma.beyond_zero (i : Mma) : i.beyond 0 = false := by
  unfold Mma.beyond
  rw [Bool.or_eq_false_iff]
  constructor <;> simp

/-- The rows or columns that the guard looks at: those of the result, and others where something erred. -/
theorem eraseDups_range_append {m : Nat} {l : List Nat} (h : ∀ i ∈ l, i < m) : (List.range m ++ l).eraseDups = List.range m := by
  have hnil : l.removeAll (List.range m) = [] := by
    simpa [List.removeAll, List.filter_eq_nil_iff] using h
  have hself (k : Nat) : (List.range k).eraseDups = List.range k := by
    induction k with
    | zero => rfl
    | succ k ih =>
      have hlast : [k].removeAll (List.range k) = [k] := by simp [List.removeAll]
      rw [List.range_succ, List.eraseDups_append, ih, hlast]
      simp [List.eraseDups_cons]
  rw [List.eraseDups_append, hself, hnil]
  simp

theorem foldl_add_eq_sum (l : List Int) : l.foldl (· + ·) 0 = l.sum := List.sum_eq_foldl.symm

/-- A block whose cells hold `p` with the errors `e`, its guards the true sums of `p`. -/
structure ArrayOp.Guarded (a : ArrayOp) (n : Nat) (p e : Nat → Nat → Int) : Prop where
  inside : ∀ x ∈ a.errs, x.member = n → x.row < a.mma.m ∧ x.col < a.mma.cols n
  cell : ∀ i < a.mma.m, ∀ j < a.mma.cols n, a.cell n i j = p i j + e i j
  rows : ∀ i < a.mma.m, (a.guardRows.getD n [])[i]? = some (((List.range (a.mma.cols n)).map (p i)).sum)
  cols : ∀ j < a.mma.cols n, (a.guardCols.getD n [])[j]? = some (((List.range a.mma.m).map fun i => p i j).sum)

theorem ArrayOp.Guarded.mismatches {a : ArrayOp} {n : Nat} {p e : Nat → Nat → Int} (h : a.Guarded n p e) : a.mismatches n =
    ((List.range a.mma.m).filter fun i => a.mma.beyond (((List.range (a.mma.cols n)).map (e i)).sum),
     (List.range (a.mma.cols n)).filter fun j => a.mma.beyond (((List.range a.mma.m).map fun i => e i j).sum)) := by
  have hrows : (List.range a.mma.m ++ (a.errs.filter fun x => x.member == n).map CellErr.row).eraseDups = List.range a.mma.m := by
    refine eraseDups_range_append fun i hi => ?_
    obtain ⟨x, hx, rfl⟩ := List.mem_map.mp hi
    obtain ⟨hmem, hn⟩ := List.mem_filter.mp hx
    exact (h.inside x hmem (beq_iff_eq.mp hn)).1
  have hcols : (List.range (a.mma.cols n) ++ (a.errs.filter fun x => x.member == n).map CellErr.col).eraseDups = List.range (a.mma.cols n) := by
    refine eraseDups_range_append fun j hj => ?_
    obtain ⟨x, hx, rfl⟩ := List.mem_map.mp hj
    obtain ⟨hmem, hn⟩ := List.mem_filter.mp hx
    exact (h.inside x hmem (beq_iff_eq.mp hn)).2
  unfold ArrayOp.mismatches
  simp only [hrows, hcols, foldl_add_eq_sum]
  refine Prod.ext (List.filter_congr fun i hi => ?_) (List.filter_congr fun j hj => ?_)
  · have hi := List.mem_range.mp hi
    have hsum : ((List.range (a.mma.cols n)).map fun j => a.cell n i j).sum =
        ((List.range (a.mma.cols n)).map (p i)).sum + ((List.range (a.mma.cols n)).map (e i)).sum := by
      rw [← List.sum_map_add]
      exact congrArg _ (List.map_congr_left fun j hj => h.cell i hi j (List.mem_range.mp hj))
    have hguard := h.rows i hi
    rw [List.getD_eq_getElem?_getD] at hguard
    rw [hguard, hsum, Option.getD_some, add_sub_cancel_left]
    rfl
  · have hj := List.mem_range.mp hj
    have hsum : ((List.range a.mma.m).map fun i => a.cell n i j).sum =
        ((List.range a.mma.m).map fun i => p i j).sum + ((List.range a.mma.m).map fun i => e i j).sum := by
      rw [← List.sum_map_add]
      exact congrArg _ (List.map_congr_left fun i hi => h.cell i (List.mem_range.mp hi) j hj)
    have hguard := h.cols j hj
    rw [List.getD_eq_getElem?_getD] at hguard
    rw [hguard, hsum, Option.getD_some, add_sub_cancel_left]
    rfl

theorem signed_wrap {w : Nat} (hw : 0 < w) {x : Int} (hlow : -(2 ^ (w - 1)) ≤ x) (hhigh : x < 2 ^ (w - 1)) : signed w (wrap w x) = x :=
  intOf_wrap true w hw x hlow (Int.le_sub_one_of_lt hhigh)

/-- A cell within 96 bits holds its sum and what has erred. -/
theorem ArrayOp.cell_eq {a : ArrayOp} {n i j : Nat} {x : Int} (hi : i < a.mma.m) (hj : j < a.mma.cols n)
    (hx : ((a.good.getD n [])[i * a.mma.cols n + j]?).map CellSum.p = some x) (hlow : -(2 ^ 95) ≤ x + a.errAt n i j)
    (hhigh : x + a.errAt n i j < 2 ^ 95) : a.cell n i j = x + a.errAt n i j := by
  unfold ArrayOp.cell
  dsimp only
  rw [if_pos ⟨hi, hj⟩, ← List.getD_eq_getElem?_getD, hx]
  exact signed_wrap (by decide) hlow hhigh

/-- The sum of a list that is 0 but at one place. -/
theorem sum_range_single {n k : Nat} (d : Int) (h : k < n) : ((List.range n).map fun i => if i = k then d else 0).sum = d := by
  have hsum : ((List.range n).map fun i => if i = k then d else 0).sum = ∑ i ∈ Finset.range n, if i = k then d else 0 := rfl
  rw [hsum, Finset.sum_ite_eq' (Finset.range n) k, if_pos (Finset.mem_range.mpr h)]

/-- The one number below n at which a test holds. -/
theorem filter_range_single {n k : Nat} (h : k < n) {q : Nat → Bool} (hq : ∀ i < n, q i = decide (i = k)) : (List.range n).filter q = [k] := by
  have hbeq : (List.range n).filter q = (List.range n).filter (· == k) :=
    List.filter_congr fun i hi => by rw [hq i (List.mem_range.mp hi)]; rfl
  rw [hbeq, List.filter_beq, List.count_eq_one_of_mem List.nodup_range (List.mem_range.mpr h)]
  rfl

section
variable {a : ArrayOp} {n : Nat} {p : Nat → Nat → Int}
  (hgood : ∀ i < a.mma.m, ∀ j < a.mma.cols n, -(2 ^ 94) ≤ p i j ∧ p i j < 2 ^ 94 ∧
    ((a.good.getD n [])[i * a.mma.cols n + j]?).map CellSum.p = some (p i j))
  (hrows : ∀ i < a.mma.m, (a.guardRows.getD n [])[i]? = some (((List.range (a.mma.cols n)).map (p i)).sum))
  (hcols : ∀ j < a.mma.cols n, (a.guardCols.getD n [])[j]? = some (((List.range a.mma.m).map fun i => p i j).sum))
include hgood hrows hcols

/-- A block in which nothing erred passes. -/
theorem ArrayOp.verdict_of_sound (h : ∀ e ∈ a.errs, e.member ≠ n) : a.verdict n = .pass := by
  have herr (i j : Nat) : a.errAt n i j = 0 := by
    unfold ArrayOp.errAt
    rw [List.filter_eq_nil_iff.mpr fun e he => by simp [h e he]]
    rfl
  have hg : a.Guarded n p fun _ _ => 0 := {
    inside := fun x hx hn => absurd hn (h x hx)
    cell := fun i hi j hj => by
      obtain ⟨hlow, hhigh, hx⟩ := hgood i hi j hj
      rw [ArrayOp.cell_eq hi hj hx, herr]
      · rw [herr]; omega
      · rw [herr]; omega
    rows := hrows
    cols := hcols }
  unfold ArrayOp.verdict
  rw [hg.mismatches]
  simp [Mma.beyond_zero]

/-- One cell that erred lies where its row and its column mismatch. -/
theorem ArrayOp.mismatches_of_single {i j : Nat} {d : Int} {inj : Bool} (hi : i < a.mma.m) (hj : j < a.mma.cols n)
    (he : a.errs = [⟨n, i, j, d, inj⟩]) (hlow : -(2 ^ 94) ≤ d) (hhigh : d < 2 ^ 94) :
    a.mismatches n = if a.mma.beyond d then ([i], [j]) else ([], []) := by
  have herr (r c : Nat) : a.errAt n r c = if r = i ∧ c = j then d else 0 := by
    unfold ArrayOp.errAt
    rw [he]
    by_cases h : r = i ∧ c = j
    · simp [h]
    · have hno : (n == n && i == r && j == c) = false := by
        rw [Bool.and_eq_false_iff, Bool.and_eq_false_iff]
        by_cases hr : r = i
        · right; simpa using fun hc : j = c => h ⟨hr, hc.symm⟩
        · left; right; simpa using fun hr' : i = r => hr hr'.symm
      rw [if_neg h, List.filter_cons, if_neg (by simpa using hno)]
      rfl
  have hg : a.Guarded n p fun r c => if r = i ∧ c = j then d else 0 := {
    inside := fun x hx _ => by
      rw [he, List.mem_singleton] at hx
      subst hx
      exact ⟨hi, hj⟩
    cell := fun r hr c hc => by
      obtain ⟨hplow, hphigh, hx⟩ := hgood r hr c hc
      rw [ArrayOp.cell_eq hr hc hx, herr] <;> rw [herr] <;> split <;> omega
    rows := hrows
    cols := hcols }
  have hrow (r : Nat) : ((List.range (a.mma.cols n)).map fun c => if r = i ∧ c = j then d else 0).sum = if r = i then d else 0 := by
    by_cases hr : r = i
    · simp only [hr, true_and, if_true]
      exact sum_range_single d hj
    · simp [hr]
  have hcol (c : Nat) : ((List.range a.mma.m).map fun r => if r = i ∧ c = j then d else 0).sum = if c = j then d else 0 := by
    by_cases hc : c = j
    · simp only [hc, and_true, if_true]
      exact sum_range_single d hi
    · simp [hc]
  rw [hg.mismatches]
  simp only [hrow, hcol]
  by_cases hd : a.mma.beyond d = true
  · have hat (k r : Nat) : a.mma.beyond (if r = k then d else 0) = decide (r = k) := by
      by_cases hr : r = k <;> simp [hr, hd, Mma.beyond_zero]
    rw [if_pos hd, filter_range_single hi fun r _ => hat i r, filter_range_single hj fun c _ => hat j c]
  · have hat (k r : Nat) : a.mma.beyond (if r = k then d else 0) = false := by
      by_cases hr : r = k <;> simp [hr, hd, Mma.beyond_zero]
    rw [if_neg hd]
    simp [hat]

theorem ArrayOp.verdict_of_single {i j : Nat} {d : Int} {inj : Bool} (hi : i < a.mma.m) (hj : j < a.mma.cols n)
    (he : a.errs = [⟨n, i, j, d, inj⟩]) (hlow : -(2 ^ 94) ≤ d) (hhigh : d < 2 ^ 94) :
    (129 * (a.mma.keff : Int) < d ∨ d < -(129 * (a.mma.keff : Int)) → a.verdict n = .located i j) ∧
    (-(129 * (a.mma.keff : Int)) ≤ d ∧ d ≤ 129 * a.mma.keff → a.verdict n = .pass) := by
  have hm := ArrayOp.mismatches_of_single hgood hrows hcols hi hj he hlow hhigh
  unfold ArrayOp.verdict
  rw [hm]
  constructor
  · intro hfar
    rw [if_pos (by simpa [Mma.beyond] using hfar)]
  · rintro ⟨h1, h2⟩
    rw [if_neg (by simpa [Mma.beyond] using ⟨h2, h1⟩)]

end

end Sys2Proof.Machine

/-! The sum of a cell (06 R124, R126): terms as real numbers, their truncation, and the special state. -/

namespace Sys2Proof

theorem Val.Is.add {u v : Val} {x y : ℝ} (rm : Rm) (hu : u.Is x) (hv : v.Is y) : (Val.add rm u v).1.Is (x + y) := by
  cases u with
  | zero n =>
    obtain rfl : x = 0 := hu
    rw [zero_add]
    cases v with
    | zero n' => exact hv
    | fin n' m' e' => exact hv
    | nan => exact hv.elim
    | inf => exact hv.elim
  | fin n m e =>
    cases v with
    | zero n' =>
      obtain rfl : y = 0 := hv
      rw [add_zero]
      exact hu
    | fin n' m' e' =>
      obtain ⟨-, rfl⟩ := hu
      obtain ⟨-, rfl⟩ := hv
      exact (Val.add_fin rm n n' m m' e e').1
    | nan => exact hv.elim
    | inf => exact hv.elim
  | nan => exact hu.elim
  | inf => exact hu.elim

/-- Exact sums (06 R124). -/
theorem Val.is_foldl_add {rm : Rm} {l : List Val} {u : Val} {x : ℝ} (hu : u.Is x) (hl : ∀ v ∈ l, v.Is v.real) :
    (l.foldl (fun acc v => (Val.add rm acc v).1) u).Is (x + (l.map Val.real).sum) := by
  induction l generalizing u x with
  | nil => simpa using hu
  | cons v l ih =>
    rw [List.map_cons, List.sum_cons, ← add_assoc]
    exact ih (hu.add rm (hl v List.mem_cons_self)) fun w hw => hl w (List.mem_cons_of_mem _ hw)

theorem towardZero_neg (x : ℝ) : towardZero (-x) = -towardZero x := by
  unfold towardZero
  rcases lt_trichotomy x 0 with h | rfl | h
  · rw [if_pos (by linarith), if_neg (not_le.mpr h), Int.floor_neg]
  · simp
  · rw [if_neg (by linarith), if_pos h.le, Int.ceil_neg]

@[simp] theorem towardZero_zero : towardZero 0 = 0 := by simp [towardZero]

theorem towardZero_natCast_div (m : Nat) (e q : Int) :
    towardZero ((m : ℝ) * 2 ^ e / 2 ^ q) = ((if q ≤ e then m <<< (e - q).toNat else m >>> (q - e).toNat : Nat) : Int) := by
  have hquot : (m : ℝ) * 2 ^ e / 2 ^ q = m * 2 ^ (e - q) := by rw [mul_div_assoc, ← zpow_sub₀ (two_ne_zero' ℝ)]
  have hnonneg : (0 : ℝ) ≤ m * 2 ^ (e - q) := by positivity
  rw [hquot, towardZero, if_pos hnonneg]
  split
  · obtain ⟨k, hk⟩ := Int.eq_ofNat_of_zero_le (show 0 ≤ e - q by omega)
    rw [hk, Int.toNat_natCast, zpow_natCast, Nat.shiftLeft_eq]
    exact_mod_cast Int.floor_natCast (R := ℝ) (m * 2 ^ k)
  · obtain ⟨k, hk⟩ := Int.eq_ofNat_of_zero_le (show 0 ≤ q - e by omega)
    have hneg : e - q = -(k : Int) := by omega
    rw [hneg, hk, Int.toNat_natCast, zpow_neg, zpow_natCast, ← div_eq_mul_inv, Nat.shiftRight_eq_div_pow]
    exact floor_div_two_pow m k

/-- A term truncated onto the grid (R124). -/
theorem truncGrid_eq (v : Val) (q : Int) : Machine.truncGrid v q = towardZero (v.real / 2 ^ q) := by
  cases v with
  | nan => simp [Machine.truncGrid, Val.real]
  | inf => simp [Machine.truncGrid, Val.real]
  | zero => simp [Machine.truncGrid, Val.real]
  | fin n m e =>
    unfold Machine.truncGrid Val.real realOf
    cases n with
    | false =>
      simp only [Bool.false_eq_true, ↓reduceIte, one_mul]
      exact (towardZero_natCast_div m e q).symm
    | true =>
      simp only [↓reduceIte, neg_mul, one_mul, neg_div, towardZero_neg]
      rw [towardZero_natCast_div]

namespace Machine

/-- A cell takes in one term. -/
def cellStep (q : Int) (acc : CellSum × Val) (v : Val) : CellSum × Val :=
  ({ p := acc.1.p + truncGrid v q, spec := mergeSpec acc.1.spec (specOf v) },
    match v with
    | .fin .. => (Val.add .rne acc.2 v).1
    | _ => acc.2)

/-- A column's element with its offset; a row's comes with its position. -/
abbrev CellPart := Val × Option Int

theorem mergeSpec_zero (k : Nat) : mergeSpec k 0 = k := by
  unfold mergeSpec
  split
  · omega
  · simp

/-- The term of a row's element and a column's. -/
theorem termOf_nan {cls : AccClass} {a b : CellPart} (h : a.2 = none ∨ b.2 = none ∨ a.1.isNaN = true ∨ b.1.isNaN = true) :
    (termOf cls a b).isNaN = true := by
  obtain ⟨u, x⟩ := a
  obtain ⟨v, y⟩ := b
  cases x with
  | none => rfl
  | some x =>
    cases y with
    | none => rfl
    | some y =>
      have huv : u.isNaN = true ∨ v.isNaN = true := by simpa using h
      have hn : (fpMul cls u v).1.isNaN = true := by
        rcases huv with hu | hv
        · exact isNaN_withNaN List.mem_cons_self hu _
        · exact isNaN_withNaN (List.mem_cons_of_mem _ (List.mem_singleton_self _)) hv _
      unfold termOf
      dsimp only
      cases hp : (fpMul cls u v).1 <;> simp_all [Val.isNaN]

theorem termOf_some (cls : AccClass) {u v : Val} (hu : u.isNaN = false) (hv : v.isNaN = false) (x y : Int) :
    termOf cls (u, some x) (v, some y) = match (Val.mul cls u v).1 with
      | .fin n m e => .fin n m (e + x + y)
      | w => w := by
  have hmul : fpMul cls u v = Val.mul cls u v := withNaN_pair hu hv _
  unfold termOf
  rw [hmul] <;> rfl

theorem proper_mul (cls : AccClass) {u v : Val} (hu : u.isNaN = false) (hv : v.isNaN = false) : (Val.mul cls u v).1.Proper := by
  cases u with
  | nan => cases hu
  | zero n =>
    cases v with
    | nan => cases hv
    | zero => exact Val.proper_zero _
    | fin => exact Val.proper_zero _
    | inf => exact Val.proper_nan _ _ _
  | inf n =>
    cases v with
    | nan => cases hv
    | zero => exact Val.proper_nan _ _ _
    | fin => exact Val.proper_inf _
    | inf => exact Val.proper_inf _
  | fin n m e =>
    cases v with
    | nan => cases hv
    | zero => exact Val.proper_zero _
    | fin => exact Val.proper_mk _ _ _
    | inf => exact Val.proper_inf _

theorem proper_termOf (cls : AccClass) (a b : CellPart) : (termOf cls a b).Proper := by
  obtain ⟨u, x⟩ := a
  obtain ⟨v, y⟩ := b
  by_cases h : x = none ∨ y = none ∨ u.isNaN = true ∨ v.isNaN = true
  · intro n m e he
    have := termOf_nan (cls := cls) (a := (u, x)) (b := (v, y)) h
    rw [he] at this
    cases this
  · simp only [not_or, Bool.not_eq_true] at h
    obtain ⟨hx, hy, hu, hv⟩ := h
    obtain ⟨x, rfl⟩ := Option.ne_none_iff_exists'.mp hx
    obtain ⟨y, rfl⟩ := Option.ne_none_iff_exists'.mp hy
    have hp := proper_mul cls hu hv
    rw [termOf_some cls hu hv]
    cases hm : (Val.mul cls u v).1 with
    | fin n m e => exact Val.proper_fin _ _ (hp n m e hm)
    | zero n => exact Val.proper_zero _
    | inf n => exact Val.proper_inf _
    | nan n q y => exact Val.proper_nan _ _ _

/-! One term at a time. -/

theorem cellStep_nan (q : Int) (acc : CellSum × Val) {v : Val} (h : v.isNaN = true) :
    cellStep q acc v = ({ acc.1 with spec := mergeSpec acc.1.spec 3 }, acc.2) := by
  cases v with
  | nan => simp [cellStep, truncGrid, specOf]
  | inf => cases h
  | zero => cases h
  | fin => cases h

theorem cellStep_inf (q : Int) (acc : CellSum × Val) (n : Bool) :
    cellStep q acc (.inf n) = ({ acc.1 with spec := mergeSpec acc.1.spec (if n then 2 else 1) }, acc.2) := by
  simp [cellStep, truncGrid, specOf]

theorem cellStep_zero (q : Int) (acc : CellSum × Val) (n : Bool) : cellStep q acc (.zero n) = acc := by
  simp [cellStep, truncGrid, specOf, mergeSpec_zero]

theorem cellStep_fin (q : Int) (acc : CellSum × Val) (n : Bool) (m : Nat) (e : Int) :
    cellStep q acc (.fin n m e) = ({ acc.1 with p := acc.1.p + truncGrid (.fin n m e) q }, (Val.add .rne acc.2 (.fin n m e)).1) := by
  simp [cellStep, specOf, mergeSpec_zero]

/-- The model's step for a row's element, where the column holds its partner. -/
def cellTake (c : AccClass) (q : Int) (acc : CellSum × Val) (a b : CellPart) : CellSum × Val :=
  let special (k : Nat) : CellSum × Val := ({ acc.1 with spec := mergeSpec acc.1.spec k }, acc.2)
  match a.2, b.2 with
  | some x, some y =>
    if a.1.isNaN || b.1.isNaN then special 3
    else match Val.mul c a.1 b.1 with
      | (_, true) => special 3
      | (.inf n, _) => special (if n then 2 else 1)
      | (.fin n m e, _) =>
        let v := Val.fin n m (e + x + y)
        ({ acc.1 with p := acc.1.p + truncGrid v q }, (Val.add .rne acc.2 v).1)
      | _ => acc
  | _, _ => special 3

theorem cellTake_eq (c : AccClass) (q : Int) (acc : CellSum × Val) (a b : CellPart) : cellTake c q acc a b = cellStep q acc (termOf c a b) := by
  obtain ⟨u, x⟩ := a
  obtain ⟨v, y⟩ := b
  cases x with
  | none => exact (cellStep_nan q acc (termOf_nan (.inl rfl))).symm
  | some x =>
    cases y with
    | none => exact (cellStep_nan q acc (termOf_nan (.inr (.inl rfl)))).symm
    | some y =>
      unfold cellTake
      dsimp only
      by_cases hn : u.isNaN = true ∨ v.isNaN = true
      · rw [if_pos (by simpa using hn), cellStep_nan q acc (termOf_nan (.inr (.inr hn)))]
      · have hn' := not_or.mp hn
        have hu : u.isNaN = false := Bool.not_eq_true _ ▸ hn'.1
        have hv : v.isNaN = false := Bool.not_eq_true _ ▸ hn'.2
        rw [if_neg (by simpa using hn), termOf_some c hu hv]
        rcases Val.mul_cases c hu hv with h | ⟨h1, h2⟩
        · rw [h]
          exact (cellStep_nan q acc rfl).symm
        · generalize Val.mul c u v = r at h1 h2 ⊢
          obtain ⟨r, bad⟩ := r
          obtain rfl : bad = false := h2
          cases r with
          | nan => cases h1
          | inf n => exact (cellStep_inf q acc n).symm
          | zero n => exact (cellStep_zero q acc n).symm
          | fin n m e => exact (cellStep_fin q acc n m _).symm

/-- A cell takes in the terms of its row and column in order. -/
theorem cellOf_eq (c : AccClass) (q : Int) {row : List (Nat × CellPart)} {col : Array CellPart} {b : Nat → CellPart}
    (h : ∀ t ∈ row, col[t.1]? = some (b t.1)) : cellOf c q row col =
      (row.map fun t => termOf c t.2 (b t.1)).foldl (cellStep q) ({ p := 0, spec := 0 }, .zero false) := by
  rw [List.foldl_map]
  refine List.foldl_ext _ _ _ fun acc t ht => ?_
  rw [h t ht, ← cellTake_eq]
  rfl

/-! All its terms. -/

/-- The special state that terms lead to (R126). -/
def stateOf (ts : List Val) : Nat :=
  if ts.any Val.isNaN || (ts.contains (.inf false) && ts.contains (.inf true)) then 3
  else if ts.contains (.inf false) then 1 else if ts.contains (.inf true) then 2 else 0

/-- One term more merges its state. -/
theorem stateOf_append (ts : List Val) (v : Val) : stateOf (ts ++ [v]) = mergeSpec (stateOf ts) (specOf v) := by
  unfold stateOf
  simp only [List.any_append, List.any_cons, List.any_nil, List.contains_append, Bool.or_false]
  generalize ts.any Val.isNaN = hn
  generalize ts.contains (.inf false) = hp
  generalize ts.contains (.inf true) = hm
  cases v with
  | nan => cases hn <;> cases hp <;> cases hm <;> rfl
  | zero n => cases hn <;> cases hp <;> cases hm <;> rfl
  | fin n m e => cases hn <;> cases hp <;> cases hm <;> rfl
  | inf n => cases n <;> cases hn <;> cases hp <;> cases hm <;> rfl

/-- What a cell holds once it has taken in its terms: their truncated sum, their state, and their exact sum. -/
theorem foldl_cellStep (q : Int) {ts : List Val} (h : ∀ v ∈ ts, v.Proper) :
    let r := ts.foldl (cellStep q) ({ p := 0, spec := 0 }, .zero false)
    CellIs q ts r.1 ∧ r.2.Is (ts.map Val.real).sum := by
  induction ts using List.reverseRecOn with
  | nil => exact ⟨⟨rfl, rfl⟩, rfl⟩
  | append_singleton ts v ih =>
    obtain ⟨⟨hp, hs⟩, hsum⟩ := ih fun w hw => h w (List.mem_append_left _ hw)
    intro r
    have hr : r = cellStep q (ts.foldl (cellStep q) ({ p := 0, spec := 0 }, .zero false)) v := List.foldl_append ..
    rw [hr]
    refine ⟨⟨?_, ?_⟩, ?_⟩
    · rw [List.map_append, List.sum_append, ← hp, List.map_cons, List.map_nil, List.sum_singleton, ← truncGrid_eq]
      rfl
    · refine Eq.trans ?_ (stateOf_append ts v).symm
      exact congrArg (mergeSpec · (specOf v)) hs
    · rw [List.map_append, List.sum_append, List.map_cons, List.map_nil, List.sum_singleton]
      cases v with
      | fin n m e => exact hsum.add .rne ((h _ (List.mem_append_right _ (List.mem_singleton_self _))).is_real rfl)
      | nan => simpa [cellStep, Val.real] using hsum
      | inf => simpa [cellStep, Val.real] using hsum
      | zero => simpa [cellStep, Val.real] using hsum

end Machine

end Sys2Proof

/-! What an attempt reads of A (12 R229, R233): offsets, and the positions that the metadata of a sparse row marks. -/

namespace Sys2Proof

/-! Folds that may stop. -/

section
variable {α β ε : Type} {F : (List β ⊕ ε) → α → List β ⊕ ε} {y : α → List β}

theorem foldl_inr (hstop : ∀ x r, F (.inr x) r = .inr x) (l : List α) (x : ε) : l.foldl F (.inr x) = .inr x := by
  induction l with
  | nil => rfl
  | cons r l ih => rw [List.foldl_cons, hstop, ih]

/-- A fold whose every step goes on collects what they give. -/
theorem foldl_inl {l : List α} (h : ∀ acc, ∀ r ∈ l, F (.inl acc) r = .inl (acc ++ y r)) (acc : List β) :
    l.foldl F (.inl acc) = .inl (acc ++ l.flatMap y) := by
  induction l generalizing acc with
  | nil => simp
  | cons r l ih =>
    rw [List.foldl_cons, h acc r List.mem_cons_self, ih fun acc r hr => h acc r (List.mem_cons_of_mem _ hr), List.flatMap_cons, List.append_assoc]

end

/-- The first step that stops ends the fold. -/
theorem foldl_range_inr {β ε : Type} {F : (List β ⊕ ε) → Nat → List β ⊕ ε} {y : Nat → List β} {n k : Nat} {x : ε} (hk : k < n)
    (hstop : ∀ x r, F (.inr x) r = .inr x) (hgood : ∀ acc, ∀ r < k, F (.inl acc) r = .inl (acc ++ y r))
    (hbad : ∀ acc, F (.inl acc) k = .inr x) : (List.range n).foldl F (.inl []) = .inr x := by
  obtain ⟨j, rfl⟩ := Nat.exists_eq_add_of_le (Nat.succ_le_of_lt hk)
  rw [List.range_add, Nat.succ_eq_add_one, List.range_succ, List.foldl_append, List.foldl_append,
    foldl_inl (fun acc r hr => hgood acc r (List.mem_range.mp hr)),
    List.foldl_cons, List.foldl_nil, hbad, foldl_inr hstop]

/-! Bits in order. -/

theorem bitList_length (x n : Nat) : (bitList x n).length = popcount x n := by
  unfold bitList
  induction n with
  | zero => rfl
  | succ n ih =>
    rw [List.range_succ, List.filter_append, List.length_append, ih, popcount, List.filter_singleton]
    cases x.testBit n <;> rfl

/-- The set bits of a number, each with its rank among them. -/
theorem zip_bitList (x n : Nat) : (List.range (popcount x n)).zip (bitList x n) =
    (List.range n).filterMap fun j => if x.testBit j then some (popcount x j, j) else none := by
  induction n with
  | zero => rfl
  | succ n ih =>
    have hlist : bitList x (n + 1) = bitList x n ++ if x.testBit n then [n] else [] := by
      unfold bitList
      rw [List.range_succ, List.filter_append, List.filter_singleton]
      cases x.testBit n <;> rfl
    rw [hlist, List.range_succ, List.filterMap_append, ← ih, popcount]
    cases hbit : x.testBit n
    · simp [hbit]
    · have hlen : (List.range (popcount x n)).length = (bitList x n).length := by rw [List.length_range, bitList_length]
      simp only [if_true, List.range_succ, List.zip_append hlen, List.zip_cons_cons, List.zip_nil_right, List.filterMap_cons, hbit,
        List.filterMap_nil]

/-- A range in groups of equal size. -/
theorem filterMap_range_mul {β : Type} (w n : Nat) (f : Nat → Option β) :
    (List.range (w * n)).filterMap f = (List.range n).flatMap fun g => (List.range w).filterMap fun j => f (w * g + j) := by
  induction n with
  | zero => rfl
  | succ n ih =>
    rw [Nat.mul_succ, List.range_add, List.filterMap_append, ih, List.range_succ, List.flatMap_append, List.flatMap_singleton, List.filterMap_map]
    rfl

namespace Machine

/-! Offsets (06 R105, R124). -/

theorem offsetOf_eq (plane : Option (List Byte)) (i : Nat) : offsetOf (plane.map List.toArray) i = offsetAt plane i := by
  cases plane with
  | none => rfl
  | some l =>
    unfold offsetOf offsetAt
    simp only [Option.map_some, List.getElem?_toArray, List.getD_eq_getElem?_getD]
    cases l[i]? with
    | none => decide
    | some b => rfl

/-- The greatest of a list, taken in one by one. -/
def greatest (l : List Int) : Option Int := l.foldl (fun (m : Option Int) x => some (match m with
  | none => x
  | some y => max x y)) none

theorem greatest_spec (l : List Int) : (greatest l = none ∧ l = []) ∨ ∃ m, greatest l = some m ∧ m ∈ l ∧ ∀ x ∈ l, x ≤ m := by
  unfold greatest
  induction l using List.reverseRecOn with
  | nil => exact .inl ⟨rfl, rfl⟩
  | append_singleton l x ih =>
    right
    rw [List.foldl_append]
    rcases ih with ⟨h, rfl⟩ | ⟨m, h, hm, hmax⟩
    · exact ⟨x, rfl, by simp, by simp⟩
    · rw [h]
      refine ⟨max x m, rfl, ?_, fun z hz => ?_⟩
      · rcases max_choice x m with hx | hx
        · simp [hx]
        · simp [hx, hm]
      · rcases List.mem_append.mp hz with hz | hz
        · exact (hmax z hz).trans (le_max_right _ _)
        · rw [List.mem_singleton.mp hz]
          exact le_max_left _ _

theorem maxOffset_spec {p : Int → Prop} {l : List (Option Int)} (h : ∀ x, some x ∈ l ↔ p x) : GreatestOrZero p (maxOffset l) := by
  have hmem (x : Int) : x ∈ l.filterMap id ↔ p x := by simpa using h x
  have hmax : maxOffset l = (greatest (l.filterMap id)).getD 0 := rfl
  rw [hmax]
  rcases greatest_spec (l.filterMap id) with ⟨hg, hnil⟩ | ⟨m, hg, hm, hle⟩
  · refine .inr ⟨by rw [hg]; rfl, fun x hx => ?_⟩
    have := (hmem x).mpr hx
    rw [hnil] at this
    cases this
  · rw [hg]
    exact .inl ⟨(hmem m).mp hm, fun x hx => hle x ((hmem x).mpr hx)⟩

/-! Positions of a row (R233). -/

/-- The metadata word of a row's group. -/
def Mma.metaWord (i : Mma) (md : List Byte) (r g : Nat) : Nat :=
  (md.getD (2 * (r * (i.kk / 12) + g)) 0).toNat + 256 * (md.getD (2 * (r * (i.kk / 12) + g) + 1) 0).toNat

/-- A word that does not mark n of 12 positions. -/
def Malformed (n w : Nat) : Prop := 4096 ≤ w ∨ popcount w 12 ≠ n

/-- Where A's packing holds the element of a row at place t of the K range. -/
def Mma.stored (i : Mma) (md : List Byte) (r t : Nat) : Option Nat :=
  match i.nsp with
  | none => some (i.k0 + t)
  | some n =>
    let w := i.metaWord md r ((i.k0 + t) / 12)
    if w.testBit (t % 12) then some ((i.k0 + t) / 12 * n + popcount w (t % 12)) else none

/-- The places that hold an element, with where it is. -/
def Mma.positions (i : Mma) (md : List Byte) (r : Nat) : List (Nat × Nat) :=
  (List.range i.k).filterMap fun t => (i.stored md r t).map fun at_ => (t, at_)

/-- One group of a row. -/
def groupPositions (n g g' w : Nat) : List (Nat × Nat) := ((List.range n).zip (bitList w 12)).map fun p => (12 * g + p.2, g' * n + p.1)

section
variable {i : Mma} {n : Nat} {md : List Byte} {r : Nat}

/-- The model's step for a group. -/
def Mma.sparseStep (i : Mma) (n r : Nat) (md : List Byte) (acc : List (Nat × Nat) ⊕ Nat) (g : Nat) : List (Nat × Nat) ⊕ Nat :=
  match acc with
  | .inr a => .inr a
  | .inl l =>
    let w := i.metaWord md r (i.k0 / 12 + g)
    if w / 4096 ≠ 0 ∨ popcount w 12 ≠ n then .inr (2 * (r * (i.kk / 12) + (i.k0 / 12 + g)))
    else .inl (l ++ groupPositions n g (i.k0 / 12 + g) w)

theorem Mma.sparseRow_eq : i.sparseRow n r md.toArray = (List.range (i.k / 12)).foldl (i.sparseStep n r md) (.inl []) := by
  unfold Mma.sparseRow
  refine List.foldl_ext _ _ _ fun acc g _ => ?_
  cases acc with
  | inr a => rfl
  | inl l =>
    simp only [List.getElem?_toArray, ← List.getD_eq_getElem?_getD]
    rfl

theorem Mma.sparseStep_good {g : Nat} (h : ¬ Malformed n (i.metaWord md r (i.k0 / 12 + g))) (acc : List (Nat × Nat)) :
    i.sparseStep n r md (.inl acc) g = .inl (acc ++ groupPositions n g (i.k0 / 12 + g) (i.metaWord md r (i.k0 / 12 + g))) := by
  unfold Malformed at h
  exact if_neg (by omega)

theorem Mma.sparseStep_bad {g : Nat} (h : Malformed n (i.metaWord md r (i.k0 / 12 + g))) (acc : List (Nat × Nat)) :
    i.sparseStep n r md (.inl acc) g = .inr (2 * (r * (i.kk / 12) + (i.k0 / 12 + g))) := by
  unfold Malformed at h
  exact if_pos (by omega)

/-- A group's positions are those its word marks. -/
theorem groupPositions_eq {w : Nat} (h : ¬ Malformed n w) (g g' : Nat) : groupPositions n g g' w =
    (List.range 12).filterMap fun j => if w.testBit j then some (12 * g + j, g' * n + popcount w j) else none := by
  have hn : popcount w 12 = n := by
    unfold Malformed at h
    omega
  unfold groupPositions
  rw [← hn, zip_bitList, List.map_filterMap]
  refine List.filterMap_congr fun j _ => ?_
  cases w.testBit j <;> rfl

/-- The positions of a sparse row without malformed words. -/
theorem Mma.sparseRow_good (hn : i.nsp = some n) (hk0 : i.k0 % 12 = 0) (hk : i.k % 12 = 0)
    (h : ∀ g < i.k / 12, ¬ Malformed n (i.metaWord md r (i.k0 / 12 + g))) : i.sparseRow n r md.toArray = .inl (i.positions md r) := by
  rw [Mma.sparseRow_eq, foldl_inl (fun acc g hg => Mma.sparseStep_good (h g (List.mem_range.mp hg)) acc), List.nil_append]
  refine congrArg Sum.inl ?_
  have hmul : i.k = 12 * (i.k / 12) := by omega
  unfold Mma.positions
  conv_rhs => rw [hmul, filterMap_range_mul]
  refine List.flatMap_congr fun g hg => ?_
  rw [groupPositions_eq (h g (List.mem_range.mp hg))]
  refine List.filterMap_congr fun j hj => ?_
  have hj := List.mem_range.mp hj
  have hdiv : (i.k0 + (12 * g + j)) / 12 = i.k0 / 12 + g := by omega
  have hmod : (12 * g + j) % 12 = j := by omega
  unfold Mma.stored
  simp only [hn, hdiv, hmod]
  cases (i.metaWord md r (i.k0 / 12 + g)).testBit j <;> rfl

/-- The first malformed word of a row ends it. -/
theorem Mma.sparseRow_bad {g : Nat} (hg : g < i.k / 12) (hbad : Malformed n (i.metaWord md r (i.k0 / 12 + g)))
    (hgood : ∀ g' < g, ¬ Malformed n (i.metaWord md r (i.k0 / 12 + g'))) :
    i.sparseRow n r md.toArray = .inr (2 * (r * (i.kk / 12) + (i.k0 / 12 + g))) := by
  rw [Mma.sparseRow_eq]
  exact foldl_range_inr hg (fun _ _ => rfl) (fun acc g' hg' => Mma.sparseStep_good (hgood g' hg') acc) (Mma.sparseStep_bad hbad)

end

end Machine

end Sys2Proof

/-! The sums and checksums of an attempt (12 R234, R236, R237). -/

namespace Sys2Proof.Machine

/-- What an attempt is given: A's bytes and offsets, B's records and offsets, and the planes of B's format. -/
structure MmaInput where
  a : List Byte
  md : List Byte
  oa : Option (List Byte)
  b : List (List Byte)
  ob : Option (List Byte)
  f : PlaneFmt

section
variable (i : Mma) (x : MmaInput)

/-- The K-blocks of the offsets. -/
def Mma.blocks : Nat := (i.kk + 31) / 32

/-- The elements of a row of A, each with its place and its offset. -/
def Mma.rowParts (r : Nat) : List (Nat × CellPart) :=
  (i.positions x.md r).map fun p =>
    (p.1, i.fA.elemFmt.decode (elem i.fA.elemBits (leNat x.a) (r * i.tA.cols + p.2)), offsetAt x.oa (r * i.blocks + (i.k0 + p.1) / 32))

/-- The element of a column of B at place t of the K range, with its offset. -/
def Mma.colPart (c t : Nat) : CellPart :=
  (readPlanes i.fB x.f i.isLog (if i.q = 1 then i.h else x.f.sp) (recordElem x.f i.n (x.b.getD t []) c),
    offsetAt x.ob (c * i.blocks + (i.k0 + t) / 32))

/-- The terms of a cell (R124). -/
def Mma.terms (r c : Nat) : List Val := (i.rowParts x r).map fun t => termOf i.cls t.2 (i.colPart x c t.1)

/-- What a cell and its guards hold of them. -/
def Mma.cellRes (q : Int) (r c : Nat) : CellSum × Val := (i.terms x r c).foldl (cellStep q) ({ p := 0, spec := 0 }, .zero false)

theorem Mma.terms_eq (r c : Nat) : i.terms x r c = (List.range i.k).filterMap fun t => (i.stored x.md r t).map fun at_ =>
    termOf i.cls (i.fA.elemFmt.decode (elem i.fA.elemBits (leNat x.a) (r * i.tA.cols + at_)), offsetAt x.oa (r * i.blocks + (i.k0 + t) / 32))
      (i.colPart x c t) := by
  unfold Mma.terms Mma.rowParts Mma.positions
  rw [List.map_map, List.map_filterMap]
  refine List.filterMap_congr fun t _ => ?_
  cases i.stored x.md r t <;> rfl

theorem Mma.proper_terms (r c : Nat) : ∀ v ∈ i.terms x r c, v.Proper := by
  intro v hv
  obtain ⟨t, -, rfl⟩ := List.mem_map.mp hv
  exact proper_termOf _ _ _

theorem Mma.cellRes_spec (q : Int) (r c : Nat) :
    CellIs q (i.terms x r c) (i.cellRes x q r c).1 ∧ (i.cellRes x q r c).2.Is ((i.terms x r c).map Val.real).sum :=
  foldl_cellStep q (i.proper_terms x r c)

/-- The column as the model holds it. -/
def Mma.column (c : Nat) : Array CellPart :=
  (((List.range x.b.length).zip x.b).map fun r =>
    (readPlanes i.fB x.f i.isLog (if i.q = 1 then i.h else x.f.sp) (recordElem x.f i.n r.2 c),
      offsetAt x.ob (c * i.blocks + (i.k0 + r.1) / 32))).toArray

theorem Mma.column_getElem? {c t : Nat} (h : t < x.b.length) : (i.column x c)[t]? = some (i.colPart x c t) := by
  unfold Mma.column Mma.colPart
  have hz : ((List.range x.b.length).zip x.b)[t]? = some (t, x.b.getD t []) := by
    rw [List.getElem?_zip_eq_some]
    exact ⟨by simp [h], by simp [h]⟩
  rw [List.getElem?_toArray, List.getElem?_map, hz]
  rfl

theorem Mma.rowParts_lt {r : Nat} {t : Nat × CellPart} (h : t ∈ i.rowParts x r) : t.1 < i.k := by
  obtain ⟨p, hp, rfl⟩ := List.mem_map.mp h
  obtain ⟨t, ht, hs⟩ := List.mem_filterMap.mp hp
  obtain ⟨at_, -, rfl⟩ := Option.map_eq_some_iff.mp hs
  exact List.mem_range.mp ht

/-- A cell's row and column come to its terms. -/
theorem Mma.cellOf_rowParts (hb : x.b.length = i.k) (q : Int) (r c : Nat) :
    cellOf i.cls q (i.rowParts x r) (i.column x c) = i.cellRes x q r c :=
  cellOf_eq i.cls q fun _ ht => i.column_getElem? x (hb ▸ i.rowParts_lt x ht)

/-- A checksum: the exact sum of the finite terms, truncated (R237). -/
def checksum (q : Int) (l : List Val) : Int := truncGrid (l.foldl (fun acc v => (Val.add .rne acc v).1) (.zero false)) q

theorem checksum_eq {q : Int} {l : List Val} {y : List ℝ} (h : l.map Val.real = y) (hl : ∀ v ∈ l, v.Is v.real) :
    checksum q l = towardZero (y.sum / 2 ^ q) := by
  have hsum := (Val.is_foldl_add (rm := .rne) (u := .zero false) (x := 0) rfl hl).real_eq
  rw [zero_add, h] at hsum
  unfold checksum
  rw [truncGrid_eq, hsum]

/-- The anchor (R124): the tops of the formats and the greatest offsets of the K range. -/
def Mma.maxOffsets (n : Nat) (plane : Option (List Byte)) : Int :=
  maxOffset ((List.range n).flatMap fun r => ((List.range ((i.k0 + i.k - 1) / 32 + 1 - i.k0 / 32)).map (i.k0 / 32 + ·)).map fun k =>
    offsetAt plane (r * i.blocks + k))

theorem Mma.maxOffsets_spec (hk : 0 < i.k) (n : Nat) (plane : Option (List Byte)) :
    GreatestOrZero (fun z => ∃ r < n, ∃ k, (i.k0 / 32 ≤ k ∧ k ≤ (i.k0 + i.k - 1) / 32) ∧ offsetAt plane (r * i.blocks + k) = some z)
      (i.maxOffsets n plane) := by
  refine maxOffset_spec fun z => ?_
  simp only [List.mem_flatMap, List.mem_range, List.mem_map]
  constructor
  · rintro ⟨r, hr, k, ⟨d, hd, rfl⟩, hz⟩
    exact ⟨r, hr, _, ⟨Nat.le_add_right .., by omega⟩, hz⟩
  · rintro ⟨r, hr, k, ⟨hlow, hhigh⟩, hz⟩
    exact ⟨r, hr, k, ⟨k - i.k0 / 32, by omega, by omega⟩, hz⟩

def Mma.anchor : Int := topOf i.fA + topOf i.fB + i.maxOffsets i.m x.oa + i.maxOffsets i.n x.ob

/-- The cells of a member. -/
def Mma.cells (q : Int) (n : Nat) : List (List (CellSum × Val)) :=
  (List.range i.m).map fun r => (List.range (i.cols n)).map fun j => i.cellRes x q r (128 * n + j)

/-- What an attempt comes to. -/
def Mma.result (span : Nat) : MmaSums where
  emax := i.anchor x
  good := (List.range span).map fun n => (i.cells x (i.anchor x - 85) n).flatMap fun r => r.map (·.1)
  rows := (List.range span).map fun n => (i.cells x (i.anchor x - 85) n).map fun r => checksum (i.anchor x - 85) (r.map (·.2))
  cols := (List.range span).map fun n => (List.range (i.cols n)).map fun j =>
    checksum (i.anchor x - 85) ((i.cells x (i.anchor x - 85) n).filterMap fun r => (r[j]?).map (·.2))

end

end Sys2Proof.Machine

/-! `Mma.sums` by its rows and columns (12 R233 to R237). -/

namespace Sys2Proof.Machine

section
variable (i : Mma) (x : MmaInput)

/-- The positions of a row, or its first malformed metadata word. -/
def Mma.places (md : List Byte) (r : Nat) : List (Nat × Nat) ⊕ Nat :=
  match i.nsp with
  | some n => i.sparseRow n r md.toArray
  | none => .inl ((List.range i.k).map fun t => (t, i.k0 + t))

/-- The model's step for a row of A. -/
def Mma.rowStep (acc : List (List (Nat × CellPart)) ⊕ Nat) (r : Nat) : List (List (Nat × CellPart)) ⊕ Nat :=
  match acc with
  | .inr y => .inr y
  | .inl l => match i.places x.md r with
    | .inr y => .inr y
    | .inl ps => .inl (l ++ [ps.map fun p =>
        (p.1, i.fA.elemFmt.decode (elem i.fA.elemBits (leNat x.a) (r * i.tA.cols + p.2)), offsetAt x.oa (r * i.blocks + (i.k0 + p.1) / 32))])

theorem Mma.rowStep_good {r : Nat} (h : i.places x.md r = .inl (i.positions x.md r)) (acc : List (List (Nat × CellPart))) :
    i.rowStep x (.inl acc) r = .inl (acc ++ [i.rowParts x r]) := by
  simp only [Mma.rowStep, h, Mma.rowParts]

theorem Mma.rowStep_bad {r y : Nat} (h : i.places x.md r = .inr y) (acc : List (List (Nat × CellPart))) :
    i.rowStep x (.inl acc) r = .inr y := by
  simp only [Mma.rowStep, h]

/-- The sums from the rows of A. -/
def Mma.sumsOf (span : Nat) (rows : List (List (Nat × CellPart))) : MmaSums :=
  let q := i.anchor x - 85
  let blocks := (List.range span).map fun n =>
    let cols := (List.range (i.cols n)).map fun j => i.column x (128 * n + j)
    rows.map fun r => cols.map fun c => cellOf i.cls q r c
  { emax := i.anchor x
    good := blocks.map fun bl => bl.flatMap fun r => r.map (·.1)
    rows := blocks.map fun bl => bl.map fun r => checksum q (r.map (·.2))
    cols := ((List.range span).zip blocks).map fun y =>
      (List.range (i.cols y.1)).map fun j => checksum q (y.2.filterMap fun r => (r[j]?).map (·.2)) }

theorem Mma.sums_eq {span : Nat} (hf : planeFmt i.fB = some x.f) : i.sums span x.a x.md x.oa x.b x.ob =
    match (List.range i.m).foldl (i.rowStep x) (.inl []) with
    | .inr y => .inr y
    | .inl rows => .inl (i.sumsOf x span rows) := by
  unfold Mma.sums
  simp only [hf, offsetOf_eq]
  rfl

/-! Places. -/

/-- A row whose metadata, if it has any, is well formed. -/
def Mma.RowGood (md : List Byte) (r : Nat) : Prop :=
  ∀ n, i.nsp = some n → ∀ g < i.k / 12, ¬ Malformed n (i.metaWord md r (i.k0 / 12 + g))

variable {i x}

theorem Mma.places_good {md : List Byte} {r : Nat} (hgroups : ∀ n, i.nsp = some n → i.k0 % 12 = 0 ∧ i.k % 12 = 0) (h : i.RowGood md r) :
    i.places md r = .inl (i.positions md r) := by
  cases hn : i.nsp with
  | none =>
    simp only [Mma.places, Mma.positions, Mma.stored, hn, Option.map_some, List.filterMap_eq_map']
  | some n =>
    obtain ⟨hk0, hk⟩ := hgroups n hn
    simp only [Mma.places, hn]
    exact Mma.sparseRow_good hn hk0 hk (h n hn)

theorem Mma.sums_good {span : Nat} (hf : planeFmt i.fB = some x.f) (hb : x.b.length = i.k)
    (hgroups : ∀ n, i.nsp = some n → i.k0 % 12 = 0 ∧ i.k % 12 = 0) (h : ∀ r < i.m, i.RowGood x.md r) :
    i.sums span x.a x.md x.oa x.b x.ob = .inl (i.result x span) := by
  have hrows : (List.range i.m).foldl (i.rowStep x) (.inl []) = .inl ((List.range i.m).map (i.rowParts x)) := by
    rw [foldl_inl fun acc r hr => Mma.rowStep_good i x (Mma.places_good hgroups (h r (List.mem_range.mp hr))) acc]
    rw [List.nil_append, ← List.map_eq_flatMap]
  have hcells (n : Nat) : (((List.range i.m).map (i.rowParts x)).map fun r =>
      ((List.range (i.cols n)).map fun j => i.column x (128 * n + j)).map fun c => cellOf i.cls (i.anchor x - 85) r c) =
        i.cells x (i.anchor x - 85) n := by
    unfold Mma.cells
    simp only [List.map_map, Function.comp_def, i.cellOf_rowParts x hb]
  rw [Mma.sums_eq i x hf, hrows]
  refine congrArg Sum.inl ?_
  have hzip (f : Nat → List (List (CellSum × Val))) : (List.range span).zip ((List.range span).map f) =
      (List.range span).map fun n => (n, f n) := by
    have := List.zip_map' (f := id) (g := f) (l := List.range span)
    rwa [List.map_id] at this
  unfold Mma.sumsOf Mma.result
  simp only [hcells, hzip]
  simp only [List.map_map, Function.comp_def]

theorem Mma.sums_bad {span n r g : Nat} (hf : planeFmt i.fB = some x.f) (hgroups : ∀ n, i.nsp = some n → i.k0 % 12 = 0 ∧ i.k % 12 = 0)
    (hn : i.nsp = some n) (hr : r < i.m) (hg : g < i.k / 12) (hbad : Malformed n (i.metaWord x.md r (i.k0 / 12 + g)))
    (hbefore : ∀ r' < r, i.RowGood x.md r') (hrow : ∀ g' < g, ¬ Malformed n (i.metaWord x.md r (i.k0 / 12 + g'))) :
    i.sums span x.a x.md x.oa x.b x.ob = .inr (2 * (r * (i.kk / 12) + (i.k0 / 12 + g))) := by
  have hplaces : i.places x.md r = .inr (2 * (r * (i.kk / 12) + (i.k0 / 12 + g))) := by
    simp only [Mma.places, hn]
    exact Mma.sparseRow_bad hg hbad hrow
  rw [Mma.sums_eq i x hf, foldl_range_inr hr (fun _ _ => rfl)
    (fun acc r' hr' => Mma.rowStep_good i x (Mma.places_good hgroups (hbefore r' hr')) acc) (Mma.rowStep_bad i x hplaces)]

/-! What the sums hold of a member. -/

theorem getElem?_flatMap_range {β : Type} {m w r j : Nat} (h : Nat → Nat → β) (hr : r < m) (hj : j < w) :
    ((List.range m).flatMap fun r => (List.range w).map (h r))[r * w + j]? = some (h r j) := by
  have hlen (k : Nat) : ((List.range k).flatMap fun r => (List.range w).map (h r)).length = k * w := by simp [List.length_flatMap]
  induction m with
  | zero => omega
  | succ m ih =>
    rw [List.range_succ, List.flatMap_append, List.flatMap_singleton]
    rcases Nat.lt_succ_iff_lt_or_eq.mp hr with hlt | rfl
    · have hin : r * w + j < m * w := by
        calc r * w + j < r * w + w := Nat.add_lt_add_left hj _
          _ = (r + 1) * w := (Nat.succ_mul r w).symm
          _ ≤ m * w := Nat.mul_le_mul_right w hlt
      rw [List.getElem?_append_left (by rw [hlen]; exact hin)]
      exact ih hlt
    · rw [List.getElem?_append_right (by rw [hlen]; omega), hlen, Nat.add_sub_cancel_left]
      simp [hj]

theorem getD_map_range {β : Type} {n k : Nat} (f : Nat → List β) (h : k < n) : ((List.range n).map f).getD k [] = f k := by
  simp [h]

theorem Mma.result_good {span n r j : Nat} (hn : n < span) (hr : r < i.m) (hj : j < i.cols n) :
    ((i.result x span).good.getD n [])[r * i.cols n + j]? = some (i.cellRes x (i.anchor x - 85) r (128 * n + j)).1 := by
  have hflat : (i.result x span).good.getD n [] = (List.range i.m).flatMap fun r => (List.range (i.cols n)).map fun j =>
      (i.cellRes x (i.anchor x - 85) r (128 * n + j)).1 := by
    refine (getD_map_range _ hn).trans ?_
    unfold Mma.cells
    simp only [List.flatMap_map, List.map_map, Function.comp_def]
  rw [hflat, getElem?_flatMap_range (fun r j => (i.cellRes x (i.anchor x - 85) r (128 * n + j)).1) hr hj]

/-- The exact sum of a cell's terms. -/
noncomputable def Mma.cellReal (i : Mma) (x : MmaInput) (r c : Nat) : ℝ := ((i.terms x r c).map Val.real).sum

theorem Mma.cellRes_real (q : Int) (r c : Nat) : (i.cellRes x q r c).2.real = i.cellReal x r c ∧
    (i.cellRes x q r c).2.Is (i.cellRes x q r c).2.real := by
  have h := (i.cellRes_spec x q r c).2
  exact ⟨h.real_eq, h.real_eq.symm ▸ h⟩

theorem Mma.result_rows {span n r : Nat} (hn : n < span) (hr : r < i.m) : ((i.result x span).rows.getD n [])[r]? =
    some (towardZero (((List.range (i.cols n)).map fun j => i.cellReal x r (128 * n + j)).sum / 2 ^ (i.anchor x - 85))) := by
  have hlist : (i.result x span).rows.getD n [] = (List.range i.m).map fun r => checksum (i.anchor x - 85)
      ((List.range (i.cols n)).map fun j => (i.cellRes x (i.anchor x - 85) r (128 * n + j)).2) := by
    refine (getD_map_range _ hn).trans ?_
    unfold Mma.cells
    simp only [List.map_map, Function.comp_def]
  rw [hlist, List.getElem?_map, List.getElem?_range hr, Option.map_some, checksum_eq rfl]
  · simp only [List.map_map, Function.comp_def, Mma.cellRes_real]
  · intro v hv
    obtain ⟨j, -, rfl⟩ := List.mem_map.mp hv
    exact (Mma.cellRes_real ..).2

theorem Mma.result_cols {span n j : Nat} (hn : n < span) (hj : j < i.cols n) : ((i.result x span).cols.getD n [])[j]? =
    some (towardZero (((List.range i.m).map fun r => i.cellReal x r (128 * n + j)).sum / 2 ^ (i.anchor x - 85))) := by
  have hlist : (i.result x span).cols.getD n [] = (List.range (i.cols n)).map fun j => checksum (i.anchor x - 85)
      ((i.cells x (i.anchor x - 85) n).filterMap fun r => (r[j]?).map (·.2)) := getD_map_range _ hn
  have hcol : ((i.cells x (i.anchor x - 85) n).filterMap fun r => (r[j]?).map (·.2)) =
      (List.range i.m).map fun r => (i.cellRes x (i.anchor x - 85) r (128 * n + j)).2 := by
    unfold Mma.cells
    rw [List.filterMap_map]
    simp [List.getElem?_range hj]
  rw [hlist, List.getElem?_map, List.getElem?_range hj, Option.map_some, hcol, checksum_eq rfl]
  · simp only [List.map_map, Function.comp_def, Mma.cellRes_real]
  · intro v hv
    obtain ⟨r, -, rfl⟩ := List.mem_map.mp hv
    exact (Mma.cellRes_real ..).2

end

end Sys2Proof.Machine

/-! The obligation on the guard and the rails. -/

section
open Sys2Proof Sys2Proof.Machine

/-- Settles O32: the sums by an induction over the terms of a cell, the verdict by the differences of a block's sums from its guards, and the
events by what each does. -/
theorem guardAndRails : Obligations.GuardAndRails := by
  unfold Obligations.GuardAndRails
  refine ⟨rfl, fun i f span a md oa ob b hf hb hk hgroups => ?sums, fun a n p hgood hrows hcols => ?verdict, ?tchk, fun s b hb => ?rails⟩
  case sums =>
    let x : MmaInput := ⟨a, md, oa, b, ob, f⟩
    have hterms (r c : Nat) := i.terms_eq x r c
    refine ⟨fun r hr g hg hbad hfirst => ?malformed, fun hno => ⟨i.result x span, i.maxOffsets i.m oa, i.maxOffsets i.n ob, ?_⟩⟩
    case malformed =>
      obtain ⟨n, hn, hw⟩ := hbad
      refine Mma.sums_bad (x := x) hf hgroups hn hr hg hw (fun r' hr' n' hn' g' hg' hw' => ?_) fun g' hg' hw' => ?_
      · exact hfirst r' g' hg' (.inl hr') ⟨n', hn', hw'⟩
      · exact hfirst r g' (hg'.trans hg) (.inr ⟨rfl, hg'⟩) ⟨n, hn, hw'⟩
    refine ⟨Mma.sums_good (x := x) hf hb hgroups fun r hr n hn g hg hw => hno r hr g hg ⟨n, hn, hw⟩,
      i.maxOffsets_spec hk i.m oa, i.maxOffsets_spec hk i.n ob, rfl, fun n hn =>
        ⟨fun r hr j hj => ⟨_, Mma.result_good hn hr hj, ?_⟩, fun r hr => ?_, fun j hj => ?_⟩⟩
    · have h := (i.cellRes_spec x (i.anchor x - 85) r (128 * n + j)).1
      rw [hterms] at h
      exact h
    · have h := Mma.result_rows (x := x) hn hr
      unfold Mma.cellReal at h
      simp only [hterms] at h
      exact h
    · have h := Mma.result_cols (x := x) hn hj
      unfold Mma.cellReal at h
      simp only [hterms] at h
      exact h
  case verdict =>
    exact ⟨ArrayOp.verdict_of_sound hgood hrows hcols, fun i j d inj hi hj he hlow hhigh =>
      ArrayOp.verdict_of_single hgood hrows hcols hi hj he hlow hhigh⟩
  case tchk => exact fun o s cur c l h hfail => exec_tchk h hfail
  case rails =>
    obtain ⟨hidle, hfull⟩ := (s.core b).rail.step_cases (s.core b).crTarget.toNat
    refine ⟨fun hr => ?_, fun hr => ?_, exec_logRailReturn⟩
    · rw [exec_railTunerStep, State.modCore_of_fixed]
      rw [hidle hr]
    · rw [exec_railTunerStep]
      exact congrArg _ (State.modCore_congr (by rw [hfull hr]))

end

/-! bfp_add of a value whose significand is 0 (06 R103, R122). The formats decode to no such value, but TilePath asks it of every list of
values: the block then grows although its accumulators fit as they stand. -/

namespace Sys2Proof.Machine

/-- One value that no format has: significand 0 at exponent 0. -/
def hollowValue : List Val := [.fin false 0 0]

theorem tasReset_blockOk (idx : Nat) (dbl : Bool) : BlockOk (tasReset idx dbl) where
  mantissas := by
    refine ⟨rfl, fun m hm => ?_⟩
    rw [List.eq_of_mem_replicate hm]
    exact ⟨neg_nonpos.mpr (by positivity), by positivity⟩
  states := ⟨rfl, fun k hk => by rw [List.eq_of_mem_replicate hk]; decide⟩
  exponent := ⟨le_rfl, by norm_num [tasReset]⟩
  growths := by norm_num [tasReset]

/-- The exponent of a block at reset goes up from −32768 to −49. -/
theorem bfpAdd_hollowValue_x : (bfpAdd (tasReset 0 false) hollowValue).x = -49 := by decide

theorem real_hollowValue (i : Nat) : (hollowValue.getD i (.zero false)).real = 0 := by
  cases i with
  | zero => simp [hollowValue, Val.real, realOf]
  | succ i => rfl

theorem addedAt_hollowValue (i : Nat) (hi : i < 16) : addedAt (tasReset 0 false) hollowValue 0 i = 0 := by
  have hm : (tasReset 0 false).m.getD i 0 = 0 := List.getD_replicate 0 hi
  rw [addedAt, hm, real_hollowValue]
  simp

theorem held_hollowValue (i : Nat) (hi : i < 16) : Held (tasReset 0 false) hollowValue 0 i := by
  rw [Held, addedAt_hollowValue i hi]
  exact ⟨neg_nonpos.mpr (by positivity), by positivity⟩

/-- The growth is not the least: none at all would do. -/
theorem not_bfpAdd_hollowValue : ¬ BfpAdd (tasReset 0 false) hollowValue (bfpAdd (tasReset 0 false) hollowValue) := by
  rintro ⟨g, -, -, hx, -, -, hleast, -⟩
  rw [bfpAdd_hollowValue_x] at hx
  have hg : 0 < g := by
    have hreset : (tasReset 0 false).x = -32768 := rfl
    omega
  exact hleast 0 hg fun i hi _ => held_hollowValue i hi

end Sys2Proof.Machine

section
open Sys2Proof Sys2Proof.Machine

/-- Refutes O33: its first clause takes every list of values, among them ±0 × 2^e written with a significand of 0, which no format decodes
to (R103) and for which bfp_add grows the block by more than the least growth of R122. -/
theorem not_tilePath : ¬ Obligations.TilePath := by
  unfold Obligations.TilePath
  rintro ⟨⟨hadd, -⟩, -⟩
  exact not_bfpAdd_hollowValue (hadd _ _ (tasReset_blockOk 0 false))

end

/-! Integers element by element, carries, products and quotients (07 R132 to R134). -/

namespace Sys2Proof

theorem wrap_natCast (w n : Nat) : wrap w (n : Int) = n % 2 ^ w := by
  rw [wrap, ← two_pow_cast, ← Int.natCast_mod, Int.toNat_natCast]

/-- The remainder lies between 0 and the dividend. -/
theorem tmod_between (x y : Int) : min 0 x ≤ x.tmod y ∧ x.tmod y ≤ max 0 x := by
  have habs : (x.tmod y).natAbs ≤ x.natAbs := Int.natAbs_tmod x y ▸ Nat.mod_le _ _
  rcases le_total 0 x with hx | hx
  · have := Int.tmod_nonneg y hx
    omega
  · have := Int.tmod_nonneg y (Int.neg_nonneg.mpr hx)
    rw [Int.neg_tmod] at this
    omega

theorem intLow_nonpos (s : Bool) (w : Nat) : intLow s w ≤ 0 := by
  cases s
  · exact le_rfl
  · exact neg_nonpos.mpr (pow_nonneg (by decide) _)

theorem intHigh_nonneg (s : Bool) (w : Nat) : 0 ≤ intHigh s w := by
  cases s
  · exact Int.le_sub_one_of_lt (Int.pow_pos (by decide))
  · exact Int.le_sub_one_of_lt (Int.pow_pos (by decide))

/-- The lowest signed integer and its negation have the same bits. -/
theorem wrap_neg_intLow {w : Nat} (hw : 0 < w) : wrap w (-intLow true w) = wrap w (intLow true w) := by
  obtain ⟨k, rfl⟩ := Nat.exists_eq_add_of_lt hw
  have hsum : -intLow true (0 + k + 1) = intLow true (0 + k + 1) + 2 ^ (0 + k + 1) := by
    simp only [intLow, if_true, Nat.zero_add, Nat.add_sub_cancel, pow_succ]
    omega
  rw [wrap, hsum, Int.add_emod_right, wrap]

end Sys2Proof

namespace Sys2Proof.Machine

/-- Integers computed element by element, in D. -/
theorem writesElems_intElems (o : Enc) (f : Tag) (sat : Bool) (g : Int → Int → Int) (a b : Nat) (t : Thread) :
    let w := f.elemBits
    WritesElems o f (fun k =>
        let x := g (intOf f.isSigned w (elem w a k)) (intOf f.isSigned w (elem w b k))
        wrap w (if sat then clampInt x (intLow f.isSigned w) (intHigh f.isSigned w) else x)) t
      (t.write o.d.toNat f.wide (BitVec.ofNat 64 (intElems f sat g a b)) f) :=
  ⟨_, rfl, packElems_range_lt _ _ _, fun _ hk => elem_packElems_range _ _ _ _ hk (wrap_lt _ _)⟩

/-- The spec of a form that computes elements of A and B as integers (R132). -/
theorem intBin_runs (i : Instr) (o : Enc) (sat : Bool) (g : Int → Int → Int)
    (he : ∀ s, exec i s = .next (s.regInstr o (binForm o .i32 true fun f a b => intElems f sat g a b))) :
    let f := o.fmt .i32
    let w := f.elemBits
    RunsOnRegisters i o true (opsAB o f) (dstD o f) [] always (fun _ t => WritesElems o f (fun k =>
      let x := g (intOf f.isSigned w (elem w (valA o f.wide t) k)) (intOf f.isSigned w (elem w (valB o f.wide t) k))
      wrap w (if sat then clampInt x (intLow f.isSigned w) (intHigh f.isSigned w) else x)) t) :=
  binForm_runs i o .i32 true _ _ he fun _ t => writesElems_intElems o _ sat g _ _ t

/-- The same of A alone, or of the literal in its place. -/
theorem intUn_runs (i : Instr) (o : Enc) (sat : Bool) (g : Int → Int)
    (he : ∀ s, exec i s = .next (s.regInstr o (unForm o .i32 fun f a => intElems f sat (fun x _ => g x) a 0))) :
    let f := o.fmt .i32
    let w := f.elemBits
    RunsOnRegisters i o true (opsA o f) (dstD o f) [] always (fun _ t => WritesElems o f (fun k =>
      let x := g (intOf f.isSigned w (elem w (valLitA o f.wide t) k))
      wrap w (if sat then clampInt x (intLow f.isSigned w) (intHigh f.isSigned w) else x)) t) :=
  unForm_runs i o .i32 _ _ he fun _ t => writesElems_intElems o _ sat (fun x _ => g x) _ 0 t

theorem Thread.predNat_eq (t : Thread) (p : Nat) : t.predNat p = if t.pred p then 1 else 0 := Bool.cond_eq_ite ..

/-- The spec of an operation with a carry or borrow in and out (R133). -/
theorem carryForm_runs (i : Instr) (o : Enc) (g : Nat → Nat → Nat → Nat → Nat × Bool)
    (he : ∀ s, exec i s = .next (s.regInstr o (carryForm o g))) :
    let f := o.fmt .i32
    let r (t : Thread) := g f.elemBits (valA o f.wide t) (valB o f.wide t) (if t.pred (Enc.carryIn o) then 1 else 0)
    RunsOnRegisters i o true (opsAB o f) (dstD o f) [Enc.carryOut o, Enc.carryIn o] always (fun _ t u =>
      u = (t.write o.d.toNat f.wide (BitVec.ofNat 64 (r t).1) f).setPred (Enc.carryOut o) (r t).2) :=
  regInstr_runs i o (carryForm o g) _ _ he fun _ t _ _ => ⟨_, rfl, by simp only [regA_value, litB_value, Thread.predNat_eq], by simp, by simp⟩

/-- The formats of IABS and INEG are signed (R132). -/
theorem isSigned_of_fieldErrs {opc : Nat} {e : Enc} (hopc : opc = 0x0B ∨ opc = 0x0C) (h : Encoding.fieldErrs opc e = []) :
    (e.fmt .i32).isSigned = true := by
  have hfts : (Encoding.spec opc e).fts = [.i32, .i64, .i16x2, .i8x4] := by rcases hopc with rfl | rfl <;> rfl
  simp only [Encoding.fieldErrs, List.append_eq_nil_iff] at h
  obtain ⟨⟨⟨-, hword1⟩, -⟩, -⟩ := h
  unfold Enc.fmt
  split_ifs with hext
  · simp only [Encoding.word1Errs, hext, if_true, List.append_eq_nil_iff, Encoding.err_eq_nil, hfts] at hword1
    obtain ⟨⟨-, hft⟩, -⟩ := hword1
    cases htag : Tag.ofCode e.ft.toNat with
    | none => simp [htag] at hft
    | some t =>
      simp only [htag, Bool.not_eq_false', List.contains_iff_mem, List.mem_cons, List.not_mem_nil, or_false] at hft
      rcases hft with rfl | rfl | rfl | rfl <;> rfl
  · rfl

theorem isSigned_of_wf {i : Instr} {opc : Nat} {e : Enc} (hi : Encoding.opcOf i = some (opc, e)) (hopc : opc = 0x0B ∨ opc = 0x0C)
    (h : i.wf = true) : (e.fmt .i32).isSigned = true := by
  obtain ⟨hok, -⟩ := (wf_iff_of_opcOf hi).mp h
  simp only [WellFormed.fieldsOk, Bool.and_eq_true, List.isEmpty_iff] at hok
  exact isSigned_of_fieldErrs hopc hok.2

theorem setW_elemBits_pos {f : Tag} (hf : f ∈ Encoding.setW) : 0 < f.elemBits := by
  rw [(setW_bits f hf).1]
  split <;> decide

theorem divide_lt (f : Tag) (a b : Nat) : divide f a b < 2 ^ f.elemBits := by
  unfold divide
  split
  · exact Nat.sub_lt (Nat.two_pow_pos _) Nat.one_pos
  · exact wrap_lt _ _

theorem remainder_lt (f : Tag) (a b : Nat) : remainder f a b < 2 ^ f.elemBits := by
  unfold remainder
  split
  · exact Nat.mod_lt _ (Nat.two_pow_pos _)
  · exact wrap_lt _ _

/-- The lowest integer over −1 gives the lowest integer (R134). -/
theorem divide_lowest {f : Tag} {a b : Nat} (hw : 0 < f.elemBits) (hb : asInt f b = -1) (ha : asInt f a = intLow f.isSigned f.elemBits) :
    asInt f (divide f a b) = asInt f a := by
  have hsigned : f.isSigned = true := by
    by_contra hs
    have hlow : intLow f.isSigned f.elemBits ≤ asInt f b := (intOf_bounds _ _ hw b).1
    rw [hb, Bool.eq_false_of_not_eq_true hs] at hlow
    exact absurd hlow (by decide : ¬ (0 : Int) ≤ -1)
  rw [hsigned] at ha
  rw [divide, hb, if_neg (by decide), Int.tdiv_neg, Int.tdiv_one, ha, wrap_neg_intLow hw, asInt, hsigned]
  exact intOf_wrap true _ hw _ le_rfl ((intLow_nonpos true _).trans (intHigh_nonneg true _))

/-- By a divisor other than 0 the remainder is what the quotient leaves of A (R134). -/
theorem asInt_remainder {f : Tag} {a b : Nat} (hw : 0 < f.elemBits) (hb : asInt f b ≠ 0) :
    asInt f (remainder f a b) = asInt f a - asInt f b * (asInt f a).tdiv (asInt f b) := by
  obtain ⟨hlow, hhigh⟩ := intOf_bounds f.isSigned f.elemBits hw a
  obtain ⟨hmin, hmax⟩ := tmod_between (asInt f a) (asInt f b)
  rw [remainder, if_neg hb, asInt, intOf_wrap _ _ hw _ ((le_min (intLow_nonpos _ _) hlow).trans hmin)
    (hmax.trans (max_le (intHigh_nonneg _ _) hhigh)), Int.tmod_def]

end Sys2Proof.Machine

section
open Sys2Proof Sys2Proof.Machine

/-- Settles O1: the elementwise instructions are one form with their own sum (`intBin_runs`, `intUn_runs`), IADC and ISBB one with a
carry (`carryForm_runs`); the signed formats are read off the checks of the fields. -/
theorem integerArithmetic : Obligations.IntegerArithmetic := by
  refine ⟨fun o _ => ⟨?iadd, ?isub, ?imin, ?imax, ?iabs, ?ineg, ?inegSigned, ?iabsSigned⟩, fun o _ => ⟨?iadc, ?isbb⟩⟩
  case iadd => exact intBin_runs (.iadd o) o (o.modBit 0) (· + ·) fun _ => rfl
  case isub => exact intBin_runs (.isub o) o (o.modBit 0) (· - ·) fun _ => rfl
  case imin => exact intBin_runs (.imin o) o false min fun _ => rfl
  case imax => exact intBin_runs (.imax o) o false max fun _ => rfl
  case iabs =>
    have habs (x : Int) : (x.natAbs : Int) = if x < 0 then -x else x := by split <;> omega
    have h := intUn_runs (.iabs o) o (o.modBit 0) (fun x => x.natAbs) fun _ => rfl
    simp only [habs] at h
    exact h
  case ineg => exact intUn_runs (.ineg o) o (o.modBit 0) (fun x => -x) fun _ => rfl
  case inegSigned => exact isSigned_of_wf rfl (.inr rfl)
  case iabsSigned => exact isSigned_of_wf rfl (.inl rfl)
  case iadc => exact carryForm_runs (.iadc o) o addCarry fun _ => rfl
  case isbb => exact carryForm_runs (.isbb o) o subBorrow fun _ => rfl

/-- Settles O2: each result is the form's own (`binForm_runs`, `triForm_runs`); the corners of division are those of `divide` and
`remainder`. -/
theorem productsAndQuotients : Obligations.ProductsAndQuotients := by
  intro o hf
  have hw := setW_elemBits_pos hf
  refine ⟨?imul, ?imulh, ?imad, ?idiv, ?irem⟩
  case imul => exact binForm_runs (.imul o) o .i32 false _ _ (fun _ => rfl) fun _ _ => rfl
  case imulh =>
    refine binForm_runs (.imulh o) o .i32 false _ _ (fun _ => rfl) fun _ _ => ?_
    rw [Int.shiftRight_eq_div_pow, two_pow_cast]
    rfl
  case imad => exact triForm_runs (.imad o) o .i32 false _ _ (fun _ => rfl) fun _ _ => rfl
  case idiv =>
    exact binForm_runs (.idiv o) o .i32 true _ _ (fun _ => rfl) fun _ t =>
      ⟨_, divide_lt _ _ _, rfl, fun hzero => if_pos hzero, fun hne => if_neg hne, divide_lowest hw⟩
  case irem =>
    refine binForm_runs (.irem o) o .i32 true _ _ (fun _ => rfl) fun _ t =>
      ⟨_, remainder_lt _ _ _, rfl, fun hzero => ?_, asInt_remainder hw⟩
    have ha := valA_lt o (o.fmt .i32).wide t
    rw [← (setW_bits _ hf).1] at ha
    exact (if_pos hzero).trans (Nat.mod_eq_of_lt ha)

end

/-! Logic, shifts, bit fields and bit counts, bit by bit (07 R135). -/

namespace Sys2Proof

theorem signed_eq_toInt (w x : Nat) : signed w x = (BitVec.ofNat w x).toInt := by
  cases w with
  | zero => simp [signed, Nat.mod_one, BitVec.eq_nil (BitVec.ofNat 0 x)]
  | succ k =>
    rw [signed, Nat.add_sub_cancel, BitVec.toInt_eq_toNat_cond, BitVec.toNat_ofNat, two_pow_cast, pow_succ]
    split_ifs <;> omega

theorem wrap_eq_toNat (w : Nat) (x : Int) : wrap w x = (BitVec.ofInt w x).toNat := by
  rw [wrap, BitVec.toNat_ofInt, two_pow_cast]

/-- A signed number shifted right: copies of its top bit come in. -/
theorem testBit_wrap_signed_shiftRight {w j : Nat} (a n : Nat) (hj : j < w) :
    (wrap w (signed w a >>> n)).testBit j = a.testBit (min (j + n) (w - 1)) := by
  rw [wrap_eq_toNat, signed_eq_toInt, ← BitVec.toInt_sshiftRight, BitVec.ofInt_toInt, BitVec.testBit_toNat, BitVec.getLsbD_sshiftRight,
    decide_eq_false (by omega), Bool.not_false, Bool.true_and]
  split_ifs with hn
  · rw [BitVec.getLsbD_ofNat, decide_eq_true hn, Bool.true_and, min_eq_left (by omega), Nat.add_comm]
  · rw [BitVec.msb_eq_getLsbD_last, BitVec.getLsbD_ofNat, decide_eq_true (by omega), Bool.true_and, min_eq_right (by omega)]

/-- A signed number of fewer bits: its top bit is repeated above. -/
theorem testBit_wrap_signed {w len j : Nat} (x : Nat) (hlen : 0 < len) (hj : j < w) :
    (wrap w (signed len x)).testBit j = x.testBit (min j (len - 1)) := by
  rw [wrap_eq_toNat, signed_eq_toInt, BitVec.testBit_toNat, ← BitVec.signExtend, BitVec.getLsbD_signExtend, decide_eq_true hj, Bool.true_and]
  split_ifs with hn
  · rw [BitVec.getLsbD_ofNat, decide_eq_true hn, Bool.true_and, min_eq_left (by omega)]
  · rw [BitVec.msb_eq_getLsbD_last, BitVec.getLsbD_ofNat, decide_eq_true (by omega), Bool.true_and, min_eq_right (by omega)]

theorem reverseBits_lt (x n : Nat) : reverseBits x n < 2 ^ n := by
  induction n generalizing x with
  | zero => exact Nat.one_pos
  | succ n ih =>
    have := ih (x >>> 1)
    rw [reverseBits, pow_succ]
    split <;> omega

theorem testBit_reverseBits {n j : Nat} (x : Nat) (hj : j < n) : (reverseBits x n).testBit j = x.testBit (n - 1 - j) := by
  induction n generalizing x with
  | zero => omega
  | succ n ih =>
    have hsum : reverseBits x (n + 1) = 2 ^ n * (x.testBit 0).toNat + reverseBits (x >>> 1) n := by
      cases hbit : x.testBit 0 <;> simp [reverseBits, hbit]
    rw [hsum, Nat.testBit_two_pow_mul_add _ (reverseBits_lt _ _), Nat.add_sub_cancel]
    split_ifs with hjn
    · rw [ih _ hjn, Nat.testBit_shiftRight]
      congr 1
      omega
    · obtain rfl : j = n := by omega
      cases hbit : x.testBit 0 <;> simp [hbit]

theorem popcount_eq_countP (x n : Nat) : popcount x n = (List.range n).countP fun j => x.testBit j := by
  rw [← bitList_length, bitList, List.countP_eq_length_filter]

end Sys2Proof

namespace Sys2Proof.Machine

/-- The complement of a number of w bits. -/
theorem testBit_xor_ones {w j : Nat} (x : Nat) (hj : j < w) : (x ^^^ (2 ^ w - 1)).testBit j = !x.testBit j := by
  rw [Nat.testBit_xor, Nat.testBit_two_pow_sub_one, decide_eq_true hj, Bool.xor_true]

/-- A number of w bits has none above them. -/
theorem testBit_below {w a : Nat} (ha : a < 2 ^ w) (i : Nat) : a.testBit i = (decide (i < w) && a.testBit i) := by
  rw [← Nat.testBit_mod_two_pow, Nat.mod_eq_of_lt ha]

/-- A number of `w` bits whose bit j is `g j`. -/
def HasBits (w v : Nat) (g : Nat → Bool) : Prop := v < 2 ^ w ∧ ∀ j < w, v.testBit j = g j

theorem writesBits_of_hasBits {o : Enc} {f : Tag} {n v : Nat} {g : Nat → Bool} (t : Thread) (h : HasBits n v g) :
    WritesBits o f n g t (t.write o.d.toNat f.wide (BitVec.ofNat 64 v) f) := ⟨v, rfl, h⟩

section
variable {f : Tag} {a : Nat}

theorem hasBits_zero {w : Nat} {g : Nat → Bool} (h : ∀ j < w, g j = false) : HasBits w 0 g :=
  ⟨Nat.two_pow_pos w, fun j hj => (Nat.zero_testBit j).trans (h j hj).symm⟩

theorem shiftLeft_hasBits (f : Tag) (a n : Nat) : HasBits f.elemBits (shiftLeft f a n) fun j => decide (n ≤ j) && a.testBit (j - n) := by
  unfold shiftLeft
  split_ifs with hn
  · exact hasBits_zero fun j hj => by rw [decide_eq_false (by omega), Bool.false_and]
  · exact ⟨Nat.mod_lt _ (Nat.two_pow_pos _), fun j hj => by
      rw [Nat.testBit_mod_two_pow, decide_eq_true hj, Bool.true_and, Nat.testBit_mul_two_pow]⟩

theorem shiftRight_hasBits (ha : a < 2 ^ f.elemBits) (n : Nat) :
    HasBits f.elemBits (shiftRight f a n) fun j => decide (j + n < f.elemBits) && a.testBit (j + n) := by
  unfold shiftRight
  split_ifs with hn
  · exact hasBits_zero fun j _ => by rw [decide_eq_false (by omega), Bool.false_and]
  · exact ⟨(Nat.div_le_self _ _).trans_lt ha, fun j _ => Nat.testBit_div_two_pow a j ▸ testBit_below ha _⟩

theorem shiftArith_hasBits (f : Tag) (a n : Nat) :
    HasBits f.elemBits (shiftArith f a n) fun j => a.testBit (min (j + n) (f.elemBits - 1)) := by
  refine ⟨wrap_lt _ _, fun j hj => ?_⟩
  rw [shiftArith, testBit_wrap_signed_shiftRight _ _ hj]
  congr 1
  omega

theorem rotateLeft_hasBits (ha : a < 2 ^ f.elemBits) (n : Nat) :
    HasBits f.elemBits (rotateLeft f a n) fun j => a.testBit ((j + f.elemBits - n % f.elemBits) % f.elemBits) := by
  refine ⟨Nat.or_lt_two_pow (Nat.mod_lt _ (Nat.two_pow_pos _)) ((Nat.div_le_self _ _).trans_lt ha), fun j hj => ?_⟩
  have hk := Nat.mod_lt n (Nat.zero_lt_of_lt hj)
  simp only [rotateLeft, Nat.testBit_or, Nat.testBit_mod_two_pow, decide_eq_true hj, Bool.true_and, Nat.testBit_mul_two_pow, Nat.testBit_div_two_pow]
  generalize n % f.elemBits = k at hk ⊢
  by_cases hkj : k ≤ j
  · have hhigh : a.testBit (j + (f.elemBits - k)) = false :=
      Nat.testBit_lt_two_pow (ha.trans_le (Nat.pow_le_pow_right (by decide) (by omega)))
    have hindex : (j + f.elemBits - k) % f.elemBits = j - k := by
      rw [show j + f.elemBits - k = j - k + f.elemBits by omega, Nat.add_mod_right, Nat.mod_eq_of_lt (by omega)]
    rw [decide_eq_true hkj, Bool.true_and, hhigh, Bool.or_false, hindex]
  · rw [decide_eq_false hkj, Bool.false_and, Bool.false_or, Nat.mod_eq_of_lt (by omega), Nat.add_sub_assoc hk.le]

theorem reverseBits_hasBits (w x : Nat) : HasBits w (reverseBits x w) fun j => x.testBit (w - 1 - j) :=
  ⟨reverseBits_lt _ _, fun _ hj => testBit_reverseBits x hj⟩

theorem fieldLen_eq (w b : Nat) : fieldLen w b = min (bits b 15 8) w := by
  rw [fieldLen, bits, Nat.shiftRight_eq_div_pow]
  rfl

/-- A field of a number of w bits. -/
theorem testBit_field {w : Nat} (ha : a < 2 ^ w) (pos len i : Nat) :
    (a / 2 ^ pos % 2 ^ len).testBit i = (decide (i < len) && (decide (pos + i < w) && a.testBit (pos + i))) := by
  rw [Nat.testBit_mod_two_pow, Nat.testBit_div_two_pow, Nat.add_comm, ← testBit_below ha]

/-- BFX: the field, then zeros, or copies of its top bit in a signed format; bits above A are zeros. -/
theorem extractField_hasBits (ha : a < 2 ^ f.elemBits) (b : Nat) :
    let pos := bits b 7 0
    let len := min (bits b 15 8) f.elemBits
    HasBits f.elemBits (extractField f a b) fun j =>
      if len = 0 then false
      else if j < len then decide (pos + j < f.elemBits) && a.testBit (pos + j)
      else f.isSigned && decide (pos + len - 1 < f.elemBits) && a.testBit (pos + len - 1) := by
  intro pos len
  have hlen : len ≤ f.elemBits := Nat.min_le_right _ _
  have hvalue : extractField f a b =
      if (f.isSigned && len != 0) = true then wrap f.elemBits (signed len (a / 2 ^ pos % 2 ^ len)) else a / 2 ^ pos % 2 ^ len := by
    rw [extractField, fieldLen_eq]
    rfl
  rw [hvalue]
  by_cases hzero : len = 0
  · simp only [hzero, pow_zero, Nat.mod_one, bne_self_eq_false, Bool.and_false, Bool.false_eq_true, if_false, if_true]
    exact hasBits_zero fun _ _ => rfl
  have hpos : 0 < len := Nat.pos_of_ne_zero hzero
  simp only [hzero, if_false, bne_iff_ne.mpr hzero, Bool.and_true]
  cases f.isSigned
  · refine ⟨(Nat.mod_lt _ (Nat.two_pow_pos _)).trans_le (Nat.pow_le_pow_right (by decide) hlen), fun j _ => ?_⟩
    rw [if_neg Bool.false_ne_true, testBit_field ha, Bool.false_and, Bool.false_and]
    by_cases hj : j < len <;> simp only [hj, decide_true, decide_false, Bool.true_and, Bool.false_and, if_true, if_false]
  · refine ⟨wrap_lt _ _, fun j hj => ?_⟩
    rw [if_pos rfl, testBit_wrap_signed _ hpos hj, testBit_field ha, decide_eq_true (by omega), Bool.true_and, Bool.true_and]
    beta_reduce
    by_cases hjlen : j < len
    · rw [if_pos hjlen, min_eq_left (by omega)]
    · rw [if_neg hjlen, min_eq_right (by omega), Nat.add_sub_assoc hpos]

/-- The mask of a field, cut off at w bits. -/
theorem testBit_fieldMask {w j : Nat} (pos len : Nat) (hj : j < w) :
    ((2 ^ len - 1) * 2 ^ pos % 2 ^ w).testBit j = decide (pos ≤ j ∧ j < pos + len) := by
  rw [Nat.testBit_mod_two_pow, decide_eq_true hj, Bool.true_and, Nat.testBit_mul_two_pow, Nat.testBit_two_pow_sub_one, ← Bool.decide_and]
  exact decide_eq_decide.mpr (by omega)

/-- BFI: the low bits of A where the field lies, C elsewhere. -/
theorem insertField_hasBits (f : Tag) (a b c : Nat) :
    let pos := bits b 7 0
    let len := min (bits b 15 8) f.elemBits
    HasBits f.elemBits (insertField f a b c) fun j => if pos ≤ j ∧ j < pos + len then a.testBit (j - pos) else c.testBit j := by
  intro pos len
  have hmask := Nat.mod_lt ((2 ^ len - 1) * 2 ^ pos) (Nat.two_pow_pos f.elemBits)
  have hones : 2 ^ f.elemBits - 1 < 2 ^ f.elemBits := Nat.sub_lt (Nat.two_pow_pos _) Nat.one_pos
  rw [insertField, fieldLen_eq]
  refine ⟨Nat.or_lt_two_pow (Nat.and_lt_two_pow _ (Nat.xor_lt_two_pow hmask hones)) (Nat.and_lt_two_pow _ hmask), fun j hj => ?_⟩
  rw [Nat.testBit_or, Nat.testBit_and, Nat.testBit_and, testBit_xor_ones _ hj, testBit_fieldMask _ _ hj, Nat.testBit_mul_two_pow]
  change (c.testBit j && !decide (pos ≤ j ∧ j < pos + len) ||
    decide (pos ≤ j) && a.testBit (j - pos) && decide (pos ≤ j ∧ j < pos + len)) =
      if pos ≤ j ∧ j < pos + len then a.testBit (j - pos) else c.testBit j
  by_cases hin : pos ≤ j ∧ j < pos + len
  · rw [if_pos hin, decide_eq_true hin, decide_eq_true hin.1, Bool.not_true, Bool.and_false, Bool.false_or, Bool.true_and, Bool.and_true]
  · rw [if_neg hin, decide_eq_false hin, Bool.not_false, Bool.and_true, Bool.and_false, Bool.or_false]

end

/-- The leading zeros, and the one bit below them. -/
theorem leadingZeros_spec {w x : Nat} (hx : x < 2 ^ w) :
    leadingZeros w x ≤ w ∧ (∀ j < w, w - leadingZeros w x ≤ j → x.testBit j = false) ∧
      (leadingZeros w x < w → x.testBit (w - 1 - leadingZeros w x) = true) := by
  unfold leadingZeros
  split_ifs with hzero
  · exact ⟨le_rfl, fun j _ _ => by rw [hzero, Nat.zero_testBit], fun h => absurd h (lt_irrefl w)⟩
  · have hlog : Nat.log2 x < w := (Nat.log2_lt hzero).mpr hx
    refine ⟨by omega, fun j _ hj => ?_, fun _ => ?_⟩
    · exact Nat.testBit_lt_two_pow (Nat.lt_log2_self.trans_le (Nat.pow_le_pow_right (by decide) (by omega)))
    · rw [show w - 1 - (w - 1 - Nat.log2 x) = Nat.log2 x by omega]
      exact Nat.testBit_log2 hzero

theorem setL_of_setW {f : Tag} (hf : f ∈ Encoding.setW) : f ∈ Encoding.setL := by
  simp only [Encoding.setW, Encoding.setL, List.mem_cons, List.not_mem_nil, or_false] at hf ⊢
  tauto

/-- Operands of a format of L or W are numbers of its element's bits. -/
theorem operands_lt (o : Enc) {f : Tag} (hf : f ∈ Encoding.setL) (t : Thread) :
    valA o f.wide t < 2 ^ f.elemBits ∧ valB o f.wide t < 2 ^ f.elemBits ∧ valLitA o f.wide t < 2 ^ f.elemBits := by
  rw [setL_bits f hf]
  exact ⟨valA_lt o _ t, valB_lt o _ t, valLitA_lt o _ t⟩

/-- The spec of a logic instruction: what its operation does to each bit. -/
theorem logic_runs (i : Instr) (o : Enc) (g : Tag → Nat → Nat → Nat) (bit : Bool → Bool → Bool)
    (he : ∀ s, exec i s = .next (s.regInstr o (binForm o .n32 true g)))
    (hg : let f := o.fmt .n32
      ∀ a < 2 ^ f.elemBits, ∀ b < 2 ^ f.elemBits, HasBits f.elemBits (g f a b) fun j => bit (a.testBit j) (b.testBit j))
    (hf : o.fmt .n32 ∈ Encoding.setL) :
    let f := o.fmt .n32
    RunsOnRegisters i o true (opsAB o f) (dstD o f) [] always (fun _ t => WritesBits o f f.elemBits
      (fun j => bit ((valA o f.wide t).testBit j) ((valB o f.wide t).testBit j)) t) :=
  binForm_runs i o .n32 true g _ he fun _ t =>
    have ⟨ha, hb, _⟩ := operands_lt o hf t
    writesBits_of_hasBits t (hg _ ha _ hb)

end Sys2Proof.Machine

section
open Sys2Proof Sys2Proof.Machine

/-- Settles O3: each form writes what its operation gives (`logic_runs`, `shiftForm_runs`, …), and where each bit of that comes from is
said once of the operation (`shiftLeft_hasBits`, …). -/
theorem bitOperations : Obligations.BitOperations := by
  refine ⟨fun o hf => ⟨?andL, ?orL, ?xorL, ?andn, ?notL⟩, fun o hf => ⟨?shl, ?shr, ?sar, ?rotl, ?brev⟩,
    fun o hf => ⟨?bfx, ?bfi, ?popc, ?clz⟩⟩
  case andL =>
    exact logic_runs (.andL o) o _ (· && ·) (fun _ => rfl) (fun a _ b hb => ⟨Nat.and_lt_two_pow a hb, fun _ _ => Nat.testBit_and ..⟩) hf
  case orL =>
    exact logic_runs (.orL o) o _ (· || ·) (fun _ => rfl) (fun _ ha _ hb => ⟨Nat.or_lt_two_pow ha hb, fun _ _ => Nat.testBit_or ..⟩) hf
  case xorL =>
    exact logic_runs (.xorL o) o _ (· != ·) (fun _ => rfl) (fun _ ha _ hb => ⟨Nat.xor_lt_two_pow ha hb, fun _ _ => Nat.testBit_xor ..⟩) hf
  case andn =>
    refine logic_runs (.andn o) o _ (fun x y => x && !y) (fun _ => rfl) (fun a ha b _ => ⟨?_, fun j hj => ?_⟩) hf
    · exact Nat.and_le_left.trans_lt ha
    · rw [Nat.testBit_and, testBit_xor_ones _ hj]
  case notL =>
    refine unForm_runs (.notL o) o .n32 _ _ (fun _ => rfl) fun _ t => writesBits_of_hasBits t ⟨?_, fun j hj => testBit_xor_ones _ hj⟩
    exact Nat.xor_lt_two_pow (operands_lt o hf t).2.2 (Nat.sub_lt (Nat.two_pow_pos _) Nat.one_pos)
  case shl => exact shiftForm_runs (.shl o) o _ _ (fun _ => rfl) fun _ t => writesBits_of_hasBits t (shiftLeft_hasBits ..)
  case shr =>
    exact shiftForm_runs (.shr o) o _ _ (fun _ => rfl) fun _ t =>
      writesBits_of_hasBits t (shiftRight_hasBits (operands_lt o (setL_of_setW hf) t).1 _)
  case sar => exact shiftForm_runs (.sar o) o _ _ (fun _ => rfl) fun _ t => writesBits_of_hasBits t (shiftArith_hasBits ..)
  case rotl =>
    exact shiftForm_runs (.rotl o) o _ _ (fun _ => rfl) fun _ t =>
      writesBits_of_hasBits t (rotateLeft_hasBits (operands_lt o (setL_of_setW hf) t).1 _)
  case brev => exact unForm_runs (.brev o) o .n32 _ _ (fun _ => rfl) fun _ t => writesBits_of_hasBits t (reverseBits_hasBits ..)
  case bfx =>
    exact shiftForm_runs (.bfx o) o _ _ (fun _ => rfl) fun _ t =>
      writesBits_of_hasBits t (extractField_hasBits (operands_lt o (setL_of_setW hf) t).1 _)
  case bfi =>
    exact regInstr_writes (.bfi o) o (bfiForm o) _ _ _ _ _ (fun _ => rfl) (fun _ _ => rfl) fun _ t _ => by
      simpa only [regA_value, litB_value, regC_value] using writesBits_of_hasBits t (insertField_hasBits ..)
  case popc =>
    exact bitCountForm_runs (.popc o) o _ _ (fun _ => rfl) fun _ t => by rw [popcount_eq_countP]
  case clz =>
    refine bitCountForm_runs (.clz o) o _ _ (fun _ => rfl) fun _ t => ?_
    obtain ⟨hle, hzeros, hone⟩ := leadingZeros_spec (operands_lt o (setL_of_setW hf) t).2.2
    exact ⟨_, hle, rfl, hzeros, hone⟩

end

/-! Moves, address sums, integer compares and predicates (07 R136 to R140). -/

namespace Sys2Proof.Machine

/-- B, or the literal in its place, with its tag (03 R61). -/
theorem litB_read (o : Enc) (wide : Bool) (w : Want) (t : Thread) :
    (o.litB wide w).value t = (if o.hasLit then o.litVal wide else t.value o.b.toNat wide) ∧
      (o.litB wide w).tag t = if o.hasLit then .raw else t.tag o.b.toNat wide := by
  unfold Enc.litB
  split <;> exact ⟨rfl, rfl⟩

/-- The same for A where a literal may replace it. -/
theorem litA_read (o : Enc) (wide : Bool) (w : Want) (t : Thread) :
    (o.litA wide w).value t = (if o.hasLit then o.litVal wide else t.value o.a.toNat wide) ∧
      (o.litA wide w).tag t = if o.hasLit then .raw else t.tag o.a.toNat wide := by
  unfold Enc.litA
  split <;> exact ⟨rfl, rfl⟩

/-- C is other than 0 as a register's value and as a number. -/
theorem regC_ne_zero (o : Enc) (w : Want) (t : Thread) : ((o.regC false w).value t != 0) = (valC o false t != 0) := by
  rw [← regC_value o false w t, Bool.eq_iff_iff, bne_iff_ne, bne_iff_ne, ne_eq, ne_eq, ← BitVec.toNat_inj]
  rfl

theorem sel_runs (o : Enc) :
    let f := o.fmt .raw
    let a := o.regA f.wide (moveWant f false)
    let b := o.litB f.wide (moveWant f false)
    let tagOr (own : Tag) : Tag := if f = .raw then own else f
    RunsOnRegisters (.sel o) o true (fun _ => if o.modBit 0 then [a, b] else [a, b, o.regC false .noHandle]) (dstD o f)
      (if o.modBit 0 then [o.pe] else []) always (fun _ t u =>
        if (if o.modBit 0 then t.pred o.pe else valC o false t != 0) then
          u = t.write o.d.toNat f.wide (t.value o.a.toNat f.wide) (tagOr (t.tag o.a.toNat f.wide))
        else u = t.write o.d.toNat f.wide (if o.hasLit then o.litVal f.wide else t.value o.b.toNat f.wide)
          (tagOr (if o.hasLit then .raw else t.tag o.b.toNat f.wide))) := by
  intro f a b tagOr
  refine regInstr_writes (.sel o) o (selForm o) _ _ _ _ _ (fun _ => rfl) (fun _ _ => rfl) fun _ t _ => ?_
  obtain ⟨hvalue, htag⟩ := litB_read o (o.fmt .raw).wide (moveWant (o.fmt .raw) false) t
  rw [regC_ne_zero]
  cases hfirst : if o.modBit 0 then t.pred o.pe else valC o false t != 0
  · simp only [Bool.false_eq_true, if_false, hvalue, htag]
    rfl
  · rfl

/-- The index of LEA: B without sign, or with the sign of its 32 bits. -/
theorem ofInt_index (v : DWord) (hv : v.toNat < 2 ^ 32) (unsigned : Bool) :
    (if unsigned then (v.setWidth 32).setWidth 64 else (v.setWidth 32).signExtend 64) =
      BitVec.ofInt 64 (if unsigned then (v.toNat : Int) else signed 32 v.toNat) := by
  cases unsigned
  · simp only [Bool.false_eq_true, if_false, BitVec.signExtend, signed_eq_toInt, BitVec.ofNat_toNat]
  · rw [if_pos rfl, if_pos rfl, BitVec.ofInt_natCast, ← BitVec.toNat_inj, BitVec.toNat_setWidth, BitVec.toNat_setWidth, BitVec.toNat_ofNat,
      Nat.mod_eq_of_lt hv]

theorem shiftLeft_eq_ofInt {w : Nat} (x : BitVec w) (k : Nat) : x <<< k = x * BitVec.ofInt w (2 ^ k) := by
  rw [BitVec.shiftLeft_eq_mul_twoPow, ← two_pow_cast, BitVec.ofInt_natCast]
  congr 1
  exact BitVec.eq_of_toNat_eq (by rw [BitVec.toNat_twoPow, BitVec.toNat_ofNat])

theorem lea_runs (o : Enc) :
    RunsOnRegisters (.lea o) o true (fun _ => [o.regA true (.only .addr), o.litB false countTags]) (some (o.d.toNat, true)) [] always
      (fun _ t u => u = t.write o.d.toNat true (BitVec.ofInt 64 ((valA o true t : Int) +
        (if o.modBit 3 then (valB o false t : Int) else signed 32 (valB o false t)) * 2 ^ o.modBits 2 0 + o.w2.toInt)) .addr) := by
  refine regInstr_writes (.lea o) o (leaForm o) _ _ _ _ _ (fun _ => rfl) (fun _ _ => rfl) fun _ t _ => ?_
  have hb : ((o.litB false countTags).value t).toNat < 2 ^ 32 := litB_value o false countTags t ▸ valB_lt o false t
  have hidx := ofInt_index _ hb (o.modBit 3)
  rw [litB_value] at hidx
  rw [hidx, shiftLeft_eq_ofInt, BitVec.ofInt_add, BitVec.ofInt_add, BitVec.ofInt_mul, BitVec.ofInt_natCast, ← regA_value o true (.only .addr),
    BitVec.ofNat_toNat, BitVec.setWidth_eq]
  rfl

/-- The condition of ICMP by its code (R131, R138). -/
def icmpHolds (code : Nat) (x y : Int) : Bool :=
  match code with
  | 0 => x == y
  | 1 => x != y
  | 2 => decide (x < y)
  | 3 => decide (x ≤ y)
  | 4 => decide (y < x)
  | _ => decide (y ≤ x)

theorem icmpCond_eq (code : Nat) (x y : Int) : icmpCond code x y = icmpHolds code x y := by
  match code with
  | 0 | 1 | 2 => rfl
  | 3 =>
    rw [icmpCond, condOf, ← Bool.decide_or]
    exact decide_eq_decide.mpr le_iff_lt_or_eq.symm
  | 4 =>
    rw [icmpCond, condOf, ← Bool.decide_or, ← decide_not]
    exact decide_eq_decide.mpr (by omega)
  | _ + 5 =>
    change (!decide (x < y)) = decide (y ≤ x)
    rw [← decide_not]
    exact decide_eq_decide.mpr Int.not_lt

theorem Thread.compared_marks (t : Thread) (o : Enc) (c0 c1 : Bool) :
    (t.compared o c0 c1).haltMark = t.haltMark ∧ (t.compared o c0 c1).stepMark = t.stepMark := by
  unfold Thread.compared
  split <;> simp

/-- ICMP writes its condition and the complement, each combined with PB (R138). -/
theorem icmp_runs (o : Enc) :
    let f := o.fmt .i32
    let holds (t : Thread) : Bool := icmpHolds (Enc.cond o) (asInt f (valA o f.wide t)) (asInt f (valB o f.wide t))
    RunsOnRegisters (.icmp o) o true (opsAB o f) none (Enc.cmpPreds o) always (fun _ t u => u = t.compared o (holds t) !holds t) :=
  regInstr_runs (.icmp o) o (icmpForm o) _ _ (fun _ => rfl) fun _ t _ _ =>
    ⟨_, rfl, by simp only [regA_value, litB_value, icmpCond_eq], Thread.compared_marks ..⟩

/-- The spec of an instruction that writes one predicate from two. -/
theorem predForm_runs (i : Instr) (o : Enc) (two : Bool) (g : Bool → Bool → Bool)
    (he : ∀ s, exec i s = .next (s.regInstr o (predForm o two g))) :
    RunsOnRegisters i o true (fun _ => []) none (o.predD :: o.predA :: (if two then [o.predB] else [])) always (fun _ t u =>
      u = t.setPred o.predD (g (t.pred o.predA != o.modBit 0) (t.pred o.predB != o.modBit 1))) :=
  regInstr_runs i o (predForm o two g) _ _ he fun _ _ _ _ => ⟨_, rfl, rfl, by simp, by simp⟩

/-! Predicates as they are written (05 R92). -/

theorem Thread.setPred_eq (t : Thread) (p : Nat) (v : Bool) : t.setPred p v = { t with preds := (t.setPred p v).preds } := by
  unfold Thread.setPred
  split <;> rfl

theorem Thread.pred_setPred (t : Thread) {p : Nat} (hp : p < 128) (v : Bool) (q : Nat) :
    (t.setPred p v).pred q = if q = p then p == 0 || v else t.pred q := by
  unfold Thread.setPred
  by_cases hzero : p = 0
  · subst hzero
    by_cases hq : q = 0 <;> simp [hq, Thread.pred]
  rw [if_neg (by omega)]
  have hmask : (1#128 <<< p).getLsbD q = decide (q = p) := by
    rw [← BitVec.twoPow, BitVec.getLsbD_twoPow, decide_eq_true hp, Bool.true_and]
    exact decide_eq_decide.mpr eq_comm
  by_cases hq : q = p
  · subst hq
    cases v <;> simp [Thread.pred, hp]
  · have hbelow : (t.preds.getLsbD q && decide (q < 128)) = t.preds.getLsbD q :=
      Bool.and_eq_left_iff_imp.mpr fun h => decide_eq_true (BitVec.lt_of_getLsbD h)
    cases v <;> simp [Thread.pred, hmask, hq, hbelow]

/-- A run of predicates from p on. -/
def Thread.setPreds (t : Thread) (p : Nat) (g : Nat → Bool) (n : Nat) : Thread :=
  (List.range n).foldl (fun u j => u.setPred (p + j) (g j)) t

theorem Thread.setPreds_succ (t : Thread) (p : Nat) (g : Nat → Bool) (n : Nat) :
    t.setPreds p g (n + 1) = (t.setPreds p g n).setPred (p + n) (g n) := by
  rw [setPreds, List.range_succ, List.foldl_append]
  rfl

theorem Thread.setPreds_eq (t : Thread) (p : Nat) (g : Nat → Bool) (n : Nat) :
    t.setPreds p g n = { t with preds := (t.setPreds p g n).preds } := by
  induction n with
  | zero => rfl
  | succ n ih =>
    rw [setPreds_succ, setPred_eq, ih]

theorem Thread.pred_setPreds (t : Thread) {p n : Nat} (hp : p + n ≤ 128) (g : Nat → Bool) (q : Nat) :
    (t.setPreds p g n).pred q = if p ≤ q ∧ q < p + n then q == 0 || g (q - p) else t.pred q := by
  induction n with
  | zero => rw [if_neg (by omega)]; rfl
  | succ n ih =>
    rw [setPreds_succ, pred_setPred _ (by omega), ih (by omega)]
    by_cases hlast : q = p + n
    · rw [if_pos hlast, if_pos (by omega), hlast, Nat.add_sub_cancel_left]
    · rw [if_neg hlast]
      exact if_congr (by omega) rfl rfl

theorem punpkForm_body (o : Enc) (l : Nat) (t : Thread) :
    (punpkForm o).body l t = .inl (t.setPreds o.predD (valLitA o false t).testBit 32) := by
  rw [← litA_value o false (.oneOf [.pred32, .n32])]
  rfl

theorem punpk_runs (o : Enc) (hd : o.predD ≤ 96) :
    RunsOnRegisters (.punpk o) o true (fun _ => [o.litA false (.oneOf [.pred32, .n32])]) none
      ((List.range 32).map (· + o.predD)) always (fun _ t u =>
        u = { t with preds := u.preds } ∧ (∀ j < 32, u.pred (o.predD + j) = (o.predD + j == 0 || (valLitA o false t).testBit j)) ∧
        ∀ p < 128, (p < o.predD ∨ o.predD + 32 ≤ p) → u.pred p = t.pred p) := by
  refine regInstr_runs (.punpk o) o (punpkForm o) _ _ (fun _ => rfl) fun l t _ _ => ?_
  have heq := t.setPreds_eq o.predD (valLitA o false t).testBit 32
  refine ⟨_, punpkForm_body o l t, ⟨heq, fun j hj => ?_, fun p _ hp => ?_⟩, by rw [heq], by rw [heq]⟩
  · rw [Thread.pred_setPreds _ (by omega), if_pos (by omega), Nat.add_sub_cancel_left]
  · rw [Thread.pred_setPreds _ (by omega), if_neg (by omega)]

theorem ppack_runs (o : Enc) :
    RunsOnRegisters (.ppack o) o true (fun _ => []) (some (o.d.toNat, false)) ((List.range 32).map (· + o.predA)) always (fun _ t u =>
      ∃ v < 2 ^ 32, u = t.write o.d.toNat false (BitVec.ofNat 64 v) .pred32 ∧ ∀ j < 32, v.testBit j = t.pred (o.predA + j)) := by
  refine regInstr_writes (.ppack o) o (ppackForm o) _ _ _ _ _ (fun _ => rfl) (fun _ _ => rfl) fun _ t _ => ⟨_, ?_, rfl, fun j hj => ?_⟩
  · refine Nat.lt_pow_two_of_testBit _ fun j hj => ?_
    rw [testBit_maskOf]
    exact decide_eq_false fun h => absurd (List.mem_range.mp (List.mem_filter.mp h).1) (by omega)
  · rw [testBit_maskOf]
    simp [hj]

end Sys2Proof.Machine

section
open Sys2Proof Sys2Proof.Machine

/-- Settles O4: each instruction follows from its form's spec; the sum of LEA is taken modulo 2^64 term by term, and PUNPK writes a run of
predicates (`Thread.pred_setPreds`). -/
theorem movesComparesPredicates : Obligations.MovesComparesPredicates := by
  refine ⟨fun o => ⟨sel_runs o, ?mov, ?movl, lea_runs o⟩,
    fun o _ => ⟨?icmp, ?pand, ?por, ?pxor, ?pnot, ?pmov, ppack_runs o, punpk_runs o⟩⟩
  case mov =>
    refine regInstr_writes (.mov o) o (movForm o) _ _ _ _ _ (fun _ => rfl) (fun _ _ => rfl) fun _ t _ => ?_
    obtain ⟨hvalue, htag⟩ := litA_read o (o.fmt .raw).wide (moveWant (o.fmt .raw) (o.modBit 0)) t
    rw [hvalue, htag]
  case movl => exact regInstr_writes (.movl o) o (movlForm o) _ _ _ _ _ (fun _ => rfl) (fun _ _ => rfl) fun _ _ _ => rfl
  case icmp => exact icmp_runs o
  case pand => exact predForm_runs (.pand o) o true _ fun _ => rfl
  case por => exact predForm_runs (.por o) o true _ fun _ => rfl
  case pxor => exact predForm_runs (.pxor o) o true _ fun _ => rfl
  case pnot => exact predForm_runs (.pnot o) o false (fun a _ => !a) fun _ => rfl
  case pmov => exact predForm_runs (.pmov o) o false (fun a _ => a) fun _ => rfl

end

/-! What a contributor receives (08 R163 to R168), one equation for each instruction. -/

namespace Sys2Proof.Machine

/-- One lane's own exceptions as TINFO of ARITH gives them: none is enabled, or its low bits hold them (08 R168). -/
theorem arithInfo_singleton (rnd : Word) (x : Exc) :
    (x.toNat &&& bits rnd.toNat 12 8 = 0 → arithInfo rnd [x] = none) ∧
    (x.toNat &&& bits rnd.toNat 12 8 ≠ 0 → ∃ n, arithInfo rnd [x] = some n ∧ n % 32 = x.toNat) := by
  have hunion : excUnion [x] = x := by simp [excUnion, Exc.or]
  have hlt := x.toNat_lt
  unfold arithInfo
  simp only [hunion]
  refine ⟨fun h => if_pos h, fun h => ⟨_, if_neg h, ?_⟩⟩
  omega

section
variable {i : Instance} {pair : Bool} {rnd : Word} {a : Arrival}

theorem Instance.result_ballot (h : i.opc = 0x60) (hmode : i.enc.modBits 1 0 = 0) :
    i.result pair rnd a =
      { reg := some (BitVec.ofNat 64 (maskOf (((i.members pair a).filter fun m => m.pa).map (Arrival.vis pair))), .pred32) } := by
  unfold Instance.result
  simp only [h, hmode, ↓reduceIte]

/-- What the other modes of VOTE write (R163). -/
def Instance.vote (i : Instance) (pair : Bool) (a : Arrival) : Bool :=
  let ms := i.members pair a
  match i.enc.modBits 1 0 with
  | 1 => ms.all fun m => m.pa
  | 2 => ms.any fun m => m.pa
  | _ => (ms.all fun m => !m.pa) || ms.all fun m => m.pa

theorem isEmpty_filter {α : Type} (p : α → Bool) (l : List α) : (l.filter p).isEmpty = l.all fun x => !p x := by
  rw [Bool.eq_iff_iff, List.isEmpty_iff, List.filter_eq_nil_iff]
  simp

theorem Instance.result_vote (h : i.opc = 0x60) (hmode : i.enc.modBits 1 0 ≠ 0) :
    i.result pair rnd a = { pred := some (i.enc.pd, i.vote pair a) } := by
  have hany : (!(i.members pair a).all fun m => !m.pa) = (i.members pair a).any fun m => m.pa := by
    rw [List.not_all_eq_any_not]
    simp only [Bool.not_not]
  unfold Instance.result Instance.vote
  simp only [h, hmode, ↓reduceIte, isEmpty_filter, hany] <;> rfl

theorem Instance.result_shfl (h : i.opc = 0x61) :
    i.result pair rnd a =
      match (shflSource (i.enc.modBits 1 0) (a.vis pair) a.b.toNat (nlane pair)).bind fun s =>
        (i.members pair a).find? fun m => m.vis pair == s with
      | some m => { reg := some (m.a, if i.fmt = .raw then m.atag else i.fmt), pred := some (i.enc.pd, true) }
      | none => { reg := some (0, .raw), pred := some (i.enc.pd, false) } := by
  unfold Instance.result
  simp only [h] <;> rfl

theorem Instance.result_elect (h : i.opc = 0x64) :
    i.result pair rnd a =
      { pred := some (i.enc.predD, ((i.members pair a).foldl (fun k m => min k (m.vis pair)) 32) == a.vis pair) } := by
  unfold Instance.result
  simp only [h]
  rfl

theorem Instance.result_match (h : i.opc = 0x65) :
    i.result pair rnd a =
      { reg := some (BitVec.ofNat 64 (maskOf (((i.members pair a).filter fun m => m.a == a.a).map (Arrival.vis pair))), .pred32),
        pred := some (i.enc.pd, (i.members pair a).all fun m => m.a == a.a) } := by
  have hlen : (((i.members pair a).filter fun m => m.a == a.a).length == (i.members pair a).length) =
      (i.members pair a).all fun m => m.a == a.a := by
    rw [Bool.eq_iff_iff, beq_iff_eq, List.length_filter_eq_length_iff, List.all_eq_true]
  unfold Instance.result
  simp only [h, hlen]

/-- The operand of REDL and SCANL that the member at a position brings. -/
def Instance.operandAt (i : Instance) (pair : Bool) (a : Arrival) (n : Nat) : Option Nat :=
  ((i.members pair a).find? fun m => m.vis pair == n).map fun m => m.a.toNat % 2 ^ i.fmt.elemBits

/-- One combine of a reduction, in the lane's rounding mode (R165). -/
def Instance.combine (i : Instance) (rnd : Word) : Nat → Nat → Nat × Exc :=
  laneCombine (i.enc.modBits 2 0) i.fmt (rmOf (if i.enc.isExt then i.enc.rm.toNat else 7) rnd)

/-- A fold of combines from the left, with the exceptions of each (R166, R168). -/
def scanFold (g : Nat → Nat → Nat × Exc) (identity : Nat) : List Nat → Nat × Exc
  | [] => (identity, {})
  | v :: vs => vs.foldl (fun (y : Nat × Exc) w => ((g y.1 w).1, y.2.or (g y.1 w).2)) (v, {})

/-- The value of a REDL or SCANL, with the exceptions of its combines. -/
def Instance.reduction (i : Instance) (pair : Bool) (rnd : Word) (a : Arrival) : Nat × Exc :=
  if i.opc = 0x62 then
    let z := treeReduce (i.combine rnd) 5 ((List.range 32).map (i.operandAt pair a))
    (z.1.getD 0, z.2)
  else scanFold (i.combine rnd) (laneIdentity (i.enc.modBits 2 0) i.fmt)
    ((List.range 32).filterMap fun n => if n < a.vis pair ∨ (n = a.vis pair ∧ i.enc.modBit 3 = false) then i.operandAt pair a n else none)

/-- A value with the exceptions of its combines, as a result: written, or trapped where one of them is enabled (R168). -/
def reduced (rnd : Word) (f : Tag) (r : Nat × Exc) : Result :=
  match arithInfo rnd [r.2] with
  | some n => { trap := some { cause := cArith, info := n % 32 } }
  | none => { reg := some (BitVec.ofNat 64 r.1, f) }

theorem reduced_eq (rnd : Word) (f : Tag) (r : Nat × Exc) :
    (r.2.toNat &&& bits rnd.toNat 12 8 = 0 → reduced rnd f r = { reg := some (BitVec.ofNat 64 r.1, f) }) ∧
    (r.2.toNat &&& bits rnd.toNat 12 8 ≠ 0 → reduced rnd f r = { trap := some { cause := 0x0E, info := r.2.toNat } }) := by
  obtain ⟨hquiet, hloud⟩ := arithInfo_singleton rnd r.2
  unfold reduced
  refine ⟨fun h => by rw [hquiet h], fun h => ?_⟩
  obtain ⟨n, hn, hmod⟩ := hloud h
  rw [hn, ← hmod]
  rfl

theorem Instance.result_reduction (h : i.opc = 0x62 ∨ i.opc = 0x63) :
    i.result pair rnd a = reduced rnd i.fmt (i.reduction pair rnd a) := by
  have hquiet : arithInfo rnd [{}] = none := (arithInfo_singleton rnd {}).1 (by simp [Exc.toNat])
  unfold Instance.result Instance.reduction reduced
  rcases h with h | h
  · simp only [h, ↓reduceIte]
    rfl
  · simp only [h, Nat.reduceEqDiff, ↓reduceIte, Bool.not_eq_eq_eq_not, Bool.not_true]
    unfold Instance.operandAt
    cases (List.range 32).filterMap fun n => if n < a.vis pair ∨ (n = a.vis pair ∧ i.enc.modBit 3 = false) then
        ((i.members pair a).find? fun m => m.vis pair == n).map fun m => m.a.toNat % 2 ^ i.fmt.elemBits else none with
    | nil => simp only [scanFold, hquiet]
    | cons v vs => rfl
end

end Sys2Proof.Machine

/-! Instances that complete (08 R157, R158, R161): each contributor and its shadow receive their result and go on. -/

namespace Sys2Proof.Machine

/-- Where a thread stands, replaced. -/
def Thread.standing (t : Thread) (pc : DWord) (st : LaneState) (age : Nat) (miss : Option Miss) (mark : Option Nat) : Thread :=
  { t with pc, st, age, miss, mark }

theorem Thread.setReg_standing (t : Thread) (pc st age miss mark) (r : Nat) (x : Reg) :
    (t.standing pc st age miss mark).setReg r x = (t.setReg r x).standing pc st age miss mark := by
  unfold Thread.setReg
  split <;> rfl

theorem Thread.setPred_standing (t : Thread) (pc st age miss mark) (p : Nat) (v : Bool) :
    (t.standing pc st age miss mark).setPred p v = (t.setPred p v).standing pc st age miss mark := by
  unfold Thread.setPred
  split <;> rfl

theorem Thread.write_standing (t : Thread) (pc st age miss mark) (r : Nat) (wide : Bool) (v : DWord) (g : Tag) :
    (t.standing pc st age miss mark).write r wide v g = (t.write r wide v g).standing pc st age miss mark := by
  cases wide <;> simp [Thread.write, Thread.setReg_standing]

/-- What a thread receives does not depend on where it stands, and leaves it there. -/
theorem Thread.receive_standing (t : Thread) (pc st age miss mark) (d : Nat) (wide : Bool) (r : Result) :
    (t.standing pc st age miss mark).receive d wide r = (t.receive d wide r).standing pc st age miss mark := by
  unfold Thread.receive
  cases r.reg <;> cases r.pred <;> simp only [Thread.write_standing, Thread.setPred_standing] <;> rfl

theorem Thread.receive_marks (t : Thread) (d : Nat) (wide : Bool) (r : Result) :
    (t.receive d wide r).haltMark = t.haltMark ∧ (t.receive d wide r).stepMark = t.stepMark := by
  unfold Thread.receive
  cases r.reg <;> cases r.pred <;> simp

theorem Thread.wakeRegs_of_ne {t : Thread} (h : ∀ ns, t.st ≠ .waitReg ns) : t.wakeRegs = t := by
  unfold Thread.wakeRegs
  split
  case h_1 ns hst => exact absurd hst (h ns)
  case h_2 => rfl

/-- What a contributor has received, where it stands; a JOIN gives nothing (16 R331). -/
def Thread.given (t : Thread) (i : Instance) (pair : Bool) (a : Arrival) : Thread :=
  if i.opc = 0x74 then t else t.receive i.enc.d.toNat i.wide (i.result pair t.rnd a)

/-- The contributor once its rendezvous has completed. -/
def Thread.passes (t : Thread) (i : Instance) (pair : Bool) (a : Arrival) : Thread :=
  (t.given i pair a).goto (i.pc + BitVec.ofNat 64 i.enc.bytes)

theorem Thread.given_standing (t : Thread) (i : Instance) (pair : Bool) (a : Arrival) (pc st age miss mark) :
    (t.standing pc st age miss mark).given i pair a = (t.given i pair a).standing pc st age miss mark := by
  unfold Thread.given
  rw [apply_ite (Thread.standing · pc st age miss mark), ← Thread.receive_standing]
  rfl

theorem Thread.given_st (t : Thread) (i : Instance) (pair : Bool) (a : Arrival) : (t.given i pair a).st = t.st := by
  rw [← show (t.standing t.pc t.st t.age t.miss t.mark) = t from rfl, Thread.given_standing]
  rfl

theorem Thread.given_miss (t : Thread) (i : Instance) (pair : Bool) (a : Arrival) : (t.given i pair a).miss = t.miss := by
  rw [← show (t.standing t.pc t.st t.age t.miss t.mark) = t from rfl, Thread.given_standing]
  rfl

theorem Thread.given_goto (t : Thread) (i : Instance) (pair : Bool) (a : Arrival) (pc : DWord) :
    (t.goto pc).given i pair a = (t.given i pair a).goto pc := by
  rw [show t.goto pc = t.standing pc .runnable 0 t.miss none from rfl, Thread.given_standing, ← t.given_miss i pair a]
  rfl

theorem Thread.given_marks (t : Thread) (i : Instance) (pair : Bool) (a : Arrival) :
    (t.given i pair a).haltMark = t.haltMark ∧ (t.given i pair a).stepMark = t.stepMark := by
  unfold Thread.given
  split
  · exact ⟨rfl, rfl⟩
  · exact t.receive_marks ..

theorem Crew.modThread_of_eq {c : Crew} {l : Nat} {f : Thread → Thread} (h : f (c.thread l) = c.thread l) : c.modThread l f = c := by
  refine (c.modThread_alike l f).ext (.refl c) fun k _ => ?_
  rw [Crew.thread_modThread]
  split
  case isTrue hk => rw [hk.1, h]
  case isFalse => rfl

/-- A lane goes on at an address, and in paired-lane mode its shadow. -/
def Crew.goBoth (c : Crew) (pair : Bool) (l : Nat) (pc : DWord) : Crew :=
  let d := c.modThread l fun t => t.goto pc
  if pair then d.modThread (l + 1) fun t => t.goto pc else d

theorem Crew.goBoth_alike (c : Crew) (pair : Bool) (l : Nat) (pc : DWord) : c.Alike (c.goBoth pair l pc) := by
  have h := c.modThread_alike l fun t => t.goto pc
  unfold Crew.goBoth
  split
  · exact h.trans (Crew.modThread_alike ..)
  · exact h

/-- The crew once a contributor, and its shadow in the shadows' rendezvous, have their results and have gone on. -/
def Crew.finish (c : Crew) (pair : Bool) (i : Instance) (a : Arrival) (partner : Option (Instance × Arrival)) : Crew :=
  let d := (c.modThread a.lane fun t => t.given i pair a).goBoth pair a.lane (i.pc + BitVec.ofNat 64 i.enc.bytes)
  match partner with
  | none => d
  | some (j, z) =>
    let e := d.modThread z.lane fun t => t.given j pair z
    e.modThread (a.lane + 1) fun t => { t with pc := (e.thread a.lane).pc, st := (e.thread a.lane).st }

theorem Thread.passes_unmarked {t : Thread} {i : Instance} {pair : Bool} {a : Arrival} (h : t.haltMark = false ∧ t.stepMark = false) :
    (t.passes i pair a).haltMark = false ∧ (t.passes i pair a).stepMark = false := by
  unfold Thread.passes
  rw [Thread.goto_haltMark, Thread.goto_stepMark, (t.given_marks i pair a).1, (t.given_marks i pair a).2]
  exact h

section
variable {s : State} {b sl : Nat} {c : Crew} {i : Instance} {a : Arrival}

/-- A contributor none of whose combines traps receives its result, and advances where it is to. -/
theorem State.finishLane_eq {pair : Bool} (h : s.crew b sl = some c) (hst : ∀ ns, (c.thread a.lane).st ≠ .waitReg ns)
    (hcalm : i.arith pair (c.thread a.lane).rnd a = none) (advance : Bool) :
    s.finishLane b sl i a pair advance =
      if advance then (s.setCrew b sl (some (c.modThread a.lane fun t => t.given i pair a))).proceed ⟨b, sl, a.lane⟩
        (i.pc + BitVec.ofNat 64 i.enc.bytes)
      else s.setCrew b sl (some (c.modThread a.lane fun t => t.given i pair a)) := by
  have hthread : s.laneThread ⟨b, sl, a.lane⟩ = c.thread a.lane := State.laneThread_of_crew h
  have hgives : (if i.opc = 0x74 then s
      else s.modThread b sl a.lane fun t => (t.receive i.enc.d.toNat i.wide (i.result pair t.rnd a)).wakeRegs) =
      s.setCrew b sl (some (c.modThread a.lane fun t => t.given i pair a)) := by
    by_cases hjoin : i.opc = 0x74
    · rw [if_pos hjoin, Crew.modThread_of_eq (by simp [Thread.given, hjoin]), State.setCrew_crew h]
    · have hwake : ((c.thread a.lane).given i pair a).wakeRegs = (c.thread a.lane).given i pair a :=
        Thread.wakeRegs_of_ne (by rwa [Thread.given_st])
      unfold Thread.given at hwake
      rw [if_neg hjoin] at hwake
      rw [if_neg hjoin, State.modThread_of_crew h, Crew.modThread, Crew.modThread, hwake, Thread.given, if_neg hjoin]
  unfold State.finishLane
  simp only [hthread, hcalm, hgives]

/-- A lane leaves a wait, its shadow with it. -/
theorem State.proceed_eq {x : Lane} (h : s.crew x.core x.slot = some c) (pc : DWord) :
    s.proceed x pc = s.setCrew x.core x.slot (some (c.goBoth (s.hdrOf x.core x.slot).pair x.lane pc)) := by
  have hlane (l : Nat) (u : State) : u.modThread x.core x.slot l (fun t => { t with pc, st := .runnable, age := 0, mark := none }) =
      u.modThread x.core x.slot l fun t => t.goto pc := rfl
  unfold State.proceed Crew.goBoth
  simp only [hlane, State.modThread_of_crew h, State.hdrOf_setCrew h (c.modThread_alike x.lane fun t => t.goto pc),
    State.modThread_of_crew (State.crew_setCrew_self h _), State.setCrew_setCrew]
  split <;> rfl

/-- The arrival of a lane's shadow in the shadows' rendezvous. -/
def Instance.partner (j : Option Instance) (a : Arrival) : Option (Instance × Arrival) :=
  j.bind fun j => (j.arrivals.find? fun z => z.lane == a.lane + 1).map (j, ·)

theorem Instance.partner_some {j : Option Instance} {k : Instance} {z : Arrival} (h : Instance.partner j a = some (k, z)) :
    j = some k ∧ z ∈ k.arrivals ∧ z.lane = a.lane + 1 := by
  obtain ⟨j, hj, hz⟩ := Option.bind_eq_some_iff.mp h
  obtain ⟨y, hy, he⟩ := Option.map_eq_some_iff.mp hz
  cases he
  exact ⟨hj, List.mem_of_find?_eq_some hy, by simpa using List.find?_some hy⟩

/-- A contributor that waits at its rendezvous, and none of whose combines, or its shadow's, traps. -/
structure Instance.Passable (i : Instance) (j : Option Instance) (pair : Bool) (c : Crew) (a : Arrival) : Prop where
  lt : a.lane < 32
  pc : (c.thread a.lane).pc = i.pc
  waits : (c.thread a.lane).Meeting
  calm : i.arith pair (c.thread a.lane).rnd a = none
  alone : pair = false → j = none
  even : pair = true → a.lane % 2 = 0
  shadow : ∀ k z, Instance.partner j a = some (k, z) → k.arith pair (c.thread z.lane).rnd z = none

theorem Instance.Passable.pair_of_some {j : Option Instance} {pair : Bool} {k : Instance} (h : i.Passable j pair c a) (hj : j = some k) :
    pair = true := by
  cases pair
  · rw [h.alone rfl] at hj
    cases hj
  · rfl

theorem Instance.Passable.ne_waitReg {j : Option Instance} {pair : Bool} (h : i.Passable j pair c a) (ns : List Nat) :
    (c.thread a.lane).st ≠ .waitReg ns := by
  rcases h.waits with hst | hst <;> simp [hst]

theorem Crew.thread_goBoth (pair : Bool) {l : Nat} (hl : l < 32) (heven : pair = true → l % 2 = 0) (pc : DWord) (k : Nat) :
    (c.goBoth pair l pc).thread k = if k = l ∨ pair = true ∧ k = l + 1 then (c.thread k).goto pc else c.thread k := by
  unfold Crew.goBoth
  cases pair
  · by_cases hk : k = l <;> simp [hk, hl]
  · have hodd : l + 1 < 32 := by have := heven rfl; omega
    by_cases hk : k = l
    · simp [hk, hl]
    · by_cases hk' : k = l + 1 <;> simp [hk, hk', hl, hodd]

theorem State.finishBoth_eq {j : Option Instance} (h : s.crew b sl = some c) (hp : i.Passable j (s.hdrOf b sl).pair c a) :
    s.finishBoth b sl i j (s.hdrOf b sl).pair true a =
      s.setCrew b sl (some (c.finish (s.hdrOf b sl).pair i a (Instance.partner j a))) := by
  generalize hpair : (s.hdrOf b sl).pair = pair at hp ⊢
  have hthread : s.thread b sl a.lane = c.thread a.lane := by rw [State.thread_eq, h]; rfl
  have htakes : s.takesPart b sl i a true = true := by
    unfold State.takesPart
    rcases hp.waits with hst | hst <;> simp [hthread, hp.pc, hst]
  have hgiven := c.modThread_alike a.lane fun t => t.given i pair a
  have hlane : s.finishLane b sl i a pair true = s.setCrew b sl (some ((c.modThread a.lane fun t => t.given i pair a).goBoth pair a.lane
      (i.pc + BitVec.ofNat 64 i.enc.bytes))) := by
    rw [State.finishLane_eq h hp.ne_waitReg hp.calm, if_pos rfl, State.proceed_eq (State.crew_setCrew_self h _), State.setCrew_setCrew,
      State.hdrOf_setCrew h hgiven, hpair]
  unfold State.finishBoth Crew.finish
  rw [htakes, hthread, hp.calm, hlane]
  show (match Instance.partner j a with
    | none => _
    | some (j, z) => _) = _
  cases hpartner : Instance.partner j a with
  | none => rfl
  | some q =>
    obtain ⟨k, z⟩ := q
    obtain ⟨hj, -, hz⟩ := Instance.partner_some hpartner
    have htrue := hp.pair_of_some hj
    generalize hd : (c.modThread a.lane fun t => t.given i pair a).goBoth pair a.lane (i.pc + BitVec.ofNat 64 i.enc.bytes) = d
    have hshadow : d.thread z.lane = (c.thread z.lane).goto (i.pc + BitVec.ofNat 64 i.enc.bytes) := by
      rw [← hd, Crew.thread_goBoth pair hp.lt hp.even, if_pos (.inr ⟨htrue, hz⟩), Crew.thread_modThread, if_neg (by omega)]
    have hsecond : (s.setCrew b sl (some d)).finishLane b sl k z pair false = s.setCrew b sl (some (d.modThread z.lane fun t => t.given k pair z)) := by
      rw [State.finishLane_eq (State.crew_setCrew_self h _) (by simp [hshadow]) (by rw [hshadow]; exact hp.shadow k z hpartner),
        State.setCrew_setCrew]
      rfl
    simp only [hsecond, Option.isSome_none, Bool.false_eq_true, ↓reduceIte, State.modCrew_of_crew (State.crew_setCrew_self h _),
      State.setCrew_setCrew]

theorem Crew.finish_alike (pair : Bool) (q : Option (Instance × Arrival)) : c.Alike (c.finish pair i a q) := by
  have h := (c.modThread_alike a.lane fun t => t.given i pair a).trans (Crew.goBoth_alike _ pair a.lane (i.pc + BitVec.ofNat 64 i.enc.bytes))
  unfold Crew.finish
  cases q with
  | none => exact h
  | some q => exact (h.trans (Crew.modThread_alike ..)).trans (Crew.modThread_alike ..)

/-- The threads of a contributor and of its shadow as its rendezvous leaves them; no other thread changes (R161). -/
theorem Crew.thread_finish {j : Option Instance} {pair : Bool} (hp : i.Passable j pair c a)
    (hj : ∀ k ∈ j, k.pc = i.pc ∧ k.enc = i.enc) :
    (c.finish pair i a (Instance.partner j a)).thread a.lane = (c.thread a.lane).passes i pair a ∧
    (∀ k z, Instance.partner j a = some (k, z) →
      (c.finish pair i a (Instance.partner j a)).thread z.lane = (c.thread z.lane).passes k pair z) ∧
    ∀ k, k ≠ a.lane → ¬ (pair = true ∧ k = a.lane + 1) → (c.finish pair i a (Instance.partner j a)).thread k = c.thread k := by
  generalize hd : (c.modThread a.lane fun t => t.given i pair a).goBoth pair a.lane (i.pc + BitVec.ofNat 64 i.enc.bytes) = d
  have hthreads (k : Nat) : d.thread k = if k = a.lane ∨ pair = true ∧ k = a.lane + 1 then
      ((c.modThread a.lane fun t => t.given i pair a).thread k).goto (i.pc + BitVec.ofNat 64 i.enc.bytes)
      else (c.modThread a.lane fun t => t.given i pair a).thread k := by
    rw [← hd, Crew.thread_goBoth pair hp.lt hp.even]
  have hlane : d.thread a.lane = (c.thread a.lane).passes i pair a := by
    rw [hthreads, if_pos (.inl rfl), Crew.thread_modThread, if_pos ⟨rfl, hp.lt⟩]
    rfl
  have hother (k : Nat) (hk : k ≠ a.lane) (hk' : ¬ (pair = true ∧ k = a.lane + 1)) : d.thread k = c.thread k := by
    rw [hthreads, if_neg (not_or.mpr ⟨hk, hk'⟩), Crew.thread_modThread, if_neg fun h => hk h.1]
  unfold Crew.finish
  rw [hd]
  cases hpartner : Instance.partner j a with
  | none => exact ⟨hlane, by simp, hother⟩
  | some q =>
    obtain ⟨k, z⟩ := q
    obtain ⟨hk, -, hz⟩ := Instance.partner_some hpartner
    obtain ⟨hpc, henc⟩ := hj k hk
    have htrue := hp.pair_of_some hk
    have hodd : a.lane + 1 < 32 := by have := hp.even htrue; have := hp.lt; omega
    dsimp only
    refine ⟨?_, fun k' z' he => ?_, fun l hl hl' => ?_⟩
    · rw [Crew.thread_modThread, if_neg (by omega), Crew.thread_modThread, if_neg (by omega), hlane]
    · cases he
      have hshadow : d.thread (a.lane + 1) = (c.thread (a.lane + 1)).goto (i.pc + BitVec.ofNat 64 i.enc.bytes) := by
        rw [hthreads, if_pos (.inr ⟨htrue, rfl⟩), Crew.thread_modThread, if_neg (by omega)]
      simp only [hz, Crew.thread_modThread, hodd, hlane, hshadow, Thread.given_goto, and_self, and_true, ↓reduceIte, Nat.left_eq_add,
        one_ne_zero, Thread.passes, hpc, henc]
      rfl
    · have hlz : l ≠ a.lane + 1 := fun h => hl' ⟨htrue, h⟩
      rw [Crew.thread_modThread, if_neg fun h => hlz h.1, Crew.thread_modThread, if_neg fun h => hlz (h.1.trans hz), hother l hl hl']

/-- What a contributor needs lies in its own thread and its shadow's. -/
theorem Instance.Passable.of_threads {j : Option Instance} {pair : Bool} {d : Crew} (hp : i.Passable j pair c a)
    (hlane : d.thread a.lane = c.thread a.lane) (hshadow : pair = true → (d.thread (a.lane + 1)).rnd = (c.thread (a.lane + 1)).rnd) :
    i.Passable j pair d a where
  lt := hp.lt
  pc := hlane ▸ hp.pc
  waits := hlane ▸ hp.waits
  calm := hlane ▸ hp.calm
  alone := hp.alone
  even := hp.even
  shadow k z hq := by
    obtain ⟨hk, -, hz⟩ := Instance.partner_some hq
    rw [hz, hshadow (hp.pair_of_some hk), ← hz]
    exact hp.shadow k z hq

/-- The lane is neither a contributor's nor in paired-lane mode its shadow. -/
def Apart (pair : Bool) (as : List Arrival) (l : Nat) : Prop := ∀ a ∈ as, l ≠ a.lane ∧ ¬ (pair = true ∧ l = a.lane + 1)

theorem Instance.Passable.apart {j : Option Instance} {pair : Bool} {a' : Arrival} (hp : i.Passable j pair c a)
    (hp' : i.Passable j pair c a') (hne : a.lane ≠ a'.lane) : Apart pair [a'] a.lane ∧ (pair = true → Apart pair [a'] (a.lane + 1)) := by
  simp only [Apart, List.mem_singleton, forall_eq]
  refine ⟨⟨hne, fun ⟨ht, hl⟩ => ?_⟩, fun ht => ⟨fun hl => ?_, fun ⟨_, hl⟩ => ?_⟩⟩
  all_goals
    have := hp.even ht
    have := hp'.even ht
    omega

/-- Contributors of a rendezvous pass on one after another. -/
theorem State.foldl_finishBoth {j : Option Instance} {pair : Bool} (hj : ∀ k ∈ j, k.pc = i.pc ∧ k.enc = i.enc) {as : List Arrival}
    (h : s.crew b sl = some c) (hpair : (s.hdrOf b sl).pair = pair) (hnodup : (as.map Arrival.lane).Nodup)
    (hp : ∀ a ∈ as, i.Passable j pair c a) :
    ∃ d : Crew, as.foldl (fun (s : State) a => s.finishBoth b sl i j pair true a) s = s.setCrew b sl (some d) ∧ c.Alike d ∧
      (∀ a ∈ as, d.thread a.lane = (c.thread a.lane).passes i pair a ∧
        ∀ k z, Instance.partner j a = some (k, z) → d.thread z.lane = (c.thread z.lane).passes k pair z) ∧
      ∀ l, Apart pair as l → d.thread l = c.thread l := by
  induction as generalizing s c with
  | nil => exact ⟨c, (State.setCrew_crew h).symm, .refl c, by simp, fun _ _ => rfl⟩
  | cons a as ih =>
    obtain ⟨hnot, hnodup⟩ := List.nodup_cons.mp hnodup
    have hfirst := hp a (by simp)
    have hstep := State.finishBoth_eq h (hpair ▸ hfirst)
    rw [hpair] at hstep
    generalize he : c.finish pair i a (Instance.partner j a) = e at hstep
    have hce : c.Alike e := he ▸ c.finish_alike pair _
    obtain ⟨hlane, hshadow, hother⟩ := Crew.thread_finish hfirst hj
    rw [he] at hlane hshadow hother
    have hne (a' : Arrival) (ha' : a' ∈ as) : a'.lane ≠ a.lane := fun heq => hnot (heq ▸ List.mem_map_of_mem ha')
    have hpas (a' : Arrival) (ha' : a' ∈ as) := hp a' (List.mem_cons_of_mem a ha')
    have hapart (a' : Arrival) (ha' : a' ∈ as) := (hpas a' ha').apart hfirst (hne a' ha')
    have hrestApart (a' : Arrival) (ha' : a' ∈ as) := hfirst.apart (hpas a' ha') (hne a' ha').symm
    have hsame (l : Nat) (hl : Apart pair [a] l) : e.thread l = c.thread l := by
      obtain ⟨hl, hl'⟩ := hl a (by simp)
      exact hother l hl hl'
    obtain ⟨d, hd, hed, hthreads, hrest⟩ := ih (State.crew_setCrew_self h (some e)) (by rw [State.hdrOf_setCrew h hce, hpair]) hnodup
      fun a' ha' => (hpas a' ha').of_threads (hsame _ (hapart a' ha').1) fun ht => by rw [hsame _ ((hapart a' ha').2 ht)]
    refine ⟨d, ?_, hce.trans hed, fun a' ha' => ?_, fun l hl => ?_⟩
    · rw [List.foldl_cons, hstep, hd, State.setCrew_setCrew]
    · rcases List.mem_cons.mp ha' with rfl | ha'
      · refine ⟨(hrest _ fun x hx => (hrestApart x hx).1 x (by simp)).trans hlane, fun k z hq => ?_⟩
        obtain ⟨hk, -, hz⟩ := Instance.partner_some hq
        have htrue : pair = true := hfirst.pair_of_some hk
        exact (hrest _ fun x hx => hz ▸ (hrestApart x hx).2 htrue x (by simp)).trans (hshadow k z hq)
      · obtain ⟨hl, hs⟩ := hthreads a' ha'
        rw [hsame _ (hapart a' ha').1] at hl
        refine ⟨hl, fun k z hq => ?_⟩
        obtain ⟨hk, -, hz⟩ := Instance.partner_some hq
        rw [hs k z hq, hsame _ (hz ▸ (hapart a' ha').2 (hfirst.pair_of_some hk))]
    · rw [hrest l fun a' ha' => hl a' (List.mem_cons_of_mem a ha'), hsame l fun a' ha' => hl a' (by simp_all)]

/-- What becomes of a lane that waits at a rendezvous without a part in it: it issues again (R157). -/
def Thread.released (t : Thread) (pc : DWord) : Thread :=
  if t.pc = pc ∧ (t.st = .waitXl ∨ t.st = .waitJoin) then { t with st := .runnable, age := 0 } else t

theorem Thread.released_eq (t : Thread) (pc : DWord) : t.released pc = t.standing t.pc (t.released pc).st (t.released pc).age t.miss t.mark := by
  unfold Thread.released
  split <;> rfl

theorem Thread.passes_standing (t : Thread) (st age) (pair : Bool) : (t.standing t.pc st age t.miss t.mark).passes i pair a = t.passes i pair a := by
  unfold Thread.passes
  rw [Thread.given_standing, ← t.given_miss i pair a]
  rfl

theorem Thread.passes_released (t : Thread) (pc : DWord) (pair : Bool) : (t.released pc).passes i pair a = t.passes i pair a := by
  rw [Thread.released_eq, Thread.passes_standing]

/-- The crew without the rendezvous, those of its lanes released that are not done with it. -/
def Crew.closed (c : Crew) (i : Instance) (done : List Nat) : Crew :=
  { c with xl := c.xl.filter fun j => !(j.pc == i.pc),
           threads := Vector.ofFn fun l =>
             let t := c.threads[l]
             if t.pc = i.pc ∧ (t.st = .waitXl ∨ t.st = .waitJoin) ∧ !done.contains l.val then { t with st := .runnable, age := 0 } else t }

theorem Crew.closed_team (c : Crew) (i : Instance) (done : List Nat) : (c.closed i done).team = c.team := by
  simp only [Crew.closed]

theorem State.closeInstance_eq (h : s.crew b sl = some c) (done : List Nat) :
    s.closeInstance b sl i done = s.setCrew b sl (some (c.closed i done)) :=
  State.modCrew_of_crew h _

theorem Crew.thread_closed (done : List Nat) {l : Nat} (hl : l < 32) :
    (c.closed i done).thread l = if l ∈ done then c.thread l else (c.thread l).released i.pc := by
  unfold Thread.released
  by_cases hd : l ∈ done <;> simp [Crew.closed, Crew.thread, hl, hd]

/-- A lane's mask names none but lanes that have arrived or exited, and so do the others': nothing is awaited (R157, R158). -/
theorem Instance.awaited_eq_nil {pair : Bool} (h : ∀ a ∈ i.arrivals, a.contrib = true → ∀ v < nlane pair, a.mask.getLsbD v = true →
    (∃ z ∈ i.arrivals, z.vis pair = v) ∨ (c.thread (physical pair v)).st = .exited) : i.awaited c pair = [] := by
  unfold Instance.awaited bitList
  refine List.filter_eq_nil_iff.mpr fun v hv hawaited => ?_
  obtain ⟨hlt, hnamed⟩ := List.mem_filter.mp hv
  rw [testBit_foldl_mask, Nat.zero_testBit, Bool.false_or] at hnamed
  obtain ⟨a, ha, hbit⟩ := List.any_eq_true.mp hnamed
  obtain ⟨ha, hcontrib⟩ := List.mem_filter.mp ha
  rcases h a ha hcontrib v (List.mem_range.mp hlt) hbit with ⟨z, hz, hvis⟩ | hexit
  · have : (i.arrivals.any fun z => z.vis pair == v) = true := List.any_eq_true.mpr ⟨z, hz, by simp [hvis]⟩
    simp [this] at hawaited
  · simp [hexit] at hawaited

/-- A rendezvous, with the shadows' rendezvous in paired-lane mode, that is all a crew has open, that no SHFL has passed and that awaits
nobody; its contributors wait at it unmarked, and no combine of theirs traps. -/
structure Crew.Assembled (c : Crew) (pair : Bool) (i : Instance) (j : Option Instance) : Prop where
  xl : c.xl = i :: j.toList
  visible : i.shadow = false
  shadow : ∀ k ∈ j, k.shadow = true ∧ k.pc = i.pc ∧ k.opc = i.opc ∧ k.enc = i.enc
  passed : i.passed = []
  owed : i.owed = []
  nodup : (i.arrivals.map Arrival.lane).Nodup
  awaited : i.awaited c pair = []
  passable : ∀ a ∈ i.arrivals, a.contrib = true → i.Passable j pair c a
  unmarked : ∀ a ∈ i.arrivals, a.contrib = true → (c.thread a.lane).haltMark = false ∧ (c.thread a.lane).stepMark = false

/-- The format whose sums come from the vector datapath: a reduction's own (R169). -/
def Instance.sums (i : Instance) : Tag := if i.opc = 0x62 ∨ i.opc = 0x63 then i.fmt else .raw

theorem State.crew_vectorDone (lanes : List Nat) (dst : VecDst) : (s.vectorDone b sl lanes dst).crew b sl = s.crew b sl := by
  have hcount (u : State) (p k : Nat) : (u.count p k).crew b sl = u.crew b sl := by
    simp only [State.crew, State.core, State.count_cores]
  unfold State.vectorDone
  dsimp only
  generalize (if (s.hdrOf b sl).pair = true then lanes.flatMap fun l => [l, l + 1] else lanes) = ls
  split
  · rfl
  · rw [State.crew_modCore fun w => ?_, apply_ite (fun u : State => u.crew b sl), hcount, ite_self]
    rfl

theorem State.crew_vectorGave (f : Tag) (lanes : List Nat) (d : Nat) : (s.vectorGave b sl f lanes d).crew b sl = s.crew b sl := by
  unfold State.vectorGave
  split
  · exact State.crew_vectorDone ..
  · rfl

/-- Lanes that have all gone on, none of them marked: no more follows than for results of the vector datapath. -/
theorem State.passedOn_eq (h : s.crew b sl = some c) {lanes : List Nat} (hon : ∀ l ∈ lanes, (c.thread l).pc = i.pc + BitVec.ofNat 64 i.enc.bytes ∧
      (c.thread l).st = .runnable ∧ (c.thread l).haltMark = false ∧ (c.thread l).stepMark = false) :
    s.passedOn b sl i lanes = s.vectorGave b sl i.sums lanes i.enc.d.toNat := by
  have hthread (l : Nat) : s.thread b sl l = c.thread l := by rw [State.thread_eq, h]; rfl
  have hdone : (lanes.filter fun l => (s.thread b sl l).pc == i.pc + BitVec.ofNat 64 i.enc.bytes && (s.thread b sl l).st == .runnable) = lanes := by
    refine List.filter_eq_self.mpr fun l hl => ?_
    obtain ⟨hpc, hst, -⟩ := hon l hl
    rw [hthread, hpc, hst]
    simp
  have hgave : s.vectorGave b sl i.sums lanes i.enc.d.toNat =
      if (match i.fmt.elemFmt with
        | .float _ => i.opc == 0x62 || i.opc == 0x63
        | _ => false) = true then s.vectorDone b sl lanes (.reg i.enc.d.toNat) else s := by
    unfold State.vectorGave Instance.sums
    by_cases hopc : i.opc = 0x62 ∨ i.opc = 0x63
    · have : (i.opc == 0x62 || i.opc == 0x63) = true := by simpa using hopc
      rw [if_pos hopc, this]
      cases i.fmt.elemFmt <;> rfl
    · have : (i.opc == 0x62 || i.opc == 0x63) = false := by simpa using hopc
      rw [if_neg hopc, this]
      cases i.fmt.elemFmt <;> rfl
  have hunmarked : ∀ l ∈ lanes, ((s.vectorGave b sl i.sums lanes i.enc.d.toNat).thread b sl l).haltMark = false ∧
      ((s.vectorGave b sl i.sums lanes i.enc.d.toNat).thread b sl l).stepMark = false := by
    intro l hl
    obtain ⟨-, -, hmarks⟩ := hon l hl
    rw [State.thread_eq, State.crew_vectorGave, h]
    exact hmarks
  unfold State.passedOn
  rw [← State.afterLanes_unmarked _ _ _ _ hunmarked, hgave]
  dsimp only
  rw [hdone] <;> rfl

/-- A rendezvous that awaits nobody and owes nothing closes, its contributors pass on, and what follows for them does. -/
theorem State.settleInstance_complete {pair : Bool} (h : s.crew b sl = some c) (hpair : (s.hdrOf b sl).pair = pair)
    (hvisible : i.shadow = false) (hpassed : i.passed = []) (howed : i.owed = []) (hawaited : i.awaited c pair = []) :
    s.settleInstance b sl i =
      ((i.arrivals.filter fun a => a.contrib).foldl
        (fun (u : State) a => u.finishBoth b sl i (c.xl.find? fun k => k.pc == i.pc && k.shadow) pair true a)
        (s.closeInstance b sl i ((i.arrivals.filter fun a => a.contrib).map Arrival.lane))).passedOn b sl i
          ((i.arrivals.filter fun a => a.contrib).map Arrival.lane) := by
  have hwaiting : (i.arrivals.filter fun a => a.contrib && !i.passed.contains a.lane) = i.arrivals.filter fun a => a.contrib := by
    simp [hpassed]
  have howing : (i.arrivals.filter fun a => i.owed.contains a.lane && !i.sourceAwaited pair [] a) = [] := by
    simp [howed]
  unfold State.settleInstance
  rw [h]
  simp only [hvisible, hpair, hawaited, hwaiting, howing, List.isEmpty_nil, List.foldl_nil, Bool.false_eq_true, ↓reduceIte]

section
variable {j : Option Instance} {pair : Bool}

theorem Crew.Assembled.find_shadow (hc : c.Assembled pair i j) : (c.xl.find? fun k => k.pc == i.pc && k.shadow) = j := by
  rw [hc.xl, List.find?_cons_of_neg (by simp [hc.visible])]
  cases j with
  | none => rfl
  | some k =>
    obtain ⟨hshadow, hpc, -⟩ := hc.shadow k rfl
    exact List.find?_cons_of_pos (by simp [hshadow, hpc])

theorem Crew.Assembled.closed_xl (hc : c.Assembled pair i j) (done : List Nat) : (c.closed i done).xl = [] := by
  refine List.filter_eq_nil_iff.mpr fun k hk => ?_
  rw [hc.xl] at hk
  rcases List.mem_cons.mp hk with rfl | hk
  · simp
  · simp [(hc.shadow k (Option.mem_toList.mp hk)).2.1]

/-- What a contributor needs is there still once its rendezvous has closed. -/
theorem Instance.Passable.closed (hp : i.Passable j pair c a) {done : List Nat} (ha : a.lane ∈ done) : i.Passable j pair (c.closed i done) a := by
  have hlt := hp.lt
  refine hp.of_threads ?_ fun ht => ?_
  · rw [Crew.thread_closed done hlt, if_pos ha]
  · have := hp.even ht
    rw [Crew.thread_closed done (by omega), apply_ite Thread.rnd, Thread.released_eq]
    exact ite_self _

/-- A lane of the crew, done or not, passes on from the closed rendezvous as it would have. -/
theorem Crew.passes_closed (done : List Nat) {l : Nat} (hl : l < 32) (k : Instance) (z : Arrival) :
    ((c.closed i done).thread l).passes k pair z = (c.thread l).passes k pair z := by
  rw [Crew.thread_closed done hl, apply_ite (Thread.passes · k pair z), Thread.passes_released]
  exact ite_self _
end

/-- A rendezvous that completes: its contributors and their shadows go on with their results, and no rendezvous stays open. A lane that
stands at the rendezvous without a part in it issues again (R157, R158, R161). -/
theorem State.settle_assembled {j : Option Instance} {pair : Bool} (h : s.crew b sl = some c) (hpair : (s.hdrOf b sl).pair = pair)
    (hc : c.Assembled pair i j) :
    ∃ d : Crew, s.settle b sl = (s.setCrew b sl (some d)).vectorGave b sl i.sums
        ((i.arrivals.filter fun a => a.contrib).map Arrival.lane) i.enc.d.toNat ∧
      d = { c with xl := [], threads := d.threads } ∧
      (∀ a ∈ i.arrivals, a.contrib = true → d.thread a.lane = (c.thread a.lane).passes i pair a ∧
        ∀ k z, Instance.partner j a = some (k, z) → d.thread z.lane = (c.thread z.lane).passes k pair z) ∧
      ∀ l < 32, Apart pair (i.arrivals.filter fun a => a.contrib) l → d.thread l = (c.thread l).released i.pc := by
  have hsettle := State.settleInstance_complete h hpair hc.visible hc.passed hc.owed hc.awaited
  rw [hc.find_shadow] at hsettle
  have hmem (a : Arrival) : a ∈ i.arrivals.filter (fun a => a.contrib) ↔ a ∈ i.arrivals ∧ a.contrib = true := List.mem_filter
  have hnodup := hc.nodup.sublist ((List.filter_sublist (p := fun a : Arrival => a.contrib)).map Arrival.lane)
  generalize (i.arrivals.filter fun a => a.contrib) = as at *
  generalize hdone : as.map Arrival.lane = done at *
  rw [State.closeInstance_eq h] at hsettle
  have hpas (a : Arrival) (ha : a ∈ as) : i.Passable j pair c a := hc.passable a ((hmem a).mp ha).1 ((hmem a).mp ha).2
  obtain ⟨d, hd, hcd, hthreads, hrest⟩ := State.foldl_finishBoth (s := s.setCrew b sl (some (c.closed i done)))
    (fun k hk => ⟨(hc.shadow k hk).2.1, (hc.shadow k hk).2.2.2⟩) (State.crew_setCrew_self h _)
    (by rw [State.hdrOf_setCrew_of_team h (c.closed_team i done), hpair]) (hdone ▸ hnodup)
    fun a ha => (hpas a ha).closed (hdone ▸ List.mem_map_of_mem ha)
  rw [State.setCrew_setCrew] at hd
  have hxl : d.xl = [] := by rw [hcd]; exact hc.closed_xl done
  have hgone : ∀ l ∈ done, (d.thread l).pc = i.pc + BitVec.ofNat 64 i.enc.bytes ∧ (d.thread l).st = .runnable ∧
      (d.thread l).haltMark = false ∧ (d.thread l).stepMark = false := by
    intro l hl
    obtain ⟨a, ha, rfl⟩ := List.mem_map.mp (hdone ▸ hl)
    rw [(hthreads a ha).1, Crew.passes_closed done (hpas a ha).lt]
    exact ⟨rfl, rfl, Thread.passes_unmarked (hc.unmarked a ((hmem a).mp ha).1 ((hmem a).mp ha).2)⟩
  refine ⟨d, ?_, ?_, fun a ha hcontrib => ?_, fun l hl hap => ?_⟩
  · have hlast : s.settleInstance b sl i = (s.setCrew b sl (some d)).vectorGave b sl i.sums done i.enc.d.toNat := by
      rw [hsettle, hd, State.passedOn_eq (State.crew_setCrew_self h _) hgone]
    unfold State.settle
    rw [h]
    dsimp only
    rw [hc.xl, List.foldl_cons, h]
    simp only [Option.bind_some, hc.xl, List.find?_cons_of_pos (p := fun k : Instance => k.pc == i.pc && k.shadow == i.shadow)
      (a := i) (by simp), hlast]
    refine List.foldlRecOn (motive := fun u => u = _) j.toList _ rfl fun u hu k _ => ?_
    simp only [hu, State.crew_vectorGave, State.crew_setCrew_self h, Option.bind_some, hxl, List.find?_nil]
  · have hfields := hcd
    have hempty := hc.closed_xl done
    simp only [Crew.Alike, Crew.closed] at hfields hempty
    rwa [hempty] at hfields
  · have ha' := (hmem a).mpr ⟨ha, hcontrib⟩
    obtain ⟨hlane, hshadow⟩ := hthreads a ha'
    rw [Crew.passes_closed done (hpas a ha').lt] at hlane
    refine ⟨hlane, fun k z hq => ?_⟩
    obtain ⟨hk, -, hz⟩ := Instance.partner_some hq
    have := (hpas a ha').even ((hpas a ha').pair_of_some hk)
    have := (hpas a ha').lt
    rw [hshadow k z hq, Crew.passes_closed done (by omega)]
  · rw [hrest l hap, Crew.thread_closed done hl, if_neg]
    intro hl
    obtain ⟨a, ha, rfl⟩ := List.mem_map.mp (hdone ▸ hl)
    exact (hap a ha).1 rfl

end

end Sys2Proof.Machine

/-! Lanes come to the rendezvous at their address (08 R156, R157, R161, 16 R331). -/

namespace Sys2Proof.Machine

/-- What lane `l` brings where lane `v`, itself or the one whose shadow it is, contributes or not. -/
def arrivalOf (c : Crew) (o : Enc) (brings : Thread → Brings) (v l : Nat) : Arrival :=
  let w : Brings := if o.guard true (c.thread v) then brings (c.thread l) else { mask := 0 }
  { lane := l, contrib := o.guard true (c.thread v), mask := w.mask, a := w.a, atag := w.atag, b := w.b, pa := w.pa }

/-- A lane arrives, and in paired-lane mode its shadow in the shadows' rendezvous, with what their threads of `c` hold. -/
def Crew.meet (c : Crew) (pair : Bool) (pc : DWord) (opc : Nat) (o : Enc) (brings : Thread → Brings) (k : Crew) (l : Nat) : Crew :=
  let k := k.arrive pc opc o false (arrivalOf c o brings l l)
  if pair then k.arrive pc opc o true (arrivalOf c o brings l (l + 1)) else k

/-- A crew that differs from another in its threads and open instances alone. -/
def Crew.Kin (c k : Crew) : Prop := k = { c with xl := k.xl, threads := k.threads }

theorem Crew.Kin.refl (c : Crew) : c.Kin c := rfl
theorem Crew.Kin.trans {c d e : Crew} (h : c.Kin d) (g : d.Kin e) : c.Kin e := by
  unfold Crew.Kin at *
  rw [g, h]
theorem Crew.Kin.team {c k : Crew} (h : c.Kin k) : k.team = c.team := by
  rw [h]
theorem Crew.Alike.kin {c k : Crew} (h : c.Alike k) : c.Kin k := by
  unfold Crew.Kin
  rw [h]

section
variable (c k : Crew) (pc : DWord) (opc : Nat) (o : Enc) (shadow : Bool) (a : Arrival)

theorem Crew.arrive_kin : k.Kin (k.arrive pc opc o shadow a) := by
  unfold Crew.arrive
  split <;> rfl

theorem Crew.arrive_threads : (k.arrive pc opc o shadow a).threads = k.threads := by
  unfold Crew.arrive
  split <;> rfl

theorem Crew.thread_arrive (l : Nat) : (k.arrive pc opc o shadow a).thread l = k.thread l := by
  unfold Crew.thread
  simp only [Crew.arrive_threads]

/-- The instances after an arrival depend on those before it alone. -/
theorem Crew.arrive_xl {k k' : Crew} (h : k.xl = k'.xl) : (k.arrive pc opc o shadow a).xl = (k'.arrive pc opc o shadow a).xl := by
  unfold Crew.arrive
  rw [h]
  split <;> rfl

/-- An arrival, or a shadow's, leaves other lanes to come. -/
theorem Crew.hasArrived_arrive {k : Crew} {l : Nat} (h : k.hasArrived pc l = false) (ha : shadow = true ∨ a.lane ≠ l) :
    (k.arrive pc opc o shadow a).hasArrived pc l = false := by
  unfold Crew.hasArrived at h ⊢
  simp only [List.any_eq_false, Bool.and_eq_true, Bool.not_eq_true', beq_iff_eq, List.any_eq_true, not_and, not_exists, and_imp] at h ⊢
  unfold Crew.arrive
  split
  · intro i hi
    obtain ⟨j, hj, rfl⟩ := List.mem_map.mp hi
    have hj' := h j hj
    split
    case isTrue hat =>
      intro hpc hvis z hz
      rcases List.mem_append.mp hz with hz | hz
      · exact hj' hpc hvis z hz
      · rw [List.mem_singleton.mp hz]
        simp_all
    case isFalse => exact hj'
  · intro i hi
    rcases List.mem_append.mp hi with hi | hi
    · exact h i hi
    · rw [List.mem_singleton.mp hi]
      intro _ hvis z hz
      rw [List.mem_singleton.mp hz]
      simp_all
end

section
variable {c k : Crew} {pair : Bool} {pc : DWord} {opc : Nat} {o : Enc} {brings : Thread → Brings}

theorem Crew.meet_kin (l : Nat) : k.Kin (c.meet pair pc opc o brings k l) := by
  unfold Crew.meet
  cases pair
  · exact k.arrive_kin ..
  · exact (k.arrive_kin ..).trans (Crew.arrive_kin ..)

theorem Crew.thread_meet (l n : Nat) : (c.meet pair pc opc o brings k l).thread n = k.thread n := by
  unfold Crew.meet
  cases pair <;> simp only [Crew.thread_arrive, Bool.false_eq_true, ↓reduceIte]

theorem Crew.meet_xl {k' : Crew} (h : k.xl = k'.xl) (l : Nat) :
    (c.meet pair pc opc o brings k l).xl = (c.meet pair pc opc o brings k' l).xl := by
  unfold Crew.meet
  cases pair
  · exact Crew.arrive_xl _ _ _ _ _ h
  · exact Crew.arrive_xl _ _ _ _ _ (Crew.arrive_xl _ _ _ _ _ h)

theorem Crew.hasArrived_meet {l n : Nat} (h : k.hasArrived pc n = false) (hn : l ≠ n) :
    (c.meet pair pc opc o brings k l).hasArrived pc n = false := by
  have hfirst : (k.arrive pc opc o false (arrivalOf c o brings l l)).hasArrived pc n = false := Crew.hasArrived_arrive _ _ _ _ _ h (.inr hn)
  unfold Crew.meet
  cases pair
  · exact hfirst
  · exact Crew.hasArrived_arrive _ _ _ _ _ hfirst (.inl rfl)

/-- A shadow stands where its visible lane does (02 R48). -/
def Thread.follows (u t : Thread) : Thread :=
  { u with pc := t.pc, st := t.st, age := t.age, regionPc := t.regionPc, miss := t.miss, mark := t.mark }

/-- A lane's thread changes, and in paired-lane mode its shadow follows it. -/
def Crew.stand (k : Crew) (pair : Bool) (l : Nat) (f : Thread → Thread) : Crew :=
  let d := k.modThread l f
  if pair then d.modThread (l + 1) fun u => u.follows (d.thread l) else d

theorem Crew.stand_alike (l : Nat) (f : Thread → Thread) : k.Alike (k.stand pair l f) := by
  have h := k.modThread_alike l f
  unfold Crew.stand
  split
  · exact h.trans (Crew.modThread_alike ..)
  · exact h

theorem Crew.thread_stand {l : Nat} (hl : l < 32) (heven : pair = true → l % 2 = 0) (f : Thread → Thread) (n : Nat) :
    (k.stand pair l f).thread n =
      if n = l then f (k.thread l) else if pair = true ∧ n = l + 1 then (k.thread n).follows (f (k.thread l)) else k.thread n := by
  unfold Crew.stand
  cases pair
  · by_cases hn : n = l <;> simp [hn, hl]
  · have hodd : l + 1 < 32 := by have := heven rfl; omega
    by_cases hn : n = l
    · simp [hn, hl]
    · by_cases hn' : n = l + 1 <;> simp [hn, hn', hl, hodd]

/-- A lane that leaves by staying in a state or by going on. -/
theorem State.leave_stand {s : State} {x : Lane} (h : s.crew x.core x.slot = some k) (next : DWord) :
    (∀ st, s.leave x next (.hold st) = (s.setCrew x.core x.slot (some (k.stand (s.hdrOf x.core x.slot).pair x.lane fun t =>
      { t with st, age := 0, miss := none })), false)) ∧
    s.leave x next .next = (s.setCrew x.core x.slot (some (k.stand (s.hdrOf x.core x.slot).pair x.lane fun t => t.goto next)), false) := by
  have hgo (f : Thread → Thread) :
      (if ((s.modThread x.core x.slot x.lane f).hdrOf x.core x.slot).pair then
        (s.modThread x.core x.slot x.lane f).modThread x.core x.slot (x.lane + 1) fun u =>
          u.follows ((s.modThread x.core x.slot x.lane f).laneThread x)
      else s.modThread x.core x.slot x.lane f) = s.setCrew x.core x.slot (some (k.stand (s.hdrOf x.core x.slot).pair x.lane f)) := by
    have hcrew := State.crew_setCrew_self h (some (k.modThread x.lane f))
    rw [State.modThread_of_crew h, State.hdrOf_setCrew h (k.modThread_alike x.lane f), State.laneThread_of_crew hcrew, Crew.stand]
    split
    · rw [State.modThread_of_crew hcrew, State.setCrew_setCrew]
    · rfl
  exact ⟨fun st => congrArg (·, false) (hgo _), congrArg (·, false) (hgo _)⟩

theorem Crew.stand_xl (l : Nat) (f : Thread → Thread) : (k.stand pair l f).xl = k.xl := by
  rw [k.stand_alike l f]

theorem Crew.stand_congr {l : Nat} {f g : Thread → Thread} (h : f (k.thread l) = g (k.thread l)) : k.stand pair l f = k.stand pair l g := by
  unfold Crew.stand Crew.modThread
  rw [h]

/-- A lane once it has arrived: it waits, or with a false guard goes on. -/
def Thread.arrived (t : Thread) (opc : Nat) (o : Enc) (next : DWord) : Thread :=
  if o.guard true t then { t with st := if opc = 0x74 then .waitJoin else .waitXl, age := 0, miss := none } else t.goto next

theorem Thread.arrived_age (t : Thread) (opc : Nat) (o : Enc) (next : DWord) : (t.arrived opc o next).age = 0 := by
  unfold Thread.arrived
  split <;> rfl

/-- A lane of the bundle comes to its rendezvous and stands as its arrival leaves it. -/
def Crew.come (c : Crew) (pair : Bool) (pc : DWord) (opc : Nat) (o : Enc) (brings : Thread → Brings) (k : Crew) (l : Nat) : Crew :=
  (c.meet pair pc opc o brings k l).stand pair l fun t => t.arrived opc o (pc + BitVec.ofNat 64 o.bytes)

theorem Crew.come_kin (l : Nat) : k.Kin (c.come pair pc opc o brings k l) := (Crew.meet_kin l).trans (Crew.stand_alike l _).kin

theorem Crew.hasArrived_come {l n : Nat} (h : k.hasArrived pc n = false) (hn : l ≠ n) :
    (c.come pair pc opc o brings k l).hasArrived pc n = false := by
  have := Crew.hasArrived_meet (c := c) (pair := pair) (opc := opc) (o := o) (brings := brings) h hn
  unfold Crew.hasArrived Crew.come at *
  rwa [Crew.stand_xl]

theorem Crew.thread_come {l : Nat} (hl : l < 32) (heven : pair = true → l % 2 = 0) (n : Nat) :
    (c.come pair pc opc o brings k l).thread n =
      if n = l then (k.thread l).arrived opc o (pc + BitVec.ofNat 64 o.bytes)
      else if pair = true ∧ n = l + 1 then (k.thread n).follows ((k.thread l).arrived opc o (pc + BitVec.ofNat 64 o.bytes))
      else k.thread n := by
  unfold Crew.come
  simp only [Crew.thread_stand hl heven, Crew.thread_meet]

/-- The lane and its shadow still hold what they held in `c`, and the lane has not come to the rendezvous at its address. -/
structure Crew.Awaits (c k : Crew) (pair : Bool) (pc : DWord) (l : Nat) : Prop where
  lane : k.thread l = c.thread l
  shadow : pair = true → k.thread (l + 1) = c.thread (l + 1)
  absent : k.hasArrived pc l = false

/-- A lane's coming leaves the other lanes to come as they were. -/
theorem Crew.Awaits.come {l n : Nat} (h : c.Awaits k pair pc n) (hl : l < 32) (hne : n ≠ l) (heven : pair = true → l % 2 = 0 ∧ n % 2 = 0) :
    c.Awaits (c.come pair pc opc o brings k l) pair pc n where
  lane := by
    rw [Crew.thread_come hl fun hp => (heven hp).1, if_neg hne, if_neg, h.lane]
    rintro ⟨hp, rfl⟩
    have := heven hp
    omega
  shadow hp := by
    have := heven hp
    rw [Crew.thread_come hl fun hp => (heven hp).1, if_neg (by omega), if_neg (by omega), h.shadow hp]
  absent := Crew.hasArrived_come h.absent hne.symm

theorem Crew.foldl_meet_xl (lanes : List Nat) {k k' : Crew} (h : k.xl = k'.xl) :
    (lanes.foldl (c.meet pair pc opc o brings) k).xl = (lanes.foldl (c.meet pair pc opc o brings) k').xl := by
  induction lanes generalizing k k' with
  | nil => exact h
  | cons l lanes ih => exact ih (Crew.meet_xl h l)

/-- What the lanes of a bundle bring to their rendezvous, and how they stand then. -/
theorem Crew.foldl_come {lanes : List Nat} (hlanes : LanesOk pair lanes) (hk : ∀ l ∈ lanes, c.Awaits k pair pc l) :
    k.Kin (lanes.foldl (c.come pair pc opc o brings) k) ∧
    (lanes.foldl (c.come pair pc opc o brings) k).xl = (lanes.foldl (c.meet pair pc opc o brings) k).xl ∧
    ∀ n, (lanes.foldl (c.come pair pc opc o brings) k).thread n =
      if n ∈ lanes then (c.thread n).arrived opc o (pc + BitVec.ofNat 64 o.bytes)
      else if pair = true ∧ n % 2 = 1 ∧ n - 1 ∈ lanes then
        (c.thread n).follows ((c.thread (n - 1)).arrived opc o (pc + BitVec.ofNat 64 o.bytes))
      else k.thread n := by
  induction lanes generalizing k with
  | nil => exact ⟨.refl k, rfl, by simp⟩
  | cons l lanes ih =>
    have hl := hlanes.lt l (by simp)
    have heven (hp : pair = true) : l % 2 = 0 := hlanes.even hp l (by simp)
    have hnot := (List.nodup_cons.mp hlanes.nodup).1
    have hne {n : Nat} (hn : n ∈ lanes) : n ≠ l := fun h => hnot (h ▸ hn)
    have hfirst := hk l (by simp)
    obtain ⟨hkin, hxl, hthreads⟩ := ih (k := c.come pair pc opc o brings k l) hlanes.tail fun n hn =>
      (hk n (List.mem_cons_of_mem l hn)).come hl (hne hn) fun hp => ⟨heven hp, hlanes.even hp n (List.mem_cons_of_mem l hn)⟩
    refine ⟨(Crew.come_kin l).trans hkin, hxl.trans ?_, fun n => ?_⟩
    · exact Crew.foldl_meet_xl lanes (Crew.stand_xl l _)
    · rw [List.foldl_cons, hthreads, Crew.thread_come hl heven]
      by_cases hn : n ∈ lanes
      · simp [hn]
      · by_cases hnl : n = l
        · subst hnl
          have hshadow : ¬ (pair = true ∧ n % 2 = 1 ∧ n - 1 ∈ lanes) := fun ⟨hp, hodd, _⟩ => by have := heven hp; omega
          simp [hn, hshadow, hfirst.lane]
        · have hfollows : (pair = true ∧ n % 2 = 1 ∧ n - 1 ∈ l :: lanes) ↔
              (pair = true ∧ n % 2 = 1 ∧ n - 1 ∈ lanes) ∨ pair = true ∧ n = l + 1 := by
            rw [List.mem_cons]
            constructor
            · rintro ⟨hp, hodd, he | he⟩
              · exact .inr ⟨hp, by omega⟩
              · exact .inl ⟨hp, hodd, he⟩
            · rintro (⟨hp, hodd, he⟩ | ⟨hp, rfl⟩)
              · exact ⟨hp, hodd, .inr he⟩
              · exact ⟨hp, by have := heven hp; omega, .inl rfl⟩
          rw [if_neg hn, if_neg hnl, if_neg (by simp [hn, hnl] : ¬ n ∈ l :: lanes)]
          simp only [hfollows]
          by_cases hs : pair = true ∧ n % 2 = 1 ∧ n - 1 ∈ lanes
          · rw [if_pos hs, if_pos (.inl hs)]
          · rw [if_neg hs]
            refine if_ctx_congr (by simp [hs]) (fun hp => ?_) fun _ => rfl
            obtain ⟨ht, rfl⟩ := hp.resolve_left hs
            rw [Nat.add_sub_cancel, hfirst.lane, hfirst.shadow ht]

end

section
variable {s : State} {x : Lane} {c k : Crew} {pair : Bool} {pc : DWord} {opc : Nat} {o : Enc} {srcs : List Opnd}
  {dst : Option (Nat × Bool)} {preds : List Nat} {brings : Thread → Brings}

/-- A lane that comes to its rendezvous for the first time, as its crew stands after it. -/
theorem State.arrive_meet (h : s.crew x.core x.slot = some k) (hk : c.Awaits k (s.hdrOf x.core x.slot).pair pc x.lane)
    (hpc : (c.thread x.lane).pc = pc) {w : Thread → Brings}
    (hw : w = if o.guard true (c.thread x.lane) then brings else fun _ => { mask := 0 }) :
    s.arrive x opc o (o.guard true (c.thread x.lane)) w =
      s.setCrew x.core x.slot (some (c.meet (s.hdrOf x.core x.slot).pair pc opc o brings k x.lane)) := by
  have hbrings (t : Thread) : w t = if o.guard true (c.thread x.lane) then brings t else { mask := 0 } := by
    rw [hw]
    split <;> rfl
  unfold State.arrive
  rw [State.modCrew_of_crew h]
  congr 2
  unfold Crew.meet arrivalOf
  cases hp : (s.hdrOf x.core x.slot).pair
  · simp only [hk.lane, hpc, hbrings, Bool.false_eq_true, ↓reduceIte]
  · simp only [hk.lane, hk.shadow hp, hpc, hbrings, Crew.thread_arrive, ↓reduceIte]

theorem rendezvousForm_lane (h : s.crew x.core x.slot = some k) (hk : c.Awaits k (s.hdrOf x.core x.slot).pair pc x.lane)
    (hpc : (c.thread x.lane).pc = pc) (hop : Operable o true srcs dst preds (c.thread x.lane))
    (hself : o.guard true (c.thread x.lane) = true →
      (brings (c.thread x.lane)).mask.getLsbD (visible (s.hdrOf x.core x.slot).pair x.lane) = true) :
    (rendezvousForm opc o srcs dst preds brings).lane o s x =
      (s.setCrew x.core x.slot (some (c.meet (s.hdrOf x.core x.slot).pair pc opc o brings k x.lane)),
        if o.guard true (c.thread x.lane) then .hold (if opc = 0x74 then .waitJoin else .waitXl) else .next) := by
  have hthread : s.laneThread x = c.thread x.lane := (State.laneThread_of_crew h).trans hk.lane
  have hvisited : s.visited x = false := by
    unfold State.visited
    rw [h, hthread, hpc]
    exact hk.absent
  have harrive := State.arrive_meet (opc := opc) (o := o) (brings := brings) h hk hpc rfl
  have hwait : ((o.guardPreds true).any fun p => (c.thread x.lane).predWait.contains p) = false := by
    simpa using hop.1
  unfold LaneForm.lane rendezvousForm
  simp only [hthread, hwait, hvisited, Option.isSome_none, Bool.false_and, Bool.false_eq_true, ↓reduceIte]
  cases hg : o.guard true (c.thread x.lane)
  · simp only [hg, Bool.false_eq_true, ↓reduceIte] at harrive
    simp only [harrive, Bool.not_false, Bool.false_eq_true, ↓reduceIte]
  · simp only [hg, ↓reduceIte] at harrive
    simp only [hop.2 hg, hself hg, harrive, Bool.not_true, Bool.false_eq_true, ↓reduceIte]

end

section
variable {s : State} {cur : Cur} {c : Crew} {opc : Nat} {o : Enc} {srcs : List Opnd} {dst : Option (Nat × Bool)} {preds : List Nat}
  {brings : Thread → Brings}

/-- What a lane of the bundle must meet to come to its rendezvous for the first time (R156, R157). -/
structure Comer (s : State) (cur : Cur) (c : Crew) (o : Enc) (srcs : List Opnd) (dst : Option (Nat × Bool)) (preds : List Nat)
    (brings : Thread → Brings) (l : Nat) : Prop where
  pc : (c.thread l).pc = cur.pc
  operable : Operable o true srcs dst preds (c.thread l)
  absent : c.hasArrived cur.pc l = false
  self : o.guard true (c.thread l) = true → (brings (c.thread l)).mask.getLsbD (visible (s.hdrOf cur.core cur.slot).pair l) = true

theorem rendezvousForm_step (hcrew : s.crew cur.core cur.slot = some c) {k : Crew} (hkin : c.Kin k) {l : Nat}
    (hl : Comer s cur c o srcs dst preds brings l) (hk : c.Awaits k (s.hdrOf cur.core cur.slot).pair cur.pc l) {a : Bundle}
    (ha : a.s = s.setCrew cur.core cur.slot (some k)) :
    (rendezvousForm opc o srcs dst preds brings).step o cur a l =
      { a with s := s.setCrew cur.core cur.slot (some (c.come (s.hdrOf cur.core cur.slot).pair cur.pc opc o brings k l)) } := by
  have hhdr {d : Crew} (hd : c.Kin d) := State.hdrOf_setCrew_of_team hcrew hd.team
  have hlane := rendezvousForm_lane (opc := opc) (x := ⟨cur.core, cur.slot, l⟩) (State.crew_setCrew_self hcrew (some k)) (by rwa [hhdr hkin])
    hl.pc hl.operable (by rw [hhdr hkin]; exact hl.self)
  rw [State.setCrew_setCrew, hhdr hkin] at hlane
  have hmeet : c.Kin (c.meet (s.hdrOf cur.core cur.slot).pair cur.pc opc o brings k l) := hkin.trans (Crew.meet_kin l)
  obtain ⟨hhold, hnext⟩ := State.leave_stand (x := ⟨cur.core, cur.slot, l⟩) (State.crew_setCrew_self hcrew
    (some (c.meet (s.hdrOf cur.core cur.slot).pair cur.pc opc o brings k l))) (cur.pc + BitVec.ofNat 64 o.bytes)
  rw [hhdr hmeet, State.setCrew_setCrew] at hnext
  simp only [hhdr hmeet, State.setCrew_setCrew] at hhold
  have harrived : (c.meet (s.hdrOf cur.core cur.slot).pair cur.pc opc o brings k l).thread l = c.thread l :=
    (Crew.thread_meet l l).trans hk.lane
  unfold LaneForm.step Crew.come
  rw [ha]
  dsimp only
  rw [hlane]
  dsimp only
  cases hg : o.guard true (c.thread l)
  · simp only [Bool.false_eq_true, ↓reduceIte, hnext, Bool.or_false]
    rw [Crew.stand_congr]
    simp [harrived, Thread.arrived, hg]
  · simp only [↓reduceIte, hhold, Bool.or_false]
    rw [Crew.stand_congr]
    simp [harrived, Thread.arrived, hg]

/-- The bundle's lanes have all come to their rendezvous. -/
theorem rendezvousForm_foldl (hcrew : s.crew cur.core cur.slot = some c) {lanes : List Nat}
    (hlanes : LanesOk (s.hdrOf cur.core cur.slot).pair lanes) (hcome : ∀ l ∈ lanes, Comer s cur c o srcs dst preds brings l) {k : Crew}
    (hkin : c.Kin k) (hk : ∀ l ∈ lanes, c.Awaits k (s.hdrOf cur.core cur.slot).pair cur.pc l) {a : Bundle}
    (ha : a.s = s.setCrew cur.core cur.slot (some k)) :
    lanes.foldl ((rendezvousForm opc o srcs dst preds brings).step o cur) a =
      { a with s := s.setCrew cur.core cur.slot (some (lanes.foldl (c.come (s.hdrOf cur.core cur.slot).pair cur.pc opc o brings) k)) } := by
  induction lanes generalizing k a with
  | nil => rw [List.foldl_nil, List.foldl_nil, ← ha]
  | cons l lanes ih =>
    have hnot := (List.nodup_cons.mp hlanes.nodup).1
    have heven := hlanes.even
    rw [List.foldl_cons, rendezvousForm_step hcrew hkin (hcome l (by simp)) (hk l (by simp)) ha]
    exact ih hlanes.tail (fun n hn => hcome n (List.mem_cons_of_mem l hn)) (hkin.trans (Crew.come_kin l)) (fun n hn =>
      (hk n (List.mem_cons_of_mem l hn)).come (hlanes.lt l (by simp)) (fun h => hnot (h ▸ hn)) fun hp =>
        ⟨heven hp l (by simp), heven hp n (List.mem_cons_of_mem l hn)⟩) rfl

/-- The bundle of a rendezvous: its lanes have come, and what can complete does. -/
theorem State.laneInstr_rendezvous (hat : AtHand s cur c) (hlanes : LanesOk (s.hdrOf cur.core cur.slot).pair cur.lanes)
    (hcome : ∀ l ∈ cur.lanes, Comer s cur c o srcs dst preds brings l) :
    s.laneInstr o (rendezvousForm opc o srcs dst preds brings) = (s.setCrew cur.core cur.slot (some
      (cur.lanes.foldl (c.come (s.hdrOf cur.core cur.slot).pair cur.pc opc o brings) c))).settle cur.core cur.slot := by
  obtain ⟨hcur, hcrew, hready⟩ := hat
  have hself (l : Nat) (hl : l ∈ cur.lanes) : c.Awaits c (s.hdrOf cur.core cur.slot).pair cur.pc l := ⟨rfl, fun _ => rfl, (hcome l hl).absent⟩
  unfold State.laneInstr
  rw [hcur]
  dsimp only
  rw [rendezvousForm_foldl hcrew hlanes hcome (.refl c) hself (State.setCrew_crew hcrew).symm, Bundle.close_unmarked rfl rfl]
  intro l hl
  obtain ⟨-, hhalt, hstep, -⟩ := hready l hl
  obtain ⟨-, -, hthreads⟩ := Crew.foldl_come (opc := opc) (o := o) (brings := brings) hlanes hself
  dsimp only
  rw [State.thread_eq, State.crew_setCrew_self hcrew, Option.map_some, Option.getD_some, hthreads, if_pos hl, Thread.arrived]
  split
  · exact ⟨hhalt, hstep⟩
  · exact ⟨hhalt, hstep⟩

/-- A cross-lane instruction brings its lanes to the rendezvous at their address. -/
theorem arrives_of_rendezvous {i : Instr} (he : ∀ s, exec i s = .next (if opc = 0x74 then
      (s.laneInstr o (rendezvousForm opc o srcs dst preds brings)).switchIf (· == .waitJoin)
    else s.laneInstr o (rendezvousForm opc o srcs dst preds brings))) : Arrives i opc o srcs dst preds brings := by
  intro s cur c hat hnodup pair heven hop joins wait after d u
  have ⟨hcur, hcrew, hready⟩ := hat
  have hlanes : LanesOk pair cur.lanes := ⟨fun l hl => (hready l hl).1, hnodup, heven⟩
  have hcome (l : Nat) (hl : l ∈ cur.lanes) : Comer s cur c o srcs dst preds brings l := by
    obtain ⟨hoperable, habsent, hself⟩ := hop l hl
    exact ⟨(hready l hl).2.2.2.1, hoperable, habsent, hself⟩
  have hbundle := State.laneInstr_rendezvous (opc := opc) hat hlanes hcome
  have hd : cur.lanes.foldl (c.come pair cur.pc opc o brings) c = d := by
    have hself (l : Nat) (hl : l ∈ cur.lanes) : c.Awaits c pair cur.pc l := ⟨rfl, fun _ => rfl, (hcome l hl).absent⟩
    obtain ⟨hkin, hxl, hthreads⟩ := Crew.foldl_come (opc := opc) (o := o) (brings := brings) hlanes hself
    have hmeet : (fun k l => if pair = true then joins l (l + 1) (joins l l k) else joins l l k) = c.meet pair cur.pc opc o brings := by
      funext k l
      have hsame : (l != l) = false := by simp
      have hnext : (l + 1 != l) = true := by simp
      simp only [joins, hsame, hnext]
      rfl
    have hdxl : (cur.lanes.foldl (c.come pair cur.pc opc o brings) c).xl = d.xl := by
      rw [hxl, ← hmeet]
    have hdthreads : (cur.lanes.foldl (c.come pair cur.pc opc o brings) c).threads = d.threads := by
      ext1 n hn
      have hthread (e : Crew) : e.thread n = e.threads[n] := by simp [Crew.thread, hn]
      have hfollows : (c.thread n).follows (after (n - 1)) =
          { c.threads[n] with pc := (after (n - 1)).pc, st := (after (n - 1)).st, age := 0, regionPc := (after (n - 1)).regionPc,
                              miss := (after (n - 1)).miss, mark := (after (n - 1)).mark } := by
        rw [hthread, Thread.follows, show (after (n - 1)).age = 0 from Thread.arrived_age ..]
      rw [← hthread, hthreads]
      simp only [d, Vector.getElem_ofFn, Fin.getElem_fin]
      rw [← hfollows, ← hthread]
      rfl
    rw [hkin, hdxl, hdthreads]
  rw [he, hbundle]
  show Host.Outcome.next (if opc = 0x74 then (State.settle (s.setCrew cur.core cur.slot (some (cur.lanes.foldl (c.come pair cur.pc opc o brings) c)))
    cur.core cur.slot).switchIf (· == .waitJoin) else _) = _
  rw [hd]

end

end Sys2Proof.Machine

/-! The rendezvous of one bundle outside paired-lane mode (08 R157): it completes as its lanes have come. -/

namespace Sys2Proof.Machine

/-- The rendezvous that the lanes of a bundle open. -/
def crossing (c : Crew) (lanes : List Nat) (pc : DWord) (opc : Nat) (o : Enc) (brings : Thread → Brings) : Instance :=
  { pc, opc, enc := o, shadow := false, arrivals := lanes.map fun l => arrivalOf c o brings l l }

section
variable {c : Crew} {pc : DWord} {opc : Nat} {o : Enc} {brings : Thread → Brings}

theorem Crew.meet_crossing {k : Crew} {lanes : List Nat} (h : k.xl = [crossing c lanes pc opc o brings]) (l : Nat) :
    (c.meet false pc opc o brings k l).xl = [crossing c (lanes ++ [l]) pc opc o brings] := by
  simp [Crew.meet, Crew.arrive, h, crossing]

theorem Crew.foldl_meet_crossing (lanes : List Nat) {k : Crew} {before : List Nat} (h : k.xl = [crossing c before pc opc o brings]) :
    (lanes.foldl (c.meet false pc opc o brings) k).xl = [crossing c (before ++ lanes) pc opc o brings] := by
  induction lanes generalizing k before with
  | nil => simpa using h
  | cons l lanes ih => simpa using ih (Crew.meet_crossing h l)

/-- Where no rendezvous is open, the lanes of a bundle open one. -/
theorem Crew.foldl_meet_open {l : Nat} {lanes : List Nat} (h : c.xl = []) :
    ((l :: lanes).foldl (c.meet false pc opc o brings) c).xl = [crossing c (l :: lanes) pc opc o brings] :=
  Crew.foldl_meet_crossing (before := [l]) lanes (by simp [Crew.meet, Crew.arrive, h, crossing])

theorem Crew.hasArrived_nil (h : c.xl = []) (l : Nat) : c.hasArrived pc l = false := by
  simp [Crew.hasArrived, h]

theorem arrivalOf_mask {l : Nat} (hg : o.guard true (c.thread l) = true) : (arrivalOf c o brings l l).mask = (brings (c.thread l)).mask := by
  simp [arrivalOf, hg]

end

theorem State.vectorGave_cur (s : State) (b sl : Nat) (f : Tag) (lanes : List Nat) (d : Nat) : (s.vectorGave b sl f lanes d).cur = s.cur := by
  unfold State.vectorGave State.vectorDone
  split
  · simp only [apply_ite State.cur, State.modCore_cur, State.count_cur, ite_self]
  · rfl

theorem State.vectorGave_nil (s : State) (b sl : Nat) (f : Tag) (d : Nat) : s.vectorGave b sl f [] d = s := by
  unfold State.vectorGave State.vectorDone
  split <;> simp

theorem State.settle_nil {s : State} {b sl : Nat} {c : Crew} (h : s.crew b sl = some c) (hxl : c.xl = []) : s.settle b sl = s := by
  unfold State.settle
  rw [h]
  dsimp only
  rw [hxl, List.foldl_nil]

theorem State.switchIf_none {s : State} {cur : Cur} {waits : LaneState → Bool} (hcur : s.cur = some cur)
    (h : ∀ l ∈ cur.lanes, waits (s.thread cur.core cur.slot l).st = false) : s.switchIf waits = s := by
  have hnone : (cur.lanes.any fun l => waits (s.thread cur.core cur.slot l).st) = false := List.any_eq_false.mpr fun l hl => by simp [h l hl]
  unfold State.switchIf
  simp only [hcur, hnone, Bool.false_eq_true, ↓reduceIte]

theorem Thread.released_of_not_meeting {t : Thread} (h : ¬ t.Meeting) (pc : DWord) : t.released pc = t :=
  if_neg fun hw => h hw.2

/-- A lane that has come and then passes on: its wait leaves no trace. -/
theorem Thread.passes_arrived {t : Thread} {opc : Nat} {o : Enc} {next : DWord} (hg : o.guard true t = true) (hmiss : t.miss = none)
    (i : Instance) (pair : Bool) (a : Arrival) :
    (t.arrived opc o next).passes i pair a = (t.given i pair a).goto (i.pc + BitVec.ofNat 64 i.enc.bytes) := by
  have harrived : t.arrived opc o next = t.standing t.pc (if opc = 0x74 then .waitJoin else .waitXl) 0 none t.mark := by
    unfold Thread.arrived
    rw [if_pos hg]
    rfl
  unfold Thread.passes
  rw [harrived, Thread.given_standing, ← hmiss, ← t.given_miss i pair a]
  rfl

section
variable {s : State} {cur : Cur} {c : Crew} {opc : Nat} {o : Enc} {brings : Thread → Brings}

/-- A bundle of lanes each of which names itself and otherwise lanes of the bundle or exited ones: no rendezvous is open, no lane waits in
one, and none of a lane's combines is to trap. -/
structure Gathers (s : State) (cur : Cur) (c : Crew) (opc : Nat) (o : Enc) (brings : Thread → Brings) : Prop where
  hand : AtHand s cur c
  nodup : cur.lanes.Nodup
  xl : c.xl = []
  idle : ∀ l < 32, ¬ (c.thread l).Meeting
  miss : ∀ l ∈ cur.lanes, (c.thread l).miss = none
  named : ∀ l ∈ cur.lanes, o.guard true (c.thread l) = true → ∀ m < 32, (brings (c.thread l)).mask.getLsbD m = true →
    m ∈ cur.lanes ∨ (c.thread m).st = .exited
  calm : ∀ l ∈ cur.lanes, o.guard true (c.thread l) = true →
    (crossing c cur.lanes cur.pc opc o brings).arith false (c.thread l).rnd (arrivalOf c o brings l l) = none

theorem Gathers.lanesOk (h : Gathers s cur c opc o brings) : LanesOk false cur.lanes :=
  ⟨fun l hl => (h.hand.2.2 l hl).1, h.nodup, nofun⟩

theorem Gathers.threads (h : Gathers s cur c opc o brings) (n : Nat) :
    (cur.lanes.foldl (c.come false cur.pc opc o brings) c).thread n =
      if n ∈ cur.lanes then (c.thread n).arrived opc o (cur.pc + BitVec.ofNat 64 o.bytes) else c.thread n := by
  have ⟨_, _, hthreads⟩ := Crew.foldl_come (c := c) (k := c) (pair := false) (pc := cur.pc) (opc := opc) (o := o) (brings := brings) h.lanesOk
    fun l hl => ⟨rfl, fun _ => rfl, Crew.hasArrived_nil h.xl l⟩
  rw [hthreads]
  simp

/-- What a bundle that has come leaves of its crew: its rendezvous is the one open, and its contributors wait. -/
structure Gathered (cur : Cur) (c : Crew) (opc : Nat) (o : Enc) (brings : Thread → Brings) (d : Crew) : Prop where
  kin : c.Kin d
  xl : d.xl = [crossing c cur.lanes cur.pc opc o brings]
  thread : ∀ n, d.thread n = if n ∈ cur.lanes then (c.thread n).arrived opc o (cur.pc + BitVec.ofNat 64 o.bytes) else c.thread n

theorem Gathers.gathered (h : Gathers s cur c opc o brings) (hne : cur.lanes ≠ []) :
    Gathered cur c opc o brings (cur.lanes.foldl (c.come false cur.pc opc o brings) c) := by
  obtain ⟨hkin, hxl, -⟩ := Crew.foldl_come (c := c) (k := c) (pair := false) (pc := cur.pc) (opc := opc) (o := o) (brings := brings) h.lanesOk
    fun l hl => ⟨rfl, fun _ => rfl, Crew.hasArrived_nil h.xl l⟩
  refine ⟨hkin, hxl.trans ?_, h.threads⟩
  obtain ⟨l, lanes, hlanes⟩ := List.exists_cons_of_ne_nil hne
  rw [hlanes]
  exact Crew.foldl_meet_open h.xl

theorem Gathered.waits {d : Crew} (hd : Gathered cur c opc o brings d) {l : Nat} (hl : l ∈ cur.lanes) (hg : o.guard true (c.thread l) = true) :
    d.thread l = { c.thread l with st := if opc = 0x74 then .waitJoin else .waitXl, age := 0, miss := none } := by
  rw [hd.thread, if_pos hl, Thread.arrived, if_pos hg]

theorem mem_crossing {lanes : List Nat} {pc : DWord} {a : Arrival} (ha : a ∈ (crossing c lanes pc opc o brings).arrivals) :
    ∃ l ∈ lanes, a = arrivalOf c o brings l l := by
  obtain ⟨l, hl, rfl⟩ := List.mem_map.mp ha
  exact ⟨l, hl, rfl⟩

/-- The contributors are ready to pass on. -/
theorem Gathered.passable {d : Crew} (h : Gathers s cur c opc o brings) (hd : Gathered cur c opc o brings d) {l : Nat} (hl : l ∈ cur.lanes)
    (hg : o.guard true (c.thread l) = true) :
    (crossing c cur.lanes cur.pc opc o brings).Passable none false d (arrivalOf c o brings l l) := by
  have hthread := hd.waits hl hg
  obtain ⟨hlt, -, -, hpc, -⟩ := h.hand.2.2 l hl
  have hlane : (arrivalOf c o brings l l).lane = l := rfl
  refine ⟨hlt, ?_, ?_, ?_, fun _ => rfl, nofun, fun k z hz => by simp [Instance.partner] at hz⟩
  · rw [hlane, hthread]
    dsimp only
    exact hpc
  · rw [hlane, hthread]
    by_cases hopc : opc = 0x74 <;> simp [Thread.Meeting, hopc]
  · rw [hlane, hthread]
    dsimp only
    exact h.calm l hl hg

theorem Gathered.awaited {d : Crew} (h : Gathers s cur c opc o brings) (hd : Gathered cur c opc o brings d) :
    (crossing c cur.lanes cur.pc opc o brings).awaited d false = [] := by
  refine Instance.awaited_eq_nil fun a ha hcontrib v hv hbit => ?_
  obtain ⟨l, hl, rfl⟩ := mem_crossing ha
  rw [arrivalOf_mask hcontrib] at hbit
  by_cases hin : v ∈ cur.lanes
  · exact .inl ⟨_, List.mem_map_of_mem hin, rfl⟩
  · refine .inr ?_
    rw [hd.thread, show physical false v = v from rfl, if_neg hin]
    exact (h.named l hl hcontrib v hv hbit).resolve_left hin

theorem Gathered.assembled {d : Crew} (h : Gathers s cur c opc o brings) (hd : Gathered cur c opc o brings d) :
    d.Assembled false (crossing c cur.lanes cur.pc opc o brings) none where
  xl := hd.xl
  visible := rfl
  shadow := nofun
  passed := rfl
  owed := rfl
  nodup := by
    unfold crossing
    rw [List.map_map]
    exact (congrArg List.Nodup (List.map_id cur.lanes)).mpr h.nodup
  awaited := hd.awaited h
  passable a ha hcontrib := by
    obtain ⟨l, hl, rfl⟩ := mem_crossing ha
    exact hd.passable h hl hcontrib
  unmarked a ha hcontrib := by
    obtain ⟨l, hl, rfl⟩ := mem_crossing ha
    obtain ⟨-, hhalt, hstep, -⟩ := h.hand.2.2 l hl
    rw [show (arrivalOf c o brings l l).lane = l from rfl, hd.waits hl hcontrib]
    dsimp only
    exact ⟨hhalt, hstep⟩
/-- The bundle's rendezvous completes: its contributors have their results, the others have gone on, nothing is open. -/
theorem Gathers.settle (h : Gathers s cur c opc o brings) (hpair : (s.hdrOf cur.core cur.slot).pair = false) :
    ∃ e : Crew, (s.setCrew cur.core cur.slot (some (cur.lanes.foldl (c.come false cur.pc opc o brings) c))).settle cur.core cur.slot =
        (s.setCrew cur.core cur.slot (some e)).vectorGave cur.core cur.slot (crossing c cur.lanes cur.pc opc o brings).sums
          (cur.lanes.filter fun l => o.guard true (c.thread l)) o.d.toNat ∧
      e = { c with threads := e.threads } ∧
      ∀ l < 32, e.thread l =
        if l ∈ cur.lanes then
          (if o.guard true (c.thread l) then
            (c.thread l).given (crossing c cur.lanes cur.pc opc o brings) false (arrivalOf c o brings l l) else c.thread l).goto
            (cur.pc + BitVec.ofNat 64 o.bytes)
        else c.thread l := by
  have ⟨_, hcrew, hready⟩ := h.hand
  by_cases hne : cur.lanes = []
  · refine ⟨c, ?_, rfl, fun l _ => by simp [hne]⟩
    rw [hne, List.foldl_nil, List.filter_nil, State.vectorGave_nil, State.setCrew_crew hcrew, State.settle_nil hcrew h.xl]
  have hd := h.gathered hne
  generalize cur.lanes.foldl (c.come false cur.pc opc o brings) c = d at hd ⊢
  obtain ⟨e, he, hfields, hlane, hrest⟩ := State.settle_assembled (State.crew_setCrew_self hcrew (some d))
    ((congrArg Header.pair (State.hdrOf_setCrew_of_team hcrew hd.kin.team)).trans hpair) (hd.assembled h)
  have hcontributors : ((crossing c cur.lanes cur.pc opc o brings).arrivals.filter fun a => a.contrib).map Arrival.lane =
      cur.lanes.filter fun l => o.guard true (c.thread l) := by
    unfold crossing
    rw [List.filter_map, List.map_map]
    exact List.map_id _
  rw [hcontributors, State.setCrew_setCrew] at he
  have happart {l : Nat} (hl : l ∈ cur.lanes → o.guard true (c.thread l) = false) :
      Apart false ((crossing c cur.lanes cur.pc opc o brings).arrivals.filter fun a => a.contrib) l := by
    intro a ha
    obtain ⟨ha, hcontrib⟩ := List.mem_filter.mp ha
    obtain ⟨m, hm, rfl⟩ := mem_crossing ha
    refine ⟨?_, nofun⟩
    rintro rfl
    exact Bool.false_ne_true ((hl hm).symm.trans hcontrib)
  refine ⟨e, he, ?_, fun l hl => ?_⟩
  · rw [hd.kin, ← h.xl] at hfields
    exact hfields
  · by_cases hin : l ∈ cur.lanes
    · rw [if_pos hin]
      cases hg : o.guard true (c.thread l)
      · rw [hrest l hl (happart fun _ => hg), hd.thread, if_pos hin, Thread.arrived, if_neg (by simp [hg]), Thread.released_of_not_meeting]
        · rfl
        · simp [Thread.Meeting]
      · have hpasses := (hlane _ (List.mem_map_of_mem hin) hg).1
        rw [show (arrivalOf c o brings l l).lane = l from rfl, hd.thread, if_pos hin, Thread.passes_arrived hg (h.miss l hin)] at hpasses
        exact hpasses
    · rw [if_neg hin, hrest l hl (happart fun hl => absurd hl hin), hd.thread, if_neg hin, Thread.released_of_not_meeting (h.idle l hl)]
end

/-- A rendezvous of one bundle, from what each contributor is given in the bundle's rendezvous. -/
theorem completes_of_rendezvous {i : Instr} {opc : Nat} {o : Enc} {srcs : List Opnd} {dst : Option (Nat × Bool)} {preds preds' : List Nat}
    {brings : Thread → Brings} {mask : Thread → Nat} {can : Crew → List Nat → Nat → Prop} {res : Crew → List Nat → Nat → Thread → Thread} {f : Tag}
    (he : ∀ s, exec i s = .next (if opc = 0x74 then
        (s.laneInstr o (rendezvousForm opc o srcs dst preds' brings)).switchIf (· == .waitJoin)
      else s.laneInstr o (rendezvousForm opc o srcs dst preds' brings)))
    (hpreds : ∀ p ∈ preds', p ∈ preds) (hmask : ∀ t, ∀ m < 32, (mask t).testBit m = (brings t).mask.getLsbD m)
    (hf : ∀ c lanes pc, (crossing c lanes pc opc o brings).sums = f)
    (hres : ∀ c lanes pc l, LanesOk false lanes → l ∈ lanes → o.guard true (c.thread l) = true → (mask (c.thread l)).testBit l = true →
      (∀ p ∈ preds, p ∉ (c.thread l).predWait) → can c (members c lanes o mask l) l →
      (crossing c lanes pc opc o brings).arith false (c.thread l).rnd (arrivalOf c o brings l l) = none ∧
      (c.thread l).given (crossing c lanes pc opc o brings) false (arrivalOf c o brings l l) = res c (members c lanes o mask l) l (c.thread l)) :
    Completes i o srcs dst preds mask can res f := by
  intro s cur c ⟨hat, hpair, hxl, hnodup, hidle, hlane⟩ hcan
  have ⟨hcur, hcrew, hready⟩ := hat
  have hlanes : LanesOk false cur.lanes := ⟨fun l hl => (hready l hl).1, hnodup, nofun⟩
  have hunblocked (l : Nat) (hl : l ∈ cur.lanes) (hg : o.guard true (c.thread l) = true) :
      ¬ (c.thread l).Blocked srcs dst preds ∧ ∀ x ∈ srcs, ¬ x.Strange (c.thread l) :=
    (operandFate_iff _ _ _ _).2.2.2.mp ((hlane l hl).2.1.2 hg)
  have hgiven (l : Nat) (hl : l ∈ cur.lanes) (hg : o.guard true (c.thread l) = true) :=
    hres c cur.lanes cur.pc l hlanes hl hg ((hlane l hl).2.2 hg).1 (fun p hp hw => (hunblocked l hl hg).1 (.inr (.inr ⟨p, hp, hw⟩)))
      (hcan l hl hg)
  have hgathers : Gathers s cur c opc o brings :=
    { hand := hat, nodup := hnodup, xl := hxl, idle := fun l hl hm => hm.elim (hidle l hl).1 (hidle l hl).2,
      miss := fun l hl => (hlane l hl).1,
      named := fun l hl hg m hm hbit => ((hlane l hl).2.2 hg).2 m hm ((hmask _ m hm).trans hbit),
      calm := fun l hl hg => (hgiven l hl hg).1 }
  have hcome (l : Nat) (hl : l ∈ cur.lanes) : Comer s cur c o srcs dst preds' brings l := by
    obtain ⟨hlt, -, -, hpc, -⟩ := hready l hl
    obtain ⟨-, ⟨hguard, -⟩, hself⟩ := hlane l hl
    refine ⟨hpc, ⟨hguard, fun hg => (operandFate_iff _ _ _ _).2.2.2.mpr ⟨fun hb => ?_, (hunblocked l hl hg).2⟩⟩,
      Crew.hasArrived_nil hxl l, fun hg => ?_⟩
    · exact (hunblocked l hl hg).1 (hb.imp_right (Or.imp_right fun ⟨p, hp, hw⟩ => ⟨p, hpreds p hp, hw⟩))
    · rw [hpair, show visible false l = l from rfl, ← hmask _ l hlt]
      exact (hself hg).1
  have hbundle := State.laneInstr_rendezvous (opc := opc) hat (by rwa [hpair]) hcome
  obtain ⟨e, hsettle, hfields, hthreads⟩ := hgathers.settle hpair
  rw [hpair, hsettle, hf] at hbundle
  have hthread (l : Nat) : (s.laneInstr o (rendezvousForm opc o srcs dst preds' brings)).thread cur.core cur.slot l = e.thread l := by
    rw [hbundle, State.thread_eq, State.crew_vectorGave, State.crew_setCrew_self hcrew]
    rfl
  have hswitch : (s.laneInstr o (rendezvousForm opc o srcs dst preds' brings)).switchIf (· == .waitJoin) =
      s.laneInstr o (rendezvousForm opc o srcs dst preds' brings) := by
    refine State.switchIf_none (cur := cur) (by rw [hbundle, State.vectorGave_cur, State.setCrew_cur, hcur]) fun l hl => ?_
    rw [hthread, hthreads l (hready l hl).1, if_pos hl, Thread.goto_st]
    rfl
  refine ⟨e, ?_, hfields, fun l hl => ?_⟩
  · rw [he, hswitch, ite_self, hbundle]
  · rw [hthreads l hl]
    by_cases hin : l ∈ cur.lanes
    · rw [if_pos hin, if_pos hin]
      cases hg : o.guard true (c.thread l)
      · rfl
      · rw [if_pos rfl, if_pos rfl, (hgiven l hin hg).2]
    · rw [if_neg hin, if_neg hin]

/-! The members of a lane's set (08 R158). -/

section
variable {c : Crew} {lanes : List Nat} {pc : DWord} {opc : Nat} {o : Enc} {brings : Thread → Brings} {mask : Thread → Nat} {l : Nat}

/-- What a contributor brings. -/
theorem arrivalOf_contributor {m : Nat} (hg : o.guard true (c.thread m) = true) :
    arrivalOf c o brings m m =
      { lane := m, contrib := true, mask := (brings (c.thread m)).mask, a := (brings (c.thread m)).a,
        atag := (brings (c.thread m)).atag, b := (brings (c.thread m)).b, pa := (brings (c.thread m)).pa } := by
  simp [arrivalOf, hg]

theorem mem_members {m : Nat} : m ∈ members c lanes o mask l ↔
    m < 32 ∧ m ∈ lanes ∧ o.guard true (c.thread m) = true ∧ (mask (c.thread l)).testBit m = true := by
  simp [members, and_assoc]

theorem members_sorted : (members c lanes o mask l).SortedLT :=
  (List.pairwise_lt_range.filter _).sortedLT

/-- S(l) in the bundle's rendezvous holds the arrivals of S(l) as the statements name it. -/
theorem members_crossing (hlanes : LanesOk false lanes) (hmask : ∀ t, ∀ m < 32, (mask t).testBit m = (brings t).mask.getLsbD m)
    (hg : o.guard true (c.thread l) = true) :
    ((crossing c lanes pc opc o brings).members false (arrivalOf c o brings l l)).Perm
      ((members c lanes o mask l).map fun m => arrivalOf c o brings m m) := by
  have hfilter : (crossing c lanes pc opc o brings).members false (arrivalOf c o brings l l) =
      (lanes.filter fun m => o.guard true (c.thread m) && (mask (c.thread l)).testBit m).map fun m => arrivalOf c o brings m m := by
    unfold Instance.members crossing
    rw [List.filter_map]
    refine congrArg _ (List.filter_congr fun m hm => ?_)
    rw [hmask _ m (hlanes.lt m hm), ← arrivalOf_mask hg]
    rfl
  rw [hfilter]
  refine List.Perm.map _ ((List.perm_ext_iff_of_nodup (hlanes.nodup.filter _) members_sorted.nodup).mpr fun m => ?_)
  rw [mem_members, List.mem_filter, Bool.and_eq_true]
  exact ⟨fun ⟨hm, h⟩ => ⟨hlanes.lt m hm, hm, h⟩, fun ⟨_, hm, h⟩ => ⟨hm, h⟩⟩
end

end Sys2Proof.Machine

/-! What each cross-lane instruction gives the contributors of a bundle (08 R163 to R167). -/

namespace Sys2Proof.Machine

theorem maskOf_eq_sum {l l' : List Nat} (h : l.Perm l') (hsorted : l'.SortedLT) : maskOf l = (l'.map (2 ^ ·)).sum := by
  refine Nat.eq_of_testBit_eq fun i => ?_
  rw [testBit_maskOf, Bool.eq_iff_iff, decide_eq_true_iff, ← Nat.mem_bitIndices, Nat.bitIndices_sum_map_two_pow hsorted, h.mem_iff]

theorem beq_length_filter {α : Type} (p : α → Bool) (l : List α) : ((l.filter p).length == l.length) = l.all p := by
  rw [Bool.eq_iff_iff, beq_iff_eq, List.length_filter_eq_length_iff, List.all_eq_true]

theorem beq_length_filter_zero {α : Type} (p : α → Bool) (l : List α) : ((l.filter p).length == 0) = l.all fun x => !p x := by
  rw [← isEmpty_filter]
  cases l.filter p <;> rfl

theorem le_foldl_min {α : Type} (f : α → Nat) (l : List α) (n v : Nat) : v ≤ l.foldl (fun k x => min k (f x)) n ↔ v ≤ n ∧ ∀ x ∈ l, v ≤ f x := by
  induction l generalizing n with
  | nil => simp
  | cons x l ih => rw [List.foldl_cons, ih, le_min_iff, List.forall_mem_cons, and_assoc]

/-- The first of a sorted list is its least member. -/
theorem head?_eq_iff {l : List Nat} (hsorted : l.SortedLT) {v : Nat} (hv : v ∈ l) : l.head? = some v ↔ ∀ x ∈ l, v ≤ x := by
  cases l with
  | nil => cases hv
  | cons x l =>
    have hfirst := (List.pairwise_cons.mp hsorted.pairwise).1
    rw [List.head?_cons, Option.some_inj]
    constructor
    · rintro rfl y hy
      rcases List.mem_cons.mp hy with rfl | hy
      · exact le_rfl
      · exact (hfirst y hy).le
    · intro h
      rcases List.mem_cons.mp hv with rfl | hv
      · rfl
      · have := hfirst v hv
        have := h x (by simp)
        omega

theorem filterMap_ite {α β : Type} (p : α → Bool) (g : α → β) (l : List α) :
    l.filterMap (fun x => if p x then some (g x) else none) = (l.filter p).map g := by
  induction l with
  | nil => rfl
  | cons x l ih => cases h : p x <;> simp [h, ih]

theorem Thread.receive_pred {t : Thread} {p : Nat} (hp : p ∉ t.predWait) (d : Nat) (wide : Bool) (reg : Option (DWord × Tag)) (v : Bool) :
    t.receive d wide { reg, pred := some (p, v) } = (t.receive d wide { reg }).setPred p v := by
  have hfilter : t.predWait.filter (· != p) = t.predWait := List.filter_eq_self.mpr fun q hq => by
    simpa using fun h : q = p => hp (h ▸ hq)
  have hkeep (u : Thread) (hu : u.predWait = t.predWait) : { u.setPred p v with predWait := u.predWait.filter (· != p) } = u.setPred p v := by
    rw [hu, hfilter, ← hu, ← u.setPred_predWait p v]
  cases reg with
  | none => exact hkeep t rfl
  | some r => exact hkeep (t.write d wide r.1 r.2) (by simp)

/-- A result without a trap, received. -/
theorem Thread.given_result {t : Thread} {i : Instance} {pair : Bool} {a : Arrival} {r : Result} (hopc : i.opc ≠ 0x74)
    (hr : i.result pair t.rnd a = r) (htrap : r.trap = none) :
    i.arith pair t.rnd a = none ∧ t.given i pair a = t.receive i.enc.d.toNat i.wide r := by
  unfold Instance.arith Thread.given
  rw [if_neg hopc, if_neg hopc, hr]
  exact ⟨htrap, rfl⟩

section
variable {c : Crew} {lanes : List Nat} {pc : DWord} {opc : Nat} {o : Enc} {brings : Thread → Brings} {mask : Thread → Nat} {l : Nat}
  (hlanes : LanesOk false lanes) (hmask : ∀ t, ∀ m < 32, (mask t).testBit m = (brings t).mask.getLsbD m)
  (hg : o.guard true (c.thread l) = true)
include hlanes hmask hg

theorem all_crossing {p : Arrival → Bool} {q : Nat → Bool}
    (h : ∀ m, o.guard true (c.thread m) = true → p (arrivalOf c o brings m m) = q m) :
    ((crossing c lanes pc opc o brings).members false (arrivalOf c o brings l l)).all p = (members c lanes o mask l).all q := by
  rw [(members_crossing hlanes hmask hg).all_eq, List.all_map, Bool.eq_iff_iff, List.all_eq_true, List.all_eq_true]
  refine forall₂_congr fun m hm => ?_
  rw [← h m (mem_members.mp hm).2.2.1]
  rfl

theorem maskOf_crossing {p : Arrival → Bool} {q : Nat → Bool}
    (h : ∀ m, o.guard true (c.thread m) = true → p (arrivalOf c o brings m m) = q m) :
    maskOf ((((crossing c lanes pc opc o brings).members false (arrivalOf c o brings l l)).filter p).map (Arrival.vis false)) =
      (((members c lanes o mask l).filter q).map (2 ^ ·)).sum := by
  refine maskOf_eq_sum ?_ (members_sorted.pairwise.filter _).sortedLT
  have hperm := ((members_crossing (pc := pc) (opc := opc) hlanes hmask hg).filter p).map (Arrival.vis false)
  rw [List.filter_map, List.map_map] at hperm
  refine hperm.trans (List.Perm.of_eq ?_)
  have hsame : (members c lanes o mask l).filter (p ∘ fun m => arrivalOf c o brings m m) = (members c lanes o mask l).filter q :=
    List.filter_congr fun m hm => h m (mem_members.mp hm).2.2.1
  rw [hsame]
  exact List.map_id _

/-- The member at a position. -/
theorem find_crossing (n : Nat) :
    ((crossing c lanes pc opc o brings).members false (arrivalOf c o brings l l)).find? (fun m => m.vis false == n) =
      if n ∈ members c lanes o mask l then some (arrivalOf c o brings n n) else none := by
  have hmem (a : Arrival) : a ∈ (crossing c lanes pc opc o brings).members false (arrivalOf c o brings l l) ↔
      ∃ m ∈ members c lanes o mask l, arrivalOf c o brings m m = a := by
    rw [(members_crossing hlanes hmask hg).mem_iff, List.mem_map]
  cases hfind : ((crossing c lanes pc opc o brings).members false (arrivalOf c o brings l l)).find? (fun m => m.vis false == n) with
  | none =>
    rw [if_neg fun hn => ?_]
    have := List.find?_eq_none.mp hfind _ ((hmem _).mpr ⟨n, hn, rfl⟩)
    exact this (beq_self_eq_true n)
  | some a =>
    obtain ⟨m, hm, rfl⟩ := (hmem a).mp (List.mem_of_find?_eq_some hfind)
    have hat := List.find?_some hfind
    have hn : m = n := beq_iff_eq.mp hat
    rw [← hn, if_pos hm]

/-- The lowest member. -/
theorem foldl_min_crossing (hl : l ∈ members c lanes o mask l) :
    (((crossing c lanes pc opc o brings).members false (arrivalOf c o brings l l)).foldl (fun k m => min k (m.vis false)) 32 == l) =
      ((members c lanes o mask l).head? == some l) := by
  have hle (v : Nat) := le_foldl_min (Arrival.vis false) ((crossing c lanes pc opc o brings).members false (arrivalOf c o brings l l)) 32 v
  have hmem (v : Nat) : (∀ a ∈ (crossing c lanes pc opc o brings).members false (arrivalOf c o brings l l), v ≤ a.vis false) ↔
      ∀ m ∈ members c lanes o mask l, v ≤ m := by
    simp only [(members_crossing hlanes hmask hg).mem_iff, List.forall_mem_map]
    rfl
  simp only [hmem] at hle
  generalize List.foldl _ _ _ = least at hle ⊢
  have hleast := (hle least).mp le_rfl
  rw [Bool.eq_iff_iff, beq_iff_eq, beq_iff_eq, head?_eq_iff members_sorted hl]
  refine ⟨fun h => h ▸ hleast.2, fun h => le_antisymm (hleast.2 l hl) ((hle l).mpr ⟨?_, h⟩)⟩
  exact (mem_members.mp hl).1.le
end

end Sys2Proof.Machine

/-! The cross-lane instructions and JOIN one by one. -/

namespace Sys2Proof.Machine

/-- What a lane brings to a VOTE, to a SHFL, to a REDL, SCANL or MATCH in a format, and to an ELECT or JOIN. -/
def voteBrings (o : Enc) (t : Thread) : Brings := { mask := maskOfOpnd (o.litB false maskTags) t, pa := t.pred o.predA }
def shflBrings (o : Enc) (t : Thread) : Brings :=
  let a := o.regA (o.fmt .raw).wide (moveWant (o.fmt .raw) false)
  { mask := if !o.isExt || o.modBit 2 then 0xFFFFFFFF else maskOfOpnd (o.regC false maskTags) t,
    a := a.value t, atag := a.tag t, b := maskOfOpnd (o.litB false countTags) t }
def reduceBrings (o : Enc) (f : Tag) (t : Thread) : Brings :=
  let a := o.regA f.wide (.only f)
  { mask := maskOfOpnd (o.litB false maskTags) t, a := a.value t, atag := a.tag t }
def maskBrings (o : Enc) (t : Thread) : Brings := { mask := maskOfOpnd (o.litB false maskTags) t }

theorem testBit_valB (o : Enc) (t : Thread) {m : Nat} (hm : m < 32) :
    (valB o false t).testBit m = (maskOfOpnd (o.litB false maskTags) t).getLsbD m := by
  rw [← litB_value o false maskTags t, maskOfOpnd, BitVec.getLsbD_setWidth, decide_eq_true hm, Bool.true_and]
  rfl

theorem testBit_valC (o : Enc) (t : Thread) {m : Nat} (hm : m < 32) :
    (valC o false t).testBit m = (maskOfOpnd (o.regC false maskTags) t).getLsbD m := by
  rw [← regC_value o false maskTags t, maskOfOpnd, BitVec.getLsbD_setWidth, decide_eq_true hm, Bool.true_and]
  rfl

/-- The mask of a SHFL: every lane, or C (R162). -/
theorem testBit_shflMask (o : Enc) (t : Thread) {m : Nat} (hm : m < 32) :
    (if !o.isExt || o.modBit 2 then 2 ^ 32 - 1 else valC o false t).testBit m = (shflBrings o t).mask.getLsbD m := by
  unfold shflBrings
  cases !o.isExt || o.modBit 2
  · exact testBit_valC o t hm
  · rfl

/-- The rendezvous of an instruction other than JOIN, as its meaning. -/
theorem exec_rendezvous {i : Instr} {opc : Nat} {o : Enc} {srcs : List Opnd} {dst : Option (Nat × Bool)} {preds : List Nat}
    {brings : Thread → Brings} (hopc : opc ≠ 0x74)
    (he : ∀ s, exec i s = .next (s.laneInstr o (rendezvousForm opc o srcs dst preds brings))) (s : State) :
    exec i s = .next (if opc = 0x74 then (s.laneInstr o (rendezvousForm opc o srcs dst preds brings)).switchIf (· == .waitJoin)
      else s.laneInstr o (rendezvousForm opc o srcs dst preds brings)) := by
  rw [he, if_neg hopc]

theorem exec_vote (o : Enc) (s : State) :
    (o.modBits 1 0 = 0 → exec (.vote o) s =
      .next (s.laneInstr o (rendezvousForm 0x60 o [o.litB false maskTags] (some (o.d.toNat, false)) [o.predA] (voteBrings o)))) ∧
    (o.modBits 1 0 ≠ 0 → exec (.vote o) s =
      .next (s.laneInstr o (rendezvousForm 0x60 o [o.litB false maskTags] none (o.predA :: predDst o.pd) (voteBrings o)))) := by
  show (_ → Host.Outcome.next (s.laneInstr o (voteForm o)) = _) ∧ (_ → Host.Outcome.next (s.laneInstr o (voteForm o)) = _)
  unfold voteForm
  refine ⟨fun h => ?_, fun h => ?_⟩
  · simp only [h, ↓reduceIte]
    rfl
  · simp only [h, ↓reduceIte]
    rfl

theorem scanFold_map (g : Nat → Nat → Nat × Exc) (identity : Nat) (h : Nat → Nat) (js : List Nat) :
    scanFold g identity (js.map h) = match js with
      | [] => (identity, {})
      | j :: js => js.foldl (fun acc k => let z := g acc.1 (h k); (z.1, acc.2.or z.2)) (h j, {}) := by
  cases js with
  | nil => rfl
  | cons j js => rw [List.map_cons, scanFold, List.foldl_map]

theorem mem_predDst {p q : Nat} (h : q ∈ predDst p) : q = p := by
  unfold predDst at h
  split at h
  · cases h
  · exact List.mem_singleton.mp h

/-- SHFL's source lane before it is held against the lanes there are (R164). -/
def shflTarget (mode l b : Nat) : Int :=
  match mode with
  | 0 => b
  | 1 => (l : Int) - b
  | 2 => (l : Int) + b
  | _ => ((l ^^^ b : Nat) : Int)

theorem shflSource_eq (mode l b n : Nat) :
    shflSource mode l b n = if 0 ≤ shflTarget mode l b ∧ shflTarget mode l b < n then some (shflTarget mode l b).toNat else none := rfl

section
variable {i : Instance} {pair : Bool} {rnd : Word} {a : Arrival}

/-- A SHFL whose source is out of range or no member. -/
theorem Instance.result_shfl_missing (h : i.opc = 0x61)
    (hmissing : ¬ (0 ≤ shflTarget (i.enc.modBits 1 0) (a.vis pair) a.b.toNat ∧ shflTarget (i.enc.modBits 1 0) (a.vis pair) a.b.toNat < nlane pair) ∨
      ∀ m ∈ i.members pair a, (m.vis pair : Int) ≠ shflTarget (i.enc.modBits 1 0) (a.vis pair) a.b.toNat) :
    i.result pair rnd a = { reg := some (0, .raw), pred := some (i.enc.pd, false) } := by
  rw [Instance.result_shfl h, shflSource_eq]
  generalize shflTarget (i.enc.modBits 1 0) (a.vis pair) a.b.toNat = source at hmissing ⊢
  by_cases hrange : 0 ≤ source ∧ source < nlane pair
  · have hnone : (i.members pair a).find? (fun m => m.vis pair == source.toNat) = none := List.find?_eq_none.mpr fun m hm hat => by
      have := hmissing.resolve_left (not_not.mpr hrange) m hm
      have := beq_iff_eq.mp hat
      omega
    rw [if_pos hrange, Option.bind_some, hnone]
  · rw [if_neg hrange, Option.bind_none]

/-- A SHFL whose source is a member, and the only one at its position. -/
theorem Instance.result_shfl_found (h : i.opc = 0x61) {m : Arrival} (hm : m ∈ i.members pair a)
    (honly : ∀ n ∈ i.members pair a, n.vis pair = m.vis pair → n = m)
    (hsource : (m.vis pair : Int) = shflTarget (i.enc.modBits 1 0) (a.vis pair) a.b.toNat) (hlt : m.vis pair < nlane pair) :
    i.result pair rnd a = { reg := some (m.a, if i.fmt = .raw then m.atag else i.fmt), pred := some (i.enc.pd, true) } := by
  rw [Instance.result_shfl h, shflSource_eq, ← hsource]
  have hfind : (i.members pair a).find? (fun n => n.vis pair == (m.vis pair : Int).toNat) = some m := by
    cases hfind : (i.members pair a).find? (fun n => n.vis pair == (m.vis pair : Int).toNat) with
    | none => exact absurd (beq_self_eq_true _) (List.find?_eq_none.mp hfind m hm)
    | some n =>
      have hat := List.find?_some hfind
      rw [honly n (List.mem_of_find?_eq_some hfind) (beq_iff_eq.mp hat)]
  rw [if_pos ⟨by omega, by omega⟩, Option.bind_some, hfind]
end

section
variable {c : Crew} {lanes : List Nat} {pc : DWord} {opc : Nat} {o : Enc} {l : Nat} (hlanes : LanesOk false lanes)
  (hg : o.guard true (c.thread l) = true)
include hlanes hg

theorem given_ballot (hmode : o.modBits 1 0 = 0) :
    let i := crossing c lanes pc 0x60 o (voteBrings o)
    let a := arrivalOf c o (voteBrings o) l l
    i.arith false (c.thread l).rnd a = none ∧ (c.thread l).given i false a = (c.thread l).write o.d.toNat false
      (BitVec.ofNat 64 (((members c lanes o (valB o false) l).filter fun j => (c.thread j).pred o.predA).map (2 ^ ·)).sum) .pred32 := by
  intro i a
  have hvotes := maskOf_crossing (pc := pc) (opc := 0x60) (brings := voteBrings o) (p := fun m => m.pa)
    (q := fun j => (c.thread j).pred o.predA) hlanes (fun t m hm => testBit_valB o t hm) hg
    fun m hm => by rw [arrivalOf_contributor hm]; rfl
  obtain ⟨hcalm, hgiven⟩ := Thread.given_result (i := i) (show 0x60 ≠ 0x74 by decide) (Instance.result_ballot rfl hmode) rfl
  have hwide : i.wide = false := Bool.and_false _
  exact ⟨hcalm, by rw [hgiven, hwide, ← hvotes]; rfl⟩

theorem given_vote (hmode : o.modBits 1 0 ≠ 0) (hwait : o.pd ∉ (c.thread l).predWait) :
    let i := crossing c lanes pc 0x60 o (voteBrings o)
    let a := arrivalOf c o (voteBrings o) l l
    let ms := members c lanes o (valB o false) l
    let votes := ms.filter fun j => (c.thread j).pred o.predA
    i.arith false (c.thread l).rnd a = none ∧ (c.thread l).given i false a = (c.thread l).setPred o.pd (match o.modBits 1 0 with
      | 1 => votes.length == ms.length
      | 2 => votes.length != 0
      | _ => votes.length == 0 || votes.length == ms.length) := by
  intro i a ms votes
  have hall := all_crossing (pc := pc) (opc := 0x60) (brings := voteBrings o) (p := fun m => m.pa)
    (q := fun j => (c.thread j).pred o.predA) hlanes (fun t m hm => testBit_valB o t hm) hg
    fun m hm => by rw [arrivalOf_contributor hm]; rfl
  have hnone := all_crossing (pc := pc) (opc := 0x60) (brings := voteBrings o) (p := fun m => !m.pa)
    (q := fun j => !(c.thread j).pred o.predA) hlanes (fun t m hm => testBit_valB o t hm) hg
    fun m hm => by rw [arrivalOf_contributor hm]; rfl
  have hany : (i.members false a).any (fun m => m.pa) = !(i.members false a).all fun m => !m.pa := by
    rw [List.not_all_eq_any_not]
    simp only [Bool.not_not]
  have hvalue : i.vote false a = (match o.modBits 1 0 with
      | 1 => votes.length == ms.length
      | 2 => votes.length != 0
      | _ => votes.length == 0 || votes.length == ms.length) := by
    unfold Instance.vote
    simp only [hany, bne, votes, beq_length_filter, beq_length_filter_zero]
    rw [hall, hnone]
    rfl
  obtain ⟨hcalm, hgiven⟩ := Thread.given_result (i := i) (show 0x60 ≠ 0x74 by decide) (Instance.result_vote rfl hmode) rfl
  exact ⟨hcalm, by rw [hgiven, hvalue]; exact Thread.receive_pred (p := o.pd) hwait _ _ none _⟩

theorem given_elect (hl : l ∈ members c lanes o (valB o false) l) (hwait : o.predD ∉ (c.thread l).predWait) :
    let i := crossing c lanes pc 0x64 o (maskBrings o)
    let a := arrivalOf c o (maskBrings o) l l
    i.arith false (c.thread l).rnd a = none ∧ (c.thread l).given i false a =
      (c.thread l).setPred o.predD ((members c lanes o (valB o false) l).head? == some l) := by
  intro i a
  have hfirst := foldl_min_crossing (pc := pc) (opc := 0x64) (brings := maskBrings o) hlanes (fun t m hm => testBit_valB o t hm) hg hl
  obtain ⟨hcalm, hgiven⟩ := Thread.given_result (i := i) (show 0x64 ≠ 0x74 by decide) (Instance.result_elect rfl) rfl
  exact ⟨hcalm, by rw [hgiven, ← hfirst]; exact Thread.receive_pred (p := o.predD) hwait _ _ none _⟩

theorem given_match (hwait : o.pd ∉ (c.thread l).predWait) :
    let f := o.fmt .n32
    let i := crossing c lanes pc 0x65 o (reduceBrings o f)
    let a := arrivalOf c o (reduceBrings o f) l l
    let ms := members c lanes o (valB o false) l
    let same := ms.filter fun j => valA o f.wide (c.thread j) == valA o f.wide (c.thread l)
    i.arith false (c.thread l).rnd a = none ∧ (c.thread l).given i false a =
      ((c.thread l).write o.d.toNat false (BitVec.ofNat 64 ((same.map (2 ^ ·)).sum)) .pred32).setPred o.pd (same.length == ms.length) := by
  intro f i a ms same
  have hequal (m : Nat) (hm : o.guard true (c.thread m) = true) : ((arrivalOf c o (reduceBrings o f) m m).a == a.a) =
      (valA o f.wide (c.thread m) == valA o f.wide (c.thread l)) := by
    rw [arrivalOf_contributor hm, show a = _ from arrivalOf_contributor hg, Bool.eq_iff_iff, beq_iff_eq, beq_iff_eq, ← BitVec.toNat_inj]
    rfl
  have hall := all_crossing (pc := pc) (opc := 0x65) (p := fun m => m.a == a.a) hlanes (fun t m hm => testBit_valB o t hm) hg hequal
  have hsame := maskOf_crossing (pc := pc) (opc := 0x65) (p := fun m => m.a == a.a) hlanes (fun t m hm => testBit_valB o t hm) hg hequal
  obtain ⟨hcalm, hgiven⟩ := Thread.given_result (i := i) (show 0x65 ≠ 0x74 by decide) (Instance.result_match rfl) rfl
  refine ⟨hcalm, ?_⟩
  have hwide : i.wide = false := Bool.and_false _
  simp only [hgiven, hwide, same, beq_length_filter]
  rw [← hall, ← hsame]
  exact Thread.receive_pred (p := o.pd) hwait _ _ (some _) _

theorem given_shfl (hwait : o.pd ∉ (c.thread l).predWait) :
    let r := o.fmt .raw
    let i := crossing c lanes pc 0x61 o (shflBrings o)
    let a := arrivalOf c o (shflBrings o) l l
    let ms := members c lanes o (fun t => if !o.isExt || o.modBit 2 then 2 ^ 32 - 1 else valC o false t) l
    i.arith false (c.thread l).rnd a = none ∧ (c.thread l).given i false a =
      match ms.find? fun (j : Nat) => (j : Int) == shflTarget (o.modBits 1 0) l (valB o false (c.thread l)) with
      | some j => ((c.thread l).write o.d.toNat r.wide ((c.thread j).value o.a.toNat r.wide)
          (if r = .raw then (c.thread j).tag o.a.toNat r.wide else r)).setPred o.pd true
      | none => ((c.thread l).write o.d.toNat r.wide 0 .raw).setPred o.pd false := by
  intro r i a ms
  have hwide : i.wide = r.wide := Bool.and_true _
  have hb : a.b.toNat = valB o false (c.thread l) := by
    rw [show a = _ from arrivalOf_contributor hg]
    show ((((o.litB false countTags).value (c.thread l)).setWidth 32 : Word)).toNat = _
    rw [BitVec.toNat_setWidth, litB_value]
    exact Nat.mod_eq_of_lt (valB_lt o false _)
  have hmem (z : Arrival) : z ∈ i.members false a ↔ ∃ m ∈ ms, arrivalOf c o (shflBrings o) m m = z := by
    rw [(members_crossing hlanes (fun t m hm => testBit_shflMask o t hm) hg).mem_iff, List.mem_map]
  rw [← hb]
  cases hfind : ms.find? fun (j : Nat) => (j : Int) == shflTarget (o.modBits 1 0) l a.b.toNat with
  | none =>
    have hmissing : ∀ z ∈ i.members false a, (z.vis false : Int) ≠ shflTarget (i.enc.modBits 1 0) (a.vis false) a.b.toNat := by
      intro z hz hat
      obtain ⟨m, hm, rfl⟩ := (hmem z).mp hz
      exact List.find?_eq_none.mp hfind m hm (beq_iff_eq.mpr hat)
    obtain ⟨hcalm, hgiven⟩ := Thread.given_result (i := i) (show 0x61 ≠ 0x74 by decide) (Instance.result_shfl_missing rfl (.inr hmissing)) rfl
    refine ⟨hcalm, ?_⟩
    rw [hgiven, hwide]
    exact Thread.receive_pred (p := o.pd) hwait _ _ (some _) _
  | some j =>
    have hj := List.mem_of_find?_eq_some hfind
    have hat := List.find?_some hfind
    have honly : ∀ z ∈ i.members false a, z.vis false = (arrivalOf c o (shflBrings o) j j).vis false → z = arrivalOf c o (shflBrings o) j j := by
      intro z hz hsame
      obtain ⟨m, hm, rfl⟩ := (hmem z).mp hz
      have hmj : m = j := hsame
      rw [hmj]
    obtain ⟨hlt, -, hguard, -⟩ := mem_members.mp hj
    obtain ⟨hcalm, hgiven⟩ := Thread.given_result (i := i) (show 0x61 ≠ 0x74 by decide)
      (Instance.result_shfl_found rfl ((hmem _).mpr ⟨j, hj, rfl⟩) honly (beq_iff_eq.mp hat) hlt) rfl
    refine ⟨hcalm, ?_⟩
    rw [hgiven, hwide, arrivalOf_contributor hguard]
    exact Thread.receive_pred (p := o.pd) hwait _ _ (some _) _

/-- The operand of REDL or SCANL at a position: A of the member there. -/
theorem operandAt_crossing (hopc : opc = 0x62 ∨ opc = 0x63) (n : Nat) :
    let f := o.fmt .i32
    (crossing c lanes pc opc o (reduceBrings o f)).operandAt false (arrivalOf c o (reduceBrings o f) l l) n =
      if n ∈ members c lanes o (valB o false) l then some (valA o f.wide (c.thread n) % 2 ^ f.elemBits) else none := by
  intro f
  have hfmt : (crossing c lanes pc opc o (reduceBrings o f)).fmt = f := by
    rcases hopc with rfl | rfl <;> rfl
  unfold Instance.operandAt
  rw [find_crossing hlanes (fun t m hm => testBit_valB o t hm) hg, hfmt]
  by_cases hn : n ∈ members c lanes o (valB o false) l
  · rw [if_pos hn, if_pos hn, arrivalOf_contributor (mem_members.mp hn).2.2.1]
    rfl
  · rw [if_neg hn, if_neg hn]
    rfl

theorem reduction_redl (rnd : Word) :
    let f := o.fmt .i32
    let ms := members c lanes o (valB o false) l
    let z := treeReduce (laneCombine (o.modBits 2 0) f (rmOf (if o.isExt then o.rm.toNat else 7) rnd)) 5
      ((List.range 32).map fun j => if ms.contains j then some (valA o f.wide (c.thread j) % 2 ^ f.elemBits) else none)
    (crossing c lanes pc 0x62 o (reduceBrings o f)).reduction false rnd (arrivalOf c o (reduceBrings o f) l l) = (z.1.getD 0, z.2) := by
  intro f ms z
  have hoperands : (crossing c lanes pc 0x62 o (reduceBrings o f)).operandAt false (arrivalOf c o (reduceBrings o f) l l) =
      fun j => if ms.contains j then some (valA o f.wide (c.thread j) % 2 ^ f.elemBits) else none := by
    funext j
    rw [operandAt_crossing hlanes hg (.inl rfl)]
    exact if_congr List.contains_iff_mem.symm rfl rfl
  refine (if_pos rfl).trans ?_
  rw [hoperands]
  rfl

theorem reduction_scanl (rnd : Word) :
    let f := o.fmt .i32
    let before := (members c lanes o (valB o false) l).filter fun j => decide (j < l) || (j == l && !o.modBit 3)
    (crossing c lanes pc 0x63 o (reduceBrings o f)).reduction false rnd (arrivalOf c o (reduceBrings o f) l l) =
      scanFold (laneCombine (o.modBits 2 0) f (rmOf (if o.isExt then o.rm.toNat else 7) rnd)) (laneIdentity (o.modBits 2 0) f)
        (before.map fun j => valA o f.wide (c.thread j) % 2 ^ f.elemBits) := by
  intro f before
  have hprefix : ((List.range 32).filterMap fun n =>
      if n < l ∨ (n = l ∧ o.modBit 3 = false) then
        (crossing c lanes pc 0x63 o (reduceBrings o f)).operandAt false (arrivalOf c o (reduceBrings o f) l l) n else none) =
      before.map fun j => valA o f.wide (c.thread j) % 2 ^ f.elemBits := by
    have hone (n : Nat) : (if n < l ∨ (n = l ∧ o.modBit 3 = false) then
        (crossing c lanes pc 0x63 o (reduceBrings o f)).operandAt false (arrivalOf c o (reduceBrings o f) l l) n else none) =
        if (decide (n ∈ members c lanes o (valB o false) l) && (decide (n < l) || (n == l && !o.modBit 3))) = true then
          some (valA o f.wide (c.thread n) % 2 ^ f.elemBits) else none := by
      rw [operandAt_crossing hlanes hg (.inr rfl)]
      by_cases hn : n ∈ members c lanes o (valB o false) l <;> simp [hn, f]
    have hbefore : ((List.range 32).filter fun n =>
        decide (n ∈ members c lanes o (valB o false) l) && (decide (n < l) || (n == l && !o.modBit 3))) = before := by
      show _ = List.filter _ (List.filter _ _)
      rw [List.filter_filter]
      refine List.filter_congr fun n hn => ?_
      rw [Bool.and_comm]
      congr 1
      rw [Bool.eq_iff_iff, decide_eq_true_iff, mem_members]
      simp [List.mem_range.mp hn, and_assoc]
    simp only [hone, filterMap_ite, hbefore]
  exact (if_neg (show ¬ 0x63 = 0x62 by decide)).trans (congrArg _ hprefix)
end

section
variable {c : Crew} {lanes : List Nat} {pc : DWord} {opc : Nat} {o : Enc} {l : Nat}

/-- A reduction none of whose exceptions the lane enables. -/
theorem given_reduction (hopc : opc = 0x62 ∨ opc = 0x63) {z : Nat × Exc}
    (hz : (crossing c lanes pc opc o (reduceBrings o (o.fmt .i32))).reduction false (c.thread l).rnd
      (arrivalOf c o (reduceBrings o (o.fmt .i32)) l l) = z)
    (hquiet : Quiet (c.thread l) [z.2]) :
    let f := o.fmt .i32
    let i := crossing c lanes pc opc o (reduceBrings o f)
    let a := arrivalOf c o (reduceBrings o f) l l
    i.arith false (c.thread l).rnd a = none ∧ (c.thread l).given i false a = (c.thread l).write o.d.toNat f.wide (BitVec.ofNat 64 z.1) f := by
  intro f i a
  have hfmt : i.fmt = f := by
    rcases hopc with rfl | rfl <;> rfl
  have hwide : i.wide = f.wide := by
    unfold Instance.wide
    rw [hfmt]
    rcases hopc with rfl | rfl <;> exact Bool.and_true _
  have hne : opc ≠ 0x74 := by rcases hopc with rfl | rfl <;> decide
  have hresult : i.result false (c.thread l).rnd a = { reg := some (BitVec.ofNat 64 z.1, f) } := by
    rw [Instance.result_reduction hopc, hz, hfmt]
    exact (reduced_eq _ f z).1 (hquiet _ (by simp))
  obtain ⟨hcalm, hgiven⟩ := Thread.given_result (i := i) hne hresult rfl
  exact ⟨hcalm, by rw [hgiven, hwide]; rfl⟩

theorem given_redl (hlanes : LanesOk false lanes) (hg : o.guard true (c.thread l) = true) :
    let f := o.fmt .i32
    let ms := members c lanes o (valB o false) l
    let z := treeReduce (laneCombine (o.modBits 2 0) f (rmOf (if o.isExt then o.rm.toNat else 7) (c.thread l).rnd)) 5
      ((List.range 32).map fun j => if ms.contains j then some (valA o f.wide (c.thread j) % 2 ^ f.elemBits) else none)
    let i := crossing c lanes pc 0x62 o (reduceBrings o f)
    let a := arrivalOf c o (reduceBrings o f) l l
    Quiet (c.thread l) [z.2] → i.arith false (c.thread l).rnd a = none ∧
      (c.thread l).given i false a = (c.thread l).write o.d.toNat f.wide (BitVec.ofNat 64 (z.1.getD 0)) f := by
  intro f ms z i a hquiet
  exact given_reduction (z := (z.1.getD 0, z.2)) (.inl rfl) (reduction_redl hlanes hg _) hquiet

theorem given_scanl (hlanes : LanesOk false lanes) (hg : o.guard true (c.thread l) = true) :
    let f := o.fmt .i32
    let part (j : Nat) : Nat := valA o f.wide (c.thread j) % 2 ^ f.elemBits
    let g := laneCombine (o.modBits 2 0) f (rmOf (if o.isExt then o.rm.toNat else 7) (c.thread l).rnd)
    let z : Nat × Exc := match (members c lanes o (valB o false) l).filter fun j => decide (j < l) || (j == l && !o.modBit 3) with
      | [] => (laneIdentity (o.modBits 2 0) f, {})
      | j :: js => js.foldl (fun acc k => let z := g acc.1 (part k); (z.1, acc.2.or z.2)) (part j, {})
    let i := crossing c lanes pc 0x63 o (reduceBrings o f)
    let a := arrivalOf c o (reduceBrings o f) l l
    Quiet (c.thread l) [z.2] → i.arith false (c.thread l).rnd a = none ∧
      (c.thread l).given i false a = (c.thread l).write o.d.toNat f.wide (BitVec.ofNat 64 z.1) f := by
  intro f part g z i a hquiet
  exact given_reduction (z := z) (.inr rfl) ((reduction_scanl hlanes hg _).trans (scanFold_map ..)) hquiet
end

/-! The rendezvous of a crew and its shadows' (08 R157, R161). -/

/-- In paired-lane mode the shadows of a rendezvous's lanes, and they alone, stand in a rendezvous of their own beside it. -/
structure Instance.Beside (i : Instance) (pair : Bool) (j : Option Instance) : Prop where
  isSome : j.isSome = pair
  shadow : ∀ k ∈ j, k.shadow = true ∧ k.pc = i.pc ∧ k.opc = i.opc ∧ k.enc = i.enc
  lanes : ∀ k ∈ j, k.arrivals.map Arrival.lane = i.arrivals.map fun a => a.lane + 1
  even : pair = true → ∀ a ∈ i.arrivals, a.lane % 2 = 0

theorem Instance.beside {i : Instance} {pair : Bool} {js : List Instance}
    (h : if pair then ∃ j, js = [j] ∧ j.shadow = true ∧ j.pc = i.pc ∧ j.opc = i.opc ∧ j.enc = i.enc ∧
        j.arrivals.map Arrival.lane = i.arrivals.map (fun a => a.lane + 1) ∧ i.arrivals.all (fun a => a.lane % 2 == 0) = true
      else js = []) : ∃ j, js = j.toList ∧ i.Beside pair j := by
  cases pair
  · exact ⟨none, h, rfl, by simp, by simp, by simp⟩
  · obtain ⟨j, rfl, hshadow, hpc, hopc, henc, hlanes, heven⟩ := h
    refine ⟨some j, rfl, rfl, ?_, ?_, fun _ a ha => by simpa using List.all_eq_true.mp heven a ha⟩
    · rintro k ⟨⟩
      exact ⟨hshadow, hpc, hopc, henc⟩
    · rintro k ⟨⟩
      exact hlanes

section
variable {i k : Instance} {pair : Bool} {j : Option Instance} {a z : Arrival}

/-- A shadow in the rendezvous beside is its lane's partner. -/
theorem Instance.Beside.partner (h : i.Beside pair j) (hnodup : (i.arrivals.map Arrival.lane).Nodup) (hk : j = some k)
    (hz : z ∈ k.arrivals) (hlane : z.lane = a.lane + 1) : Instance.partner j a = some (k, z) := by
  have hnodup' : (k.arrivals.map Arrival.lane).Nodup := by
    have hshift : i.arrivals.map (fun a => a.lane + 1) = (i.arrivals.map Arrival.lane).map (· + 1) := by
      rw [List.map_map]
      rfl
    rw [h.lanes k hk, hshift]
    exact hnodup.map fun _ _ => Nat.succ_inj.mp
  have hfind : k.arrivals.find? (fun y => y.lane == a.lane + 1) = some z := by
    cases hfind : k.arrivals.find? fun y => y.lane == a.lane + 1 with
    | none => exact absurd (beq_iff_eq.mpr hlane) (List.find?_eq_none.mp hfind z hz)
    | some y =>
      have hat := List.find?_some hfind
      rw [List.inj_on_of_nodup_map hnodup' (List.mem_of_find?_eq_some hfind) hz ((beq_iff_eq.mp hat).trans hlane.symm)]
  unfold Instance.partner
  rw [hk, Option.bind_some, hfind]
  rfl

/-- What a lane of either rendezvous comes to, in the fields of the one. -/
theorem Thread.passes_beside (hpc : k.pc = i.pc) (hopc : k.opc = i.opc) (henc : k.enc = i.enc) (t : Thread) :
    t.passes k pair z = (if i.opc = 0x74 then t else t.receive i.enc.d.toNat i.wide (k.result pair t.rnd z)).goto
      (i.pc + BitVec.ofNat 64 i.enc.bytes) := by
  have hwide : k.wide = i.wide := by
    unfold Instance.wide Instance.fmt
    rw [hopc, henc]
  unfold Thread.passes Thread.given
  rw [hpc, hopc, henc, hwide]

/-- Contributors that wait at their rendezvous unmarked, no combine of theirs or their shadows' to trap. -/
theorem Instance.Beside.assembled {c : Crew} (h : i.Beside pair j) (hxl : c.xl = i :: j.toList) (hvisible : i.shadow = false)
    (hpassed : i.passed = []) (howed : i.owed = []) (hnodup : (i.arrivals.map Arrival.lane).Nodup)
    (hnamed : ∀ a ∈ i.arrivals, a.lane < 32 ∧ (a.contrib = true → ∀ v < nlane pair, a.mask.getLsbD v = true →
      (∃ z ∈ i.arrivals, z.vis pair = v) ∨ (c.thread (physical pair v)).st = .exited))
    (hready : ∀ a ∈ i.arrivals, a.contrib = true → (c.thread a.lane).pc = i.pc ∧
      (c.thread a.lane).st = (if i.opc = 0x74 then .waitJoin else .waitXl) ∧ (c.thread a.lane).haltMark = false ∧
      (c.thread a.lane).stepMark = false ∧ ∀ k ∈ i :: j.toList, ∀ z ∈ k.arrivals, z.lane = a.lane ∨ z.lane = a.lane + 1 →
        i.opc ≠ 0x74 → (k.result pair (c.thread z.lane).rnd z).trap = none) : c.Assembled pair i j where
  xl := hxl
  visible := hvisible
  shadow := h.shadow
  passed := hpassed
  owed := howed
  nodup := hnodup
  awaited := Instance.awaited_eq_nil fun a ha => (hnamed a ha).2
  passable a ha hcontrib := by
    obtain ⟨hpc, hst, -, -, htrap⟩ := hready a ha hcontrib
    refine ⟨(hnamed a ha).1, hpc, ?_, ?_, fun hp => ?_, fun hp => h.even hp a ha, fun k z hq => ?_⟩
    · by_cases hopc : i.opc = 0x74 <;> simp [Thread.Meeting, hst, hopc]
    · unfold Instance.arith
      split
      · rfl
      · exact htrap i (by simp) a ha (.inl rfl) ‹_›
    · rw [← Option.not_isSome_iff_eq_none, h.isSome, hp]
      simp
    · obtain ⟨hk, hz, hlane⟩ := Instance.partner_some hq
      obtain ⟨-, -, hopc, -⟩ := h.shadow k hk
      unfold Instance.arith
      rw [hopc]
      split
      · rfl
      · exact htrap k (by simp [hk]) z hz (.inr hlane) ‹_›
  unmarked a ha hcontrib := by
    obtain ⟨-, -, hhalt, hstep, -⟩ := hready a ha hcontrib
    exact ⟨hhalt, hstep⟩

/-- A lane that is in neither rendezvous is apart from the contributors. -/
theorem Instance.Beside.apart (h : i.Beside pair j) {l : Nat} (hl : ∀ k ∈ i :: j.toList, ∀ z ∈ k.arrivals, z.lane ≠ l) :
    Apart pair (i.arrivals.filter fun a => a.contrib) l := by
  intro a ha
  have ha := (List.mem_filter.mp ha).1
  refine ⟨(hl i (by simp) a ha).symm, fun ⟨hp, hla⟩ => ?_⟩
  obtain ⟨k, hk⟩ := Option.isSome_iff_exists.mp (h.isSome.trans hp)
  have hmem : a.lane + 1 ∈ k.arrivals.map Arrival.lane := by
    rw [h.lanes k hk]
    exact List.mem_map_of_mem (f := fun a => a.lane + 1) ha
  obtain ⟨z, hz, hlane⟩ := List.mem_map.mp hmem
  exact hl k (by simp [hk]) z hz (hlane.trans hla.symm)
end

/-! Results as the lanes see them (08 R163, R167). -/

theorem testBit_maskOf_filter {α : Type} (p : α → Bool) (f : α → Nat) (l : List α) (n : Nat) :
    (maskOf ((l.filter p).map f)).testBit n = l.any fun x => p x && f x == n := by
  rw [testBit_maskOf, Bool.eq_iff_iff, decide_eq_true_iff, List.any_eq_true]
  simp [and_assoc]

/-- All, some or equally many members vote 1. -/
theorem Instance.vote_iff (i : Instance) (pair : Bool) (a : Arrival) :
    i.vote pair a = true ↔ match i.enc.modBits 1 0 with
      | 1 => ∀ m ∈ i.members pair a, m.pa = true
      | 2 => ∃ m ∈ i.members pair a, m.pa = true
      | _ => ∀ m ∈ i.members pair a, ∀ n ∈ i.members pair a, m.pa = n.pa := by
  have huni (ms : List Arrival) : ((ms.all fun m => !m.pa) || ms.all fun m => m.pa) = true ↔
      ∀ m ∈ ms, ∀ n ∈ ms, m.pa = n.pa := by
    rw [Bool.or_eq_true, List.all_eq_true, List.all_eq_true]
    constructor
    · rintro (h | h) m hm n hn
      · have hm' : m.pa = false := by simpa using h m hm
        have hn' : n.pa = false := by simpa using h n hn
        rw [hm', hn']
      · rw [h m hm, h n hn]
    · intro h
      by_cases hall : ∀ m ∈ ms, m.pa = true
      · exact .inr hall
      · push Not at hall
        obtain ⟨n, hn, hno⟩ := hall
        exact .inl fun m hm => by rw [h m hm n hn]; simpa using hno
  unfold Instance.vote
  rcases i.enc.modBits 1 0 with _ | _ | _ | mode
  · exact huni _
  · exact List.all_eq_true
  · exact List.any_eq_true
  · exact huni _

end Sys2Proof.Machine

section
open Sys2Proof Sys2Proof.Machine

/-- Settles O12: the lanes of a bundle come to their rendezvous one after another (`arrives_of_rendezvous`), a rendezvous that awaits nobody
passes its contributors on (`State.settle_assembled`), so that a bundle alone completes (`completes_of_rendezvous`), with the result that
each instruction gives a contributor (`given_…`, `Instance.result_…`). -/
theorem ballotsShufflesReductions : Obligations.BallotsShufflesReductions := by
  refine ⟨fun o => ⟨fun hmode => ?ballot, fun hmode => ?vote, ?elect, ?matchL, ?join⟩,
    fun o => ⟨fun hr => ?shfl, fun hf => ⟨?redl, ?scanl⟩⟩,
    fun o => ⟨?voteArrives, ?shflArrives, arrives_of_rendezvous fun _ => rfl, arrives_of_rendezvous fun _ => rfl,
      arrives_of_rendezvous fun _ => rfl, arrives_of_rendezvous fun _ => rfl, arrives_of_rendezvous fun _ => rfl⟩,
    fun s b sl c i js hc hxl hvisible => ?settle, fun i pair rnd a => ⟨fun h => ⟨fun hmode => ?resultBallot, fun hmode => ?resultVote⟩,
      fun h => ⟨fun hmissing => ?resultMissing, fun m hm honly hsource hlt => ?resultFound⟩, fun h => ?resultElect, fun h => ?resultMatch,
      fun h => ⟨fun hquiet => ?resultQuiet, fun hloud => ?resultLoud⟩⟩⟩
  case ballot =>
    exact completes_of_rendezvous (exec_rendezvous (by decide) fun s => (exec_vote o s).1 hmode) (fun _ hp => hp)
      (fun t m hm => testBit_valB o t hm) (fun _ _ _ => rfl) fun c lanes pc l hlanes _ hg _ _ _ => given_ballot hlanes hg hmode
  case vote =>
    exact completes_of_rendezvous (exec_rendezvous (by decide) fun s => (exec_vote o s).2 hmode)
      (List.forall_mem_cons.mpr ⟨by simp, fun p hp => by simp [mem_predDst hp]⟩) (fun t m hm => testBit_valB o t hm) (fun _ _ _ => rfl)
      fun c lanes pc l hlanes _ hg _ hwait _ => given_vote hlanes hg hmode (hwait o.pd (by simp))
  case elect =>
    exact completes_of_rendezvous (brings := maskBrings o) (exec_rendezvous (by decide) fun _ => rfl) (fun p hp => by simp [mem_predDst hp])
      (fun t m hm => testBit_valB o t hm) (fun _ _ _ => rfl) fun c lanes pc l hlanes hl hg hself hwait _ =>
        given_elect hlanes hg (mem_members.mpr ⟨hlanes.lt l hl, hl, hg, hself⟩) (hwait o.predD (by simp))
  case matchL =>
    exact completes_of_rendezvous (brings := reduceBrings o (o.fmt .n32)) (exec_rendezvous (by decide) fun _ => rfl)
      (fun p hp => by simp [mem_predDst hp]) (fun t m hm => testBit_valB o t hm) (fun _ _ _ => rfl)
      fun c lanes pc l hlanes _ hg _ hwait _ => given_match hlanes hg (hwait o.pd (by simp))
  case join =>
    exact completes_of_rendezvous (opc := 0x74) (brings := maskBrings o) (fun _ => rfl) (fun _ hp => hp) (fun t m hm => testBit_valB o t hm)
      (fun _ _ _ => rfl) fun _ _ _ _ _ _ _ _ _ _ => ⟨rfl, rfl⟩
  case shfl =>
    exact completes_of_rendezvous (brings := shflBrings o) (exec_rendezvous (by decide) fun _ => rfl) (fun p hp => by simp [mem_predDst hp])
      (fun t m hm => testBit_shflMask o t hm) (fun _ _ _ => rfl) fun c lanes pc l hlanes _ hg _ hwait _ =>
        given_shfl hlanes hg (hwait o.pd (by simp))
  case redl =>
    exact completes_of_rendezvous (brings := reduceBrings o (o.fmt .i32)) (exec_rendezvous (by decide) fun _ => rfl) (fun _ hp => hp)
      (fun t m hm => testBit_valB o t hm) (fun _ _ _ => rfl) fun c lanes pc l hlanes _ hg _ _ hquiet =>
        given_redl hlanes hg hquiet
  case scanl =>
    exact completes_of_rendezvous (brings := reduceBrings o (o.fmt .i32)) (exec_rendezvous (by decide) fun _ => rfl) (fun _ hp => hp)
      (fun t m hm => testBit_valB o t hm) (fun _ _ _ => rfl) fun c lanes pc l hlanes _ hg _ _ hquiet =>
        given_scanl hlanes hg hquiet
  case voteArrives => exact arrives_of_rendezvous fun _ => rfl
  case shflArrives =>
    refine arrives_of_rendezvous fun s => ?_
    show Host.Outcome.next (s.laneInstr o (shflForm o)) = _
    unfold shflForm
    cases !o.isExt || o.modBit 2 <;> rfl
  case settle =>
    intro pair next hjs hpassed howed hnodup hnamed gives hready
    obtain ⟨j, rfl, hbeside⟩ := Instance.beside hjs
    obtain ⟨d, hsettle, hfields, hlanes, hrest⟩ := State.settle_assembled hc (pair := pair) rfl
      (hbeside.assembled hxl hvisible hpassed howed hnodup hnamed hready)
    refine ⟨d, hsettle, by rw [hfields], fun l hl hnot hpc => ?_, fun a ha hcontrib => ⟨(hlanes a ha hcontrib).1, fun k hk z hz hlane => ?_⟩⟩
    · rw [hrest l hl (hbeside.apart hnot)]
      exact if_neg fun h => hpc h.1
    · have hk := Option.mem_toList.mp hk
      obtain ⟨-, hpc, hopc, henc⟩ := hbeside.shadow k hk
      rw [(hlanes a ha hcontrib).2 k z (hbeside.partner hnodup hk hz hlane), Thread.passes_beside hpc hopc henc]
      rfl
  case resultBallot => exact ⟨_, Instance.result_ballot h hmode, testBit_maskOf_filter _ _ _⟩
  case resultVote => exact ⟨_, Instance.result_vote h hmode, i.vote_iff pair a⟩
  case resultMissing => exact Instance.result_shfl_missing h hmissing
  case resultFound => exact Instance.result_shfl_found h hm honly hsource (Int.ofNat_lt.mp (hsource ▸ hlt))
  case resultElect => exact Instance.result_elect h
  case resultMatch => exact ⟨_, Instance.result_match h, testBit_maskOf_filter _ _ _⟩
  case resultQuiet =>
    rw [Instance.result_reduction h]
    exact (reduced_eq rnd i.fmt (i.reduction pair rnd a)).1 hquiet
  case resultLoud =>
    rw [Instance.result_reduction h]
    exact (reduced_eq rnd i.fmt (i.reduction pair rnd a)).2 hloud

end
